-- ==== Sys2Proof/Word.lean ====
section
/-! DEFINITION. The word types of the machine: 64-bit scalars, 512-bit vectors, bytes (R4, R43, R176). -/

namespace Sys2Proof

/-- A scalar register, an address, a 64-bit memory word. -/
abbrev Word := BitVec 64

/-- A vector register: 512 bits (R176). -/
abbrev Vec := BitVec 512

/-- The unit of memory (R4). -/
abbrev Byte := BitVec 8

/-- A table by number: (key, value) pairs, keys rising, default entries left out. -/
abbrev Tbl (α : Type) := List (Nat × α)

end Sys2Proof
end

