-- ==== Sys2Proof/Config.lean ====
section
/-! DEFINITION. What the spec leaves open for a device: free values (opaque, no proof sees them; log entries 5 and 6) and
the binding at ship of a device without unusable sites (log entry 4). -/

namespace Sys2Proof.Config

/-- FREE VALUE (log entry 6): bytes the spec calls undefined (an untouched byte of a new shadow, R99; a new staging
version, R381).  The argument is the counter `State.free`. -/
opaque freeByte : Nat → Byte

/-- FREE VALUE (log entry 6): which line a full instruction cache drops (R35). -/
opaque icVictim : Nat → Fin 1024

/-- FREE VALUE (log entry 7): whether a flit that ends its way in an rc does so in its second router cycle. -/
opaque secondHalf : Nat → Bool

/-- How often a link repeats a flit before it goes through (R260; log entry 45). -/
opaque linkRepeats : Nat → Fin 8

/-- What a header's CRC has picked up on the way, 0 for nothing (R269; log entry 45). -/
opaque headerNoise : Nat → BitVec 16

/-- FREE VALUE (log entry 6): what a home of a peer wafer answers a far request with: one of the codes that a home gives (R95). -/
opaque peerCode : Nat → Fin 5

/-- FREE VALUE (log entry 6): an entry of a peer wafer's page table, which its own gateways read and this wafer's see in walks only (R108). -/
opaque peerPte : Nat → BitVec 64

/-- FREE VALUE (log entry 6): whether a remote root record was built for another incarnation than the peer's; the spec does
not lay the record out (R109, R113). -/
opaque staleRoot : BitVec 512 → BitVec 16 → Bool

/-- FREE VALUE (log entry 5): the hash of image-signing key 0-3 fused in the trust block (R453). -/
opaque fusedKeyHash : Nat → BitVec 256

/-- FREE VALUE (log entry 5): whether signature (r, s) over a SHA-256 digest verifies under the image-signing key of an
index, with the hash of that key (R453, R455). -/
opaque signatureOk : Nat → BitVec 256 → BitVec 512 → Bool

/-- FREE VALUE (log entry 5): whether the key that an image's header names matches the fused hash (R455). -/
opaque keyHashOk : Nat → BitVec 256 → Bool

/-- FREE VALUE (log entry 5): the device identity key's signature over a digest (R454). -/
opaque deviceSign : BitVec 256 → BitVec 512

/-- FREE VALUE (log entry 5): the digest of what an SPDM measurement or signature covers; the spec gives its contents and not
its bytes (R454). -/
opaque spdmDigest : Nat → List Byte → BitVec 256

/-- FREE VALUE (log entry 5): the certificate chain of slot 0 (R453). -/
opaque certChain : Nat → List Byte

/-- FREE VALUE (log entry 5): the SPDM measurement of the ROM (R454). -/
opaque romMeasurement : Nat → BitVec 256

/-- FREE VALUE (log entry 4): the slack that a site's path-delay monitor measures at a voltage margin, in ps (R468). -/
opaque pathSlack : Nat → BitVec 16 → BitVec 16

/-- FREE VALUE (log entry 4): a site's ring oscillator frequency in MHz (R468). -/
opaque ringFreq : Nat → BitVec 16

/-- FREE VALUE (log entry 4): the worst eye margin of a site's link in its last training (R463). -/
opaque eyeMargin : Nat → Nat → BitVec 8

/-- FREE VALUE (log entry 6): the HBM4E channel of a physical address (R461). -/
opaque hbmChannel : Nat → Fin 64

/-- FREE VALUE (log entry 98): whether a read of HBM4E meets an error that the stack's ECC corrects (R460). -/
opaque rowError : Nat → Bool

/-- FREE VALUE (log entry 98): the HBM4E row of a physical address (R460). -/
opaque hbmRow : Nat → Nat

/-- FREE VALUE (log entry 4): the redundant lanes of a channel, by 64 × stack + channel (R461). -/
opaque redundantLanes : Nat → Nat

/-- FREE VALUE (log entry 6): how a park queue entry codes an access kind (R113 gives no code). -/
opaque accessCode : Nat → BitVec 64

/-- FREE VALUE (log entry 6): words 0 and 1 of a hotness entry, of a page, COUNT, SX, SY and QM (R107, R113 give no layout). -/
opaque hotWord : Bool → Nat → BitVec 32 → BitVec 64 → BitVec 64 → BitVec 4 → BitVec 64

/-- FREE VALUE (log entry 6): the hotness entry that two written words make (R113). -/
opaque hotOf : BitVec 64 → BitVec 64 → Nat × BitVec 32 × BitVec 64 × BitVec 64 × BitVec 4

/-- The most voltage margin firmware may set in a field, in mV (R468 names it without a value; log entry 4). -/
opaque maxMargin : Nat → Nat

/-- Control sites stand at these local positions of every field (R17). -/
def controlLocal : List (Nat × Nat) := [(5, 5), (18, 5), (5, 17), (18, 17)]

/-- The control sites' index at a local position (R17). -/
def controlIndex (lx ly : Nat) : Option Nat :=
  if (lx, ly) = (5, 5) then some 0 else if (lx, ly) = (18, 5) then some 1
  else if (lx, ly) = (5, 17) then some 2 else if (lx, ly) = (18, 17) then some 3 else none

/-- Control sites of a row sy that stand left of sx (R17). -/
def controlsLeft (sx sy : Nat) : Nat :=
  let ly := sy % 23
  if ly = 5 ∨ ly = 17 then (sx / 24) * 2 + (if sx % 24 > 5 then 1 else 0) + (if sx % 24 > 18 then 1 else 0) else 0

/-- Control sites in the rows above sy (R17). -/
def controlsAbove (sy : Nat) : Nat :=
  (sy / 23) * 32 + (if sy % 23 > 5 then 16 else 0) + (if sy % 23 > 17 then 16 else 0)

/-- Compute sites before site (sx, sy) in the sweep of R19. -/
def sweepIndex (sx sy : Nat) : Nat := sy * 192 + sx - controlsAbove sy - controlsLeft sx sy

end Sys2Proof.Config
end

