-- ==== Sys2Proof/Syntax.lean ====
section
/-! DEFINITION. The steps of the machine as syntax: one constructor per row of spec/opcode_table.json, thread
instructions with the operands their encodings hold (R43-R50), events with the place or the data they concern (ch 95). -/

namespace Sys2Proof

/-- The guard of a thread instruction: predicate number and negation (R51). -/
structure Guard where
  pg : BitVec 3
  pn : Bool
  deriving DecidableEq, Repr

/-- Element types (R45). -/
inductive Ty where
  | none | i8 | i16 | i32 | i64 | n8 | n16 | n32 | n64 | f64 | f32 | bf16 | f16
  | e4m3 | e5m2 | e3m2 | e2m3 | e2m1 | f4s | i4 | n4 | e8m0 | b1
  deriving DecidableEq, Repr

/-- Rounding modes (R46); `dyn` is code 0, the default mode of %fst. -/
inductive Rm where
  | dyn | rne | rz | rup | rdn | rna | sr
  deriving DecidableEq, Repr

/-- Nullify suffixes of control instructions (R44). -/
inductive Nul where
  | always | nt | nn
  deriving DecidableEq, Repr

/-- Comparison conditions (R198). -/
inductive Cond where
  | eq | ne | lt | le | gt | ge | un | or
  deriving DecidableEq, Repr

/-- A memory operand [sgS + xI + disp] (R50). -/
structure MemOp where
  sg : BitVec 3
  idx : BitVec 6
  disp : BitVec 32
  deriving DecidableEq, Repr

/-- Governing mask and zeroing bit of a masked vector instruction (R205). -/
structure VMask where
  z : Bool
  gm : BitVec 3
  deriving DecidableEq, Repr

/-- The bit field of BFX and BFI: LEN - 1 and LSB (R190). -/
structure BitField where
  len1 : BitVec 6
  lsb : BitVec 6
  deriving DecidableEq, Repr

/-- Source type and PART of a conversion (R209). -/
structure ConvSel where
  part : BitVec 3
  src : Ty
  deriving DecidableEq, Repr

/-- Source type, PART and HALF of VUNPK (R209). -/
structure UnpackSel where
  half : Bool
  part : BitVec 3
  src : Ty
  deriving DecidableEq, Repr

/-- Patterns of VSHUF (R220). -/
inductive Pat where
  | ziplo | ziphi | even | odd | slide | rev
  deriving DecidableEq, Repr

/-- Pattern and K of VSHUF (R220). -/
structure Shuffle where
  k : BitVec 8
  pat : Pat
  deriving DecidableEq, Repr

/-- Operations of VRED (R221). -/
inductive RedOp where
  | add | min | max | and | or | xor
  deriving DecidableEq, Repr

/-- Kinds of VSTEP (R230). -/
inductive StepKind where
  | rcp | rsq | div | sqrt
  deriving DecidableEq, Repr

/-- Map entry and bank of RECLAIM (R168). -/
structure EntryBank where
  bank : BitVec 6
  entry : BitVec 5
  deriving DecidableEq, Repr

/-- The two map entries of BMAP.swap (R168). -/
structure EntryPair where
  e2 : BitVec 5
  e : BitVec 5
  deriving DecidableEq, Repr

/-- Scopes of FENCE (R304). -/
inductive Scope where
  | slot | core | tile | crew | part | sys
  deriving DecidableEq, Repr

/-- Operations of AMO and RED (R307). -/
inductive AmoOp where
  | add | and | or | xor | min | max | swap | cas
  deriving DecidableEq, Repr

/-- Directions of LNPUSH (R256). -/
inductive Dir where
  | e | w | ew
  deriving DecidableEq, Repr

/-- The special registers of R185. -/
inductive SReg where
  | slot | core | tile | site | crew | task | unit | ucount | vcc | tstart | pvr | fst | mxc | rkey0 | rkey1
  | prio | mode | epc | enpc | ennpc | estat | ecause | eaddr
  deriving DecidableEq, Repr

/-- What a scrub found in the line it visited (R145, R146). -/
inductive EccFound where
  | clean | corrected | uncorrectable
  deriving DecidableEq, Repr

/-- Machine-check causes (R388). -/
inductive MCause where
  | watchdog | pipeline | arrayEcc | other
  deriving DecidableEq, Repr

/-- Outcomes of a self-test (R462). -/
inductive TestOutcome where
  | pass | matrixFails | banks24 | banksFew | unitFails | routerFails
  deriving DecidableEq, Repr

/-- The rows of spec/opcode_table.json: the thread instructions, then the events, each in the table's order. -/
inductive Instr where
  /-- ADD (R193). -/
  | add (g : Guard) (ty : Ty) (sat : Bool) (d : BitVec 6) (a : BitVec 6) (b : BitVec 6)
  /-- ADDI (R193). -/
  | addi (g : Guard) (ty : Ty) (sat : Bool) (d : BitVec 6) (a : BitVec 6) (imm : BitVec 32)
  /-- SUB (R193). -/
  | sub (g : Guard) (ty : Ty) (sat : Bool) (d : BitVec 6) (a : BitVec 6) (b : BitVec 6)
  /-- MUL (R193). -/
  | mul (g : Guard) (ty : Ty) (sat : Bool) (d : BitVec 6) (a : BitVec 6) (b : BitVec 6)
  /-- MUL_IMM (R54). -/
  | mulImm (g : Guard) (ty : Ty) (sat : Bool) (d : BitVec 6) (a : BitVec 6) (imm : BitVec 32)
  /-- MULH (R194). -/
  | mulh (g : Guard) (d : BitVec 6) (a : BitVec 6) (b : BitVec 6)
  /-- MULHN (R194). -/
  | mulhn (g : Guard) (d : BitVec 6) (a : BitVec 6) (b : BitVec 6)
  /-- AND (R195). -/
  | and (g : Guard) (d : BitVec 6) (a : BitVec 6) (b : BitVec 6)
  /-- AND_IMM (R54). -/
  | andImm (g : Guard) (d : BitVec 6) (a : BitVec 6) (imm : BitVec 32)
  /-- OR (R195). -/
  | or (g : Guard) (d : BitVec 6) (a : BitVec 6) (b : BitVec 6)
  /-- OR_IMM (R54). -/
  | orImm (g : Guard) (d : BitVec 6) (a : BitVec 6) (imm : BitVec 32)
  /-- XOR (R195). -/
  | xor (g : Guard) (d : BitVec 6) (a : BitVec 6) (b : BitVec 6)
  /-- XOR_IMM (R54). -/
  | xorImm (g : Guard) (d : BitVec 6) (a : BitVec 6) (imm : BitVec 32)
  /-- ANDN (R195). -/
  | andn (g : Guard) (d : BitVec 6) (a : BitVec 6) (b : BitVec 6)
  /-- ANDN_IMM (R54). -/
  | andnImm (g : Guard) (d : BitVec 6) (a : BitVec 6) (imm : BitVec 32)
  /-- SHL (R195). -/
  | shl (g : Guard) (d : BitVec 6) (a : BitVec 6) (b : BitVec 6)
  /-- SHL_IMM (R54). -/
  | shlImm (g : Guard) (d : BitVec 6) (a : BitVec 6) (imm : BitVec 32)
  /-- SHR (R195). -/
  | shr (g : Guard) (d : BitVec 6) (a : BitVec 6) (b : BitVec 6)
  /-- SHR_IMM (R54). -/
  | shrImm (g : Guard) (d : BitVec 6) (a : BitVec 6) (imm : BitVec 32)
  /-- SAR (R195). -/
  | sar (g : Guard) (d : BitVec 6) (a : BitVec 6) (b : BitVec 6)
  /-- SAR_IMM (R54). -/
  | sarImm (g : Guard) (d : BitVec 6) (a : BitVec 6) (imm : BitVec 32)
  /-- ROL (R195). -/
  | rol (g : Guard) (d : BitVec 6) (a : BitVec 6) (b : BitVec 6)
  /-- ROL_IMM (R54). -/
  | rolImm (g : Guard) (d : BitVec 6) (a : BitVec 6) (imm : BitVec 32)
  /-- MIN (R195). -/
  | min (g : Guard) (d : BitVec 6) (a : BitVec 6) (b : BitVec 6)
  /-- MIN_IMM (R54). -/
  | minImm (g : Guard) (d : BitVec 6) (a : BitVec 6) (imm : BitVec 32)
  /-- MAX (R195). -/
  | max (g : Guard) (d : BitVec 6) (a : BitVec 6) (b : BitVec 6)
  /-- MAX_IMM (R54). -/
  | maxImm (g : Guard) (d : BitVec 6) (a : BitVec 6) (imm : BitVec 32)
  /-- MINN (R195). -/
  | minn (g : Guard) (d : BitVec 6) (a : BitVec 6) (b : BitVec 6)
  /-- MINN_IMM (R54). -/
  | minnImm (g : Guard) (d : BitVec 6) (a : BitVec 6) (imm : BitVec 32)
  /-- MAXN (R195). -/
  | maxn (g : Guard) (d : BitVec 6) (a : BitVec 6) (b : BitVec 6)
  /-- MAXN_IMM (R54). -/
  | maxnImm (g : Guard) (d : BitVec 6) (a : BitVec 6) (imm : BitVec 32)
  /-- CMP (R198). -/
  | cmp (g : Guard) (ty : Ty) (cond : Cond) (d : BitVec 3) (a : BitVec 6) (b : BitVec 6)
  /-- CMP_IMM (R198). -/
  | cmpImm (g : Guard) (ty : Ty) (cond : Cond) (d : BitVec 3) (a : BitVec 6) (imm : BitVec 32)
  /-- SEL (R199). -/
  | sel (g : Guard) (d : BitVec 6) (a : BitVec 6) (b : BitVec 6) (c : BitVec 3)
  /-- MOV (R199). -/
  | mov (g : Guard) (d : BitVec 6) (a : BitVec 6)
  /-- MOVI (R199). -/
  | movi (g : Guard) (d : BitVec 6) (imm : BitVec 32)
  /-- MOVH (R199). -/
  | movh (g : Guard) (d : BitVec 6) (imm : BitVec 32)
  /-- LEA (R200). -/
  | lea (g : Guard) (d : BitVec 6) (mem : MemOp)
  /-- CLZ (R196). -/
  | clz (g : Guard) (d : BitVec 6) (a : BitVec 6)
  /-- CTZ (R196). -/
  | ctz (g : Guard) (d : BitVec 6) (a : BitVec 6)
  /-- POPC (R196). -/
  | popc (g : Guard) (d : BitVec 6) (a : BitVec 6)
  /-- BFX (R196). -/
  | bfx (g : Guard) (sx : Bool) (d : BitVec 6) (a : BitVec 6) (bf : BitField)
  /-- BFI (R196). -/
  | bfi (g : Guard) (d : BitVec 6) (a : BitVec 6) (bf : BitField)
  /-- SEXT (R196). -/
  | sext (g : Guard) (ty : Ty) (d : BitVec 6) (a : BitVec 6)
  /-- ZEXT (R196). -/
  | zext (g : Guard) (ty : Ty) (d : BitVec 6) (a : BitVec 6)
  /-- DIVSTEP (R197). -/
  | divstep (g : Guard) (q : Bool) (d : BitVec 6) (a : BitVec 6) (b : BitVec 6) (c : BitVec 6) (j : BitVec 3)
  /-- PSET (R199). -/
  | pset (g : Guard) (d : BitVec 3) (a : BitVec 6)
  /-- PAND (R199). -/
  | pand (g : Guard) (d : BitVec 3) (a : BitVec 3) (b : BitVec 3)
  /-- POR (R199). -/
  | por (g : Guard) (d : BitVec 3) (a : BitVec 3) (b : BitVec 3)
  /-- PXOR (R199). -/
  | pxor (g : Guard) (d : BitVec 3) (a : BitVec 3) (b : BitVec 3)
  /-- PNOT (R199). -/
  | pnot (g : Guard) (d : BitVec 3) (a : BitVec 3)
  /-- MFS (R201). -/
  | mfs (g : Guard) (d : BitVec 6) (sr : SReg)
  /-- MTS (R201). -/
  | mts (g : Guard) (sr : SReg) (a : BitVec 6)
  /-- VADD (R211). -/
  | vadd (g : Guard) (ty : Ty) (rm : Rm) (sat : Bool) (vm : VMask) (d : BitVec 6) (a : BitVec 6) (b : BitVec 6)
  /-- VSUB (R211). -/
  | vsub (g : Guard) (ty : Ty) (rm : Rm) (sat : Bool) (vm : VMask) (d : BitVec 6) (a : BitVec 6) (b : BitVec 6)
  /-- VMUL (R211). -/
  | vmul (g : Guard) (ty : Ty) (rm : Rm) (sat : Bool) (vm : VMask) (d : BitVec 6) (a : BitVec 6) (b : BitVec 6)
  /-- VFMA (R211). -/
  | vfma (g : Guard) (ty : Ty) (rm : Rm) (sat : Bool) (vm : VMask) (d : BitVec 6) (a : BitVec 6) (b : BitVec 6) (c : BitVec 6)
  /-- VFMS (R211). -/
  | vfms (g : Guard) (ty : Ty) (rm : Rm) (sat : Bool) (vm : VMask) (d : BitVec 6) (a : BitVec 6) (b : BitVec 6) (c : BitVec 6)
  /-- VMIN (R213). -/
  | vmin (g : Guard) (ty : Ty) (vm : VMask) (d : BitVec 6) (a : BitVec 6) (b : BitVec 6)
  /-- VMAX (R213). -/
  | vmax (g : Guard) (ty : Ty) (vm : VMask) (d : BitVec 6) (a : BitVec 6) (b : BitVec 6)
  /-- VABS (R213). -/
  | vabs (g : Guard) (ty : Ty) (sat : Bool) (vm : VMask) (d : BitVec 6) (a : BitVec 6)
  /-- VNEG (R213). -/
  | vneg (g : Guard) (ty : Ty) (sat : Bool) (vm : VMask) (d : BitVec 6) (a : BitVec 6)
  /-- VCMP (R215). -/
  | vcmp (g : Guard) (ty : Ty) (cond : Cond) (vm : VMask) (d : BitVec 3) (a : BitVec 6) (b : BitVec 6)
  /-- VSEL (R216). -/
  | vsel (g : Guard) (vm : VMask) (d : BitVec 6) (a : BitVec 6) (b : BitVec 6) (c : BitVec 3)
  /-- VMULH (R212). -/
  | vmulh (g : Guard) (ty : Ty) (vm : VMask) (d : BitVec 6) (a : BitVec 6) (b : BitVec 6)
  /-- VCLZ (R214). -/
  | vclz (g : Guard) (ty : Ty) (vm : VMask) (d : BitVec 6) (a : BitVec 6)
  /-- VPOPC (R214). -/
  | vpopc (g : Guard) (ty : Ty) (vm : VMask) (d : BitVec 6) (a : BitVec 6)
  /-- VAVG (R212). -/
  | vavg (g : Guard) (ty : Ty) (vm : VMask) (d : BitVec 6) (a : BitVec 6) (b : BitVec 6)
  /-- VSHL (R214). -/
  | vshl (g : Guard) (ty : Ty) (vm : VMask) (d : BitVec 6) (a : BitVec 6) (b : BitVec 6)
  /-- VSHR (R214). -/
  | vshr (g : Guard) (ty : Ty) (vm : VMask) (d : BitVec 6) (a : BitVec 6) (b : BitVec 6)
  /-- VSAR (R214). -/
  | vsar (g : Guard) (ty : Ty) (vm : VMask) (d : BitVec 6) (a : BitVec 6) (b : BitVec 6)
  /-- VAND (R214). -/
  | vand (g : Guard) (vm : VMask) (d : BitVec 6) (a : BitVec 6) (b : BitVec 6)
  /-- VOR (R214). -/
  | vor (g : Guard) (vm : VMask) (d : BitVec 6) (a : BitVec 6) (b : BitVec 6)
  /-- VXOR (R214). -/
  | vxor (g : Guard) (vm : VMask) (d : BitVec 6) (a : BitVec 6) (b : BitVec 6)
  /-- VPERM (R218). -/
  | vperm (g : Guard) (ty : Ty) (vm : VMask) (d : BitVec 6) (a : BitVec 6) (b : BitVec 6) (c : BitVec 6)
  /-- VBCAST (R219). -/
  | vbcast (g : Guard) (ty : Ty) (ramp : Bool) (vm : VMask) (d : BitVec 6) (b : BitVec 6)
  /-- VBCAST_IMM (R219). -/
  | vbcastImm (g : Guard) (ty : Ty) (ramp : Bool) (vm : VMask) (d : BitVec 6) (imm : BitVec 32)
  /-- VSHUF (R220). -/
  | vshuf (g : Guard) (ty : Ty) (sh : Shuffle) (vm : VMask) (d : BitVec 6) (a : BitVec 6) (b : BitVec 6)
  /-- VRED (R221). -/
  | vred (g : Guard) (ty : Ty) (rm : Rm) (sat : Bool) (op : RedOp) (mk : BitVec 3) (d : BitVec 6) (a : BitVec 6)
  /-- VDOT (R222). -/
  | vdot (g : Guard) (ty : Ty) (rm : Rm) (mk : BitVec 3) (d : BitVec 6) (a : BitVec 6) (b : BitVec 6) (c : BitVec 6)
  /-- VCVT (R223). -/
  | vcvt (g : Guard) (ty : Ty) (rm : Rm) (sat : Bool) (cv : ConvSel) (vm : VMask) (d : BitVec 6) (a : BitVec 6)
  /-- VSRND (R224). -/
  | vsrnd (g : Guard) (ty : Ty) (sat : Bool) (cv : ConvSel) (vm : VMask) (d : BitVec 6) (a : BitVec 6) (c : BitVec 6) (k : BitVec 5)
  /-- VPACK (R226). -/
  | vpack (g : Guard) (ty : Ty) (rm : Rm) (sat : Bool) (cv : ConvSel) (d : BitVec 6) (a : BitVec 6) (b : BitVec 6) (c : BitVec 6)
  /-- VUNPK (R228). -/
  | vunpk (g : Guard) (ty : Ty) (rm : Rm) (sat : Bool) (cv : UnpackSel) (d : BitVec 6) (a : BitVec 6) (b : BitVec 6)
  /-- VSCALE (R225). -/
  | vscale (g : Guard) (ty : Ty) (src : Ty) (d : BitVec 6) (a : BitVec 6) (c : BitVec 6)
  /-- VRCP (R229). -/
  | vrcp (g : Guard) (ty : Ty) (vm : VMask) (d : BitVec 6) (a : BitVec 6)
  /-- VRSQ (R229). -/
  | vrsq (g : Guard) (ty : Ty) (vm : VMask) (d : BitVec 6) (a : BitVec 6)
  /-- VEXP2 (R229). -/
  | vexp2 (g : Guard) (ty : Ty) (vm : VMask) (d : BitVec 6) (a : BitVec 6)
  /-- VLOG2 (R229). -/
  | vlog2 (g : Guard) (ty : Ty) (vm : VMask) (d : BitVec 6) (a : BitVec 6)
  /-- VSTEP (R230). -/
  | vstep (g : Guard) (ty : Ty) (rm : Rm) (sat : Bool) (kind : StepKind) (vm : VMask) (d : BitVec 6) (a : BitVec 6) (b : BitVec 6) (c : BitVec 6)
  /-- VRNG (R232). -/
  | vrng (g : Guard) (vm : VMask) (d : BitVec 6) (a : BitVec 6) (b : BitVec 6)
  /-- MAND (R217). -/
  | mand (g : Guard) (d : BitVec 3) (a : BitVec 3) (b : BitVec 3)
  /-- MOR (R217). -/
  | mor (g : Guard) (d : BitVec 3) (a : BitVec 3) (b : BitVec 3)
  /-- MNOT (R217). -/
  | mnot (g : Guard) (d : BitVec 3) (a : BitVec 3)
  /-- LD (R164). -/
  | ld (g : Guard) (ty : Ty) (d : BitVec 6) (mem : MemOp)
  /-- ST (R164). -/
  | st (g : Guard) (ty : Ty) (b : BitVec 6) (mem : MemOp)
  /-- LDV (R164). -/
  | ldv (g : Guard) (d : BitVec 6) (mem : MemOp)
  /-- STV (R164). -/
  | stv (g : Guard) (b : BitVec 6) (mk : BitVec 3) (mem : MemOp)
  /-- LDG (R164). -/
  | ldg (g : Guard) (ty : Ty) (d : BitVec 6) (mem : MemOp)
  /-- LDG_V (R164). -/
  | ldgV (g : Guard) (d : BitVec 6) (mem : MemOp)
  /-- STS (R164). -/
  | sts (g : Guard) (ty : Ty) (b : BitVec 6) (mem : MemOp)
  /-- STS_V (R164). -/
  | stsV (g : Guard) (b : BitVec 6) (mk : BitVec 3) (mem : MemOp)
  /-- STMASK (R165). -/
  | stmask (g : Guard) (b : BitVec 3) (mem : MemOp)
  /-- STMASK_P (R165). -/
  | stmaskP (g : Guard) (mem : MemOp)
  /-- SIG (R166). -/
  | sig (g : Guard) (b : BitVec 6) (mem : MemOp)
  /-- WATCH (R167). -/
  | watch (g : Guard) (d : BitVec 6) (mem : MemOp)
  /-- UNWATCH (R167). -/
  | unwatch (g : Guard) (mem : MemOp)
  /-- UNWATCH_ALL (R167). -/
  | unwatchAll (g : Guard)
  /-- GIVE (R170). -/
  | give (g : Guard) (d : BitVec 6) (a : BitVec 6) (e : BitVec 5)
  /-- GIVE_NB (R170). -/
  | giveNb (g : Guard) (d : BitVec 6) (a : BitVec 6) (e : BitVec 5)
  /-- RECLAIM (R171). -/
  | reclaim (g : Guard) (d : BitVec 6) (eb : EntryBank)
  /-- RECLAIM_NB (R171). -/
  | reclaimNb (g : Guard) (d : BitVec 6) (eb : EntryBank)
  /-- BMAP_READ (R172). -/
  | bmapRead (g : Guard) (d : BitVec 6) (e : BitVec 5)
  /-- BMAP_SWAP (R172). -/
  | bmapSwap (g : Guard) (ee : EntryPair)
  /-- BMAP_SET (R172). -/
  | bmapSet (g : Guard) (a : BitVec 6) (e : BitVec 5)
  /-- BMAP_BANK (R172). -/
  | bmapBank (g : Guard) (d : BitVec 6) (b : BitVec 6)
  /-- DRAIN (R173). -/
  | drain (g : Guard)
  /-- DRAIN_BANK (R173). -/
  | drainBank (g : Guard) (e : BitVec 5)
  /-- PHASE (R309). -/
  | phase (g : Guard) (d : BitVec 6)
  /-- PHASE_T (R309). -/
  | phaseT (g : Guard) (imm : BitVec 32)
  /-- FENCE (R304). -/
  | fence (g : Guard) (sc : Scope)
  /-- AMO (R310). -/
  | amo (g : Guard) (ty : Ty) (op : AmoOp) (d : BitVec 6) (b : BitVec 6) (mem : MemOp)
  /-- RED (R310). -/
  | red (g : Guard) (ty : Ty) (op : AmoOp) (b : BitVec 6) (mem : MemOp)
  /-- LRW (R311). -/
  | lrw (g : Guard) (d : BitVec 6) (pd : BitVec 3) (mem : MemOp)
  /-- SCH (R311). -/
  | sch (g : Guard) (b : BitVec 6) (mem : MemOp)
  /-- RELQ (R311). -/
  | relq (g : Guard) (mem : MemOp)
  /-- NOP (R325). -/
  | nop (g : Guard)
  /-- BR (R323). -/
  | br (g : Guard) (nul : Nul) (imm : BitVec 32)
  /-- BRA (R323). -/
  | bra (g : Guard) (nul : Nul) (imm : BitVec 32)
  /-- BRX (R323). -/
  | brx (g : Guard) (nul : Nul) (a : BitVec 6) (imm : BitVec 32)
  /-- CALL (R323). -/
  | call (g : Guard) (nul : Nul) (imm : BitVec 32)
  /-- CALL_R (R323). -/
  | callR (g : Guard) (nul : Nul) (a : BitVec 6) (imm : BitVec 32)
  /-- RET (R323). -/
  | ret (g : Guard) (nul : Nul) (a : BitVec 6)
  /-- BRK (R324). -/
  | brk (g : Guard) (x : BitVec 16)
  /-- MMA (R243). -/
  | mma (g : Guard) (ty : Ty) (z : Bool) (sat : Bool) (d : BitVec 4) (a : BitVec 6) (b : BitVec 6) (c : BitVec 6)
  /-- MMAT (R243). -/
  | mmat (g : Guard) (ty : Ty) (z : Bool) (sat : Bool) (d : BitVec 4) (a : BitVec 6) (b : BitVec 6) (c : BitVec 6) (x : BitVec 16) (imm : BitVec 32)
  /-- MZERO (R248). -/
  | mzero (g : Guard) (ty : Ty) (d : BitVec 4)
  /-- MLDC (R248). -/
  | mldc (g : Guard) (ty : Ty) (d : BitVec 4) (a : BitVec 6)
  /-- MSTC (R249). -/
  | mstc (g : Guard) (ty : Ty) (rm : Rm) (sat : Bool) (d : BitVec 6) (a : BitVec 4)
  /-- LNPUSH (R255). -/
  | lnpush (g : Guard) (dir : Dir) (a : BitVec 6)
  /-- LNPUSH_T (R255). -/
  | lnpushT (g : Guard) (dir : Dir) (a : BitVec 6) (imm : BitVec 32)
  /-- LNCFG (R256). -/
  | lncfg (g : Guard) (d : BitVec 6)
  /-- LNCFG_SET (R256). -/
  | lncfgSet (g : Guard) (d : BitVec 6) (a : BitVec 6)
  /-- TDEF (R136). -/
  | tdef (g : Guard) (d : BitVec 6) (mem : MemOp)
  /-- TGET (R137). -/
  | tget (g : Guard) (d : BitVec 6) (a : BitVec 6) (w : BitVec 3)
  /-- TSEQ (R138). -/
  | tseq (g : Guard) (d : BitVec 6) (a : BitVec 6) (imm : BitVec 32)
  /-- TSEQ_ADD (R138). -/
  | tseqAdd (g : Guard) (d : BitVec 6) (a : BitVec 6) (imm : BitVec 32)
  /-- TSEQ_BAR (R138). -/
  | tseqBar (g : Guard) (d : BitVec 6) (a : BitVec 6) (imm : BitVec 32)
  /-- COPY (R140). -/
  | copy (g : Guard) (edge : Bool) (out : Bool) (tm : Bool) (d : BitVec 6) (a : BitVec 6) (b : BitVec 6) (c : BitVec 6) (x : BitVec 16) (imm : BitVec 32)
  /-- GATH (R141). -/
  | gath (g : Guard) (edge : Bool) (tm : Bool) (d : BitVec 6) (a : BitVec 6) (b : BitVec 6) (c : BitVec 6) (x : BitVec 16) (imm : BitVec 32)
  /-- SCAT (R141). -/
  | scat (g : Guard) (edge : Bool) (tm : Bool) (d : BitVec 6) (a : BitVec 6) (b : BitVec 6) (c : BitVec 6) (x : BitVec 16) (imm : BitVec 32)
  /-- PUBL (R142). -/
  | publ (g : Guard) (tm : Bool) (a : BitVec 6) (b : BitVec 6) (c : BitVec 6) (x : BitVec 16) (imm : BitVec 32)
  /-- BARI (R144). -/
  | bari (g : Guard) (b : BitVec 6) (mem : MemOp)
  /-- BARW (R144). -/
  | barw (g : Guard) (d : BitVec 6) (b : BitVec 6) (mem : MemOp)
  /-- BARW_NF (R144). -/
  | barwNf (g : Guard) (d : BitVec 6) (b : BitVec 6) (mem : MemOp)
  /-- BARQ (R144). -/
  | barq (g : Guard) (d : BitVec 6) (mem : MemOp)
  /-- SEND (R283). -/
  | send (g : Guard) (tm : Bool) (a : BitVec 6) (b : BitVec 6) (c : BitVec 6) (len : BitVec 13) (imm : BitVec 32)
  /-- SEND_SIG (R283). -/
  | sendSig (g : Guard) (tm : Bool) (a : BitVec 6) (b : BitVec 6) (c : BitVec 6) (imm : BitVec 32)
  /-- SENDS (R284). -/
  | sends (g : Guard) (tm : Bool) (d : BitVec 6) (a : BitVec 6) (b : BitVec 6) (c : BitVec 6) (x : BitVec 16) (imm : BitVec 32)
  /-- MCAST (R285). -/
  | mcast (g : Guard) (tm : Bool) (d : BitVec 6) (a : BitVec 6) (b : BitVec 6) (c : BitVec 6) (len : BitVec 13) (imm : BitVec 32)
  /-- IBPOP (R286). -/
  | ibpop (g : Guard) (d : BitVec 6) (ibx : BitVec 4)
  /-- IBPOP_NW (R286). -/
  | ibpopNw (g : Guard) (d : BitVec 6) (ibx : BitVec 4)
  /-- IBPOP_FREE (R286). -/
  | ibpopFree (g : Guard) (a : BitVec 6) (ibx : BitVec 4)
  /-- HOP (R289). -/
  | hop (g : Guard) (np : Bool) (a : BitVec 6) (core : BitVec 3)
  /-- CHAN_OPEN (R287). -/
  | chanOpen (g : Guard) (d : BitVec 6) (a : BitVec 6) (ch : BitVec 6)
  /-- CHAN_IBX (R287). -/
  | chanIbx (g : Guard) (d : BitVec 6) (a : BitVec 6) (ibx : BitVec 4)
  /-- CHAN_QCH (R287). -/
  | chanQch (g : Guard) (d : BitVec 6) (ch : BitVec 6)
  /-- CHAN_QIB (R287). -/
  | chanQib (g : Guard) (d : BitVec 6) (ibx : BitVec 4)
  /-- RTWR_RB (R290). -/
  | rtwrRb (g : Guard) (a : BitVec 6) (b : BitVec 6) (c : BitVec 6)
  /-- RTWR_DT (R290). -/
  | rtwrDt (g : Guard) (a : BitVec 6) (b : BitVec 6) (c : BitVec 6)
  /-- RTWR_SR (R290). -/
  | rtwrSr (g : Guard) (a : BitVec 6) (b : BitVec 6) (c : BitVec 6)
  /-- SPAWN (R359). -/
  | spawn (g : Guard) (d : BitVec 6) (a : BitVec 6) (b : BitVec 6) (imm : BitVec 32)
  /-- REAP (R360). -/
  | reap (g : Guard) (d : BitVec 6) (a : BitVec 6) (pd : BitVec 3)
  /-- REAP_NB (R360). -/
  | reapNb (g : Guard) (d : BitVec 6) (a : BitVec 6) (pd : BitVec 3)
  /-- REAP_KILL (R360). -/
  | reapKill (g : Guard) (d : BitVec 6) (a : BitVec 6) (pd : BitVec 3)
  /-- YIELD (R361). -/
  | yield (g : Guard)
  /-- SLEEP (R362). -/
  | sleep (g : Guard) (d : BitVec 6) (a : BitVec 6)
  /-- WAKE (R362). -/
  | wake (g : Guard) (a : BitVec 6)
  /-- WAKE_ALL (R362). -/
  | wakeAll (g : Guard)
  /-- RFORK (R363). -/
  | rfork (g : Guard) (d : BitVec 6) (a : BitVec 6) (b : BitVec 6) (c : BitVec 3) (imm : BitVec 32)
  /-- JOIN (R364). -/
  | join (g : Guard) (a : BitVec 6) (c : BitVec 3) (imm : BitVec 32)
  /-- KNOT_SET (R365). -/
  | knotSet (g : Guard) (b : BitVec 6) (mem : MemOp)
  /-- KNOT_ADD (R365). -/
  | knotAdd (g : Guard) (b : BitVec 6) (mem : MemOp)
  /-- KNOT_HOLD (R365). -/
  | knotHold (g : Guard) (b : BitVec 6) (mem : MemOp)
  /-- KNOT_RD (R365). -/
  | knotRd (g : Guard) (d : BitVec 6) (mem : MemOp)
  /-- KNOT_WAIT (R365). -/
  | knotWait (g : Guard) (d : BitVec 6) (mem : MemOp)
  /-- LAUNCH (R367). -/
  | launch (g : Guard) (d : BitVec 6) (mem : MemOp)
  /-- LAUNCH_NB (R367). -/
  | launchNb (g : Guard) (d : BitVec 6) (mem : MemOp)
  /-- TASKEND (R366). -/
  | taskend (g : Guard) (a : BitVec 6)
  /-- VSTAGE (R381). -/
  | vstage (g : Guard) (d : BitVec 6)
  /-- VPUB (R382). -/
  | vpub (g : Guard) (d : BitVec 6) (a : BitVec 6)
  /-- VDISCARD (R382). -/
  | vdiscard (g : Guard) (d : BitVec 6) (a : BitVec 6)
  /-- VRETIRE (R382). -/
  | vretire (g : Guard) (d : BitVec 6) (a : BitVec 6)
  /-- VADOPT (R384). -/
  | vadopt (g : Guard) (imm : BitVec 32)
  /-- VQRY (R383). -/
  | vqry (g : Guard) (d : BitVec 6) (a : BitVec 6)
  /-- VQRY_SET (R383). -/
  | vqrySet (g : Guard) (d : BitVec 6)
  /-- SAMPLE (R385). -/
  | sample (g : Guard) (d : BitVec 6) (b : BitVec 6) (e : BitVec 6) (mem : MemOp)
  /-- TRAP (R406). -/
  | trap (g : Guard) (x : BitVec 16)
  /-- ERET (R408). -/
  | eret (g : Guard)
  /-- ERET_KILL (R408). -/
  | eretKill (g : Guard) (a : BitVec 6)
  /-- RESUME (R408). -/
  | resume (g : Guard)
  /-- SWPO (R409). -/
  | swpo (g : Guard) (d : BitVec 6) (a : BitVec 6)
  /-- SWPO_FAR (R409). -/
  | swpoFar (g : Guard) (d : BitVec 6) (a : BitVec 6) (b : BitVec 6)
  /-- SWPI (R409). -/
  | swpi (g : Guard) (d : BitVec 6) (a : BitVec 6) (b : BitVec 6)
  /-- SWPI_Q (R409). -/
  | swpiQ (g : Guard) (d : BitVec 6) (a : BitVec 6) (b : BitVec 6)
  /-- SWPI_FAR (R409). -/
  | swpiFar (g : Guard) (q : Bool) (d : BitVec 6) (a : BitVec 6) (b : BitVec 6)
  /-- STOP_CREW (R410). -/
  | stopCrew (g : Guard) (d : BitVec 6) (a : BitVec 6)
  /-- STOP_PART (R410). -/
  | stopPart (g : Guard) (d : BitVec 6) (a : BitVec 6)
  /-- STOP_GO (R410). -/
  | stopGo (g : Guard) (d : BitVec 6) (a : BitVec 6)
  /-- RDREC (R411). -/
  | rdrec (g : Guard) (d : BitVec 6) (a : BitVec 6) (w : BitVec 2)
  /-- TWIN (R407). -/
  | twin (g : Guard) (d : BitVec 6)
  /-- TWIN_NW (R407). -/
  | twinNw (g : Guard) (d : BitVec 6)
  /-- SEGLD (R203). -/
  | segld (g : Guard) (d : BitVec 3) (a : BitVec 6) (imm : BitVec 32)
  /-- SEGLD_RD (R203). -/
  | segldRd (g : Guard) (d : BitVec 6) (a : BitVec 3) (w : BitVec 2)
  /-- SEGST (R203). -/
  | segst (g : Guard) (d : BitVec 3) (a : BitVec 6) (b : BitVec 6) (c : BitVec 6)
  /-- BLAY (R436). -/
  | blay (g : Guard) (d : BitVec 6)
  /-- BLAY_W (R436). -/
  | blayW (g : Guard) (d : BitVec 6)
  /-- BLAY_DEEP (R436). -/
  | blayDeep (g : Guard) (d : BitVec 6)
  /-- BLQ (R437). -/
  | blq (g : Guard) (d : BitVec 6) (which : BitVec 3)
  /-- ISSUE_TURN (R332). -/
  | issueTurn (core : Nat)
  /-- LINE_FETCH (R317). -/
  | lineFetch (core : Nat) (addr : Word)
  /-- SCHEDULER_DECISION (R337). -/
  | schedulerDecision (core : Nat)
  /-- SWAP_COMPLETE (R338). -/
  | swapComplete (core : Nat)
  /-- TRAP_RECORD_ARRIVAL (R392). -/
  | trapRecordArrival (n : Nat)
  /-- VCC_TICK (R340). -/
  | vccTick (tile : Nat)
  /-- VCC_OVERFLOW (R344). -/
  | vccOverflow (crew : Nat)
  /-- SITE_COUNTER_TICK (R481). -/
  | siteCounterTick (site : Nat)
  /-- SLEEP_DEADLINE (R362). -/
  | sleepDeadline (ctx : Nat)
  /-- TIMED_COMMAND_START (R130). -/
  | timedCommandStart (core : Nat) (i : Nat)
  /-- UNTIMED_COMMAND_START (R129). -/
  | untimedCommandStart (core : Nat)
  /-- ENGINE_LINE_MOVE (R129). -/
  | engineLineMove (core : Nat) (i : Nat)
  /-- BARRIER_ARRIVAL (R125). -/
  | barrierArrival (n : Nat)
  /-- ENGINE_OPERATION_START (R242). -/
  | engineOperationStart (core : Nat)
  /-- MATRIX_LINE_FETCH (R240). -/
  | matrixLineFetch (core : Nat)
  /-- MATRIX_OPERATION_COMPLETE (R240). -/
  | matrixOperationComplete (core : Nat)
  /-- LINK_WORD_ARRIVAL (R252). -/
  | linkWordArrival (core : Nat) (east : Bool)
  /-- LINK_CREDIT_RETURN (R252). -/
  | linkCreditReturn (core : Nat) (east : Bool)
  /-- VAULT_REQUEST_ARRIVAL (R154). -/
  | vaultRequestArrival (n : Nat)
  /-- VAULT_REPLY_ARRIVAL (R154). -/
  | vaultReplyArrival (n : Nat)
  /-- IMMEDIATE_WRITE_LANDING (R301). -/
  | immediateWriteLanding (n : Nat)
  /-- RESERVATION_GRANT (R311). -/
  | reservationGrant (n : Nat)
  /-- ECC_SCRUB (R145). -/
  | eccScrub (site : Nat) (bank : Nat) (line : Nat) (found : EccFound)
  /-- ARRAY_ECC_UNCORRECTABLE (R146). -/
  | arrayEccUncorrectable (site : Nat) (bank : Nat) (line : Nat)
  /-- PHASE_CLOSE (R296). -/
  | phaseClose (crew : Nat)
  /-- PHASE_LINE_APPLY (R299). -/
  | phaseLineApply (core : Nat) (i : Nat)
  /-- PHASE_CLOSE_COMPLETE (R296). -/
  | phaseCloseComplete (crew : Nat)
  /-- FAR_REQUEST_TRANSLATE (R93). -/
  | farRequestTranslate (n : Nat)
  /-- PAGE_WALK_COMPLETE (R90). -/
  | pageWalkComplete (field : Nat) (i : Nat)
  /-- PARKACT (R96). -/
  | parkact (field : Nat) (v : Word)
  /-- PARKING_END (R402). -/
  | parkingEnd (ctx : Nat)
  /-- GWINV (R94). -/
  | gwinv (field : Nat) (v : Word)
  /-- GWINV_DONE (R94). -/
  | gwinvDone (field : Nat)
  /-- HOME_WRITE (R99). -/
  | homeWrite (n : Nat)
  /-- HOME_WRITE_RETRY (R100). -/
  | homeWriteRetry (home : Nat) (i : Nat)
  /-- HOME_PUBL (R99). -/
  | homePubl (n : Nat)
  /-- HOME_READ (R101). -/
  | homeRead (n : Nat)
  /-- FAR_ATOMIC_AT_HOME (R105). -/
  | farAtomicAtHome (n : Nat)
  /-- FAR_REPLY_ARRIVAL (R97). -/
  | farReplyArrival (n : Nat)
  /-- FAR_MEDIA_ERROR (R106). -/
  | farMediaError (n : Nat)
  /-- COMMIT_NOTICE_AT_HOME (R102). -/
  | commitNoticeAtHome (n : Nat)
  /-- HOTNESS_DECAY (R107). -/
  | hotnessDecay (home : Nat)
  /-- ROUTER_FLIT_FORWARD (R262). -/
  | routerFlitForward (n : Nat)
  /-- MESH_LINK_DOWN (R260). -/
  | meshLinkDown (site : Nat) (port : Nat)
  /-- STATIC_ROUTE_FLIT_LANDING (R284). -/
  | staticRouteFlitLanding (n : Nat)
  /-- MESSAGE_RECEIVE (R275). -/
  | messageReceive (n : Nat)
  /-- ACK_RECEIVE (R276). -/
  | ackReceive (n : Nat)
  /-- NACK_FULL_RECEIVE (R276). -/
  | nackFullReceive (n : Nat)
  /-- NACK_ORDER_RECEIVE (R276). -/
  | nackOrderReceive (n : Nat)
  /-- NACK_FENCED_RECEIVE (R276). -/
  | nackFencedReceive (n : Nat)
  /-- NACK_REPLAY_RECEIVE (R276). -/
  | nackReplayReceive (n : Nat)
  /-- RESEND_DELAY_EXPIRY (R276). -/
  | resendDelayExpiry (tile : Nat) (i : Nat)
  /-- REBIND_CHANGE_RESEND (R276). -/
  | rebindChangeResend (tile : Nat) (i : Nat)
  /-- RETRANSMIT_TIMEOUT (R276). -/
  | retransmitTimeout (tile : Nat) (i : Nat)
  /-- HOP_ARRIVAL (R289). -/
  | hopArrival (n : Nat)
  /-- HOP_REPLY (R289). -/
  | hopReply (n : Nat)
  /-- MCAST_REPLICA_LANDING (R285). -/
  | mcastReplicaLanding (n : Nat)
  /-- REBIND_FLOOD (R290). -/
  | rebindFlood (site : Nat) (i : Nat)
  /-- TASK_DISPATCH (R345). -/
  | taskDispatch (part : Nat)
  /-- IMAGE_LOAD_COMPLETE (R340). -/
  | imageLoadComplete (crew : Nat)
  /-- LAUNCH_CUT (R415). -/
  | launchCut (crew : Nat)
  /-- TASK_END (R352). -/
  | taskEnd (crew : Nat)
  /-- HELD_BLOCK_POST (R354). -/
  | heldBlockPost (part : Nat)
  /-- BELAY_CUT (R416). -/
  | belayCut (crew : Nat)
  /-- CANDIDATE_ANSWER (R377). -/
  | candidateAnswer (n : Nat)
  /-- CUT_STREAM_LINE (R417). -/
  | cutStreamLine (tile : Nat)
  /-- CUT_PREPARED (R418). -/
  | cutPrepared (tile : Nat)
  /-- COMMIT_DECISION (R418). -/
  | commitDecision (crew : Nat)
  /-- CUT_APPLY (R418). -/
  | cutApply (tile : Nat)
  /-- REGULAR_CUT_DUE (R415). -/
  | regularCutDue (crew : Nat)
  /-- WATCHDOG_FIRE (R425). -/
  | watchdogFire (tile : Nat)
  /-- RESIDUE_MISMATCH (R459). -/
  | residueMismatch (site : Nat) (core : Nat) (unit : Nat) (sub : Nat)
  /-- MACHINE_CHECK (R426). -/
  | machineCheck (site : Nat) (cause : MCause)
  /-- SPLICE (R428). -/
  | splice (site : Nat)
  /-- REPLAY_END (R431). -/
  | replayEnd (crew : Nat)
  /-- HALT_COMPLETE (R399). -/
  | haltComplete (crew : Nat)
  /-- PARTITION_RECONFIGURATION (R433). -/
  | partitionReconfiguration (part : Nat) (base : Nat) (count : Nat)
  /-- DEEP_BELAY_IMAGE_WRITTEN (R434). -/
  | deepBelayImageWritten
  /-- DEEP_RESTORE (R434). -/
  | deepRestore
  /-- ADOPTION (R379). -/
  | adoption (tile : Nat)
  /-- VERSION_HOME_REQUEST (R371). -/
  | versionHomeRequest (n : Nat)
  /-- FIELD_POWER_LOSS (R30). -/
  | fieldPowerLoss (field : Nat)
  /-- DEVICE_RESET (R446). -/
  | deviceReset
  /-- POWER_GOOD (R451). -/
  | powerGood
  /-- STAGE_ONE_ENTRY (R451). -/
  | stageOneEntry (recovery : Bool)
  /-- FIELD_JOIN (R452). -/
  | fieldJoin (field : Nat) (failed : List Nat)
  /-- FIELD_GIVEN_UP (R452). -/
  | fieldGivenUp (field : Nat)
  /-- THERMAL_THROTTLE (R469). -/
  | thermalThrottle (field : Nat)
  /-- THERMAL_SHUTDOWN (R469). -/
  | thermalShutdown (field : Nat)
  /-- DROOP_STRETCH (R343). -/
  | droopStretch (field : Nat) (cycles : Nat)
  /-- MARGIN_REPLAN (R468). -/
  | marginReplan (field : Nat) (mv : BitVec 16)
  /-- HBM_REPAIR_START (R461). -/
  | hbmRepairStart (stack : Nat) (channel : Nat)
  /-- HBM_REPAIR_DONE (R461). -/
  | hbmRepairDone (stack : Nat) (channel : Nat)
  /-- SELF_TEST_START (R462). -/
  | selfTestStart (site : Nat)
  /-- SELF_TEST_COMPLETE (R462). -/
  | selfTestComplete (site : Nat) (outcome : TestOutcome)
  /-- CXL_PORT_DOWN (R447). -/
  | cxlPortDown (port : Nat)
  /-- CXL_PORT_UP (R447). -/
  | cxlPortUp (port : Nat) (lanes : BitVec 8) (rate : BitVec 8) (gb : BitVec 16)
  /-- FOLVIBEL_LINK_TRAIN (R448). -/
  | folvibelLinkTrain (port : Nat) (wafer : BitVec 8) (inc : BitVec 16) (pport : BitVec 5)
  /-- FOLVIBEL_LINK_DOWN (R110). -/
  | folvibelLinkDown (port : Nat)
  /-- HLAUNCH (R443). -/
  | hlaunch (fn : Nat) (addr : Word)
  /-- HPUBN (R444). -/
  | hpubn (fn : Nat) (len : Word)
  /-- HERR_CLEAR (R442). -/
  | herrClear (fn : Nat)
  /-- HLRES_DROP_CLEAR (R442). -/
  | hlresDropClear (fn : Nat)
  /-- HOST_FAR_READ (R444). -/
  | hostFarRead (fn : Nat) (off : BitVec 36) (len : Nat)
  /-- HOST_FAR_WRITE (R444). -/
  | hostFarWrite (fn : Nat) (off : BitVec 36) (data : List Byte)
  /-- FUNCTION_LEVEL_RESET (R446). -/
  | functionLevelReset (fn : Nat)
  /-- HIRQ (R446). -/
  | hirq (v : Word)
  /-- DEVRST (R446). -/
  | devrst (v : Word)
  /-- QUIESCE (R457). -/
  | quiesce (v : Word)
  /-- QUIESCE_DONE (R457). -/
  | quiesceDone (body : List Byte)
  /-- QUIESCE_RELEASE (R457). -/
  | quiesceRelease (v : Word)
  /-- QBOOT_GO (R456). -/
  | qbootGo (v : Word)
  /-- QBOOT_CANCEL (R456). -/
  | qbootCancel (v : Word)
  /-- HBEAT_WRITE (R456). -/
  | hbeatWrite (site : Nat)
  /-- VERIFY (R455). -/
  | verify
  /-- MEASURE (R455). -/
  | measure
  /-- COMMIT (R455). -/
  | commit
  /-- REVERT (R455). -/
  | revert
  /-- CRC32 (R455). -/
  | crc32
  /-- TRUST_OPERATION_DONE (R455). -/
  | trustOperationDone
  /-- GET_VERSION (R454). -/
  | getVersion (fn : Nat)
  /-- GET_CAPABILITIES (R454). -/
  | getCapabilities (fn : Nat)
  /-- NEGOTIATE_ALGORITHMS (R454). -/
  | negotiateAlgorithms (fn : Nat)
  /-- GET_DIGESTS (R454). -/
  | getDigests (fn : Nat)
  /-- GET_CERTIFICATE (R454). -/
  | getCertificate (fn : Nat)
  /-- CHALLENGE (R454). -/
  | challenge (fn : Nat) (nonce : BitVec 256)
  /-- GET_MEASUREMENTS (R454). -/
  | getMeasurements (fn : Nat) (index : Nat)
  /-- REGISTER_WRITE (R10). -/
  | registerWrite (addr : Word) (v : Word) (level : BitVec 2) (tile : Nat)
  /-- GIVE_COMPLETE (R170). -/
  | giveComplete (ctx : Nat)
  /-- RECLAIM_COMPLETE (R171). -/
  | reclaimComplete (ctx : Nat)
  /-- IMMEDIATE_WRITE_ACKNOWLEDGEMENT (R304). -/
  | immediateWriteAcknowledgement (n : Nat)
  /-- TRAP_WINDOW_ACCESS_ARRIVAL (R394). -/
  | trapWindowAccessArrival (n : Nat)
  /-- LOG_REPLICA_ACKNOWLEDGEMENT (R422). -/
  | logReplicaAcknowledgement (n : Nat)
  /-- VERSION_ANSWER (R381). -/
  | versionAnswer (n : Nat)
  deriving DecidableEq, Repr

end Sys2Proof
end

