-- ==== Sys2Proof/Machine/State.lean ====
section
/-! DEFINITION. The state of the device as plain data: thread contexts, cores, tiles, sites, crews, partitions, gateways,
homes, fields, the system block and the packets in the mesh, with the reset state. -/

namespace Sys2Proof.Machine

/-- A segment descriptor, words 0-2 (R181). -/
structure Seg where
  base : Word := 0
  limit : Word := 0
  attr : Word := 0
  deriving DecidableEq, Repr

/-- The resume state S (R313). -/
structure Resume where
  pc : Word := 0
  npc : Word := 0
  nnpc : Word := 0
  nul : BitVec 2 := 0
  deriving DecidableEq, Repr

/-- A location in a vault: logical tile, bank, byte offset in the bank (R150). -/
structure Loc where
  tile : Nat
  bank : Nat
  off : Nat
  deriving DecidableEq, Repr

/-- Where an arrival barrier lies; `none` in a command stands for no barrier (R281). -/
abbrev Bar := Option Loc

/-- Where a knot cell lies (R353): a vault word or a far address. -/
inductive Place where
  | vault (l : Loc)
  | far (va : Word)
  deriving DecidableEq, Repr

/-- A trap record in its queue entry (R389, R392): the context it names and cause; its resume state is that of the frozen
context, which nothing else changes (R395); for a bank conflict the core and timing-queue entry of the holder (R158). -/
structure TrapRec where
  ctx : Nat
  entry : BitVec 5 := 0
  asyn : Bool
  ecause : Word
  eaddr : Word
  claimed : Bool := false
  holder : Option (Nat × Nat) := none
  deriving DecidableEq, Repr

/-- The updates of a knot cell (R353, R354, R365). -/
inductive KnotOp where
  | set (v : BitVec 32)
  | add (v : BitVec 32)
  | hold (block : Word)
  | rd
  | wait (num : Nat) (core : Nat)
  | join
  | fork (recruits : Nat)
  | probe
  | done (status : BitVec 8)
  deriving DecidableEq, Repr

/-- Why a context waits, with what its group needs to go on (WAIT of R395). `reissue`d groups issue again when the wait
ends; the others complete at the event that ends them. -/
inductive Wait where
  | none
  | sleep (d : BitVec 6) (deadline : Word)
  | knotWait
  | ibpop (ibx : Nat)
  | barw (bar : Loc)
  | link (east : Bool)
  | twin
  | reap (slot : Nat) (d : BitVec 6) (p : BitVec 3)
  | give (d : BitVec 6) (e : Nat) (m : BitVec 16) (desc : Word) (sent : Bool)
  | reclaim (d : BitVec 6) (e : Nat) (bank : Nat) (holder : Nat)
  | drain (ids : List Nat)
  | drainBank (tile : Nat) (bank : Nat)
  | fence (ids : List Nat)
  | phase (d : BitVec 6) (ph : BitVec 32)
  | lrw (l : Loc) (d : BitVec 6) (p : BitVec 3)
  | launch (d : BitVec 6) (block : List Byte)
  | blayW (d : BitVec 6) (cut : Word)
  | blayDeep (d : BitVec 6)
  | mma | mzero | mldc | mstc
  | load
  | amo
  | hop (target : Nat) (core : Nat) (np : Bool) (sent : Bool)
  | rfork (d : BitVec 6) (n : Word) (knot : Place) (target : Word) (idx : Word) (step : Nat)
  | join (knot : Place) (target : Word) (sent : Bool)
  | taskend (v : Word)
  | knotRd (d : BitVec 6)
  | knotAsk (d : BitVec 6)
  | recruit (issuer : Nat)
  | swap (d : BitVec 6) (core slot : Nat) (spill : Option Nat)
  | stop (d : BitVec 6) (part : Nat) (task : Option Nat)
  | version (d : BitVec 6)
  | sample (d : BitVec 6) (tok : Word) (due : Nat)
  | store
  | fetch (addr : Word)
  | parkedBarw (bar : Loc)
  | parkedAmo
  deriving DecidableEq, Repr

/-- Asleep in SLEEP or KNOT.wait. -/
def Wait.asleep (w : Wait) : Bool := match w with | .sleep .. | .knotWait => true | _ => false

/-- A shared-register write that has not landed (R178, R179): due rc, rank, register field, value. -/
structure Landing where
  due : Nat
  rank : Nat
  isVec : Bool
  reg : Nat
  val : BitVec 512
  deriving DecidableEq, Repr

/-- What the other member of a pair still has to do when the group it issued in completes: its register writes, of the
predicates those in `pm`, of the shared registers with their latency in `due`, its flags, and the link words it popped (R40). -/
structure Late where
  x : Tbl Word := []
  v : Tbl Vec := []
  pm : BitVec 8 := 0
  p : BitVec 8 := 0
  m : Tbl (BitVec 16) := []
  pend : List Landing := []
  fl : BitVec 5 := 0
  pops : List (Bool × Vec) := []
  deriving DecidableEq, Repr

/-- Where an access under way goes, fixed when its group issued (R150): the address, the location unless it is far or in a window, and
for a load of the vault the phase it read in (R297). -/
structure Going where
  addr : Word
  loc : Option Loc := none
  phase : Option (BitVec 32) := none
  deriving DecidableEq, Repr

/-- A thread context (R177): private registers, special registers held by the thread, resume state and state word.  Of the
model: `uid` tells it from later contexts of its number; `asked` is what it waits for at the cell or gateway it asked;
`fresh` says that npc and nnpc have still to be formed from the lines at pc (R313), `got` lists the lines read for the group at pc
(R35), `pmemb` and `later` are the member of the fault in `pend` and the faults that wait behind it, `memb` that the second member of a pair waits, `goes` and `goes2` where the accesses of
the members go, `reply` and `reply2` what they were answered, and `late` what its partner has still to do (R40); `frame` holds its frame as it was last
saved; `since` and `resid` are the vcs at which it began to wait and to be resident (R336, R337). -/
structure Ctx where
  used : Bool := false
  uid : Nat := 0
  x : Tbl Word := []
  v : Tbl Vec := []
  p : BitVec 8 := 0
  m : Tbl (BitVec 16) := []
  sg : Tbl Seg := []
  sgsrc : Tbl (BitVec 8) := []
  code : Seg := {}
  s : Resume := {}
  fst : BitVec 16 := 0x0100
  mxc : BitVec 48 := 0
  rkey : BitVec 64 := 0
  prio : BitVec 3 := 0
  lvl : BitVec 2 := 0
  el : Bool := false
  swx : Bool := false
  unit : BitVec 24 := 0
  segs : BitVec 4 := 0
  epc : Word := 0
  enpc : Word := 0
  ennpc : Word := 0
  estat : Word := 0
  ecause : Word := 0
  eaddr : Word := 0
  rdy : Bool := false
  frz : Bool := false
  held : Bool := false
  rsc : Bool := false
  rescue : Option (BitVec 3 × Loc) := none
  rcv : Bool := false
  ridx : BitVec 5 := 0
  wait : Wait := .none
  after : Resume := {}
  reply : Option (BitVec 512) := none
  reply2 : Option (BitVec 512) := none
  goes : Option Going := none
  goes2 : Option Going := none
  asked : Option Wait := none
  pend : Option (BitVec 8 × Word × Bool) := none
  pmemb : Bool := false
  later : List (BitVec 8 × Word × Bool) := []
  killed : Bool := false
  parked : Bool := false
  fresh : Bool := false
  got : List Nat := []
  memb : Bool := false
  late : Late := {}
  frame : List Byte := []
  crew : Option Nat := none
  place : Option Nat := none
  lastSlot : Option Nat := none
  since : Int := 0
  resid : Nat := 0
  deriving DecidableEq, Repr

/-- Where a tensor's data lie once a command has latched it: a vault byte or a far byte with the slot of a version. -/
structure TsEnt where
  base : Word := 0
  w1 : Word := 0
  dims : Word := 0
  str12 : Word := 0
  w4 : Word := 0
  sbase : Word := 0
  w6 : Word := 0
  bar : Word := 0
  deriving DecidableEq, Repr

/-- The header of a message (R269) without the bits the encoding fixes. -/
structure MsgHdr where
  cls : BitVec 4
  retx : Bool
  ibx : BitVec 4
  len : Nat
  seq : BitVec 32
  stile : Nat
  score : Nat
  schan : Nat
  swaf : Nat
  dtile : Nat
  dwaf : Nat
  part : Nat
  val : Word
  stask : BitVec 32
  deriving DecidableEq, Repr

/-- What a command does, with the entries and addresses it latched at issue (R128).  `copy` and `gath` hold panel and
tensor; `out` moves from the panel to the tensor (COPY.out, SCAT). -/
inductive CmdKind where
  | copy (p t : TsEnt) (out edge : Bool) (origin : Word)
  | gath (p t : TsEnt) (out edge : Bool) (list : Word)
  | publ (va len : Word)
  | send (lost : Bool) (hdr : MsgHdr) (src : List Loc) (outId : Nat)
  | sends (src : List Loc) (dst : Nat) (plat : Nat) (data : Nat) (bar : Option Nat)
  | mcast (src : List Loc) (tiles : List Nat) (data : Nat) (bar : Option Nat) (outId : Nat)
  | lnpush (dir : Dir) (link : Option Bool) (v : Vec)
  | mmat (op : Nat)
  | phase
  deriving DecidableEq, Repr

/-- A queued or running command: start vc, barrier and tag, the bank map it latched, the version
slots it reads and writes, its issuer, and the entry of the timing queue that a timed one takes (R158). -/
structure Cmd where
  id : Nat
  entry : Nat := 0
  kind : CmdKind
  start : Option Nat := none
  bar : Bar := none
  tag : BitVec 16 := 0
  map : Tbl (BitVec 16) := []
  ver : Option Nat := none
  verW : Option Nat := none
  ctx : Nat
  uid : Nat := 0
  slot : Nat
  unit : BitVec 24 := 0
  lvl : BitVec 2 := 0
  crew : Option Nat := none
  refs : List (Nat × Nat) := []
  deriving DecidableEq, Repr

/-- A byte that an engine reads: in a vault, in far memory, a constant, or an address that no engine may name with the
error it gives (R95, R126). -/
inductive Src where
  | vault (l : Loc)
  | far (va : Word)
  | const (b : Byte)
  | bad (err : BitVec 8) (a : Word)
  deriving DecidableEq, Repr

/-- One line move of a running command: the bytes it reads, where each goes, and the bytes its arrival counts (R125). -/
structure Move where
  src : List Src
  dst : List Src
  n : Nat
  deriving DecidableEq, Repr

/-- A line move whose reads are made or under way. -/
structure LineBuf where
  id : Nat
  dst : List Src
  data : List (Option Byte)
  n : Nat
  deriving DecidableEq, Repr

/-- A running command: the moves it has still to make, the lines read and not landed, the far writes not acknowledged with
the bytes each delivers, the bytes not delivered, its failure, and the bytes of an exact COPY's last line whose arrival is due in the next
router cycle (R125, R130). -/
structure Run where
  cmd : Cmd
  moves : List Move := []
  bufs : List LineBuf := []
  acks : List (Nat × Nat) := []
  left : Nat := 0
  made : Nat := 0
  fail : Option (BitVec 8 × Word) := none
  owed : Option Nat := none
  deriving DecidableEq, Repr

/-- An operation of the matrix engine with the entries it latched (R239, R245, R247). -/
inductive MKind where
  | mma (z sat f64 : Bool) (a b : TsEnt) (row0 : Nat)
  | zero (f64 : Bool)
  | ldc (f64 : Bool) (t : TsEnt)
  | stc (ty : Ty) (rm : Rm) (sat : Bool) (t : TsEnt)
  deriving DecidableEq, Repr

/-- A bank line: tile, bank, line number in the bank. -/
structure Line where
  tile : Nat
  bank : Nat
  line : Nat
  deriving DecidableEq, Repr

/-- A waiting, queued or running engine operation: issuer, start vc of an MMAT, the stages with the lines each has still to
fetch and its compute time, the lines fetched by stage, and the schedule state of R240: the first free router cycle `g`,
the ends `e1` and `e2` of the last two stages and the completion vc; `slip` counts the rc that an untimed operation has had while its crew
slacks for an MMAT to have the engine (R242). -/
structure MOp where
  id : Nat
  kind : MKind
  acc : Nat
  ctx : Nat
  uid : Nat := 0
  slot : Nat
  lvl : BitVec 2 := 0
  crew : Option Nat := none
  start : Option Nat := none
  bar : Bar := none
  tag : BitVec 16 := 0
  map : Tbl (BitVec 16) := []
  span : Nat := 0
  refs : List (Nat × Nat) := []
  stages : List (List Line × Nat) := []
  stage : Nat := 0
  buf : List (Nat × Line × BitVec 512) := []
  g : Nat := 0
  e1 : Nat := 0
  e2 : Nat := 0
  done : Option Nat := none
  slip : Nat := 0
  deriving DecidableEq, Repr

/-- A line of the phase buffer: location, byte enables, data (R164). -/
structure PLine where
  tile : Nat
  bank : Nat
  line : Nat
  en : BitVec 64
  data : BitVec 512
  deriving DecidableEq, Repr

/-- A word in flight to a link FIFO (R252): poppable from rc `due`, and not before its mesh flit lands where one carries it. -/
structure Flight where
  east : Bool
  due : Nat
  word : Vec
  mesh : Bool := false
  deriving DecidableEq, Repr

/-- A sending channel (R273). -/
structure Chan where
  st : BitVec 2 := 0
  outn : Nat := 0
  waf : BitVec 8 := 0
  remote : Bool := false
  tile : Nat := 0
  ibx : BitVec 4 := 0
  next : BitVec 32 := 0
  deriving DecidableEq, Repr

/-- An access or immediate-class operation that has not completed, for DRAIN, FENCE, TASKEND and GIVE (R170, R173, R304). -/
inductive OutKind where
  | vault (tile bank : Nat) (imm : Bool)
  | far (remote : Bool)
  | msg (tile : Nat) (remote : Bool)
  | mcast
  deriving DecidableEq, Repr

structure Out where
  id : Nat
  ctx : Nat
  kind : OutKind
  left : Nat := 1
  deriving DecidableEq, Repr

/-- A swap in progress (R338): the slot, who leaves, who enters, the lines still to be written and to be read, and the rc it takes beyond
those of its lines. -/
structure Swap where
  slot : Nat
  out : Option Nat
  inn : Option Nat
  wr : Nat := 0
  rd : Nat := 0
  tail : Nat := 0
  deriving DecidableEq, Repr

/-- A core (R23). -/
structure Core where
  k : Tbl Word := []
  w : Tbl Vec := []
  pend : List Landing := []
  le : List Vec := []
  lw : List Vec := []
  lncfg : BitVec 6 := 0b111100
  lnPend : List (Nat × BitVec 6) := []
  fly : List Flight := []
  owedE : Nat := 0
  owedW : Nat := 0
  acc : Tbl (BitVec 32) := []
  ts : Tbl TsEnt := []
  pbuf : List PLine := []
  uq : List Cmd := []
  tq : List Cmd := []
  runs : List Run := []
  mq : List MOp := []
  mrun : Option MOp := none
  mtq : List MOp := []
  bmap : Tbl (BitVec 16) := []
  exitv : Tbl Word := []
  exitp : BitVec 16 := 0
  chans : Tbl Chan := []
  fseq : Tbl (BitVec 32) := []
  fissue : Nat := 0
  trapq : List TrapRec := []
  handler : Option Nat := none
  displaced : Tbl Nat := []
  slots : Tbl Nat := []
  swaps : List Swap := []
  ic : Tbl (BitVec 512) := []
  setc : Tbl Seg := []
  stop0 : Word := 0
  stop1 : Word := 0
  stop2 : Word := 0
  msent : BitVec 32 := 0
  outs : List Out := []
  vmul : Option Nat := none
  turnAt : Option Nat := none
  decideAt : Option Nat := none
  deriving DecidableEq, Repr

/-- A watched word and its owner (R159). -/
structure Watch where
  bank : Nat
  off : Nat
  ctx : Nat
  deriving DecidableEq, Repr

/-- A reservation word of the tile and its queue, the holder first (R311). -/
structure Resv where
  bank : Nat
  off : Nat
  queue : List Nat
  deriving DecidableEq, Repr

/-- A receive entry (R275): source wafer, tile, core, channel, task and inbox, and the next number expected. -/
structure RecvEnt where
  waf : Nat
  tile : Nat
  core : Nat
  chan : Nat
  task : Nat
  part : Nat
  ibx : Nat
  exp : BitVec 32
  deriving DecidableEq, Repr

/-- How an unacknowledged message stands (R276). -/
inductive SendState where
  | sent
  | delay (rc : Nat) (nextDelay : Nat)
  | fenced (site : Nat)
  deriving DecidableEq, Repr

/-- A copy in the retransmission buffer (R274). -/
structure Retx where
  hdr : MsgHdr
  data : List Byte
  bar : Bar
  outId : Nat
  st : SendState
  at_ : Nat
  delay : Nat
  deriving DecidableEq, Repr

/-- A reserved router cycle of a bank (R157): bank, cycle, core and command, with the command's entry of the timing queue (R158). -/
structure Rsv where
  bank : Nat
  cycle : Nat
  core : Nat
  id : Nat
  entry : Nat := 0
  deriving DecidableEq, Repr

/-- The version view of a tile (R374). -/
structure VView where
  set : Option Nat := none
  cur : Option Nat := none
  staging : Option Nat := none
  deriving DecidableEq, Repr

/-- A logical tile, or a control site under its tile number: what moves with the tile when it is spliced (R420). -/
structure Tile where
  crew : Option Nat := none
  col : Nat := 0
  row : Nat := 0
  pvr : BitVec 16 := 0
  pvrPend : List (Nat × BitVec 16) := []
  vcc : Nat := 0
  vccAt : Option Nat := none
  capture : Nat := 0
  stall : Option Nat := none
  halted : Bool := false
  arr : Tbl (Nat × Bool) := []
  arrNext : Tbl (Nat × Bool) := []
  applied : BitVec 4 := 0
  rows : Tbl (BitVec 16) := []
  firstSet : Tbl Bool := []
  watches : List Watch := []
  resv : List Resv := []
  pred : List (Nat × Nat) := []
  lastSrc : Tbl Nat := []
  rsvd : List Rsv := []
  bankUse : List Nat := []
  inbox : Tbl Word := []
  freed : List (Nat × Nat) := []
  recv : List RecvEnt := []
  retx : List Retx := []
  routes : Tbl Word := []
  pairR : Tbl Word := []
  spb : Tbl Word := []
  vview : VView := {}
  adoptAt : Option Nat := none
  wd : Nat := 0
  mrecv : Nat := 0
  rr : Nat := 0
  deriving DecidableEq, Repr

/-- What a record of a swap is about: by which rule it was decided (R337, R361, R393, R402, R404), or that it is complete (log entry 94). -/
inductive SwapHow where
  | rows | rescue | deliver | reload | park | yield | done
  deriving DecidableEq, Repr

/-- One record of the crew log (R421). -/
inductive LogEv where
  | message (hdr : MsgHdr) (data : List Byte) (outside : Bool)
  | farReply (core : Nat) (va : Word) (data : List Byte)
  | farSeq (core ord key : Nat) (seq : BitVec 32)
  | candidate (cut : Nat) (v : BitVec 16)
  | answer (ctx : Nat) (v : Word)
  | close (earlier later bank line : Nat)
  | closeAt (vc : Nat)
  | adopted (home : Nat) (psn : Nat)
  | order (tile bank off : Nat) (v : Word)
  | wake (ctx : Nat) (wait : BitVec 6)
  | swap (core slot : Nat) (inn : Option Nat) (how : SwapHow)
  | hopIn (ctx : Nat)
  | bank (tile bank : Nat) (core : Nat)
  | handoff (tile bank off : Nat) (ctx : Nat)
  | join (ctx : Nat)
  | recruits (core : Nat) (cores : List Nat)
  | engine (core : Nat) (matrix : Bool)
  | window (addr : Word) (en : BitVec 64) (v : BitVec 512) (level : BitVec 2)
  | ret (ctx : Nat) (form : Nat) (v : Word)
  | tstart
  | cut (by_ : Option (Nat × Nat))
  | decision
  | switched
  | created (place : Nat)
  | launch (ctx : Nat) (v : Word)
  | posted (bank off : Nat)
  deriving DecidableEq, Repr

structure LogRec where
  vc : Nat
  tile : Nat
  ev : LogEv
  size : Nat := 16
  deriving DecidableEq, Repr

/-- The launch block's fields (R347). -/
structure Block where
  cols : Nat := 0
  rows : Nat := 0
  slots : Nat := 0
  flags : BitVec 8 := 0
  belay : Nat := 0
  prio : BitVec 3 := 0
  vbind : BitVec 16 := 0
  segs : BitVec 4 := 0
  units : Nat := 0
  grain : Nat := 0
  entry : Word := 0
  knot : Word := 0
  record : Word := 0
  routes : Word := 0
  nroutes : Nat := 0
  next : Word := 0
  args : List Word := []
  reserved : Bool := false
  deriving DecidableEq, Repr

/-- Where a crew stands. -/
inductive CrewPhase where
  | placed | loading | launchCut | running | ending | ended
  deriving DecidableEq, Repr

/-- The first fault of a task and their number (R349). -/
structure FaultRec where
  n : Nat := 0
  cause : BitVec 8 := 0
  err : BitVec 8 := 0
  vc : Nat := 0
  addr : Word := 0
  tile : Nat := 0
  core : Nat := 0
  slot : Nat := 0
  unit : BitVec 24 := 0
  deriving DecidableEq, Repr

/-- The part of a crew's state that a cut saves at the root tile (R420); `cand` and `cpvr` are the candidate, once
answered, and %pvr of the last committed cut (R373); `waitq` holds the places whose unit waits for a context number, with its slot. -/
structure CrewDyn where
  phase : BitVec 32 := 0
  next : Tbl Nat := []
  waitq : List (Nat × Nat) := []
  lseq : BitVec 32 := 0
  adopted : Tbl Nat := []
  committed : Tbl Nat := []
  cand : Option (BitVec 16) := none
  cpvr : BitVec 16 := 0
  adopt : Option Nat := none
  exitv : Word := 0
  flt : FaultRec := {}
  deriving DecidableEq, Repr

/-- A cut between its vc and its apply (R416-R418): the crew state at its root, %pvr and the candidate once answered. -/
structure Cut where
  vc : Nat
  launch : Bool := false
  prepared : List Nat := []
  decided : Bool := false
  applied : List Nat := []
  dyn : CrewDyn := {}
  pvr : BitVec 16 := 0
  cand : Option (BitVec 16) := none
  deriving DecidableEq, Repr

/-- A running crew and its task (R328, R345-R352), or a task that ends without one (R348): `reason` is that of a refusal,
`endStep` and `denied` say how far its end has come, `lost` that its crew cannot be restored (R378, R429). -/
structure Crew where
  live : Bool := false
  part : Nat := 0
  task : BitVec 32 := 0
  since : Nat := 0
  blk : Block := {}
  t0 : Nat := 0
  el : Bool := false
  swx : Bool := false
  st : CrewPhase := .placed
  tstart : Nat := 0
  dyn : CrewDyn := {}
  saved : Option CrewDyn := none
  closing : Option Nat := none
  closeOn : Bool := false
  closeLines : List (Nat × PLine) := []
  cuts : List Nat := []
  cut : Option Cut := none
  lastC : Option Nat := none
  ncut : BitVec 16 := 0
  nspl : BitVec 16 := 0
  log : List LogRec := []
  redo : List LogRec := []
  haltAt : Option Nat := none
  haltDone : Bool := false
  stopHold : Bool := false
  frozen : Bool := false
  deepHold : Bool := false
  deepCut : Option Nat := none
  replayTo : Option Nat := none
  unlinked : Bool := false
  wdSeen : Option (Nat × Nat) := none
  reason : BitVec 8 := 0
  endStep : Nat := 0
  denied : Bool := false
  lost : Bool := false
  deriving DecidableEq, Repr

/-- A task entry of a partition's queue (R345): number, block, time of posting. -/
structure QEnt where
  task : BitVec 32
  blk : Block
  since : Nat
  deriving DecidableEq, Repr

/-- A partition (R328, R345, R424, R464). -/
structure Part where
  base : Nat := 0
  count : Nat := 0
  queue : List QEnt := []
  tasks : BitVec 32 := 1
  dedup : List (Nat × Nat × Word) := []
  held : List (List Byte) := []
  heldAddr : List (Word × Bool × Place) := []
  blctl : Word := 0x1A0018
  psvc : Word := 0
  psvc2 : Word := 0
  deriving DecidableEq, Repr

/-- What a far request does (R92): fills a line buffer of an engine, fetches an instruction line, writes for an engine,
publishes, is an atomic, a reduction or a knot update with its sequence number (R105), or writes a completion (R352). -/
inductive FarKind where
  | read (n : Nat) (buf : Nat) (off : Nat)
  | fetch
  | write (data : List Byte) (id : Nat)
  | publ (id : Nat)
  | amo (op : AmoOp) (ty : Ty) (b cmp : Word) (red : Bool) (seq : Option (BitVec 32))
  | knot (op : KnotOp) (seq : Option (BitVec 32))
  | record (crew : Nat)
  deriving DecidableEq, Repr

/-- A far request (R86-R105): issuer, core, crew, partition, address, what it does, the version slot it was latched under and
the outstanding operation it acknowledges, with the slot `from_` and unit of its issuer; its home once translated and the Folvibel port
toward a remote one (R449), the barrier whose PRK it set (R127), its place among its core's far operations that carry sequence numbers, and
whether it has parked (R105). -/
structure FarReq where
  id : Nat
  ctx : Nat
  core : Nat
  crew : Option Nat
  part : Nat
  va : Word
  kind : FarKind
  slot : Option Nat := none
  home : Option Nat := none
  outId : Option Nat := none
  uid : Nat := 0
  from_ : Nat := 0
  unit : BitVec 24 := 0
  port : Option Nat := none
  bar : Bar := none
  ord : Nat := 0
  late : Bool := false
  deriving DecidableEq, Repr

/-- A leaf as a gateway caches it (R90, R91, R93); one of a remote wafer is tagged with the wafer and its incarnation (R108). -/
structure Leaf where
  ctx : Nat
  va : Nat
  size : Nat
  buffer : Bool
  x : Bool
  a : Bool
  w : Bool
  r : Bool
  addr : Nat
  used : Nat := 0
  tag : Option (Nat × BitVec 16) := none
  deriving DecidableEq, Repr

/-- A table walk in progress (R90): the request, the level read next, its entry's PA. -/
structure Walk where
  req : FarReq
  level : Nat
  pa : Nat
  deriving DecidableEq, Repr

/-- A field gateway (R89-R96, R113); `posted` lists the park queue entries whose fault records stand with the steward (R96). -/
structure Gw where
  tcbase : Tbl Word := []
  tclim : Tbl Word := []
  tcbmb : Tbl Word := []
  gwinv : Word := 0
  parkact : Word := 0
  leaves : List Leaf := []
  walks : List Walk := []
  park : Tbl FarReq := []
  roots : Tbl (BitVec 512) := []
  tick : Nat := 0
  posted : List Nat := []
  deriving DecidableEq, Repr

/-- A hotness entry (R107), and the two words that firmware has written there if it has not changed since (R113). -/
structure Hot where
  page : Nat
  count : BitVec 32
  sx : BitVec 64
  sy : BitVec 64
  qm : BitVec 4
  raw : Option (BitVec 64 × BitVec 64) := none
  deriving DecidableEq, Repr

/-- A home gateway (R98-R107, R460). -/
structure Home where
  psn : Nat := 0
  crews : Tbl (Nat × Nat) := []
  bufs : List (Nat × Nat) := []
  waiting : List (FarReq × Nat × Nat) := []
  seen : Tbl (List (Nat × Nat)) := []
  hot : Tbl Hot := []
  rows : List (Nat × Nat × Nat) := []
  media : List Nat := []
  deriving DecidableEq, Repr

/-- A slot of a version set (R370). -/
structure VSlot where
  vnum : BitVec 16 := 0
  st : BitVec 2 := 0
  pnd : BitVec 2 := 0
  refs : BitVec 16 := 0
  owner : BitVec 32 := 0
  opart : BitVec 4 := 0
  base : Word := 0
  asker : Option Nat := none
  pndAt : Nat := 0
  deriving DecidableEq, Repr

/-- A version set (R370); `refs` lists the crews that reference each slot (R373). -/
structure VSet where
  en : Bool := false
  newest : BitVec 16 := 0
  sizem1 : BitVec 40 := 0
  owner : BitVec 32 := 0
  opart : BitVec 4 := 0
  last : BitVec 16 := 0
  slots : Tbl VSlot := []
  refs : List (Nat × Nat) := []
  deriving DecidableEq, Repr

/-- What a crew or a thread asks of a version home (R377-R383). -/
inductive VerOp where
  | candidate (cut : Nat)
  | stage
  | mark (pnd : BitVec 2) (v : BitVec 16) (vc : Nat)
  | query (v : Option (BitVec 16))
  | commit (vc : Nat)
  deriving DecidableEq, Repr

/-- What a packet carries (R257). -/
inductive Body where
  | read (l : Loc) (n : Nat) (outId : Nat)
  | data (v : BitVec 512) (outId : Option Nat)
  | write (l : Loc) (en : BitVec 64) (v : BitVec 512) (outId : Nat)
  | ack (outId : Nat)
  | arrive (bar : Loc) (n : Nat) (tag : BitVec 16) (err : BitVec 8) (addr : BitVec 32)
  | bari (bar : Loc) (n : BitVec 32) (outId : Nat)
  | amo (l : Loc) (op : AmoOp) (ty : Ty) (b cmp : Word) (red : Bool) (outId : Nat)
  | lrw (l : Loc)
  | sch (l : Loc) (v : Word) (outId : Nat)
  | relq (l : Loc) (outId : Nat)
  | grant (l : Loc) (ctx : Nat)
  | knot (l : Loc) (op : KnotOp) (outId : Nat)
  | far (r : FarReq)
  | home (r : FarReq) (leaf : Nat) (pa : Nat) (home : Nat)
  | reply (r : FarReq) (err : BitVec 8) (data : List Byte) (logged : Bool)
  | trap (core : Nat) (r : TrapRec)
  | window (addr : Word) (en : BitVec 64) (v : BitVec 512) (wr : Bool) (n : Nat) (level : BitVec 2)
  | link (word : Vec) (east : Bool)
  | msg (hdr : MsgHdr) (data : List Byte) (hcrc : BitVec 16)
  | msgAck (hdr : MsgHdr)
  | nackFull (hdr : MsgHdr)
  | nackOrder (hdr : MsgHdr)
  | nackFenced (hdr : MsgHdr)
  | nackReplay (hdr : MsgHdr)
  | hop (hdr : MsgHdr) (c : Ctx) (np : Bool) (hcrc : BitVec 16)
  | hopAck (admitted : Bool) (c : Ctx)
  | mcast (lines : List (Loc × Byte)) (bar : Bar) (n : Nat) (outId : Nat)
  | route (bytes : List (Loc × Byte)) (bar : Bar) (n : Nat) (tag : BitVec 16) (due : Nat)
  | commitPsn (home : Nat) (crew : Nat) (psn : Nat)
  | version (set : Nat) (crew : Nat) (op : VerOp)
  | answer (crew : Nat) (ctx : Option Nat) (op : VerOp) (v : Word) (ok : Bool)
  | log (tile : Nat) (bytes : Nat) (hdr : Option MsgHdr)
  | logAck (hdr : Option MsgHdr)
  | fork (ctx : Ctx) (core : Nat)
  deriving DecidableEq, Repr

/-- A packet: where it is, where it goes, its lane, the tile and context it came from, and its stream.  `at_` is the router
cycle at whose end it has arrived where it goes (R153, R155, R392), `here` that from which it waits at its router, or
to enter it, which it has done when `inj` holds (R257, R259); `back` is the fenced site that turned it back to its source (R264), `part` how many
lines of a message have landed (R272). -/
structure Pkt where
  id : Nat
  pos : Nat
  dst : Nat
  lane : BitVec 2
  src : Nat
  ctx : Nat
  stream : Nat
  body : Body
  at_ : Nat := 0
  here : Nat := 0
  inj : Bool := true
  back : Option Nat := none
  part : Nat := 0
  deriving DecidableEq, Repr

/-- The belayed state of one tile: the tile, its four cores and their contexts, and its accesses under way (R420); `turn` is
the slot whose turn it was at the cut (R332, R430). -/
structure Image where
  vc : Nat
  turn : Nat := 0
  tile : Tile
  cores : List Core
  ctxs : Tbl Ctx
  pkts : List Pkt := []
  reqs : List FarReq := []
  recs : List (Nat × TrapRec) := []
  deriving DecidableEq, Repr

/-- A physical site (R22, R414, R463); `wanted` are the lines of the cut set that threads were refused for, `streamAt` the router cycle from
which the stream may send its next line (R417), `moved` the same of the copy engine in quarters of one (R129); `out3` and `outLow` are the router cycles from which the link of a port is free for lane 3 and for the
others (R257), outLow also for 4 the way in and 5 the way out of the local port, and `injTurn` the source whose turn it is there (R259). -/
structure Site where
  ctr : Nat := 0
  cls : BitVec 2 := 0
  fenced : Bool := false
  hole : Bool := false
  unusable : Bool := false
  fence : List Nat := []
  detour : Tbl Word := []
  down : List Nat := []
  dirty : List Nat := []
  cutset : List Nat := []
  cutCap : Bool := false
  wanted : List Nat := []
  streamAt : Nat := 0
  moved : Nat := 0
  injTurn : Nat := 0
  rope : List (Nat × BitVec 512) := []
  logB : Nat := 0
  repB : Nat := 0
  cap : Option Image := none
  sk0 : Option Image := none
  sk1 : Option Image := none
  skc : Bool := false
  keepv : Bool := false
  bankc : Tbl Word := []
  linkc : Tbl Word := []
  out3 : Tbl Nat := []
  outLow : Tbl Nat := []
  msgc : Word := 0
  corc : Tbl Word := []
  svtest : Word := 0x0000030000000000
  grade : Option (BitVec 2) := none
  ring : Tbl Word := []
  ringn : Nat := 0
  perr : Option Nat := none
  testing : Bool := false
  deriving DecidableEq, Repr

/-- An error record of the black box (R465). -/
structure ErrRec where
  time : BitVec 64
  kind : BitVec 8
  cause : BitVec 8
  site : Nat
  core : BitVec 8
  unit : BitVec 8
  sub : BitVec 16
  tile : BitVec 16
  task : BitVec 32
  detail : Word
  deriving DecidableEq, Repr

/-- A field (R15, R343, R452, R466, R468, R469): `throttleAt` holds the crew vcs at which an announced throttling begins, `droop`
the router cycle up to which its clock is stretched. -/
structure Fld where
  power : Bool := false
  joined : Bool := false
  given : Bool := false
  vmarg : BitVec 16 := 0
  throttled : Bool := false
  throttleAt : List (Nat × Nat) := []
  droop : Nat := 0
  box : Tbl ErrRec := []
  boxn : Nat := 0
  deriving DecidableEq, Repr

/-- How a host read completes (R444). -/
inductive HostCpl where
  | data (bs : List Byte)
  | completerAbort
  | unsupportedRequest
  deriving DecidableEq, Repr

/-- A PCIe function (R442, R444, R446): `pubq` holds the publishes under way, `discard` that the launch under way was begun
before a reset of the function, `msixSent` the vectors signalled to the host, `readOut` the completion of its last read. -/
structure HostFn where
  hlaunch : Word := 0
  busy : Bool := false
  drop : Bool := false
  seq : BitVec 8 := 0
  stat : BitVec 8 := 0
  err : BitVec 8 := 0
  task : BitVec 32 := 0
  discard : Bool := false
  hpuba : Word := 0
  hpubn : Word := 0
  hpubs : Word := 0
  pubq : List (Word × Word) := []
  hfn : Word := 0
  herr : Word := 0
  apt : Tbl Word := []
  msixMask : BitVec 32 := 0xFFFFFFFF
  msixPend : BitVec 32 := 0
  msixSent : BitVec 32 := 0
  readOut : Option HostCpl := none
  deriving DecidableEq, Repr

/-- A Quinpin image slot of the trust block (R453). -/
structure Slot where
  version : BitVec 16 := 0x0104
  svn : BitVec 16 := 0
  header : List Byte := []
  body : List Byte := []
  bodyHash : BitVec 256 := 0
  deriving DecidableEq, Repr

/-- The trust block (R453, R455): `op` is an operation begun with its arguments, `out` what a finished one will report. -/
structure Trust where
  revoked : BitVec 4 := 0
  floor : BitVec 16 := 0
  slotA : Slot := {}
  slotB : Slot := {}
  standby : Option Slot := none
  pending : Option (BitVec 1 × Slot) := none
  op : Option (BitVec 8 × Word × Word) := none
  out : Option (BitVec 8 × BitVec 32) := none
  busy : Bool := false
  res : BitVec 8 := 0
  val : BitVec 32 := 0
  bindMap : Tbl (BitVec 16) := []
  deriving DecidableEq, Repr

/-- What the SPDM responder has answered (R454). -/
inductive SpdmAns where
  | version (major minor : List Nat)
  | capabilities (cert chal meas fresh : Bool)
  | algorithms (p256 sha256 : Bool)
  | digests (slot0 : BitVec 256)
  | certificate (chain : List Byte)
  | challengeAuth (digest : BitVec 256) (sig : BitVec 512)
  | measurements (blocks : List (Nat × BitVec 256)) (sig : BitVec 512)
  | count (n : Nat)
  | invalid
  | busy
  | unexpected
  deriving DecidableEq, Repr

structure Spdm where
  stage : Nat := 0
  ans : Tbl SpdmAns := []
  deriving DecidableEq, Repr

/-- The system block and the capability registers (R433, R434, R439, R451, R455, R456). -/
structure Sys where
  wnum : BitVec 8 := 0
  inc : BitVec 16 := 0
  stage : BitVec 3 := 0
  rcvy : Bool := false
  fjoin : BitVec 64 := 0
  rtime : BitVec 64 := 0
  stlen : Word := 0
  hirq : Word := 0
  qsc : Word := 0
  qdone : Bool := false
  tbcmd : Word := 0
  tbarg0 : Word := 0
  tbarg1 : Word := 0
  act : BitVec 1 := 0
  upd : Bool := false
  qboot : Word := 0
  hbeat : Word := 0
  bootT : Word := 0
  standbySites : List Nat := []
  cxl : Tbl Word := []
  fv : Tbl Word := []
  fvroute : Tbl Word := []
  qmaj : BitVec 8 := 1
  qmin : BitVec 8 := 4
  trust : Trust := {}
  spdm : Spdm := {}
  sell : BitVec 16 := 0x8000
  retire : List Nat := []
  dbctl : Word := 1
  deepReq : Option Nat := none
  held : List Nat := []
  deriving DecidableEq, Repr

/-- A rebind flood (R290): the tile, the entry before it, the routers that have applied it, and the RTWR barrier it
completes.  A router that has not applied it still holds the old entry. -/
structure Flood where
  tile : Nat
  old : BitVec 16
  applied : List Nat := []
  bar : Bar := none
  deriving DecidableEq, Repr

/-- A vault image (R60): the program of a launch block of a partition with this entry address, and its bytes, each run with its bank and
offset. -/
structure VaultImage where
  part : Nat
  entry : Word
  data : List (Nat × Nat × List Byte) := []
  deriving DecidableEq, Repr

/-- A deep-belay image (R434): the keeps, committed state slots and HBM4E contents, with the crews it holds. -/
structure Deep where
  mem : List Host.Cell := []
  sites : Tbl Site := []
  crews : Tbl Crew := []
  tiles : Tbl Tile := []
  cores : Tbl Core := []
  ctxs : Tbl Ctx := []
  deriving DecidableEq, Repr

/-- How the group in issue has fared so far. -/
inductive Result where
  | done        -- the members so far have executed
  | waiting     -- a member has issued and waits; the group completes at an event
  | reissue     -- a member has sent a request: the thread waits and the whole group issues again
  | asleep      -- the group does not issue; its thread waits and issues it again (R253)
  | refused     -- the group does not issue; it stays present (R156)
  | trapped     -- a synchronous trap was taken (R40)
  deriving DecidableEq, Repr

/-- The group in issue: the thread, the member, and what the members so far have raised (log entry 1).  `old` holds the
context as the group found it while a second member runs (R8, R40); `want` is the line of the cut set that a refused access waits for
(R417). -/
structure Cur where
  tile : Nat := 0xC060
  core : Nat := 0
  slot : Nat := 0
  num : Nat := 0
  addr : Word := 0
  size : Nat := 1
  memb : Bool := false
  old : Option Ctx := none
  res : Result := .done
  cause : BitVec 8 := 0
  eaddr : Word := 0
  want : Option Nat := none
  asyn : Bool := false
  holder : Option (Nat × Nat) := none
  flags : BitVec 5 := 0
  target : Option Word := none
  nullify : Bool := false
  deriving DecidableEq, Repr

/-- The whole device. `sched`, `cur`, `free` and `nextId` are the model's own (log entries 1 and 6). -/
structure State where
  sched : List Instr := []
  cur : Cur := {}
  free : Nat := 0
  nextId : Nat := 0
  mem : List Host.Cell := []
  ctxs : Tbl Ctx := []
  cores : Tbl Core := []
  tiles : Tbl Tile := []
  sites : Tbl Site := []
  crews : Tbl Crew := []
  parts : Tbl Part := []
  gws : Tbl Gw := []
  homes : Tbl Home := []
  vsets : Tbl VSet := []
  fields : Tbl Fld := []
  hosts : Tbl HostFn := []
  rebind : Tbl (BitVec 16) := []
  floods : List Flood := []
  partner : Tbl Nat := []
  net : List Pkt := []
  hbm : Tbl (Nat × Nat) := []
  checks : List (Nat × MCause) := []
  splices : List Nat := []
  rollbacks : List Nat := []
  peers : List (Nat × FarReq) := []
  images : List VaultImage := []
  sys : Sys := {}
  deep : Option Deep := none
  deriving DecidableEq, Repr

/-- The whole machine stops with a fault. Every trap of the spec is a next state of this model, not a fault. -/
inductive Fault where
  /-- Raised by a thread instruction whose issuing context is not in use: no thread of the device executes it.  Safe: no
  state of the hardware corresponds to it. -/
  | noThread
  deriving DecidableEq, Repr

/-- No meaning for the step. -/
inductive Refusal where
  /-- Raised by `exec` for an instruction not modelled yet, by its mnemonic.  Safe. -/
  | notModelled (mnemonic : String)
  deriving DecidableEq, Repr

/-- The device right after power-on reset: start stage 0, no field joined, no tile bound, memory with nothing listed, no
context created (R451, R452; log entries 2-5). -/
def State.reset : State := {}

end Sys2Proof.Machine
end

