-- ==== Sys2Proof/Machine/Table.lean ====
section
/-! DEFINITION. Tables and the memory list: lookup with a default, and update that keeps keys rising and lists no entry
equal to the default, so that equal tables are equal data. -/

namespace Sys2Proof.Machine

namespace Tbl

/-- The value listed at a key. -/
def find {α : Type} (t : Tbl α) (k : Nat) : Option α :=
  match t with
  | [] => none
  | (k', v) :: rest => if k' = k then some v else find rest k

/-- The value at a key, `d` where none is listed. -/
def get {α : Type} (d : α) (t : Tbl α) (k : Nat) : α := (find t k).getD d

/-- The table without a key. -/
def del {α : Type} (t : Tbl α) (k : Nat) : Tbl α :=
  match t with
  | [] => []
  | (k', v) :: rest => if k' = k then del rest k else (k', v) :: del rest k

/-- The table with a value at a key, keys rising. -/
def put {α : Type} (t : Tbl α) (k : Nat) (v : α) : Tbl α :=
  match t with
  | [] => [(k, v)]
  | (k', v') :: rest =>
    if k < k' then (k, v) :: (k', v') :: rest
    else if k' = k then (k, v) :: rest
    else (k', v') :: put rest k v

/-- The table with a value at a key; the default is never listed. -/
def set {α : Type} [DecidableEq α] (d : α) (t : Tbl α) (k : Nat) (v : α) : Tbl α :=
  if v = d then del t k else put t k v

/-- What a table lists otherwise than another; a key listed no more has the default. -/
def diff {α : Type} [DecidableEq α] (d : α) (old new : Tbl α) : Tbl α :=
  new.filter (fun e => get d old e.1 ≠ e.2)
    ++ (old.filter (fun e => (find new e.1).isNone)).map (fun e => (e.1, d))

/-- The entries of a list set in a table. -/
def setAll {α : Type} [DecidableEq α] (d : α) (t new : Tbl α) : Tbl α := new.foldl (fun t e => set d t e.1 e.2) t

/-- Keys rise strictly and no listed value is the default: the one form of a table. -/
def wf {α : Type} [DecidableEq α] (d : α) (t : Tbl α) : Bool :=
  match t with
  | [] => true
  | (k, v) :: rest =>
    decide (v ≠ d) && (match rest with | [] => true | (k', _) :: _ => decide (k < k')) && wf d rest

end Tbl

/-- What an address that no store has reached reads as: 0 (log entry 2). -/
def unlistedByte : Byte := 0

/-- Reading one byte of memory. -/
def memRead (m : List Host.Cell) (a : Nat) : Byte := Tbl.get unlistedByte m a

/-- Writing one byte of memory; the canonical form is kept. -/
def memWrite (m : List Host.Cell) (a : Nat) (b : Byte) : List Host.Cell := Tbl.set unlistedByte m a b

/-- The canonical form of memory: addresses strictly rising, no entry equal to what an unlisted address reads as. -/
def Memory.wf (m : List Host.Cell) : Bool := Tbl.wf unlistedByte m

/-- Bytes at rising addresses. -/
def memReadN (m : List Host.Cell) (a n : Nat) : List Byte := (List.range n).map (fun i => memRead m (a + i))

/-- Writing a list of bytes at rising addresses. -/
def memWriteN (m : List Host.Cell) (a : Nat) (bs : List Byte) : List Host.Cell :=
  match bs with
  | [] => m
  | b :: rest => memWriteN (memWrite m a b) (a + 1) rest

/-- The little-endian value of bytes, the lowest address first (R4). -/
def leNat (bs : List Byte) : Nat := bs.foldr (fun b n => n * 256 + b.toNat) 0

/-- The bytes of a number, the lowest address first (R4). -/
def leBytes (n v : Nat) : List Byte := (List.range n).map (fun i => BitVec.ofNat 8 (v >>> (8 * i)))

end Sys2Proof.Machine
end

