-- ==== Sys2Proof/Machine/Place.lean ====
section
/-! DEFINITION. Numbers and places: sites, fields, control sites, the binding at ship (R14-R21, R413), the accessors of
every table of the state, and the vault and far bytes of memory (R26, R87). -/

namespace Sys2Proof.Machine

/-- sx and sy of a site number (R16). -/
def siteX (s : Nat) : Nat := s % 256

def siteY (s : Nat) : Nat := s / 256

def siteNum (sx sy : Nat) : Nat := sy * 256 + sx

/-- A number that names a site: sx 0-191, sy 0-183 (R14). -/
def isSite (s : Nat) : Bool := decide (siteX s < 192) && decide (siteY s < 184)

/-- The field of a site (R14). -/
def fieldOf (s : Nat) : Nat := 8 * (siteY s / 23) + siteX s / 24

def fieldX (f : Nat) : Nat := f % 8

def fieldY (f : Nat) : Nat := f / 8

/-- The anchor field (0,3) (R27). -/
def anchorField : Nat := 24

/-- The control index of a site, if it is a control site (R17). -/
def controlOf (s : Nat) : Option Nat := Config.controlIndex (siteX s % 24) (siteY s % 23)

/-- The site of control site i of field f (R17). -/
def controlSite (f i : Nat) : Nat :=
  let p := Config.controlLocal.getD i (5, 5)
  siteNum (24 * fieldX f + p.1) (23 * fieldY f + p.2)

/-- Tile numbers 0xC000-0xC0FF are control sites (R17). -/
def isControlTile (t : Nat) : Bool := decide (0xC000 ≤ t) && decide (t ≤ 0xC0FF)

/-- Reserved tile numbers (R21); 0xFFFF is refused with them where no rule allows it. -/
def isReservedTile (t : Nat) : Bool := !(decide (t < 0x8000) || isControlTile t)

/-- The site that tile t is bound to at ship, swept row by row past the control sites (R19).  Which C0 compute sites are the spares the spec
does not say: the last 2,304 of the sweep (DESIGN CHOICE, log entry 4). -/
def shipSite (t : Nat) : Nat :=
  let block := t / 4384
  let r := t % 4384
  let rowStart (ly : Nat) : Nat := ly * 192 - (if ly > 5 then 16 else 0) - (if ly > 17 then 16 else 0)
  let ly := ((List.range 23).filter (fun y => decide (rowStart y ≤ r))).length - 1
  let c := r - rowStart ly
  let sx := if ly = 5 ∨ ly = 17 then
      let q := c % 22
      (c / 22) * 24 + (if q < 5 then q else if q < 17 then q + 1 else q + 2)
    else c
  siteNum sx (23 * block + ly)

/-- Whether a site is bound at ship (R19). -/
def shipBound (s : Nat) : Bool :=
  isSite s && (controlOf s).isNone && decide (Config.sweepIndex (siteX s) (siteY s) < 32768)

/-- The attachment index j of an edge field that is not a corner (R88). -/
def attachOf (f : Nat) : Option Nat :=
  let x := fieldX f
  let y := fieldY f
  if y = 0 ∧ 1 ≤ x ∧ x ≤ 6 then some (x - 1)
  else if x = 7 ∧ 1 ≤ y ∧ y ≤ 6 then some (y + 5)
  else if y = 7 ∧ 1 ≤ x ∧ x ≤ 6 then some (18 - x)
  else if x = 0 ∧ 1 ≤ y ∧ y ≤ 6 then some (24 - y)
  else none

/-- The field of attachment index j (R88). -/
def fieldOfHome (j : Nat) : Nat :=
  if j < 6 then j + 1 else if j < 12 then 8 * (j - 5) + 7 else if j < 18 then 56 + (18 - j) else 8 * (24 - j)

/-- The gateway of a field stands at the field's control site 3 for routing (log entry 9). -/
def gwSite (f : Nat) : Nat := controlSite f 3

/-- The site at which Folvibel port q joins the mesh: that of the gateway of its corner field (R27, R448; log entry 9). -/
def portSite (q : Nat) : Nat := gwSite (if q < 8 then 0 else if q < 16 then 7 else if q < 24 then 63 else 56)

/-- A detour entry that holds a destination (R263). -/
def detourHit (e : Word) (dst : Nat) : Bool :=
  e.getLsbD 63 && decide ((e.extractLsb' 16 8).toNat ≤ siteY dst) && decide (siteY dst ≤ (e.extractLsb' 24 8).toNat)
    && decide ((e.extractLsb' 0 8).toNat ≤ siteX dst) && decide (siteX dst ≤ (e.extractLsb' 8 8).toNat)

/-- The port of R262; 4 is local. -/
def plainPort (at_ dst : Nat) : Nat :=
  if siteX dst < siteX at_ then 3 else if siteY dst < siteY at_ then 0 else if siteY at_ < siteY dst then 2
  else if siteX at_ < siteX dst then 1 else 4

/-- The space of an address, in its top four bits. -/
def spaceOf (a : Word) : Nat := (a.extractLsb' 60 4).toNat

/-- The fields of a global vault address (R149). -/
def globalTile (a : Word) : Nat := (a.extractLsb' 32 16).toNat

/-- The tile that serves a control-space address: the tile's own block, or the anchor's control site 0 (log entry 9). -/
def ctrlTile (a : Word) : Nat :=
  if a.extractLsb' 32 28 == 3 then (a.extractLsb' 12 16).toNat else 0xC000 + anchorField * 4

/-- The global number of a core: four to a tile. -/
def coreKey (tile core : Nat) : Nat := tile * 4 + core

/-- The global number of a context: 64 to a core (R334). -/
def ctxKey (core num : Nat) : Nat := core * 64 + num

def tileOfCore (c : Nat) : Nat := c / 4

/-- Contexts in a spill area keep their core under numbers from 2^40 (R403). -/
def spillBase : Nat := 2 ^ 40

def coreOfCtx (k : Nat) : Nat := k % spillBase / 64

def tileOfCtx (k : Nat) : Nat := k % spillBase / 256

/-- The units of a PA (R87). -/
def paUnit (pa : Nat) : Nat := pa / 2 ^ 40

def paOff (pa : Nat) : Nat := pa % 2 ^ 40

namespace State

def ctx (s : State) (k : Nat) : Ctx := Tbl.get {} s.ctxs k

def setCtx (s : State) (k : Nat) (c : Ctx) : State := { s with ctxs := Tbl.set {} s.ctxs k c }

def core (s : State) (k : Nat) : Core := Tbl.get {} s.cores k

def setCore (s : State) (k : Nat) (c : Core) : State := { s with cores := Tbl.set {} s.cores k c }

def tile (s : State) (k : Nat) : Tile := Tbl.get {} s.tiles k

def setTile (s : State) (k : Nat) (t : Tile) : State := { s with tiles := Tbl.set {} s.tiles k t }

def site (s : State) (k : Nat) : Site := Tbl.get {} s.sites k

def setSite (s : State) (k : Nat) (t : Site) : State := { s with sites := Tbl.set {} s.sites k t }

def crew (s : State) (k : Nat) : Crew := Tbl.get {} s.crews k

def setCrew (s : State) (k : Nat) (c : Crew) : State := { s with crews := Tbl.set {} s.crews k c }

def part (s : State) (k : Nat) : Part := Tbl.get {} s.parts k

def setPart (s : State) (k : Nat) (p : Part) : State := { s with parts := Tbl.set {} s.parts k p }

def gw (s : State) (k : Nat) : Gw := Tbl.get {} s.gws k

def setGw (s : State) (k : Nat) (g : Gw) : State := { s with gws := Tbl.set {} s.gws k g }

def home (s : State) (k : Nat) : Home := Tbl.get {} s.homes k

def setHome (s : State) (k : Nat) (h : Home) : State := { s with homes := Tbl.set {} s.homes k h }

def vset (s : State) (k : Nat) : VSet := Tbl.get {} s.vsets k

def setVset (s : State) (k : Nat) (v : VSet) : State := { s with vsets := Tbl.set {} s.vsets k v }

def field (s : State) (k : Nat) : Fld := Tbl.get {} s.fields k

def setField (s : State) (k : Nat) (f : Fld) : State := { s with fields := Tbl.set {} s.fields k f }

def host (s : State) (k : Nat) : HostFn := Tbl.get {} s.hosts k

def setHost (s : State) (k : Nat) (h : HostFn) : State := { s with hosts := Tbl.set {} s.hosts k h }

/-- The rebind entry of a tile as every router holds it once a flood is over (R261, R290). -/
def bound (s : State) (t : Nat) : Nat := (Tbl.get 0xFFFF s.rebind t).toNat

/-- The rebind entry of a tile in the router of one site: the old entry while a flood has not reached it (R290). -/
def boundAt (s : State) (router t : Nat) : Nat :=
  match s.floods.find? (fun f => f.tile == t && !f.applied.contains router) with
  | some f => f.old.toNat
  | none => s.bound t

/-- Whether a tile number names a control site or a bound logical tile. -/
def tileBound (s : State) (t : Nat) : Bool :=
  isControlTile t || decide (t < 0x8000) && s.bound t != 0xFFFF

/-- The site of a tile: control sites are fixed, logical tiles go through the rebind table (R17, R261). -/
def siteOf (s : State) (t : Nat) : Nat :=
  if isControlTile t then controlSite ((t - 0xC000) / 4) ((t - 0xC000) % 4) else s.bound t

/-- The tile at a site, if one is bound there. -/
def tileAt (s : State) (site : Nat) : Option Nat :=
  match controlOf site with
  | some i => some (0xC000 + fieldOf site * 4 + i)
  | none => (s.rebind.find? (fun e => e.2.toNat == site)).map Prod.fst

/-- The belay partner of a tile (R413). -/
def partnerOf (s : State) (t : Nat) : Nat := (Tbl.find s.partner t).getD (t ^^^ 0x4000)

/-- A site whose field has power and has joined (R30, R452). -/
def siteUp (s : State) (site : Nat) : Bool := (s.field (fieldOf site)).power && (s.field (fieldOf site)).joined

/-- QSC.Q is 1 (R457). -/
def quiesced (s : State) : Bool := s.sys.qsc.getLsbD 0

/-- Whether a repair pauses the HBM4E channel of a PA (R461); which channel that is the spec does not say (log entry 6). -/
def chanHeld (s : State) (pa : Nat) : Bool :=
  decide (paUnit pa < 0x30) && !s.sys.held.isEmpty && s.sys.held.contains (64 * paUnit pa + (Config.hbmChannel pa).val)

/-- The port that a detour entry of a router gives for a destination: the first entry that holds it (R263). -/
def detourAt (s : State) (at_ dst : Nat) : Option Nat :=
  let t := (s.site at_).detour
  ((List.range 16).find? (fun i => detourHit (Tbl.get 0 t i) dst)).map (fun i => ((Tbl.get 0 t i).extractLsb' 32 3).toNat)

/-- The output port a router chooses: a detour entry, else R262. -/
def outPort (s : State) (at_ dst : Nat) : Nat := (s.detourAt at_ dst).getD (plainPort at_ dst)

/-- The Folvibel ports that lead toward a wafer (R449). -/
def peerPorts (s : State) (wafer : Nat) : List Nat :=
  (List.range 32).filter (fun q => (Tbl.get 0 s.sys.fvroute wafer).getLsbD q)

/-- A Folvibel port is trained (R448). -/
def portUp (s : State) (q : Nat) : Bool := (Tbl.get 0 s.sys.fv q).getLsbD 63

/-- The port toward a wafer that traffic of number k uses (R449). -/
def peerPort (s : State) (wafer k : Nat) : Option Nat :=
  let ps := s.peerPorts wafer
  ps[k % ps.length]?

/-- The real-cycle counter of a tile's site (R481). -/
def rcOf (s : State) (t : Nat) : Nat := (s.site (s.siteOf t)).ctr

/-- The partition a tile lies in. -/
def partOfTile (s : State) (t : Nat) : Option Nat :=
  (List.range 16).find? (fun p => decide ((s.part p).base ≤ t) && decide (t < (s.part p).base + (s.part p).count))

end State

/-- Far memory is keyed by physical address, below 2^48; vaults lie above it, 2^24 bytes to a site. -/
def vaultKey (site bank off : Nat) : Nat := 2 ^ 48 + site * 2 ^ 24 + bank * 2 ^ 17 + off

namespace State

/-- Bytes mapped by CXL port j: 512 GB at most, 0 while the port is down (R111, R447). -/
def cxlLimit (s : State) (j : Nat) : Nat :=
  let w := Tbl.get 0 s.sys.cxl j
  if w.getLsbD 63 then min ((w.extractLsb' 0 16).toNat * 10 ^ 9) (2 ^ 39) else 0

/-- Whether a PA exists (R87). -/
def paOk (s : State) (pa : Nat) : Bool :=
  if paUnit pa < 0x30 then decide (paOff pa < 2 ^ 36)
  else if 0x40 ≤ paUnit pa ∧ paUnit pa ≤ 0x57 then decide (paOff pa < s.cxlLimit (paUnit pa - 0x40)) else false

/-- Whether a leaf may map a PA: not the sequence tables at the top of stack 2j (R105), not the deep-belay area (R112). -/
def leafOk (s : State) (pa : Nat) : Bool :=
  s.paOk pa
    && !(decide (paUnit pa < 0x30) && paUnit pa % 2 == 0 && decide (2 ^ 36 - 2 ^ 27 ≤ paOff pa))
    && !(decide (0x40 ≤ paUnit pa) && s.sys.dbctl.getLsbD 0
          && decide (s.cxlLimit (paUnit pa - 0x40) - 150 * 10 ^ 9 ≤ paOff pa))

/-- The home gateway of a PA (R88). -/
def homeOfPa (pa : Nat) : Nat := if paUnit pa < 0x30 then paUnit pa / 2 else paUnit pa - 0x40

/-- The key of a vault byte. -/
def locKey (s : State) (l : Loc) : Nat := vaultKey (s.siteOf l.tile) l.bank l.off

def readLoc (s : State) (l : Loc) (n : Nat) : List Byte := memReadN s.mem (s.locKey l) n

/-- The number of a line among all lines of a site. -/
def lineNo (bank off : Nat) : Nat := bank * 2048 + off / 64

/-- Marking the lines of banks 0-55 that a write touches as dirty (R416). -/
def markDirty (s : State) (site : Nat) (bank off n : Nat) : State :=
  let t := s.site site
  let ls := if bank < 56 then [lineNo bank off, lineNo bank (off + n - 1)] else []
  s.setSite site { t with dirty := ls.foldl (fun d l => if d.contains l then d else l :: d) t.dirty }

/-- A write to a vault: the bytes and the dirty mark. -/
def writeLoc (s : State) (l : Loc) (bs : List Byte) : State :=
  let site := s.siteOf l.tile
  let s1 := { s with mem := memWriteN s.mem (s.locKey l) bs }
  if bs.isEmpty then s1 else s1.markDirty site l.bank l.off bs.length

/-- A write to far memory by physical address. -/
def writePa (s : State) (pa : Nat) (bs : List Byte) : State := { s with mem := memWriteN s.mem pa bs }

def readPa (s : State) (pa n : Nat) : List Byte := memReadN s.mem pa n

/-- A fresh number for an outstanding operation. -/
def fresh (s : State) : Nat × State := (s.nextId, { s with nextId := s.nextId + 1 })

end State

end Sys2Proof.Machine
end

