-- ==== Sys2Proof/Machine/Ops.lean ====
section
/-! DEFINITION. The named operations of a thread: its context, registers and guard (R48, R51, R176-R180), how a group can
stop (R40, R156), taking a trap and returning from one (R388-R392, R398, R408), waiting and waking (R331, R335), packets
(R257, R261) and outstanding operations (R173, R304). -/

namespace Sys2Proof.Machine

/-- Outcomes of a step. -/
abbrev Ans := Host.Outcome State Fault Refusal

/-- How a group ends other than by executing: a synchronous trap (R389), a refusal that leaves the thread present
(R156), or a wait after which the group issues again: `sleep` changes nothing but the thread's wait, `again` has sent a
request.  `note` is a trap whose record says more: a barrier fault (ASYN, R388) or a bank conflict with its holder (R158).  `held` is a
refusal for a line that a cut has still to send (R417). -/
inductive Stop where
  | trap (cause : BitVec 8) (eaddr : Word)
  | note (cause : BitVec 8) (eaddr : Word) (asyn : Bool) (holder : Option (Nat × Nat))
  | refuse
  | held (line : Nat)
  | sleep (w : Wait)
  | again (s : State)

/-- The effect of an instruction: the state it leaves, or how its group stops. -/
abbrev Act := Except Stop State

/-- Causes of R388. -/
def cIllegal : BitVec 8 := 0x01
def cReserved : BitVec 8 := 0x02
def cLine : BitVec 8 := 0x03
def cTarget : BitVec 8 := 0x04
def cPrivilege : BitVec 8 := 0x05
def cLimit : BitVec 8 := 0x06
def cRights : BitVec 8 := 0x07
def cDetached : BitVec 8 := 0x08
def cBank : BitVec 8 := 0x09
def cSchedule : BitVec 8 := 0x0A
def cTiming : BitVec 8 := 0x0B
def cFormat : BitVec 8 := 0x0C
def cAlign : BitVec 8 := 0x0D
def cVersion : BitVec 8 := 0x0E
def cReserve : BitVec 8 := 0x0F
def cPhase : BitVec 8 := 0x10
def cFp : BitVec 8 := 0x11
def cTrap : BitVec 8 := 0x12
def cBreak : BitVec 8 := 0x13
def cCopy : BitVec 8 := 0x14
def cMessage : BitVec 8 := 0x15
def cHop : BitVec 8 := 0x16
def cPeer : BitVec 8 := 0x17
def cKnot : BitVec 8 := 0x18
def cLaunch : BitVec 8 := 0x19

/-- Stop with a trap when a check fails. -/
def check (ok : Bool) (cause : BitVec 8) (eaddr : Word) : Except Stop Unit :=
  if ok then .ok () else .error (.trap cause eaddr)

/-- PEER_LOST and STALE_PEER trap as 0x17, every other far code as copy fault (R95). -/
def farCause (err : BitVec 8) : BitVec 8 := if err == 0x09 || err == 0x0A then cPeer else cCopy

/-- The WAIT code of a wait (R395). -/
def Wait.code (w : Wait) : Nat :=
  match w with
  | .none => 0
  | .sleep .. => 0x01
  | .knotWait | .knotAsk _ => 0x02
  | .ibpop _ => 0x03
  | .barw _ => 0x04
  | .link _ => 0x05
  | .twin => 0x06
  | .reap .. => 0x07
  | .give .. => 0x08
  | .reclaim .. => 0x09
  | .drain _ | .drainBank .. => 0x0A
  | .fence _ => 0x0B
  | .phase .. => 0x0C
  | .lrw .. => 0x0D
  | .launch .. => 0x0E
  | .blayW .. | .blayDeep _ => 0x0F
  | .mma => 0x10
  | .mzero => 0x11
  | .mldc => 0x12
  | .mstc => 0x13
  | .load | .store => 0x14
  | .amo => 0x15
  | .hop .. => 0x16
  | .rfork .. | .recruit _ => 0x17
  | .join .. => 0x18
  | .taskend _ => 0x19
  | .knotRd _ => 0x1A
  | .swap .. => 0x1B
  | .stop .. => 0x1C
  | .version _ => 0x1D
  | .sample .. => 0x1E
  | .fetch _ => 0x20
  | .parkedBarw _ => 0x21
  | .parkedAmo => 0x22

/-- A context with the private results of the pair it waited in (R40). -/
def Ctx.withLate (c : Ctx) : Ctx :=
  let l := c.late
  { c with x := Tbl.setAll 0 c.x l.x, v := Tbl.setAll 0 c.v l.v, m := Tbl.setAll 0 c.m l.m
           p := (c.p &&& ~~~l.pm) ||| (l.p &&& l.pm), fst := c.fst ||| l.fl.setWidth 16, late := {} }

/-- Nothing asked, nothing answered. -/
def Ctx.noAsk (c : Ctx) : Ctx := { c with reply := none, reply2 := none, goes := none, goes2 := none, asked := none }

/-- No access of the group in issue is under way or answered. -/
def Ctx.whole (c : Ctx) : Bool := c.reply.isNone && c.reply2.isNone && c.asked.isNone

/-- The answer to the member that waits. -/
def Ctx.answer (c : Ctx) (v : BitVec 512) : Ctx := if c.memb then { c with reply2 := some v } else { c with reply := some v }

namespace State

/-- The core of the group in issue. -/
def myCore (s : State) : Nat := coreKey s.cur.tile s.cur.core

/-- The context of the group in issue. -/
def myCtx (s : State) : Nat := ctxKey s.myCore s.cur.num

def me (s : State) : Ctx := s.ctx s.myCtx

/-- The registers a member reads: those the group found, also while its second member runs (R8, R40). -/
def view (s : State) : Ctx := s.cur.old.getD s.me

def modCtx (s : State) (k : Nat) (f : Ctx → Ctx) : State := s.setCtx k (f (s.ctx k))

def modCore (s : State) (k : Nat) (f : Core → Core) : State := s.setCore k (f (s.core k))

def modTile (s : State) (k : Nat) (f : Tile → Tile) : State := s.setTile k (f (s.tile k))

def modSite (s : State) (k : Nat) (f : Site → Site) : State := s.setSite k (f (s.site k))

def modCrew (s : State) (k : Nat) (f : Crew → Crew) : State := s.setCrew k (f (s.crew k))

def modMe (s : State) (f : Ctx → Ctx) : State := s.modCtx s.myCtx f

def here (s : State) : Core := s.core s.myCore

def myTile (s : State) : Tile := s.tile s.cur.tile

/-- The rc of the issuing tile's site. -/
def rc (s : State) : Nat := s.rcOf s.cur.tile

/-- Privilege level of the issuing thread (R387). -/
def level (s : State) : Nat := s.view.lvl.toNat

/-- %vcc: the tile's copy of the crew VCC, or the site counter for a context of no crew (R185, R481). -/
def vccOf (s : State) (k : Nat) : Nat :=
  if (s.ctx k).crew.isSome then (s.tile (tileOfCtx k)).vcc else s.rcOf (tileOfCtx k)

def myVcc (s : State) : Nat := s.vccOf s.myCtx

/-- The crew of the issuing thread, as a live record. -/
def myCrew (s : State) : Option Crew := s.view.crew.map s.crew

/-- The partition a thread acts for: its crew's, or the one its tile lies in (R481). -/
def myPart (s : State) : Option Nat :=
  match s.view.crew with
  | some c => some (s.crew c).part
  | none => s.partOfTile s.cur.tile

/-- Predicate registers as they read: p0 is 1 (R176). -/
def readP (s : State) (p : BitVec 3) : Bool := p == 0 || s.view.p.getLsbD p.toNat

/-- A write to p0 is discarded (R176). -/
def writeP (s : State) (p : BitVec 3) (v : Bool) : State :=
  if p == 0 then s
  else s.modMe (fun c => { c with p := (c.p &&& ~~~(1#8 <<< p.toNat)) ||| (BitVec.ofBool v).setWidth 8 <<< p.toNat })

/-- Mask registers as they read: m0 is all ones (R176). -/
def readM (s : State) (m : BitVec 3) : BitVec 16 := if m == 0 then 0xFFFF else Tbl.get 0 s.view.m m.toNat

def writeM (s : State) (m : BitVec 3) (v : BitVec 16) : State :=
  if m == 0 then s else s.modMe (fun c => { c with m := Tbl.set 0 c.m m.toNat v })

/-- A scalar register as a group reads it: x0 is 0, k registers as they have landed (R48, R176, R178). -/
def readX (s : State) (r : BitVec 6) : Word :=
  if r == 0 then 0
  else if r.toNat < 32 then Tbl.get 0 s.view.x r.toNat
  else Tbl.get 0 s.here.k (r.toNat - 32)

/-- Writing a scalar register of a context: a private register at once, a shared one landing `lat` rc later with the
slot's rank (R178, R179); x0 discards. -/
def putX (s : State) (k : Nat) (rank : Nat) (r : BitVec 6) (v : Word) (lat : Nat) : State :=
  if r == 0 then s
  else if r.toNat < 32 then s.modCtx k (fun c => { c with x := Tbl.set 0 c.x r.toNat v })
  else s.modCore (coreOfCtx k) (fun c =>
    { c with pend := c.pend ++ [{ due := s.rcOf (tileOfCtx k) + lat, rank, isVec := false, reg := r.toNat - 32,
                                  val := v.setWidth 512 }] })

/-- The issuing thread writes a scalar register with latency `lat`. -/
def writeX (s : State) (r : BitVec 6) (v : Word) (lat : Nat) : State := s.putX s.myCtx s.cur.slot r v lat

/-- The guard of an instruction (R51). -/
def guard (s : State) (g : Guard) : Bool := s.readP g.pg ^^ g.pn

/-- Flags raised by a member are gathered for the group (R81). -/
def raiseFlags (s : State) (f : BitVec 5) : State := { s with cur := { s.cur with flags := s.cur.flags ||| f } }

def setRes (s : State) (r : Result) : State := { s with cur := { s.cur with res := r } }

/-- The slot a context occupies. -/
def slotOf (s : State) (k : Nat) : Option Nat :=
  if spillBase ≤ k then none
  else (List.range 16).find? (fun i => Tbl.get 0 (s.core (coreOfCtx k)).slots i == k % 64 + 1)

/-- The context in a slot of a core. -/
def inSlot (s : State) (core slot : Nat) : Option Nat :=
  let n := Tbl.get 0 (s.core core).slots slot
  if n = 0 then none else some (ctxKey core (n - 1))

/-- The 128-byte flits of a packet (R257, R258). -/
def flitsOf (b : Body) : Nat :=
  let n (bytes : Nat) : Nat := max 1 ((bytes + 127) / 128)
  match b with
  | .msg _ data _ => n (32 + data.length)
  | .hop h .. => n (32 + h.len)
  | .hopAck _ c => n (32 + (if c.used then 688 else 0))
  | .mcast lines .. => n lines.length
  | .route bytes .. => n bytes.length
  | .reply _ _ data _ => n data.length
  | _ => 1

/-- The least router cycles that a gateway, a home or the way to another wafer adds (R482). -/
def serviceOf (b : Body) : Nat :=
  match b with
  | .far r => if r.port.isSome then 40 else 4
  | .home _ _ pa _ => if 0x40 ≤ paUnit pa then 640 else 96
  | _ => 0

/-- A packet asks to enter the mesh at its source's router, which resolves the destination tile (R259, R261); an arrival at a barrier of
its own tile needs no way through the mesh (R125). -/
def sendTo (s : State) (srcTile dstSite lane ctx stream : Nat) (body : Body) : State :=
  let src := s.siteOf srcTile
  let local_ : Bool := match body with | .arrive .. => dstSite == src | _ => false
  { s with nextId := s.nextId + 1
           net := s.net ++ [{ id := s.nextId, pos := src, dst := dstSite, lane := BitVec.ofNat 2 lane, src := srcTile, ctx, stream, body,
                              at_ := 2 * (s.site dstSite).ctr + 1, here := 2 * (s.site src).ctr, inj := local_ }] }

/-- The packet with a number is not in the mesh any more. -/
def dropPkt (s : State) (id : Nat) : State := { s with net := s.net.filter (fun p => p.id != id) }

def modPkt (s : State) (id : Nat) (f : Pkt → Pkt) : State := { s with net := s.net.map (fun p => if p.id == id then f p else p) }

/-- A packet starts at the router of a site, as those of its gateway, its home or the router itself do (R258, R482). -/
def movePkt (s : State) (id site : Nat) : State :=
  let now := 2 * (s.site site).ctr
  s.modPkt id (fun p => { p with pos := site, inj := true, here := now, at_ := if site = p.dst then now + serviceOf p.body else p.at_ })

/-- A packet to a logical tile or a control site. -/
def send (s : State) (srcTile dstTile lane ctx stream : Nat) (body : Body) : State :=
  s.sendTo srcTile (if isControlTile dstTile then s.siteOf dstTile else s.boundAt (s.siteOf srcTile) dstTile)
    lane ctx stream body

/-- The tile that a hop or request is for, one of those that a fence returns to their source (R264); 0xFFFF stands for a home or
gateway. -/
def requestTile (b : Body) : Option Nat :=
  match b with
  | .read l .. | .write l .. | .bari l .. | .amo l .. | .lrw l | .sch l .. | .relq l _ | .knot l .. => some l.tile
  | .mcast lines .. => lines.head?.map (fun x => x.1.tile)
  | .window a .. => some (if spaceOf a == 4 then globalTile a else ctrlTile a)
  | .hop h .. => some h.dtile
  | .far _ | .home .. | .version .. | .fork .. => some 0xFFFF
  | _ => none

/-- Two packets of one stream to one place: one router, or one tile that a fence has turned one of them back from (R151, R264). -/
def samePlace (a b : Pkt) : Bool :=
  a.dst == b.dst || (match requestTile a.body with
    | some t => decide (t < 0x8000) && requestTile b.body == some t
    | none => false)

/-- What a packet acts on where it lands, as a kind and its parts: a bank (R155), an inbox (R291), a trap queue (R392). -/
def meetsAt (b : Body) : List (Nat × Nat × Nat) :=
  let bank (l : Loc) : List (Nat × Nat × Nat) := [(0, l.tile, l.bank)]
  match b with
  | .read l .. | .write l .. | .arrive l .. | .bari l .. | .amo l .. | .lrw l | .sch l .. | .relq l _ | .knot l .. => bank l
  | .mcast lines bar .. => lines.flatMap (fun x => bank x.1) ++ bar.toList.flatMap bank
  | .route bytes bar .. => bytes.flatMap (fun x => bank x.1) ++ bar.toList.flatMap bank
  | .msg h .. => [(1, h.dtile, h.ibx.toNat)]
  | .trap core _ => [(2, core, 0)]
  | _ => []

/-- BARI comes before the arrivals of its router cycle at its barrier (R125, R144). -/
def initsFirst (a b : Body) : Bool :=
  match a, b with
  | .bari l .., .arrive m .. | .bari l .., .mcast _ (some m) .. | .bari l .., .route _ (some m) .. => l == m
  | _, _ => false

/-- Of two packets that have arrived at one place, whether q goes before p: BARI before arrivals, then the lower source site
where q came in no later a router cycle (R125, R153, R155, R291, R301, R312); records of a trap queue in arrival order (R392). -/
def outranks (s : State) (q p : Pkt) : Bool :=
  let lower := decide (s.siteOf q.src < s.siteOf p.src)
  q.id != p.id && q.pos == q.dst && q.inj && q.dst == p.dst && (meetsAt p.body).any (fun m => (meetsAt q.body).contains m)
    && (match p.body with
      | .trap .. => decide (q.at_ < p.at_) || q.at_ == p.at_ && lower
      | _ => decide (q.at_ ≤ p.at_) && (initsFirst q.body p.body || lower && !initsFirst p.body q.body))

/-- The router cycle in which a packet came is over, so that every other of that cycle is known; a flit of a static route has its own due
cycle (R267, log entry 7). -/
def cameIn (s : State) (k : Pkt) : Bool :=
  match k.body with
  | .route .. => true
  | _ => decide (k.at_ ≤ 2 * (s.site k.dst).ctr)

/-- A packet that has arrived, is of the asked kind and meets no fence (R264), hole (R18) or detour (R263) leaves the mesh; packets of one
stream to one place arrive in the order they were sent (R151, R277, log entry 7), and packets that meet at one place go in their order there,
once the router cycle in which they came is over. -/
def arrived (s : State) (n : Nat) (p : Body → Bool) : Option (Pkt × State) :=
  match s.net[n]? with
  | none => none
  | some k =>
    if k.pos == k.dst && k.inj && k.back.isNone && p k.body && !(s.site k.pos).fence.contains k.dst && !(s.site k.pos).hole
        && (s.detourAt k.pos k.dst).isNone && s.cameIn k
        && (s.net.take n).all (fun q => q.stream == 0 || q.stream != k.stream || !samePlace q k)
        && s.net.all (fun q => !s.outranks q k) then
      some (k, { s with net := s.net.eraseIdx n })
    else none

/-- Ordered streams of a context and of a core. -/
def streamOf (kind : Nat) (k : Nat) : Nat := 16 * k + kind + 1

/-- Counting an operation until it is acknowledged (R173, R304). -/
def addOut (s : State) (k : Nat) (kind : OutKind) (left : Nat) : Nat × State :=
  let s1 : State := { s with nextId := s.nextId + 1 }
  (s.nextId, s1.modCore (coreOfCtx k) (fun c => { c with outs := c.outs ++ [{ id := s.nextId, ctx := k, kind, left }] }))

/-- One acknowledgement of an outstanding operation. -/
def ackOut (s : State) (core id : Nat) : State :=
  s.modCore core (fun c => { c with outs := c.outs.filterMap (fun o =>
    if o.id == id then (if o.left ≤ 1 then none else some { o with left := o.left - 1 }) else some o) })

/-- What a context has outstanding (R173). -/
def outsOf (s : State) (k : Nat) : List Nat :=
  ((s.core (coreOfCtx k)).outs.filter (fun o => o.ctx == k)).map Out.id

/-- The thread has issued and waits; its group completes at the event that ends the wait (R331). -/
def await (s : State) (w : Wait) : State := (s.modMe (fun c => { c with wait := w })).setRes .waiting

/-- What the other member of a waiting pair wrote is written when the group completes (R40). -/
def landLate (s : State) (k : Nat) : State :=
  let l := (s.ctx k).late
  let rc := s.rcOf (tileOfCtx k)
  (s.modCore (coreOfCtx k) (fun c => { c with pend := c.pend ++ l.pend.map (fun e => { e with due := rc + e.due }) })).modCtx k
    Ctx.withLate

/-- A waiting group completes: its other member's results are written and the thread goes on after it (R40, R314, R326). -/
def complete (s : State) (k : Nat) : State :=
  (s.landLate k).modCtx k (fun c =>
    { c.noAsk with wait := .none, s := c.after, memb := false, since := s.vccOf k })

/-- A waiting group faults precisely: neither member has changed anything, and the fault is raised at the thread's next turn
at the group (R40, R289). -/
def failWait (s : State) (k : Nat) (cause : BitVec 8) (eaddr : Word) : State :=
  let pops := (s.ctx k).late.pops
  let back (e : Bool) : List Vec := (pops.filter (fun w => w.1 == e)).map Prod.snd
  (s.modCore (coreOfCtx k) (fun c => { c with
    le := back true ++ c.le, owedE := c.owedE - (back true).length
    lw := back false ++ c.lw, owedW := c.owedW - (back false).length })).modCtx k (fun c =>
    { c.noAsk with wait := .none, late := {}, since := s.vccOf k, pmemb := c.memb
                   pend := some (cause, eaddr, false), later := c.pend.toList ++ c.later })

/-- Where the access of the member in issue goes, if it has issued before (R150). -/
def going (s : State) : Option Going := if s.cur.memb then s.me.goes2 else s.me.goes

def setGoing (s : State) (g : Going) : State :=
  s.modMe (fun c => if s.cur.memb then { c with goes2 := some g } else { c with goes := some g })

/-- What the member in issue was answered. -/
def answered? (s : State) : Option (BitVec 512) := if s.cur.memb then s.me.reply2 else s.me.reply

/-- The member in issue has taken its answer. -/
def tookReply (s : State) : State :=
  s.modMe (fun c => if s.cur.memb then { c with reply2 := none, goes2 := none } else { c with reply := none, goes := none, asked := none })

/-- A waiting group issues again at the thread's next turn. -/
def reissue (s : State) (k : Nat) : State := s.modCtx k (fun c => { c with wait := .none, since := s.vccOf k })

/-- Rank of a context's landings: the slot it is in, or was in when it issued (R179). -/
def rankOf (s : State) (k : Nat) : Nat := (s.slotOf k).getD ((s.ctx k).lastSlot.getD 0)

/-- A waiting group completes with a scalar result. -/
def completeX (s : State) (k : Nat) (d : BitVec 6) (v : Word) (lat : Nat) : State :=
  (s.putX k (s.rankOf k) d v lat).complete k

/-- Whether a tile replays its crew's log (R430). -/
def replaying (s : State) (t : Nat) : Bool :=
  match (s.tile t).crew with
  | none => false
  | some c => match (s.crew c).replayTo with
    | some h => decide ((s.tile t).vcc < h)
    | none => false

/-- A record of the crew log at the tile where the event lands (R421, R422).  In a replay an event that the log holds is the
one logged; any other is new. -/
def logEv (s : State) (tile : Nat) (ev : LogEv) (bytes : Nat) : State :=
  match (s.tile tile).crew with
  | none => s
  | some c =>
    match (if s.replaying tile then (s.crew c).redo.findIdx? (fun r => r.tile == tile && r.ev == ev) else none) with
    | some i => s.modCrew c (fun w => { w with redo := w.redo.eraseIdx i })
    | none =>
    let n := 16 + (bytes + 15) / 16 * 16
    let s1 := s.modCrew c (fun w => { w with log := w.log ++ [{ vc := (s.tile tile).vcc, tile, ev, size := n }] })
    let s2 := s1.modSite (s1.siteOf tile) (fun t => { t with logB := t.logB + n })
    s2.modSite (s2.siteOf (s2.partnerOf tile)) (fun t => { t with repB := t.repB + n })

/-- The next logged value for a context that a replay has not used (R421). -/
def loggedAnswer (s : State) (k : Nat) : Option Word :=
  match (s.ctx k).crew with
  | none => none
  | some c => ((s.crew c).redo.filterMap (fun r => match r.ev with | .answer k' v => if k' == k then some v else none | _ => none)).head?

/-- The first record of a kind leaves what a replay still has to apply. -/
def dropRedo (s : State) (crew : Nat) (p : LogEv → Bool) : State :=
  s.modCrew crew (fun w => { w with redo := match w.redo.findIdx? (fun r => p r.ev) with
    | some i => w.redo.eraseIdx i
    | none => w.redo })

/-- An event whose next record in the log a replay of a tile has not reached: its vc lies ahead (R430). -/
def redoAhead (s : State) (t : Nat) (p : LogEv → Bool) : Bool :=
  s.replaying t && (match (s.tile t).crew with
    | none => false
    | some c => match (s.crew c).redo.find? (fun r => p r.ev) with
      | some r => decide ((s.tile t).vcc < r.vc)
      | none => false)

/-- A logged wake of a context from its present wait. -/
def wakeOf (s : State) (k : Nat) (e : LogEv) : Bool :=
  match e with
  | .wake k' code => k' == k && code.toNat == (s.ctx k).wait.code
  | _ => false

/-- In a replay events of a kind come about at a tile in the order of their records, each at its vc or later (R430): this one is
next. -/
def redoTurn (s : State) (t : Nat) (kind : LogEv → Bool) (ev : LogEv) : Bool :=
  !s.replaying t || (match (s.tile t).crew with
    | none => true
    | some c => match (s.crew c).redo.find? (fun r => r.tile == t && kind r.ev) with
      | some r => r.ev == ev && decide (r.vc ≤ (s.tile t).vcc)
      | none => true)

/-- The record of an operation of a context that lands at a word by the mesh: where and whose (R301, R421). -/
def orderEv (k : Nat) (l : Loc) : LogEv := .order l.tile l.bank l.off (BitVec.ofNat 64 k)

/-- An operation of a crew's context that came by the mesh may land at its word: in a replay in the logged order (R301). -/
def orderTurn (s : State) (k : Nat) (l : Loc) : Bool :=
  (s.ctx k).crew.isNone || s.redoTurn l.tile (fun e => match e with
    | .order t b o _ => t == l.tile && b == l.bank && o == l.off
    | _ => false) (orderEv k l)

/-- The landing order of such an operation is recorded (R301, R421). -/
def logOrder (s : State) (k : Nat) (l : Loc) : State :=
  if (s.ctx k).crew.isNone then s else s.logEv l.tile (orderEv k l) 0

/-- A wake of this context that a replay still has to make at its logged vc (R421). -/
def wakeHeld (s : State) (k : Nat) : Bool :=
  s.replaying (tileOfCtx k) && (s.ctx k).crew.isSome && (match (s.tile (tileOfCtx k)).crew with
    | none => false
    | some c => (s.crew c).redo.any (fun r => s.wakeOf k r.ev))

/-- A wake of a context whose record a replay has not reached: its vc lies ahead (R430). -/
def wakeAhead (s : State) (k : Nat) : Bool := (s.ctx k).crew.isSome && s.redoAhead (tileOfCtx k) (s.wakeOf k)

/-- A wake of a crew's context is recorded (R421). -/
def logWake (s : State) (k : Nat) (code : BitVec 6) : State :=
  if (s.ctx k).crew.isSome then s.logEv (tileOfCtx k) (.wake k code) 0 else s

/-- The ready bit is set (R335); a thread in SLEEP completes with 1 and the bit is read and cleared (R362), a thread in
KNOT.wait issues again (R365).  Wakes of a crew's threads are logged. -/
def wakeBit (s : State) (k : Nat) : State :=
  let c := s.ctx k
  if !c.used || c.wait.asleep && s.wakeHeld k then s
  else match c.wait with
  | .sleep d _ => (s.completeX k d 1 2).logWake k 0x01
  | .knotWait => ((s.modCtx k (fun c => { c with rdy := true })).reissue k).logWake k 0x02
  | _ => s.modCtx k (fun c => { c with rdy := true })

/-- %ecause of a trap (R189). -/
def ecauseOf (s : State) (k slot : Nat) (memb : Bool) (flags : BitVec 5) (cause : BitVec 8) : Word :=
  BitVec.ofNat 16 (tileOfCtx k) ++ 0#2 ++ BitVec.ofNat 2 (coreOfCtx k % 4) ++ BitVec.ofNat 4 slot ++ 0#24
    ++ BitVec.ofBool memb ++ (s.ctx k).lvl ++ flags ++ cause

/-- The partner core of a core (R391). -/
def partnerCore (s : State) (core : Nat) : Nat :=
  let w := Tbl.get 0 (s.tile (tileOfCore core)).pairR (core % 4)
  let t := (w.extractLsb' 32 16).toNat
  if w.getLsbD 63 && !isReservedTile t && s.tileBound t then coreKey t (w.extractLsb' 0 2).toNat
  else coreKey (tileOfCore core) (core % 4 ^^^ 1)

/-- Where the record of a trap goes: the partner core, or core 0 of control site 0 of the field for a context that holds
a claimed record (R391, R398). -/
def trapTarget (s : State) (k : Nat) : Nat :=
  if (s.ctx k).rcv then coreKey (0xC000 + fieldOf (s.siteOf (tileOfCtx k)) * 4) 0 else s.partnerCore (coreOfCtx k)

/-- A return from a trap of this context that replay still has to apply (R397). -/
def retLogged (s : State) (k : Nat) : Bool :=
  match (s.tile (tileOfCtx k)).crew with
  | none => false
  | some c => (s.crew c).redo.any (fun r => match r.ev with | .ret k' _ _ => k' == k | _ => false)

/-- TAKING A TRAP (R389): the context freezes, its resume state, cause and address are written into a record, and the
record goes to the core that handles it, unless a replay is to apply the logged handling (R397).  Nothing else changes.  %eaddr of the
thread takes the address, 0 too, but for the causes to which R388 gives none (R185, log entry 82). -/
def takeTrap (s : State) (k slot : Nat) (memb asyn : Bool) (flags : BitVec 5) (cause : BitVec 8) (eaddr : Word) : State :=
  let r : TrapRec :=
    { ctx := k, asyn, ecause := s.ecauseOf k slot memb flags cause, eaddr := eaddr,
      holder := if cause == cBank then s.cur.holder else none }
  let target := s.trapTarget k
  let named := eaddr != 0 || !(cause == cIllegal || cause == cReserved || cause == cLine || cause == cPrivilege || cause == cFp)
  let s1 := s.modCtx k (fun c => { c with frz := true, wait := .none, eaddr := if named then eaddr else c.eaddr })
  if s.retLogged k then s1
  else s1.send (tileOfCtx k) (tileOfCore target) 2 k (streamOf 1 (coreOfCtx k)) (.trap target r)

/-- What the trap record of the group in issue will say beside the cause: ASYN and the holder of a bank. -/
def noteTrap (s : State) (asyn : Bool) (holder : Option (Nat × Nat)) : State :=
  { s with cur := { s.cur with asyn, holder } }

/-- The issuing group traps: the shared entry of every synchronous trap. -/
def raise (s : State) (cause : BitVec 8) (eaddr : Word) : State :=
  let s := s.modMe Ctx.noAsk
  let s1 := s.takeTrap s.myCtx s.cur.slot s.cur.memb s.cur.asyn (if cause == cFp then s.cur.flags else 0) cause eaddr
  { s1 with cur := { s1.cur with res := .trapped, cause, eaddr } }

/-- A knot update whose answer its thread waits for (R353). -/
def asksKnot (op : KnotOp) : Bool := match op with | .rd | .probe | .wait .. | .join | .fork _ => true | _ => false

/-- A request that its thread waits for: an AMO, a line to fetch, a knot update that answers (R97, R353). -/
def awaited (k : FarKind) : Bool :=
  match k with
  | .amo (red := red) .. => !red
  | .fetch => true
  | .knot op _ => asksKnot op
  | _ => false

/-- A thread's own request that is parked leaves the park queues: its parking ends (R390). -/
def dropParked (s : State) (k : Nat) : State :=
  let own (r : FarReq) : Bool := r.ctx == k && awaited r.kind
  { s with gws := s.gws.map (fun e => (e.1, { e.2 with park := e.2.park.filter (fun q => !own q.2) })) }

/-- A fault of kind N waits for the thread's next turn, after one that waits already; sleeping and parked threads are made
present, issued waits go on (R390). -/
def pendFault (s : State) (k : Nat) (cause : BitVec 8) (eaddr : Word) (asyn : Bool) : State :=
  let s := if (s.ctx k).parked || (s.ctx k).wait == .parkedAmo then s.dropParked k else s
  s.modCtx k (fun c =>
    let f := (cause, eaddr, asyn)
    let c := if c.pend.isSome then { c with later := c.later ++ [f] } else { c with pend := some f, pmemb := false }
    match c.wait with
    | .sleep .. | .knotWait | .ibpop _ | .barw _ | .twin | .link _ | .parkedBarw _ => { c with wait := .none, since := s.vccOf k }
    | .parkedAmo => { c.noAsk with wait := .none, since := s.vccOf k }
    | .fetch _ => if c.parked then { c with wait := .none, parked := false, since := s.vccOf k } else { c with wait := .none }
    | _ => c)

end State

/-- Running a thread instruction: the thread must exist; a false guard leaves the state as it is (R51); a trap is taken,
a refused or reissuing group says so (R40, R156). -/
def runThread (g : Guard) (s : State) (f : State → Act) : Ans :=
  if !s.me.used then .fault .noThread
  else if !s.guard g then .next s
  else match f s with
    | .ok s' => .next s'
    | .error (.trap cause eaddr) => .next (s.raise cause eaddr)
    | .error (.note cause eaddr asyn holder) => .next ((s.noteTrap asyn holder).raise cause eaddr)
    | .error .refuse => .next (s.setRes .refused)
    | .error (.held l) => .next ({ s with cur := { s.cur with want := some l } }.setRes .refused)
    | .error (.sleep w) => .next ((s.modMe (fun c => { c with wait := w })).setRes .asleep)
    | .error (.again s') => .next (s'.setRes .reissue)

end Sys2Proof.Machine
end

