-- ==== Sys2Proof/Machine/Service.lean ====
section
/-! DEFINITION. The service counters (R463, R464), error records (R465, R466), the trace ring (R300) and task faults
(R349). -/

namespace Sys2Proof.Machine

/-- A saturating addition to n bits of a counter word, from bit `lo` (R463). -/
def satAdd (w : Word) (lo n k : Nat) : Word :=
  let v := (w >>> lo).toNat % 2 ^ n
  w + BitVec.ofNat 64 ((min (v + k) (2 ^ n - 1) - v) <<< lo)

namespace State

/-- Counting in a core's word CORC: 0 refetches, 16 reservations, 32 records waiting, 48 far RED errors. -/
def countCore (s : State) (core lo k : Nat) : State :=
  if k = 0 then s
  else s.modSite (s.siteOf (tileOfCore core)) (fun t =>
    { t with corc := Tbl.set 0 t.corc (core % 4) (satAdd (Tbl.get 0 t.corc (core % 4)) lo 16 k) })

/-- Counting errors of a bank: corrected in [31:0], uncorrectable in [63:48]. -/
def countBank (s : State) (site bank : Nat) (corrected : Bool) : State :=
  s.modSite site (fun t =>
    let w := Tbl.get 0 t.bankc bank
    { t with bankc := Tbl.set 0 t.bankc bank (if corrected then satAdd w 0 32 1 else satAdd w 48 16 1) })

/-- Counting a message dropped at a site. -/
def countMsg (s : State) (site : Nat) : State := s.modSite site (fun t => { t with msgc := satAdd t.msgc 0 64 1 })

/-- A crossing of a Folvibel port: its repeats of flits are counted (R448; log entry 45). -/
def crossPort (s : State) (q : Nat) : State :=
  { s with
    free := s.free + 1
    sys := { s.sys with fv := Tbl.set 0 s.sys.fv q (satAdd (Tbl.get 0 s.sys.fv q) 0 24 (Config.linkRepeats s.free).val) } }

/-- Counting in a partition's PSVC (lo 0 blocks, 32 messages). -/
def countPart (s : State) (part lo : Nat) : State :=
  let p := s.part part
  s.setPart part { p with psvc := satAdd p.psvc lo 32 1 }

/-- Counting in PSVC2: 0 records, 32 knot updates that a task end skipped. -/
def countPart2 (s : State) (part lo : Nat) : State :=
  let p := s.part part
  s.setPart part { p with psvc2 := satAdd p.psvc2 lo 32 1 }

/-- Record number i of a black box: behind it, in site order, go the records of the same time from higher sites (R466). -/
def boxPut (fuel : Nat) (box : Tbl ErrRec) (i : Nat) (r : ErrRec) : Tbl ErrRec :=
  match fuel, (if i = 0 then none else Tbl.find box ((i - 1) % 4096)) with
  | fuel + 1, some p => if p.time == r.time && decide (r.site < p.site) then boxPut fuel (Tbl.put box (i % 4096) p) (i - 1) r
    else Tbl.put box (i % 4096) r
  | _, _ => Tbl.put box (i % 4096) r

/-- An error record enters the black box of a field (R465, R466). -/
def recordIn (s : State) (f : Nat) (kind cause : BitVec 8) (site : Nat) (core unit : BitVec 8) (sub : Nat) (detail : Word) : State :=
  let tile := s.tileAt site
  let task := (tile.bind (fun t => (s.tile t).crew)).elim 0 (fun c => (s.crew c).task)
  let r : ErrRec := { time := s.sys.rtime, kind, cause, site, core, unit, sub := BitVec.ofNat 16 sub,
                      tile := BitVec.ofNat 16 (tile.getD 0xFFFF), task, detail }
  let d := s.field f
  s.setField f { d with box := boxPut 4095 d.box d.boxn r, boxn := d.boxn + 1 }

/-- An error record enters the black box of its site's field (R466). -/
def errorRecord (s : State) (kind cause : BitVec 8) (site : Nat) (core unit : BitVec 8) (sub : Nat) (detail : Word) : State :=
  s.recordIn (fieldOf site) kind cause site core unit sub detail

/-- The vc that a record of a machine check or splice step names: that of the crew of the site's tile (R465). -/
def siteVc (s : State) (site : Nat) : Word :=
  match s.tileAt site with
  | some t => if (s.tile t).crew.isSome then BitVec.ofNat 64 (s.tile t).vcc else 0
  | none => 0

/-- A machine check is raised: it waits for the splice engine (R426). -/
def raiseCheck (s : State) (site : Nat) (cause : MCause) : State :=
  if s.checks.contains (site, cause) then s else { s with checks := s.checks ++ [(site, cause)] }

/-- An entry of a site's trace ring (R300). -/
def traceEntry (s : State) (site core bank line : Nat) (phase : BitVec 32) : State :=
  s.modSite site (fun t => { t with
    ring := Tbl.put t.ring (t.ringn % 256)
      (BitVec.ofNat 16 (tileOfCore core) ++ BitVec.ofNat 2 (core % 4) ++ BitVec.ofNat 6 bank ++ BitVec.ofNat 11 line ++ 0#8
        ++ phase.extractLsb' 0 21)
    ringn := t.ringn + 1 })

/-- A fault of a task that no context takes: counted, the first kept with its place (R349). -/
def taskFault (s : State) (crew : Nat) (cause err : BitVec 8) (addr : Word) (core slot : Nat) (unit : BitVec 24) : State :=
  let t := tileOfCore core
  s.modCrew crew (fun w => { w with dyn :=
    if w.dyn.flt.n = 0 then
      { w.dyn with flt := { n := 1, cause, err, vc := (s.tile t).vcc, addr, tile := t, core := core % 4, slot, unit } }
    else { w.dyn with flt := { w.dyn.flt with n := w.dyn.flt.n + 1 } } })

end State

end Sys2Proof.Machine
end

