-- ==== Sys2Proof/WellFormed.lean ====
section
/-! DEFINITION. Well-formed instructions: the type sets and value rules of the encoding tables (R190, R209, R161, R307,
R244, R247, R280), privilege by the instruction word (R55, R186, R168), and the pair class of each opcode (R53). -/

namespace Sys2Proof

/-- Sites are numbered sy : sx (R16); tile numbers reach the control sites' 0xC0FF (R17). -/
def siteCount : Nat := 0x10000

def tileCount : Nat := 0xC100

def coreCount : Nat := 4 * tileCount

/-- F: TY 0x09-0x0C (R209). -/
def Ty.isF : Ty → Bool
  | .f64 | .f32 | .bf16 | .f16 => true
  | _ => false

/-- S: the signed integers 0x01-0x04 (R209). -/
def Ty.isS : Ty → Bool
  | .i8 | .i16 | .i32 | .i64 => true
  | _ => false

/-- The unsigned integers 0x05-0x08. -/
def Ty.isN : Ty → Bool
  | .n8 | .n16 | .n32 | .n64 => true
  | _ => false

/-- I: TY 0x01-0x08 (R209). -/
def Ty.isI (t : Ty) : Bool := t.isS || t.isN

/-- W: TY 0x01-0x0C (R209). -/
def Ty.isW (t : Ty) : Bool := t.isI || t.isF

/-- TY 0 and 0x01-0x08: the scalar widths (R161, R190). -/
def Ty.isWidth (t : Ty) : Bool := t == .none || t.isI

/-- TY 0, 0x01-0x0A (R190). -/
def Ty.isCmp (t : Ty) : Bool := t.isWidth || t == .f64 || t == .f32

/-- The types of VCMP (R209). -/
def Ty.isVCmp (t : Ty) : Bool :=
  t == .i32 || t == .i64 || t == .n32 || t == .n64 || t == .f64 || t == .f32

/-- `.un` and `.or` are conditions of the floating types only (R198). -/
def condOk (t : Ty) (c : Cond) : Bool :=
  match c with
  | .un | .or => t == .f64 || t == .f32
  | _ => true

/-- The integer types of VDOT (R209). -/
def Ty.isDotI (t : Ty) : Bool := t == .i8 || t == .i16 || t == .n8 || t == .n16

/-- The types of AMO and RED (R307). -/
def Ty.isAmo (t : Ty) : Bool :=
  t == .none || t == .i32 || t == .i64 || t == .n32 || t == .n64 || t == .f32 || t == .f64

/-- The bitwise operations take integer types (R307). -/
def AmoOp.okFor (op : AmoOp) (t : Ty) : Bool :=
  match op with
  | .and | .or | .xor => !(t == .f32 || t == .f64)
  | _ => true

/-- The types MSTC stores: TY 0x09-0x12 (R247). -/
def Ty.isStored : Ty → Bool
  | .f64 | .f32 | .bf16 | .f16 | .e4m3 | .e5m2 | .e3m2 | .e2m3 | .e2m1 | .f4s => true
  | _ => false

/-- Bits of one element of a type (R45, R65, R71). -/
def Ty.bits : Ty → Nat
  | .none | .i64 | .n64 | .f64 => 64
  | .i32 | .n32 | .f32 => 32
  | .i16 | .n16 | .bf16 | .f16 => 16
  | .i8 | .n8 | .e4m3 | .e5m2 | .e8m0 => 8
  | .e3m2 | .e2m3 => 6
  | .e2m1 | .f4s | .i4 | .n4 => 4
  | .b1 => 1

/-- LSB + LEN is at most 64 (R190). -/
def BitField.ok (f : BitField) : Bool := decide (f.lsb.toNat + f.len1.toNat + 1 ≤ 64)

/-- The registers with a "Write from" level (R185, R186). -/
def SReg.writable : SReg → Bool
  | .unit | .pvr | .fst | .mxc | .rkey0 | .rkey1 | .prio | .epc | .enpc | .ennpc | .estat | .ecause | .eaddr => true
  | _ => false

/-- Conditions of the VSHUF patterns (R220). -/
def Shuffle.ok (s : Shuffle) (t : Ty) (b : BitVec 6) : Bool :=
  match s.pat with
  | .slide => decide (s.k.toNat < 512 / t.bits)
  | .rev => s.k == 0 && b == 0
  | _ => s.k == 0

/-- F types reduce by add, min and max only (R221). -/
def RedOp.okF : RedOp → Bool
  | .add | .min | .max => true
  | _ => false

/-- The types VCVT converts (R223). -/
def Ty.isCvt (t : Ty) : Bool := t.isF || t.isI || t == .e4m3 || t == .e5m2

def Ty.isFloat (t : Ty) : Bool := t.isStored && t != .f4s

/-- R223: PART is below max(ws, wd) / min(ws, wd); SAT is 0 from floating to integer; `.sr` is excluded. -/
def cvtOk (dst : Ty) (rm : Rm) (sat : Bool) (cv : ConvSel) : Bool :=
  dst.isCvt && cv.src.isCvt && rm != .sr
    && decide (cv.part.toNat < max cv.src.bits dst.bits / min cv.src.bits dst.bits)
    && !(cv.src.isFloat && dst.isI && sat)

/-- R224. -/
def srndOk (dst : Ty) (cv : ConvSel) (k : BitVec 5) : Bool :=
  cv.src.isF && (dst == .f32 || dst == .bf16 || dst == .f16 || dst == .e4m3 || dst == .e5m2)
    && decide (dst.bits < cv.src.bits) && decide (cv.part.toNat < cv.src.bits / dst.bits)
    && decide (1 ≤ k.toNat) && decide (k.toNat ≤ 24)

/-- The block element formats with a scale: MX formats and F4S (R225, R226). -/
def Ty.isBlock : Ty → Bool
  | .e4m3 | .e5m2 | .e3m2 | .e2m3 | .e2m1 | .f4s => true
  | _ => false

/-- The unpacked floating formats of the block instructions (R225, R226, R228). -/
def Ty.isBlockSrc (t : Ty) : Bool := t == .f32 || t == .bf16 || t == .f16

/-- The largest PART of a packed format (R226). -/
def Ty.maxPart : Ty → Nat
  | .e4m3 | .e5m2 | .e3m2 | .e2m3 => 1
  | .f4s => 2
  | _ => 3

/-- R226: integer packs have B = 0; a 16-bit source has C = 0 (R225). -/
def packOk (dst : Ty) (rm : Rm) (cv : ConvSel) (b c : BitVec 6) : Bool :=
  rm != .sr && decide (cv.part.toNat ≤ dst.maxPart)
    && (dst.isBlock && cv.src.isBlockSrc || (dst == .i4 || dst == .n4) && (cv.src == .i32 || cv.src == .i16) && b == 0)
    && (cv.src.bits == 32 || c == 0)

/-- R228: B is 0 for `.f4s` and the integers; HALF is 0 for a 16-bit destination. -/
def unpackOk (dst : Ty) (rm : Rm) (cv : UnpackSel) (b : BitVec 6) : Bool :=
  rm != .sr && decide (cv.part.toNat ≤ cv.src.maxPart)
    && (cv.src.isBlock && dst.isBlockSrc || (cv.src == .i4 || cv.src == .n4) && (dst == .i32 || dst == .i16))
    && (cv.src.isBlock && cv.src != .f4s || b == 0) && (dst.bits == 32 || !cv.half)

/-- R225. -/
def scaleOk (dst src : Ty) (c : BitVec 6) : Bool :=
  dst.isBlock && src.isBlockSrc && (src.bits == 32 || c == 0)

/-- Accumulator operations take `.f32`, or `.f64` with an even tile (R244, R247). -/
def accOk (t : Ty) (d : BitVec 4) : Bool := t == .f32 || t == .f64 && d.getLsbD 0 == false


/-- The values the encoding tables allow for the fields of an instruction (R47, R48 and the tables of each chapter), and
for an event the numbers that name a place of this device. -/
def Instr.wf (i : Instr) : Bool :=
  match i with
  | .add _ ty _ _ _ _ => ty.isWidth
  | .addi _ ty _ _ _ _ => ty.isWidth
  | .sub _ ty _ _ _ _ => ty.isWidth
  | .mul _ ty _ _ _ _ => ty.isWidth
  | .mulImm _ ty _ _ _ _ => ty.isWidth
  | .mulh .. => true
  | .mulhn .. => true
  | .and .. => true
  | .andImm .. => true
  | .or .. => true
  | .orImm .. => true
  | .xor .. => true
  | .xorImm .. => true
  | .andn .. => true
  | .andnImm .. => true
  | .shl .. => true
  | .shlImm .. => true
  | .shr .. => true
  | .shrImm .. => true
  | .sar .. => true
  | .sarImm .. => true
  | .rol .. => true
  | .rolImm .. => true
  | .min .. => true
  | .minImm .. => true
  | .max .. => true
  | .maxImm .. => true
  | .minn .. => true
  | .minnImm .. => true
  | .maxn .. => true
  | .maxnImm .. => true
  | .cmp _ ty cond _ _ _ => ty.isCmp && condOk ty cond
  | .cmpImm _ ty cond _ _ _ => ty.isCmp && condOk ty cond && ty != .f64
  | .sel .. => true
  | .mov .. => true
  | .movi .. => true
  | .movh .. => true
  | .lea .. => true
  | .clz .. => true
  | .ctz .. => true
  | .popc .. => true
  | .bfx _ _ _ _ bf => bf.ok
  | .bfi _ _ _ bf => bf.ok
  | .sext _ ty _ _ => ty == .i8 || ty == .i16 || ty == .i32
  | .zext _ ty _ _ => ty == .n8 || ty == .n16 || ty == .n32
  | .divstep .. => true
  | .pset .. => true
  | .pand .. => true
  | .por .. => true
  | .pxor .. => true
  | .pnot .. => true
  | .mfs .. => true
  | .mts _ sr _ => sr.writable
  | .vadd _ ty rm _ _ _ _ _ => ty.isF && rm != .sr || ty.isI && rm == .dyn
  | .vsub _ ty rm _ _ _ _ _ => ty.isF && rm != .sr || ty.isI && rm == .dyn
  | .vmul _ ty rm _ _ _ _ _ => ty.isF && rm != .sr || ty.isI && rm == .dyn
  | .vfma _ ty rm _ _ _ _ _ _ => ty.isF && rm != .sr
  | .vfms _ ty rm _ _ _ _ _ _ => ty.isF && rm != .sr
  | .vmin _ ty _ _ _ _ => ty.isF || ty.isI
  | .vmax _ ty _ _ _ _ => ty.isF || ty.isI
  | .vabs _ ty sat _ _ _ => ty.isS || ty.isF && !sat
  | .vneg _ ty sat _ _ _ => ty.isS || ty.isF && !sat
  | .vcmp _ ty cond _ _ _ _ => ty.isVCmp && condOk ty cond
  | .vsel .. => true
  | .vmulh _ ty _ _ _ _ => ty.isI
  | .vclz _ ty _ _ _ => ty.isI
  | .vpopc _ ty _ _ _ => ty.isI
  | .vavg _ ty _ _ _ _ => ty.isI
  | .vshl _ ty _ _ _ _ => ty.isI
  | .vshr _ ty _ _ _ _ => ty.isI
  | .vsar _ ty _ _ _ _ => ty.isI
  | .vand .. => true
  | .vor .. => true
  | .vxor .. => true
  | .vperm _ ty _ _ _ _ _ => ty.isW
  | .vbcast _ ty _ _ _ _ => ty.isW
  | .vbcastImm _ ty _ _ _ _ => ty.isW
  | .vshuf _ ty sh _ _ _ b => ty.isW && sh.ok ty b
  | .vred _ ty rm sat op _ _ _ => ty.isF && rm != .sr && !sat && op.okF || ty.isI && rm == .dyn
  | .vdot _ ty rm _ _ _ _ _ => ty.isF && rm != .sr || ty.isDotI && rm == .dyn
  | .vcvt _ ty rm sat cv _ _ _ => cvtOk ty rm sat cv
  | .vsrnd _ ty _ cv _ _ _ _ k => srndOk ty cv k
  | .vpack _ ty rm _ cv _ _ b c => packOk ty rm cv b c
  | .vunpk _ ty rm _ cv _ _ b => unpackOk ty rm cv b
  | .vscale _ ty src _ _ c => scaleOk ty src c
  | .vrcp _ ty _ _ _ => ty.isF
  | .vrsq _ ty _ _ _ => ty.isF
  | .vexp2 _ ty _ _ _ => ty.isF
  | .vlog2 _ ty _ _ _ => ty.isF
  | .vstep _ ty rm _ _ _ _ _ _ _ => ty.isF && rm != .sr
  | .vrng .. => true
  | .mand .. => true
  | .mor .. => true
  | .mnot .. => true
  | .ld _ ty _ _ => ty.isWidth
  | .st _ ty _ _ => ty.isWidth
  | .ldv .. => true
  | .stv .. => true
  | .ldg _ ty _ _ => ty.isWidth
  | .ldgV .. => true
  | .sts _ ty _ _ => ty.isWidth
  | .stsV .. => true
  | .stmask .. => true
  | .stmaskP .. => true
  | .sig .. => true
  | .watch .. => true
  | .unwatch .. => true
  | .unwatchAll .. => true
  | .give .. => true
  | .giveNb .. => true
  | .reclaim .. => true
  | .reclaimNb .. => true
  | .bmapRead .. => true
  | .bmapSwap .. => true
  | .bmapSet .. => true
  | .bmapBank .. => true
  | .drain .. => true
  | .drainBank .. => true
  | .phase .. => true
  | .phaseT .. => true
  | .fence .. => true
  | .amo _ ty op _ _ _ => ty.isAmo && op.okFor ty
  | .red _ ty op _ _ => ty.isAmo && op.okFor ty && op != .swap && op != .cas
  | .lrw .. => true
  | .sch .. => true
  | .relq .. => true
  | .nop .. => true
  | .br .. => true
  | .bra .. => true
  | .brx .. => true
  | .call .. => true
  | .callR .. => true
  | .ret .. => true
  | .brk .. => true
  | .mma _ ty _ _ d _ _ _ => accOk ty d
  | .mmat _ ty _ _ d _ _ _ _ _ => accOk ty d
  | .mzero _ ty d => accOk ty d
  | .mldc _ ty d _ => accOk ty d
  | .mstc _ ty rm _ _ a => ty.isStored && (ty != .f64 || a.getLsbD 0 == false) && rm != .sr
  | .lnpush .. => true
  | .lnpushT .. => true
  | .lncfg .. => true
  | .lncfgSet .. => true
  | .tdef .. => true
  | .tget .. => true
  | .tseq .. => true
  | .tseqAdd .. => true
  | .tseqBar .. => true
  | .copy _ _ _ tm _ _ _ _ _ imm => tm || imm == 0
  | .gath _ _ tm _ _ _ _ _ imm => tm || imm == 0
  | .scat _ _ tm _ _ _ _ _ imm => tm || imm == 0
  | .publ _ tm _ _ _ _ imm => tm || imm == 0
  | .bari .. => true
  | .barw .. => true
  | .barwNf .. => true
  | .barq .. => true
  | .send _ tm _ _ _ len imm => (tm || imm == 0) && decide (len.toNat ≤ 4096)
  | .sendSig _ tm _ _ _ imm => tm || imm == 0
  | .sends _ tm _ _ _ _ _ imm => tm || imm == 0
  | .mcast _ tm _ _ _ _ _ imm => tm || imm == 0
  | .ibpop .. => true
  | .ibpopNw .. => true
  | .ibpopFree .. => true
  | .hop _ _ _ core => decide (core.toNat ≤ 4)
  | .chanOpen .. => true
  | .chanIbx .. => true
  | .chanQch .. => true
  | .chanQib .. => true
  | .rtwrRb .. => true
  | .rtwrDt .. => true
  | .rtwrSr .. => true
  | .spawn .. => true
  | .reap .. => true
  | .reapNb .. => true
  | .reapKill .. => true
  | .yield .. => true
  | .sleep .. => true
  | .wake .. => true
  | .wakeAll .. => true
  | .rfork .. => true
  | .join .. => true
  | .knotSet .. => true
  | .knotAdd .. => true
  | .knotHold .. => true
  | .knotRd .. => true
  | .knotWait .. => true
  | .launch .. => true
  | .launchNb .. => true
  | .taskend .. => true
  | .vstage .. => true
  | .vpub .. => true
  | .vdiscard .. => true
  | .vretire .. => true
  | .vadopt .. => true
  | .vqry .. => true
  | .vqrySet .. => true
  | .sample .. => true
  | .trap .. => true
  | .eret .. => true
  | .eretKill .. => true
  | .resume .. => true
  | .swpo .. => true
  | .swpoFar .. => true
  | .swpi .. => true
  | .swpiQ .. => true
  | .swpiFar .. => true
  | .stopCrew .. => true
  | .stopPart .. => true
  | .stopGo .. => true
  | .rdrec _ _ _ w => w != 3
  | .twin .. => true
  | .twinNw .. => true
  | .segld .. => true
  | .segldRd _ _ _ w => w != 3
  | .segst .. => true
  | .blay .. => true
  | .blayW .. => true
  | .blayDeep .. => true
  | .blq _ _ which => decide (which.toNat ≤ 4)
  | .issueTurn core => decide (core < coreCount)
  | .lineFetch core _ => decide (core < coreCount)
  | .schedulerDecision core => decide (core < coreCount)
  | .swapComplete core => decide (core < coreCount)
  | .trapRecordArrival .. => true
  | .vccTick tile => decide (tile < tileCount)
  | .vccOverflow .. => true
  | .siteCounterTick site => decide (site < siteCount)
  | .sleepDeadline ctx => decide (ctx < 64 * coreCount)
  | .timedCommandStart core _ => decide (core < coreCount)
  | .untimedCommandStart core => decide (core < coreCount)
  | .engineLineMove core _ => decide (core < coreCount)
  | .barrierArrival .. => true
  | .engineOperationStart core => decide (core < coreCount)
  | .matrixLineFetch core => decide (core < coreCount)
  | .matrixOperationComplete core => decide (core < coreCount)
  | .linkWordArrival core _ => decide (core < coreCount)
  | .linkCreditReturn core _ => decide (core < coreCount)
  | .vaultRequestArrival .. => true
  | .vaultReplyArrival .. => true
  | .immediateWriteLanding .. => true
  | .reservationGrant .. => true
  | .eccScrub site bank line _ => decide (site < siteCount) && decide (bank < 128) && decide (line < 2048)
  | .arrayEccUncorrectable site bank line => decide (site < siteCount) && decide (bank < 128) && decide (line < 2048)
  | .phaseClose .. => true
  | .phaseLineApply core _ => decide (core < coreCount)
  | .phaseCloseComplete .. => true
  | .farRequestTranslate .. => true
  | .pageWalkComplete field _ => decide (field < 64)
  | .parkact field _ => decide (field < 64)
  | .parkingEnd ctx => decide (ctx < 64 * coreCount)
  | .gwinv field _ => decide (field < 64)
  | .gwinvDone field => decide (field < 64)
  | .homeWrite .. => true
  | .homeWriteRetry home _ => decide (home < 24)
  | .homePubl .. => true
  | .homeRead .. => true
  | .farAtomicAtHome .. => true
  | .farReplyArrival .. => true
  | .farMediaError .. => true
  | .commitNoticeAtHome .. => true
  | .hotnessDecay home => decide (home < 24)
  | .routerFlitForward .. => true
  | .meshLinkDown site port => decide (site < siteCount) && decide (port < 4)
  | .staticRouteFlitLanding .. => true
  | .messageReceive .. => true
  | .ackReceive .. => true
  | .nackFullReceive .. => true
  | .nackOrderReceive .. => true
  | .nackFencedReceive .. => true
  | .nackReplayReceive .. => true
  | .resendDelayExpiry tile _ => decide (tile < tileCount)
  | .rebindChangeResend tile _ => decide (tile < tileCount)
  | .retransmitTimeout tile _ => decide (tile < tileCount)
  | .hopArrival .. => true
  | .hopReply .. => true
  | .mcastReplicaLanding .. => true
  | .rebindFlood site _ => decide (site < siteCount)
  | .taskDispatch part => decide (part < 16)
  | .imageLoadComplete .. => true
  | .launchCut .. => true
  | .taskEnd .. => true
  | .heldBlockPost part => decide (part < 16)
  | .belayCut .. => true
  | .candidateAnswer .. => true
  | .cutStreamLine tile => decide (tile < tileCount)
  | .cutPrepared tile => decide (tile < tileCount)
  | .commitDecision .. => true
  | .cutApply tile => decide (tile < tileCount)
  | .regularCutDue .. => true
  | .watchdogFire tile => decide (tile < tileCount)
  | .residueMismatch site core _ _ => decide (site < siteCount) && decide (core < coreCount)
  | .machineCheck site _ => decide (site < siteCount)
  | .splice site => decide (site < siteCount)
  | .replayEnd .. => true
  | .haltComplete .. => true
  | .partitionReconfiguration part _ _ => decide (part < 16)
  | .deepBelayImageWritten => true
  | .deepRestore => true
  | .adoption tile => decide (tile < tileCount)
  | .versionHomeRequest .. => true
  | .fieldPowerLoss field => decide (field < 64)
  | .deviceReset => true
  | .powerGood => true
  | .stageOneEntry .. => true
  | .fieldJoin field _ => decide (field < 64)
  | .fieldGivenUp field => decide (field < 64)
  | .thermalThrottle field => decide (field < 64)
  | .thermalShutdown field => decide (field < 64)
  | .droopStretch field _ => decide (field < 64)
  | .marginReplan field _ => decide (field < 64)
  | .hbmRepairStart stack _ => decide (stack < 48)
  | .hbmRepairDone stack _ => decide (stack < 48)
  | .selfTestStart site => decide (site < siteCount)
  | .selfTestComplete site _ => decide (site < siteCount)
  | .cxlPortDown port => decide (port < 24)
  | .cxlPortUp port _ _ _ => decide (port < 24)
  | .folvibelLinkTrain port _ _ _ => decide (port < 32)
  | .folvibelLinkDown port => decide (port < 32)
  | .hlaunch fn _ => decide (fn < 4)
  | .hpubn fn _ => decide (fn < 4)
  | .herrClear fn => decide (fn < 4)
  | .hlresDropClear fn => decide (fn < 4)
  | .hostFarRead fn _ _ => decide (fn < 4)
  | .hostFarWrite fn _ _ => decide (fn < 4)
  | .functionLevelReset fn => decide (fn < 4)
  | .hirq .. => true
  | .devrst .. => true
  | .quiesce .. => true
  | .quiesceDone .. => true
  | .quiesceRelease .. => true
  | .qbootGo .. => true
  | .qbootCancel .. => true
  | .hbeatWrite site => decide (site < siteCount)
  | .verify => true
  | .measure => true
  | .commit => true
  | .revert => true
  | .crc32 => true
  | .trustOperationDone => true
  | .getVersion fn => decide (fn < 4)
  | .getCapabilities fn => decide (fn < 4)
  | .negotiateAlgorithms fn => decide (fn < 4)
  | .getDigests fn => decide (fn < 4)
  | .getCertificate fn => decide (fn < 4)
  | .challenge fn _ => decide (fn < 4)
  | .getMeasurements fn _ => decide (fn < 4)
  | .registerWrite _ _ _ tile => decide (tile < tileCount)
  | .giveComplete ctx => decide (ctx < 64 * coreCount)
  | .reclaimComplete ctx => decide (ctx < 64 * coreCount)
  | .immediateWriteAcknowledgement .. => true
  | .trapWindowAccessArrival .. => true
  | .logReplicaAcknowledgement .. => true
  | .versionAnswer .. => true

/-- Level at which a special register may be read: 0 task, 1 steward (R185). -/
def SReg.readLevel : SReg → Nat
  | .site | .epc | .enpc | .ennpc | .estat | .ecause | .eaddr => 1
  | _ => 0

/-- Level at which a writable special register may be written (R185). -/
def SReg.writeLevel : SReg → Nat
  | .fst | .mxc | .rkey0 | .rkey1 => 0
  | _ => 1

/-- The lowest privilege level that may execute an instruction, by its word alone (R55, R168, R186). -/
def Instr.minLevel (i : Instr) : Nat :=
  match i with
  | .rtwrRb .. | .rtwrDt .. | .rtwrSr .. => 2
  | .eret .. | .eretKill .. | .resume .. | .swpo .. | .swpoFar .. | .swpi .. | .swpiQ .. | .swpiFar ..
  | .stopCrew .. | .stopPart .. | .stopGo .. | .rdrec .. | .twin .. | .twinNw .. | .segst .. | .bmapSet .. | .blayDeep .. => 1
  | .mfs _ _ sr => sr.readLevel
  | .mts _ sr _ => sr.writeLevel
  | _ => 0

/-- Pair classes (R53): free, memory, control, engine, system. -/
inductive PairClass where
  | free | memory | control | engine | system
  deriving DecidableEq, Repr

end Sys2Proof
end

