-- ==== Sys2Proof/Machine/Num.lean ====
section
/-! DEFINITION. Numbers: formats (R65-R71), packing (R72), exact values, rounding (R74-R78), sums (R79), the pairwise
tree (R84) and the generator mix (R85). -/

namespace Sys2Proof.Machine

/-- An exact value: NaN, an infinity, or (-1)^neg * m * 2^e (R73). -/
inductive Val where
  | nan
  | inf (neg : Bool)
  | fin (neg : Bool) (m : Nat) (e : Int)
  deriving DecidableEq, Repr

/-- The row of a floating-point format in the table of R65. -/
structure Fmt where
  bits : Nat
  ebits : Nat
  p : Nat
  bias : Nat
  maxCode : Nat
  nan : Option Nat
  ieee : Bool
  deriving DecidableEq, Repr

/-- The formats of R65; `f64` stands where a type is no floating-point format. -/
def fmtOf (t : Ty) : Fmt :=
  match t with
  | .f32 => ⟨32, 8, 23, 127, 0x7F7FFFFF, some 0x7FC00000, true⟩
  | .f16 => ⟨16, 5, 10, 15, 0x7BFF, some 0x7E00, true⟩
  | .bf16 => ⟨16, 8, 7, 127, 0x7F7F, some 0x7FC0, true⟩
  | .e5m2 => ⟨8, 5, 2, 15, 0x7B, some 0x7E, true⟩
  | .e4m3 => ⟨8, 4, 3, 7, 0x7E, some 0x7F, false⟩
  | .e3m2 => ⟨6, 3, 2, 3, 0x1F, none, false⟩
  | .e2m3 => ⟨6, 2, 3, 1, 0x1F, none, false⟩
  | .e2m1 | .f4s => ⟨4, 2, 1, 1, 0x7, none, false⟩
  | _ => ⟨64, 11, 52, 1023, 0x7FEFFFFFFFFFFFFF, some 0x7FF8000000000000, true⟩

def Fmt.emin (f : Fmt) : Int := 1 - f.bias

/-- The value of a floating-point code (R65, R66). -/
def valueF (f : Fmt) (c : Nat) : Val :=
  let neg := c >>> (f.bits - 1) % 2 == 1
  let e := (c >>> f.p) % 2 ^ f.ebits
  let m := c % 2 ^ f.p
  if e == 0 then .fin neg m (f.emin - f.p)
  else if f.ieee && e + 1 == 2 ^ f.ebits then (if m == 0 then .inf neg else .nan)
  else if !f.ieee && f.nan == some (c % 2 ^ (f.bits - 1)) then .nan
  else .fin neg (m + 2 ^ f.p) ((e : Int) + f.emin - 1 - f.p)

/-- The integer a code stands for (R71). -/
def intOf (t : Ty) (c : Nat) : Int :=
  let w := t.bits
  let c := c % 2 ^ w
  if (t.isS || t == .i4) && 2 ^ (w - 1) ≤ c then (c : Int) - (2 ^ w : Nat) else (c : Int)

def valInt (i : Int) : Val := .fin (decide (i < 0)) i.natAbs 0

def isIntTy (t : Ty) : Bool := t.isI || t == .i4 || t == .n4 || t == .none || t == .b1

/-- value(c, f) of R73. -/
def valueOf (t : Ty) (c : Nat) : Val := if isIntTy t then valInt (intOf t c) else valueF (fmtOf t) c

/-- The scale of an E8M0 code (R68); `none` for NaN. -/
def scaleExp (x : Nat) : Option Int := if x == 0xFF then none else some ((x : Int) - 127)

/-- A value scaled by a power of two. -/
def Val.scale (v : Val) (k : Int) : Val :=
  match v with
  | .fin n m e => .fin n m (e + k)
  | v => v

/-- blockval(c, f, X, T) of R73 (R69, R70). -/
def blockVal (t : Ty) (c x st : Nat) : Val :=
  match scaleExp x with
  | none => .nan
  | some k => if t == .f4s && c % 16 == 8 then (valueF (fmtOf .e4m3) st).scale k else (valueOf t c).scale k

/-- Flag bits of %fst[4:0] (R80). -/
def flIV : BitVec 5 := 16
def flDZ : BitVec 5 := 8
def flOF : BitVec 5 := 4
def flUF : BitVec 5 := 2
def flNX : BitVec 5 := 1

/-- A code with the flags it raised. -/
structure Rd where
  code : Nat
  fl : BitVec 5 := 0
  deriving DecidableEq, Repr

/-- The grid of a stochastic rounding's source: emin and fraction width, scaled (R75). -/
structure Grid where
  emin : Int
  p : Int
  deriving DecidableEq, Repr

def gridOf (t : Ty) : Grid := ⟨(fmtOf t).emin, (fmtOf t).p⟩

/-- Rounding modes with what a stochastic rounding draws (R75): r, k and the source grid, `none` for exact. -/
inductive Mode where
  | rne | rz | rup | rdn | rna
  | sr (r : Nat) (k : Nat) (g : Option Grid)
  deriving DecidableEq, Repr

/-- The mode of an RM field, code 0 taking the default mode of %fst (R76, R80). -/
def modeOf (rm : Rm) (fst : BitVec 16) : Mode :=
  let code := match rm with
    | .dyn => (fst.extractLsb' 8 3).toNat
    | .rne => 1 | .rz => 2 | .rup => 3 | .rdn => 4 | .rna => 5 | .sr => 6
  match code with
  | 2 => .rz
  | 3 => .rup
  | 4 => .rdn
  | 5 => .rna
  | _ => .rne

/-- Whether hi is chosen: `n` counts quanta in lo, `rem` of 2^sh parts lie above it, `log` is floor(log2 a), `qe` the
quantum's exponent (R75). -/
def chooseUp (mode : Mode) (neg : Bool) (n rem sh : Nat) (log qe : Int) : Bool :=
  match mode with
  | .rne => decide (2 ^ sh < 2 * rem) || (2 * rem == 2 ^ sh && n % 2 == 1)
  | .rna => decide (2 ^ sh ≤ 2 * rem)
  | .rz => false
  | .rup => !neg
  | .rdn => neg
  | .sr r k g =>
    let bits := match g with
      | none => k
      | some g => min k (qe - (max log g.emin - g.p)).toNat
    decide (2 ^ bits ≤ (rem <<< bits) >>> sh + r % 2 ^ bits)

/-- Whether a mode rounds a value of this sign away from zero on overflow (R77). -/
def roundsAway (mode : Mode) (neg : Bool) : Bool :=
  match mode with
  | .rz => false
  | .rup => !neg
  | .rdn => neg
  | _ => true

/-- |x| in quanta of 2^qe: the whole quanta and the remainder of 2^sh parts. -/
def quanta (m : Nat) (e qe : Int) : Nat × Nat × Nat :=
  if qe ≤ e then (m <<< (e - qe).toNat, 0, 0)
  else
    let sh := (qe - e).toNat
    (m >>> sh, m % 2 ^ sh, sh)

def signBit (f : Fmt) (neg : Bool) : Nat := if neg then 2 ^ (f.bits - 1) else 0

/-- overflow of R77. -/
def overflowF (f : Fmt) (mode : Mode) (neg sat : Bool) : Rd :=
  let sg := signBit f neg
  let code :=
    if sat || !roundsAway mode neg then sg + f.maxCode
    else if f.ieee then sg + f.maxCode + 1
    else match f.nan with
      | some c => c
      | none => sg + f.maxCode
  ⟨code, flOF ||| flNX⟩

/-- The special inputs of R77. -/
def specialNan (f : Fmt) : Rd :=
  match f.nan with
  | some c => ⟨c, 0⟩
  | none => ⟨0, flIV⟩

def specialInf (f : Fmt) (neg sat : Bool) : Rd :=
  let sg := signBit f neg
  if f.ieee then (if sat then ⟨sg + f.maxCode, flNX⟩ else ⟨sg + f.maxCode + 1, 0⟩)
  else match f.nan with
    | some c => if sat then ⟨sg + f.maxCode, flIV⟩ else ⟨c, flIV⟩
    | none => ⟨sg + f.maxCode, flIV⟩

/-- round(x, f, mode, sat) for a floating-point format (R74). -/
def roundF (f : Fmt) (mode : Mode) (sat : Bool) (x : Val) : Rd :=
  match x with
  | .nan => specialNan f
  | .inf neg => specialInf f neg sat
  | .fin neg 0 _ => ⟨signBit f neg, 0⟩
  | .fin neg m e =>
    let log : Int := e + Nat.log2 m
    let qe := max log f.emin - f.p
    let (n, rem, sh) := quanta m e qe
    let up := rem != 0 && chooseUp mode neg n rem sh log qe
    let y := (qe - (f.emin - f.p)).toNat * 2 ^ f.p + n + up.toNat
    let nx : BitVec 5 := if rem != 0 then flNX else 0
    if f.maxCode < y then overflowF f mode neg sat
    else
      let uf : BitVec 5 := if rem != 0 && decide (y < 2 ^ f.p) then flUF else 0
      ⟨signBit f neg + y, nx ||| uf⟩

/-- The least and greatest integer of a type (R71). -/
def intMin (t : Ty) : Int := if t.isS || t == .i4 then -2 ^ (t.bits - 1) else 0

def intMax (t : Ty) : Int := if t.isS || t == .i4 then 2 ^ (t.bits - 1) - 1 else 2 ^ t.bits - 1

/-- The code of an integer modulo 2^w (R71). -/
def codeInt (t : Ty) (i : Int) : Nat := (i % 2 ^ t.bits).toNat

/-- The result of integer arithmetic: reduced, or clamped with SAT (R71). -/
def wrapInt (t : Ty) (sat : Bool) (i : Int) : Nat :=
  codeInt t (if sat then max (intMin t) (min (intMax t) i) else i)

/-- round(x, f, mode) for an integer format (R78). -/
def roundI (t : Ty) (mode : Mode) (x : Val) : Rd :=
  match x with
  | .nan => ⟨0, flIV⟩
  | .inf neg => ⟨codeInt t (if neg then intMin t else intMax t), flIV⟩
  | .fin neg m e =>
    let (n, rem, sh) := quanta m e 0
    let up := rem != 0 && chooseUp mode neg n rem sh (e + Nat.log2 m) 0
    let k : Int := n + up.toNat
    let i : Int := if neg then -k else k
    if i < intMin t then ⟨codeInt t (intMin t), flIV⟩
    else if intMax t < i then ⟨codeInt t (intMax t), flIV⟩
    else ⟨codeInt t i, if rem != 0 then flNX else 0⟩

/-- round(x, f, mode, sat) of R74 and R78. -/
def roundTo (t : Ty) (mode : Mode) (sat : Bool) (x : Val) : Rd :=
  if isIntTy t then roundI t mode x else roundF (fmtOf t) mode sat x

/-- A value with the flags its forming raised. -/
structure Ex where
  v : Val
  fl : BitVec 5 := 0
  deriving DecidableEq, Repr

/-- A product formed exactly; 0 times infinity is NaN and raises IV (R79). -/
def mulVal (a b : Val) : Ex :=
  match a, b with
  | .nan, _ => ⟨.nan, 0⟩
  | _, .nan => ⟨.nan, 0⟩
  | .inf n, .inf n' => ⟨.inf (n ^^ n'), 0⟩
  | .inf n, .fin n' m _ => if m == 0 then ⟨.nan, flIV⟩ else ⟨.inf (n ^^ n'), 0⟩
  | .fin n m _, .inf n' => if m == 0 then ⟨.nan, flIV⟩ else ⟨.inf (n ^^ n'), 0⟩
  | .fin n m e, .fin n' m' e' => ⟨.fin (n ^^ n') (m * m') (e + e'), 0⟩

def Val.neg (v : Val) : Val :=
  match v with
  | .nan => .nan
  | .inf n => .inf (!n)
  | .fin n m e => .fin (!n) m e

def Val.isNan (v : Val) : Bool := v == .nan

def Val.isInf (v : Val) : Bool := match v with | .inf _ => true | _ => false

def Val.isZero (v : Val) : Bool := match v with | .fin _ 0 _ => true | _ => false

def Val.isNeg (v : Val) : Bool := match v with | .nan => false | .inf n => n | .fin n _ _ => n

def Val.abs (v : Val) : Val := if v.isNeg then v.neg else v

/-- A finite value as an integer count of 2^lo. -/
def Val.count (v : Val) (lo : Int) : Int :=
  match v with
  | .fin neg m e => if neg then -(Int.ofNat (m <<< (e - lo).toNat)) else Int.ofNat (m <<< (e - lo).toNat)
  | _ => 0

def Val.exp (v : Val) : Int := match v with | .fin _ _ e => e | _ => 0

/-- exact_sum of R79; `rdn` says that the instruction rounds down. -/
def exactSum (rdn : Bool) (l : List Val) : Ex :=
  if l.any Val.isNan then ⟨.nan, 0⟩
  else
    let pos := l.any (· == .inf false)
    let neg := l.any (· == .inf true)
    if pos && neg then ⟨.nan, flIV⟩
    else if pos || neg then ⟨.inf neg, 0⟩
    else
      let nz := l.filter (fun v => !v.isZero)
      let lo := nz.foldl (fun a v => min a v.exp) (match nz with | [] => 0 | v :: _ => v.exp)
      let sum := nz.foldl (fun a v => a + v.count lo) (0 : Int)
      if sum == 0 then
        let minus := if l.all (fun v => v.isZero && v.isNeg) then true
          else if l.all (fun v => v.isZero && !v.isNeg) then false else rdn
        ⟨.fin minus 0 0, 0⟩
      else ⟨.fin (decide (sum < 0)) sum.natAbs lo, 0⟩

/-- Comparing two values that are not NaN: less, equal, greater as -1, 0, 1; zeros are equal. -/
def Val.cmp (a b : Val) : Int :=
  match a, b with
  | .inf n, .inf n' => if n == n' then 0 else if n then -1 else 1
  | .inf n, _ => if n then -1 else 1
  | _, .inf n => if n then 1 else -1
  | a, b =>
    let lo := min a.exp b.exp
    let x := a.count lo
    let y := b.count lo
    if x < y then -1 else if x = y then 0 else 1

/-- One level of ptree: pairs in order. -/
def pairUp (op : Nat → Nat → Rd) (l : List Nat) : List Nat × BitVec 5 :=
  match l with
  | a :: b :: rest =>
    let r := op a b
    let (t, fl) := pairUp op rest
    (r.code :: t, r.fl ||| fl)
  | l => (l, 0)

/-- ptree(list, op) of R84, `n` levels deep. -/
def ptree (op : Nat → Nat → Rd) (n : Nat) (l : List Nat) : Rd :=
  match n with
  | 0 => ⟨l.headD 0, 0⟩
  | n + 1 =>
    let (t, fl) := pairUp op l
    let r := ptree op n t
    ⟨r.code, r.fl ||| fl⟩

/-- One round of kmix (R85). -/
def kmixRound (ab : BitVec 32 × BitVec 32) (i : Nat) : BitVec 32 × BitVec 32 :=
  let a := (ab.1 * 0xCC9E2D51#32).rotateLeft 15 ^^^ ab.2
  (a, ab.2 * 0x1B873593#32 + BitVec.ofNat 32 i + 1)

/-- kmix(c, k) of R85. -/
def kmix (c k : Word) : BitVec 32 :=
  let ab := (List.range 4).foldl kmixRound
    (c.extractLsb' 0 32 ^^^ k.extractLsb' 0 32, c.extractLsb' 32 32 ^^^ k.extractLsb' 32 32)
  ab.1 ^^^ (ab.1 >>> 16) ^^^ ab.2

/-- Element e of the dropout mask of layer L under a seed, with keep threshold T: kept where the draw lies below T (R472). -/
def dropKeep (layer e : BitVec 32) (seed : Word) (T : BitVec 32) : Bool := decide (kmix (layer ++ e) seed < T)

/-- Byte k of a mask as it is stored: element e is bit e mod 8 of byte e / 8 (R473). -/
def dropByte (layer : BitVec 32) (seed : Word) (T : BitVec 32) (k : Nat) : Byte :=
  BitVec.ofNat 8 ((List.range 8).foldl (fun n i => if dropKeep layer (BitVec.ofNat 32 (8 * k + i)) seed T then n + 2 ^ i else n) 0)

/-- Element i of width w of a little-endian bit stream: every row of R72. -/
def elem (w : Nat) (buf : Nat) (i : Nat) : Nat := (buf >>> (w * i)) % 2 ^ w

/-- pack(buf, f, i, c) of R73. -/
def packElem (w : Nat) (buf : Nat) (i c : Nat) : Nat :=
  buf - elem w buf i * 2 ^ (w * i) + (c % 2 ^ w) * 2 ^ (w * i)

/-- A little-endian bit stream of elements, element 0 first. -/
def streamOfElems (w : Nat) (l : List Nat) : Nat := l.foldr (fun c n => n * 2 ^ w + c % 2 ^ w) 0

/-- The first n elements of width w of a stream. -/
def elems (w n : Nat) (buf : Nat) : List Nat := (List.range n).map (elem w buf)

end Sys2Proof.Machine
end

