-- ==== Sys2Proof/Machine/Operands.lean ====
section
/-! DEFINITION. Operand forms: memory operands and their checks (R147-R150, R184), the neighbours of a tile and of a core
(R148, R251), link pops and pushes (R252-R254), vector registers (R48, R49, R176). -/

namespace Sys2Proof.Machine

/-- Segment kinds (R181). -/
def kAlias : Nat := 1
def kVault : Nat := 2
def kFar : Nat := 3
def kWeight : Nat := 4
def kTrapwin : Nat := 5
def kCtrl : Nat := 6

/-- Rights of word 2 of a descriptor, by bit (R181). -/
def rR : Nat := 4
def rW : Nat := 5
def rX : Nat := 6
def rA : Nat := 7

def Seg.kind (g : Seg) : Nat := (g.attr.extractLsb' 0 3).toNat

def Seg.has (g : Seg) (right : Nat) : Bool := g.attr.getLsbD right

/-- The space that a kind's BASE must name (R181). -/
def kindSpaceOk (kind space : Nat) : Bool :=
  match kind with
  | 0 => true
  | 1 => space == 0
  | 2 => space == 1
  | 3 => space == 2 || space == 6
  | 4 => space == 3
  | 5 => space == 4
  | 6 => space == 5
  | _ => false

/-- A well-formed descriptor (R181). -/
def Seg.wf (g : Seg) : Bool :=
  g.attr.extractLsb' 9 55 == 0 && g.attr.getLsbD 3 == false && g.kind != 7
    && kindSpaceOk g.kind (spaceOf g.base)
    && decide (g.base.toNat + g.limit.toNat < 2 ^ 64)
    && spaceOf (g.base + g.limit) == spaceOf g.base

/-- The checks of R184 on a formed address, in order. -/
def segCheck (g : Seg) (level : Nat) (o : Word) (n : Nat) (kinds : List Nat) (right : Option Nat) : Option (BitVec 8) :=
  if g.kind == 0 then some cLimit
  else if g.limit.toNat < o.toNat + n - 1 then some cLimit
  else if !kinds.contains g.kind then some cRights
  else if (match right with | some r => !g.has r | none => false) then some cRights
  else if (g.kind == kTrapwin || g.kind == kCtrl) && level == 0 then some cPrivilege
  else none

def globalLoc (a : Word) : Loc := ⟨globalTile a, (a.extractLsb' 17 6).toNat, (a.extractLsb' 0 17).toNat⟩

/-- The layout of a bank map entry (R148). -/
def entV (e : BitVec 16) : Bool := e.getLsbD 15

def entDir (e : BitVec 16) : Nat := (e.extractLsb' 12 3).toNat

def entW (e : BitVec 16) : Bool := e.getLsbD 9

def entR (e : BitVec 16) : Bool := e.getLsbD 8

def entBank (e : BitVec 16) : Nat := (e.extractLsb' 0 6).toNat

/-- A bank map entry with V set. -/
def mkEnt (dir : Nat) (w r : Bool) (bank : Nat) : BitVec 16 :=
  1#1 ++ BitVec.ofNat 3 dir ++ 0#2 ++ BitVec.ofBool w ++ BitVec.ofBool r ++ 0#2 ++ BitVec.ofNat 6 bank

/-- Fields of LNCFG (R256). -/
def depE (c : Core) : Nat := (c.lncfg.extractLsb' 4 2).toNat + 1

def depW (c : Core) : Nat := (c.lncfg.extractLsb' 2 2).toNat + 1

def fwE (c : Core) : Bool := c.lncfg.getLsbD 1

def fwW (c : Core) : Bool := c.lncfg.getLsbD 0

namespace State

def readSg (s : State) (r : BitVec 3) : Seg := Tbl.get {} s.view.sg r.toNat

/-- The offset x[I] + disp of a memory operand (R50, R184). -/
def eaOff (s : State) (m : MemOp) : Word := s.readX m.idx + m.disp.signExtend 64

/-- The effective address of a memory operand (R184). -/
def ea (s : State) (m : MemOp) : Word := (s.readSg m.sg).base + s.eaOff m

/-- seg_ea of R184. -/
def segEA (s : State) (m : MemOp) (n : Nat) (kinds : List Nat) (right : Option Nat) : Except Stop Word :=
  match segCheck (s.readSg m.sg) s.level (s.eaOff m) n kinds right with
  | some cause => .error (.trap cause (s.ea m))
  | none => .ok (s.ea m)

/-- The tile at a crew position (R329). -/
def crewTileAt (s : State) (crew : Nat) (col row : Int) : Option Nat :=
  let c := s.crew crew
  if 0 ≤ col ∧ col < c.blk.cols ∧ 0 ≤ row ∧ row < c.blk.rows then
    some (c.t0 + row.toNat * c.blk.cols + col.toNat)
  else none

/-- The neighbour of a tile in a direction of R148; 0 is the tile itself. -/
def neighbour (s : State) (t dir : Nat) : Option Nat :=
  if dir = 0 then some t
  else match (s.tile t).crew with
    | none => none
    | some c =>
      let col : Int := (s.tile t).col
      let row : Int := (s.tile t).row
      match dir with
      | 1 => s.crewTileAt c col (row - 1)
      | 2 => s.crewTileAt c (col + 1) row
      | 3 => s.crewTileAt c col (row + 1)
      | 4 => s.crewTileAt c (col - 1) row
      | _ => none

/-- A tile of the crew (R329). -/
def inCrew (s : State) (crew t : Nat) : Bool :=
  let c := s.crew crew
  decide (c.t0 ≤ t) && decide (t < c.t0 + c.blk.cols * c.blk.rows)

/-- The tiles of a crew (R329). -/
def crewTiles (s : State) (crew : Nat) : List Nat :=
  (List.range ((s.crew crew).blk.cols * (s.crew crew).blk.rows)).map (fun i => (s.crew crew).t0 + i)

/-- The same change at every tile of a crew. -/
def modTiles (s : State) (crew : Nat) (f : Tile → Tile) : State :=
  (s.crewTiles crew).foldl (fun s t => s.modTile t f) s

/-- Whether a thread may name the vault of a tile by a global address (R149). -/
def mayName (s : State) (crew : Option Nat) (level from_ t : Nat) : Bool :=
  match crew with
  | some c => s.inCrew c t
  | none =>
    decide (t < 0x8000) && s.bound t != 0xFFFF
      && (level == 2 || (s.partOfTile from_).isSome && s.partOfTile t == s.partOfTile from_)

/-- The rules of R149 that raise segment limit. -/
def globalOk (s : State) (crew : Option Nat) (level from_ : Nat) (a : Word) : Bool :=
  spaceOf a == 1 && a.extractLsb' 48 12 == 0 && a.extractLsb' 23 9 == 0
    && decide ((a.extractLsb' 17 6).toNat < 56) && !isReservedTile (globalTile a)
    && s.mayName crew level from_ (globalTile a)

/-- The space check of a vault address: R147 for space 0, R149 for space 1. -/
def vaultSpaceOk (s : State) (a : Word) : Bool :=
  if spaceOf a == 0 then a.extractLsb' 22 38 == 0
  else s.globalOk s.view.crew s.level s.cur.tile a

def mapEnt (s : State) (core e : Nat) : BitVec 16 := Tbl.get 0 (s.core core).bmap e

/-- Whether an address goes directly through the issuing tile's bank switch (R151). -/
def isDirect (s : State) (a : Word) : Bool :=
  spaceOf a == 0 && entDir (s.mapEnt s.myCore (a.extractLsb' 17 5).toNat) == 0

/-- resolve of R150; `write` says that W is needed. -/
def resolve (s : State) (a : Word) (write : Bool) : Except Stop Loc :=
  if spaceOf a == 0 then
    let m := s.mapEnt s.myCore (a.extractLsb' 17 5).toNat
    if !entV m then .error (.trap cDetached a)
    else if (if write then !entW m else !entR m) then .error (.trap cRights a)
    else if 48 ≤ entBank m && s.level == 0 then .error (.trap cRights a)
    else match s.neighbour s.cur.tile (entDir m) with
      | none => .error (.trap cDetached a)
      | some t => .ok ⟨t, entBank m, (a.extractLsb' 0 17).toNat⟩
  else if 48 ≤ (a.extractLsb' 17 6).toNat && s.level == 0 then .error (.trap cRights a)
  else .ok (globalLoc a)

/-- Steps 1 to 4 of R163 for an access of n bytes to the vault; one that has issued keeps its location (R150). -/
def vaultEA (s : State) (m : MemOp) (n : Nat) (kinds : List Nat) (right : Nat) (write : Bool) : Except Stop (Word × Loc) :=
  match s.going with
  | some ⟨a, some l, _⟩ => .ok (a, l)
  | _ => do
    let a ← s.segEA m n kinds (some right)
    check (s.vaultSpaceOk a) cLimit a
    check (a.toNat % n == 0) cAlign a
    let l ← s.resolve a write
    pure (a, l)

/-- The core on a side of a core (R251). -/
def linkCore (s : State) (core : Nat) (east : Bool) : Option Nat :=
  let t := tileOfCore core
  let c := core % 4
  if east then
    if c < 3 then some (core + 1)
    else match (s.tile t).crew with
      | some w => if s.inCrew w (t + 1) then some (coreKey (t + 1) 0) else none
      | none => none
  else if 0 < c then some (core - 1)
  else match (s.tile t).crew with
    | some w => if decide (0 < t) && s.inCrew w (t - 1) then some (coreKey (t - 1) 3) else none
    | none => none

/-- Words that a core has in flight on a side. -/
def inFlight (s : State) (core : Nat) (east : Bool) : Nat :=
  ((s.core core).fly.filter (fun f => f.east == east)).length

/-- Whether a sender holds a credit for its neighbour's FIFO (R252): a free place that is neither promised to a word in
flight nor still to be returned. -/
def hasCredit (s : State) (core : Nat) (east : Bool) : Bool :=
  match s.linkCore core east with
  | none => false
  | some n =>
    let c := s.core n
    if east then decide (c.lw.length + s.inFlight core true + c.owedW < depW c)
    else decide (c.le.length + s.inFlight core false + c.owedE < depE c)

/-- Whether core 3 and core 0 of two tiles stand on adjacent sites (R252). -/
def sitesAdjacent (s : State) (west east : Nat) : Bool :=
  siteY (s.siteOf west) == siteY (s.siteOf east) && siteX (s.siteOf west) + 1 == siteX (s.siteOf east)

/-- A push (R252): the word is in flight from its sender, poppable from t + 2 in the tile and from t + 4 between tiles, where the sites are not
adjacent once the mesh flit that carries it has landed. -/
def pushWord (s : State) (core : Nat) (east : Bool) (w : Vec) : State :=
  match s.linkCore core east with
  | none => s
  | some n =>
    let t := tileOfCore core
    let u := tileOfCore n
    let rc := s.rcOf t
    let adj := if east then s.sitesAdjacent t u else s.sitesAdjacent u t
    let mesh := t != u && !adj
    let s1 := s.modCore core (fun c => { c with fly := c.fly ++ [{ east, due := if t == u then rc + 2 else rc + 4, word := w, mesh }] })
    if !mesh then s1 else s1.send t u 2 (ctxKey core 0) (streamOf 3 core) (.link w east)

/-- Checks of a push: a neighbour must stand there (R251), and a credit must be held (R252). -/
def checkPush (s : State) (core : Nat) (east : Bool) : Except Stop Unit := do
  check (s.linkCore core east).isSome cFormat 0
  if s.hasCredit core east then .ok () else .error .refuse

/-- Popping a link of a core: the word, and the FIFO and credit after it; a pop forwards the word onward when the
FIFO's forwarding is on.  A side without a neighbour traps (R251), an empty FIFO sleeps (R253), a missing credit for the
onward push refuses (R254). -/
def popWord (s : State) (core : Nat) (east : Bool) : Except Stop (Vec × State) := do
  let c := s.core core
  let fwd := if east then fwW c else fwE c
  check (s.linkCore core east).isSome cFormat 0
  check (!fwd || (s.linkCore core (!east)).isSome) cFormat 0
  match (if east then c.le else c.lw) with
  | [] => .error (.sleep (.link east))
  | w :: rest =>
    let s1 := s.modCore core (fun c =>
      if east then { c with le := rest, owedE := c.owedE + 1 } else { c with lw := rest, owedW := c.owedW + 1 })
    if !fwd then .ok (w, s1)
    else if !s.hasCredit core (!east) then .error .refuse
    else .ok (w, s1.pushWord core (!east) w)

/-- Reading a vector register field; le (62) and lw (63) pop (R48, R49). -/
def readV (s : State) (r : BitVec 6) : Except Stop (Vec × State) :=
  if r.toNat < 32 then .ok (Tbl.get 0 s.view.v r.toNat, s)
  else if r.toNat < 62 then .ok (Tbl.get 0 s.here.w (r.toNat - 32), s)
  else s.popWord s.myCore (r == 62)

/-- Writing a vector register: private at once, shared landing `lat` rc later (R178); le pushes east and lw west
(R251). -/
def writeV (s : State) (r : BitVec 6) (v : Vec) (lat : Nat) : Except Stop State :=
  if r.toNat < 32 then .ok (s.modMe (fun c => { c with v := Tbl.set 0 c.v r.toNat v }))
  else if r.toNat < 62 then
    .ok (s.modCore s.myCore (fun c =>
      { c with pend := c.pend ++ [{ due := s.rc + lat, rank := s.cur.slot, isVec := true, reg := r.toNat - 32, val := v }] }))
  else do
    s.checkPush s.myCore (r == 62)
    .ok (s.pushWord s.myCore (r == 62) v)

/-- The value a destination register holds before the instruction; reading a link as a destination pops nothing. -/
def oldV (s : State) (r : BitVec 6) : Vec :=
  if r.toNat < 32 then Tbl.get 0 s.view.v r.toNat
  else if r.toNat < 62 then Tbl.get 0 s.here.w (r.toNat - 32)
  else 0

end State

end Sys2Proof.Machine
end

