-- ==== Sys2Proof/Machine/Flags.lean ====
section
/-! DEFINITION. The flags of %fst and the FP trap (R80, R81), and the privilege check of an instruction (R55, R186). -/

namespace Sys2Proof.Machine

/-- The trap enables of %fst in the order IV, DZ, OF, UF, NX (R80). -/
def fstEnables (fst : BitVec 16) : BitVec 5 := fst.extractLsb' 11 5

/-- Whether the flags F of a group meet an enable (R81). -/
def fpTraps (fst : BitVec 16) (f : BitVec 5) : Bool := f &&& fstEnables fst != 0

/-- A write of %fst: reserved bits stay 0, and a reserved DRM leaves DRM unchanged (R80). -/
def writeFst (old v : BitVec 16) : BitVec 16 :=
  let drm := v.extractLsb' 8 3
  let drm := if drm == 0 || drm == 6 || drm == 7 then old.extractLsb' 8 3 else drm
  v.extractLsb' 11 5 ++ drm ++ 0#3 ++ v.extractLsb' 0 5

/-- The sticky flags gather F (R81). -/
def orFst (fst : BitVec 16) (f : BitVec 5) : BitVec 16 := fst ||| f.setWidth 16

/-- Running an instruction that needs a privilege level (R41 step 2): below it the thread takes privilege, whatever the
guard. -/
def runPriv (level : Nat) (g : Guard) (s : State) (f : State → Act) : Ans :=
  if !s.me.used then .fault .noThread
  else if s.level < level then .next (s.raise cPrivilege 0)
  else runThread g s f

end Sys2Proof.Machine
end

