-- ==== Sys2Proof/Machine/View.lean ====
section
/-! DEFINITION. Versions as tiles and homes hold them: the slots of a set, a crew's references (R373), the version views of its tiles
(R374) and %pvr (R201). -/

namespace Sys2Proof.Machine

/-- The set a crew is bound to (R369). -/
def Crew.boundSet (w : Crew) : Option Nat :=
  if w.blk.vbind.getLsbD 15 then some (w.blk.vbind.extractLsb' 0 12).toNat else none

namespace State

/-- The slot of a set that holds a version. -/
def slotWith (s : State) (v : Nat) (n : BitVec 16) : Option Nat :=
  (List.range 4).find? (fun i => let x := Tbl.get {} (s.vset v).slots i; n != 0 && x.st != 0 && x.vnum == n)

/-- The slots that a bound crew references: those of its %pvr, of the last committed one and of its candidates, one that its home has answered
from that moment on (R373). -/
def refSlots (s : State) (crew v : Nat) : List Nat :=
  let w := s.crew crew
  let told := s.net.filterMap (fun p => match p.body with
    | .answer c none (.candidate _) n _ => if c == crew then some (n.setWidth 16) else none
    | _ => none)
  let ns := [(s.tile w.t0).pvr, w.dyn.cpvr] ++ w.dyn.cand.toList ++ (w.cut.bind Cut.cand).toList ++ told
  (ns.filterMap (s.slotWith v)).eraseDups

/-- A crew's references are set at the home; a retired slot that nobody references becomes free (R373). -/
def setRefs (s : State) (crew v : Nat) (slots : List Nat) : State :=
  let e := s.vset v
  let refs := e.refs.filter (fun r => r.1 != crew) ++ slots.map (fun i => (crew, i))
  let fix (i : Nat) (x : VSlot) : VSlot :=
    let n := (refs.filter (fun r => r.2 == i)).length
    if x.st == 3 && n == 0 then { base := x.base } else { x with refs := BitVec.ofNat 16 n }
  s.setVset v { e with refs, slots := (List.range 4).foldl (fun t i => Tbl.set {} t i (fix i (Tbl.get {} t i))) e.slots }

/-- The references of a crew as they now stand. -/
def updateRefs (s : State) (crew : Nat) : State :=
  match (s.crew crew).boundSet with
  | some v => s.setRefs crew v (s.refSlots crew v)
  | none => s

/-- The view of a tile holds the slot of its %pvr (R374). -/
def lookTile (s : State) (t : Nat) : State :=
  let i := s.tile t
  s.modTile t (fun i' => { i' with vview := { i'.vview with cur := i.vview.set.bind (fun v => s.slotWith v i.pvr) } })

/-- The views of every tile bound to a set, whose slots have changed (R374). -/
def lookSet (s : State) (v : Nat) : State :=
  ((s.tiles.filter (fun e => e.2.vview.set == some v)).map Prod.fst).foldl (fun s t => s.lookTile t) s

/-- An MTS to %pvr is on its way to every tile of the crew, where groups issued two rc later see it (R178, R201). -/
def sendPvr (s : State) (crew : Nat) (n : BitVec 16) : State :=
  (s.crewTiles crew).foldl (fun s t => s.modTile t (fun i => { i with pvrPend := i.pvrPend ++ [(s.rcOf t + 2, n)] })) s

/-- It lands, with the view of the tile and the crew's references (R178, R373, R374). -/
def landPvr (s : State) (t rc : Nat) : State :=
  match ((s.tile t).pvrPend.filter (fun l => decide (l.1 ≤ rc))).getLast? with
  | none => s
  | some (_, n) =>
    let s := (s.modTile t (fun i => { i with pvr := n, pvrPend := i.pvrPend.filter (fun l => decide (rc < l.1)) })).lookTile t
    match (s.tile t).crew with
    | some w => s.updateRefs w
    | none => s

end State

end Sys2Proof.Machine
end

