-- ==== Sys2Proof/Machine/Scalar.lean ====
section
/-! DEFINITION. The scalar and address instructions of chapter 07 (R190-R203). -/

namespace Sys2Proof.Machine

/-- TY 0 acts as n64 (R193). -/
def natTy (t : Ty) : Ty := if t == .none then .n64 else t

/-- A code extended to 64 bits by the signedness of its type (R193). -/
def extend (t : Ty) (c : Nat) : Word := BitVec.ofInt 64 (intOf t c)

/-- ADD, SUB and MUL at the width and signedness of TY (R193). -/
def arith (op : Int → Int → Int) (t : Ty) (sat : Bool) (a b : Word) : Word :=
  let t := natTy t
  extend t (wrapInt t sat (op (intOf t a.toNat) (intOf t b.toNat)))

/-- IMM sign-extended to 64 bits (R54). -/
def immX (imm : BitVec 32) : Word := imm.signExtend 64

/-- An instruction whose whole effect is one scalar result landing at L (R178). -/
def setX (g : Guard) (d : BitVec 6) (lat : Nat) (s : State) (f : State → Word) : Ans :=
  runThread g s (fun s => .ok (s.writeX d (f s) lat))

/-- An instruction whose whole effect is one predicate. -/
def setP (g : Guard) (d : BitVec 3) (s : State) (f : State → Bool) : Ans :=
  runThread g s (fun s => .ok (s.writeP d (f s)))

def execAdd (g : Guard) (ty : Ty) (sat : Bool) (d a b : BitVec 6) (s : State) : Ans :=
  setX g d 1 s (fun s => arith (· + ·) ty sat (s.readX a) (s.readX b))

def execAddi (g : Guard) (ty : Ty) (sat : Bool) (d a : BitVec 6) (imm : BitVec 32) (s : State) : Ans :=
  setX g d 1 s (fun s => arith (· + ·) ty sat (s.readX a) (immX imm))

def execSub (g : Guard) (ty : Ty) (sat : Bool) (d a b : BitVec 6) (s : State) : Ans :=
  setX g d 1 s (fun s => arith (· - ·) ty sat (s.readX a) (s.readX b))

def execMul (g : Guard) (ty : Ty) (sat : Bool) (d a b : BitVec 6) (s : State) : Ans :=
  setX g d 4 s (fun s => arith (· * ·) ty sat (s.readX a) (s.readX b))

def execMulImm (g : Guard) (ty : Ty) (sat : Bool) (d a : BitVec 6) (imm : BitVec 32) (s : State) : Ans :=
  setX g d 4 s (fun s => arith (· * ·) ty sat (s.readX a) (immX imm))

/-- Bits [127:64] of the exact signed product (R194). -/
def execMulh (g : Guard) (d a b : BitVec 6) (s : State) : Ans :=
  setX g d 4 s (fun s => BitVec.ofInt 64 ((s.readX a).toInt * (s.readX b).toInt / 2 ^ 64))

/-- Bits [127:64] of the exact unsigned product (R194). -/
def execMulhn (g : Guard) (d a b : BitVec 6) (s : State) : Ans :=
  setX g d 4 s (fun s => BitVec.ofNat 64 ((s.readX a).toNat * (s.readX b).toNat / 2 ^ 64))

def execAnd (g : Guard) (d a b : BitVec 6) (s : State) : Ans := setX g d 1 s (fun s => s.readX a &&& s.readX b)

def execAndImm (g : Guard) (d a : BitVec 6) (imm : BitVec 32) (s : State) : Ans :=
  setX g d 1 s (fun s => s.readX a &&& immX imm)

def execOr (g : Guard) (d a b : BitVec 6) (s : State) : Ans := setX g d 1 s (fun s => s.readX a ||| s.readX b)

def execOrImm (g : Guard) (d a : BitVec 6) (imm : BitVec 32) (s : State) : Ans :=
  setX g d 1 s (fun s => s.readX a ||| immX imm)

def execXor (g : Guard) (d a b : BitVec 6) (s : State) : Ans := setX g d 1 s (fun s => s.readX a ^^^ s.readX b)

def execXorImm (g : Guard) (d a : BitVec 6) (imm : BitVec 32) (s : State) : Ans :=
  setX g d 1 s (fun s => s.readX a ^^^ immX imm)

def execAndn (g : Guard) (d a b : BitVec 6) (s : State) : Ans := setX g d 1 s (fun s => s.readX a &&& ~~~s.readX b)

def execAndnImm (g : Guard) (d a : BitVec 6) (imm : BitVec 32) (s : State) : Ans :=
  setX g d 1 s (fun s => s.readX a &&& ~~~immX imm)

/-- The shift amount: bits [5:0] (R195). -/
def shAmt (b : Word) : Nat := (b.extractLsb' 0 6).toNat

def execShl (g : Guard) (d a b : BitVec 6) (s : State) : Ans := setX g d 1 s (fun s => s.readX a <<< shAmt (s.readX b))

def execShlImm (g : Guard) (d a : BitVec 6) (imm : BitVec 32) (s : State) : Ans :=
  setX g d 1 s (fun s => s.readX a <<< shAmt (immX imm))

def execShr (g : Guard) (d a b : BitVec 6) (s : State) : Ans := setX g d 1 s (fun s => s.readX a >>> shAmt (s.readX b))

def execShrImm (g : Guard) (d a : BitVec 6) (imm : BitVec 32) (s : State) : Ans :=
  setX g d 1 s (fun s => s.readX a >>> shAmt (immX imm))

def execSar (g : Guard) (d a b : BitVec 6) (s : State) : Ans :=
  setX g d 1 s (fun s => (s.readX a).sshiftRight (shAmt (s.readX b)))

def execSarImm (g : Guard) (d a : BitVec 6) (imm : BitVec 32) (s : State) : Ans :=
  setX g d 1 s (fun s => (s.readX a).sshiftRight (shAmt (immX imm)))

def execRol (g : Guard) (d a b : BitVec 6) (s : State) : Ans :=
  setX g d 1 s (fun s => (s.readX a).rotateLeft (shAmt (s.readX b)))

def execRolImm (g : Guard) (d a : BitVec 6) (imm : BitVec 32) (s : State) : Ans :=
  setX g d 1 s (fun s => (s.readX a).rotateLeft (shAmt (immX imm)))

def sMin (a b : Word) : Word := if a.slt b then a else b

def sMax (a b : Word) : Word := if a.slt b then b else a

def uMin (a b : Word) : Word := if a.ult b then a else b

def uMax (a b : Word) : Word := if a.ult b then b else a

def execMin (g : Guard) (d a b : BitVec 6) (s : State) : Ans := setX g d 1 s (fun s => sMin (s.readX a) (s.readX b))

def execMinImm (g : Guard) (d a : BitVec 6) (imm : BitVec 32) (s : State) : Ans :=
  setX g d 1 s (fun s => sMin (s.readX a) (immX imm))

def execMax (g : Guard) (d a b : BitVec 6) (s : State) : Ans := setX g d 1 s (fun s => sMax (s.readX a) (s.readX b))

def execMaxImm (g : Guard) (d a : BitVec 6) (imm : BitVec 32) (s : State) : Ans :=
  setX g d 1 s (fun s => sMax (s.readX a) (immX imm))

def execMinn (g : Guard) (d a b : BitVec 6) (s : State) : Ans := setX g d 1 s (fun s => uMin (s.readX a) (s.readX b))

def execMinnImm (g : Guard) (d a : BitVec 6) (imm : BitVec 32) (s : State) : Ans :=
  setX g d 1 s (fun s => uMin (s.readX a) (immX imm))

def execMaxn (g : Guard) (d a b : BitVec 6) (s : State) : Ans := setX g d 1 s (fun s => uMax (s.readX a) (s.readX b))

def execMaxnImm (g : Guard) (d a : BitVec 6) (imm : BitVec 32) (s : State) : Ans :=
  setX g d 1 s (fun s => uMax (s.readX a) (immX imm))

/-- The conditions of R198 on two values; every value of an integer type is a number. -/
def condHolds (c : Cond) (a b : Val) : Bool :=
  let un := a.isNan || b.isNan
  match c with
  | .eq => !un && a.cmp b == 0
  | .ne => un || a.cmp b != 0
  | .lt => !un && decide (a.cmp b < 0)
  | .le => !un && decide (a.cmp b ≤ 0)
  | .gt => !un && decide (0 < a.cmp b)
  | .ge => !un && decide (0 ≤ a.cmp b)
  | .un => un
  | .or => !un

/-- CMP of R198 on two words. -/
def cmpWords (t : Ty) (c : Cond) (a b : Word) : Bool :=
  let t := natTy t
  condHolds c (valueOf t (a.toNat % 2 ^ t.bits)) (valueOf t (b.toNat % 2 ^ t.bits))

def execCmp (g : Guard) (ty : Ty) (cond : Cond) (d : BitVec 3) (a b : BitVec 6) (s : State) : Ans :=
  setP g d s (fun s => cmpWords ty cond (s.readX a) (s.readX b))

def execCmpImm (g : Guard) (ty : Ty) (cond : Cond) (d : BitVec 3) (a : BitVec 6) (imm : BitVec 32) (s : State) : Ans :=
  setP g d s (fun s => cmpWords ty cond (s.readX a) (immX imm))

def execSel (g : Guard) (d a b : BitVec 6) (c : BitVec 3) (s : State) : Ans :=
  setX g d 1 s (fun s => if s.readP c then s.readX a else s.readX b)

def execMov (g : Guard) (d a : BitVec 6) (s : State) : Ans := setX g d 1 s (fun s => s.readX a)

def execMovi (g : Guard) (d : BitVec 6) (imm : BitVec 32) (s : State) : Ans := setX g d 1 s (fun _ => immX imm)

def execMovh (g : Guard) (d : BitVec 6) (imm : BitVec 32) (s : State) : Ans :=
  setX g d 1 s (fun s => imm ++ (s.readX d).extractLsb' 0 32)

/-- LEA accepts every kind and needs no right; only a failed KIND 0 or limit check faults (R200). -/
def execLea (g : Guard) (d : BitVec 6) (mem : MemOp) (s : State) : Ans :=
  runThread g s (fun s => do
    let sg := s.readSg mem.sg
    check (sg.kind != 0 && decide ((s.eaOff mem).toNat ≤ sg.limit.toNat)) cLimit (s.ea mem)
    .ok (s.writeX d (s.ea mem) 1))

/-- Leading zero bits of a w-bit number. -/
def clzN (w n : Nat) : Nat := if n = 0 then w else w - 1 - Nat.log2 n

/-- Trailing zero bits of a w-bit number. -/
def ctzN (w n : Nat) : Nat := ((List.range w).find? (fun i => n.testBit i)).getD w

/-- One bits of a w-bit number. -/
def popcN (w n : Nat) : Nat := ((List.range w).filter (fun i => n.testBit i)).length

def execClz (g : Guard) (d a : BitVec 6) (s : State) : Ans :=
  setX g d 1 s (fun s => BitVec.ofNat 64 (clzN 64 (s.readX a).toNat))

def execCtz (g : Guard) (d a : BitVec 6) (s : State) : Ans :=
  setX g d 1 s (fun s => BitVec.ofNat 64 (ctzN 64 (s.readX a).toNat))

def execPopc (g : Guard) (d a : BitVec 6) (s : State) : Ans :=
  setX g d 1 s (fun s => BitVec.ofNat 64 (popcN 64 (s.readX a).toNat))

/-- Bits [LSB + LEN - 1 : LSB] of a word as a number (R196). -/
def fieldOfWord (v : Word) (f : BitField) : Nat := (v.toNat >>> f.lsb.toNat) % 2 ^ (f.len1.toNat + 1)

def execBfx (g : Guard) (sx : Bool) (d a : BitVec 6) (bf : BitField) (s : State) : Ans :=
  setX g d 1 s (fun s =>
    let v := fieldOfWord (s.readX a) bf
    BitVec.ofInt 64 (if sx && v.testBit bf.len1.toNat then (v : Int) - 2 ^ (bf.len1.toNat + 1) else v))

/-- BFI reads the old x[D] (R196). -/
def execBfi (g : Guard) (d a : BitVec 6) (bf : BitField) (s : State) : Ans :=
  setX g d 1 s (fun s =>
    let m : Word := BitVec.ofNat 64 ((2 ^ (bf.len1.toNat + 1) - 1) <<< bf.lsb.toNat)
    (s.readX d &&& ~~~m) ||| ((s.readX a <<< bf.lsb.toNat) &&& m))

def execSext (g : Guard) (ty : Ty) (d a : BitVec 6) (s : State) : Ans :=
  setX g d 1 s (fun s => extend ty (s.readX a).toNat)

def execZext (g : Guard) (ty : Ty) (d a : BitVec 6) (s : State) : Ans :=
  setX g d 1 s (fun s => extend ty (s.readX a).toNat)

/-- One step of the division of R197: the quotient byte and the remainder. -/
def divStep (r dividend dv : Word) (j : Nat) : Nat × Nat :=
  let v := r.toNat * 256 + (dividend.toNat >>> (56 - 8 * j)) % 256
  let q := if dv.toNat = 0 then 255 else Nat.min (v / dv.toNat) 255
  (q, v - q * dv.toNat)

def execDivstep (g : Guard) (q : Bool) (d a b c : BitVec 6) (j : BitVec 3) (s : State) : Ans :=
  setX g d 4 s (fun s =>
    let (byte, rem) := divStep (s.readX a) (s.readX c) (s.readX b) j.toNat
    BitVec.ofNat 64 (if q then (s.readX d).toNat * 256 + byte else rem))

def execPset (g : Guard) (d : BitVec 3) (a : BitVec 6) (s : State) : Ans := setP g d s (fun s => s.readX a != 0)

def execPand (g : Guard) (d a b : BitVec 3) (s : State) : Ans := setP g d s (fun s => s.readP a && s.readP b)

def execPor (g : Guard) (d a b : BitVec 3) (s : State) : Ans := setP g d s (fun s => s.readP a || s.readP b)

def execPxor (g : Guard) (d a b : BitVec 3) (s : State) : Ans := setP g d s (fun s => s.readP a ^^ s.readP b)

def execPnot (g : Guard) (d a : BitVec 3) (s : State) : Ans := setP g d s (fun s => !s.readP a)

/-- The record that a context has claimed (R407). -/
def State.claimed (s : State) (k : Nat) : Option TrapRec :=
  if (s.ctx k).rcv then (s.core (coreOfCtx k)).trapq.find? (fun r => r.claimed && r.entry == (s.ctx k).ridx) else none

/-- The trap registers: those of the claimed record, whose resume state is the frozen context's, else the thread's own
(R395, R407): %epc, %enpc, %ennpc, %estat, %ecause, %eaddr. -/
def State.trapRegs (s : State) : List Word :=
  match s.claimed s.myCtx with
  | some r =>
    let f := (s.ctx r.ctx).s
    [f.pc, f.npc, f.nnpc, (BitVec.ofBool r.asyn ++ f.nul).setWidth 64, r.ecause, r.eaddr]
  | none =>
    let c := s.view
    [c.epc, c.enpc, c.ennpc, c.estat, c.ecause, c.eaddr]

/-- A change of the claimed record and of the resume state it names. -/
def State.modRecord (s : State) (f : TrapRec → TrapRec) (g : Resume → Resume) : State :=
  match s.claimed s.myCtx with
  | some r =>
    (s.modCore s.myCore (fun c => { c with trapq := c.trapq.map (fun q => if q == r then f q else q) })).modCtx r.ctx
      (fun c => { c with s := g c.s })
  | none => s

/-- The special registers as MFS reads them (R185, R187, R481). -/
def State.readS (s : State) (sr : SReg) : Word :=
  let c := s.view
  let w := c.crew.map s.crew
  match sr with
  | .slot => BitVec.ofNat 64 s.cur.slot
  | .core => BitVec.ofNat 64 s.cur.core
  | .tile => BitVec.ofNat 64 s.cur.tile
  | .site => BitVec.ofNat 64 (s.siteOf s.cur.tile)
  | .crew =>
    match w with
    | none => 0
    | some w => w.task.setWidth 16 ++ BitVec.ofNat 16 s.myTile.row ++ BitVec.ofNat 16 s.myTile.col
        |>.setWidth 64
  | .task => match w with | none => 0 | some w => w.task.setWidth 64
  | .unit => c.unit.setWidth 64
  | .ucount => match w with | none => 0 | some w => BitVec.ofNat 64 w.blk.units
  | .vcc => BitVec.ofNat 64 (s.myVcc % 2 ^ 48)
  | .tstart => match w with | none => 0 | some w => BitVec.ofNat 64 w.tstart
  | .pvr => match w with | none => 0 | some _ => s.myTile.pvr.setWidth 64
  | .fst => c.fst.setWidth 64
  | .mxc => c.mxc.setWidth 64
  | .rkey0 => (c.rkey.extractLsb' 0 32).setWidth 64
  | .rkey1 => (c.rkey.extractLsb' 32 32).setWidth 64
  | .prio => c.prio.setWidth 64
  | .mode => (BitVec.ofBool c.swx ++ c.lvl ++ BitVec.ofBool c.el).setWidth 64
  | .epc => s.trapRegs.getD 0 0
  | .enpc => s.trapRegs.getD 1 0
  | .ennpc => s.trapRegs.getD 2 0
  | .estat => s.trapRegs.getD 3 0
  | .ecause => s.trapRegs.getD 4 0
  | .eaddr => s.trapRegs.getD 5 0

/-- The reserved bits of %estat and %ecause read 0 (R189). -/
def estatMask : Word := 0x7

def ecauseMask : Word := 0xFFFF3F000000FFFF

/-- Writing a trap register: into the claimed record, or the thread's own. -/
def State.writeTrap (s : State) (own : Ctx → Ctx) (f : TrapRec → TrapRec) (g : Resume → Resume) : State :=
  if (s.claimed s.myCtx).isSome then s.modRecord f g else s.modMe own

/-- MTS keeps the low bits the register holds (R185); other registers are not writable.  A thread's own registers are written at once, since no
group of another slot reads them and its own next one comes eight rc later; %pvr lands after two rc (R178, R201). -/
def State.writeS (s : State) (sr : SReg) (v : Word) : State :=
  match sr with
  | .unit => s.modMe (fun c => { c with unit := v.setWidth 24 })
  | .pvr =>
    match s.view.crew with
    | some w => s.sendPvr w (v.setWidth 16)
    | none => s
  | .fst => s.modMe (fun c => { c with fst := writeFst c.fst (v.setWidth 16) })
  | .mxc => s.modMe (fun c => { c with mxc := v.setWidth 48 })
  | .rkey0 => s.modMe (fun c => { c with rkey := c.rkey.extractLsb' 32 32 ++ v.setWidth 32 })
  | .rkey1 => s.modMe (fun c => { c with rkey := v.setWidth 32 ++ c.rkey.extractLsb' 0 32 })
  | .prio => s.modMe (fun c => { c with prio := v.setWidth 3 })
  | .epc => s.writeTrap (fun c => { c with epc := v }) id (fun f => { f with pc := v })
  | .enpc => s.writeTrap (fun c => { c with enpc := v }) id (fun f => { f with npc := v })
  | .ennpc => s.writeTrap (fun c => { c with ennpc := v }) id (fun f => { f with nnpc := v })
  | .estat => s.writeTrap (fun c => { c with estat := v &&& estatMask }) (fun r => { r with asyn := v.getLsbD 2 })
      (fun f => { f with nul := v.setWidth 2 })
  | .ecause => s.writeTrap (fun c => { c with ecause := v &&& ecauseMask }) (fun r => { r with ecause := v &&& ecauseMask }) id
  | .eaddr => s.writeTrap (fun c => { c with eaddr := v }) (fun r => { r with eaddr := v }) id
  | .slot | .core | .tile | .site | .crew | .task | .ucount | .vcc | .tstart | .mode => s

def execMfs (g : Guard) (d : BitVec 6) (sr : SReg) (s : State) : Ans :=
  runPriv sr.readLevel g s (fun s => .ok (s.writeX d (s.readS sr) 2))

def execMts (g : Guard) (sr : SReg) (a : BitVec 6) (s : State) : Ans :=
  runPriv sr.writeLevel g s (fun s => .ok (s.writeS sr (s.readX a)))

end Sys2Proof.Machine
end

