-- ==== Sys2Proof/Machine/Vector.lean ====
section
/-! DEFINITION. The vector instructions of chapter 08 but for conversions and block formats (R204-R222, R229-R232). -/

namespace Sys2Proof.Machine

/-- Whether element i of width w is active under a mask (R205). -/
def active (mask : BitVec 16) (w i : Nat) : Bool := mask.getLsbD (i * w / 32)

/-- put of R205 over all elements: inactive elements keep their old value, or become 0 with Z or when a link is
written. -/
def putAll (mask : BitVec 16) (zero : Bool) (w : Nat) (old : Nat) (f : Nat → Rd) : List Rd :=
  (List.range (512 / w)).map (fun i => if active mask w i then f i else ⟨if zero then 0 else elem w old i, 0⟩)

def flagsOf (l : List Rd) : BitVec 5 := l.foldl (fun a r => a ||| r.fl) 0

def vecOf (w : Nat) (l : List Rd) : Vec := BitVec.ofNat 512 (streamOfElems w (l.map Rd.code))

/-- Field 62 and 63 name the links (R48). -/
def isLink (r : BitVec 6) : Bool := decide (62 ≤ r.toNat)

/-- A masked write of a vector register: flags of active elements, then the register (R205). -/
def putV (s : State) (w : Nat) (vm : VMask) (d : BitVec 6) (lat : Nat) (f : Nat → Rd) : Except Stop State :=
  let l := putAll (s.readM vm.gm) (vm.z || isLink d) w (s.oldV d).toNat f
  (s.raiseFlags (flagsOf l)).writeV d (vecOf w l) lat

/-- The latency of an instruction of the multiply array: one rc more for the second of two members that use it
(R207). -/
def mulLat (s : State) (lat : Nat) : Nat :=
  lat + (if s.cur.memb && s.here.vmul == some (s.rc + 1) then 1 else 0)

/-- An element-wise instruction of one source. -/
def vec1 (g : Guard) (w : Nat) (vm : VMask) (d a : BitVec 6) (s : State) (lat : State → Nat) (f : State → Nat → Rd) : Ans :=
  runThread g s (fun s => do
    let (x, s) ← s.readV a
    putV s w vm d (lat s) (fun i => f s (elem w x.toNat i)))

/-- An element-wise instruction of two sources. -/
def vec2 (g : Guard) (w : Nat) (vm : VMask) (d a b : BitVec 6) (s : State) (lat : State → Nat)
    (f : State → Nat → Nat → Rd) : Ans :=
  runThread g s (fun s => do
    let (x, s) ← s.readV a
    let (y, s) ← s.readV b
    putV s w vm d (lat s) (fun i => f s (elem w x.toNat i) (elem w y.toNat i)))

/-- An element-wise instruction of three sources. -/
def vec3 (g : Guard) (w : Nat) (vm : VMask) (d a b c : BitVec 6) (s : State) (lat : State → Nat)
    (f : State → Nat → Nat → Nat → Rd) : Ans :=
  runThread g s (fun s => do
    let (x, s) ← s.readV a
    let (y, s) ← s.readV b
    let (u, s) ← s.readV c
    putV s w vm d (lat s) (fun i => f s (elem w x.toNat i) (elem w y.toNat i) (elem w u.toNat i)))

/-- The mode of a vector instruction; DRM comes from the thread's %fst (R76, R211). -/
def State.mode (s : State) (rm : Rm) : Mode := modeOf rm s.view.fst

/-- A sum of values rounded once (R79, R211). -/
def roundSum (t : Ty) (mode : Mode) (sat : Bool) (l : List Val) (fl : BitVec 5) : Rd :=
  let e := exactSum (mode == .rdn) l
  let r := roundF (fmtOf t) mode sat e.v
  ⟨r.code, r.fl ||| e.fl ||| fl⟩

/-- VADD and VSUB on one element: F types by R211, I types by R212. -/
def addElem (t : Ty) (mode : Mode) (sat minus : Bool) (a b : Nat) : Rd :=
  if t.isF then
    let y := valueOf t b
    roundSum t mode sat [valueOf t a, if minus then y.neg else y] 0
  else ⟨wrapInt t sat (if minus then intOf t a - intOf t b else intOf t a + intOf t b), 0⟩

def mulElem (t : Ty) (mode : Mode) (sat : Bool) (a b : Nat) : Rd :=
  if t.isF then
    let e := mulVal (valueOf t a) (valueOf t b)
    let r := roundF (fmtOf t) mode sat e.v
    ⟨r.code, r.fl ||| e.fl⟩
  else ⟨wrapInt t sat (intOf t a * intOf t b), 0⟩

def fmaElem (t : Ty) (mode : Mode) (sat minus : Bool) (a b c : Nat) : Rd :=
  let e := mulVal (valueOf t a) (valueOf t b)
  let z := valueOf t c
  roundSum t mode sat [e.v, if minus then z.neg else z] e.fl

def execVadd (g : Guard) (ty : Ty) (rm : Rm) (sat : Bool) (vm : VMask) (d a b : BitVec 6) (s : State) : Ans :=
  vec2 g ty.bits vm d a b s (fun _ => if ty.isF then 4 else 2) (fun s => addElem ty (s.mode rm) sat false)

def execVsub (g : Guard) (ty : Ty) (rm : Rm) (sat : Bool) (vm : VMask) (d a b : BitVec 6) (s : State) : Ans :=
  vec2 g ty.bits vm d a b s (fun _ => if ty.isF then 4 else 2) (fun s => addElem ty (s.mode rm) sat true)

def execVmul (g : Guard) (ty : Ty) (rm : Rm) (sat : Bool) (vm : VMask) (d a b : BitVec 6) (s : State) : Ans :=
  vec2 g ty.bits vm d a b s (fun s => mulLat s 4) (fun s => mulElem ty (s.mode rm) sat)

def execVfma (g : Guard) (ty : Ty) (rm : Rm) (sat : Bool) (vm : VMask) (d a b c : BitVec 6) (s : State) : Ans :=
  vec3 g ty.bits vm d a b c s (fun s => mulLat s 4) (fun s => fmaElem ty (s.mode rm) sat false)

def execVfms (g : Guard) (ty : Ty) (rm : Rm) (sat : Bool) (vm : VMask) (d a b c : BitVec 6) (s : State) : Ans :=
  vec3 g ty.bits vm d a b c s (fun s => mulLat s 4) (fun s => fmaElem ty (s.mode rm) sat true)

/-- The order of R213: as values, with -0 below +0. -/
def ltZero (a b : Val) : Bool :=
  decide (a.cmp b < 0) || (a.cmp b == 0 && a.isNeg && !b.isNeg)

/-- VMIN and VMAX on one element (R213). -/
def minMaxElem (t : Ty) (greatest : Bool) (a b : Nat) : Rd :=
  if t.isF then
    let x := valueOf t a
    let y := valueOf t b
    if x.isNan || y.isNan then specialNan (fmtOf t)
    else ⟨if ltZero x y != greatest then a else b, 0⟩
  else ⟨if decide (intOf t a < intOf t b) != greatest then a else b, 0⟩

def execVmin (g : Guard) (ty : Ty) (vm : VMask) (d a b : BitVec 6) (s : State) : Ans :=
  vec2 g ty.bits vm d a b s (fun _ => 2) (fun _ => minMaxElem ty false)

def execVmax (g : Guard) (ty : Ty) (vm : VMask) (d a b : BitVec 6) (s : State) : Ans :=
  vec2 g ty.bits vm d a b s (fun _ => 2) (fun _ => minMaxElem ty true)

/-- VABS on one element (R213). -/
def absElem (t : Ty) (sat : Bool) (a : Nat) : Rd :=
  if t.isF then
    if (valueOf t a).isNan then specialNan (fmtOf t) else ⟨a % 2 ^ (t.bits - 1), 0⟩
  else ⟨wrapInt t sat (intOf t a).natAbs, 0⟩

/-- VNEG on one element (R213). -/
def negElem (t : Ty) (sat : Bool) (a : Nat) : Rd :=
  if t.isF then
    if (valueOf t a).isNan then specialNan (fmtOf t) else ⟨a ^^^ 2 ^ (t.bits - 1), 0⟩
  else ⟨wrapInt t sat (-intOf t a), 0⟩

def execVabs (g : Guard) (ty : Ty) (sat : Bool) (vm : VMask) (d a : BitVec 6) (s : State) : Ans :=
  vec1 g ty.bits vm d a s (fun _ => 2) (fun _ => absElem ty sat)

def execVneg (g : Guard) (ty : Ty) (sat : Bool) (vm : VMask) (d a : BitVec 6) (s : State) : Ans :=
  vec1 g ty.bits vm d a s (fun _ => 2) (fun _ => negElem ty sat)

/-- VCMP's mask: each lane takes the result of the element that covers it; inactive bits keep or clear (R215). -/
def cmpMask (t : Ty) (c : Cond) (mask old : BitVec 16) (z : Bool) (x y : Nat) : BitVec 16 :=
  let w := t.bits
  (List.range 16).foldl (fun (m : BitVec 16) j =>
    let i := j * 32 / w
    let b := if active mask w i then condHolds c (valueOf t (elem w x i)) (valueOf t (elem w y i))
      else !z && old.getLsbD j
    if b then m ||| (1#16 <<< j) else m) 0

def execVcmp (g : Guard) (ty : Ty) (cond : Cond) (vm : VMask) (d : BitVec 3) (a b : BitVec 6) (s : State) : Ans :=
  runThread g s (fun s => do
    let (x, s) ← s.readV a
    let (y, s) ← s.readV b
    .ok (s.writeM d (cmpMask ty cond (s.readM vm.gm) (s.readM d) vm.z x.toNat y.toNat)))

def execVsel (g : Guard) (vm : VMask) (d a b : BitVec 6) (c : BitVec 3) (s : State) : Ans :=
  runThread g s (fun s => do
    let (x, s) ← s.readV a
    let (y, s) ← s.readV b
    putV s 32 vm d 1 (fun i => ⟨elem 32 (if (s.readM c).getLsbD i then x.toNat else y.toNat) i, 0⟩))

def execVmulh (g : Guard) (ty : Ty) (vm : VMask) (d a b : BitVec 6) (s : State) : Ans :=
  vec2 g ty.bits vm d a b s (fun s => mulLat s 4)
    (fun _ x y => ⟨codeInt ty (intOf ty x * intOf ty y / 2 ^ ty.bits), 0⟩)

def execVclz (g : Guard) (ty : Ty) (vm : VMask) (d a : BitVec 6) (s : State) : Ans :=
  vec1 g ty.bits vm d a s (fun _ => 2) (fun _ x => ⟨clzN ty.bits x, 0⟩)

def execVpopc (g : Guard) (ty : Ty) (vm : VMask) (d a : BitVec 6) (s : State) : Ans :=
  vec1 g ty.bits vm d a s (fun _ => 2) (fun _ x => ⟨popcN ty.bits x, 0⟩)

def execVavg (g : Guard) (ty : Ty) (vm : VMask) (d a b : BitVec 6) (s : State) : Ans :=
  vec2 g ty.bits vm d a b s (fun _ => 2) (fun _ x y => ⟨codeInt ty ((intOf ty x + intOf ty y + 1) / 2), 0⟩)

/-- Shifts of one element by the low log2(w) bits of the other (R214). -/
def execVshl (g : Guard) (ty : Ty) (vm : VMask) (d a b : BitVec 6) (s : State) : Ans :=
  vec2 g ty.bits vm d a b s (fun _ => 2) (fun _ x y => ⟨(x <<< (y % ty.bits)) % 2 ^ ty.bits, 0⟩)

def execVshr (g : Guard) (ty : Ty) (vm : VMask) (d a b : BitVec 6) (s : State) : Ans :=
  vec2 g ty.bits vm d a b s (fun _ => 2) (fun _ x y => ⟨x >>> (y % ty.bits), 0⟩)

/-- An element read as signed, whatever the type (SAR of R195). -/
def signedOf (w x : Nat) : Int := if 2 ^ (w - 1) ≤ x then (x : Int) - (2 ^ w : Nat) else (x : Int)

def execVsar (g : Guard) (ty : Ty) (vm : VMask) (d a b : BitVec 6) (s : State) : Ans :=
  vec2 g ty.bits vm d a b s (fun _ => 2)
    (fun _ x y => ⟨codeInt ty (signedOf ty.bits x / 2 ^ (y % ty.bits)), 0⟩)

def execVand (g : Guard) (vm : VMask) (d a b : BitVec 6) (s : State) : Ans :=
  vec2 g 32 vm d a b s (fun _ => 1) (fun _ x y => ⟨x &&& y, 0⟩)

def execVor (g : Guard) (vm : VMask) (d a b : BitVec 6) (s : State) : Ans :=
  vec2 g 32 vm d a b s (fun _ => 1) (fun _ x y => ⟨x ||| y, 0⟩)

def execVxor (g : Guard) (vm : VMask) (d a b : BitVec 6) (s : State) : Ans :=
  vec2 g 32 vm d a b s (fun _ => 1) (fun _ x y => ⟨x ^^^ y, 0⟩)

/-- VPERM selects from the elements of A followed by C (R218). -/
def execVperm (g : Guard) (ty : Ty) (vm : VMask) (d a b c : BitVec 6) (s : State) : Ans :=
  runThread g s (fun s => do
    let (x, s) ← s.readV a
    let (y, s) ← s.readV b
    let (u, s) ← s.readV c
    let n := 512 / ty.bits
    putV s ty.bits vm d 2 (fun i =>
      let t := elem ty.bits y.toNat i % (2 * n)
      ⟨if t < n then elem ty.bits x.toNat t else elem ty.bits u.toNat (t - n), 0⟩))

/-- The value of element i of a broadcast (R219). -/
def bcastElem (w : Nat) (ramp : Bool) (v i : Nat) : Nat := (v + (if ramp then i else 0)) % 2 ^ w

def execVbcast (g : Guard) (ty : Ty) (ramp : Bool) (vm : VMask) (d b : BitVec 6) (s : State) : Ans :=
  runThread g s (fun s =>
    putV s ty.bits vm d 1 (fun i => ⟨bcastElem ty.bits ramp (s.readX b).toNat i, 0⟩))

def execVbcastImm (g : Guard) (ty : Ty) (ramp : Bool) (vm : VMask) (d : BitVec 6) (imm : BitVec 32) (s : State) : Ans :=
  runThread g s (fun s =>
    putV s ty.bits vm d 1 (fun i => ⟨bcastElem ty.bits ramp (immX imm).toNat i, 0⟩))

/-- Element i of a shuffle of n elements (R220). -/
def shufElem (w : Nat) (sh : Shuffle) (x y i : Nat) : Nat :=
  let n := 512 / w
  let ab (t : Nat) : Nat := if t < n then elem w x t else elem w y (t - n)
  match sh.pat with
  | .ziplo => if i % 2 = 0 then elem w x (i / 2) else elem w y ((i - 1) / 2)
  | .ziphi => if i % 2 = 0 then elem w x (n / 2 + i / 2) else elem w y (n / 2 + (i - 1) / 2)
  | .even => ab (2 * i)
  | .odd => ab (2 * i + 1)
  | .slide => ab (i + sh.k.toNat)
  | .rev => elem w x (n - 1 - i)

def execVshuf (g : Guard) (ty : Ty) (sh : Shuffle) (vm : VMask) (d a b : BitVec 6) (s : State) : Ans :=
  runThread g s (fun s => do
    let (x, s) ← s.readV a
    let (y, s) ← s.readV b
    putV s ty.bits vm d 2 (fun i => ⟨shufElem ty.bits sh x.toNat y.toNat i, 0⟩))

/-- The node of a reduction (R221). -/
def redNode (t : Ty) (op : RedOp) (mode : Mode) (sat : Bool) (a b : Nat) : Rd :=
  match op with
  | .add => addElem t mode sat false a b
  | .min => minMaxElem t false a b
  | .max => minMaxElem t true a b
  | .and => ⟨a &&& b, 0⟩
  | .or => ⟨a ||| b, 0⟩
  | .xor => ⟨a ^^^ b, 0⟩

/-- The identity of a reduction (R221). -/
def redIdentity (t : Ty) (op : RedOp) : Nat :=
  let f := fmtOf t
  match op with
  | .add => if t.isF then signBit f true else 0
  | .min => if t.isF then f.maxCode + 1 else codeInt t (intMax t)
  | .max => if t.isF then signBit f true + f.maxCode + 1 else codeInt t (intMin t)
  | .and => 2 ^ t.bits - 1
  | .or | .xor => 0

/-- Levels of the tree over the elements of a register (R84). -/
def treeDepth (w : Nat) : Nat := Nat.log2 (512 / w)

def execVred (g : Guard) (ty : Ty) (rm : Rm) (sat : Bool) (op : RedOp) (mk : BitVec 3) (d a : BitVec 6) (s : State) : Ans :=
  runThread g s (fun s => do
    let (x, s) ← s.readV a
    let w := ty.bits
    let leaves := (List.range (512 / w)).map
      (fun i => if active (s.readM mk) w i then elem w x.toNat i else redIdentity ty op)
    let r := ptree (redNode ty op (s.mode rm) sat) (treeDepth w) leaves
    let v := if ty.isF then BitVec.ofNat 64 r.code else extend ty r.code
    .ok ((s.raiseFlags r.fl).writeX d v 6))

/-- The first level of VDOT's tree adds two exact products (R222). -/
def dotPairs (gt : Ty) (mode : Mode) (l : List Ex) : List Rd :=
  match l with
  | a :: b :: rest => roundSum gt mode false [a.v, b.v] (a.fl ||| b.fl) :: dotPairs gt mode rest
  | _ => []

/-- VDOT of F types (R222). -/
def dotF (t : Ty) (mode : Mode) (mask : BitVec 16) (x y : Nat) (c : Word) : Rd :=
  let gt : Ty := if t == .f64 then .f64 else .f32
  let w := t.bits
  let p := (List.range (512 / w)).map (fun i =>
    if active mask w i then mulVal (valueOf t (elem w x i)) (valueOf t (elem w y i)) else ⟨.fin true 0 0, 0⟩)
  let l1 := dotPairs gt mode p
  let r := ptree (fun a b => roundSum gt mode false [valueOf gt a, valueOf gt b] 0) (treeDepth w - 1) (l1.map Rd.code)
  roundSum gt mode false [valueOf gt r.code, valueOf gt (c.toNat % 2 ^ gt.bits)] (flagsOf l1 ||| r.fl)

/-- VDOT of I types: exact, modulo 2^64 (R222). -/
def dotI (t : Ty) (mask : BitVec 16) (x y : Nat) (c : Word) : Word :=
  let w := t.bits
  (List.range (512 / w)).foldl (fun acc i =>
    if active mask w i then acc + BitVec.ofInt 64 (intOf t (elem w x i) * intOf t (elem w y i)) else acc) c

def execVdot (g : Guard) (ty : Ty) (rm : Rm) (mk : BitVec 3) (d a b c : BitVec 6) (s : State) : Ans :=
  runThread g s (fun s => do
    let (x, s) ← s.readV a
    let (y, s) ← s.readV b
    let lat := mulLat s 6
    if ty.isF then
      let r := dotF ty (s.mode rm) (s.readM mk) x.toNat y.toNat (s.readX c)
      .ok ((s.raiseFlags r.fl).writeX d (BitVec.ofNat 64 r.code) lat)
    else .ok (s.writeX d (dotI ty (s.readM mk) x.toNat y.toNat (s.readX c)) lat))

/-- The format f' of the estimates: f with a fraction of min(m, 11) bits (R229). -/
def estFmt (f : Fmt) : Fmt :=
  let p := min f.p 11
  { f with bits := 1 + f.ebits + p, p, maxCode := f.maxCode >>> (f.p - p), nan := f.nan.map (fun c => c >>> (f.p - p)) }

/-- An estimate from its exact value: rounded to f', zero below the least subnormal of f', infinite with OF beyond the
largest value; only OF is raised (R229). -/
def estimate (f : Fmt) (v : Val) : Rd :=
  let e := estFmt f
  match v with
  | .fin neg m x =>
    if m != 0 && decide (x + Nat.log2 m < e.emin - e.p) then ⟨signBit f neg, 0⟩
    else
      let r := roundF e .rne false v
      ⟨r.code <<< (f.p - e.p), r.fl &&& flOF⟩
  | v =>
    let r := roundF e .rne false v
    ⟨r.code <<< (f.p - e.p), 0⟩

/-- Digits of an integer square root, `n` of them left, from the top. -/
def isqrtGo (n : Nat) (v r : Nat) : Nat :=
  match n with
  | 0 => r
  | n + 1 => isqrtGo n v (if (r + 2 ^ n) * (r + 2 ^ n) ≤ v then r + 2 ^ n else r)

/-- The integer square root of a number below 2^(2n). -/
def isqrt (n v : Nat) : Nat := isqrtGo n v 0

/-- A quotient or root that is not exact is given with a bit below its last that says so. -/
def sticky (q : Nat) (exact : Bool) : Nat := 2 * q + (if exact then 0 else 1)

/-- 1/x (R229). -/
def rcpVal (v : Val) : Ex :=
  match v with
  | .nan => ⟨.nan, 0⟩
  | .inf n => ⟨.fin n 0 0, 0⟩
  | .fin n 0 _ => ⟨.inf n, flDZ⟩
  | .fin n m e =>
    let k := 64 + Nat.log2 m
    ⟨.fin n (sticky (2 ^ k / m) (2 ^ k % m == 0)) (-e - k - 1), 0⟩

/-- 1/sqrt(x) (R229). -/
def rsqVal (v : Val) : Ex :=
  match v with
  | .nan => ⟨.nan, 0⟩
  | .inf n => if n then ⟨.nan, flIV⟩ else ⟨.fin false 0 0, 0⟩
  | .fin n 0 _ => ⟨.inf n, flDZ⟩
  | .fin true _ _ => ⟨.nan, flIV⟩
  | .fin false m e =>
    -- an even exponent, and 1/sqrt(m * 2^e) = sqrt(2^(2k) / m) * 2^(-e/2 - k)
    let odd := e % 2 != 0
    let m := if odd then 2 * m else m
    let e := if odd then e - 1 else e
    let k := 80 + Nat.log2 m
    let q := 2 ^ (2 * k) / m
    let r := isqrt (k + 1) q
    ⟨.fin false (sticky r (2 ^ (2 * k) % m == 0 && r * r == q)) (-(e / 2) - k - 1), 0⟩

/-- Bits of the fixed-point numbers that 2^x and log2(x) are computed in (log entry 10). -/
def fixBits : Nat := 400

/-- ln 2 in fixed point, from the sum of 1 / (k * 2^k). -/
def ln2Fix : Nat := (List.range 420).foldl (fun a k => a + 2 ^ fixBits / ((k + 1) * 2 ^ (k + 1))) 0

/-- Terms of the exponential series. -/
def expTerms (n : Nat) (t term acc k : Nat) : Nat :=
  match n with
  | 0 => acc
  | n + 1 =>
    let term := term * t / 2 ^ fixBits / (k + 1)
    expTerms n t term (acc + term) (k + 1)

/-- 2^f of a fixed-point fraction. -/
def exp2Fix (f : Nat) : Nat :=
  let t := f * ln2Fix / 2 ^ fixBits
  expTerms 100 t (2 ^ fixBits) (2 ^ fixBits) 0

/-- 2^x (R229): the integer part moves the exponent, the fraction is exact or irrational. -/
def exp2Val (v : Val) : Ex :=
  match v with
  | .nan => ⟨.nan, 0⟩
  | .inf n => if n then ⟨.fin false 0 0, 0⟩ else ⟨.inf false, 0⟩
  | .fin n m e =>
    if m == 0 then ⟨.fin false 1 0, 0⟩
    else if decide (20 < e + Nat.log2 m) then
      -- beyond every format's range: any power that large or small
      ⟨.fin false 1 (if n then -(2 ^ 20 : Int) else 2 ^ 20), 0⟩
    else
      -- x in units of 2^-fixBits, with a sticky bit
      let sh := e + fixBits
      let u : Nat := if 0 ≤ sh then m <<< sh.toNat else m >>> (-sh).toNat
      let exact := decide (0 ≤ sh) || m % 2 ^ (-sh).toNat == 0
      let fl : Int := if n then -((u : Int) + (if exact then 0 else 1)) else u
      let ip := fl / 2 ^ fixBits
      let fr := (fl % 2 ^ fixBits).toNat
      ⟨.fin false (sticky (exp2Fix fr) (fr == 0 && exact)) (ip - fixBits - 1), 0⟩

/-- Bits of log2 of a fixed-point number in [1, 2), `n` of them. -/
def log2Bits (n : Nat) (y acc : Nat) : Nat :=
  match n with
  | 0 => acc
  | n + 1 =>
    let y := y * y / 2 ^ (2 * fixBits)
    if 2 ^ (2 * fixBits + 1) ≤ y then log2Bits n (y / 2) (2 * acc + 1) else log2Bits n y (2 * acc)

/-- log2(x) (R229). -/
def log2Val (v : Val) : Ex :=
  match v with
  | .nan => ⟨.nan, 0⟩
  | .inf n => if n then ⟨.nan, flIV⟩ else ⟨.inf false, 0⟩
  | .fin _ 0 _ => ⟨.inf true, flDZ⟩
  | .fin true _ _ => ⟨.nan, flIV⟩
  | .fin false m e =>
    let l := Nat.log2 m
    let ip : Int := e + l
    let y := m <<< (2 * fixBits - l)
    let b := log2Bits 200 y 0
    let v : Int := ip * 2 ^ 200 + b
    if m == 2 ^ l then ⟨valInt ip, 0⟩
    else ⟨.fin (decide (v < 0)) (2 * v + 1).natAbs (-201), 0⟩

/-- One element of an estimate instruction. -/
def estElem (t : Ty) (f : Val → Ex) (a : Nat) : Rd :=
  let e := f (valueOf t a)
  let r := estimate (fmtOf t) e.v
  ⟨r.code, r.fl ||| e.fl⟩

def execVrcp (g : Guard) (ty : Ty) (vm : VMask) (d a : BitVec 6) (s : State) : Ans :=
  vec1 g ty.bits vm d a s (fun _ => 4) (fun _ => estElem ty rcpVal)

def execVrsq (g : Guard) (ty : Ty) (vm : VMask) (d a : BitVec 6) (s : State) : Ans :=
  vec1 g ty.bits vm d a s (fun _ => 4) (fun _ => estElem ty rsqVal)

def execVexp2 (g : Guard) (ty : Ty) (vm : VMask) (d a : BitVec 6) (s : State) : Ans :=
  vec1 g ty.bits vm d a s (fun _ => 4) (fun _ => estElem ty exp2Val)

def execVlog2 (g : Guard) (ty : Ty) (vm : VMask) (d a : BitVec 6) (s : State) : Ans :=
  vec1 g ty.bits vm d a s (fun _ => 4) (fun _ => estElem ty log2Val)

/-- x + y * z formed exactly, with the flags of the product and the sums (R79, R230). -/
def fmaVal (rdn : Bool) (x y z : Ex) : Ex :=
  let p := mulVal y.v z.v
  let u := exactSum rdn [x.v, p.v]
  ⟨u.v, x.fl ||| y.fl ||| z.fl ||| p.fl ||| u.fl⟩

def negEx (e : Ex) : Ex := ⟨e.v.neg, e.fl⟩

/-- One refinement (R230): A, B, C and the old D. -/
def stepElem (t : Ty) (kind : StepKind) (mode : Mode) (sat : Bool) (a b c d : Nat) : Rd :=
  let rdn := mode == .rdn
  let x : Ex := ⟨valueOf t a, 0⟩
  let y : Ex := ⟨valueOf t b, 0⟩
  let z : Ex := ⟨valueOf t c, 0⟩
  let o : Ex := ⟨valueOf t d, 0⟩
  let one : Ex := ⟨.fin false 1 0, 0⟩
  let e := match kind with
    | .rcp => fmaVal rdn y y (fmaVal rdn one (negEx x) y)
    | .rsq =>
      let ab := mulVal x.v y.v
      let u := fmaVal rdn one (negEx ab) y
      fmaVal rdn y y ⟨u.v.scale (-1), u.fl⟩
    | .div => fmaVal rdn z o (fmaVal rdn x (negEx y) z)
    | .sqrt => fmaVal rdn z o (fmaVal rdn x (negEx z) z)
  let r := roundF (fmtOf t) mode sat e.v
  ⟨r.code, r.fl ||| e.fl⟩

def execVstep (g : Guard) (ty : Ty) (rm : Rm) (sat : Bool) (kind : StepKind) (vm : VMask) (d a b c : BitVec 6) (s : State) : Ans :=
  runThread g s (fun s => do
    let (x, s) ← s.readV a
    let (y, s) ← s.readV b
    let (u, s) ← s.readV c
    let o := s.oldV d
    let w := ty.bits
    putV s w vm d (mulLat s 4) (fun i =>
      stepElem ty kind (s.mode rm) sat (elem w x.toNat i) (elem w y.toNat i) (elem w u.toNat i) (elem w o.toNat i)))

/-- VRNG: kmix of the counter B : A and the thread's key (R232). -/
def execVrng (g : Guard) (vm : VMask) (d a b : BitVec 6) (s : State) : Ans :=
  vec2 g 32 vm d a b s (fun _ => 4) (fun s x y => ⟨(kmix (BitVec.ofNat 64 (y <<< 32 + x)) s.view.rkey).toNat, 0⟩)

/-- An instruction whose whole effect is one lane mask (R217). -/
def setM (g : Guard) (d : BitVec 3) (s : State) (f : State → BitVec 16) : Ans :=
  runThread g s (fun s => .ok (s.writeM d (f s)))

def execMand (g : Guard) (d a b : BitVec 3) (s : State) : Ans := setM g d s (fun s => s.readM a &&& s.readM b)

def execMor (g : Guard) (d a b : BitVec 3) (s : State) : Ans := setM g d s (fun s => s.readM a ||| s.readM b)

def execMnot (g : Guard) (d a : BitVec 3) (s : State) : Ans := setM g d s (fun s => ~~~s.readM a)

end Sys2Proof.Machine
end

