-- ==== Sys2Proof/Machine/Convert.lean ====
section
/-! DEFINITION. Conversions, stochastic rounding and block formats (R223-R228). -/

namespace Sys2Proof.Machine

/-- One element converted (R223). -/
def cvtElem (src dst : Ty) (mode : Mode) (sat : Bool) (c : Nat) : Rd :=
  let x := valueOf src c
  if dst.isFloat then roundF (fmtOf dst) mode sat x
  else if src.isFloat then roundI dst mode x
  else if sat then roundI dst .rne x
  else ⟨codeInt dst (intOf src c), 0⟩

/-- The result of a conversion over the elements of a register: the converted elements from PART on, the others old
(R223).  `f` converts element si. -/
def cvtVec (ws wd part : Nat) (mask : BitVec 16) (zero : Bool) (x old : Nat) (f : Nat → Nat → Rd) : List Rd :=
  let wm := max ws wd
  let n := 512 / wm
  let at0 := if wd < ws then part * n else 0
  (List.range (512 / wd)).map (fun di =>
    if at0 ≤ di ∧ di < at0 + n then
      let i := di - at0
      let si := i + (if ws < wd then part * n else 0)
      if active mask wm i then f si (elem ws x si) else ⟨if zero then 0 else elem wd old di, 0⟩
    else ⟨elem wd old di, 0⟩)

def execVcvt (g : Guard) (ty : Ty) (rm : Rm) (sat : Bool) (cv : ConvSel) (vm : VMask) (d a : BitVec 6) (s : State) : Ans :=
  runThread g s (fun s => do
    let (x, s) ← s.readV a
    let l := cvtVec cv.src.bits ty.bits cv.part.toNat (s.readM vm.gm) (vm.z || isLink d) x.toNat (s.oldV d).toNat
      (fun _ c => cvtElem cv.src ty (s.mode rm) sat c)
    (s.raiseFlags (flagsOf l)).writeV d (vecOf ty.bits l) 4)

/-- rotr32 of a lane. -/
def rotr32 (v n : Nat) : Nat := ((BitVec.ofNat 32 v).rotateRight n).toNat

/-- The random value of source element si (R224). -/
def srndDraw (ws : Nat) (c : Nat) (si : Nat) : Nat :=
  rotr32 (elem 32 c (si * ws / 32)) (if ws < 32 then ws * (si % (32 / ws)) else 0)

def execVsrnd (g : Guard) (ty : Ty) (sat : Bool) (cv : ConvSel) (vm : VMask) (d a c : BitVec 6) (k : BitVec 5) (s : State) : Ans :=
  runThread g s (fun s => do
    let (x, s) ← s.readV a
    let (r, s) ← s.readV c
    let ws := cv.src.bits
    let l := cvtVec ws ty.bits cv.part.toNat (s.readM vm.gm) (vm.z || isLink d) x.toNat (s.oldV d).toNat
      (fun si e => roundF (fmtOf ty) (.sr (srndDraw ws r.toNat si) k.toNat (some (gridOf cv.src))) sat (valueOf cv.src e))
    (s.raiseFlags (flagsOf l)).writeV d (vecOf ty.bits l) 4)

/-- The 32 source codes of a block: A, and for a 32-bit source A then C. -/
def blockCodes (w : Nat) (a c : Nat) : List Nat :=
  if w = 16 then elems 16 32 a else elems 32 16 a ++ elems 32 16 c

/-- emax of R225. -/
def blockEmax (dst : Ty) : Int :=
  match dst with
  | .e4m3 => 8
  | .e5m2 => 15
  | .e3m2 => 4
  | _ => 2

def maxVal (a b : Val) : Val := if a.cmp b < 0 then b else a

/-- The list without its first greatest element. -/
def dropGreatest (l : List Val) : List Val :=
  let a := l.foldl maxVal (.fin false 0 0)
  l.eraseP (fun v => v.cmp a == 0)

/-- The E8M0 scale of a block (R225). -/
def blockScale (dst src : Ty) (l : List Val) : Nat :=
  if l.any Val.isNan then 0xFF
  else
    let mags := l.map (fun v => if v.isInf then valueF (fmtOf src) (fmtOf src).maxCode else v.abs)
    let top := mags.foldl maxVal (.fin false 0 0)
    let second := (dropGreatest mags).foldl maxVal (.fin false 0 0)
    let a := if dst == .f4s && !second.isZero then second else top
    match a with
    | .fin _ m e => if m = 0 then 0 else (min (max (e + Nat.log2 m - blockEmax dst + 127) 0) 254).toNat
    | _ => 0

/-- A block encoded: its element roundings, and for F4S the stand-in's place and rounding (R226, R227). -/
structure Packed where
  els : List Rd
  standIn : Rd := ⟨0, 0⟩
  deriving DecidableEq, Repr

/-- |y - value(c)| of R227; infinite for an infinite y. -/
def packErr (y : Val) (c : Nat) : Val :=
  if y.isInf then .inf false else (exactSum false [y, (valueOf .e2m1 c).neg]).v.abs

/-- The place of the stand-in: the lowest NaN, else the lowest largest error, if any is above 0 (R227). -/
def standInAt (ys : List Val) (cs : List Rd) : Option Nat :=
  match ys.findIdx? Val.isNan with
  | some i => some i
  | none =>
    let errs := (ys.zip cs).map (fun p => packErr p.1 p.2.code)
    let top := errs.foldl maxVal (.fin false 0 0)
    if top.isZero then none else errs.findIdx? (fun e => e.cmp top == 0)

/-- VPACK's codes for exact values y already divided by the scale (R226, R227). -/
def packBlock (dst : Ty) (mode : Mode) (sat : Bool) (ys : List Val) : Packed :=
  let cs := ys.map (fun y => roundF (fmtOf dst) mode sat y)
  if dst == .f4s then
    match standInAt ys cs with
    | none => ⟨cs.map (fun r => if r.code == 8 then { r with code := 0 } else r), ⟨0, 0⟩⟩
    | some j =>
      ⟨(List.range 32).map (fun i =>
          let r := cs.getD i ⟨0, 0⟩
          if i == j then ⟨8, 0⟩ else if r.code == 8 then { r with code := 0 } else r),
        roundF (fmtOf .e4m3) mode true (ys.getD j .nan)⟩
  else ⟨cs, ⟨0, 0⟩⟩

/-- Bytes of a packed block (R226). -/
def blockBytes (dst : Ty) : Nat := 4 * dst.bits

/-- A register with `n` bytes from byte `at_` replaced. -/
def putBytes (v : Nat) (at_ n x : Nat) : Nat :=
  v - elem (8 * n) (v >>> (8 * at_)) 0 * 2 ^ (8 * at_) + x % 2 ^ (8 * n) * 2 ^ (8 * at_)

/-- VPACK's result (R226). -/
def packVec (dst : Ty) (part x : Nat) (p : Packed) (old : Nat) : Nat :=
  let v := putBytes old (part * blockBytes dst) (blockBytes dst) (streamOfElems dst.bits (p.els.map Rd.code))
  if dst == .f4s then putBytes v (48 + 2 * part) 2 (x + 256 * p.standIn.code) else v

def execVpack (g : Guard) (ty : Ty) (rm : Rm) (sat : Bool) (cv : ConvSel) (d a b c : BitVec 6) (s : State) : Ans :=
  runThread g s (fun s => do
    let (u, s) ← s.readV a
    let w := cv.src.bits
    let (v, s) ← if w == 32 then s.readV c else pure (0, s)
    let codes := blockCodes w u.toNat v.toNat
    let x := ((s.readX b).extractLsb' 0 8).toNat
    let mode := s.mode rm
    let p : Packed :=
      if ty.isBlock then
        if x == 0xFF then ⟨List.replicate 32 ⟨0, 0⟩, ⟨0, 0⟩⟩
        else packBlock ty mode sat (codes.map (fun c => (valueOf cv.src c).scale (127 - (x : Int))))
      else ⟨codes.map (fun c => roundI ty mode (valueOf cv.src c)), ⟨0, 0⟩⟩
    let r := packVec ty cv.part.toNat x p (s.oldV d).toNat
    (s.raiseFlags (flagsOf p.els ||| p.standIn.fl)).writeV d (BitVec.ofNat 512 r) 6)

/-- The scale and stand-in VUNPK uses (R228). -/
def unpackScale (src : Ty) (part : Nat) (a : Nat) (b : Word) : Nat × Nat :=
  if src == .f4s then (elem 8 a (48 + 2 * part), elem 8 a (49 + 2 * part))
  else ((b.extractLsb' 0 8).toNat, 0)

def execVunpk (g : Guard) (ty : Ty) (rm : Rm) (sat : Bool) (cv : UnpackSel) (d a b : BitVec 6) (s : State) : Ans :=
  runThread g s (fun s => do
    let (u, s) ← s.readV a
    let part := cv.part.toNat
    let (x, t) := unpackScale cv.src part u.toNat (s.readX b)
    let codes := elems cv.src.bits 32 (u.toNat >>> (8 * (part * blockBytes cv.src)))
    let vals := if cv.half then codes.drop 16 else codes
    let l := (vals.take (512 / ty.bits)).map (fun c =>
      if ty.isFloat then roundF (fmtOf ty) (s.mode rm) sat (blockVal cv.src c x t)
      else (⟨codeInt ty (intOf cv.src c), 0⟩ : Rd))
    (s.raiseFlags (flagsOf l)).writeV d (vecOf ty.bits l) 6)

def execVscale (g : Guard) (ty src : Ty) (d a c : BitVec 6) (s : State) : Ans :=
  runThread g s (fun s => do
    let (u, s) ← s.readV a
    let (v, s) ← if src.bits == 32 then s.readV c else pure (0, s)
    let vals := (blockCodes src.bits u.toNat v.toNat).map (valueOf src)
    .ok (s.writeX d (BitVec.ofNat 64 (blockScale ty src vals)) 6))

end Sys2Proof.Machine
end

