-- ==== Sys2Proof/Machine/Walk.lean ====
section
/-! DEFINITION. Translation of far addresses: page-table entries and walks on this wafer and through a remote root (R89-R91, R108), rights
(R92, R375) and the leaf cache of a gateway (R93). -/

namespace Sys2Proof.Machine

/-- What a far access does (R92). -/
inductive Acc where
  | read | fetch | write | publ | atomic
  deriving DecidableEq, Repr

/-- Far error codes (R95). -/
def eNotPresent : BitVec 8 := 0x01
def eRange : BitVec 8 := 0x02
def eRights : BitVec 8 := 0x03
def eKind : BitVec 8 := 0x04
def eFormat : BitVec 8 := 0x05
def ePa : BitVec 8 := 0x06
def eParkFull : BitVec 8 := 0x07
def eDenied : BitVec 8 := 0x08
def ePeerLost : BitVec 8 := 0x09
def eStalePeer : BitVec 8 := 0x0A
def eMedia : BitVec 8 := 0x0B

/-- A page shift of a level (R90). -/
def levelShift (level : Nat) : Nat := if level = 1 then 29 else if level = 2 then 21 else 16

/-- The index of an entry in a table of a level (R90). -/
def levelIndex (level va : Nat) : Nat :=
  if level = 1 then va / 2 ^ 29 else if level = 2 then va / 2 ^ 21 % 256 else va / 2 ^ 16 % 32

/-- What one entry of the table says (R91). -/
inductive PteOut where
  | table (pa : Nat)
  | leaf (l : Leaf)
  | err (code : BitVec 8)
  deriving DecidableEq, Repr

/-- Reading an entry at a level (R90, R91); a pointer to a level-2 table that is not aligned to 2 KiB is used as it stands (log entry 91). -/
def pteOut (part level va : Nat) (e : Word) : PteOut :=
  let addr := (e.extractLsb' 0 48).toNat
  let size := 2 ^ levelShift level
  let res := e.extractLsb' 56 6 != 0 || e.extractLsb' 48 4 != 0
  let leaf (buffer : Bool) : PteOut :=
    .leaf { ctx := part, va := va / size * size, size, buffer, x := e.getLsbD 55, a := e.getLsbD 54, w := e.getLsbD 53,
            r := e.getLsbD 52, addr }
  match (e.extractLsb' 62 2).toNat with
  | 0 => .err eNotPresent
  | 1 => if level = 3 || res || e.extractLsb' 52 4 != 0 || addr % 256 != 0 || decide (0x30 ≤ paUnit addr) then .err eFormat
         else .table addr
  | 2 => if res || e.getLsbD 53 || addr % size != 0 || decide (0x30 ≤ paUnit addr) then .err eFormat else leaf false
  | _ => if res || e.getLsbD 54 || addr % 8 != 0 || decide (24 ≤ addr / 8 % 32) then .err eFormat else leaf true

/-- The right and kind that an access needs; a version slot takes plain leaves with R (R92, R375). -/
def Leaf.permits (l : Leaf) (acc : Acc) (weight : Bool) : BitVec 8 :=
  let needBuffer := !weight && (acc == .write || acc == .publ)
  let needPlain := weight || acc == .atomic
  if needBuffer && !l.buffer || needPlain && l.buffer then eKind
  else
    let ok := match acc with
      | .read => l.r
      | .fetch => l.x
      | .write | .publ => if weight then l.r else l.w
      | .atomic => l.a
    if ok then 0 else eRights

namespace State

/-- The gateway that issues requests of a tile (R27). -/
def gwOf (s : State) (t : Nat) : Nat := fieldOf (s.siteOf t)

/-- A context in use, and an address below its limit (R89). -/
def ctxOk (s : State) (field part va : Nat) : Bool :=
  (Tbl.get 0 (s.gw field).tcbase part).getLsbD 63 && decide (va / 2 ^ 29 < (Tbl.get 0 (s.gw field).tclim part).toNat % 2 ^ 23)

/-- Where a walk starts: the level-1 entry's PA, or RANGE (R89). -/
def walkRoot (s : State) (field part va : Nat) : Except (BitVec 8) Nat :=
  if !s.ctxOk field part va then .error eRange
  else
    let pa := ((Tbl.get 0 (s.gw field).tcbase part).extractLsb' 12 36).toNat * 4096 + 8 * (va / 2 ^ 29)
    if s.paOk pa && decide (paUnit pa < 0x30) then .ok pa else .error ePa

/-- The entry at a physical address. -/
def readPte (s : State) (pa : Nat) : Word := BitVec.ofNat 64 (leNat (s.readPa pa 8))

/-- A whole walk from a level (R90). -/
def walkGo (s : State) (fuel part va level pa : Nat) : Except (BitVec 8) Leaf :=
  match fuel with
  | 0 => .error eFormat
  | fuel + 1 =>
    if !s.paOk pa then .error ePa
    else match pteOut part level va (s.readPte pa) with
      | .err c => .error c
      | .leaf l => .ok l
      | .table t => s.walkGo fuel part va (level + 1) (t + 8 * levelIndex (level + 1) va)

/-- The cached leaf of an address of this wafer, in a context in use and below its limit (R89, R93). -/
def cachedLeaf (s : State) (field part va : Nat) : Option Leaf :=
  if s.ctxOk field part va then
    (s.gw field).leaves.find? (fun l => l.ctx == part && l.tag.isNone && decide (l.va ≤ va) && decide (va < l.va + l.size))
  else none

/-- A leaf enters a gateway's cache of 1,024, the least recently used leaving (R93). -/
def installLeaf (s : State) (field : Nat) (l : Leaf) : State :=
  let g := s.gw field
  let same (o : Leaf) : Bool := o.ctx == l.ctx && o.tag.map Prod.fst == l.tag.map Prod.fst
  let rest := g.leaves.filter (fun o => !(same o && decide (o.va < l.va + l.size) && decide (l.va < o.va + o.size)))
  s.setGw field { g with leaves := { l with used := g.tick + 1 } :: (if 1024 ≤ rest.length then rest.dropLast else rest), tick := g.tick + 1 }

/-- A leaf that a walk has read enters the cache, whether or not it gives what the access needs (R93). -/
def tryLeaf (s : State) (field : Nat) (l : Leaf) (acc : Acc) (weight : Bool) : Except (BitVec 8) Leaf × State :=
  (if l.permits acc weight = 0 then .ok l else .error (l.permits acc weight), s.installLeaf field l)

/-- A translation in one step: the cache, else a walk that fills it (R93). -/
def translate (s : State) (field part va : Nat) (acc : Acc) (weight : Bool) : Except (BitVec 8) Leaf × State :=
  let walk (_ : Unit) : Except (BitVec 8) Leaf × State :=
    match (s.walkRoot field part va).bind (s.walkGo 3 part va 1) with
    | .ok l => s.tryLeaf field l acc weight
    | .error e => (.error e, s)
  match s.cachedLeaf field part va with
  | some l => if l.permits acc weight = 0 then s.tryLeaf field l acc weight else walk ()
  | none => walk ()

/-- The incarnation that a peer gave when a link to it trained (R109). -/
def peerInc (s : State) (wafer : Nat) : BitVec 16 :=
  match s.sys.fv.find? (fun e => e.2.getLsbD 63 && e.2.extractLsb' 48 8 == BitVec.ofNat 8 wafer) with
  | some e => e.2.extractLsb' 32 16
  | none => 0

/-- A walk of a peer's table: the entries are what the peer holds (R108; log entry 6). -/
def walkPeer (s : State) (fuel part va level : Nat) : Except (BitVec 8) Leaf × State :=
  match fuel with
  | 0 => (.error eFormat, s)
  | fuel + 1 =>
    let t : State := { s with free := s.free + 1 }
    match pteOut part level va (Config.peerPte s.free) with
    | .err c => (.error c, t)
    | .leaf l => (.ok l, t)
    | .table _ => t.walkPeer fuel part va (level + 1)

/-- The cached leaf of an address of a peer, of the peer's present incarnation (R108, R109). -/
def peerLeaf (s : State) (field part wafer va : Nat) : Option Leaf :=
  (s.gw field).leaves.find? (fun l => l.ctx == part && l.tag == some (wafer, s.peerInc wafer) && decide (l.va ≤ va)
    && decide (va < l.va + l.size))

/-- A translation through the context's remote root for a wafer (R108): PEER_LOST while no link leads there, RANGE in a disabled context,
STALE_PEER where the root was built for another incarnation (R89, R95, R109). -/
def translatePeer (s : State) (field part wafer va : Nat) (acc : Acc) : Except (BitVec 8) Leaf × State :=
  if !(s.peerPorts wafer).any s.portUp then (.error ePeerLost, s)
  else if !(Tbl.get 0 (s.gw field).tcbase part).getLsbD 63 then (.error eRange, s)
  else
    let walk (_ : Unit) : Except (BitVec 8) Leaf × State :=
      if Config.staleRoot (Tbl.get 0 (s.gw field).roots (256 * part + wafer)) (s.peerInc wafer) then (.error eStalePeer, s)
      else match s.walkPeer 3 part va 1 with
        | (.ok l, t) => t.tryLeaf field { l with tag := some (wafer, s.peerInc wafer) } acc false
        | (.error e, t) => (.error e, t)
    match s.peerLeaf field part wafer va with
    | some l => if l.permits acc false = 0 then s.tryLeaf field l acc false else walk ()
    | none => walk ()

/-- A far address of a request as the table translates it: bits [51:0] of space 2, of space 6 on this wafer, or of a
version slot (R86, R108, R375).  `none` for a remote wafer. -/
def farVa (s : State) (a : Word) (slot : Option Nat) (n : Nat) : Except (BitVec 8) (Option Nat) :=
  match spaceOf a with
  | 2 => if a.extractLsb' 52 8 == 0 then .ok (some (a.toNat % 2 ^ 52)) else .error eRange
  | 6 => if a.extractLsb' 52 8 == s.sys.wnum then .ok (some (a.toNat % 2 ^ 52)) else .ok none
  | 3 =>
    let v := s.vset (a.extractLsb' 40 12).toNat
    let off := a.toNat % 2 ^ 40
    if !v.en || decide (v.sizem1.toNat < off + n - 1) then .error eRange
    else .ok (some (((Tbl.get {} v.slots (slot.getD 0)).base.toNat + off) % 2 ^ 52))
  | _ => .error eRange

/-- The wafer that a space-6 address names. -/
def waferOf (a : Word) : Nat := (a.extractLsb' 52 8).toNat

/-- The home of an offset into a leaf's page (R88, R98). -/
def leafHome (l : Leaf) (off : Nat) : Nat := if l.buffer then l.addr / 8 % 32 else homeOfPa (l.addr + off)

/-- The number under which a core counts its operations to a home: one of this wafer, or of a remote one (R105). -/
def homeKey (wafer : Option Nat) (h : Nat) : Nat := match wafer with | some w => 24 + 32 * w + h | none => h

/-- The home that an address of far memory lies at, as the tables say now; `none` where the walk meets an error or the wafer is a peer's
whose leaf the gateway does not hold. -/
def homeNow (s : State) (field part : Nat) (a : Word) : Option Nat :=
  match s.farVa a none 1 with
  | .error _ => none
  | .ok none => (s.peerLeaf field part (waferOf a) (a.toNat % 2 ^ 52)).map (fun l => homeKey (some (waferOf a)) (leafHome l (a.toNat % 2 ^ 52 - l.va)))
  | .ok (some va) => (match s.cachedLeaf field part va with
    | some l => some l
    | none => ((s.walkRoot field part va).bind (s.walkGo 3 part va 1)).toOption).map (fun l => leafHome l (va - l.va))

end State

end Sys2Proof.Machine
end

