-- ==== Sys2Proof/Machine/MemOps.lean ====
section
/-! DEFINITION. Accesses to vaults: slack (R340, R341), bank cycles (R155-R158), the phase buffer (R164, R297, R298),
immediate-class writes and their landing (R160, R166, R301), engine references and busy banks (R128, R170), the trap
window and control space as addresses (R394, R440). -/

namespace Sys2Proof.Machine

/-- The least VCC copy of a crew's tiles (R341). -/
def State.minVcc (s : State) (crew : Nat) : Nat :=
  match s.crewTiles crew with
  | [] => 0
  | t :: rest => rest.foldl (fun m u => min m (s.tile u).vcc) (s.tile t).vcc

/-- The horizon: the least copy plus 64 (R341). -/
def State.horizon (s : State) (crew : Nat) : Nat := s.minVcc crew + 64

/-- Whether a point the crew must stop at has been reached. -/
def atStop (v : Nat) (p : Option Nat) : Bool :=
  match p with
  | some a => decide (a ≤ v)
  | none => false

/-- A regular cut vc (R415). -/
def regularAt (w : Crew) (v : Nat) : Bool := decide (w.tstart < v) && (v - w.tstart) % 2 ^ w.blk.belay == 0

/-- A vc that a replay has still to pass (R430). -/
def atReplay (w : Crew) (v : Nat) : Bool :=
  match w.replayTo with
  | some h => decide (v < h)
  | none => false

/-- A cut that is due at or before a vc and has not been captured (R415, R416); a replay takes the logged cuts and no other. -/
def dueCut (w : Crew) (v : Nat) : Bool :=
  w.cuts.any (fun a => decide (a ≤ v))
    || !atReplay w v && regularAt w v && w.lastC != some v && (match w.cut with | some c => c.vc != v | none => true)

/-- A vc at which the crew halts: of a stop (R399) or of a deep belay (R434). -/
def mustHalt (w : Crew) (v : Nat) : Bool := atStop v w.haltAt || atStop v w.deepCut

/-- A core arrives at its phase by PHASE.t at a vc, or has a PHASE.t queued for it (R295). -/
def State.arrivesAt (s : State) (core v : Nat) : Bool :=
  match Tbl.find (s.tile (tileOfCore core)).arr (core % 4) with
  | some a => a == (v, true)
  | none => (s.core core).tq.any (fun q => match q.kind with | .phase => q.start == some v | _ => false)

/-- A vc may yet prove to be the close vc: some core of the crew arrives at it by PHASE.t, and each other does too or has still to reach it
(R295).  The tiles stand at it till it is known (R296). -/
def State.mayClose (s : State) (crew v : Nat) : Bool :=
  let cores := (s.crewTiles crew).flatMap (fun t => (List.range 4).map (coreKey t))
  (s.crew crew).closing.isNone && cores.any (fun c => s.arrivesAt c v) && cores.all (fun c =>
    s.arrivesAt c v || (Tbl.find (s.tile (tileOfCore c)).arr (c % 4)).isNone && decide ((s.tile (tileOfCore c)).vcc < v))

/-- Whether a tile's copy of the VCC stands still: no crew that counts (R340, R415), a capture (R416), a missing operand
(R342), a halt (R399, R434), the end of a replay (R431), a close (R296), a cut or an adoption due (R379, R416), or the horizon
(R341). -/
def State.slacks (s : State) (t : Nat) : Bool :=
  let i := s.tile t
  match i.crew with
  | none => true
  | some c =>
    let w := s.crew c
    let v := i.vcc
    !(w.st == .running || w.st == .loading || w.st == .launchCut && decide (v < w.tstart)) || decide (0 < i.capture)
      || i.stall.isSome || i.halted || mustHalt w v || atStop v w.replayTo || atStop v w.closing || dueCut w v
      || atStop v i.adoptAt || s.mayClose c v || decide (s.horizon c ≤ v)

/-- Whether a router cycle of a bank is reserved now by a timed command (R157); none falls due while the tile slacks. -/
def State.reservedNow (s : State) (t bank half : Nat) : Bool :=
  !s.slacks t && (s.tile t).rsvd.any (fun r => r.bank == bank && r.cycle == 2 * (s.tile t).vcc + half)

/-- The fill F of the rope pool of a site (R423): what its partner's tile, when a crew runs there, has dirtied or staged, its
own log share and its partner's. -/
def State.ropeFill (s : State) (t : Nat) : Nat :=
  let site := s.site (s.siteOf t)
  let u := s.partnerOf t
  let other := s.site (s.siteOf u)
  let lines := if (s.tile u).crew.isSome then other.dirty.length + other.cutset.length else 0
  64 * (lines + site.rope.length) + site.logB + site.repB

/-- The lines of banks 0-55 that n bytes at a place lie in (R416). -/
def State.linesAt (l : Loc) (n : Nat) : List Nat :=
  if l.bank < 56 then (List.range ((l.off % 64 + n + 63) / 64)).map (fun i => lineNo l.bank l.off + i) else []

/-- Whether a write to n bytes at a place must wait: a line of the cut set has not been sent (R417), or new dirty lines would
take the partner's pool above 2 MiB (R423). -/
def State.linesHeld (s : State) (l : Loc) (n : Nat) : Bool :=
  let t := s.site (s.siteOf l.tile)
  let lines := linesAt l n
  let new := lines.filter (fun i => !t.dirty.contains i)
  (s.tile l.tile).crew.isSome && (lines.any (fun i => t.cutset.contains i)
    || !new.isEmpty && decide (2 ^ 21 < s.ropeFill (s.partnerOf l.tile) + 64 * new.length))

/-- Lines of phase buffers that a close still has to apply to a bank: class 2 of R155. -/
def State.closeLinesAt (s : State) (t bank : Nat) : Nat :=
  match (s.tile t).crew with
  | none => 0
  | some w =>
    if (s.crew w).closeOn then
      ((s.crewTiles w).flatMap (fun u => (List.range 4).flatMap (fun c => (s.core (coreKey u c)).pbuf))).countP
        (fun p => p.tile == t && p.bank == bank && !s.linesHeld ⟨t, bank, p.line * 64⟩ 64)
    else 0

/-- A packet that stands at its place and asks for a cycle of a bank: class 3 of R155.  One that a cut or a full pool holds back asks for
none, nor does a static-route flit before its due cycle; a message asks for the bank of its inbox. -/
def State.asksFor (s : State) (t bank : Nat) (p : Pkt) : Bool :=
  let at_ (l : Loc) (n : Nat) : Bool := l.tile == t && l.bank == bank && !s.linesHeld l n
  p.pos == p.dst && p.inj && p.back.isNone && (match p.body with
    | .read l .. => l.tile == t && l.bank == bank
    | .write l .. | .bari l .. | .amo l .. | .sch l .. | .knot l .. => at_ l 32
    | .mcast ((l, _) :: _) .. => at_ l 1
    | .route bytes _ _ _ due => decide (due ≤ 2 * (s.tile t).vcc + 1) && bytes.any (fun b => at_ b.1 1)
    | .msg h .. =>
      let x := Tbl.get 0 (s.tile t).inbox h.ibx.toNat
      h.dtile == t && x.getLsbD 63 && (x.extractLsb' 17 6).toNat == bank
    | _ => false)

/-- Requests of classes 2 and 3 that wait at a bank now (R155). -/
def State.waitingAt (s : State) (t bank : Nat) : Nat :=
  let site := s.siteOf t
  s.closeLinesAt t bank + s.net.countP (fun p => p.dst == site && s.cameIn p && s.asksFor t bank p)

/-- The first router cycle of this rc is free at a bank: it is neither reserved nor given, and no core of the tile has had its turn, which is
in the second.  First cycles are kept from 128. -/
def State.firstFree (s : State) (t bank : Nat) : Bool :=
  !s.reservedNow t bank 0 && !(s.tile t).bankUse.contains (bank + 128)
    && (List.range 4).all (fun c => (s.core (coreKey t c)).turnAt != some (s.rcOf t))

def State.secondFree (s : State) (t bank : Nat) : Bool :=
  !s.reservedNow t bank 1 && !(s.tile t).bankUse.contains bank

/-- Threads may have the second router cycle: no request that goes before them waits (R155). -/
def State.threadsMay (s : State) (t bank : Nat) : Bool := s.waitingAt t bank == 0

/-- Every core of a tile has had its turn in this rc. -/
def State.turnsOver (s : State) (t : Nat) : Bool :=
  (List.range 4).all (fun c => (s.core (coreKey t c)).turnAt == some (s.rcOf t))

/-- An untimed line move or line fetch of the tile's engines wants a bank: class 5 of R155. -/
def State.enginesWant (s : State) (t bank : Nat) : Bool :=
  let here (x : Src) : Bool := match x with | .vault l => l.tile == t && l.bank == bank | _ => false
  (List.range 4).any (fun c => (s.core (coreKey t c)).runs.any (fun r =>
      r.bufs.any (fun b => b.data.all Option.isSome && b.dst.any here) || (match r.moves with | m :: _ => m.src.any here | [] => false))
    || (s.core (coreKey t c)).mrun.any (fun o => o.start.isNone && (match o.stages with
      | (l :: _, _) :: _ => l.tile == t && l.bank == bank
      | _ => false)))

/-- A router cycle of this rc for a request of a class of R155 other than a thread's: the first, unless it comes too soon, or the second, if it
is neither reserved nor given and the classes before it need it not. -/
def State.cycleOf (s : State) (cls t bank : Nat) (second : Bool) : Option Nat :=
  let before : Bool :=
    if cls ≤ 2 then false else if cls = 3 then decide (0 < s.closeLinesAt t bank)
    else decide (0 < s.waitingAt t bank) || cls == 6 && s.enginesWant t bank
  if before then none
  else if !second && s.firstFree t bank then some (bank + 128)
  else if s.secondFree t bank && (decide (cls ≤ 3) || s.turnsOver t) then some bank
  else none

/-- A bank's cycle for a request of a class other than a thread's; `none` while it must ask again. -/
def State.useBankAs (s : State) (cls t bank : Nat) : Option State :=
  (s.cycleOf cls t bank false).map (fun c => s.modTile t (fun i => { i with bankUse := c :: i.bankUse }))

/-- A cycle for a lateral or loop-back arrival. -/
def State.useBank (s : State) (t bank : Nat) : Option State := s.useBankAs 3 t bank

/-- Cycles for the lines of an engine of a tile: at its own banks behind the threads, at others as arrivals by the mesh (R155). -/
def State.useLines (s : State) (own : Nat) (banks : List (Nat × Nat)) : Option State :=
  banks.foldlM (fun s b => s.useBankAs (if b.1 == own then 5 else 3) b.1 b.2) s

/-- Granting a bank's cycle of this rc to a request. -/
def State.grantBank (s : State) (t bank : Nat) : State :=
  s.modTile t (fun i => { i with bankUse := bank :: i.bankUse })

/-- A thread access to a bank of its tile asks for the second router cycle of the rc, behind classes 1 to 3; refused, it does not issue
(R155, R156). -/
def State.takeBank (s : State) (bank : Nat) : Except Stop State :=
  if s.reservedNow s.cur.tile bank 1 || s.myTile.bankUse.contains bank || !s.threadsMay s.cur.tile bank then .error .refuse
  else .ok (s.grantBank s.cur.tile bank)

/-- A thread's write of n bytes to a bank of its tile: held back by a cut or a full pool it does not issue either (R417,
R423). -/
def State.takeWrite (s : State) (l : Loc) (n : Nat) : Except Stop State :=
  if s.linesHeld l n then
    .error (match (linesAt l n).find? (fun i => (s.site (s.siteOf l.tile)).cutset.contains i) with
      | some i => .held i
      | none => .refuse)
  else s.takeBank l.bank

/-- The line of the phase buffer that holds a place (R164). -/
def findPLine (b : List PLine) (tile bank line : Nat) : Option PLine :=
  b.find? (fun p => p.tile == tile && p.bank == bank && p.line == line)

def byteOf (v : BitVec 512) (i : Nat) : Byte := v.extractLsb' (8 * i) 8

/-- A byte overlaid by the phase buffer of a core (R164). -/
def State.overlayByte (s : State) (core : Nat) (l : Loc) (i : Nat) (b : Byte) : Byte :=
  let o := l.off + i
  match findPLine (s.core core).pbuf l.tile l.bank (o / 64) with
  | some p => if p.en.getLsbD (o % 64) then byteOf p.data (o % 64) else b
  | none => b

/-- read() of R164: the bank's bytes, overlaid for a context of a crew (R481). -/
def State.overlay (s : State) (l : Loc) (bs : List Byte) : List Byte :=
  if s.view.crew.isSome then bs.mapIdx (fun i b => s.overlayByte s.myCore l i b) else bs

def vecOfBytes (bs : List Byte) : BitVec 512 := BitVec.ofNat 512 (leNat bs)

def bytesOfVec (n : Nat) (v : BitVec 512) : List Byte := (List.range n).map (byteOf v)

/-- The enabled bytes of one value merged over another. -/
def mergeBytes (en : BitVec 64) (new old : BitVec 512) : BitVec 512 :=
  vecOfBytes ((List.range 64).map (fun i => if en.getLsbD i then byteOf new i else byteOf old i))

/-- Enables of n bytes. -/
def enBytes (n : Nat) : BitVec 64 := BitVec.ofNat 64 (2 ^ n - 1)

/-- A line of the phase buffer with more bytes merged in (R164). -/
def mergePLine (b : List PLine) (p : PLine) : List PLine :=
  if (findPLine b p.tile p.bank p.line).isSome then
    b.map (fun q => if q.tile == p.tile && q.bank == p.bank && q.line == p.line then
      { q with en := q.en ||| p.en, data := mergeBytes p.en p.data q.data } else q)
  else b ++ [p]

/-- A crew's loads and ordinary stores are held back during its phase close (R296). -/
def State.closeHolds (s : State) : Bool :=
  match s.view.crew with
  | some c => atStop s.myTile.vcc (s.crew c).closing || s.mayClose c s.myTile.vcc
  | none => false

/-- A write that lands on watched words sets their owners' ready bits, each once (R160). -/
def State.watchHit (s : State) (tile : Nat) (hit : Watch → Bool) : State :=
  (((s.tile tile).watches.filter hit).map Watch.ctx).eraseDups.foldl (fun s k => s.wakeBit k) s

/-- The watches that a write of enabled bytes at a place hits. -/
def State.watchWake (s : State) (l : Loc) (n : Nat) (en : BitVec 64) : State :=
  s.watchHit l.tile (fun w =>
    w.bank == l.bank && (List.range n).any (fun i => en.getLsbD i && (l.off + i) / 8 == w.off / 8))

/-- Writing the enabled bytes of a value at a place. -/
def State.writeEn (s : State) (l : Loc) (n : Nat) (en : BitVec 64) (v : BitVec 512) : State :=
  (List.range n).foldl (fun s i => if en.getLsbD i then s.writeLoc { l with off := l.off + i } [byteOf v i] else s) s

/-- An immediate-class write lands: the bytes, the watches, and a log record where a context of no crew writes a crew's
word (R160, R301, R481). -/
def State.landImm (s : State) (ctx : Nat) (l : Loc) (n : Nat) (en : BitVec 64) (v : BitVec 512) : State :=
  let s := (s.writeEn l n en v).watchWake l n en
  if (s.ctx ctx).crew.isNone && (s.tile l.tile).crew.isSome then
    s.logEv l.tile (.window (1#4 ++ 0#12 ++ BitVec.ofNat 16 l.tile ++ 0#9 ++ BitVec.ofNat 6 l.bank ++ BitVec.ofNat 17 l.off) en v 0) 80
  else s

/-- Streams that keep order (R151): global accesses of a context, lateral accesses of a context. -/
def vaultStream (ctx : Nat) (a : Word) : Nat := State.streamOf (if spaceOf a == 1 then 0 else 2) ctx

/-- An immediate-class write of the issuing thread: at once at a bank of its tile through alias, else as mesh traffic
counted until it is acknowledged (R166). -/
def State.immWrite (s : State) (a : Word) (l : Loc) (n : Nat) (en : BitVec 64) (v : BitVec 512) : Except Stop State :=
  if s.isDirect a then do
    let s ← s.takeWrite l n
    .ok (s.landImm s.myCtx l n en v)
  else
    let (id, s1) := s.addOut s.myCtx (.vault l.tile l.bank true) 1
    .ok (s1.send s.cur.tile l.tile 0 s.myCtx (vaultStream s.myCtx a) (.write l en v id))

/-- buffer() of R164: the enabled bytes go into the issuing core's phase buffer; a context of no crew writes at once
(R481). -/
def State.bufferStore (s : State) (a : Word) (l : Loc) (n : Nat) (en : BitVec 64) (v : BitVec 512) : Except Stop State :=
  if s.closeHolds then .error .refuse
  else if s.view.crew.isNone then s.immWrite a l n en v
  else if en == 0 then .ok s
  else
    let p : PLine := ⟨l.tile, l.bank, l.off / 64, en <<< (l.off % 64), v <<< (8 * (l.off % 64))⟩
    let b := s.here.pbuf
    if (findPLine b p.tile p.bank p.line).isNone && decide (512 ≤ b.length) then .error (.trap cPhase a)
    else .ok (s.modCore s.myCore (fun c => { c with pbuf := mergePLine c.pbuf p }))

/-- A reply that a waiting group collects when it issues again. -/
def State.takeReply (s : State) : Option (BitVec 512 × State) := s.answered?.map (fun v => (v, s.tookReply))

/-- The phase that a load of the issuing thread reads in. -/
def State.phaseNow (s : State) : Option (BitVec 32) := s.view.crew.map (fun c => (s.crew c).dyn.phase)

/-- The answer to a load is that of this phase: the bank's bytes as the last close left them (R297). -/
def State.answerFresh (s : State) : Bool := s.going.all (fun g => g.phase == s.phaseNow)

/-- A read of n bytes leaves for a bank, and its thread waits for the reply (R154). -/
def State.sendRead (s : State) (a : Word) (l : Loc) (n : Nat) (phase : Option (BitVec 32)) : State :=
  let (id, s1) := s.addOut s.myCtx (.vault l.tile l.bank false) 1
  ((s1.send s.cur.tile l.tile 0 s.myCtx (vaultStream s.myCtx a) (.read l n id)).setGoing ⟨a, some l, phase⟩).modMe
    (fun c => { c with wait := .load })

/-- A load of n bytes: through the bank switch at once, else by mesh traffic, the group issuing again when the reply has
come (R151, R154); a phase that has closed since makes it read again (R296, R297). -/
def State.loadBytes (s : State) (a : Word) (l : Loc) (n : Nat) : Except Stop (List Byte × State) :=
  if s.closeHolds then .error .refuse
  else if s.isDirect a then do
    let s ← s.takeBank l.bank
    .ok (s.overlay l (s.readLoc l n), s)
  else match (if s.answerFresh then s.takeReply else none) with
    | some (v, s) => .ok (s.overlay l (bytesOfVec n v), s)
    | none => .error (.again (s.tookReply.sendRead a l n s.phaseNow))

/-- Engine references of a core on a bank (R128). -/
def Core.engineRefs (c : Core) (tile bank : Nat) : Bool :=
  (c.uq ++ c.tq).any (fun q => q.refs.contains (tile, bank))
    || c.runs.any (fun r => r.cmd.refs.contains (tile, bank))
    || (c.mq ++ c.mtq ++ c.mrun.toList).any (fun m => m.refs.contains (tile, bank))

/-- busy() of R170: accesses of a core to a bank that have not completed, or engine references it holds. -/
def State.bankBusy (s : State) (core tile bank : Nat) : Bool :=
  let c := s.core core
  c.outs.any (fun o => match o.kind with | .vault t b _ => t == tile && b == bank | _ => false)
    || c.engineRefs tile bank

/-- The fields of a trap-window address (R394). -/
def winCore (a : Word) : Nat := coreKey (globalTile a) (a.extractLsb' 22 2).toNat

def winKind (a : Word) : Nat := (a.extractLsb' 20 2).toNat

def winIndex (a : Word) : Nat := (a.extractLsb' 12 6).toNat

def winOff (a : Word) : Nat := (a.extractLsb' 0 12).toNat

/-- The rules of R394 that raise segment limit. -/
def State.windowOk (s : State) (level from_ : Nat) (a : Word) : Bool :=
  a.extractLsb' 48 12 == 0 && a.extractLsb' 24 8 == 0 && a.extractLsb' 18 2 == 0 && winKind a != 3
    && (winKind a != 0 || decide (winIndex a < 16)) && (winKind a != 2 || winIndex a == 0)
    && !isReservedTile (globalTile a) && s.tileBound (globalTile a)
    && (level != 1 || (s.partOfTile from_).isSome && s.partOfTile (globalTile a) == s.partOfTile from_)

/-- The physical window of R440. -/
def isPhysWindow (a : Word) : Bool := a.extractLsb' 48 16 == 0x5001

def physOf (a : Word) : Nat := (a.extractLsb' 0 48).toNat

/-- The checks of an access to spaces 4 and 5 after those of R184: window fields, alignment, 8-byte registers, the
physical window's level and address (R394, R440). -/
def State.windowChecks (s : State) (a : Word) (n : Nat) (vec : Bool) : Except Stop Unit := do
  check (spaceOf a != 4 || s.windowOk s.level s.cur.tile a) cLimit a
  check (a.toNat % n == 0) cAlign a
  if spaceOf a == 5 then
    if isPhysWindow a then do
      check (s.level == 2) cPrivilege a
      check (s.paOk (physOf a) && s.paOk (physOf a + n - 1)) cCopy a
    else check (n == 8 && !vec) cFormat a
  else .ok ()

/-- An access to space 4 or 5 waits for its reply as a loop-back load does (R394, R440). -/
def State.windowAccess (s : State) (a : Word) (n : Nat) (en : BitVec 64) (v : BitVec 512) (wr : Bool) :
    Except Stop (BitVec 512 × State) :=
  match s.takeReply with
  | some (r, s) => .ok (r, s)
  | none =>
    let dst := if spaceOf a == 4 then globalTile a else ctrlTile a
    .error (.again (((s.send s.cur.tile dst 0 s.myCtx (State.streamOf 5 s.myCtx)
      (.window a en v wr n (BitVec.ofNat 2 s.level))).setGoing ⟨a, none, none⟩).modMe (fun c => { c with wait := .load })))

end Sys2Proof.Machine
end

