-- ==== Sys2Proof/Machine/Vault.lean ====
section
/-! DEFINITION. The vault instructions (R161-R175) and the segment instructions (R202, R203). -/

namespace Sys2Proof.Machine

/-- Bytes of a TY width (R161). -/
def tyBytes (t : Ty) : Nat := t.bits / 8

/-- A loaded value extended by its type (R164). -/
def loadVal (t : Ty) (bs : List Byte) : Word := extend (natTy t) (leNat bs)

/-- The byte enables of a masked 64-byte store: byte i by bit i / 4 of the mask (R164). -/
def storeEn (mask : BitVec 16) : BitVec 64 :=
  BitVec.ofNat 64 ((List.range 64).foldl (fun n i => if mask.getLsbD (i / 4) then n + 2 ^ i else n) 0)

def execLd (g : Guard) (ty : Ty) (d : BitVec 6) (mem : MemOp) (s : State) : Ans :=
  runThread g s (fun s => do
    let (a, l) ← s.vaultEA mem (tyBytes ty) [kAlias] rR false
    let (bs, s) ← s.loadBytes a l (tyBytes ty)
    .ok (s.writeX d (loadVal ty bs) 8))

def execSt (g : Guard) (ty : Ty) (b : BitVec 6) (mem : MemOp) (s : State) : Ans :=
  runThread g s (fun s => do
    let (a, l) ← s.vaultEA mem (tyBytes ty) [kAlias] rW true
    s.bufferStore a l (tyBytes ty) (enBytes (tyBytes ty)) ((s.readX b).setWidth 512))

def execLdv (g : Guard) (d : BitVec 6) (mem : MemOp) (s : State) : Ans :=
  runThread g s (fun s => do
    let (a, l) ← s.vaultEA mem 64 [kAlias] rR false
    let (bs, s) ← s.loadBytes a l 64
    s.writeV d (vecOfBytes bs) 8)

def execStv (g : Guard) (b : BitVec 6) (mk : BitVec 3) (mem : MemOp) (s : State) : Ans :=
  runThread g s (fun s => do
    let (a, l) ← s.vaultEA mem 64 [kAlias] rW true
    let (v, s) ← s.readV b
    s.bufferStore a l 64 (storeEn (s.readM mk)) v)

/-- The address of an LDG or STS: vault words, and space 4 and 5 through TRAPWIN and CTRL segments (R163, R394, R440), for which `none`
stands; one that has issued keeps it (R150). -/
def globalEA (s : State) (mem : MemOp) (n : Nat) (vec write : Bool) : Except Stop (Word × Option Loc) :=
  match s.going with
  | some g => .ok (g.addr, g.loc)
  | none => do
    let a ← s.segEA mem n [kVault, kTrapwin, kCtrl] (some (if write then rW else rR))
    if spaceOf a == 1 then do
      check (s.vaultSpaceOk a) cLimit a
      check (a.toNat % n == 0) cAlign a
      let l ← s.resolve a write
      .ok (a, some l)
    else do
      s.windowChecks a n vec
      .ok (a, none)

/-- The loads of LDG (R163, R394, R440). -/
def ldgBytes (s : State) (mem : MemOp) (n : Nat) (vec : Bool) : Except Stop (List Byte × State) := do
  match ← globalEA s mem n vec false with
  | (a, some l) => s.loadBytes a l n
  | (a, none) =>
    if s.closeHolds then .error .refuse
    else do
      let (v, s) ← s.windowAccess a n 0 0 false
      .ok (bytesOfVec n v, s)

def execLdg (g : Guard) (ty : Ty) (d : BitVec 6) (mem : MemOp) (s : State) : Ans :=
  runThread g s (fun s => do
    let (bs, s) ← ldgBytes s mem (tyBytes ty) false
    .ok (s.writeX d (loadVal ty bs) 8))

def execLdgV (g : Guard) (d : BitVec 6) (mem : MemOp) (s : State) : Ans :=
  runThread g s (fun s => do
    let (bs, s) ← ldgBytes s mem 64 true
    s.writeV d (vecOfBytes bs) 8)

/-- The store of an STS once its address is known. -/
def stsStore (s : State) (a : Word) (l : Option Loc) (n : Nat) (en : BitVec 64) (v : BitVec 512) : Act :=
  match l with
  | some l => s.bufferStore a l n en v
  | none =>
    if s.closeHolds then .error .refuse
    else do
      let (_, s) ← s.windowAccess a n en v true
      .ok s

def execSts (g : Guard) (ty : Ty) (b : BitVec 6) (mem : MemOp) (s : State) : Ans :=
  runThread g s (fun s => do
    let n := tyBytes ty
    let (a, l) ← globalEA s mem n false true
    stsStore s a l n (enBytes n) ((s.readX b).setWidth 512))

def execStsV (g : Guard) (b : BitVec 6) (mk : BitVec 3) (mem : MemOp) (s : State) : Ans :=
  runThread g s (fun s => do
    let (a, l) ← globalEA s mem 64 true true
    let (v, s) ← s.readV b
    stsStore s a l 64 (storeEn (s.readM mk)) v)

def execStmask (g : Guard) (b : BitVec 3) (mem : MemOp) (s : State) : Ans :=
  runThread g s (fun s => do
    let (a, l) ← s.vaultEA mem 2 [kAlias, kVault] rW true
    s.bufferStore a l 2 (enBytes 2) ((s.readM b).setWidth 512))

/-- STMASK.p writes p0-p7, p0 reading 1 (R165). -/
def execStmaskP (g : Guard) (mem : MemOp) (s : State) : Ans :=
  runThread g s (fun s => do
    let (a, l) ← s.vaultEA mem 1 [kAlias, kVault] rW true
    s.bufferStore a l 1 (enBytes 1) ((s.view.p ||| 1).setWidth 512))

def execSig (g : Guard) (b : BitVec 6) (mem : MemOp) (s : State) : Ans :=
  runThread g s (fun s => do
    let (a, l) ← s.vaultEA mem 8 [kAlias, kVault] rW true
    s.immWrite a l 8 (enBytes 8) ((s.readX b).setWidth 512))

/-- WATCH's status and the watch table after it: armed, taken or full (R167). -/
def watchTable (t : List Watch) (ctx bank off : Nat) : Word × List Watch :=
  match t.find? (fun w => w.bank == bank && w.off == off) with
  | some w => if w.ctx == ctx then (0, t) else (2, t)
  | none =>
    if 512 ≤ t.length ∨ 8 ≤ (t.filter (fun w => w.ctx == ctx)).length then (1, t)
    else (0, t ++ [⟨bank, off, ctx⟩])

def execWatch (g : Guard) (d : BitVec 6) (mem : MemOp) (s : State) : Ans :=
  runThread g s (fun s => do
    let (a, l) ← s.vaultEA mem 8 [kAlias, kVault] rR false
    check (l.tile == s.cur.tile) cFormat a
    let (v, t) := watchTable s.myTile.watches s.myCtx l.bank l.off
    .ok ((s.modTile s.cur.tile (fun i => { i with watches := t })).writeX d v 8))

def execUnwatch (g : Guard) (mem : MemOp) (s : State) : Ans :=
  runThread g s (fun s => do
    let (_, l) ← s.vaultEA mem 8 [kAlias, kVault] rR false
    .ok (s.modTile s.cur.tile (fun i => { i with
      watches := i.watches.filter (fun w => !(l.tile == s.cur.tile && w.bank == l.bank && w.off == l.off && w.ctx == s.myCtx)) })))

/-- Releasing every watch of a context (R159). -/
def State.dropWatches (s : State) (k : Nat) : State :=
  s.modTile (tileOfCtx k) (fun i => { i with watches := i.watches.filter (fun w => w.ctx != k) })

def execUnwatchAll (g : Guard) (s : State) : Ans :=
  runThread g s (fun s => .ok (s.dropWatches s.myCtx))

/-- A bank-table row; unattached before any attachment (R152). -/
def bankRow (i : Tile) (b : Nat) : BitVec 16 := Tbl.get 0x3800 i.rows b

def rowHome (r : BitVec 16) : Nat := (r.extractLsb' 14 2).toNat

def rowDir (r : BitVec 16) : Nat := (r.extractLsb' 11 3).toNat

def rowCore (r : BitVec 16) : Nat := (r.extractLsb' 9 2).toNat

def rowEnt (r : BitVec 16) : Nat := (r.extractLsb' 0 5).toNat

def mkRow (home dir core ent : Nat) : BitVec 16 :=
  BitVec.ofNat 2 home ++ BitVec.ofNat 3 dir ++ BitVec.ofNat 2 core ++ 0#4 ++ BitVec.ofNat 5 ent

def State.setRow (s : State) (t b : Nat) (r : BitVec 16) : State :=
  s.modTile t (fun i => { i with rows := Tbl.set 0x3800 i.rows b r })

def State.setEnt (s : State) (core e : Nat) (m : BitVec 16) : State :=
  s.modCore core (fun c => { c with bmap := Tbl.set 0 c.bmap e m })

/-- The direction in which a tile sees another (R148). -/
def State.dirTo (s : State) (from_ to_ : Nat) : Option Nat :=
  (List.range 5).find? (fun d => s.neighbour from_ d == some to_)

/-- A row that names a holder: its tile's direction, core and entry; HOME is kept (R152). -/
def State.setHolder (s : State) (t b holder ent : Nat) : State :=
  if b < 48 then
    s.setRow t b (mkRow (rowHome (bankRow (s.tile t) b)) ((s.dirTo t (tileOfCore holder)).getD 7) (holder % 4) ent)
  else s

/-- A bank left unattached (R152). -/
def State.clearHolder (s : State) (t b : Nat) : State :=
  if b < 48 then s.setRow t b (mkRow (rowHome (bankRow (s.tile t) b)) 7 0 0) else s

/-- The holder a row names. -/
def State.rowHolder (s : State) (t b : Nat) : Option (Nat × Nat) :=
  let r := bankRow (s.tile t) b
  if rowDir r = 7 then none
  else (s.neighbour t (rowDir r)).map (fun u => (coreKey u (rowCore r), rowEnt r))

/-- Fields of a GIVE descriptor (R169). -/
def giveCore (x : Word) : Nat := (x.extractLsb' 4 2).toNat

def giveEnt (x : Word) : Nat := (x.extractLsb' 8 5).toNat

def giveDir (x : Word) : Nat := (x.extractLsb' 0 3).toNat

def giveOk (x : Word) : Bool :=
  x.extractLsb' 18 46 == 0 && x.extractLsb' 13 3 == 0 && x.extractLsb' 6 2 == 0 && x.getLsbD 3 == false && decide (giveDir x < 5)

/-- GIVE up to its wait (R170). -/
def give (nb : Bool) (d a : BitVec 6) (e : Nat) (s : State) : Act := do
  let m := s.mapEnt s.myCore e
  check (entV m) cDetached 0
  check (decide (entBank m < 48)) cFormat 0
  let x := s.readX a
  check (giveOk x) cFormat 0
  match s.neighbour s.cur.tile (giveDir x), s.neighbour s.cur.tile (entDir m) with
  | some recv, some t =>
    if (s.dirTo t recv).isNone then .ok (s.writeX d 3 8)
    else if nb && s.bankBusy s.myCore t (entBank m) then .ok (s.writeX d 1 8)
    else .ok ((s.setEnt s.myCore e (m &&& 0x7FFF)).await (.give d e m x false))
  | _, _ => .ok (s.writeX d 3 8)

def execGive (g : Guard) (d a : BitVec 6) (e : BitVec 5) (s : State) : Ans :=
  runThread g s (give false d a e.toNat)

def execGiveNb (g : Guard) (d a : BitVec 6) (e : BitVec 5) (s : State) : Ans :=
  runThread g s (give true d a e.toNat)

/-- Attaching bank b of a tile to entry e of a core of the tile (R171). -/
def State.attachHome (s : State) (core e b : Nat) : State :=
  (s.setEnt core e (mkEnt 0 true true b)).setHolder (tileOfCore core) b core e

/-- RECLAIM up to its wait (R171). -/
def reclaim (nb : Bool) (d : BitVec 6) (e b : Nat) (s : State) : Act := do
  let t := s.cur.tile
  let row := bankRow s.myTile b
  check (decide (b < 48) && rowHome row == s.cur.core) cFormat 0
  let m := s.mapEnt s.myCore e
  if entV m then .ok (s.writeX d (if entDir m == 0 && entBank m == b then 0 else 2) 8)
  else match s.rowHolder t b with
    | none => .ok ((s.attachHome s.myCore e b).writeX d 0 8)
    | some (holder, ent) =>
      if nb && s.bankBusy holder t b then .ok (s.writeX d 1 8)
      else .ok ((s.setEnt holder ent (s.mapEnt holder ent &&& 0x7FFF)).await (.reclaim d e b holder))

def execReclaim (g : Guard) (d : BitVec 6) (eb : EntryBank) (s : State) : Ans :=
  runThread g s (reclaim false d eb.entry.toNat eb.bank.toNat)

def execReclaimNb (g : Guard) (d : BitVec 6) (eb : EntryBank) (s : State) : Ans :=
  runThread g s (reclaim true d eb.entry.toNat eb.bank.toNat)

def execBmapRead (g : Guard) (d : BitVec 6) (e : BitVec 5) (s : State) : Ans :=
  runThread g s (fun s => .ok (s.writeX d ((s.mapEnt s.myCore e.toNat).setWidth 64) 8))

/-- An entry on which a GIVE or RECLAIM of the core is in progress (R172). -/
def State.entryHeld (s : State) (core e : Nat) : Bool :=
  (List.range 64).any (fun n => match (s.ctx (ctxKey core n)).wait with
    | .give _ e' .. => e' == e
    | .reclaim _ e' .. => e' == e
    | _ => false)

/-- The row of the bank an entry is attached to names a new entry (R172). -/
def State.moveRow (s : State) (core : Nat) (m : BitVec 16) (e : Nat) : State :=
  if entV m then match s.neighbour (tileOfCore core) (entDir m) with
    | some t => s.setHolder t (entBank m) core e
    | none => s
  else s

/-- BMAP.swap; at task level it may not write an entry that holds BANK 48-55 (R148, R172; the cause is log entry 86). -/
def execBmapSwap (g : Guard) (ee : EntryPair) (s : State) : Ans :=
  runThread g s (fun s =>
    let e := ee.e.toNat
    let e2 := ee.e2.toNat
    let c := s.myCore
    if s.entryHeld c e || s.entryHeld c e2 then .error .refuse
    else
      let m := s.mapEnt c e
      let m2 := s.mapEnt c e2
      let upper (m : BitVec 16) : Bool := entV m && decide (48 ≤ entBank m)
      if s.level == 0 && (upper m || upper m2) then .error (.trap cPrivilege 0)
      else .ok ((((s.setEnt c e m2).setEnt c e2 m).moveRow c m e2).moveRow c m2 e))

/-- The map entry that a bank of 48-55 is attached to, among those of its tile and of the neighbours (R153). -/
def State.upperHolder (s : State) (t b : Nat) : Option (Nat × Nat) :=
  ((List.range 5).filterMap (fun d => s.neighbour t d)).findSome? (fun u => (List.range 4).findSome? (fun c =>
    (List.range 32).findSome? (fun e =>
      let m := s.mapEnt (coreKey u c) e
      if entV m && entBank m == b && s.neighbour u (entDir m) == some t then some (coreKey u c, e) else none)))

/-- The checks of BMAP.set (R172): reserved bits, DIR, the bank's number and place, and R153. -/
def bmapSetOk (s : State) (x : Word) (e : Nat) : Bool :=
  let m := x.setWidth 16
  x.extractLsb' 16 48 == 0 && m.extractLsb' 10 2 == 0 && m.extractLsb' 6 2 == 0 && decide (entDir m < 5)
    && decide (entBank m < 56)
    && (!entV m || match s.neighbour s.cur.tile (entDir m) with
        | none => false
        | some t => if 48 ≤ entBank m then s.upperHolder t (entBank m) == none || s.upperHolder t (entBank m) == some (s.myCore, e)
            else (s.rowHolder t (entBank m)).isNone || s.rowHolder t (entBank m) == some (s.myCore, e))

def execBmapSet (g : Guard) (a : BitVec 6) (e : BitVec 5) (s : State) : Ans :=
  runPriv 1 g s (fun s => do
    let x := s.readX a
    let e := e.toNat
    let c := s.myCore
    if s.entryHeld c e then .error .refuse
    else do
      check (bmapSetOk s x e) cFormat 0
      let m := x.setWidth 16
      let old := s.mapEnt c e
      let s1 := if entV old then match s.neighbour s.cur.tile (entDir old) with
          | some t => s.clearHolder t (entBank old)
          | none => s
        else s
      let s2 := s1.setEnt c e m
      if entV m then
        let b := entBank m
        let first := entDir m == 0 && decide (b < 48) && !Tbl.get false s.myTile.firstSet b
        let s3 := if first then
            (s2.setRow s.cur.tile b (mkRow s.cur.core 7 0 0)).modTile s.cur.tile
              (fun i => { i with firstSet := Tbl.set false i.firstSet b true })
          else s2
        .ok (s3.moveRow c m e)
      else .ok s2)

def execBmapBank (g : Guard) (d b : BitVec 6) (s : State) : Ans :=
  runThread g s (fun s => do
    check (decide (b.toNat < 48)) cFormat 0
    .ok (s.writeX d ((bankRow s.myTile b.toNat).setWidth 64) 8))

/-- What DRAIN waits for: the thread's accesses and immediate-class writes (R173). -/
def State.drainIds (s : State) (k : Nat) : List Nat :=
  ((s.core (coreOfCtx k)).outs.filter (fun o => o.ctx == k && (match o.kind with | .msg .. => false | _ => true))).map Out.id

def execDrain (g : Guard) (s : State) : Ans :=
  runThread g s (fun s =>
    match s.drainIds s.myCtx with
    | [] => .ok s
    | ids => .ok (s.await (.drain ids)))

def execDrainBank (g : Guard) (e : BitVec 5) (s : State) : Ans :=
  runThread g s (fun s => do
    let m := s.mapEnt s.myCore e.toNat
    check (entV m) cDetached 0
    match s.neighbour s.cur.tile (entDir m) with
    | some t =>
      if s.bankBusy s.myCore t (entBank m) then .ok (s.await (.drainBank t (entBank m))) else .ok s
    | none => .ok s)

/-- A descriptor from the bytes of a set entry (R181, R182). -/
def segOfBytes (bs : List Byte) : Seg :=
  ⟨BitVec.ofNat 64 (leNat (bs.take 8)), BitVec.ofNat 64 (leNat ((bs.drop 8).take 8)), BitVec.ofNat 64 (leNat ((bs.drop 16).take 8))⟩

/-- Where entry n of set s lies: bank 55, 0x18000 + s * 0x800 (R182). -/
def setEntryLoc (t : Nat) (segs : BitVec 4) (n : Nat) : Loc := ⟨t, 55, 0x18000 + segs.toNat * 0x800 + n * 32⟩

def State.writeSg (s : State) (d : BitVec 3) (e : Seg) (src : BitVec 8) : State :=
  s.modMe (fun c => { c with sg := Tbl.set {} c.sg d.toNat e, sgsrc := Tbl.set 0 c.sgsrc d.toNat src })

def execSegld (g : Guard) (d : BitVec 3) (a : BitVec 6) (imm : BitVec 32) (s : State) : Ans :=
  runThread g s (fun s => do
    let n := (s.readX a).toInt + imm.toInt
    check (decide (0 ≤ n) && decide (n < 64)) cLimit (BitVec.ofInt 64 n)
    let s ← s.takeBank 55
    let bs := s.readLoc (setEntryLoc s.cur.tile s.view.segs n.toNat) 32
    let e := segOfBytes bs
    check (e.wf && leNat (bs.drop 24) == 0) cFormat 0
    .ok (s.writeSg d e (BitVec.ofInt 8 n)))

/-- Word w of a segment register (R203). -/
def segWord (e : Seg) (w : Nat) : Word := if w = 0 then e.base else if w = 1 then e.limit else e.attr

def execSegldRd (g : Guard) (d : BitVec 6) (a : BitVec 3) (w : BitVec 2) (s : State) : Ans :=
  setX g d 1 s (fun s => segWord (s.readSg a) w.toNat)

def execSegst (g : Guard) (d : BitVec 3) (a b c : BitVec 6) (s : State) : Ans :=
  runPriv 1 g s (fun s => do
    let e : Seg := ⟨s.readX a, s.readX b, s.readX c⟩
    check e.wf cFormat 0
    .ok (s.writeSg d e 0xFF))

end Sys2Proof.Machine
end

