-- ==== Sys2Proof/Machine/Control.lean ====
section
/-! DEFINITION. Lines, groups and the control instructions (R31-R38, R313-R325). -/

namespace Sys2Proof.Machine

/-- A fetch line. -/
abbrev FLine := BitVec 512

/-- The line word (R32). -/
def lineWord (l : FLine) : BitVec 32 := l.extractLsb' 480 32

def pairBit (l : FLine) (i : Nat) : Bool := (lineWord l).getLsbD (5 + i) && decide (i < 4)

def tgtBit (l : FLine) (i : Nat) : Bool := (lineWord l).getLsbD i && decide (i < 5)

/-- The parity of R33: the XOR of the thirty-one 16-bit pieces. -/
def lineParity (l : FLine) : BitVec 16 := (List.range 31).foldl (fun p i => p ^^^ l.extractLsb' (16 * i) 16) 0

def parityOk (l : FLine) : Bool := lineParity l == (lineWord l).extractLsb' 16 16

/-- check_line of R34. -/
def lineOk (l : FLine) : Bool :=
  (lineWord l).extractLsb' 9 7 == 0
    && (List.range 3).all (fun i => !(pairBit l i && pairBit l (i + 1)))
    && (List.range 4).all (fun i => !(pairBit l i && tgtBit l (i + 1)))
    && parityOk l

/-- The instruction of a slot (R31). -/
def slotWord (l : FLine) (i : Nat) : BitVec 96 := l.extractLsb' (96 * i) 96

/-- A slot-aligned address (R37). -/
def slotAligned (a : Word) : Bool := decide ((a.extractLsb' 0 6).toNat % 12 == 0) && decide ((a.extractLsb' 0 6).toNat < 60)

/-- The slot an address names. -/
def slotIndex (a : Word) : Nat := (a.extractLsb' 0 6).toNat / 12

/-- The line an address lies in. -/
def lineOf (a : Word) : Word := a &&& ~~~63

/-- next(pc, n) of R38. -/
def nextAddr (pc : Word) (n : Nat) : Word :=
  let i := slotIndex pc + n
  if 5 ≤ i then lineOf pc + 64 else lineOf pc + BitVec.ofNat 64 (12 * i)

/-- R183 on the line of an address: a space-2 far address whose bits [59:52] are zero (R86), within the code segment, and with the X
right. -/
def codeCheck (g : Seg) (a : Word) (eaddr : Word) : Except Stop Unit := do
  let l := lineOf a
  check (l.extractLsb' 52 12 == 0x200) cLimit eaddr
  check (g.kind != 0 && decide (g.base.toNat ≤ l.toNat) && decide (l.toNat + 63 ≤ g.base.toNat + g.limit.toNat)) cLimit eaddr
  check (g.has rX) cRights eaddr

namespace State

/-- A line that a core holds. -/
def held (s : State) (core : Nat) (a : Word) : Option FLine := Tbl.find (s.core core).ic (a.toNat / 64)

/-- A held line whose parity fails on a read is dropped and read again from memory; that is counted and recorded as a corrected error
(R35, R465). -/
def refetch (s : State) (k : Nat) (a : Word) : State :=
  let core := coreOfCtx k
  (((s.modCore core (fun c => { c with ic := Tbl.del c.ic (a.toNat / 64) })).countCore core 0 1).errorRecord 0 0 (s.siteOf (tileOfCore core))
    (BitVec.ofNat 8 (core % 4)) 0x0B (a.toNat / 64 % 1024) (lineOf a)).modCtx k (fun c => { c with wait := .fetch a })

/-- The size of the group at an address, by the PAIR bits of its line (R38). -/
def groupSize (s : State) (core : Nat) (a : Word) : Nat :=
  match s.held core a with
  | some l => if pairBit l (slotIndex a) then 2 else 1
  | none => 1

/-- The target check of a taken transfer (R319). -/
def targetCheck (s : State) (t : Word) : Except Stop Unit := do
  check (slotAligned t) cTarget t
  codeCheck s.view.code t t
  match s.held s.myCore t with
  | none => .error (.sleep (.fetch t))
  | some l =>
    if !parityOk l && !s.view.got.contains (t.toNat / 64) then .error (.again (s.refetch s.myCtx t)) else
    check (tgtBit l (slotIndex t)) cTarget t

/-- The address of the instruction's slot (R323). -/
def slotAddr (s : State) : Word := s.view.s.pc + (if s.cur.memb then 12 else 0)

/-- The outcome of a group's control instruction: its target if taken, and the nullify decision d (R316). -/
def transfer (s : State) (target : Option Word) (d : Bool) : State :=
  { s with cur := { s.cur with target, nullify := d } }

/-- The return point of a CALL: the group after its second delay group (R323). -/
def returnPoint (s : State) : Word := nextAddr s.view.s.nnpc (s.groupSize s.myCore s.view.s.nnpc)

end State

/-- A transfer: guarded off it is not taken; taken it checks its target, links and nullifies (R316, R319, R323). -/
def runTransfer (g : Guard) (nul : Nul) (link : Bool) (s : State) (target : State → Word) : Ans :=
  if s.me.used && !s.guard g then .next (s.transfer none (nul == .nn))
  else runThread g s (fun s => do
    let t := target s
    s.targetCheck t
    let s := if link then s.writeX 31 s.returnPoint 1 else s
    .ok (s.transfer (some t) (nul == .nt)))

def execNop (_g : Guard) (s : State) : Ans := runThread ⟨0, false⟩ s (fun s => .ok s)

def execBr (g : Guard) (nul : Nul) (imm : BitVec 32) (s : State) : Ans :=
  runTransfer g nul false s (fun s => s.slotAddr + imm.signExtend 64)

def execBra (g : Guard) (nul : Nul) (imm : BitVec 32) (s : State) : Ans :=
  runTransfer g nul false s (fun s => s.view.code.base + imm.setWidth 64)

def execBrx (g : Guard) (nul : Nul) (a : BitVec 6) (imm : BitVec 32) (s : State) : Ans :=
  runTransfer g nul false s (fun s => s.readX a + imm.signExtend 64)

def execCall (g : Guard) (nul : Nul) (imm : BitVec 32) (s : State) : Ans :=
  runTransfer g nul true s (fun s => s.slotAddr + imm.signExtend 64)

def execCallR (g : Guard) (nul : Nul) (a : BitVec 6) (imm : BitVec 32) (s : State) : Ans :=
  runTransfer g nul true s (fun s => s.readX a + imm.signExtend 64)

def execRet (g : Guard) (nul : Nul) (a : BitVec 6) (s : State) : Ans :=
  runTransfer g nul false s (fun s => s.readX a)

def execBrk (g : Guard) (x : BitVec 16) (s : State) : Ans :=
  runThread g s (fun _ => .error (.trap cBreak (x.setWidth 64)))

end Sys2Proof.Machine
end

