-- ==== Sys2Proof/Decode.lean ====
section
/-! DEFINITION. Instruction words: fields (R43, R44), the decoder, which tells an illegal instruction (R52) from a
reserved encoding (R47), and the encoder written from the same tables. -/

namespace Sys2Proof

/-- The fields of an instruction word (R43), MOD split into TY, RM or VAR, and SAT or TM (R44). -/
structure Raw where
  fmt : BitVec 3
  op : BitVec 8
  pg : BitVec 3
  pn : Bool
  d : BitVec 6
  a : BitVec 6
  b : BitVec 6
  c : BitVec 6
  ty : BitVec 5
  rm : BitVec 3
  sat : Bool
  x : BitVec 16
  imm : BitVec 32
  deriving DecidableEq, Repr

/-- The word with the given class, opcode and guard and every other field zero. -/
def Raw.of (fmt : BitVec 3) (op : BitVec 8) (g : Guard) : Raw :=
  { fmt, op, pg := g.pg, pn := g.pn, d := 0, a := 0, b := 0, c := 0, ty := 0, rm := 0, sat := false, x := 0, imm := 0 }

def Raw.guard (r : Raw) : Guard := { pg := r.pg, pn := r.pn }

/-- VAR9 of format class 6: MOD[8:0] (R44). -/
def Raw.var9 (r : Raw) : Nat := r.ty.toNat * 16 + r.rm.toNat * 2 + r.sat.toNat

/-- Bit 95 first (R43). -/
def Raw.pack (r : Raw) : BitVec 96 :=
  r.fmt ++ r.op ++ r.pg ++ BitVec.ofBool r.pn ++ r.d ++ r.a ++ r.b ++ r.c ++ r.ty ++ r.rm ++ BitVec.ofBool r.sat
    ++ r.x ++ r.imm

def Raw.unpack (w : BitVec 96) : Raw :=
  { fmt := w.extractLsb' 93 3, op := w.extractLsb' 85 8, pg := w.extractLsb' 82 3, pn := w.getLsbD 81,
    d := w.extractLsb' 75 6, a := w.extractLsb' 69 6, b := w.extractLsb' 63 6, c := w.extractLsb' 57 6,
    ty := w.extractLsb' 52 5, rm := w.extractLsb' 49 3, sat := w.getLsbD 48, x := w.extractLsb' 32 16,
    imm := w.extractLsb' 0 32 }

/-- TY codes (R45). -/
def Ty.code : Ty → BitVec 5
  | .none => 0x00 | .i8 => 0x01 | .i16 => 0x02 | .i32 => 0x03 | .i64 => 0x04
  | .n8 => 0x05 | .n16 => 0x06 | .n32 => 0x07 | .n64 => 0x08
  | .f64 => 0x09 | .f32 => 0x0A | .bf16 => 0x0B | .f16 => 0x0C
  | .e4m3 => 0x0D | .e5m2 => 0x0E | .e3m2 => 0x0F | .e2m3 => 0x10 | .e2m1 => 0x11
  | .f4s => 0x12 | .i4 => 0x13 | .n4 => 0x14 | .e8m0 => 0x15 | .b1 => 0x16

/-- The type of a TY code; a reserved code (0x17-0x1F) answers `none`, whose code differs, so that `decodeRaw` refuses it. -/
def Ty.ofCode (c : BitVec 5) : Ty :=
  match c.toNat with
  | 0x01 => .i8 | 0x02 => .i16 | 0x03 => .i32 | 0x04 => .i64
  | 0x05 => .n8 | 0x06 => .n16 | 0x07 => .n32 | 0x08 => .n64
  | 0x09 => .f64 | 0x0A => .f32 | 0x0B => .bf16 | 0x0C => .f16
  | 0x0D => .e4m3 | 0x0E => .e5m2 | 0x0F => .e3m2 | 0x10 => .e2m3 | 0x11 => .e2m1
  | 0x12 => .f4s | 0x13 => .i4 | 0x14 => .n4 | 0x15 => .e8m0 | 0x16 => .b1
  | _ => .none

/-- RM codes (R46). -/
def Rm.code : Rm → BitVec 3
  | .dyn => 0 | .rne => 1 | .rz => 2 | .rup => 3 | .rdn => 4 | .rna => 5 | .sr => 6

def Rm.ofCode (c : BitVec 3) : Rm :=
  match c.toNat with
  | 1 => .rne | 2 => .rz | 3 => .rup | 4 => .rdn | 5 => .rna | 6 => .sr | _ => .dyn

/-- NUL = MOD[1:0] (R44): the upper bit is the lowest of RM's field, the lower SAT's. -/
def Nul.hi : Nul → BitVec 3
  | .always => 0 | .nt => 0 | .nn => 1

def Nul.lo : Nul → Bool
  | .always => false | .nt => true | .nn => false

def Nul.ofBits (hi : BitVec 3) (lo : Bool) : Nul := if lo then .nt else if hi == 1 then .nn else .always

/-- Conditions in MOD[3:0] (R198). -/
def Cond.code : Cond → BitVec 4
  | .eq => 0 | .ne => 1 | .lt => 2 | .le => 3 | .gt => 4 | .ge => 5 | .un => 6 | .or => 7

def Cond.hi (c : Cond) : BitVec 3 := c.code.extractLsb' 1 3

def Cond.lo (c : Cond) : Bool := c.code.getLsbD 0

def Cond.ofBits (hi : BitVec 3) (lo : Bool) : Cond :=
  match hi.toNat * 2 + lo.toNat with
  | 1 => .ne | 2 => .lt | 3 => .le | 4 => .gt | 5 => .ge | 6 => .un | 7 => .or | _ => .eq

/-- Three one-bit variants in VAR[2], VAR[1], VAR[0]. -/
def bits3 (b2 b1 b0 : Bool) : BitVec 3 := BitVec.ofBool b2 ++ BitVec.ofBool b1 ++ BitVec.ofBool b0

/-- BFX: TY 0x04 sign-extends (R190). -/
def sxBits (sx : Bool) : BitVec 5 := if sx then 4 else 0

/-- X of a vector instruction: the parameter X[15:4], then Z and MK (R208). -/
def xOf (hi : BitVec 12) (lo : BitVec 4) : BitVec 16 := hi ++ lo

def xHi (r : Raw) : BitVec 12 := r.x.extractLsb' 4 12

def xLo (r : Raw) : BitVec 4 := r.x.extractLsb' 0 4

def VMask.bits (v : VMask) : BitVec 4 := BitVec.ofBool v.z ++ v.gm

def VMask.ofBits (b : BitVec 4) : VMask := { z := b.getLsbD 3, gm := b.extractLsb' 0 3 }

def gmBits (m : BitVec 3) : BitVec 4 := 0#1 ++ m

def gmOf (b : BitVec 4) : BitVec 3 := b.extractLsb' 0 3

/-- VBCAST: X[7:4] = 1 is `.ramp` (R219). -/
def rampBits (ramp : Bool) : BitVec 12 := if ramp then 1 else 0

def rampOf (b : BitVec 12) : Bool := b == 1

def Pat.code : Pat → BitVec 4
  | .ziplo => 0 | .ziphi => 1 | .even => 2 | .odd => 3 | .slide => 4 | .rev => 5

def Pat.ofCode (c : BitVec 4) : Pat :=
  match c.toNat with
  | 1 => .ziphi | 2 => .even | 3 => .odd | 4 => .slide | 5 => .rev | _ => .ziplo

def Shuffle.bits (s : Shuffle) : BitVec 12 := s.k ++ s.pat.code

def Shuffle.ofBits (b : BitVec 12) : Shuffle := { k := b.extractLsb' 4 8, pat := Pat.ofCode (b.extractLsb' 0 4) }

def RedOp.bits : RedOp → BitVec 12
  | .add => 0 | .min => 1 | .max => 2 | .and => 3 | .or => 4 | .xor => 5

def RedOp.ofBits (b : BitVec 12) : RedOp :=
  match b.toNat with
  | 1 => .min | 2 => .max | 3 => .and | 4 => .or | 5 => .xor | _ => .add

def StepKind.bits : StepKind → BitVec 12
  | .rcp => 0 | .rsq => 1 | .div => 2 | .sqrt => 3

def StepKind.ofBits (b : BitVec 12) : StepKind :=
  match b.toNat with
  | 1 => .rsq | 2 => .div | 3 => .sqrt | _ => .rcp

/-- X[8:4] source type, X[11:9] PART (R209). -/
def ConvSel.bits (c : ConvSel) : BitVec 12 := 0#4 ++ (c.part ++ c.src.code)

def ConvSel.ofBits (b : BitVec 12) : ConvSel :=
  { part := b.extractLsb' 5 3, src := Ty.ofCode (b.extractLsb' 0 5) }

/-- As `ConvSel`, with X[12] HALF (R209). -/
def UnpackSel.bits (c : UnpackSel) : BitVec 12 := 0#3 ++ (BitVec.ofBool c.half ++ (c.part ++ c.src.code))

def UnpackSel.ofBits (b : BitVec 12) : UnpackSel :=
  { half := b.getLsbD 8, part := b.extractLsb' 5 3, src := Ty.ofCode (b.extractLsb' 0 5) }

def srcBits (t : Ty) : BitVec 12 := 0#7 ++ t.code

def srcOf (b : BitVec 12) : Ty := Ty.ofCode (b.extractLsb' 0 5)

/-- X[5:0] LSB, X[11:6] LEN - 1 (R190). -/
def BitField.bits (f : BitField) : BitVec 16 := 0#4 ++ (f.len1 ++ f.lsb)

def BitField.ofBits (x : BitVec 16) : BitField := { len1 := x.extractLsb' 6 6, lsb := x.extractLsb' 0 6 }

/-- X[4:0] entry e, X[10:5] bank b (R168). -/
def EntryBank.bits (f : EntryBank) : BitVec 16 := 0#5 ++ (f.bank ++ f.entry)

def EntryBank.ofBits (x : BitVec 16) : EntryBank := { bank := x.extractLsb' 5 6, entry := x.extractLsb' 0 5 }

/-- X[4:0] e, X[9:5] e2 (R168). -/
def EntryPair.bits (f : EntryPair) : BitVec 16 := 0#6 ++ (f.e2 ++ f.e)

def EntryPair.ofBits (x : BitVec 16) : EntryPair := { e2 := x.extractLsb' 5 5, e := x.extractLsb' 0 5 }

/-- BMAP.bank: X[10:5] b (R168). -/
def bankBits (b : BitVec 6) : BitVec 16 := 0#5 ++ (b ++ 0#5)

def bankOf (x : BitVec 16) : BitVec 6 := x.extractLsb' 5 6

def Scope.code : Scope → BitVec 3
  | .slot => 0 | .core => 1 | .tile => 2 | .crew => 3 | .part => 4 | .sys => 5

def Scope.ofCode (c : BitVec 3) : Scope :=
  match c.toNat with
  | 1 => .core | 2 => .tile | 3 => .crew | 4 => .part | 5 => .sys | _ => .slot

def AmoOp.code : AmoOp → BitVec 4
  | .add => 0 | .and => 1 | .or => 2 | .xor => 3 | .min => 4 | .max => 5 | .swap => 6 | .cas => 7

def AmoOp.ofCode (c : BitVec 4) : AmoOp :=
  match c.toNat with
  | 1 => .and | 2 => .or | 3 => .xor | 4 => .min | 5 => .max | 6 => .swap | 7 => .cas | _ => .add

def Dir.code : Dir → BitVec 2
  | .e => 1 | .w => 2 | .ew => 3

def Dir.ofCode (c : BitVec 2) : Dir :=
  match c.toNat with
  | 2 => .w | 3 => .ew | _ => .e

/-- Special register numbers (R185). -/
def SReg.code : SReg → BitVec 8
  | .slot => 0x00 | .core => 0x01 | .tile => 0x02 | .site => 0x03 | .crew => 0x04 | .task => 0x05 | .unit => 0x06
  | .ucount => 0x07 | .vcc => 0x08 | .tstart => 0x09 | .pvr => 0x0A | .fst => 0x0B | .mxc => 0x0C | .rkey0 => 0x0D
  | .rkey1 => 0x0E | .prio => 0x0F | .mode => 0x10 | .epc => 0x18 | .enpc => 0x19 | .ennpc => 0x1A | .estat => 0x1B
  | .ecause => 0x1C | .eaddr => 0x1D

def SReg.ofCode (c : BitVec 8) : SReg :=
  match c.toNat with
  | 0x01 => .core | 0x02 => .tile | 0x03 => .site | 0x04 => .crew | 0x05 => .task | 0x06 => .unit
  | 0x07 => .ucount | 0x08 => .vcc | 0x09 => .tstart | 0x0A => .pvr | 0x0B => .fst | 0x0C => .mxc | 0x0D => .rkey0
  | 0x0E => .rkey1 | 0x0F => .prio | 0x10 => .mode | 0x18 => .epc | 0x19 => .enpc | 0x1A => .ennpc | 0x1B => .estat
  | 0x1C => .ecause | 0x1D => .eaddr | _ => .slot

def memOf (r : Raw) : MemOp := { sg := r.c.setWidth 3, idx := r.a, disp := r.imm }


/-- The operation of an instruction of format class 0 (R53), `none` where the class lists no such OP (R52). -/
def candidateR (r : Raw) : Option Instr :=
  match r.op.toNat with
  | 0x00 => some (.add r.guard (Ty.ofCode r.ty) r.sat r.d r.a r.b)
  | 0x01 => some (.sub r.guard (Ty.ofCode r.ty) r.sat r.d r.a r.b)
  | 0x02 => some (.mul r.guard (Ty.ofCode r.ty) r.sat r.d r.a r.b)
  | 0x03 => some (.mulh r.guard r.d r.a r.b)
  | 0x04 => some (.mulhn r.guard r.d r.a r.b)
  | 0x05 => some (.and r.guard r.d r.a r.b)
  | 0x06 => some (.or r.guard r.d r.a r.b)
  | 0x07 => some (.xor r.guard r.d r.a r.b)
  | 0x08 => some (.andn r.guard r.d r.a r.b)
  | 0x09 => some (.shl r.guard r.d r.a r.b)
  | 0x0A => some (.shr r.guard r.d r.a r.b)
  | 0x0B => some (.sar r.guard r.d r.a r.b)
  | 0x0C => some (.rol r.guard r.d r.a r.b)
  | 0x0D => some (.min r.guard r.d r.a r.b)
  | 0x0E => some (.max r.guard r.d r.a r.b)
  | 0x0F => some (.minn r.guard r.d r.a r.b)
  | 0x10 => some (.maxn r.guard r.d r.a r.b)
  | 0x11 => some (.cmp r.guard (Ty.ofCode r.ty) (Cond.ofBits r.rm r.sat) (r.d.setWidth 3) r.a r.b)
  | 0x12 => some (.sel r.guard r.d r.a r.b (r.c.setWidth 3))
  | 0x13 => some (.mov r.guard r.d r.a)
  | 0x14 => some (.clz r.guard r.d r.a)
  | 0x15 => some (.ctz r.guard r.d r.a)
  | 0x16 => some (.popc r.guard r.d r.a)
  | 0x17 => some (.bfx r.guard (r.ty == 4) r.d r.a (BitField.ofBits r.x))
  | 0x18 => some (.bfi r.guard r.d r.a (BitField.ofBits r.x))
  | 0x19 => some (.sext r.guard (Ty.ofCode r.ty) r.d r.a)
  | 0x1A => some (.zext r.guard (Ty.ofCode r.ty) r.d r.a)
  | 0x1B => some (.divstep r.guard (r.rm.getLsbD 0) r.d r.a r.b r.c (r.x.setWidth 3))
  | 0x1C => some (.pset r.guard (r.d.setWidth 3) r.a)
  | 0x1D => some (.pand r.guard (r.d.setWidth 3) (r.a.setWidth 3) (r.b.setWidth 3))
  | 0x1E => some (.por r.guard (r.d.setWidth 3) (r.a.setWidth 3) (r.b.setWidth 3))
  | 0x1F => some (.pxor r.guard (r.d.setWidth 3) (r.a.setWidth 3) (r.b.setWidth 3))
  | 0x20 => some (.pnot r.guard (r.d.setWidth 3) (r.a.setWidth 3))
  | 0x21 => some (.mfs r.guard r.d (SReg.ofCode (r.x.setWidth 8)))
  | 0x22 => some (.mts r.guard (SReg.ofCode (r.x.setWidth 8)) r.a)
  | 0x40 => some (.vadd r.guard (Ty.ofCode r.ty) (Rm.ofCode r.rm) r.sat (VMask.ofBits (xLo r)) r.d r.a r.b)
  | 0x41 => some (.vsub r.guard (Ty.ofCode r.ty) (Rm.ofCode r.rm) r.sat (VMask.ofBits (xLo r)) r.d r.a r.b)
  | 0x42 => some (.vmul r.guard (Ty.ofCode r.ty) (Rm.ofCode r.rm) r.sat (VMask.ofBits (xLo r)) r.d r.a r.b)
  | 0x43 => some (.vfma r.guard (Ty.ofCode r.ty) (Rm.ofCode r.rm) r.sat (VMask.ofBits (xLo r)) r.d r.a r.b r.c)
  | 0x44 => some (.vfms r.guard (Ty.ofCode r.ty) (Rm.ofCode r.rm) r.sat (VMask.ofBits (xLo r)) r.d r.a r.b r.c)
  | 0x45 => some (.vmin r.guard (Ty.ofCode r.ty) (VMask.ofBits (xLo r)) r.d r.a r.b)
  | 0x46 => some (.vmax r.guard (Ty.ofCode r.ty) (VMask.ofBits (xLo r)) r.d r.a r.b)
  | 0x47 => some (.vabs r.guard (Ty.ofCode r.ty) r.sat (VMask.ofBits (xLo r)) r.d r.a)
  | 0x48 => some (.vneg r.guard (Ty.ofCode r.ty) r.sat (VMask.ofBits (xLo r)) r.d r.a)
  | 0x49 => some (.vcmp r.guard (Ty.ofCode r.ty) (Cond.ofBits r.rm r.sat) (VMask.ofBits (xLo r)) (r.d.setWidth 3) r.a r.b)
  | 0x4A => some (.vsel r.guard (VMask.ofBits (xLo r)) r.d r.a r.b (r.c.setWidth 3))
  | 0x4B => some (.vmulh r.guard (Ty.ofCode r.ty) (VMask.ofBits (xLo r)) r.d r.a r.b)
  | 0x4C => some (.vclz r.guard (Ty.ofCode r.ty) (VMask.ofBits (xLo r)) r.d r.a)
  | 0x4D => some (.vpopc r.guard (Ty.ofCode r.ty) (VMask.ofBits (xLo r)) r.d r.a)
  | 0x4E => some (.vavg r.guard (Ty.ofCode r.ty) (VMask.ofBits (xLo r)) r.d r.a r.b)
  | 0x4F => some (.vshl r.guard (Ty.ofCode r.ty) (VMask.ofBits (xLo r)) r.d r.a r.b)
  | 0x50 => some (.vshr r.guard (Ty.ofCode r.ty) (VMask.ofBits (xLo r)) r.d r.a r.b)
  | 0x51 => some (.vsar r.guard (Ty.ofCode r.ty) (VMask.ofBits (xLo r)) r.d r.a r.b)
  | 0x52 => some (.vand r.guard (VMask.ofBits (xLo r)) r.d r.a r.b)
  | 0x53 => some (.vor r.guard (VMask.ofBits (xLo r)) r.d r.a r.b)
  | 0x54 => some (.vxor r.guard (VMask.ofBits (xLo r)) r.d r.a r.b)
  | 0x55 => some (.vperm r.guard (Ty.ofCode r.ty) (VMask.ofBits (xLo r)) r.d r.a r.b r.c)
  | 0x56 => some (.vbcast r.guard (Ty.ofCode r.ty) (rampOf (xHi r)) (VMask.ofBits (xLo r)) r.d r.b)
  | 0x57 => some (.vshuf r.guard (Ty.ofCode r.ty) (Shuffle.ofBits (xHi r)) (VMask.ofBits (xLo r)) r.d r.a r.b)
  | 0x58 => some (.vred r.guard (Ty.ofCode r.ty) (Rm.ofCode r.rm) r.sat (RedOp.ofBits (xHi r)) (gmOf (xLo r)) r.d r.a)
  | 0x59 => some (.vdot r.guard (Ty.ofCode r.ty) (Rm.ofCode r.rm) (gmOf (xLo r)) r.d r.a r.b r.c)
  | 0x5A => some (.vcvt r.guard (Ty.ofCode r.ty) (Rm.ofCode r.rm) r.sat (ConvSel.ofBits (xHi r)) (VMask.ofBits (xLo r)) r.d r.a)
  | 0x5B => some (.vsrnd r.guard (Ty.ofCode r.ty) r.sat (ConvSel.ofBits (xHi r)) (VMask.ofBits (xLo r)) r.d r.a r.c (r.imm.setWidth 5))
  | 0x5C => some (.vpack r.guard (Ty.ofCode r.ty) (Rm.ofCode r.rm) r.sat (ConvSel.ofBits (xHi r)) r.d r.a r.b r.c)
  | 0x5D => some (.vunpk r.guard (Ty.ofCode r.ty) (Rm.ofCode r.rm) r.sat (UnpackSel.ofBits (xHi r)) r.d r.a r.b)
  | 0x5E => some (.vscale r.guard (Ty.ofCode r.ty) (srcOf (xHi r)) r.d r.a r.c)
  | 0x5F => some (.vrcp r.guard (Ty.ofCode r.ty) (VMask.ofBits (xLo r)) r.d r.a)
  | 0x60 => some (.vrsq r.guard (Ty.ofCode r.ty) (VMask.ofBits (xLo r)) r.d r.a)
  | 0x61 => some (.vexp2 r.guard (Ty.ofCode r.ty) (VMask.ofBits (xLo r)) r.d r.a)
  | 0x62 => some (.vlog2 r.guard (Ty.ofCode r.ty) (VMask.ofBits (xLo r)) r.d r.a)
  | 0x63 => some (.vstep r.guard (Ty.ofCode r.ty) (Rm.ofCode r.rm) r.sat (StepKind.ofBits (xHi r)) (VMask.ofBits (xLo r)) r.d r.a r.b r.c)
  | 0x64 => some (.vrng r.guard (VMask.ofBits (xLo r)) r.d r.a r.b)
  | 0x65 => some (.mand r.guard (r.d.setWidth 3) (r.a.setWidth 3) (r.b.setWidth 3))
  | 0x66 => some (.mor r.guard (r.d.setWidth 3) (r.a.setWidth 3) (r.b.setWidth 3))
  | 0x67 => some (.mnot r.guard (r.d.setWidth 3) (r.a.setWidth 3))
  | _ => none

/-- The operation of an instruction of format class 1 (R53), `none` where the class lists no such OP (R52). -/
def candidateI (r : Raw) : Option Instr :=
  match r.op.toNat with
  | 0x00 => some (.addi r.guard (Ty.ofCode r.ty) r.sat r.d r.a r.imm)
  | 0x02 => some (.mulImm r.guard (Ty.ofCode r.ty) r.sat r.d r.a r.imm)
  | 0x05 => some (.andImm r.guard r.d r.a r.imm)
  | 0x06 => some (.orImm r.guard r.d r.a r.imm)
  | 0x07 => some (.xorImm r.guard r.d r.a r.imm)
  | 0x08 => some (.andnImm r.guard r.d r.a r.imm)
  | 0x09 => some (.shlImm r.guard r.d r.a r.imm)
  | 0x0A => some (.shrImm r.guard r.d r.a r.imm)
  | 0x0B => some (.sarImm r.guard r.d r.a r.imm)
  | 0x0C => some (.rolImm r.guard r.d r.a r.imm)
  | 0x0D => some (.minImm r.guard r.d r.a r.imm)
  | 0x0E => some (.maxImm r.guard r.d r.a r.imm)
  | 0x0F => some (.minnImm r.guard r.d r.a r.imm)
  | 0x10 => some (.maxnImm r.guard r.d r.a r.imm)
  | 0x11 => some (.cmpImm r.guard (Ty.ofCode r.ty) (Cond.ofBits r.rm r.sat) (r.d.setWidth 3) r.a r.imm)
  | 0x13 => some (.movi r.guard r.d r.imm)
  | 0x56 => some (.vbcastImm r.guard (Ty.ofCode r.ty) (rampOf (xHi r)) (VMask.ofBits (xLo r)) r.d r.imm)
  | 0x80 => some (.movh r.guard r.d r.imm)
  | 0x81 => some (.lea r.guard r.d (memOf r))
  | _ => none

/-- The operation of an instruction of format class 2 (R53), `none` where the class lists no such OP (R52). -/
def candidateM (r : Raw) : Option Instr :=
  match r.op.toNat with
  | 0x00 => some (.ld r.guard (Ty.ofCode r.ty) r.d (memOf r))
  | 0x01 => some (.st r.guard (Ty.ofCode r.ty) r.b (memOf r))
  | 0x02 => some (.ldv r.guard r.d (memOf r))
  | 0x03 => some (.stv r.guard r.b (r.x.setWidth 3) (memOf r))
  | 0x04 => if r.rm == 1 then some (.ldgV r.guard r.d (memOf r))
      else some (.ldg r.guard (Ty.ofCode r.ty) r.d (memOf r))
  | 0x05 => if r.rm == 1 then some (.stsV r.guard r.b (r.x.setWidth 3) (memOf r))
      else some (.sts r.guard (Ty.ofCode r.ty) r.b (memOf r))
  | 0x06 => if r.rm == 1 then some (.stmaskP r.guard (memOf r))
      else some (.stmask r.guard (r.b.setWidth 3) (memOf r))
  | 0x07 => some (.sig r.guard r.b (memOf r))
  | 0x08 => some (.watch r.guard r.d (memOf r))
  | 0x09 => if r.rm == 1 then some (.unwatchAll r.guard)
      else some (.unwatch r.guard (memOf r))
  | 0x0A => if r.rm == 1 then some (.giveNb r.guard r.d r.a (r.x.setWidth 5))
      else some (.give r.guard r.d r.a (r.x.setWidth 5))
  | 0x0B => if r.rm == 1 then some (.reclaimNb r.guard r.d (EntryBank.ofBits r.x))
      else some (.reclaim r.guard r.d (EntryBank.ofBits r.x))
  | 0x0C => if r.rm == 1 then some (.bmapSwap r.guard (EntryPair.ofBits r.x))
      else if r.rm == 2 then some (.bmapSet r.guard r.a (r.x.setWidth 5))
      else if r.rm == 3 then some (.bmapBank r.guard r.d (bankOf r.x))
      else some (.bmapRead r.guard r.d (r.x.setWidth 5))
  | 0x0D => if r.rm == 1 then some (.drainBank r.guard (r.x.setWidth 5))
      else some (.drain r.guard)
  | 0x10 => if r.sat then some (.phaseT r.guard r.imm)
      else some (.phase r.guard r.d)
  | 0x11 => some (.fence r.guard (Scope.ofCode (r.x.setWidth 3)))
  | 0x12 => some (.amo r.guard (Ty.ofCode r.ty) (AmoOp.ofCode (r.x.setWidth 4)) r.d r.b (memOf r))
  | 0x13 => some (.red r.guard (Ty.ofCode r.ty) (AmoOp.ofCode (r.x.setWidth 4)) r.b (memOf r))
  | 0x14 => some (.lrw r.guard r.d (r.x.setWidth 3) (memOf r))
  | 0x15 => some (.sch r.guard r.b (memOf r))
  | 0x16 => some (.relq r.guard (memOf r))
  | _ => none

/-- The operation of an instruction of format class 3 (R53), `none` where the class lists no such OP (R52). -/
def candidateB (r : Raw) : Option Instr :=
  match r.op.toNat with
  | 0x00 => some (.nop r.guard)
  | 0x01 => some (.br r.guard (Nul.ofBits r.rm r.sat) r.imm)
  | 0x02 => some (.bra r.guard (Nul.ofBits r.rm r.sat) r.imm)
  | 0x03 => some (.brx r.guard (Nul.ofBits r.rm r.sat) r.a r.imm)
  | 0x04 => some (.call r.guard (Nul.ofBits r.rm r.sat) r.imm)
  | 0x05 => some (.callR r.guard (Nul.ofBits r.rm r.sat) r.a r.imm)
  | 0x06 => some (.ret r.guard (Nul.ofBits r.rm r.sat) r.a)
  | 0x07 => some (.brk r.guard r.x)
  | _ => none

/-- The operation of an instruction of format class 4 (R53), `none` where the class lists no such OP (R52). -/
def candidateX (r : Raw) : Option Instr :=
  match r.op.toNat with
  | 0x00 => some (.mma r.guard (Ty.ofCode r.ty) (r.rm.getLsbD 0) r.sat (r.d.setWidth 4) r.a r.b r.c)
  | 0x01 => some (.mmat r.guard (Ty.ofCode r.ty) (r.rm.getLsbD 0) r.sat (r.d.setWidth 4) r.a r.b r.c r.x r.imm)
  | 0x02 => some (.mzero r.guard (Ty.ofCode r.ty) (r.d.setWidth 4))
  | 0x03 => some (.mldc r.guard (Ty.ofCode r.ty) (r.d.setWidth 4) r.a)
  | 0x04 => some (.mstc r.guard (Ty.ofCode r.ty) (Rm.ofCode r.rm) r.sat r.d (r.a.setWidth 4))
  | 0x05 => if r.rm == 1 then some (.lnpushT r.guard (Dir.ofCode (r.x.setWidth 2)) r.a r.imm)
      else some (.lnpush r.guard (Dir.ofCode (r.x.setWidth 2)) r.a)
  | 0x06 => if r.rm == 1 then some (.lncfgSet r.guard r.d r.a)
      else some (.lncfg r.guard r.d)
  | 0x10 => some (.tdef r.guard r.d (memOf r))
  | 0x11 => some (.tget r.guard r.d r.a (r.x.setWidth 3))
  | 0x12 => if r.rm == 1 then some (.tseqAdd r.guard r.d r.a r.imm)
      else if r.rm == 2 then some (.tseqBar r.guard r.d r.a r.imm)
      else some (.tseq r.guard r.d r.a r.imm)
  | _ => none

/-- The operation of an instruction of format class 5 (R53), `none` where the class lists no such OP (R52). -/
def candidateA (r : Raw) : Option Instr :=
  match r.op.toNat with
  | 0x00 => some (.copy r.guard (r.rm.getLsbD 2) (r.rm.getLsbD 1) r.sat r.d r.a r.b r.c r.x r.imm)
  | 0x01 => some (.gath r.guard (r.rm.getLsbD 2) r.sat r.d r.a r.b r.c r.x r.imm)
  | 0x02 => some (.scat r.guard (r.rm.getLsbD 2) r.sat r.d r.a r.b r.c r.x r.imm)
  | 0x03 => some (.publ r.guard r.sat r.a r.b r.c r.x r.imm)
  | 0x08 => some (.bari r.guard r.b (memOf r))
  | 0x09 => if r.rm == 1 then some (.barwNf r.guard r.d r.b (memOf r))
      else some (.barw r.guard r.d r.b (memOf r))
  | 0x0A => some (.barq r.guard r.d (memOf r))
  | 0x10 => if r.rm == 1 then some (.sendSig r.guard r.sat r.a r.b r.c r.imm)
      else some (.send r.guard r.sat r.a r.b r.c (r.x.setWidth 13) r.imm)
  | 0x11 => some (.sends r.guard r.sat r.d r.a r.b r.c r.x r.imm)
  | 0x12 => some (.mcast r.guard r.sat r.d r.a r.b r.c (r.x.setWidth 13) r.imm)
  | 0x13 => if r.rm == 1 then some (.ibpopNw r.guard r.d (r.x.setWidth 4))
      else if r.rm == 2 then some (.ibpopFree r.guard r.a (r.x.setWidth 4))
      else some (.ibpop r.guard r.d (r.x.setWidth 4))
  | 0x14 => some (.hop r.guard (r.rm.getLsbD 0) r.a (r.x.setWidth 3))
  | 0x15 => if r.rm == 1 then some (.chanIbx r.guard r.d r.a (r.x.setWidth 4))
      else if r.rm == 2 then some (.chanQch r.guard r.d (r.x.setWidth 6))
      else if r.rm == 3 then some (.chanQib r.guard r.d (r.x.setWidth 4))
      else some (.chanOpen r.guard r.d r.a (r.x.setWidth 6))
  | 0x1F => if r.rm == 1 then some (.rtwrDt r.guard r.a r.b r.c)
      else if r.rm == 2 then some (.rtwrSr r.guard r.a r.b r.c)
      else some (.rtwrRb r.guard r.a r.b r.c)
  | _ => none

/-- The operation of an instruction of format class 6 (R53), `none` where the class lists no such OP (R52). -/
def candidateS (r : Raw) : Option Instr :=
  match r.op.toNat with
  | 0x00 => some (.spawn r.guard r.d r.a r.b r.imm)
  | 0x01 => if r.var9 == 1 then some (.reapNb r.guard r.d r.a (r.x.setWidth 3))
      else if r.var9 == 2 then some (.reapKill r.guard r.d r.a (r.x.setWidth 3))
      else some (.reap r.guard r.d r.a (r.x.setWidth 3))
  | 0x02 => some (.yield r.guard)
  | 0x03 => some (.sleep r.guard r.d r.a)
  | 0x04 => if r.var9 == 1 then some (.wakeAll r.guard)
      else some (.wake r.guard r.a)
  | 0x05 => some (.rfork r.guard r.d r.a r.b (r.c.setWidth 3) r.imm)
  | 0x06 => some (.join r.guard r.a (r.c.setWidth 3) r.imm)
  | 0x07 => if r.var9 == 1 then some (.knotAdd r.guard r.b (memOf r))
      else if r.var9 == 2 then some (.knotHold r.guard r.b (memOf r))
      else if r.var9 == 3 then some (.knotRd r.guard r.d (memOf r))
      else if r.var9 == 4 then some (.knotWait r.guard r.d (memOf r))
      else some (.knotSet r.guard r.b (memOf r))
  | 0x08 => if r.var9 == 1 then some (.launchNb r.guard r.d (memOf r))
      else some (.launch r.guard r.d (memOf r))
  | 0x09 => some (.taskend r.guard r.a)
  | 0x20 => some (.vstage r.guard r.d)
  | 0x21 => some (.vpub r.guard r.d r.a)
  | 0x22 => some (.vdiscard r.guard r.d r.a)
  | 0x23 => some (.vadopt r.guard r.imm)
  | 0x24 => some (.vretire r.guard r.d r.a)
  | 0x25 => if r.var9 == 1 then some (.vqrySet r.guard r.d)
      else some (.vqry r.guard r.d r.a)
  | 0x26 => some (.sample r.guard r.d r.b (r.x.setWidth 6) (memOf r))
  | 0x40 => some (.trap r.guard r.x)
  | 0x41 => if r.var9 == 1 then some (.eretKill r.guard r.a)
      else some (.eret r.guard)
  | 0x42 => some (.resume r.guard)
  | 0x43 => if r.var9 == 1 then some (.swpoFar r.guard r.d r.a r.b)
      else some (.swpo r.guard r.d r.a)
  | 0x44 => if r.var9 == 2 then some (.swpiQ r.guard r.d r.a r.b)
      else if r.sat then some (.swpiFar r.guard (r.rm.getLsbD 0) r.d r.a r.b)
      else some (.swpi r.guard r.d r.a r.b)
  | 0x45 => if r.var9 == 1 then some (.stopPart r.guard r.d r.a)
      else if r.var9 == 2 then some (.stopGo r.guard r.d r.a)
      else some (.stopCrew r.guard r.d r.a)
  | 0x46 => some (.rdrec r.guard r.d r.a (r.x.setWidth 2))
  | 0x47 => if r.var9 == 1 then some (.twinNw r.guard r.d)
      else some (.twin r.guard r.d)
  | 0x48 => if r.var9 == 1 then some (.segldRd r.guard r.d (r.a.setWidth 3) (r.x.setWidth 2))
      else some (.segld r.guard (r.d.setWidth 3) r.a r.imm)
  | 0x49 => some (.segst r.guard (r.d.setWidth 3) r.a r.b r.c)
  | 0x4A => if r.var9 == 1 then some (.blayW r.guard r.d)
      else if r.var9 == 2 then some (.blayDeep r.guard r.d)
      else some (.blay r.guard r.d)
  | 0x4B => some (.blq r.guard r.d (r.x.setWidth 3))
  | _ => none

/-- The operation a word's FMT and OP (and variant) name, with its operand fields cut out; `none` for FMT 7 and every
FMT/OP pair that R53 does not list (R52). -/
def candidate (r : Raw) : Option Instr :=
  match r.fmt.toNat with
  | 0 => candidateR r
  | 1 => candidateI r
  | 2 => candidateM r
  | 3 => candidateB r
  | 4 => candidateX r
  | 5 => candidateA r
  | 6 => candidateS r
  | _ => none


/-- The fields of the instruction word of a thread instruction (the encoding tables of ch 02 and of each chapter);
`none` for an event, which has no encoding. -/
def Instr.raw (i : Instr) : Option Raw :=
  match i with
  | .add g ty sat d a b => some { Raw.of 0 0x00 g with ty := ty.code, sat := sat, d := d, a := a, b := b }
  | .addi g ty sat d a imm => some { Raw.of 1 0x00 g with ty := ty.code, sat := sat, d := d, a := a, imm := imm }
  | .sub g ty sat d a b => some { Raw.of 0 0x01 g with ty := ty.code, sat := sat, d := d, a := a, b := b }
  | .mul g ty sat d a b => some { Raw.of 0 0x02 g with ty := ty.code, sat := sat, d := d, a := a, b := b }
  | .mulImm g ty sat d a imm => some { Raw.of 1 0x02 g with ty := ty.code, sat := sat, d := d, a := a, imm := imm }
  | .mulh g d a b => some { Raw.of 0 0x03 g with d := d, a := a, b := b }
  | .mulhn g d a b => some { Raw.of 0 0x04 g with d := d, a := a, b := b }
  | .and g d a b => some { Raw.of 0 0x05 g with d := d, a := a, b := b }
  | .andImm g d a imm => some { Raw.of 1 0x05 g with d := d, a := a, imm := imm }
  | .or g d a b => some { Raw.of 0 0x06 g with d := d, a := a, b := b }
  | .orImm g d a imm => some { Raw.of 1 0x06 g with d := d, a := a, imm := imm }
  | .xor g d a b => some { Raw.of 0 0x07 g with d := d, a := a, b := b }
  | .xorImm g d a imm => some { Raw.of 1 0x07 g with d := d, a := a, imm := imm }
  | .andn g d a b => some { Raw.of 0 0x08 g with d := d, a := a, b := b }
  | .andnImm g d a imm => some { Raw.of 1 0x08 g with d := d, a := a, imm := imm }
  | .shl g d a b => some { Raw.of 0 0x09 g with d := d, a := a, b := b }
  | .shlImm g d a imm => some { Raw.of 1 0x09 g with d := d, a := a, imm := imm }
  | .shr g d a b => some { Raw.of 0 0x0A g with d := d, a := a, b := b }
  | .shrImm g d a imm => some { Raw.of 1 0x0A g with d := d, a := a, imm := imm }
  | .sar g d a b => some { Raw.of 0 0x0B g with d := d, a := a, b := b }
  | .sarImm g d a imm => some { Raw.of 1 0x0B g with d := d, a := a, imm := imm }
  | .rol g d a b => some { Raw.of 0 0x0C g with d := d, a := a, b := b }
  | .rolImm g d a imm => some { Raw.of 1 0x0C g with d := d, a := a, imm := imm }
  | .min g d a b => some { Raw.of 0 0x0D g with d := d, a := a, b := b }
  | .minImm g d a imm => some { Raw.of 1 0x0D g with d := d, a := a, imm := imm }
  | .max g d a b => some { Raw.of 0 0x0E g with d := d, a := a, b := b }
  | .maxImm g d a imm => some { Raw.of 1 0x0E g with d := d, a := a, imm := imm }
  | .minn g d a b => some { Raw.of 0 0x0F g with d := d, a := a, b := b }
  | .minnImm g d a imm => some { Raw.of 1 0x0F g with d := d, a := a, imm := imm }
  | .maxn g d a b => some { Raw.of 0 0x10 g with d := d, a := a, b := b }
  | .maxnImm g d a imm => some { Raw.of 1 0x10 g with d := d, a := a, imm := imm }
  | .cmp g ty cond d a b => some { Raw.of 0 0x11 g with ty := ty.code, rm := cond.hi, sat := cond.lo, d := d.setWidth 6, a := a, b := b }
  | .cmpImm g ty cond d a imm => some { Raw.of 1 0x11 g with ty := ty.code, rm := cond.hi, sat := cond.lo, d := d.setWidth 6, a := a, imm := imm }
  | .sel g d a b c => some { Raw.of 0 0x12 g with d := d, a := a, b := b, c := c.setWidth 6 }
  | .mov g d a => some { Raw.of 0 0x13 g with d := d, a := a }
  | .movi g d imm => some { Raw.of 1 0x13 g with d := d, imm := imm }
  | .movh g d imm => some { Raw.of 1 0x80 g with d := d, imm := imm }
  | .lea g d mem => some { Raw.of 1 0x81 g with d := d, a := mem.idx, c := mem.sg.setWidth 6, imm := mem.disp }
  | .clz g d a => some { Raw.of 0 0x14 g with d := d, a := a }
  | .ctz g d a => some { Raw.of 0 0x15 g with d := d, a := a }
  | .popc g d a => some { Raw.of 0 0x16 g with d := d, a := a }
  | .bfx g sx d a bf => some { Raw.of 0 0x17 g with ty := sxBits sx, d := d, a := a, x := bf.bits }
  | .bfi g d a bf => some { Raw.of 0 0x18 g with d := d, a := a, x := bf.bits }
  | .sext g ty d a => some { Raw.of 0 0x19 g with ty := ty.code, d := d, a := a }
  | .zext g ty d a => some { Raw.of 0 0x1A g with ty := ty.code, d := d, a := a }
  | .divstep g q d a b c j => some { Raw.of 0 0x1B g with d := d, a := a, b := b, c := c, x := j.setWidth 16, rm := bits3 false false q }
  | .pset g d a => some { Raw.of 0 0x1C g with d := d.setWidth 6, a := a }
  | .pand g d a b => some { Raw.of 0 0x1D g with d := d.setWidth 6, a := a.setWidth 6, b := b.setWidth 6 }
  | .por g d a b => some { Raw.of 0 0x1E g with d := d.setWidth 6, a := a.setWidth 6, b := b.setWidth 6 }
  | .pxor g d a b => some { Raw.of 0 0x1F g with d := d.setWidth 6, a := a.setWidth 6, b := b.setWidth 6 }
  | .pnot g d a => some { Raw.of 0 0x20 g with d := d.setWidth 6, a := a.setWidth 6 }
  | .mfs g d sr => some { Raw.of 0 0x21 g with d := d, x := sr.code.setWidth 16 }
  | .mts g sr a => some { Raw.of 0 0x22 g with x := sr.code.setWidth 16, a := a }
  | .vadd g ty rm sat vm d a b => some { Raw.of 0 0x40 g with ty := ty.code, rm := rm.code, sat := sat, d := d, a := a, b := b, x := xOf (0) (vm.bits) }
  | .vsub g ty rm sat vm d a b => some { Raw.of 0 0x41 g with ty := ty.code, rm := rm.code, sat := sat, d := d, a := a, b := b, x := xOf (0) (vm.bits) }
  | .vmul g ty rm sat vm d a b => some { Raw.of 0 0x42 g with ty := ty.code, rm := rm.code, sat := sat, d := d, a := a, b := b, x := xOf (0) (vm.bits) }
  | .vfma g ty rm sat vm d a b c => some { Raw.of 0 0x43 g with ty := ty.code, rm := rm.code, sat := sat, d := d, a := a, b := b, c := c, x := xOf (0) (vm.bits) }
  | .vfms g ty rm sat vm d a b c => some { Raw.of 0 0x44 g with ty := ty.code, rm := rm.code, sat := sat, d := d, a := a, b := b, c := c, x := xOf (0) (vm.bits) }
  | .vmin g ty vm d a b => some { Raw.of 0 0x45 g with ty := ty.code, d := d, a := a, b := b, x := xOf (0) (vm.bits) }
  | .vmax g ty vm d a b => some { Raw.of 0 0x46 g with ty := ty.code, d := d, a := a, b := b, x := xOf (0) (vm.bits) }
  | .vabs g ty sat vm d a => some { Raw.of 0 0x47 g with ty := ty.code, sat := sat, d := d, a := a, x := xOf (0) (vm.bits) }
  | .vneg g ty sat vm d a => some { Raw.of 0 0x48 g with ty := ty.code, sat := sat, d := d, a := a, x := xOf (0) (vm.bits) }
  | .vcmp g ty cond vm d a b => some { Raw.of 0 0x49 g with ty := ty.code, rm := cond.hi, sat := cond.lo, d := d.setWidth 6, a := a, b := b, x := xOf (0) (vm.bits) }
  | .vsel g vm d a b c => some { Raw.of 0 0x4A g with d := d, a := a, b := b, c := c.setWidth 6, x := xOf (0) (vm.bits) }
  | .vmulh g ty vm d a b => some { Raw.of 0 0x4B g with ty := ty.code, d := d, a := a, b := b, x := xOf (0) (vm.bits) }
  | .vclz g ty vm d a => some { Raw.of 0 0x4C g with ty := ty.code, d := d, a := a, x := xOf (0) (vm.bits) }
  | .vpopc g ty vm d a => some { Raw.of 0 0x4D g with ty := ty.code, d := d, a := a, x := xOf (0) (vm.bits) }
  | .vavg g ty vm d a b => some { Raw.of 0 0x4E g with ty := ty.code, d := d, a := a, b := b, x := xOf (0) (vm.bits) }
  | .vshl g ty vm d a b => some { Raw.of 0 0x4F g with ty := ty.code, d := d, a := a, b := b, x := xOf (0) (vm.bits) }
  | .vshr g ty vm d a b => some { Raw.of 0 0x50 g with ty := ty.code, d := d, a := a, b := b, x := xOf (0) (vm.bits) }
  | .vsar g ty vm d a b => some { Raw.of 0 0x51 g with ty := ty.code, d := d, a := a, b := b, x := xOf (0) (vm.bits) }
  | .vand g vm d a b => some { Raw.of 0 0x52 g with d := d, a := a, b := b, x := xOf (0) (vm.bits) }
  | .vor g vm d a b => some { Raw.of 0 0x53 g with d := d, a := a, b := b, x := xOf (0) (vm.bits) }
  | .vxor g vm d a b => some { Raw.of 0 0x54 g with d := d, a := a, b := b, x := xOf (0) (vm.bits) }
  | .vperm g ty vm d a b c => some { Raw.of 0 0x55 g with ty := ty.code, d := d, a := a, b := b, c := c, x := xOf (0) (vm.bits) }
  | .vbcast g ty ramp vm d b => some { Raw.of 0 0x56 g with ty := ty.code, d := d, b := b, x := xOf (rampBits ramp) (vm.bits) }
  | .vbcastImm g ty ramp vm d imm => some { Raw.of 1 0x56 g with ty := ty.code, d := d, imm := imm, x := xOf (rampBits ramp) (vm.bits) }
  | .vshuf g ty sh vm d a b => some { Raw.of 0 0x57 g with ty := ty.code, d := d, a := a, b := b, x := xOf (sh.bits) (vm.bits) }
  | .vred g ty rm sat op mk d a => some { Raw.of 0 0x58 g with ty := ty.code, rm := rm.code, sat := sat, d := d, a := a, x := xOf (op.bits) (gmBits mk) }
  | .vdot g ty rm mk d a b c => some { Raw.of 0 0x59 g with ty := ty.code, rm := rm.code, d := d, a := a, b := b, c := c, x := xOf (0) (gmBits mk) }
  | .vcvt g ty rm sat cv vm d a => some { Raw.of 0 0x5A g with ty := ty.code, rm := rm.code, sat := sat, d := d, a := a, x := xOf (cv.bits) (vm.bits) }
  | .vsrnd g ty sat cv vm d a c k => some { Raw.of 0 0x5B g with rm := 6, ty := ty.code, sat := sat, d := d, a := a, c := c, imm := k.setWidth 32, x := xOf (cv.bits) (vm.bits) }
  | .vpack g ty rm sat cv d a b c => some { Raw.of 0 0x5C g with ty := ty.code, rm := rm.code, sat := sat, d := d, a := a, b := b, c := c, x := xOf (cv.bits) (0) }
  | .vunpk g ty rm sat cv d a b => some { Raw.of 0 0x5D g with ty := ty.code, rm := rm.code, sat := sat, d := d, a := a, b := b, x := xOf (cv.bits) (0) }
  | .vscale g ty src d a c => some { Raw.of 0 0x5E g with ty := ty.code, d := d, a := a, c := c, x := xOf (srcBits src) (0) }
  | .vrcp g ty vm d a => some { Raw.of 0 0x5F g with ty := ty.code, d := d, a := a, x := xOf (0) (vm.bits) }
  | .vrsq g ty vm d a => some { Raw.of 0 0x60 g with ty := ty.code, d := d, a := a, x := xOf (0) (vm.bits) }
  | .vexp2 g ty vm d a => some { Raw.of 0 0x61 g with ty := ty.code, d := d, a := a, x := xOf (0) (vm.bits) }
  | .vlog2 g ty vm d a => some { Raw.of 0 0x62 g with ty := ty.code, d := d, a := a, x := xOf (0) (vm.bits) }
  | .vstep g ty rm sat kind vm d a b c => some { Raw.of 0 0x63 g with ty := ty.code, rm := rm.code, sat := sat, d := d, a := a, b := b, c := c, x := xOf (kind.bits) (vm.bits) }
  | .vrng g vm d a b => some { Raw.of 0 0x64 g with d := d, a := a, b := b, x := xOf (0) (vm.bits) }
  | .mand g d a b => some { Raw.of 0 0x65 g with d := d.setWidth 6, a := a.setWidth 6, b := b.setWidth 6 }
  | .mor g d a b => some { Raw.of 0 0x66 g with d := d.setWidth 6, a := a.setWidth 6, b := b.setWidth 6 }
  | .mnot g d a => some { Raw.of 0 0x67 g with d := d.setWidth 6, a := a.setWidth 6 }
  | .ld g ty d mem => some { Raw.of 2 0x00 g with ty := ty.code, d := d, a := mem.idx, c := mem.sg.setWidth 6, imm := mem.disp }
  | .st g ty b mem => some { Raw.of 2 0x01 g with ty := ty.code, b := b, a := mem.idx, c := mem.sg.setWidth 6, imm := mem.disp }
  | .ldv g d mem => some { Raw.of 2 0x02 g with d := d, a := mem.idx, c := mem.sg.setWidth 6, imm := mem.disp }
  | .stv g b mk mem => some { Raw.of 2 0x03 g with b := b, x := mk.setWidth 16, a := mem.idx, c := mem.sg.setWidth 6, imm := mem.disp }
  | .ldg g ty d mem => some { Raw.of 2 0x04 g with ty := ty.code, d := d, a := mem.idx, c := mem.sg.setWidth 6, imm := mem.disp }
  | .ldgV g d mem => some { Raw.of 2 0x04 g with rm := 1, d := d, a := mem.idx, c := mem.sg.setWidth 6, imm := mem.disp }
  | .sts g ty b mem => some { Raw.of 2 0x05 g with ty := ty.code, b := b, a := mem.idx, c := mem.sg.setWidth 6, imm := mem.disp }
  | .stsV g b mk mem => some { Raw.of 2 0x05 g with rm := 1, b := b, x := mk.setWidth 16, a := mem.idx, c := mem.sg.setWidth 6, imm := mem.disp }
  | .stmask g b mem => some { Raw.of 2 0x06 g with b := b.setWidth 6, a := mem.idx, c := mem.sg.setWidth 6, imm := mem.disp }
  | .stmaskP g mem => some { Raw.of 2 0x06 g with rm := 1, a := mem.idx, c := mem.sg.setWidth 6, imm := mem.disp }
  | .sig g b mem => some { Raw.of 2 0x07 g with b := b, a := mem.idx, c := mem.sg.setWidth 6, imm := mem.disp }
  | .watch g d mem => some { Raw.of 2 0x08 g with d := d, a := mem.idx, c := mem.sg.setWidth 6, imm := mem.disp }
  | .unwatch g mem => some { Raw.of 2 0x09 g with a := mem.idx, c := mem.sg.setWidth 6, imm := mem.disp }
  | .unwatchAll g => some { Raw.of 2 0x09 g with rm := 1 }
  | .give g d a e => some { Raw.of 2 0x0A g with d := d, a := a, x := e.setWidth 16 }
  | .giveNb g d a e => some { Raw.of 2 0x0A g with rm := 1, d := d, a := a, x := e.setWidth 16 }
  | .reclaim g d eb => some { Raw.of 2 0x0B g with d := d, x := eb.bits }
  | .reclaimNb g d eb => some { Raw.of 2 0x0B g with rm := 1, d := d, x := eb.bits }
  | .bmapRead g d e => some { Raw.of 2 0x0C g with d := d, x := e.setWidth 16 }
  | .bmapSwap g ee => some { Raw.of 2 0x0C g with rm := 1, x := ee.bits }
  | .bmapSet g a e => some { Raw.of 2 0x0C g with rm := 2, a := a, x := e.setWidth 16 }
  | .bmapBank g d b => some { Raw.of 2 0x0C g with rm := 3, d := d, x := bankBits b }
  | .drain g => some (Raw.of 2 0x0D g)
  | .drainBank g e => some { Raw.of 2 0x0D g with rm := 1, x := e.setWidth 16 }
  | .phase g d => some { Raw.of 2 0x10 g with d := d }
  | .phaseT g imm => some { Raw.of 2 0x10 g with sat := true, imm := imm }
  | .fence g sc => some { Raw.of 2 0x11 g with x := sc.code.setWidth 16 }
  | .amo g ty op d b mem => some { Raw.of 2 0x12 g with ty := ty.code, x := op.code.setWidth 16, d := d, b := b, a := mem.idx, c := mem.sg.setWidth 6, imm := mem.disp }
  | .red g ty op b mem => some { Raw.of 2 0x13 g with ty := ty.code, x := op.code.setWidth 16, b := b, a := mem.idx, c := mem.sg.setWidth 6, imm := mem.disp }
  | .lrw g d pd mem => some { Raw.of 2 0x14 g with d := d, x := pd.setWidth 16, a := mem.idx, c := mem.sg.setWidth 6, imm := mem.disp }
  | .sch g b mem => some { Raw.of 2 0x15 g with b := b, a := mem.idx, c := mem.sg.setWidth 6, imm := mem.disp }
  | .relq g mem => some { Raw.of 2 0x16 g with a := mem.idx, c := mem.sg.setWidth 6, imm := mem.disp }
  | .nop g => some (Raw.of 3 0x00 g)
  | .br g nul imm => some { Raw.of 3 0x01 g with rm := nul.hi, sat := nul.lo, imm := imm }
  | .bra g nul imm => some { Raw.of 3 0x02 g with rm := nul.hi, sat := nul.lo, imm := imm }
  | .brx g nul a imm => some { Raw.of 3 0x03 g with rm := nul.hi, sat := nul.lo, a := a, imm := imm }
  | .call g nul imm => some { Raw.of 3 0x04 g with rm := nul.hi, sat := nul.lo, imm := imm }
  | .callR g nul a imm => some { Raw.of 3 0x05 g with rm := nul.hi, sat := nul.lo, a := a, imm := imm }
  | .ret g nul a => some { Raw.of 3 0x06 g with rm := nul.hi, sat := nul.lo, a := a }
  | .brk g x => some { Raw.of 3 0x07 g with x := x }
  | .mma g ty z sat d a b c => some { Raw.of 4 0x00 g with ty := ty.code, sat := sat, d := d.setWidth 6, a := a, b := b, c := c, rm := bits3 false false z }
  | .mmat g ty z sat d a b c x imm => some { Raw.of 4 0x01 g with ty := ty.code, sat := sat, d := d.setWidth 6, a := a, b := b, c := c, x := x, imm := imm, rm := bits3 false false z }
  | .mzero g ty d => some { Raw.of 4 0x02 g with ty := ty.code, d := d.setWidth 6 }
  | .mldc g ty d a => some { Raw.of 4 0x03 g with ty := ty.code, d := d.setWidth 6, a := a }
  | .mstc g ty rm sat d a => some { Raw.of 4 0x04 g with ty := ty.code, rm := rm.code, sat := sat, d := d, a := a.setWidth 6 }
  | .lnpush g dir a => some { Raw.of 4 0x05 g with x := dir.code.setWidth 16, a := a }
  | .lnpushT g dir a imm => some { Raw.of 4 0x05 g with rm := 1, x := dir.code.setWidth 16, a := a, imm := imm }
  | .lncfg g d => some { Raw.of 4 0x06 g with d := d }
  | .lncfgSet g d a => some { Raw.of 4 0x06 g with rm := 1, d := d, a := a }
  | .tdef g d mem => some { Raw.of 4 0x10 g with d := d, a := mem.idx, c := mem.sg.setWidth 6, imm := mem.disp }
  | .tget g d a w => some { Raw.of 4 0x11 g with d := d, a := a, x := w.setWidth 16 }
  | .tseq g d a imm => some { Raw.of 4 0x12 g with d := d, a := a, imm := imm }
  | .tseqAdd g d a imm => some { Raw.of 4 0x12 g with rm := 1, d := d, a := a, imm := imm }
  | .tseqBar g d a imm => some { Raw.of 4 0x12 g with rm := 2, d := d, a := a, imm := imm }
  | .copy g edge out tm d a b c x imm => some { Raw.of 5 0x00 g with sat := tm, d := d, a := a, b := b, c := c, x := x, imm := imm, rm := bits3 edge out false }
  | .gath g edge tm d a b c x imm => some { Raw.of 5 0x01 g with sat := tm, d := d, a := a, b := b, c := c, x := x, imm := imm, rm := bits3 edge false false }
  | .scat g edge tm d a b c x imm => some { Raw.of 5 0x02 g with sat := tm, d := d, a := a, b := b, c := c, x := x, imm := imm, rm := bits3 edge false false }
  | .publ g tm a b c x imm => some { Raw.of 5 0x03 g with sat := tm, a := a, b := b, c := c, x := x, imm := imm }
  | .bari g b mem => some { Raw.of 5 0x08 g with b := b, a := mem.idx, c := mem.sg.setWidth 6, imm := mem.disp }
  | .barw g d b mem => some { Raw.of 5 0x09 g with d := d, b := b, a := mem.idx, c := mem.sg.setWidth 6, imm := mem.disp }
  | .barwNf g d b mem => some { Raw.of 5 0x09 g with rm := 1, d := d, b := b, a := mem.idx, c := mem.sg.setWidth 6, imm := mem.disp }
  | .barq g d mem => some { Raw.of 5 0x0A g with d := d, a := mem.idx, c := mem.sg.setWidth 6, imm := mem.disp }
  | .send g tm a b c len imm => some { Raw.of 5 0x10 g with sat := tm, a := a, b := b, c := c, x := len.setWidth 16, imm := imm }
  | .sendSig g tm a b c imm => some { Raw.of 5 0x10 g with rm := 1, sat := tm, a := a, b := b, c := c, imm := imm }
  | .sends g tm d a b c x imm => some { Raw.of 5 0x11 g with sat := tm, d := d, a := a, b := b, c := c, x := x, imm := imm }
  | .mcast g tm d a b c len imm => some { Raw.of 5 0x12 g with sat := tm, d := d, a := a, b := b, c := c, x := len.setWidth 16, imm := imm }
  | .ibpop g d ibx => some { Raw.of 5 0x13 g with d := d, x := ibx.setWidth 16 }
  | .ibpopNw g d ibx => some { Raw.of 5 0x13 g with rm := 1, d := d, x := ibx.setWidth 16 }
  | .ibpopFree g a ibx => some { Raw.of 5 0x13 g with rm := 2, a := a, x := ibx.setWidth 16 }
  | .hop g np a core => some { Raw.of 5 0x14 g with a := a, x := core.setWidth 16, rm := bits3 false false np }
  | .chanOpen g d a ch => some { Raw.of 5 0x15 g with d := d, a := a, x := ch.setWidth 16 }
  | .chanIbx g d a ibx => some { Raw.of 5 0x15 g with rm := 1, d := d, a := a, x := ibx.setWidth 16 }
  | .chanQch g d ch => some { Raw.of 5 0x15 g with rm := 2, d := d, x := ch.setWidth 16 }
  | .chanQib g d ibx => some { Raw.of 5 0x15 g with rm := 3, d := d, x := ibx.setWidth 16 }
  | .rtwrRb g a b c => some { Raw.of 5 0x1F g with a := a, b := b, c := c }
  | .rtwrDt g a b c => some { Raw.of 5 0x1F g with rm := 1, a := a, b := b, c := c }
  | .rtwrSr g a b c => some { Raw.of 5 0x1F g with rm := 2, a := a, b := b, c := c }
  | .spawn g d a b imm => some { Raw.of 6 0x00 g with d := d, a := a, b := b, imm := imm }
  | .reap g d a pd => some { Raw.of 6 0x01 g with d := d, a := a, x := pd.setWidth 16 }
  | .reapNb g d a pd => some { Raw.of 6 0x01 g with sat := true, d := d, a := a, x := pd.setWidth 16 }
  | .reapKill g d a pd => some { Raw.of 6 0x01 g with rm := 1, d := d, a := a, x := pd.setWidth 16 }
  | .yield g => some (Raw.of 6 0x02 g)
  | .sleep g d a => some { Raw.of 6 0x03 g with d := d, a := a }
  | .wake g a => some { Raw.of 6 0x04 g with a := a }
  | .wakeAll g => some { Raw.of 6 0x04 g with sat := true }
  | .rfork g d a b c imm => some { Raw.of 6 0x05 g with d := d, a := a, b := b, c := c.setWidth 6, imm := imm }
  | .join g a c imm => some { Raw.of 6 0x06 g with a := a, c := c.setWidth 6, imm := imm }
  | .knotSet g b mem => some { Raw.of 6 0x07 g with b := b, a := mem.idx, c := mem.sg.setWidth 6, imm := mem.disp }
  | .knotAdd g b mem => some { Raw.of 6 0x07 g with sat := true, b := b, a := mem.idx, c := mem.sg.setWidth 6, imm := mem.disp }
  | .knotHold g b mem => some { Raw.of 6 0x07 g with rm := 1, b := b, a := mem.idx, c := mem.sg.setWidth 6, imm := mem.disp }
  | .knotRd g d mem => some { Raw.of 6 0x07 g with rm := 1, sat := true, d := d, a := mem.idx, c := mem.sg.setWidth 6, imm := mem.disp }
  | .knotWait g d mem => some { Raw.of 6 0x07 g with rm := 2, d := d, a := mem.idx, c := mem.sg.setWidth 6, imm := mem.disp }
  | .launch g d mem => some { Raw.of 6 0x08 g with d := d, a := mem.idx, c := mem.sg.setWidth 6, imm := mem.disp }
  | .launchNb g d mem => some { Raw.of 6 0x08 g with sat := true, d := d, a := mem.idx, c := mem.sg.setWidth 6, imm := mem.disp }
  | .taskend g a => some { Raw.of 6 0x09 g with a := a }
  | .vstage g d => some { Raw.of 6 0x20 g with d := d }
  | .vpub g d a => some { Raw.of 6 0x21 g with d := d, a := a }
  | .vdiscard g d a => some { Raw.of 6 0x22 g with d := d, a := a }
  | .vretire g d a => some { Raw.of 6 0x24 g with d := d, a := a }
  | .vadopt g imm => some { Raw.of 6 0x23 g with imm := imm }
  | .vqry g d a => some { Raw.of 6 0x25 g with d := d, a := a }
  | .vqrySet g d => some { Raw.of 6 0x25 g with sat := true, d := d }
  | .sample g d b e mem => some { Raw.of 6 0x26 g with d := d, b := b, x := e.setWidth 16, a := mem.idx, c := mem.sg.setWidth 6, imm := mem.disp }
  | .trap g x => some { Raw.of 6 0x40 g with x := x }
  | .eret g => some (Raw.of 6 0x41 g)
  | .eretKill g a => some { Raw.of 6 0x41 g with sat := true, a := a }
  | .resume g => some (Raw.of 6 0x42 g)
  | .swpo g d a => some { Raw.of 6 0x43 g with d := d, a := a }
  | .swpoFar g d a b => some { Raw.of 6 0x43 g with sat := true, d := d, a := a, b := b }
  | .swpi g d a b => some { Raw.of 6 0x44 g with d := d, a := a, b := b }
  | .swpiQ g d a b => some { Raw.of 6 0x44 g with rm := 1, d := d, a := a, b := b }
  | .swpiFar g q d a b => some { Raw.of 6 0x44 g with sat := true, d := d, a := a, b := b, rm := bits3 false false q }
  | .stopCrew g d a => some { Raw.of 6 0x45 g with d := d, a := a }
  | .stopPart g d a => some { Raw.of 6 0x45 g with sat := true, d := d, a := a }
  | .stopGo g d a => some { Raw.of 6 0x45 g with rm := 1, d := d, a := a }
  | .rdrec g d a w => some { Raw.of 6 0x46 g with d := d, a := a, x := w.setWidth 16 }
  | .twin g d => some { Raw.of 6 0x47 g with d := d }
  | .twinNw g d => some { Raw.of 6 0x47 g with sat := true, d := d }
  | .segld g d a imm => some { Raw.of 6 0x48 g with d := d.setWidth 6, a := a, imm := imm }
  | .segldRd g d a w => some { Raw.of 6 0x48 g with sat := true, d := d, a := a.setWidth 6, x := w.setWidth 16 }
  | .segst g d a b c => some { Raw.of 6 0x49 g with d := d.setWidth 6, a := a, b := b, c := c }
  | .blay g d => some { Raw.of 6 0x4A g with d := d }
  | .blayW g d => some { Raw.of 6 0x4A g with sat := true, d := d }
  | .blayDeep g d => some { Raw.of 6 0x4A g with rm := 1, d := d }
  | .blq g d which => some { Raw.of 6 0x4B g with d := d, x := which.setWidth 16 }
  | .issueTurn .. => none
  | .lineFetch .. => none
  | .schedulerDecision .. => none
  | .swapComplete .. => none
  | .trapRecordArrival .. => none
  | .vccTick .. => none
  | .vccOverflow .. => none
  | .siteCounterTick .. => none
  | .sleepDeadline .. => none
  | .timedCommandStart .. => none
  | .untimedCommandStart .. => none
  | .engineLineMove .. => none
  | .barrierArrival .. => none
  | .engineOperationStart .. => none
  | .matrixLineFetch .. => none
  | .matrixOperationComplete .. => none
  | .linkWordArrival .. => none
  | .linkCreditReturn .. => none
  | .vaultRequestArrival .. => none
  | .vaultReplyArrival .. => none
  | .immediateWriteLanding .. => none
  | .reservationGrant .. => none
  | .eccScrub .. => none
  | .arrayEccUncorrectable .. => none
  | .phaseClose .. => none
  | .phaseLineApply .. => none
  | .phaseCloseComplete .. => none
  | .farRequestTranslate .. => none
  | .pageWalkComplete .. => none
  | .parkact .. => none
  | .parkingEnd .. => none
  | .gwinv .. => none
  | .gwinvDone .. => none
  | .homeWrite .. => none
  | .homeWriteRetry .. => none
  | .homePubl .. => none
  | .homeRead .. => none
  | .farAtomicAtHome .. => none
  | .farReplyArrival .. => none
  | .farMediaError .. => none
  | .commitNoticeAtHome .. => none
  | .hotnessDecay .. => none
  | .routerFlitForward .. => none
  | .meshLinkDown .. => none
  | .staticRouteFlitLanding .. => none
  | .messageReceive .. => none
  | .ackReceive .. => none
  | .nackFullReceive .. => none
  | .nackOrderReceive .. => none
  | .nackFencedReceive .. => none
  | .nackReplayReceive .. => none
  | .resendDelayExpiry .. => none
  | .rebindChangeResend .. => none
  | .retransmitTimeout .. => none
  | .hopArrival .. => none
  | .hopReply .. => none
  | .mcastReplicaLanding .. => none
  | .rebindFlood .. => none
  | .taskDispatch .. => none
  | .imageLoadComplete .. => none
  | .launchCut .. => none
  | .taskEnd .. => none
  | .heldBlockPost .. => none
  | .belayCut .. => none
  | .candidateAnswer .. => none
  | .cutStreamLine .. => none
  | .cutPrepared .. => none
  | .commitDecision .. => none
  | .cutApply .. => none
  | .regularCutDue .. => none
  | .watchdogFire .. => none
  | .residueMismatch .. => none
  | .machineCheck .. => none
  | .splice .. => none
  | .replayEnd .. => none
  | .haltComplete .. => none
  | .partitionReconfiguration .. => none
  | .deepBelayImageWritten => none
  | .deepRestore => none
  | .adoption .. => none
  | .versionHomeRequest .. => none
  | .fieldPowerLoss .. => none
  | .deviceReset => none
  | .powerGood => none
  | .stageOneEntry .. => none
  | .fieldJoin .. => none
  | .fieldGivenUp .. => none
  | .thermalThrottle .. => none
  | .thermalShutdown .. => none
  | .droopStretch .. => none
  | .marginReplan .. => none
  | .hbmRepairStart .. => none
  | .hbmRepairDone .. => none
  | .selfTestStart .. => none
  | .selfTestComplete .. => none
  | .cxlPortDown .. => none
  | .cxlPortUp .. => none
  | .folvibelLinkTrain .. => none
  | .folvibelLinkDown .. => none
  | .hlaunch .. => none
  | .hpubn .. => none
  | .herrClear .. => none
  | .hlresDropClear .. => none
  | .hostFarRead .. => none
  | .hostFarWrite .. => none
  | .functionLevelReset .. => none
  | .hirq .. => none
  | .devrst .. => none
  | .quiesce .. => none
  | .quiesceDone .. => none
  | .quiesceRelease .. => none
  | .qbootGo .. => none
  | .qbootCancel .. => none
  | .hbeatWrite .. => none
  | .verify => none
  | .measure => none
  | .commit => none
  | .revert => none
  | .crc32 => none
  | .trustOperationDone => none
  | .getVersion .. => none
  | .getCapabilities .. => none
  | .negotiateAlgorithms .. => none
  | .getDigests .. => none
  | .getCertificate .. => none
  | .challenge .. => none
  | .getMeasurements .. => none
  | .registerWrite .. => none
  | .giveComplete .. => none
  | .reclaimComplete .. => none
  | .immediateWriteAcknowledgement .. => none
  | .trapWindowAccessArrival .. => none
  | .logReplicaAcknowledgement .. => none
  | .versionAnswer .. => none

/-- Why a word is no instruction: cause 0x01 (R52) or cause 0x02 (R47). -/
inductive DecodeError where
  | illegal
  | reserved
  deriving DecidableEq, Repr

/-- A word is the instruction its FMT and OP name when that instruction is well formed and the word holds nothing
else: a nonzero unused field, an undefined modifier value or a register field out of range makes the encoded form
differ from the word, and the encoding is reserved (R47). -/
def decodeRaw (r : Raw) : Except DecodeError Instr :=
  match candidate r with
  | none => .error .illegal
  | some i => if i.wf && i.raw == some r then .ok i else .error .reserved

/-- Decode a 96-bit instruction word. -/
def decode (w : BitVec 96) : Except DecodeError Instr := decodeRaw (Raw.unpack w)

/-- The instruction word of a thread instruction. -/
def encode (i : Instr) : Option (BitVec 96) := i.raw.map Raw.pack

/-- The 96-bit word of twelve bytes, the lowest address first (R4, R31); missing bytes read as zero. -/
def wordOfBytes (bs : List Byte) : BitVec 96 :=
  BitVec.ofNat 96 ((bs.take 12).foldr (fun b n => n * 256 + b.toNat) 0)

/-- The twelve bytes of an instruction word, the lowest address first (R4, R31). -/
def bytesOfWord (w : BitVec 96) : List Byte :=
  (List.range 12).map (fun i => w.extractLsb' (8 * i) 8)

/-- Decode the bytes of one instruction as they lie in a fetch line. -/
def decodeBytes (bs : List Byte) : Except DecodeError Instr := decode (wordOfBytes bs)

/-- The instruction read from the bits `w` of an opcode-table row, laid out as the hardware stores them; bits above
`nbits` are zero. -/
def decodeTableWord (nbits w : Nat) : Option Instr :=
  match decodeBytes (bytesOfWord (BitVec.ofNat 96 (w % 2 ^ nbits))) with
  | .ok i => some i
  | .error _ => none

end Sys2Proof
end

