-- ==== Sys2Proof/Machine/Engine.lean ====
section
/-! DEFINITION. What the engines share: tensor entries and their addresses (R115-R120), arrival barriers (R123-R125), the
tag check (R122), the locations a command latches (R128) and the line moves of COPY, GATH and SCAT (R140, R141). -/

namespace Sys2Proof.Machine

namespace TsEnt

def fmtCode (e : TsEnt) : BitVec 5 := e.w1.extractLsb' 0 5

def ty (e : TsEnt) : Ty := Ty.ofCode e.fmtCode

def bits (e : TsEnt) : Nat := e.ty.bits

def scl (e : TsEnt) : Nat := (e.w1.extractLsb' 5 2).toNat

/-- NDIM: the number of dimensions minus 1. -/
def ndim (e : TsEnt) : Nat := (e.w1.extractLsb' 8 2).toNat

def swz (e : TsEnt) : Bool := e.w1.getLsbD 10

def ord (e : TsEnt) : Bool := e.w1.getLsbD 11

def unf (e : TsEnt) : Bool := e.w1.getLsbD 12

def vld (e : TsEnt) : Bool := e.w1.getLsbD 48

def wr (e : TsEnt) : Bool := e.w1.getLsbD 49

/-- DIMn: the extent minus 1. -/
def dim (e : TsEnt) (n : Nat) : Nat := (e.dims.extractLsb' (16 * n) 16).toNat

/-- STRn, n = 1 to 3. -/
def str (e : TsEnt) (n : Nat) : Int :=
  if n = 1 then (e.str12.extractLsb' 0 32).toInt else if n = 2 then (e.str12.extractLsb' 32 32).toInt
  else (e.w4.extractLsb' 0 32).toInt

def seq (e : TsEnt) : BitVec 16 := e.w4.extractLsb' 32 16

/-- Bytes of one row of dim 0. -/
def rowBytes (e : TsEnt) : Nat := (e.dim 0 + 1) * e.bits / 8

/-- Scale bytes of one block: 1 for MX, 2 for F4S (R116). -/
def scaleBytes (e : TsEnt) : Nat := if e.scl = 0 then 0 else e.scl

/-- Scale bytes of one row. -/
def rowScales (e : TsEnt) : Nat := (e.dim 0 + 1) / 32 * e.scaleBytes

/-- Word n of the entry (R137). -/
def word (e : TsEnt) (n : Nat) : Word :=
  match n with
  | 0 => e.base
  | 1 => e.w1
  | 2 => e.dims
  | 3 => e.str12
  | 4 => e.w4
  | 5 => e.sbase
  | 6 => e.w6
  | _ => e.bar

/-- An entry from the 64 bytes of a descriptor (R115). -/
def ofBytes (bs : List Byte) : TsEnt :=
  let w (n : Nat) : Word := BitVec.ofNat 64 (leNat ((bs.drop (8 * n)).take 8))
  ⟨w 0, w 1, w 2, w 3, w 4, w 5, w 6, w 7⟩

/-- A 64-byte chunk moved by the swizzle of row i1 (R117). -/
def chunk (i1 c : Nat) : Nat := c / 16 * 16 + (c % 16 ^^^ i1 % 16)

/-- The offset of byte b of a row after the swizzle (R117). -/
def place (e : TsEnt) (i1 b : Nat) : Nat := if e.swz then chunk i1 (b / 64) * 64 + b % 64 else b

/-- The offset of a row from BASE (R116). -/
def rowOff (e : TsEnt) (i1 i2 i3 : Nat) : Int := i1 * e.str 1 + i2 * e.str 2 + i3 * e.str 3

/-- The address of byte b of row (i1, i2, i3) (R116, R117). -/
def addr (e : TsEnt) (i : Nat × Nat × Nat) (b : Nat) : Word :=
  e.base + BitVec.ofInt 64 (e.rowOff i.1 i.2.1 i.2.2 + e.place i.1 b)

/-- The address of byte k of the scales of block (i0, i1, i2, i3) (R116). -/
def scaleAddr (e : TsEnt) (i0 : Nat) (i : Nat × Nat × Nat) (k : Nat) : Word :=
  let row := (i.2.2 * (e.dim 2 + 1) + i.2.1) * (e.dim 1 + 1) + i.1
  e.sbase + BitVec.ofNat 64 ((row * ((e.dim 0 + 1) / 32) + i0 / 32) * e.scaleBytes + k)

/-- The rows (i1, i2, i3) of an entry, i1 fastest. -/
def rows (e : TsEnt) : List (Nat × Nat × Nat) :=
  (List.range (e.dim 3 + 1)).flatMap (fun i3 => (List.range (e.dim 2 + 1)).flatMap (fun i2 =>
    (List.range (e.dim 1 + 1)).map (fun i1 => (i1, i2, i3))))

/-- The bytes of the whole entry and of its scales (R125). -/
def total (e : TsEnt) : Nat := (e.dim 1 + 1) * (e.dim 2 + 1) * (e.dim 3 + 1) * (e.rowBytes + e.rowScales)

/-- A geometry field of W6. -/
def geo (e : TsEnt) (at_ n : Nat) : Nat := (e.w6.extractLsb' at_ n).toNat

end TsEnt

/-- An arrival barrier (R123). -/
structure Barrier where
  exp : Nat
  pend : Nat
  tag : BitVec 16
  err : BitVec 8
  prk : Bool
  ph : Bool
  fadr : BitVec 32
  deriving DecidableEq, Repr

def Barrier.ofBytes (bs : List Byte) : Barrier :=
  let f := bs.getD 11 0
  ⟨leNat (bs.take 4), leNat ((bs.drop 4).take 4), BitVec.ofNat 16 (leNat ((bs.drop 8).take 2)), bs.getD 10 0, f.getLsbD 1,
    f.getLsbD 0, BitVec.ofNat 32 (leNat (bs.drop 12))⟩

def Barrier.bytes (b : Barrier) : List Byte :=
  leBytes 4 b.exp ++ leBytes 4 b.pend ++ leBytes 2 b.tag.toNat
    ++ [b.err, 0#6 ++ BitVec.ofBool b.prk ++ BitVec.ofBool b.ph] ++ leBytes 4 b.fadr.toNat

/-- The status word of BARW and BARQ (R124). -/
def Barrier.status (b : Barrier) : Word :=
  b.tag ++ 0#6 ++ BitVec.ofBool b.prk ++ BitVec.ofBool b.ph ++ b.err ++ BitVec.ofNat 32 b.pend

/-- arrive() of R125: the barrier after an arrival, and whether the round completed. -/
def Barrier.arrive (b : Barrier) (n : Nat) (tag : BitVec 16) (err : BitVec 8) (addr : BitVec 32) : Barrier × Bool :=
  let b := if err != 0 && b.err == 0 then { b with err, fadr := addr } else b
  let ended := decide (b.pend < n)
  let b := if ended && b.err == 0 then { b with err := 0x10 } else b
  let b := { b with pend := b.pend - min n b.pend }
  if b.pend = 0 then ({ b with ph := !b.ph, tag, pend := b.exp }, true) else (b, false)

/-- BARI (R144): PH, PRK and TAG are kept. -/
def Barrier.init (b : Barrier) (n : Nat) : Barrier := { b with exp := n, pend := n, err := 0, fadr := 0 }

namespace State

def barrier (s : State) (l : Loc) : Barrier := Barrier.ofBytes (s.readLoc l 16)

def setBarrier (s : State) (l : Loc) (b : Barrier) : State := s.writeLoc l b.bytes

/-- Contexts that wait in a way. -/
def waiters (s : State) (p : Wait → Bool) : List Nat := (s.ctxs.filter (fun e => e.2.used && p e.2.wait)).map Prod.fst

/-- Threads sleeping on a barrier in BARW wake and issue again (R125); a replay repeats the arrivals at their logged vcs (R301). -/
def wakeBar (s : State) (l : Loc) : State :=
  (s.waiters (fun w => match w with | .barw b => b == l | _ => false)).foldl (fun s k => s.reissue k) s

/-- An arrival at a barrier: a barrier update wakes the word's watchers and on completion the threads in BARW. -/
def arriveAt (s : State) (l : Loc) (n : Nat) (tag : BitVec 16) (err : BitVec 8) (addr : BitVec 32) : State :=
  let (b, completed) := (s.barrier l).arrive n tag err addr
  let s := (s.setBarrier l b).watchWake l 16 (enBytes 16)
  if completed then s.wakeBar l else s

/-- BARI takes effect at its barrier. -/
def initBar (s : State) (l : Loc) (n : Nat) : State := (s.setBarrier l ((s.barrier l).init n)).watchWake l 16 (enBytes 16)

/-- The vc a tile counts: the crew's copy, or the site counter of a tile of no crew (R481). -/
def tileVc (s : State) (t : Nat) : Nat := if (s.tile t).crew.isSome then (s.tile t).vcc else s.rcOf t

/-- The place of a vault address under a latched bank map, or the error an engine reports: RANGE for an alias address past the windows or
in a detached one; the R and W rights of the entry are not asked for (R126, R128; log entry 92). -/
def latched (s : State) (tile : Nat) (map : Tbl (BitVec 16)) (crew : Option Nat) (level : Nat) (a : Word) :
    Except (BitVec 8) Loc :=
  if spaceOf a == 0 then
    if a.extractLsb' 22 38 != 0 then .error 0x02
    else
      let m : BitVec 16 := Tbl.get 0 map (a.extractLsb' 17 5).toNat
      match s.neighbour tile (entDir m) with
      | some t => if entV m then .ok ⟨t, entBank m, (a.extractLsb' 0 17).toNat⟩ else .error 0x02
      | none => .error 0x02
  else if s.globalOk crew level tile a && decide ((a.extractLsb' 17 6).toNat < 48) then .ok (globalLoc a)
  else .error 0x11

/-- A byte of an engine transfer at an address (R86, R126). -/
def srcAt (s : State) (c : Cmd) (a : Word) : Src :=
  match spaceOf a with
  | 0 | 1 =>
    match s.latched (tileOfCtx c.ctx) c.map c.crew c.lvl.toNat a with
    | .ok l => .vault l
    | .error e => .bad e a
  | 2 => if a.extractLsb' 52 8 == 0 then .far a else .bad 0x02 a
  | 3 => if a.extractLsb' 52 8 == 0 then .far a else .bad 0x02 a
  | 6 => .far a
  | _ => .bad 0x02 a

end State

/-- The rows a command pairs: panel row, tensor row, the tensor's first element and whether the row lies in the tensor. -/
structure RowPair where
  p : Nat × Nat × Nat
  t : Nat × Nat × Nat
  o0 : Nat
  inside : Bool

/-- Whether element j0 of a row pair lies in the tensor (R140). -/
def rowInside (t : TsEnt) (r : RowPair) (i0 : Nat) : Bool := r.inside && decide (r.o0 + i0 ≤ t.dim 0)

/-- The rows of COPY (R140). -/
def copyRows (p t : TsEnt) (origin : Word) : List RowPair :=
  let o (n : Nat) : Nat := (origin.extractLsb' (16 * n) 16).toNat
  p.rows.map (fun i =>
    let j := (o 1 + i.1, o 2 + i.2.1, o 3 + i.2.2)
    ⟨i, j, o 0, decide (j.1 ≤ t.dim 1) && decide (j.2.1 ≤ t.dim 2) && decide (j.2.2 ≤ t.dim 3)⟩)

namespace State

/-- The element bytes of a row pair: read and written, or skipped (`none`), or zero-filled (R140, R141). -/
def rowElems (s : State) (c : Cmd) (p t : TsEnt) (out : Bool) (r : RowPair) : List (Src × Option Src) :=
  let off := r.o0 * p.bits / 8
  (List.range p.rowBytes).map (fun b =>
    let pa := s.srcAt c (p.addr r.p b)
    if rowInside t r (b * 8 / p.bits) then
      let ta := s.srcAt c (t.addr r.t (off + b))
      if out then (pa, some ta) else (ta, some pa)
    else if out then (pa, none) else (.const 0, some pa))

/-- The scale bytes of a row pair; a zero-filled block takes X = 0x7F and T = 0 (R140). -/
def rowScaleMoves (s : State) (c : Cmd) (p t : TsEnt) (out : Bool) (r : RowPair) : List (Src × Option Src) :=
  (List.range p.rowScales).map (fun b =>
    let blk := b / p.scaleBytes
    let k := b % p.scaleBytes
    let pa := s.srcAt c (p.scaleAddr (32 * blk) r.p k)
    if rowInside t r (32 * blk) then
      let ta := s.srcAt c (t.scaleAddr (r.o0 + 32 * blk) r.t k)
      if out then (pa, some ta) else (ta, some pa)
    else if out then (pa, none) else (.const (if k = 0 then 0x7F else 0), some pa))

end State

/-- The line that a byte of a transfer lies in; an address that no engine may name is none of them. -/
def srcLine : Src → Option (Nat × Nat × Nat)
  | .vault l => some (l.tile, l.bank, l.off / 64)
  | .far va => some (2 ^ 16, 0, va.toNat / 64)
  | .const _ => none
  | .bad _ a => some (2 ^ 17, 0, a.toNat)

/-- The line a byte move writes (R125, R133). -/
def toLine (b : Src × Option Src) : Option (Nat × Nat × Nat) := b.2.bind srcLine

/-- The line of the panel that a byte move touches: its source when the panel is moved out (R130). -/
def panelLine (out : Bool) (b : Src × Option Src) : Option (Nat × Nat × Nat) := if out then srcLine b.1 else toLine b

/-- A move with one more byte; skipped bytes count with it (R125). -/
def Move.add (m : Move) (b : Src × Option Src) : Move :=
  match b.2 with
  | some d => ⟨m.src ++ [b.1], m.dst ++ [d], m.n + 1⟩
  | none => { m with n := m.n + 1 }

/-- One more byte joins the last move when it goes with the same line. -/
def addByte (key : Src × Option Src → Option (Nat × Nat × Nat)) (ms : List (Option (Nat × Nat × Nat) × Move)) (b : Src × Option Src) :
    List (Option (Nat × Nat × Nat) × Move) :=
  match ms with
  | (k, m) :: rest =>
    if (key b).isNone || k.isNone || key b == k then (k.or (key b), m.add b) :: rest else (key b, Move.add ⟨[], [], 0⟩ b) :: ms
  | [] => [(key b, Move.add ⟨[], [], 0⟩ b)]

/-- Byte moves grouped into moves of a line each, in order. -/
def groupBy (key : Src × Option Src → Option (Nat × Nat × Nat)) (l : List (Src × Option Src)) : List (Option (Nat × Nat × Nat) × Move) :=
  (l.foldl (addByte key) []).reverse

/-- Byte moves grouped into line moves by the line they write: one arrival each (R125; log entry 92). -/
def groupMoves (l : List (Src × Option Src)) : List Move := (groupBy toLine l).map Prod.snd

/-- Insertion of a move in the order of its lines; a move of a line that stands there joins it. -/
def insMove (m : Nat × Move) (ms : List (Nat × Move)) : List (Nat × Move) :=
  match ms with
  | [] => [m]
  | x :: rest =>
    if m.1 == x.1 then (x.1, ⟨x.2.src ++ m.2.src, x.2.dst ++ m.2.dst, x.2.n + m.2.n⟩) :: rest
    else if m.1 < x.1 then m :: x :: rest else x :: insMove m rest

/-- The number of a line in ascending line order. -/
def lineRank (k : Option (Nat × Nat × Nat)) : Nat := match k with | some (t, b, l) => (t * 64 + b) * 2048 + l | none => 0

namespace State

/-- The line moves of a COPY: elements, then scales (R140). -/
def copyMoves (s : State) (c : Cmd) (p t : TsEnt) (out : Bool) (origin : Word) : List Move :=
  let rs := copyRows p t origin
  groupMoves (rs.flatMap (s.rowElems c p t out)) ++ groupMoves (rs.flatMap (s.rowScaleMoves c p t out))

/-- The moves of a timed COPY within the issuing tile: one for each line of the panel, in ascending panel line order (R130; log entry
92). -/
def exactMoves (s : State) (c : Cmd) (p t : TsEnt) (out : Bool) (origin : Word) : List Move :=
  let rs := copyRows p t origin
  let ms := groupBy (panelLine out) (rs.flatMap (s.rowElems c p t out)) ++ groupBy (panelLine out) (rs.flatMap (s.rowScaleMoves c p t out))
  (ms.foldl (fun acc m => insMove (lineRank m.1, m.2) acc) []).map Prod.snd

/-- The line moves of GATH and SCAT for an index list, which stops at a bad index when EDGE is 0 (R141). -/
def gathMoves (s : State) (c : Cmd) (p t : TsEnt) (out edge : Bool) (list : Word) (idx : List Int) : List Move :=
  match idx with
  | [] => []
  | x :: rest =>
    let i := p.dim 1 + 1 - idx.length
    let ok := decide (0 ≤ x) && decide (x ≤ t.dim 1)
    if !ok && !edge then [⟨[.bad 0x12 (list + BitVec.ofNat 64 (4 * i))], [.const 0], 0⟩]
    else
      let r : RowPair := ⟨(i, 0, 0), (x.toNat, 0, 0), 0, ok⟩
      groupMoves (s.rowElems c p t out r ++ s.rowScaleMoves c p t out r) ++ s.gathMoves c p t out edge list rest

end State

/-- The address ranges a command touches in its panel, its tensor and their scales (R128, R131): panel, then tensor. -/
def panelSpans (p : TsEnt) : List (Word × Nat) :=
  p.rows.flatMap (fun i => (p.base + BitVec.ofInt 64 (p.rowOff i.1 i.2.1 i.2.2), p.rowBytes)
    :: (if p.scl = 0 then [] else [(p.scaleAddr 0 i 0, p.rowScales)]))

def windowSpans (p t : TsEnt) (origin : Word) : List (Word × Nat) :=
  (copyRows p t origin).flatMap (fun r =>
    let n := min (p.dim 0 + 1) (t.dim 0 + 1 - r.o0)
    if r.inside && decide (0 < n) then
      (t.base + BitVec.ofInt 64 (t.rowOff r.t.1 r.t.2.1 r.t.2.2) + BitVec.ofNat 64 (r.o0 * t.bits / 8), n * t.bits / 8)
        :: (if t.scl = 0 then [] else [(t.scaleAddr r.o0 r.t 0, n / 32 * t.scaleBytes)])
    else [])

/-- One address in each window of a range of an alias or global vault address. -/
def spanWindows (r : Word × Nat) : List Word :=
  if spaceOf r.1 ≤ 1 then
    let k := (r.1.toNat % 2 ^ 17 + r.2 - 1) / 2 ^ 17
    r.1 :: (List.range k).map (fun i => r.1 + BitVec.ofNat 64 ((i + 1) * 2 ^ 17))
  else []

/-- The windows of a list of ranges, each once. -/
def allWindows (rs : List (Word × Nat)) : List Word :=
  rs.foldl (fun (acc : List Word) r => (spanWindows r).foldl (fun (acc : List Word) (a : Word) =>
    if acc.any (fun b => b >>> 17 == a >>> 17) then acc else acc ++ [a]) acc) []

/-- Where the tag of an entry's barrier stands (R122). -/
inductive TagState where
  | ready
  | pending
  | mismatch
  | err (code : BitVec 8)
  deriving DecidableEq, Repr

def tagState (b : Barrier) (q : BitVec 16) : TagState :=
  if b.err != 0 then .err b.err else if b.tag == q then .ready else if b.tag == q - 1 then .pending else .mismatch

namespace State

/-- The check of R122 for a reader that has latched an entry; a barrier address that no longer resolves is a mismatch (log entry 92). -/
def tagOf (s : State) (tile : Nat) (map : Tbl (BitVec 16)) (crew : Option Nat) (level : Nat) (e : TsEnt) : TagState :=
  if e.bar == 0 then .ready
  else match s.latched tile map crew level e.bar with
    | .ok l => tagState (s.barrier l) e.seq
    | .error _ => .mismatch

/-- The check of R122 for an untimed reader at issue. -/
def tagCheck (s : State) (e : TsEnt) : Except Stop Unit :=
  match s.tagOf s.cur.tile s.here.bmap s.view.crew s.level e with
  | .ready => .ok ()
  | .err code => .error (.trap (farCause code) e.bar)
  | _ => .error (.trap cSchedule e.bar)

/-- An immediate read of a word of the vault: the bank's bytes with no overlay; through a loop-back or lateral port the
group issues again when the reply has come (R144, R151). -/
def immRead (s : State) (a : Word) (l : Loc) (n : Nat) : Except Stop (List Byte × State) :=
  if s.isDirect a then do
    let s ← s.takeBank l.bank
    .ok (s.readLoc l n, s)
  else match s.takeReply with
    | some (v, s) => .ok (bytesOfVec n v, s)
    | none => .error (.again (s.sendRead a l n none))

end State

end Sys2Proof.Machine
end

