-- ==== Sys2Proof/Machine/Tensor.lean ====
section
/-! DEFINITION. Tensor-table, copy-engine and barrier instructions: TDEF, TGET, TSEQ (R135-R138), COPY, GATH, SCAT, PUBL
(R139-R142), BARI, BARW, BARQ (R143, R144), with the issue of a command into its queue (R128-R131, R157, R158). -/

namespace Sys2Proof.Machine

/-- MX element formats (R69). -/
def isMx (t : Ty) : Bool := t.isBlock && t != .f4s

/-- Space of an address that a descriptor may name (R115). -/
def tensorSpace (a : Word) : Bool := decide (spaceOf a ≤ 3) || spaceOf a == 6

/-- The checks of R119 on a descriptor. -/
def descOk (e : TsEnt) : Bool :=
  let c := e.fmtCode.toNat
  let low := decide (spaceOf e.base ≤ 1)
  e.w1.extractLsb' 48 16 == 0 && e.w1.extractLsb' 13 35 == 0 && e.w1.getLsbD 7 == false && e.w4.extractLsb' 48 16 == 0
    && e.w6.extractLsb' 60 4 == 0
    && c != 0 && c != 0x15 && decide (c < 0x17) && (e.scl == 2) == (e.ty == .f4s) && e.scl != 3
    && (e.scl != 1 || isMx e.ty)
    && (if e.scl = 0 then e.sbase == 0 else (e.dim 0 + 1) % 32 == 0)
    && (e.dim 0 + 1) * e.bits % 8 == 0
    && (List.range 4).all (fun n => decide (n ≤ e.ndim) || e.dim n == 0)
    && (!e.swz || e.base.toNat % 1024 == 0 && e.str 1 % 1024 == 0 && low)
    && (if e.unf then e.ndim == 2 && e.scl == 0 && !e.ord && low else e.w6 == 0)
    && tensorSpace e.base && tensorSpace e.sbase
    && (e.bar == 0 || decide (spaceOf e.bar ≤ 1) && e.bar.toNat % 16 == 0)

/-- The lowest and highest offset of a row's bytes after the swizzle of row r (R117, R120). -/
def rowSpan (e : TsEnt) (r : Nat) : Nat × Nat :=
  if e.swz then
    (List.range ((e.rowBytes + 63) / 64)).foldl (fun acc c =>
      let at_ := TsEnt.chunk r c * 64
      (min acc.1 at_, max acc.2 (at_ + min 64 (e.rowBytes - 64 * c) - 1))) (2 ^ 32, 0)
  else (0, e.rowBytes - 1)

/-- The byte span of a tensor (R120). -/
def tensorSpan (e : TsEnt) : Int × Int :=
  let ext (n : Nat) : Int := e.dim n * e.str n
  let lo23 := min 0 (ext 2) + min 0 (ext 3)
  let hi23 := max 0 (ext 2) + max 0 (ext 3)
  let base : Int := e.base.toNat
  (List.range (min 16 (e.dim 1 + 1))).foldl (fun acc r =>
    let s := rowSpan e r
    let a : Int := r * e.str 1
    let b : Int := (r + (e.dim 1 - r) / 16 * 16 : Nat) * e.str 1
    (min acc.1 (base + lo23 + min a b + s.1), max acc.2 (base + hi23 + max a b + s.2)))
    (base + lo23 + (rowSpan e 0).1, base + hi23 + (rowSpan e 0).2)

/-- The kind of segment that covers a space (R120). -/
def kindOfSpace (n : Nat) : Nat :=
  match n with
  | 0 => kAlias
  | 1 => kVault
  | 3 => kWeight
  | _ => kFar

/-- The lowest-numbered segment of a kind that covers a span (R120). -/
def State.coverSeg (s : State) (kinds : List Nat) (lo hi : Int) : Option Seg :=
  ((List.range 8).map (fun r => s.readSg (BitVec.ofNat 3 r))).find? (fun g =>
    kinds.contains g.kind && decide ((g.base.toNat : Int) ≤ lo) && decide (hi ≤ g.base.toNat + g.limit.toNat))

/-- A span checked by R120: covered, and readable. -/
def State.coverCheck (s : State) (a : Word) (lo hi : Int) : Except Stop Seg :=
  match s.coverSeg [kindOfSpace (spaceOf a)] lo hi with
  | none => .error (.trap cLimit a)
  | some g => if g.has rR then .ok g else .error (.trap cRights a)

def State.ent (s : State) (core : Nat) (r : BitVec 6) : TsEnt := Tbl.get {} (s.core core).ts r.toNat

def State.setEntry (s : State) (core : Nat) (r : BitVec 6) (e : TsEnt) : State :=
  s.modCore core (fun c => { c with ts := Tbl.set {} c.ts r.toNat e })

def execTdef (g : Guard) (d : BitVec 6) (mem : MemOp) (s : State) : Ans :=
  runThread g s (fun s => do
    let (a, l) ← s.vaultEA mem 64 [kAlias, kVault] rR false
    let (bs, s) ← s.loadBytes a l 64
    let e := TsEnt.ofBytes bs
    check (descOk e) cFormat a
    let (lo, hi) := tensorSpan e
    let g ← s.coverCheck e.base lo hi
    if e.scl = 0 then pure ()
    else do
      let n := (e.dim 1 + 1) * (e.dim 2 + 1) * (e.dim 3 + 1) * e.rowScales
      let _ ← s.coverCheck e.sbase e.sbase.toNat (e.sbase.toNat + n - 1 : Nat)
    .ok (s.setEntry s.myCore d { e with w1 := e.w1 ||| (1 <<< 48) ||| (if g.has rW then 1 <<< 49 else 0) }))

def execTget (g : Guard) (d a : BitVec 6) (w : BitVec 3) (s : State) : Ans :=
  runThread g s (fun s => .ok (s.writeX d ((s.ent s.myCore a).word w.toNat) 8))

/-- W4 with a new SEQ. -/
def withSeq (e : TsEnt) (q : BitVec 16) : TsEnt := { e with w4 := e.w4.extractLsb' 48 16 ++ q ++ e.w4.extractLsb' 0 32 }

/-- The TSEQ family: a valid entry changes (R138). -/
def tseqWith (g : Guard) (d : BitVec 6) (s : State) (ok : State → Bool) (f : State → TsEnt → TsEnt) : Ans :=
  runThread g s (fun s => do
    let e := s.ent s.myCore d
    check e.vld cFormat 0
    check (ok s) cFormat 0
    .ok (s.setEntry s.myCore d (f s e)))

def execTseq (g : Guard) (d a : BitVec 6) (imm : BitVec 32) (s : State) : Ans :=
  tseqWith g d s (fun _ => true) (fun s e => withSeq e ((s.readX a + imm.signExtend 64).setWidth 16))

def execTseqAdd (g : Guard) (d a : BitVec 6) (imm : BitVec 32) (s : State) : Ans :=
  tseqWith g d s (fun _ => true) (fun s e => withSeq e (e.seq + (s.readX a + imm.signExtend 64).setWidth 16))

def execTseqBar (g : Guard) (d a : BitVec 6) (imm : BitVec 32) (s : State) : Ans :=
  tseqWith g d s
    (fun s => s.readX a == 0 || decide (spaceOf (s.readX a) ≤ 1) && (s.readX a).toNat % 16 == 0)
    (fun s e => withSeq { e with bar := s.readX a } (imm.setWidth 16))

/-- A named entry (R131 step 1). -/
def State.named (s : State) (r : BitVec 6) (unfOk : Bool) : Except Stop TsEnt := do
  let e := s.ent s.myCore r
  check (e.vld && (unfOk || !e.unf)) cFormat 0
  pure e

/-- No alias window of the ranges is detached (R131 step 3). -/
def State.attachedAll (s : State) (rs : List (Word × Nat)) : Except Stop Unit :=
  match (allWindows rs).find? (fun a => spaceOf a == 0 && !entV (s.mapEnt s.myCore (a.extractLsb' 17 5).toNat)) with
  | some a => .error (.trap cDetached a)
  | none => .ok ()

/-- The barrier of a command (R131 steps 4 and 5). -/
def State.barCheck (s : State) (a : Word) (tile : Nat) : Except Stop Loc := do
  check (decide (spaceOf a ≤ 1)) cLimit a
  check (a.toNat % 16 == 0) cAlign a
  check (((List.range 8).map (fun r => s.readSg (BitVec.ofNat 3 r))).any (fun g =>
    (g.kind == kAlias || g.kind == kVault) && g.has rW && decide (g.base.toNat ≤ a.toNat)
      && decide (a.toNat + 15 ≤ g.base.toNat + g.limit.toNat))) cRights a
  check (s.vaultSpaceOk a) cLimit a
  let l ← s.resolve a true
  check (l.tile == tile) cFormat a
  pure l

/-- The tile of a destination address: the tile of a vault address, the issuing tile for far memory (R131 step 5). -/
def State.destTile (s : State) (a : Word) : Nat :=
  if spaceOf a == 0 then
    (s.neighbour s.cur.tile (entDir (s.mapEnt s.myCore (a.extractLsb' 17 5).toNat))).getD s.cur.tile
  else if spaceOf a == 1 then globalTile a else s.cur.tile

/-- The bank references of a command's ranges and barrier (R128). -/
def State.refsOf (s : State) (rs : List (Word × Nat)) (bar : Loc) : List (Nat × Nat) :=
  (allWindows rs).foldl (fun acc a =>
    match s.latched s.cur.tile s.here.bmap s.view.crew s.level a with
    | .ok l => if acc.contains (l.tile, l.bank) then acc else acc ++ [(l.tile, l.bank)]
    | .error _ => acc) [(bar.tile, bar.bank)]

/-- The version slot that a space-3 address resolves to (R374). -/
def State.weightSlot (s : State) (a : Word) (write : Bool) : Except Stop (Option Nat) :=
  if spaceOf a == 3 then
    let v := s.myTile.vview
    let st (i : Nat) : BitVec 2 := (Tbl.get {} (s.vset (v.set.getD 0)).slots i).st
    let slot := if write then v.staging.filter (fun i => st i == 1) else v.cur.filter (fun i => st i == 2 || st i == 3)
    if s.view.crew.isSome && v.set == some (a.extractLsb' 40 12).toNat && slot.isSome then .ok slot
    else .error (.trap cVersion 0)
  else .ok none

/-- The slot an entry's data and scales resolve to. -/
def State.entrySlot (s : State) (e : TsEnt) (write : Bool) : Except Stop (Option Nat) := do
  let a ← s.weightSlot e.base write
  let b ← s.weightSlot e.sbase write
  pure (a.or b)

/-- The global address of byte 0 of a bank (R158). -/
def bankAddr (tile bank : Nat) : Word := 1#4 ++ 0#12 ++ BitVec.ofNat 16 tile ++ 0#9 ++ BitVec.ofNat 6 bank ++ 0#17

/-- The start vc of a timed command: %tstart + IMM (R130). -/
def State.startVc (s : State) (imm : BitVec 32) : Nat := (s.myCrew.map Crew.tstart).getD 0 + imm.toNat

/-- R130 at issue: a crew, and a start vc that is still ahead. -/
def State.timedCheck (s : State) (imm : BitVec 32) : Except Stop Nat := do
  check s.view.crew.isSome cFormat 0
  check (decide (s.myVcc < s.startVc imm)) cTiming 0
  pure (s.startVc imm)

/-- The entry of the core's timing queue that the next timed command takes: the lowest free one (log entry 88). -/
def State.freeEntry (s : State) : Nat :=
  ((List.range 64).find? (fun n => s.here.tq.all (fun q => q.entry != n))).getD 0

/-- The first reservation that meets one already made (R158): its bank and holder. -/
def State.rsvConflict (s : State) (mine : List (Nat × Nat)) : Option (Nat × (Nat × Nat)) :=
  match mine with
  | [] => none
  | (b, g) :: rest =>
    match s.myTile.rsvd.find? (fun r => r.bank == b && r.cycle == g) with
    | some r => some (b, (r.core, r.entry))
    | none => if rest.contains (b, g) then some (b, (s.myCore, s.freeEntry)) else s.rsvConflict rest

/-- The reservations of a timed command (R158). -/
def State.rsvCheck (s : State) (mine : List (Nat × Nat)) : Except Stop Unit :=
  match s.rsvConflict mine with
  | some (b, h) => .error (.note cBank (bankAddr s.cur.tile b) false (some h))
  | none => .ok ()

/-- The banks that the vault bytes of a list lie in. -/
def banksOf (l : List Src) : List Nat :=
  l.foldl (fun acc x => match x with | .vault p => if acc.contains p.bank then acc else acc ++ [p.bank] | _ => acc) []

/-- The reservations of a timed COPY within the issuing tile (R157). -/
def copyRsv (start : Nat) (moves : List Move) : List (Nat × Nat) :=
  (moves.zipIdx.flatMap (fun m => (banksOf m.1.src).map (fun b => (b, 2 * start + m.2))))
    ++ moves.zipIdx.flatMap (fun m => (banksOf m.1.dst).map (fun b => (b, 2 * start + m.2 + 1)))

/-- A command enters its queue, or the group does not issue while the queue is full (R129). -/
def State.enqueue (s : State) (c : Cmd) (mine : List (Nat × Nat)) : Act :=
  let timed := c.start.isSome
  if (if timed then decide (64 ≤ s.here.tq.length) else decide (16 ≤ s.here.uq.length)) then .error .refuse
  else
    let c := { c with id := s.nextId, entry := if timed then s.freeEntry else 0 }
    let s1 : State := { s with nextId := s.nextId + 1 }
    let s2 := s1.modCore s.myCore (fun k => if timed then { k with tq := k.tq ++ [c] } else { k with uq := k.uq ++ [c] })
    .ok (if mine.isEmpty then s2
      else s2.modTile s.cur.tile (fun t => { t with rsvd := t.rsvd ++ mine.map (fun m => ⟨m.1, m.2, s.myCore, c.id, c.entry⟩) }))

/-- A command as the issuing thread latches it (R128). -/
def State.newCmd (s : State) (kind : CmdKind) (bar : Bar) (tag : BitVec 16) (refs : List (Nat × Nat)) : Cmd :=
  { id := 0, kind, bar, tag, map := s.here.bmap, ctx := s.myCtx, uid := s.view.uid, slot := s.cur.slot, unit := s.view.unit,
    lvl := s.view.lvl, crew := s.view.crew,
    refs }

/-- Whether a timed COPY moves only within the issuing tile's vault, elements and scales (R130). -/
def Cmd.exact (c : Cmd) : Bool :=
  match c.kind with
  | .copy p t .. => c.start.isSome && [p, t].all (fun e => decide (spaceOf e.base ≤ 1) && (e.scl == 0 || decide (spaceOf e.sbase ≤ 1)))
      && c.refs.all (fun r => r.1 == tileOfCtx c.ctx)
  | _ => false

/-- The shape checks of COPY (R140). -/
def copyShape (p t : TsEnt) (edge : Bool) (origin : Word) : Bool :=
  let o (n : Nat) : Nat := (origin.extractLsb' (16 * n) 16).toNat
  p.fmtCode == t.fmtCode && p.scl == t.scl && (p.scl == 0 || o 0 % 32 == 0)
    && (if p.bits = 6 then o 0 % 4 == 0 else if p.bits = 4 then o 0 % 2 == 0 else if p.bits = 1 then o 0 % 8 == 0 else true)
    && (edge || (List.range 4).all (fun n => decide (o n + p.dim n ≤ t.dim n)))

/-- What an untimed command still checks, and what a timed one: R131 steps 7 and 8. -/
def State.lateChecks (s : State) (tm : Bool) (imm : BitVec 32) (source : TsEnt) : Except Stop (Option Nat) :=
  if tm then do
    let v ← s.timedCheck imm
    pure (some v)
  else do
    s.tagCheck source
    pure none

def execCopy (g : Guard) (edge out tm : Bool) (d a b c : BitVec 6) (x : BitVec 16) (imm : BitVec 32) (s : State) : Ans :=
  runThread g s (fun s => do
    let ed ← s.named d false
    let ea ← s.named a false
    check ed.wr cRights 0
    let (p, t) := if out then (ea, ed) else (ed, ea)
    let spans := panelSpans p ++ windowSpans p t (s.readX b)
    s.attachedAll spans
    let bar ← s.barCheck (s.readX c) (s.destTile ed.base)
    check (copyShape p t edge (s.readX b)) cFormat 0
    let ver ← s.entrySlot ea false
    let verW ← s.entrySlot ed true
    let start ← s.lateChecks tm imm ea
    let cmd := { s.newCmd (.copy p t out edge (s.readX b)) (some bar) x (s.refsOf spans bar) with ver, verW, start }
    let mine := if cmd.exact then copyRsv (start.getD 0) (s.exactMoves cmd p t out (s.readX b)) else []
    s.rsvCheck mine
    s.enqueue cmd mine)

/-- The index list of GATH and SCAT (R141). -/
def State.listCheck (s : State) (a : Word) (n : Nat) : Except Stop Unit := do
  check (a.toNat % 4 == 0) cAlign a
  check (decide (spaceOf a ≤ 1)) cLimit a
  check (((List.range 8).map (fun r => s.readSg (BitVec.ofNat 3 r))).any (fun g =>
    (g.kind == kAlias || g.kind == kVault) && g.has rR && decide (g.base.toNat ≤ a.toNat)
      && decide (a.toNat + n - 1 ≤ g.base.toNat + g.limit.toNat))) cRights a

/-- The shape checks of GATH and SCAT (R141). -/
def gathShape (p t : TsEnt) : Bool :=
  p.fmtCode == t.fmtCode && p.scl == t.scl && decide (p.ndim ≤ 1) && decide (t.ndim ≤ 1) && p.dim 0 == t.dim 0

/-- GATH and SCAT share their issue; `out` says that the panel is the source (R141). -/
def gathIssue (edge out tm : Bool) (d a b c : BitVec 6) (x : BitVec 16) (imm : BitVec 32) (s : State) : Act := do
  let ed ← s.named d false
  let ea ← s.named a false
  check ed.wr cRights 0
  let (p, t) := if out then (ea, ed) else (ed, ea)
  let list := s.readX b
  let spans := panelSpans p ++ panelSpans t
  s.attachedAll spans
  let bar ← s.barCheck (s.readX c) (s.destTile ed.base)
  check (gathShape p t) cFormat 0
  s.listCheck list (4 * (p.dim 1 + 1))
  s.attachedAll [(list, 4 * (p.dim 1 + 1))]
  let ver ← s.entrySlot ea false
  let verW ← s.entrySlot ed true
  let start ← s.lateChecks tm imm ea
  s.enqueue { s.newCmd (.gath p t out edge list) (some bar) x (s.refsOf ((list, 4 * (p.dim 1 + 1)) :: spans) bar) with
    ver, verW, start } []

def execGath (g : Guard) (edge tm : Bool) (d a b c : BitVec 6) (x : BitVec 16) (imm : BitVec 32) (s : State) : Ans :=
  runThread g s (gathIssue edge false tm d a b c x imm)

def execScat (g : Guard) (edge tm : Bool) (d a b c : BitVec 6) (x : BitVec 16) (imm : BitVec 32) (s : State) : Ans :=
  runThread g s (gathIssue edge true tm d a b c x imm)

def execPubl (g : Guard) (tm : Bool) (a b c : BitVec 6) (x : BitVec 16) (imm : BitVec 32) (s : State) : Ans :=
  runThread g s (fun s => do
    let bar ← s.barCheck (s.readX c) s.cur.tile
    let start ← (if tm then do
        let v ← s.timedCheck imm
        pure (some v)
      else pure none : Except Stop (Option Nat))
    s.enqueue { s.newCmd (.publ (s.readX a) (s.readX b)) (some bar) x [(bar.tile, bar.bank)] with start } [])

def execBari (g : Guard) (b : BitVec 6) (mem : MemOp) (s : State) : Ans :=
  runThread g s (fun s => do
    let (a, l) ← s.vaultEA mem 16 [kAlias, kVault] rW true
    check (l.tile == s.cur.tile) cFormat a
    let n := ((s.readX b).extractLsb' 0 32).toNat
    check (n != 0 && decide (n ≤ 2 ^ 31)) cFormat a
    if s.isDirect a then do
      let s ← s.takeWrite l 16
      .ok (s.initBar l n)
    else
      let (id, s1) := s.addOut s.myCtx (.vault l.tile l.bank true) 1
      .ok (s1.send s.cur.tile l.tile 0 s.myCtx (vaultStream s.myCtx a) (.bari l (BitVec.ofNat 32 n) id)))

/-- BARW (R144): completes on the asked phase, parks on a parked request, else sleeps until the barrier completes. -/
def barw (nf : Bool) (d b : BitVec 6) (mem : MemOp) (s : State) : Act := do
  let (a, l) ← s.vaultEA mem 16 [kAlias, kVault] rR false
  check (l.tile == s.cur.tile) cFormat a
  let (_, s) ← s.immRead a l 16
  let w := s.barrier l
  if w.ph == (s.readX b).getLsbD 0 then
    if w.err != 0 && !nf then .error (.note (farCause w.err) a true none)
    else .ok (s.writeX d w.status 8)
  else if w.prk then .error (.sleep (.parkedBarw l))
  else .error (.sleep (.barw l))

def execBarw (g : Guard) (d b : BitVec 6) (mem : MemOp) (s : State) : Ans := runThread g s (barw false d b mem)

def execBarwNf (g : Guard) (d b : BitVec 6) (mem : MemOp) (s : State) : Ans := runThread g s (barw true d b mem)

def execBarq (g : Guard) (d : BitVec 6) (mem : MemOp) (s : State) : Ans :=
  runThread g s (fun s => do
    let (a, l) ← s.vaultEA mem 16 [kAlias, kVault] rR false
    let (bs, s) ← s.immRead a l 16
    .ok (s.writeX d (Barrier.ofBytes bs).status 8))

end Sys2Proof.Machine
end

