-- ==== Sys2Proof/Machine/Phase.lean ====
section
/-! DEFINITION. PHASE, FENCE, atomics and reservations (R294-R312). -/

namespace Sys2Proof.Machine

namespace State

/-- A core that holds no context of its crew in any state, one in its spill area no more than another (R295). -/
def coreEmpty (s : State) (crew core : Nat) : Bool :=
  s.ctxs.all (fun e => !(e.2.used && e.2.crew == some crew && coreOfCtx e.1 == core))

/-- The close vc, once every core of the crew has arrived: the common start vc of arrivals by PHASE.t, else the latest
arrival plus 64, which is recorded in the crew log (R295). -/
def closeVc (s : State) (crew : Nat) : Option (Nat × Bool) :=
  let arr := (s.crewTiles crew).flatMap (fun t => (List.range 4).map (fun c => Tbl.find (s.tile t).arr c))
  if arr.isEmpty || arr.any Option.isNone then none
  else
    let l := arr.filterMap id
    let top := l.foldl (fun m a => max m a.1) 0
    if l.all (fun a => a.2 && a.1 == top) then some (top, false) else some (top + 64, true)

/-- The next close vc that the crew log holds, in a replay (R421, R430). -/
def loggedClose (s : State) (crew : Nat) : Option Nat :=
  if s.replaying (s.crew crew).t0 then (s.crew crew).redo.findSome? (fun r => match r.ev with | .closeAt v => some v | _ => none)
  else none

/-- The close vc is set when the last core has arrived. -/
def settleClose (s : State) (crew : Nat) : State :=
  if (s.crew crew).closing.isSome then s
  else match s.closeVc crew with
    | some (v, true) =>
      let v := (s.loggedClose crew).getD v
      (s.modCrew crew (fun w => { w with closing := some v })).logEv (s.crew crew).t0 (.closeAt v) 0
    | some (v, false) => s.modCrew crew (fun w => { w with closing := some v })
    | none => s

/-- Whether a tile has reached the close its crew is heading for: an arrival then belongs to the next phase (R295). -/
def atClose (s : State) (crew t : Nat) : Bool := atStop (s.tile t).vcc (s.crew crew).closing

/-- A core arrives; a second arrival before the close joins the first (R295). -/
def arriveCore (s : State) (crew core vc : Nat) (timed : Bool) : State :=
  let t := tileOfCore core
  let join (a : Tbl (Nat × Bool)) : Tbl (Nat × Bool) :=
    if (Tbl.find a (core % 4)).isSome then a else Tbl.put a (core % 4) (vc, timed)
  if s.atClose crew t then s.modTile t (fun i => { i with arrNext := join i.arrNext })
  else (s.modTile t (fun i => { i with arr := join i.arr })).settleClose crew

/-- Cores that hold no context of the task arrive (R295). -/
def arriveEmpty (s : State) (crew : Nat) : State :=
  if (s.crew crew).st != .running then s
  else (s.crewTiles crew).foldl (fun s t => (List.range 4).foldl (fun s c =>
    if s.coreEmpty crew (coreKey t c) then s.arriveCore crew (coreKey t c) (s.tile t).vcc false else s) s) s

end State

def execPhase (g : Guard) (d : BitVec 6) (s : State) : Ans :=
  runThread g s (fun s =>
    match s.view.crew with
    | none => .error (.trap cFormat 0)
    | some c =>
      let ph := (s.crew c).dyn.phase + (if s.atClose c s.cur.tile then 1 else 0)
      .ok ((s.arriveCore c s.myCore s.myVcc false).await (.phase d ph)))

def execPhaseT (g : Guard) (imm : BitVec 32) (s : State) : Ans :=
  runThread g s (fun s => do
    let v ← s.timedCheck imm
    s.enqueue { s.newCmd .phase none 0 [] with start := some v } [])

/-- What a FENCE waits for (R304). -/
def State.fenceIds (s : State) (sc : Scope) : List Nat :=
  let me := s.myCtx
  let t := s.cur.tile
  let cores := match sc with | .tile => (List.range 4).map (coreKey t) | _ => [s.myCore]
  let own (k : OutKind) : Bool := match k with | .vault t' _ imm => imm && t' == t | _ => false
  let inMine (t' : Nat) : Bool := match s.view.crew with | some c => s.inCrew c t' | none => false
  let crew (k : OutKind) : Bool := match k with
    | .vault _ _ imm => imm
    | .msg t' remote => !remote && inMine t'
    | .mcast => true
    | _ => false
  let part (k : OutKind) : Bool := crew k || (match k with | .far remote => !remote | .msg _ remote => !remote | _ => false)
  let all (k : OutKind) : Bool := match k with | .vault _ _ imm => imm | _ => true
  (cores.flatMap (fun c => (s.core c).outs)).filterMap (fun o =>
    let mine := o.ctx == me
    if (match sc with
      | .slot => mine && own o.kind
      | .core | .tile => own o.kind
      | .crew => mine && crew o.kind
      | .part => mine && part o.kind
      | .sys => mine && all o.kind) then some o.id else none)

def execFence (g : Guard) (sc : Scope) (s : State) : Ans :=
  runThread g s (fun s =>
    match s.fenceIds sc with
    | [] => .ok s
    | ids => .ok (s.await (.fence ids)))

/-- The new value of AMO and RED, w bits wide (R307). -/
def amoNew (op : AmoOp) (ty : Ty) (old b cmp : Nat) : Nat :=
  let t := natTy ty
  let n := 2 ^ t.bits
  match op with
  | .add =>
    if t.isF then (roundTo t .rne false (exactSum false [valueOf t old, valueOf t b]).v).code else (old + b) % n
  | .and => old &&& b
  | .or => old ||| b
  | .xor => old ^^^ b
  | .min => (minMaxElem t false old b).code
  | .max => (minMaxElem t true old b).code
  | .swap => b
  | .cas => if old == cmp % n then b else old

/-- The bank lines that a tile's contention predictor holds, newest last (R303; log entry 88). -/
def predictorSize : Nat := 64

/-- A request of a tile on a line of a crew's vault: where another tile's came before it the predictor has an entry for the line (R303). -/
def State.meetLine (s : State) (l : Loc) (src : Nat) : State :=
  if (s.tile l.tile).crew.isNone then s
  else s.modTile l.tile (fun t =>
    let key := lineNo l.bank l.off
    let last := Tbl.get 0 t.lastSrc key
    let line := (l.bank, l.off / 64)
    let old := t.pred.filter (· != line)
    { t with
      lastSrc := Tbl.set 0 t.lastSrc key (src + 1)
      pred := if last != 0 && last != src + 1 || t.pred.contains line then (old ++ [line]).drop (old.length + 1 - predictorSize)
        else t.pred })

/-- AMO or RED at a word of a vault: the old value and the state after, the new value landing as an immediate-class write
(R310). -/
def State.amoAt (s : State) (ctx : Nat) (l : Loc) (op : AmoOp) (ty : Ty) (b cmp : Word) : Nat × State :=
  let n := tyBytes (natTy ty)
  let old := leNat (s.readLoc l n)
  let new := amoNew op ty old (b.toNat % 2 ^ (8 * n)) cmp.toNat
  (old, (s.meetLine l (tileOfCtx ctx)).landImm ctx l n (enBytes n) (BitVec.ofNat 512 new))

/-- Steps 1 to 3 of R308 on the address of AMO and RED, with the word's place for a vault word. -/
def State.amoEA (s : State) (m : MemOp) (n : Nat) : Except Stop (Word × Option Loc) :=
  match s.going with
  | some g => .ok (g.addr, g.loc)
  | none => do
    let a ← s.segEA m n [kAlias, kVault, kFar] (some rA)
    if decide (spaceOf a ≤ 1) then do
      check (s.vaultSpaceOk a) cLimit a
      check (a.toNat % n == 0) cAlign a
      let l ← s.resolve a true
      .ok (a, some l)
    else do
      check (spaceOf a == 6 || a.extractLsb' 52 8 == 0) cLimit a
      check (a.toNat % n == 0) cAlign a
      .ok (a, none)

/-- Whether an address lies on another wafer (R108). -/
def State.isRemote (s : State) (a : Word) : Bool := spaceOf a == 6 && a.extractLsb' 52 8 != s.sys.wnum

/-- The partition a context acts for: its crew's, or the one its tile lies in (R481). -/
def State.partOf (s : State) (k : Nat) : Nat :=
  match (s.ctx k).crew with
  | some c => (s.crew c).part
  | none => (s.partOfTile (tileOfCtx k)).getD 0

/-- Whether a request carries a sequence number (R105). -/
def isSeq (k : FarKind) : Bool :=
  match k with
  | .amo .. | .knot .. => true
  | _ => false

/-- The home that a numbered request goes to, as its core counts it: known once it is translated, before that what the tables say now. -/
def State.keyOf (s : State) (r : FarReq) : Option Nat :=
  match r.home with
  | some h => some (State.homeKey (if s.isRemote r.va then some (State.waferOf r.va) else none) h)
  | none => s.homeNow (s.gwOf (tileOfCore r.core)) r.part r.va

/-- A core's numbered operations to a home that are on their way, there and back (R105). -/
def State.seqOut (s : State) (core key : Nat) : Nat :=
  let mine (r : FarReq) : Bool := r.core == core && isSeq r.kind && s.keyOf r == some key
  s.net.countP (fun p => match p.body with
    | .far r | .home r .. | .reply r .. => mine r
    | _ => false) + (s.gw (s.gwOf (tileOfCore core))).walks.countP (fun w => mine w.req) + s.peers.countP (fun p => mine p.2)

/-- A core may have 32 far AMO and RED outstanding to one home; a further one waits in its thread (R105; log entry 90). -/
def State.farRoom (s : State) (a : Word) : Except Stop Unit :=
  match s.homeNow (s.gwOf s.cur.tile) (s.partOf s.myCtx) a with
  | some key => if 32 ≤ s.seqOut s.myCore key then .error .refuse else .ok ()
  | none => .ok ()

/-- A far request of a context leaves for its field's gateway (R27, R86); those that carry sequence numbers are counted as they leave. -/
def State.sendFar (s : State) (k : Nat) (a : Word) (kind : FarKind) (outId : Option Nat) : State :=
  let core := coreOfCtx k
  let r : FarReq := { id := s.nextId, ctx := k, core, crew := (s.ctx k).crew, part := s.partOf k,
                      va := a, kind, outId, uid := (s.ctx k).uid, from_ := s.rankOf k, unit := (s.ctx k).unit, ord := (s.core core).fissue }
  let s : State := { s with nextId := s.nextId + 1 }
  (if isSeq kind then s.modCore core (fun c => { c with fissue := c.fissue + 1 }) else s).sendTo (tileOfCtx k)
    (gwSite (fieldOf (s.siteOf (tileOfCtx k)))) 0 k (State.streamOf 4 core) (.far r)

/-- A request whose reply lets the group complete when it issues again (R97, R310). -/
def State.ask (s : State) (w : Wait) : Stop :=
  .again (s.modMe (fun c => { c with wait := w, asked := some w }))

def execAmo (g : Guard) (ty : Ty) (op : AmoOp) (d b : BitVec 6) (mem : MemOp) (s : State) : Ans :=
  runThread g s (fun s => do
    let t := natTy ty
    let (a, l) ← s.amoEA mem (tyBytes t)
    let x := s.readX b
    let cmp := s.readX d
    match l with
    | some l =>
      if s.isDirect a then do
        let s ← s.takeWrite l (tyBytes t)
        let (old, s) := s.amoAt s.myCtx l op ty x cmp
        .ok (s.writeX d (extend t old) 2)
      else match s.takeReply with
        | some (v, s) => .ok (s.writeX d (extend t (v.toNat % 2 ^ t.bits)) 2)
        | none =>
          let (id, s) := s.addOut s.myCtx (.vault l.tile l.bank true) 1
          .error ((s.send s.cur.tile l.tile 0 s.myCtx (vaultStream s.myCtx a) (.amo l op ty x cmp false id)
            |>.setGoing ⟨a, some l, none⟩).ask .amo)
    | none =>
      match s.takeReply with
      | some (v, s) => .ok (s.writeX d (extend t (v.toNat % 2 ^ t.bits)) 2)
      | none =>
        if s.me.asked.isSome then .error (.sleep .amo)
        else do
          s.farRoom a
          .error (((s.sendFar s.myCtx a (.amo op ty x cmp false none) none).setGoing ⟨a, none, none⟩).ask .amo))

def execRed (g : Guard) (ty : Ty) (op : AmoOp) (b : BitVec 6) (mem : MemOp) (s : State) : Ans :=
  runThread g s (fun s => do
    let (a, l) ← s.amoEA mem (tyBytes (natTy ty))
    let x := s.readX b
    match l with
    | some l =>
      if s.isDirect a then do
        let s ← s.takeWrite l (tyBytes (natTy ty))
        .ok (s.amoAt s.myCtx l op ty x 0).2
      else
        let (id, s) := s.addOut s.myCtx (.vault l.tile l.bank true) 1
        .ok (s.send s.cur.tile l.tile 0 s.myCtx (vaultStream s.myCtx a) (.amo l op ty x 0 true id))
    | none => do
      s.farRoom a
      let (id, s) := s.addOut s.myCtx (.far (s.isRemote a)) 1
      .ok (s.sendFar s.myCtx a (.amo op ty x 0 true none) (some id)))

/-- The reservation of a word (R311). -/
def State.resvOf (s : State) (l : Loc) : Option Resv :=
  (s.tile l.tile).resv.find? (fun r => r.bank == l.bank && r.off == l.off)

/-- Who holds a reservation: the head of its queue. -/
def State.holderOf (s : State) (l : Loc) : Option Nat := (s.resvOf l).bind (fun r => r.queue.head?)

/-- The reservations a context holds, over the device (R311). -/
def State.heldCount (s : State) (k : Nat) : Nat :=
  (s.tiles.map (fun e => (e.2.resv.filter (fun r => r.queue.head? == some k)).length)).foldl (· + ·) 0

/-- The class a thread runs in: that of its rescue (R404), 7 for a handler that is resident (R393), else %prio. -/
def State.classOf (s : State) (k : Nat) : Nat :=
  if (s.core (coreOfCtx k)).handler == some k && (s.slotOf k).isSome then 7
  else match (s.ctx k).rescue with
  | some (p, _) => if (s.ctx k).rsc then p.toNat else (s.ctx k).prio.toNat
  | none => (s.ctx k).prio.toNat

/-- A waiter of a higher class asks for the rescue of a holder outside a slot (R404). -/
def State.askRescue (s : State) (l : Loc) (k : Nat) : State :=
  match s.holderOf l with
  | some h =>
    let c := s.ctx h
    if h != k && (s.slotOf h).isNone && !c.frz && !c.held && decide (s.classOf h < s.classOf k) then
      s.modCtx h (fun c => { c with rescue := some (BitVec.ofNat 3 (s.classOf k), l) })
    else s
  | none => s

/-- How an LRW that reaches the table fares (R311). -/
inductive LrwOut where
  | bad
  | full
  | joined (head : Bool)
  deriving DecidableEq, Repr

def State.lrwOut (s : State) (l : Loc) (k : Nat) : LrwOut :=
  match s.resvOf l with
  | some r =>
    if r.queue.contains k then .bad else if 8 ≤ r.queue.length ∨ 4 ≤ s.heldCount k then .full else .joined r.queue.isEmpty
  | none => if 256 ≤ (s.tile l.tile).resv.length ∨ 4 ≤ s.heldCount k then .full else .joined true

/-- Joining the queue of a word (R311). -/
def State.joinResv (s : State) (l : Loc) (k : Nat) : State :=
  let s1 := s.modTile l.tile (fun t =>
    if (s.resvOf l).isSome then
      { t with resv := t.resv.map (fun r => if r.bank == l.bank && r.off == l.off then { r with queue := r.queue ++ [k] } else r) }
    else { t with resv := t.resv ++ [⟨l.bank, l.off, [k]⟩] })
  s1.askRescue l k

/-- A predicate register of any context. -/
def State.putP (s : State) (k : Nat) (p : BitVec 3) (v : Bool) : State :=
  if p == 0 then s
  else s.modCtx k (fun c => { c with p := (c.p &&& ~~~(1#8 <<< p.toNat)) ||| (BitVec.ofBool v).setWidth 8 <<< p.toNat })

/-- A context leaves the queue of a word; when it was the holder the grant travels to the next (R311, R312). -/
def State.leaveResv (s : State) (l : Loc) (k : Nat) : State :=
  match s.resvOf l with
  | none => s
  | some r =>
    let q := r.queue.erase k
    let here (r : Resv) : Bool := r.bank == l.bank && r.off == l.off
    let keep (rs : List Resv) : List Resv :=
      if q.isEmpty then rs.filter (fun r => !here r) else rs.map (fun r => if here r then { r with queue := q } else r)
    let s1 := s.modTile l.tile (fun t => { t with resv := keep t.resv })
    match r.queue, q with
    | h :: _, n :: _ =>
      if h == k then
        ((s1.logEv l.tile (.handoff l.tile l.bank l.off n) 0).send l.tile (tileOfCtx n) 2 n 0 (.grant l n))
      else s1
    | _, _ => s1

/-- Every place of a retiring context in a queue is released (R312). -/
def State.leaveAll (s : State) (k : Nat) : State :=
  (s.tiles.flatMap (fun e => (e.2.resv.filter (fun r => r.queue.contains k)).map (fun r => (⟨e.1, r.bank, r.off⟩ : Loc)))).foldl
    (fun s l => s.leaveResv l k) s

/-- The address checks of LRW, SCH and RELQ (R308). -/
def State.resvEA (s : State) (m : MemOp) (write : Bool) : Except Stop (Word × Loc) :=
  s.vaultEA m 8 [kAlias, kVault] (if write then rW else rR) write

/-- A holder's LRW completes with the word and 1 (R311). -/
def State.lrwDone (s : State) (l : Loc) (k : Nat) (d : BitVec 6) (p : BitVec 3) : State :=
  (s.putP k p true).completeX k d (BitVec.ofNat 64 (leNat (s.readLoc l 8))) 8

def execLrw (g : Guard) (d : BitVec 6) (pd : BitVec 3) (mem : MemOp) (s : State) : Ans :=
  runThread g s (fun s => do
    let (a, l) ← s.resvEA mem false
    if s.isDirect a then
      match s.lrwOut l s.myCtx with
      | .bad => .error (.trap cFormat a)
      | .full => if pd == 0 then .error (.trap cReserve a) else .ok (s.writeP pd false)
      | .joined head =>
        if head then
          (s.takeBank l.bank).map (fun s =>
            ((s.joinResv l s.myCtx).writeP pd true).writeX d (BitVec.ofNat 64 (leNat (s.readLoc l 8))) 8)
        else .ok ((s.joinResv l s.myCtx).await (.lrw l d pd))
    else .ok ((s.send s.cur.tile l.tile 0 s.myCtx (vaultStream s.myCtx a) (.lrw l)).await (.lrw l d pd)))

/-- A context that holds a word and has not already let it go (R311). -/
def State.holds (s : State) (l : Loc) (k : Nat) : Bool :=
  s.holderOf l == some k && s.net.all (fun q => q.ctx != k || (match q.body with
    | .sch l' _ _ => l' != l
    | .relq l' _ => l' != l
    | _ => true))

/-- Rescue ends when the holder runs SCH or RELQ on the word (R404). -/
def State.endRescue (s : State) (l : Loc) (k : Nat) : State :=
  s.modCtx k (fun c => match c.rescue with
    | some (_, l') => if l' == l then { c with rescue := none, rsc := false } else c
    | none => c)

def execSch (g : Guard) (b : BitVec 6) (mem : MemOp) (s : State) : Ans :=
  runThread g s (fun s => do
    let (a, l) ← s.resvEA mem true
    check (s.holds l s.myCtx) cFormat a
    let x := s.readX b
    if s.isDirect a then do
      let s ← s.takeWrite l 8
      .ok (((s.landImm s.myCtx l 8 (enBytes 8) (x.setWidth 512)).endRescue l s.myCtx).leaveResv l s.myCtx)
    else
      let (id, s) := s.addOut s.myCtx (.vault l.tile l.bank true) 1
      .ok ((s.send s.cur.tile l.tile 0 s.myCtx (vaultStream s.myCtx a) (.sch l x id)).endRescue l s.myCtx))

def execRelq (g : Guard) (mem : MemOp) (s : State) : Ans :=
  runThread g s (fun s => do
    let (a, l) ← s.resvEA mem false
    check (s.holds l s.myCtx) cFormat a
    if s.isDirect a then .ok ((s.endRescue l s.myCtx).leaveResv l s.myCtx)
    else
      let (id, s) := s.addOut s.myCtx (.vault l.tile l.bank false) 1
      .ok ((s.send s.cur.tile l.tile 0 s.myCtx (vaultStream s.myCtx a) (.relq l id)).endRescue l s.myCtx))

end Sys2Proof.Machine
end

