-- ==== Sys2Proof/Machine/Frame.lean ====
section
/-! DEFINITION. Contexts as the core keeps them: the context frame (R334, R395), context numbers and slots, creation (R313,
R351, R359), the dealing of units (R350), retiring (R366), and swaps with the core's decision (R336-R338, R393, R404). -/

namespace Sys2Proof.Machine

/-- The sleeping states of R331. -/
def Wait.sleeping (w : Wait) : Bool :=
  match w with
  | .sleep .. | .knotWait | .ibpop _ | .barw _ | .link _ | .twin => true
  | _ => false

/-- The interruptible waits of R401. -/
def Wait.interruptible (w : Wait) : Bool :=
  w.sleeping || (match w with
    | .give .. | .reclaim .. | .drain _ | .drainBank .. | .fence _ | .phase .. | .lrw .. | .launch .. | .reap ..
    | .blayW .. | .blayDeep _ => true
    | _ => false)

/-- The state word of a frame (R395). -/
def stateWord (c : Ctx) : Word :=
  0#5 ++ BitVec.ofBool c.rsc ++ BitVec.ofBool c.frz ++ BitVec.ofBool c.held ++ BitVec.ofNat 6 c.wait.code
    ++ BitVec.ofBool c.rcv ++ c.ridx ++ c.segs ++ BitVec.ofBool c.el ++ c.lvl ++ BitVec.ofBool c.rdy
    ++ c.p.extractLsb' 1 7 ++ c.s.nul ++ c.prio ++ c.unit

/-- The three words of a descriptor. -/
def Seg.bytes (g : Seg) : List Byte := leBytes 8 g.base.toNat ++ leBytes 8 g.limit.toNat ++ leBytes 8 g.attr.toNat

/-- The first 2,368 bytes of a frame (R395). -/
def frameHead (c : Ctx) : List Byte :=
  leBytes 8 (stateWord c).toNat
    ++ (List.range 31).flatMap (fun i => leBytes 8 (Tbl.get 0 c.x (i + 1)).toNat)
    ++ (List.range 32).flatMap (fun i => leBytes 64 (Tbl.get 0 c.v i).toNat)
    ++ leBytes 8 c.s.pc.toNat ++ leBytes 8 c.s.npc.toNat ++ leBytes 8 c.s.nnpc.toNat
    ++ (List.range 7).flatMap (fun i => leBytes 2 (Tbl.get 0 c.m (i + 1)).toNat)
    ++ leBytes 2 c.fst.toNat ++ leBytes 8 c.mxc.toNat ++ leBytes 8 c.rkey.toNat
    ++ (List.range 8).map (fun i => Tbl.get 0 c.sgsrc i)

/-- The bytes of a list from an offset. -/
def slice (bs : List Byte) (at_ n : Nat) : List Byte := (bs.drop at_).take n

def word64 (bs : List Byte) (at_ : Nat) : Word := BitVec.ofNat 64 (leNat (slice bs at_ 8))

namespace State

/-- Where the frame of a context lies (R334). -/
def frameLoc (k : Nat) : Loc := ⟨tileOfCtx k, 48 + 2 * (coreOfCtx k % 4) + k % 64 / 32, k % 32 * 0xA00⟩

/-- The frame area of a context as it is now: extension words of registers held elsewhere keep their stored bytes. -/
def frameBytes (s : State) (k : Nat) : List Byte :=
  let c := s.ctx k
  let l := frameLoc k
  frameHead c ++ (List.range 8).flatMap (fun i =>
    if Tbl.get 0 c.sgsrc i == 0xFF then (Tbl.get {} c.sg i).bytes
    else s.readLoc { l with off := l.off + 0x940 + 24 * i } 24)

/-- Entry n of a segment set as a core holds it: from its set cache, else from bank 55 (R182, R395). -/
def segEntry (s : State) (core : Nat) (segs : BitVec 4) (n : Nat) : Seg :=
  match Tbl.find (s.core core).setc (segs.toNat * 64 + n) with
  | some g => g
  | none => segOfBytes (s.readLoc (setEntryLoc (tileOfCore core) segs n) 24)

/-- A context with the bytes of a frame: what a frame's writes can change (R395).  `lvl` is the level to keep. -/
def withFrame (s : State) (k : Nat) (c : Ctx) (bs : List Byte) (lvl : BitVec 2) : Ctx :=
  let w := word64 bs 0
  let src (i : Nat) : Byte := bs.getD (0x938 + i) 0
  let regs := List.range 8
  { c with
    x := (List.range 31).foldl (fun t i => Tbl.set 0 t (i + 1) (word64 bs (8 + 8 * i))) c.x
    v := (List.range 32).foldl (fun t i => Tbl.set 0 t i (BitVec.ofNat 512 (leNat (slice bs (0x100 + 64 * i) 64)))) c.v
    m := (List.range 7).foldl (fun t i => Tbl.set 0 t (i + 1) (BitVec.ofNat 16 (leNat (slice bs (0x918 + 2 * i) 2)))) c.m
    s := ⟨word64 bs 0x900, word64 bs 0x908, word64 bs 0x910, w.extractLsb' 27 2⟩
    fst := writeFst c.fst (BitVec.ofNat 16 (leNat (slice bs 0x926 2)))
    mxc := BitVec.ofNat 48 (leNat (slice bs 0x928 6))
    rkey := word64 bs 0x930
    p := (w.extractLsb' 29 7 ++ 0#1)
    prio := w.extractLsb' 24 3
    unit := w.extractLsb' 0 24
    lvl
    sgsrc := regs.foldl (fun t i => if src i < 64 || src i == 0xFF then Tbl.set 0 t i (src i) else t) c.sgsrc
    sg := regs.foldl (fun t i =>
      if src i == 0xFF then Tbl.set {} t i (segOfBytes (slice bs (0x940 + 24 * i) 24))
      else if src i < 64 then Tbl.set {} t i (s.segEntry (coreOfCtx k) c.segs (src i).toNat) else t) c.sg }

/-- Saving a context: its frame lines, and the extension lines when a register is held there (R338, R395). -/
def saveFrame (s : State) (k : Nat) : State :=
  let bs := s.frameBytes k
  let ext := (List.range 8).any (fun i => Tbl.get 0 (s.ctx k).sgsrc i == 0xFF)
  (s.writeLoc (frameLoc k) (if ext then bs else bs.take 0x940)).modCtx k (fun c => { c with frame := bs })

/-- Bytes that were changed in a stored frame since it was saved take the stored value. -/
def mergeFrame (old stored now : List Byte) : List Byte :=
  now.mapIdx (fun i b => if old.getD i 0 == stored.getD i 0 then b else stored.getD i 0)

/-- Reading a context back from stored bytes: what was changed in them enters the context. -/
def loadBytesInto (s : State) (k : Nat) (stored : List Byte) : State :=
  let c := s.ctx k
  if c.frame.isEmpty || c.frame == stored then s.modCtx k (fun c => { c with frame := [] })
  else
    let c' := s.withFrame k c (mergeFrame c.frame stored (s.frameBytes k)) c.lvl
    s.setCtx k { c' with frame := [] }

/-- Loading a context from its frame (R338). -/
def loadFrame (s : State) (k : Nat) : State := s.loadBytesInto k (s.readLoc (frameLoc k) 0xA00)

/-- The vc of a context's crew, or its site counter (R336, R481). -/
def ageOf (s : State) (k : Nat) : Int := (s.vccOf k : Int) - (s.ctx k).since

/-- A slot that a swap is filling or emptying. -/
def swapping (s : State) (core slot : Nat) : Bool := (s.core core).swaps.any (fun w => w.slot == slot)

/-- A context that a swap moves. -/
def inSwap (s : State) (k : Nat) : Bool :=
  (s.core (coreOfCtx k)).swaps.any (fun w => w.out == some k || w.inn == some k)

def slotEmpty (s : State) (core slot : Nat) : Bool := (s.inSlot core slot).isNone && !s.swapping core slot

/-- The contexts of a core. -/
def ctxsOf (s : State) (core : Nat) : List Nat :=
  ((List.range 64).map (ctxKey core)).filter (fun k => (s.ctx k).used)

/-- A free context number of a core, the lowest (log entry 12). -/
def freeNum (s : State) (core : Nat) : Option Nat := (List.range 64).find? (fun n => !(s.ctx (ctxKey core n)).used)

/-- A context enters a slot. -/
def putSlot (s : State) (core slot k : Nat) : State :=
  (s.modCore core (fun c => { c with slots := Tbl.set 0 c.slots slot (k % 64 + 1) })).modCtx k
    (fun c => { c with lastSlot := some slot, resid := s.vccOf k })

/-- A slot empties. -/
def clearSlot (s : State) (core slot : Nat) : State :=
  s.modCore core (fun c => { c with slots := Tbl.set 0 c.slots slot 0 })

end State

/-- The resume state of a stream that starts at E; npc and nnpc are formed at its first turn (R313). -/
def startS (e : Word) : Resume := ⟨e, nextAddr e 1, nextAddr (nextAddr e 1) 1, 0⟩

namespace State

/-- sg0-sg7 of a new context: registers with G from the creator, the rest from set entries 1-8 (R351, R359). -/
def newSegs (s : State) (core : Nat) (segs : BitVec 4) (giver : Option Ctx) : Tbl Seg × Tbl (BitVec 8) :=
  (List.range 8).foldl (fun t i =>
    match giver.bind (fun g => if (Tbl.get {} g.sg i).has 8 then some g else none) with
    | some g => (Tbl.set {} t.1 i (Tbl.get {} g.sg i), Tbl.set 0 t.2 i (Tbl.get 0 g.sgsrc i))
    | none => (Tbl.set {} t.1 i (s.segEntry core segs (i + 1)), Tbl.set 0 t.2 i (BitVec.ofNat 8 (i + 1)))) ([], [])

/-- A context that SPAWN or RFORK creates on a core (R359, R363). -/
def childCtx (s : State) (core : Nat) (parent : Ctx) (target : Word) (args : List Word) : Ctx :=
  let (sg, sgsrc) := s.newSegs core parent.segs (some parent)
  { used := true, uid := s.nextId, s := startS target, fresh := true, sg, sgsrc, code := parent.code, segs := parent.segs,
    prio := parent.prio, unit := parent.unit, fst := parent.fst, rkey := parent.rkey, lvl := parent.lvl, el := parent.el,
    swx := parent.swx, crew := parent.crew
    x := (args.zipIdx).foldl (fun t a => Tbl.set 0 t (a.2 + 1) a.1) [] }

/-- A new context under a free number of a core, in a slot or waiting with age 0. -/
def addCtx (s : State) (core num : Nat) (slot : Option Nat) (c : Ctx) : State :=
  let k := ctxKey core num
  let s1 := ({ s with nextId := s.nextId + 1 }.setCtx k { c with uid := s.nextId })
  match slot with
  | some j => s1.putSlot core j k
  | none => s1.modCtx k (fun c => { c with since := s1.vccOf k })

/-- The places of a crew (R350). -/
def places (w : Crew) : Nat := w.blk.cols * w.blk.rows * 4 * w.blk.slots

/-- The core of a place. -/
def placeCore (w : Crew) (q : Nat) : Nat := coreKey (w.t0 + q / w.blk.slots / 4) (q / w.blk.slots % 4)

/-- The unit a place runs next (R350). -/
def placeUnit (w : Crew) (q : Nat) : Nat := q + places w * Tbl.get 0 w.dyn.next q

def modDyn (s : State) (crew : Nat) (f : CrewDyn → CrewDyn) : State :=
  s.modCrew crew (fun w => { w with dyn := f w.dyn })

/-- A dealt context (R351). -/
def dealtCtx (s : State) (crew q : Nat) : Ctx :=
  let w := s.crew crew
  let core := placeCore w q
  let (sg, sgsrc) := s.newSegs core w.blk.segs none
  { used := true, s := startS w.blk.entry, fresh := true, sg, sgsrc, code := s.segEntry core w.blk.segs 0,
    segs := w.blk.segs, prio := w.blk.prio, unit := BitVec.ofNat 24 (placeUnit w q), el := w.el, swx := w.swx,
    crew := some crew, place := some q
    x := (w.blk.args.zipIdx).foldl (fun t a => Tbl.set 0 t (a.2 + 1) a.1) [] }

/-- A place's next unit is created, if it has one: in the slot given, outside a slot, or left waiting for a context number
(R350). -/
def deal (s : State) (crew q slot : Nat) : State :=
  let w := s.crew crew
  if placeUnit w q < w.blk.units then
    let core := placeCore w q
    match s.freeNum core with
    | none => s.modDyn crew (fun d => { d with waitq := d.waitq ++ [(q, slot)] })
    | some n =>
      (s.addCtx core n (if s.slotEmpty core slot then some slot else none) (s.dealtCtx crew q)).modDyn crew
        (fun d => { d with next := Tbl.set 0 d.next q (Tbl.get 0 d.next q + 1) })
  else s

/-- A unit that waits for a context number of its core gets one (R350). -/
def dealFrom (s : State) (crew : Nat) (x : Nat × Nat) : State :=
  (s.modDyn crew (fun d => { d with waitq := d.waitq.erase x })).deal crew x.1 x.2

/-- A freed context number of a core goes to a unit that waits for one, before any other use (R350); the vc is recorded, and a replay keeps
to it. -/
def dealWaiting (s : State) (core : Nat) : State :=
  match (s.tile (tileOfCore core)).crew with
  | none => s
  | some crew =>
    let w := s.crew crew
    match w.dyn.waitq.find? (fun x => placeCore w x.1 == core) with
    | none => s
    | some x =>
      if s.redoAhead (tileOfCore core) (· == .created x.1) then s
      else (s.dealFrom crew x).logEv (tileOfCore core) (.created x.1) 0

/-- Setting an exit register with exit-pending (R360, R366). -/
def setExit (s : State) (core slot : Nat) (v : Word) : State :=
  s.modCore core (fun c => { c with exitv := Tbl.set 0 c.exitv slot v, exitp := c.exitp ||| 1#16 <<< slot })

/-- REAP takes an exit value: x[D], p[X] = 1, pending cleared (R360). -/
def takeExit (s : State) (k core slot : Nat) (d : BitVec 6) (p : BitVec 3) : State :=
  let v := Tbl.get 0 (s.core core).exitv slot
  let s := s.modCore core (fun c => { c with exitp := c.exitp &&& ~~~(1#16 <<< slot) })
  (s.putP k p true).putX k (s.rankOf k) d v 2

/-- A thread in REAP that waits for a slot completes. -/
def wakeReap (s : State) (core slot : Nat) : State :=
  match (s.ctxsOf core).find? (fun k => match (s.ctx k).wait with | .reap n .. => n == slot | _ => false) with
  | none => s
  | some k => match (s.ctx k).wait with
    | .reap _ d p => (s.takeExit k core slot d p).complete k
    | _ => s

/-- A context retires (R366): watches and places in queues are released, its exit value is left in its slot's exit
register, slot and number are freed; the unit next in line takes them. -/
def retire (s : State) (k : Nat) (exit : Word) : State :=
  let c := s.ctx k
  let core := coreOfCtx k
  let slot := s.slotOf k
  let queued := (s.tiles.flatMap (fun e => e.2.resv.filter (fun r => r.queue.contains k))).length
  let s := (((s.landLate k).dropWatches k).leaveAll k).countCore core 16 queued
  let s := match slot.or c.lastSlot with
    | some n => s.setExit core n exit
    | none => s
  let s := match slot with
    | some n => s.clearSlot core n
    | none => s
  let s := s.setCtx k {}
  let s := match slot.or c.lastSlot with
    | some n => s.wakeReap core n
    | none => s
  match c.crew with
  | none => s.dealWaiting core
  | some crew =>
    let s := (s.modDyn crew (fun d => { d with exitv := exit })).dealWaiting core
    -- the slot it vacated; one that never had a slot of its place's core leaves that of the place
    let w := s.crew crew
    let s := match c.place with
      | some q => s.deal crew q (if placeCore w q == core then (slot.or c.lastSlot).getD (q % w.blk.slots) else q % w.blk.slots)
      | none => s
    if s.coreEmpty crew core && (s.crew crew).st == .running then
      s.arriveCore crew core (s.tile (tileOfCore core)).vcc false
    else s

/-- A thread in a slot that takes turns: not frozen, asleep, waiting in a group or parked (R331). -/
def present (s : State) (k : Nat) : Bool :=
  let c := s.ctx k
  c.used && !c.frz && !c.parked && (match c.wait with | .none | .fetch _ => true | _ => false)

/-- A context that is ready to run outside a slot (R336). -/
def isWaiting (s : State) (k : Nat) : Bool :=
  let c := s.ctx k
  c.used && (s.slotOf k).isNone && !s.inSwap k && !c.held && !c.frz && c.wait == .none

/-- A resident context that may be swapped out, by its own state: present, one that waits for its line among them, or sleeping (R336,
R404). -/
def mayLeave (s : State) (k : Nat) : Bool :=
  let c := s.ctx k
  (s.slotOf k).isSome && !s.inSwap k && !c.frz && (s.present k || c.wait.sleeping) && !c.rsc && c.whole

/-- A context that holds a queued reservation (R312). -/
def holdsAny (s : State) (k : Nat) : Bool := s.tiles.any (fun e => e.2.resv.any (fun r => r.queue.head? == some k))

/-- The eligible residents of a core: a holder only when there is no other (R336). -/
def eligible (s : State) (core : Nat) : List Nat :=
  let ks := (s.ctxsOf core).filter s.mayLeave
  let free := ks.filter (fun k => !s.holdsAny k)
  if free.isEmpty then ks else free

/-- The best of a list by an order. -/
def best (better : Nat → Nat → Bool) (ks : List Nat) : Option Nat :=
  ks.foldl (fun acc k => match acc with | none => some k | some a => if better k a then some k else some a) none

/-- Lowest class first, then longest resident (R337). -/
def victimOf (s : State) (ks : List Nat) : Option Nat :=
  best (fun a b => decide (s.classOf a < s.classOf b)
    || s.classOf a == s.classOf b && decide ((s.vccOf b : Int) - (s.ctx b).resid < (s.vccOf a : Int) - (s.ctx a).resid)) ks

/-- The waiting context of highest class, oldest first, among those of a kind (R337). -/
def nextWaiting (s : State) (core : Nat) (kind : Nat → Bool) : Option Nat :=
  best (fun a b => decide (s.classOf b < s.classOf a) || s.classOf a == s.classOf b && decide (s.ageOf b < s.ageOf a))
    ((s.ctxsOf core).filter (fun k => s.isWaiting k && kind k))

/-- The bank lines of a swap's side: 37, and 3 more with a segment extension (R338, R395). -/
def swapLines (s : State) (k : Nat) : Nat := if (List.range 8).any (fun i => Tbl.get 0 (s.ctx k).sgsrc i == 0xFF) then 40 else 37

/-- A swap begins: the slot is empty from the decision until the last line of the context that enters has been read (R338).  A context that
waited for its line asks for it again when it is back. -/
def beginSwap (s : State) (core slot : Nat) (inn : Option Nat) : State :=
  let out := s.inSlot core slot
  let n (k : Option Nat) : Nat := (k.map s.swapLines).getD 0
  let s := s.modCore core (fun c => { c with
    slots := Tbl.set 0 c.slots slot 0, swaps := c.swaps ++ [⟨slot, out, inn, n out, n inn, 3⟩] })
  match out with
  | some k => s.modCtx k (fun c => { c with
      since := s.vccOf k, wait := (match c.wait with | .fetch a => if c.parked then .fetch a else .none | w => w) })
  | none => s

/-- A thread's cycle of a bank for a line of a swap: behind the requests of classes 1 to 3 that wait (R155, R338). -/
def swapCycle (s : State) (t bank : Nat) : Option State :=
  let n := s.waitingAt t bank
  if n == 0 && s.firstFree t bank then some (s.grantBank t (bank + 128))
  else if (n == 0 || n == 1 && s.firstFree t bank) && s.secondFree t bank then some (s.grantBank t bank)
  else none

/-- One of n lines of a context's frame, if its bank has a cycle: the lines left. -/
def swapLine (s : State) (k : Option Nat) (n : Nat) : Nat × State :=
  match k with
  | none => (0, s)
  | some k =>
    if n = 0 then (0, s)
    else match s.swapCycle (tileOfCtx k) (frameLoc k).bank with
      | some s => (n - 1, s)
      | none => (n, s)

/-- An rc of a swap: a line written and a line read, as their banks have cycles; 3 rc follow the last (R338). -/
def moveSwap (s : State) (w : Swap) : Swap × State :=
  if w.wr = 0 ∧ w.rd = 0 then ({ w with tail := w.tail - 1 }, s)
  else
    let (wr, s) := s.swapLine w.out w.wr
    let (rd, s) := s.swapLine w.inn w.rd
    ({ w with wr, rd }, s)

/-- An rc of the swaps of a core. -/
def moveSwaps (s : State) (core : Nat) : State :=
  let r := (s.core core).swaps.foldl (fun (a : List Swap × State) w =>
    let (w, s) := a.2.moveSwap w
    (a.1 ++ [w], s)) ([], s)
  if r.1.isEmpty then s else r.2.modCore core (fun c => { c with swaps := r.1 })

def crewed (s : State) (k : Option Nat) : Bool := k.any (fun k => (s.ctx k).crew.isSome)

/-- A swap that a core decides; one that moves a context of a crew enters the crew log, with the number of the context of the crew that
enters (R339). -/
def decideSwap (s : State) (core slot : Nat) (inn : Option Nat) (how : SwapHow) : State :=
  let s1 := s.beginSwap core slot inn
  if s.crewed (s.inSlot core slot) || s.crewed inn then
    s1.logEv (tileOfCore core) (.swap core slot (inn.bind (fun k => if s.crewed (some k) then some (k % 64) else none)) how) 8
  else s1

/-- The next record of a kind of swap of a core that a replay has to follow (R339): its vc, the slot, who enters, and how. -/
def swapRecord (s : State) (core : Nat) (kind : Nat → SwapHow → Bool) : Option (Nat × Nat × Option Nat × SwapHow) :=
  (s.tile (tileOfCore core)).crew.bind (fun w => (s.crew w).redo.findSome? (fun r => match r.ev with
    | .swap c j n how => if c == core && kind j how then some (r.vc, j, n.map (ctxKey core), how) else none
    | _ => none))

/-- A swap that the log holds begins, and its record is used (R339). -/
def takeSwap (s : State) (core slot : Nat) (inn : Option Nat) (how : SwapHow) : State :=
  let s1 := s.beginSwap core slot inn
  match (s.tile (tileOfCore core)).crew with
  | none => s1
  | some w => s1.dropRedo w (fun e => e == .swap core slot (inn.map (· % 64)) how)

/-- A context that a logged swap may bring in. -/
def mayEnter (s : State) (k : Nat) : Bool := (s.ctx k).used && (s.slotOf k).isNone && !s.inSwap k

/-- The lowest-numbered empty slot. -/
def emptySlot (s : State) (core : Nat) : Option Nat := (List.range 16).find? (s.slotEmpty core)

end State

end Sys2Proof.Machine
end

