-- ==== Sys2Proof/Machine/Crew.lean ====
section
/-! DEFINITION. Knot cells (R353, R354) and the instructions of chapter 13: SPAWN, REAP, YIELD, SLEEP, WAKE (R359-R362),
RFORK, JOIN, KNOT (R363-R365), TASKEND (R366), LAUNCH (R367). -/

namespace Sys2Proof.Machine

/-- A knot cell (R353). -/
structure Knot where
  count : BitVec 32
  stat : Byte
  nw : Nat
  lost : Bool
  hold : Word
  ndone : BitVec 32
  nfault : BitVec 32
  w0 : BitVec 32
  w1 : BitVec 32
  deriving DecidableEq, Repr

def word32 (bs : List Byte) (at_ : Nat) : BitVec 32 := BitVec.ofNat 32 (leNat (slice bs at_ 4))

def Knot.ofBytes (bs : List Byte) : Knot :=
  ⟨word32 bs 0, bs.getD 4 0, (bs.getD 5 0).toNat % 4, (bs.getD 5 0).getLsbD 2, word64 bs 8, word32 bs 16, word32 bs 20,
    word32 bs 24, word32 bs 28⟩

def Knot.bytes (k : Knot) : List Byte :=
  leBytes 4 k.count.toNat ++ [k.stat, BitVec.ofNat 8 (k.nw + if k.lost then 4 else 0), 0, 0] ++ leBytes 8 k.hold.toNat
    ++ leBytes 4 k.ndone.toNat ++ leBytes 4 k.nfault.toNat ++ leBytes 4 k.w0.toNat ++ leBytes 4 k.w1.toNat

/-- Bytes 0-7 of a cell. -/
def Knot.low (k : Knot) : Nat := leNat (k.bytes.take 8)

/-- COUNT at 0 or below. -/
def Knot.done (k : Knot) : Bool := decide (k.count.toInt ≤ 0)

/-- A registered waiter (R353). -/
def waitWord (core num : Nat) : BitVec 32 :=
  1#1 ++ 0#7 ++ BitVec.ofNat 16 (tileOfCore core) ++ BitVec.ofNat 2 (core % 4) ++ BitVec.ofNat 6 num

/-- The context a WAIT word names. -/
def waitCtx (w : BitVec 32) : Nat :=
  ctxKey (coreKey (w.extractLsb' 8 16).toNat (w.extractLsb' 6 2).toNat) (w.extractLsb' 0 6).toNat

/-- What an update does beyond the cell: contexts to wake, held blocks to post (address, and whether its NEXT chain
follows), a NEXT to write, and the answer: bytes 0-7 and a code in bits [71:64]. -/
structure KnotOut where
  cell : Knot
  wake : List Nat := []
  post : List (Word × Bool) := []
  link : Option (Word × Word) := none
  answer : Nat := 0
  deriving DecidableEq, Repr

/-- Firing (R354). -/
def Knot.fire (k : Knot) : KnotOut :=
  { cell := { k with hold := 0, nw := 0, w0 := if 0 < k.nw then 0 else k.w0, w1 := if 1 < k.nw then 0 else k.w1 }
    wake := (if 0 < k.nw then [waitCtx k.w0] else []) ++ (if 1 < k.nw then [waitCtx k.w1] else [])
    post := if k.hold = 0 then [] else [(k.hold, true)] }

/-- A cell that fires on a fall from above 0 to 0 or below. -/
def Knot.settle (k : Knot) (before : BitVec 32) : KnotOut :=
  if 0 < before.toInt ∧ k.count.toInt ≤ 0 then k.fire else { cell := k }

/-- The updates of a knot cell (R353-R354, R363-R365). -/
def Knot.apply (k : Knot) (op : KnotOp) : KnotOut :=
  let code (c : Nat) (o : KnotOut) : KnotOut := { o with answer := k.low + c * 2 ^ 64 }
  match op with
  | .set v =>
    let n := { k with count := v, stat := 0, ndone := 0, nfault := 0 }
    if n.done then n.fire else { cell := n }
  | .add v => Knot.settle { k with count := k.count + v } k.count
  | .hold b =>
    if k.done then
      let o := k.fire
      { o with post := (b, false) :: o.post }
    else { cell := { k with hold := b }, link := some (b, k.hold) }
  | .rd | .probe => code 0 { cell := k }
  | .wait num core =>
    let w := waitWord core num
    if k.done then code 0 { cell := k }
    else if (0 < k.nw ∧ k.w0 = w) ∨ (1 < k.nw ∧ k.w1 = w) then code 1 { cell := k }
    else if k.nw = 0 then code 1 { cell := { k with nw := 1, w0 := w } }
    else if k.nw = 1 then code 1 { cell := { k with nw := 2, w1 := w } }
    else code 2 { cell := k }
  | .join =>
    if k.done then code 2 { cell := k }
    else
      let o := Knot.settle { k with count := k.count - 1 } k.count
      code (if o.cell.count = 0 then 1 else 0) o
  | .fork r => code 0 { cell := { k with count := BitVec.ofNat 32 (r + 1), stat := 0, ndone := 0, nfault := 0 } }
  | .done status =>
    Knot.settle { k with
      count := k.count - 1, stat := if k.stat.toNat < status.toNat then status else k.stat, ndone := k.ndone + 1,
      nfault := if status = 0 then k.nfault else k.nfault + 1 } k.count

namespace State

/-- The knot operand of RFORK, JOIN and KNOT (R358). -/
def knotEA (s : State) (m : MemOp) : Except Stop Place := do
  let a ← s.segEA m 32 [kVault, kFar] (some rA)
  check (if spaceOf a == 1 then s.vaultSpaceOk a else spaceOf a == 2 && a.extractLsb' 52 8 == 0) cLimit a
  check (a.toNat % 32 == 0) cAlign a
  if spaceOf a == 1 then do
    check (decide ((globalLoc a).bank < 48)) cRights a
    let l ← s.resolve a true
    pure (.vault l)
  else pure (.far a)

/-- The address of a knot, as faults name it. -/
def knotAddr (p : Place) : Word :=
  match p with
  | .vault l => 1#4 ++ 0#12 ++ BitVec.ofNat 16 l.tile ++ 0#9 ++ BitVec.ofNat 6 l.bank ++ BitVec.ofNat 17 l.off
  | .far va => va

/-- A context's knot operation leaves for its cell, counted until it is answered (R353). -/
def sendKnot (s : State) (k : Nat) (p : Place) (op : KnotOp) : State :=
  match p with
  | .vault l =>
    let (id, s1) := s.addOut k (.vault l.tile l.bank true) 1
    s1.send (tileOfCtx k) l.tile 0 k (streamOf 0 k) (.knot l op id)
  | .far va =>
    let (id, s1) := s.addOut k (.far false) 1
    s1.sendFar k va (.knot op none) (some id)

/-- A context that waits for a cell's answer. -/
def waitKnot (s : State) (k : Nat) (w : Wait) : State := s.modCtx k (fun c => { c with wait := w, asked := some w })

/-- Asking a cell; a group that has asked already goes on waiting. -/
def askKnot (s : State) (p : Place) (op : KnotOp) (w : Wait) : Act :=
  match s.me.asked with
  | some w => .ok (s.await w)
  | none => .ok (((s.sendKnot s.myCtx p op).waitKnot s.myCtx w).setRes .waiting)

end State

/-- The memory operand [sgC + xA] of RFORK and JOIN (R357). -/
def knotOperand (c : BitVec 3) (a : BitVec 6) : MemOp := ⟨c, a, 0⟩

/-- The slot that SPAWN and REAP name: 1 to 15 (R359, R360). -/
def childSlot (x : Word) : Bool := decide (1 ≤ x.toNat) && decide (x.toNat ≤ 15)

/-- Only slot 0 executes SPAWN, REAP and RFORK (R333). -/
def slotZero (s : State) : Except Stop Unit := check (s.cur.slot == 0) cFormat 0

def execSpawn (g : Guard) (d a b : BitVec 6) (imm : BitVec 32) (s : State) : Ans :=
  runThread g s (fun s => do
    slotZero s
    let x := s.readX a
    check (childSlot x) cFormat 0
    let t := s.slotAddr + imm.signExtend 64
    s.targetCheck t
    if !s.slotEmpty s.myCore x.toNat then .ok (s.writeX d 1 2)
    else match s.freeNum s.myCore with
      | none => .ok (s.writeX d 2 2)
      | some n => .ok ((s.addCtx s.myCore n (some x.toNat) (s.childCtx s.myCore s.view t [s.readX b])).writeX d 0 2))

/-- REAP on an empty slot (R360). -/
def reapEmpty (d : BitVec 6) (pd : BitVec 3) (slot : Nat) (s : State) : State :=
  if s.here.exitp.getLsbD slot then s.takeExit s.myCtx s.myCore slot d pd else s.writeP pd false

/-- What REAP checks, and its slot. -/
def reapSlot (a : BitVec 6) (s : State) : Except Stop Nat := do
  slotZero s
  let x := s.readX a
  check (childSlot x) cFormat 0
  pure x.toNat

def execReap (g : Guard) (d a : BitVec 6) (pd : BitVec 3) (s : State) : Ans :=
  runThread g s (fun s => do
    let n ← reapSlot a s
    if (s.inSlot s.myCore n).isSome then .ok (s.await (.reap n d pd)) else .ok (reapEmpty d pd n s))

def execReapNb (g : Guard) (d a : BitVec 6) (pd : BitVec 3) (s : State) : Ans :=
  runThread g s (fun s => do
    let n ← reapSlot a s
    if (s.inSlot s.myCore n).isSome then .ok (s.writeP pd false) else .ok (reapEmpty d pd n s))

/-- The exit value of a killed context (R360). -/
def killedExit : Word := 0xFFFFFFFFFFFFFFFF

/-- A killed context at a group boundary: not waiting in a group (R360). -/
def atBoundary (c : Ctx) : Bool := (c.wait == .none || c.wait.sleeping) && !c.frz && c.whole

def execReapKill (g : Guard) (d a : BitVec 6) (pd : BitVec 3) (s : State) : Ans :=
  runThread g s (fun s => do
    let n ← reapSlot a s
    match s.inSlot s.myCore n with
    | none => .ok (reapEmpty d pd n s)
    | some k =>
      if atBoundary (s.ctx k) then .ok ((s.retire k killedExit).takeExit s.myCtx s.myCore n d pd)
      else .ok ((s.modCtx k (fun c => { c with killed := true })).await (.reap n d pd)))

/-- YIELD leaves as a row 3 swap of R337, for a waiting context of its class or above (R361); in a replay where its log says so (R339). -/
def execYield (g : Guard) (s : State) : Ans :=
  runThread g s (fun s =>
    let aged (s : State) : State := s.modMe (fun c => { c with since := c.since - 4096 })
    if s.view.crew.isSome && s.replaying s.cur.tile then
      match s.swapRecord s.myCore (fun j how => j == s.cur.slot && how == .yield) with
      | some (vc, _, inn, _) => .ok (if vc == s.myVcc && inn.all s.mayEnter then aged (s.takeSwap s.myCore s.cur.slot inn .yield) else s)
      | none => .ok s
    else match s.nextWaiting s.myCore (fun _ => true) with
      | some w => .ok (if s.classOf s.myCtx ≤ s.classOf w then aged (s.decideSwap s.myCore s.cur.slot (some w) .yield) else s)
      | none => .ok s)

def execSleep (g : Guard) (d a : BitVec 6) (s : State) : Ans :=
  runThread g s (fun s =>
    let x := s.readX a
    if s.me.rdy then .ok ((s.modMe (fun c => { c with rdy := false })).writeX d 1 2)
    else if x != 0 && decide (x.toNat ≤ s.myVcc) then .ok (s.writeX d 0 2)
    else .ok (s.await (.sleep d x)))

def execWake (g : Guard) (a : BitVec 6) (s : State) : Ans :=
  runThread g s (fun s => do
    let x := s.readX a
    check (decide (x.toNat < 16)) cFormat 0
    match s.inSlot s.myCore x.toNat with
    | some k => .ok (s.wakeBit k)
    | none => .ok s)

def execWakeAll (g : Guard) (s : State) : Ans :=
  runThread g s (fun s =>
    .ok (((List.range 16).filterMap (s.inSlot s.myCore)).foldl (fun s k => s.wakeBit k) s))

def execRfork (g : Guard) (d a b : BitVec 6) (c : BitVec 3) (imm : BitVec 32) (s : State) : Ans :=
  runThread g s (fun s => do
    slotZero s
    check s.view.crew.isSome cFormat 0
    let p ← s.knotEA (knotOperand c a)
    let t := s.slotAddr + imm.signExtend 64
    s.targetCheck t
    s.askKnot p .probe (.rfork d (s.readX b) p t (s.readX a) 0))

def execJoin (g : Guard) (a : BitVec 6) (c : BitVec 3) (imm : BitVec 32) (s : State) : Ans :=
  runThread g s (fun s => do
    let p ← s.knotEA (knotOperand c a)
    let t := s.slotAddr + imm.signExtend 64
    s.targetCheck t
    if (s.drainIds s.myCtx).isEmpty || s.me.asked.isSome then s.askKnot p .join (.join p t true)
    else .ok (s.await (.join p t false)))

/-- KNOT.set, .add and .hold do not wait (R353, R365). -/
def knotSend (mem : MemOp) (op : KnotOp) (s : State) : Act := do
  let p ← s.knotEA mem
  .ok (s.sendKnot s.myCtx p op)

def execKnotSet (g : Guard) (b : BitVec 6) (mem : MemOp) (s : State) : Ans :=
  runThread g s (fun s => knotSend mem (.set ((s.readX b).setWidth 32)) s)

def execKnotAdd (g : Guard) (b : BitVec 6) (mem : MemOp) (s : State) : Ans :=
  runThread g s (fun s => knotSend mem (.add ((s.readX b).setWidth 32)) s)

def execKnotHold (g : Guard) (b : BitVec 6) (mem : MemOp) (s : State) : Ans :=
  runThread g s (fun s => do
    let p ← s.knotEA mem
    let x := s.readX b
    check (x.toNat % 256 == 0 && (spaceOf x == 1 || spaceOf x == 2)) cFormat (s.ea mem)
    .ok (s.sendKnot s.myCtx p (.hold x)))

def execKnotRd (g : Guard) (d : BitVec 6) (mem : MemOp) (s : State) : Ans :=
  runThread g s (fun s => do
    let p ← s.knotEA mem
    s.askKnot p .rd (.knotRd d))

def execKnotWait (g : Guard) (d : BitVec 6) (mem : MemOp) (s : State) : Ans :=
  runThread g s (fun s => do
    let p ← s.knotEA mem
    let s := if s.me.asked.isSome then s else s.modMe (fun c => { c with rdy := false })
    s.askKnot p (.wait s.cur.num s.myCore) (.knotAsk d))

namespace State

/-- A thread that waited for a cell and is to trap at its next turn, its group not having issued (R364, R97). -/
def knotFault (s : State) (k : Nat) (cause : BitVec 8) (a : Word) : State :=
  s.failWait k cause a

/-- Children of a core in the fork tree, breadth-first by levels (R355). -/
def forkLevels (fuel n : Nat) (level : List Nat) : List Nat :=
  match fuel with
  | 0 => []
  | fuel + 1 =>
    let next := (level.flatMap (fun i => [2 * i + 1, 2 * i + 2])).filter (fun i => decide (i < n))
    if next.isEmpty then [] else next ++ forkLevels fuel n next

/-- The core of a crew core index (R329). -/
def crewCore (s : State) (crew i : Nat) : Nat := coreKey ((s.crew crew).t0 + i / 4) (i % 4)

/-- The candidates of an RFORK on a core: those of its subtree with slot 0 empty (R355). -/
def forkCandidates (s : State) (crew core : Nat) : List Nat :=
  let w := s.crew crew
  let n := w.blk.cols * w.blk.rows * 4
  let i := 4 * (tileOfCore core - w.t0) + core % 4
  ((forkLevels 20 n [i]).map (s.crewCore crew)).filter (fun c => s.slotEmpty c 0 && (s.freeNum c).isSome)

/-- The shares of the workers: the base and count of worker w of r + 1 (R355). -/
def forkShare (n grain r w : Nat) : Nat × Nat :=
  let k := (n + grain - 1) / grain
  let sh (w : Nat) : Nat := k / (r + 1) + if w < k % (r + 1) then 1 else 0
  let base := grain * ((List.range w).map sh).foldl (· + ·) 0
  (base, if n ≤ base then 0 else min (grain * sh w) (n - base))

/-- The recruits that the log holds for the next RFORK of a core in a replay: they are used unchanged (R355). -/
def recruitsOf (s : State) (crew core : Nat) : Option (List Nat) :=
  if s.replaying (tileOfCore core) then (s.crew crew).redo.findSome? (fun r => match r.ev with
    | .recruits c cores => if c == core then some cores else none
    | _ => none)
  else none

/-- RFORK's decision: the recruits are created, held until the fork write has landed, and the knot is set (R363). -/
def forkDecide (s : State) (k : Nat) (d : BitVec 6) (n : Word) (p : Place) (t idx : Word) : State :=
  match (s.ctx k).crew with
  | none => s
  | some crew =>
    let g := (s.crew crew).blk.grain
    let shares := (n.toNat + g - 1) / g
    let cands := s.forkCandidates crew (coreOfCtx k)
    let own := cands.take (min cands.length (shares - 1))
    let set := (s.recruitsOf crew (coreOfCtx k)).getD own
    let r := set.length
    let s := s.logEv (tileOfCtx k) (.recruits (coreOfCtx k) set) (4 * r)
    let s := set.zipIdx.foldl (fun s c =>
      let (base, count) := forkShare n.toNat g r (c.2 + 1)
      match s.freeNum c.1 with
      | some num =>
        s.addCtx c.1 num (some 0) { s.childCtx c.1 (s.ctx k) t [BitVec.ofNat 64 base, BitVec.ofNat 64 count, idx] with
          wait := .recruit k }
      | none => s) s
    (s.sendKnot k p (.fork r)).waitKnot k (.rfork d (BitVec.ofNat 64 (forkShare n.toNat g r 0).2) p t idx 1)

/-- The answer that a JOIN has reached zero, or that an RFORK decides on, whose record a replay has not reached (R355, R364, R421). -/
def knotHeld (s : State) (k : Nat) (answer : Nat) : Bool :=
  match (s.ctx k).asked with
  | some (.join ..) => answer / 2 ^ 64 % 256 == 1
      && s.redoAhead (tileOfCtx k) (fun e => match e with | .join k' => k' == k | _ => false)
  | some (.rfork _ _ _ _ _ 0) => s.redoAhead (tileOfCtx k) (fun e => match e with | .recruits c _ => c == coreOfCtx k | _ => false)
  | _ => false

/-- A cell's answer reaches the context that waits for it (R363-R365). -/
def knotAnswer (s : State) (k : Nat) (answer : Nat) : State :=
  let low := answer % 2 ^ 64
  let code := answer / 2 ^ 64 % 256
  match (s.ctx k).asked with
  | some (.knotRd d) => s.completeX k d (BitVec.ofNat 64 low) 2
  | some (.knotAsk d) =>
    if code = 0 then s.completeX k d (BitVec.ofNat 64 low) 2
    else if code = 2 then s.completeX k d (BitVec.ofNat 64 (2 ^ 63 ||| low)) 2
    else if (s.ctx k).rdy then (s.modCtx k (fun c => { c with asked := none })).reissue k
    else s.modCtx k (fun c => { c with wait := .knotWait, asked := none })
  | some (.join p t _) =>
    if code = 2 then s.knotFault k cKnot (knotAddr p)
    else if code = 1 then
      s.modCtx k (fun c => { c with wait := .none, asked := none, s := startS t, fresh := true, since := s.vccOf k })
        |>.logEv (tileOfCtx k) (.join k) 0
    else s.retire k 0
  | some (.rfork d n p t idx step) =>
    if step = 0 then
      if low % 2 ^ 32 = 0 then s.forkDecide k d n p t idx else s.knotFault k cKnot (knotAddr p)
    else
      ((s.waiters (fun w => w == .recruit k)).foldl (fun s c => s.reissue c) s).completeX k d n 2
  | _ => s

/-- What an update does beyond its cell: wakes, posts and the NEXT of a block in a vault; a far block's NEXT is for the
caller (R354).  The posts of a crew's vault knot are recorded: a knot that a rollback has restored and that fires again in the replay posts
nothing twice (R368). -/
def knotEffects (s : State) (part : Nat) (p : Place) (o : KnotOut) : State :=
  let s := o.wake.foldl (fun s k => s.wakeBit k) s
  let post (s : State) : State := s.setPart part (let t := s.part part; { t with heldAddr := t.heldAddr ++ o.post.map (fun b => (b.1, b.2, p)) })
  match p with
  | .vault l =>
    if o.post.isEmpty then s
    else
      let ev : LogEv := .posted l.bank l.off
      let again := s.replaying l.tile && (match (s.tile l.tile).crew with
        | some c => (s.crew c).redo.any (fun r => r.tile == l.tile && r.ev == ev)
        | none => false)
      let s := s.logEv l.tile ev 0
      if again then s else post s
  | .far _ => post s

end State

def execTaskend (g : Guard) (a : BitVec 6) (s : State) : Ans :=
  runThread g s (fun s =>
    if (s.drainIds s.myCtx).isEmpty then .ok ((s.retire s.myCtx (s.readX a)).setRes .waiting)
    else .ok (s.await (.taskend (s.readX a))))

/-- The fields of a launch block (R347). -/
def blockOf (bs : List Byte) : Block :=
  let n (at_ len : Nat) : Nat := leNat (slice bs at_ len)
  let f := bs.getD 5 0
  { cols := n 0 2, rows := n 2 2, slots := n 4 1 % 32, flags := f, belay := n 6 1, prio := BitVec.ofNat 3 (n 7 1),
    vbind := BitVec.ofNat 16 (n 8 2), segs := BitVec.ofNat 4 (n 10 1), units := n 12 4, grain := n 16 4, entry := word64 bs 24,
    knot := word64 bs 32, record := word64 bs 40, routes := word64 bs 48, nroutes := n 56 2, next := word64 bs 64,
    args := (List.range 4).map (fun i => word64 bs (72 + 8 * i)),
    reserved := n 4 1 / 32 != 0 || f.toNat / 4 != 0 || n 7 1 / 8 != 0 || n 10 1 / 16 != 0 || n 11 1 != 0 || n 20 4 != 0
      || n 58 6 != 0 || (bs.drop 104).any (· != 0) }

/-- KNOT and RECORD as LAUNCH requires them (R347, R367). -/
def blockPlaced (b : Block) : Bool :=
  b.knot != 0 && b.record != 0 && spaceOf b.knot == 2 && spaceOf b.record == 2 && b.knot.toNat % 32 == 0
    && b.record.toNat % 64 == 0

namespace State

/-- No entry is free for a LAUNCH: the queue is full, or blocks that were read while it was full come first (R354, R367). -/
def queueFull (s : State) (part : Nat) : Bool :=
  let p := s.part part
  decide (1024 ≤ p.queue.length) || !p.held.isEmpty

/-- Posting a task: an entry and a task number (R345). -/
def post (s : State) (part : Nat) (b : Block) : BitVec 32 × State :=
  let p := s.part part
  (p.tasks, s.setPart part { p with
    queue := p.queue ++ [{ task := p.tasks, blk := b, since := s.sys.rtime.toNat }], tasks := p.tasks + 1 })

/-- A LAUNCH posts its block under its crew's next sequence; the queue answers the one it accepted last with its task number (R367). -/
def postLaunch (s : State) (k : Nat) (b : Block) : Word × State :=
  let part := s.partOf k
  match (s.ctx k).crew with
  | none =>
    let (t, s) := s.post part b
    (t.setWidth 64, s)
  | some crew =>
    let seq := ((s.crew crew).dyn.lseq + 1).toNat
    let s1 := s.modDyn crew (fun d => { d with lseq := d.lseq + 1 })
    match (s.part part).dedup.find? (fun e => e.1 == crew && e.2.1 == seq) with
    | some e => (e.2.2, s1)
    | none =>
      let (t, s2) := s1.post part b
      let p := s2.part part
      let v : Word := t.setWidth 64
      (v, (s2.setPart part { p with dedup := (p.dedup.filter (fun e => e.1 != crew)) ++ [(crew, seq, v)] }).logEv
        (tileOfCtx k) (.launch k v) 16)

/-- The record of a context's next LAUNCH that a replay has to follow: its vc and result (R367). -/
def launchRecord (s : State) (k : Nat) : Option (Nat × Word) :=
  match (s.ctx k).crew with
  | none => none
  | some w => if s.replaying (tileOfCtx k) then (s.crew w).redo.findSome? (fun r => match r.ev with
      | .launch k' v => if k' == k then some (r.vc, v) else none
      | _ => none)
    else none

/-- A LAUNCH that the log holds posts nothing: its number is used if it was posted (R367). -/
def countLaunch (s : State) (k : Nat) (v : Word) : State :=
  match (s.ctx k).crew with
  | none => s
  | some w => if v == 2 ^ 63 then s else s.modDyn w (fun d => { d with lseq := d.lseq + 1 })

end State

/-- LAUNCH reads its block, checks it and posts it, or waits or answers 2^63 while no entry is free; in a replay it does at its logged vc
what its log says (R367). -/
def launch (nb : Bool) (d : BitVec 6) (mem : MemOp) (s : State) : Act := do
  check (s.view.crew.isSome || s.level != 2) cFormat 0
  let (a, l) ← s.vaultEA mem 256 [kAlias, kVault] rR false
  let (_, s) ← s.loadBytes a l 256
  let bs := s.overlay l (s.readLoc l 256)
  let b := blockOf bs
  check (blockPlaced b) cLaunch a
  let part := s.partOf s.myCtx
  match s.launchRecord s.myCtx with
  | some (vc, v) =>
    if !nb && decide (s.myVcc < vc) then .ok (s.await (.launch d bs))
    else .ok (((s.countLaunch s.myCtx v).writeX d v 2).logEv s.cur.tile (.launch s.myCtx v) 16)
  | none =>
    if s.queueFull part then
      if nb then .ok ((s.writeX d (2 ^ 63) 2).logEv s.cur.tile (.launch s.myCtx (2 ^ 63)) 16) else .ok (s.await (.launch d bs))
    else
      let (v, s) := s.postLaunch s.myCtx b
      .ok (s.writeX d v 2)

def execLaunch (g : Guard) (d : BitVec 6) (mem : MemOp) (s : State) : Ans := runThread g s (launch false d mem)

def execLaunchNb (g : Guard) (d : BitVec 6) (mem : MemOp) (s : State) : Ans := runThread g s (launch true d mem)

end Sys2Proof.Machine
end

