-- ==== Sys2Proof/Machine/Far.lean ====
section
/-! DEFINITION. Far memory as the homes see it: buffer map entries (R98-R102), hotness (R107), and the whole accesses that firmware makes
in one step. -/

namespace Sys2Proof.Machine

/-- A buffer map entry (R98). -/
structure BufMap where
  npg : Nat
  psz : Nat
  fill : Bool
  sopen : Bool
  cur : Nat
  shd : Nat
  cval : BitVec 4
  free : BitVec 4
  cpa : List Nat
  tags : List Nat
  deriving DecidableEq, Repr

def BufMap.ofBytes (bs : List Byte) : BufMap :=
  let w := word64 bs 0
  ⟨(w.extractLsb' 48 16).toNat, (w.extractLsb' 46 2).toNat, w.getLsbD 45, w.getLsbD 44, (w.extractLsb' 42 2).toNat,
    (w.extractLsb' 40 2).toNat, w.extractLsb' 36 4, w.extractLsb' 32 4,
    (List.range 4).map (fun c => leNat (slice bs (8 + 8 * c) 6)), (List.range 4).map (fun c => leNat (slice bs (40 + 6 * c) 6))⟩

/-- The bytes that a home maintains: word 0 and the tags. -/
def BufMap.word (b : BufMap) : Word :=
  BitVec.ofNat 16 b.npg ++ BitVec.ofNat 2 b.psz ++ BitVec.ofBool b.fill ++ BitVec.ofBool b.sopen ++ BitVec.ofNat 2 b.cur
    ++ BitVec.ofNat 2 b.shd ++ b.cval ++ b.free ++ 0#32

def BufMap.wf (b : BufMap) : Bool :=
  decide (b.psz < 3) && decide (2 ≤ ((List.range 4).filter (fun c => b.cval.getLsbD c)).length) && b.cval.getLsbD b.cur

/-- Whether an entry takes an access to a page of it: FORMAT for one not well formed, then RANGE (R98; log entry 91). -/
def BufMap.admits (b : BufMap) (page : Nat) : BitVec 8 := if !b.wf then eFormat else if b.npg < page then eRange else 0

def BufMap.pageSize (b : BufMap) : Nat := 2 ^ (if b.psz = 0 then 16 else if b.psz = 1 then 21 else 29)

/-- The copy a reader of an adopted PSN sees: the largest tag not above it, never the open shadow; the current copy for a
reader of no crew (R101). -/
def BufMap.copyFor (b : BufMap) (adopted : Option Nat) : Nat :=
  match adopted with
  | none => b.cur
  | some a =>
    let ok := (List.range 4).filter (fun c => b.cval.getLsbD c && decide (b.tags.getD c 0 ≤ a) && !(b.sopen && c == b.shd))
    ok.foldl (fun m c => if b.tags.getD m 0 < b.tags.getD c 0 || !ok.contains m || b.tags.getD m 0 == b.tags.getD c 0 && c == b.cur then c else m) b.cur

/-- The copy a write may open: the lowest free existing one other than CUR (R99). -/
def BufMap.freeCopy (b : BufMap) : Option Nat :=
  (List.range 4).find? (fun c => b.cval.getLsbD c && b.free.getLsbD c && c != b.cur)

/-- Memory with n bytes as an unlisted address reads. -/
def memClear (m : List Host.Cell) (dst n : Nat) : List Host.Cell := m.filter (fun e => !(decide (dst ≤ e.1) && decide (e.1 < dst + n)))

/-- Bytes copied from one range of a memory list to another. -/
def memCopy (m : List Host.Cell) (src dst n : Nat) : List Host.Cell :=
  let kept := memClear m dst n
  (m.filter (fun e => decide (src ≤ e.1) && decide (e.1 < src + n))).foldl (fun k e => memWrite k (e.1 - src + dst) e.2) kept

namespace State

/-- The PA of a buffer map entry at a home (R89, R98). -/
def bufPa (s : State) (h part entry : Nat) : Nat :=
  (Tbl.get 0 (s.gw (fieldOfHome h)).tcbmb part).toNat % 2 ^ 48 / 64 * 64 + 64 * entry

def bufMap (s : State) (h part entry : Nat) : BufMap := BufMap.ofBytes (s.readPa (s.bufPa h part entry) 64)

/-- The home writes what it maintains of an entry, and remembers the entry. -/
def setBufMap (s : State) (h part entry : Nat) (b : BufMap) : State :=
  let pa := s.bufPa h part entry
  let s := (s.writePa pa (leBytes 8 b.word.toNat)).writePa (pa + 40) (b.tags.flatMap (leBytes 6))
  let m := s.home h
  s.setHome h (if m.bufs.contains (part, entry) then m else { m with bufs := m.bufs ++ [(part, entry)] })

/-- Opening a shadow: filled from the current copy, or undefined bytes (R99; log entry 6). -/
def openShadow (s : State) (h part entry : Nat) (b : BufMap) (c : Nat) : State :=
  let n := (b.npg + 1) * b.pageSize
  let dst := b.cpa.getD c 0
  let s := s.setBufMap h part entry { b with shd := c, sopen := true, free := b.free &&& ~~~(1#4 <<< c) }
  if b.fill then { s with mem := memCopy s.mem (b.cpa.getD b.cur 0) dst n }
  else { s.writePa dst ((List.range n).map (fun i => Config.freeByte (s.free + i))) with free := s.free + n }

/-- The adopted PSN of a crew at a home (R99). -/
def adoptedPsn (s : State) (h : Nat) (crew : Option Nat) : Option Nat :=
  crew.map (fun c => ((Tbl.find (s.home h).crews c).getD (0, 0)).1)

/-- A read of HBM4E at a home that meets a corrected error counts it by row, in a table of 256 entries for each stack whose lowest count a new
row replaces, and is recorded; whether it meets one, and the row, the spec leaves to the memory (R460, R465; log entry 98). -/
def countRow (s : State) (h pa : Nat) : State :=
  let stack := paUnit pa
  let row := Config.hbmRow pa
  let met := decide (stack < 0x30) && Config.rowError s.free
  let m := s.home h
  let mine := m.rows.filter (fun e => e.1 == stack)
  let low := (mine.map (fun e => e.2.2)).min?.getD 0
  let rows := if mine.any (fun e => e.2.1 == row) then m.rows.map (fun e => if e.1 == stack && e.2.1 == row then (stack, row, e.2.2 + 1) else e)
    else (if mine.length < 256 then m.rows
      else m.rows.eraseIdx (m.rows.findIdx (fun e => e.1 == stack && e.2.2 == low))) ++ [(stack, row, 1)]
  let u := s.setHome h { m with rows := if met then rows else m.rows }
  { u with
    free := s.free + 1
    fields := if met then (s.errorRecord 0 0 (controlSite (fieldOfHome h) 3) 0xFF 0x0D (64 * stack + (Config.hbmChannel pa).val)
      (BitVec.ofNat 64 row)).fields else s.fields }

/-- A home access by a gateway updates its page's hotness: in the page's entry, in the lowest unused one, or in the lowest of those with
the lowest COUNT, which it replaces (R107). -/
def heat (s : State) (h pa n field : Nat) : State :=
  let u := (n + 63) / 64
  let quad : BitVec 4 := 1#4 <<< ((if 4 ≤ fieldX field then 1 else 0) + (if 4 ≤ fieldY field then 2 else 0))
  let page := pa / 2 ^ 16
  let m := s.home h
  let bump (e : Hot) : Hot :=
    { e with count := BitVec.ofNat 32 (min (2 ^ 32 - 1) (e.count.toNat + u)), sx := e.sx + BitVec.ofNat 64 (u * fieldX field),
             sy := e.sy + BitVec.ofNat 64 (u * fieldY field), qm := e.qm ||| quad, raw := none }
  match m.hot.find? (fun e => e.2.page == page) with
  | some (i, e) => s.setHome h { m with hot := Tbl.put m.hot i (bump e) }
  | none =>
    let low := m.hot.foldl (fun l e => min l e.2.count.toNat) (2 ^ 32)
    let i := match (if m.hot.length < 4096 then (List.range 4096).find? (fun i => (Tbl.find m.hot i).isNone) else none) with
      | some i => i
      | none => ((m.hot.find? (fun e => e.2.count.toNat == low)).map Prod.fst).getD 0
    s.setHome h { m with hot := Tbl.put m.hot i (bump { page, count := 0, sx := 0, sy := 0, qm := 0 }) }

/-- The copies of an entry that no running crew can still read: another is newer and at or below what each has committed (R102). -/
def deadCopies (s : State) (h part entry : Nat) : List Nat :=
  let b := s.bufMap h part entry
  let low := (s.home h).crews.foldl (fun l e => min l e.2.2) (2 ^ 48)
  let live := (List.range 4).filter (fun c => b.cval.getLsbD c && !(b.sopen && c == b.shd))
  live.filter (fun c => c != b.cur && !b.free.getLsbD c
    && live.any (fun d => decide (b.tags.getD c 0 < b.tags.getD d 0) && decide (b.tags.getD d 0 ≤ low)))

/-- They are freed (R102). -/
def freeEntryCopies (s : State) (h part entry : Nat) : State :=
  match s.deadCopies h part entry with
  | [] => s
  | gone =>
    let b := s.bufMap h part entry
    s.setBufMap h part entry { b with free := gone.foldl (fun f c => f ||| 1#4 <<< c) b.free }

/-- Copies that no running crew can still read are freed, in every entry that the home has served (R102). -/
def freeCopies (s : State) (h : Nat) : State := (s.home h).bufs.foldl (fun s e => s.freeEntryCopies h e.1 e.2) s

/-- An access reaches an entry of a home, which knows it from then on; copies of it that none can read are free by then (R102). -/
def touchBuf (s : State) (h part entry : Nat) : State :=
  let m := s.home h
  (s.setHome h (if m.bufs.contains (part, entry) then m else { m with bufs := m.bufs ++ [(part, entry)] })).freeEntryCopies h part entry

/-- The PA that serves a read through a leaf, or its error (R87, R98, R101). -/
def readPlace (s : State) (part : Nat) (crew : Option Nat) (l : Leaf) (va n : Nat) : Except (BitVec 8) Nat :=
  let off := va - l.va
  if !l.buffer then
    if s.leafOk (l.addr + off) && s.leafOk (l.addr + off + n - 1) then .ok (l.addr + off) else .error ePa
  else
    let h := l.addr / 8 % 32
    let b := s.bufMap h part (l.addr / 2 ^ 24)
    let page := l.addr / 256 % 2 ^ 16
    if b.admits page != 0 then .error (b.admits page)
    else
      let pa := b.cpa.getD (b.copyFor (s.adoptedPsn h crew)) 0 + page * b.pageSize + off
      if s.leafOk pa && s.leafOk (pa + n - 1) then .ok pa else .error ePa

/-- A read through a leaf in one step: the entry is touched and the page's hotness counts it (R98, R101, R107). -/
def placeServed (s : State) (field part : Nat) (crew : Option Nat) (l : Leaf) (va n : Nat) : Except (BitVec 8) Nat × State :=
  let h := leafHome l (va - l.va)
  let s := if l.buffer then s.touchBuf h part (l.addr / 2 ^ 24) else s
  match s.readPlace part crew l va n with
  | .ok pa => (.ok pa, s.heat h pa n field)
  | .error e => (.error e, s)

/-- The PA of a far range of this wafer within one page, for an access that needs a right; a remote one has none. -/
def farPlace (s : State) (field part : Nat) (crew : Option Nat) (a : Word) (n : Nat) (acc : Acc) : Except (BitVec 8) Nat × State :=
  match s.farVa a none n with
  | .error e => (.error e, s)
  | .ok none => (.error ePeerLost, s)
  | .ok (some va) => match s.translate field part va acc (spaceOf a == 3) with
    | (.error e, s) => (.error e, s)
    | (.ok l, s) => s.placeServed field part crew l va n

/-- A whole read in one step, of a range within one page (firmware reads and instruction fetch). -/
def readFar (s : State) (field part : Nat) (crew : Option Nat) (a : Word) (n : Nat) (acc : Acc) :
    Except (BitVec 8) (List Byte) × State :=
  match s.farPlace field part crew a n acc with
  | (.ok pa, s) => (.ok (s.readPa pa n), s.countRow (homeOfPa pa) pa)
  | (.error e, s) => (.error e, s)

/-- The 64-byte lines that a range of n bytes touches: the address and the number of its bytes in each. -/
def linePieces (a : Word) (n : Nat) : List (Word × Nat) :=
  let o := a.toNat % 64
  (List.range ((o + n + 63) / 64)).map (fun i =>
    let lo := if i = 0 then 0 else 64 * i - o
    (a + BitVec.ofNat 64 lo, min (64 * (i + 1) - o) n - lo))

/-- A read of far memory line by line, up to the first error. -/
def readLines (s : State) (field part : Nat) (crew : Option Nat) (ps : List (Word × Nat)) : Except (BitVec 8) (List Byte) × State :=
  match ps with
  | [] => (.ok [], s)
  | (a, n) :: rest => match s.readFar field part crew a n .read with
    | (.error e, s) => (.error e, s)
    | (.ok bs, s) => match s.readLines field part crew rest with
      | (.ok r, s) => (.ok (bs ++ r), s)
      | (.error e, s) => (.error e, s)

/-- The PA of a plain far range with A, for firmware's immediate-class writes (R349, R353). -/
def plainPlace (s : State) (field part : Nat) (a : Word) (n : Nat) : Except (BitVec 8) Nat × State := s.farPlace field part none a n .atomic

/-- NEXT of a held block (R365), in a vault or in far memory; an unreadable block is left as it is. -/
def linkBlock (s : State) (k : Nat) (b next : Word) : State :=
  if spaceOf b == 1 then
    let l := globalLoc b
    if isReservedTile l.tile || !s.tileBound l.tile then s else s.writeLoc { l with off := l.off + 64 } (leBytes 8 next.toNat)
  else match s.plainPlace (s.gwOf (tileOfCtx k)) (s.partOf k) (b + 64) 8 with
    | (.ok pa, s) => s.writePa pa (leBytes 8 next.toNat)
    | (.error _, s) => s

/-- A PUBL at a home (R99). -/
def publishAt (s : State) (h part entry : Nat) : State :=
  let b := s.bufMap h part entry
  if !b.sopen then s
  else
    let m := s.home h
    let psn := (m.psn + 1) % 2 ^ 48
    let s := s.setHome h { m with psn }
    (s.setBufMap h part entry { b with tags := b.tags.set b.shd psn, cur := b.shd, sopen := false }).freeCopies h

end State

end Sys2Proof.Machine
end

