-- ==== Sys2Proof/Machine/Version.lean ====
section
/-! DEFINITION. The instructions of chapter 14: VSTAGE, VPUB, VDISCARD, VRETIRE, VQRY (R380-R383), VADOPT (R384) and
SAMPLE (R385). -/

namespace Sys2Proof.Machine

namespace State

/-- The set of a thread's crew; an unbound crew and a context of no crew raise version (R380, R481). -/
def bindOf (s : State) : Except Stop (Nat × Nat) :=
  match s.view.crew with
  | none => .error (.trap cVersion 0)
  | some c => match (s.crew c).boundSet with
    | none => .error (.trap cVersion 0)
    | some v => .ok (c, v)

/-- The site of a set's home (R371). -/
def versionHome (v : Nat) : Nat := gwSite (fieldOfHome (v % 24))

/-- A request to the home of the crew's set; the thread is absent until it is answered. -/
def askHome (s : State) (c v : Nat) (op : VerOp) (d : BitVec 6) : State :=
  (s.sendTo s.cur.tile (versionHome v) 0 s.myCtx (streamOf 0 s.myCtx) (.version v c op)).await (.version d)

/-- A version number in x[A] (R382, R383). -/
def versionArg (s : State) (a : BitVec 6) : Except Stop (BitVec 16) := do
  let x := s.readX a
  check (decide (x.toNat < 2 ^ 16)) cFormat 0
  pure (x.setWidth 16)

/-- VPUB, VDISCARD and VRETIRE ask the home to mark a version, in a replay too, and wait for its answer (R382). -/
def markVersion (pnd : BitVec 2) (d a : BitVec 6) (s : State) : Act := do
  let (c, v) ← s.bindOf
  let n ← s.versionArg a
  .ok ((s.askHome c v (.mark pnd n s.myVcc) d).modMe (fun c => { c with asked := some (.version d) }))

end State

/-- VSTAGE asks the home for a staging version; a replay that has the logged answer sends nothing (R381). -/
def execVstage (g : Guard) (d : BitVec 6) (s : State) : Ans :=
  runThread g s (fun s => do
    let (c, v) ← s.bindOf
    if (s.loggedAnswer s.myCtx).isSome then .ok (s.await (.version d)) else .ok (s.askHome c v .stage d))

def execVpub (g : Guard) (d a : BitVec 6) (s : State) : Ans := runThread g s (State.markVersion 1 d a)

def execVdiscard (g : Guard) (d a : BitVec 6) (s : State) : Ans := runThread g s (State.markVersion 2 d a)

def execVretire (g : Guard) (d a : BitVec 6) (s : State) : Ans := runThread g s (State.markVersion 3 d a)

def execVqry (g : Guard) (d a : BitVec 6) (s : State) : Ans :=
  runThread g s (fun s => do
    let (c, v) ← s.bindOf
    let n ← s.versionArg a
    if (s.loggedAnswer s.myCtx).isSome then .ok (s.await (.version d)) else .ok (s.askHome c v (.query (some n)) d))

def execVqrySet (g : Guard) (d : BitVec 6) (s : State) : Ans :=
  runThread g s (fun s => do
    let (c, v) ← s.bindOf
    if (s.loggedAnswer s.myCtx).isSome then .ok (s.await (.version d)) else .ok (s.askHome c v (.query none) d))

/-- VADOPT announces an adoption vc to every tile of the crew, or joins the pending one (R384). -/
def execVadopt (g : Guard) (imm : BitVec 32) (s : State) : Ans :=
  runThread g s (fun s => do
    let a := s.startVc imm
    check (decide (s.myVcc + 128 ≤ a)) cTiming 0
    let (c, _) ← s.bindOf
    let pending := (s.crew c).dyn.adopt
    check (pending.isNone || pending == some a) cVersion 0
    .ok ((s.modDyn c (fun d => { d with adopt := some a })).modTiles c (fun t => { t with adoptAt := some a })))

/-- The entry of a SAMPLE (R385). -/
def sampleEntry (s : State) (e : TsEnt) : Except Stop Unit := do
  check (e.vld && e.ty == .f32 && e.scl == 0 && e.ndim == 0 && !e.unf && !e.ord && decide (spaceOf e.base ≤ 1)) cFormat 0
  check (s.destTile e.base == s.cur.tile) cFormat 0
  s.attachedAll (panelSpans e)

/-- The draw of SAMPLE: prefix sums in FP32, u = r * T / 2^32 rounded toward zero, the first positive weight whose sum
reaches u (R385). -/
def sampleToken (ws : List Nat) (r : BitVec 32) : Word :=
  let vals := ws.map (valueOf .f32)
  let bad := vals.any (fun v => v.isNan || v.isInf || v.isNeg && !v.isZero)
  let next (p : Val) (w : Val) : Val := valueOf .f32 (roundTo .f32 .rne false (exactSum false [p, w]).v).code
  let sums := (vals.foldl (fun (acc : List Val) w => next (acc.headD (.fin false 0 0)) w :: acc) []).reverse
  let total := sums.getLastD (.fin false 0 0)
  if bad || total.isZero || total.isInf then 0xFFFFFFFF
  else
    let u := valueOf .f32 (roundTo .f32 .rz false ((mulVal (valInt r.toNat) total).v.scale (-32))).code
    match (vals.zip sums).findIdx? (fun v => !v.1.isZero && decide (0 ≤ v.2.cmp u)) with
    | some i => BitVec.ofNat 64 i
    | none => 0xFFFFFFFF

/-- The bytes of n FP32 weights of an entry; one that no map entry lets the thread read raises R150's fault (R246, R385). -/
def State.weightBytes (s : State) (e : TsEnt) (n : Nat) : Except Stop (List Byte) :=
  (List.range (4 * n)).mapM (fun i => (s.resolve (e.addr (0, 0, 0) i) false).map (fun p => (s.readLoc p 1).headD 0))

def execSample (g : Guard) (d b e : BitVec 6) (mem : MemOp) (s : State) : Ans :=
  runThread g s (fun s => do
    let te := s.ent s.myCore e
    sampleEntry s te
    s.tagCheck te
    let n := te.dim 0 + 1
    let bytes ← s.weightBytes te n
    let (a, l) ← s.vaultEA mem 8 [kAlias, kVault] rW true
    let ws := (List.range n).map (fun i => leNat ((bytes.drop (4 * i)).take 4))
    let c := s.readX b
    let tok := sampleToken ws (kmix c s.view.rkey)
    let pvr : BitVec 16 := if s.view.crew.isSome then s.myTile.pvr else 0
    let rec_ : BitVec 64 := c.setWidth 16 ++ pvr ++ tok.setWidth 32
    let s ← s.bufferStore a l 8 (enBytes 8) (rec_.setWidth 512)
    .ok (s.await (.sample d tok (s.rc + 8 + (n + 15) / 16))))

end Sys2Proof.Machine
end

