-- ==== Sys2Proof/Machine/Trap.lean ====
section
/-! DEFINITION. The instructions of chapter 15: TRAP, TWIN (R406, R407), the returns RESUME, ERET, ERET.kill (R408), SWPO
and SWPI with the spill area (R403, R409), STOP (R410) and RDREC (R411). -/

namespace Sys2Proof.Machine

def execTrap (g : Guard) (x : BitVec 16) (s : State) : Ans :=
  runThread g s (fun _ => .error (.trap cTrap (x.setWidth 64)))

/-- The trap-window address of a slot, bits [59:0] (R394, R407). -/
def slotWindow (core slot : Nat) : Word :=
  0#16 ++ BitVec.ofNat 16 (tileOfCore core) ++ 0#8 ++ BitVec.ofNat 2 (core % 4) ++ 0#4 ++ BitVec.ofNat 6 slot ++ 0#12

/-- TWIN claims the oldest record that no context has claimed (R407). -/
def twin (nw : Bool) (d : BitVec 6) (s : State) : Act := do
  check (!s.me.rcv) cFormat 0
  match s.here.trapq.find? (fun r => !r.claimed) with
  | none => if nw then .ok (s.writeX d 0 2) else .error (.sleep .twin)
  | some r =>
    let s1 := s.modCore s.myCore (fun c => { c with
      trapq := c.trapq.map (fun q => if q.entry == r.entry then { q with claimed := true } else q) })
    .ok ((s1.modMe (fun c => { c with rcv := true, ridx := r.entry })).writeX d
      (slotWindow (coreOfCtx r.ctx) (r.ecause.extractLsb' 40 4).toNat) 2)

def execTwin (g : Guard) (d : BitVec 6) (s : State) : Ans := runPriv 1 g s (twin false d)

def execTwinNw (g : Guard) (d : BitVec 6) (s : State) : Ans := runPriv 1 g s (twin true d)

namespace State

/-- RETURNING FROM A TRAP: the frozen context goes on with a resume state, present if it is in a slot; a held context stays
held (R408).  A stream that trapped before its first group could be read, and whose addresses nobody has changed, still forms
npc and nnpc from the lines at pc (R313). -/
def returnTo (s : State) (k : Nat) (f : Resume) : State :=
  s.modCtx k (fun c => { c with frz := false, s := f, fresh := c.fresh && f == c.s, since := s.vccOf k })

/-- The claim ends: RCV = 0, the record leaves its queue; the handler's own trap registers keep what they read (R408). -/
def endClaim (s : State) : State :=
  let t := s.trapRegs
  (s.modCore s.myCore (fun c => { c with trapq := c.trapq.filter (fun r => !(r.claimed && r.entry == s.me.ridx)) })).modMe
    (fun c => { c with rcv := false, epc := t.getD 0 0, enpc := t.getD 1 0, ennpc := t.getD 2 0, estat := t.getD 3 0,
                       ecause := t.getD 4 0, eaddr := t.getD 5 0 })

/-- The record a return acts on, and the check of the context's segments (R395, R408). -/
def returnCheck (s : State) : Except Stop TrapRec :=
  match s.claimed s.myCtx with
  | none => .error (.trap cFormat 0)
  | some r => do
    check ((List.range 8).all (fun i => (Tbl.get {} (s.ctx r.ctx).sg i).wf)) cFormat 0
    pure r

end State

/-- RESUME issues the trapped group again (R408). -/
def execResume (g : Guard) (s : State) : Ans :=
  runPriv 1 g s (fun s => do
    let r ← s.returnCheck
    .ok (((s.endClaim).returnTo r.ctx (s.ctx r.ctx).s).logEv (tileOfCtx r.ctx) (.ret r.ctx 0 0) 0))

/-- ERET skips the trapped group (R408). -/
def execEret (g : Guard) (s : State) : Ans :=
  runPriv 1 g s (fun s => do
    let r ← s.returnCheck
    let f := (s.ctx r.ctx).s
    codeCheck (s.ctx r.ctx).code f.nnpc f.nnpc
    match (s.held (coreOfCtx r.ctx) f.nnpc).or (s.held s.myCore f.nnpc) with
    | none => .error (.sleep (.fetch f.nnpc))
    | some l =>
      let n := if pairBit l (slotIndex f.nnpc) then 2 else 1
      .ok ((s.endClaim.returnTo r.ctx ⟨f.npc, f.nnpc, nextAddr f.nnpc n, 0#1 ++ f.nul.extractLsb' 1 1⟩).logEv
        (tileOfCtx r.ctx) (.ret r.ctx 1 (nextAddr f.nnpc n)) 8))

/-- ERET.kill retires the trapped context (R366, R408). -/
def execEretKill (g : Guard) (a : BitVec 6) (s : State) : Ans :=
  runPriv 1 g s (fun s => do
    let r ← s.returnCheck
    let s1 := s.endClaim.logEv (tileOfCtx r.ctx) (.ret r.ctx 2 (s.readX a)) 8
    .ok (s1.retire r.ctx (s.readX a)))

/-- The checks of R409 on x[A]; TWIN's result, without the space bits, is taken too. -/
def State.swapArg (s : State) (x : Word) (q : Bool) : Except Stop (Nat × Nat) := do
  let a := if spaceOf x == 0 then x ||| (4#4 ++ 0#60) else x
  let b := if q then a &&& ~~~0x3F000 else a
  check (spaceOf a == 4 && s.windowOk s.level s.cur.tile b) cLimit x
  check (winKind a == 0 && winOff a == 0) cFormat x
  pure (winCore a, winIndex a)

namespace State

/-- SWPO's and SWPI's statuses (R409). -/
def swEmpty : Word := 2 ^ 63 + 1
def swFull : Word := 2 ^ 63 + 2
def swNoSpill : Word := 2 ^ 63 + 3
def swNotHeld : Word := 2 ^ 63 + 4

/-- A context may leave at once: present, frozen or in an interruptible wait (R401). -/
def mayGo (c : Ctx) : Bool :=
  c.frz || (c.wait == .none || c.wait.interruptible) && c.whole

/-- Entry e of a core's spill area, if it lies in HBM4E (R391, R403). -/
def spillPa (s : State) (core e : Nat) : Option Nat :=
  let pa := (Tbl.get 0 (s.tile (tileOfCore core)).spb (core % 4)).toNat
  if pa != 0 && decide (e < 256) && decide (paUnit pa < 0x30) && s.paOk pa && s.paOk (pa + 256 * 0xA00 - 1)
      && paUnit (pa + 256 * 0xA00 - 1) == paUnit pa then some (pa + e * 0xA00)
  else none

/-- Every place that names a context by number, when it takes another number (R409). -/
def renumber (s : State) (k k' : Nat) : State :=
  let r (x : Nat) : Nat := if x == k then k' else x
  let cmd (c : Cmd) : Cmd := { c with ctx := r c.ctx }
  let op (o : MOp) : MOp := { o with ctx := r o.ctx }
  let tile (t : Tile) : Tile :=
    { t with watches := t.watches.map (fun w => { w with ctx := r w.ctx })
             resv := t.resv.map (fun w => { w with queue := w.queue.map r }) }
  let core (c : Core) : Core :=
    { c with uq := c.uq.map cmd, tq := c.tq.map cmd, runs := c.runs.map (fun q => { q with cmd := cmd q.cmd })
             mq := c.mq.map op, mtq := c.mtq.map op, mrun := c.mrun.map op
             outs := c.outs.map (fun o => { o with ctx := r o.ctx }), handler := c.handler.map r
             trapq := c.trapq.map (fun q => { q with ctx := r q.ctx }) }
  let s1 : State := { s with tiles := s.tiles.map (fun e => (e.1, tile e.2)), cores := s.cores.map (fun e => (e.1, core e.2)),
                             net := s.net.map (fun p => { p with ctx := r p.ctx }) }
  (s1.setCtx k' (s1.ctx k)).setCtx k {}

/-- SWPO acts at the target core, once the context there may leave; `none` while it may not (R401, R409). -/
def swapOut (s : State) (by_ core slot : Nat) (spill : Option Nat) : Option (Word × State) :=
  if s.swapping core slot then none
  else match s.inSlot core slot with
    | none => some (swEmpty, s)
    | some k =>
      let pa := spill.map (s.spillPa core)
      if pa == some none then some (swNoSpill, s)
      else if k == by_ || !mayGo (s.ctx k) || s.linesHeld (frameLoc k) 0xA00 then none
      else
        let s1 := ((s.clearSlot core slot).saveFrame k).modCtx k (fun c => { c with held := true })
        match pa.join, spill with
        | some pa, some e =>
          let s2 := (s1.writePa pa (s1.readLoc (frameLoc k) 0xA00)).renumber k (k + spillBase * (e + 1))
          some (BitVec.ofNat 64 e, s2.dealWaiting core)
        | _, _ => some (BitVec.ofNat 64 (k % 64), s1)

/-- SWPI of a held context into a slot, or released to wait (R409). -/
def swapIn (s : State) (core slot num : Nat) (q : Bool) : Word × State :=
  let k := ctxKey core num
  let c := s.ctx k
  if !(decide (num < 64) && c.used && c.held) then (swNotHeld, s)
  else if !q && !s.slotEmpty core slot then (swEmpty, s)
  else
    let s1 := s.modCtx k (fun c => { c with held := false, since := s.vccOf k })
    (0, if q then s1 else (s1.loadFrame k).putSlot core slot k)

/-- A context as a frame image that no saved context stands behind gives it, LVL included (R387, R409). -/
def imageCtx (s : State) (k : Nat) (bs : List Byte) : Ctx :=
  let w := word64 bs 0
  let segs := w.extractLsb' 40 4
  { s.withFrame k { used := true, segs, el := w.getLsbD 39, rdy := w.getLsbD 36, frz := w.getLsbD 57,
                    code := s.segEntry (coreOfCtx k) segs 0 } bs (w.extractLsb' 37 2) with used := true }

/-- SWPI.far: a spill entry becomes a context under a new number (R409). -/
def swapInFar (s : State) (core slot e : Nat) (q : Bool) : Word × State :=
  match s.spillPa core e with
  | none => (swNoSpill, s)
  | some pa =>
    if !q && !s.slotEmpty core slot then (swEmpty, s)
    else match s.freeNum core with
      | none => (swFull, s)
      | some n =>
        let k := ctxKey core n
        let bs := s.readPa pa 0xA00
        let lvl := (word64 bs 0).extractLsb' 37 2
        let s1 := match (s.ctxs.find? (fun x => x.2.used && decide (spillBase * (e + 1) ≤ x.1)
              && decide (x.1 < spillBase * (e + 2)) && coreOfCtx x.1 == core)).map Prod.fst with
          | some h => ((s.renumber h k).loadBytesInto k bs).modCtx k (fun c => { c with lvl, lastSlot := none })
          | none =>
            let s0 : State := { s with nextId := s.nextId + 1 }
            let s0 := s0.setCtx k { s.imageCtx k bs with uid := s.nextId }
            if lvl != 0 && (s0.core core).handler.all (fun h => !(s0.ctx h).used) then
              s0.modCore core (fun c => { c with handler := some k })
            else s0
        let s2 := s1.modCtx k (fun c => { c with held := false, since := s1.vccOf k })
        (BitVec.ofNat 64 n, if q then s2 else s2.putSlot core slot k)

end State

/-- SWPO acts at once, or waits for the context to be able to leave. -/
def swpo (far : Bool) (d a b : BitVec 6) (s : State) : Act := do
  let (core, slot) ← s.swapArg (s.readX a) false
  let spill := if far then some (s.readX b).toNat else none
  match s.swapOut s.myCtx core slot spill with
  | some (v, s) => .ok (s.writeX d v 2)
  | none => .ok (s.await (.swap d core slot spill))

def execSwpo (g : Guard) (d a : BitVec 6) (s : State) : Ans := runPriv 1 g s (swpo false d a 0)

def execSwpoFar (g : Guard) (d a b : BitVec 6) (s : State) : Ans := runPriv 1 g s (swpo true d a b)

/-- SWPI in its forms (R409). -/
def swpi (far q : Bool) (d a b : BitVec 6) (s : State) : Act := do
  let (core, slot) ← s.swapArg (s.readX a) q
  let n := (s.readX b).toNat
  let (v, s) := if far then s.swapInFar core slot n q else s.swapIn core slot n q
  .ok (s.writeX d v 2)

def execSwpi (g : Guard) (d a b : BitVec 6) (s : State) : Ans := runPriv 1 g s (swpi false false d a b)

def execSwpiQ (g : Guard) (d a b : BitVec 6) (s : State) : Ans := runPriv 1 g s (swpi false true d a b)

def execSwpiFar (g : Guard) (q : Bool) (d a b : BitVec 6) (s : State) : Ans := runPriv 1 g s (swpi true q d a b)

namespace State

/-- The running crews of a partition, of one task number if one is given (R410). -/
def runningCrews (s : State) (part : Nat) (task : Option Nat) : List Nat :=
  (s.crews.filter (fun e => e.2.live && e.2.st == .running && e.2.part == part
    && task.all (fun t => e.2.task.toNat == t))).map Prod.fst

/-- A stop freezes the horizon at its current value (R399). -/
def stopHorizon (s : State) (crew : Nat) : State :=
  let h := s.horizon crew
  s.modCrew crew (fun w => { w with haltAt := some (w.haltAt.getD h) })

/-- The target of STOP: partition and task number (R410). -/
def stopArg (x : Word) (part : Bool) : Except Stop (Nat × Nat) := do
  check (x.extractLsb' 36 28 == 0 && (!part || x.extractLsb' 0 32 == 0)) cFormat 0
  pure ((x.extractLsb' 32 4).toNat, (x.extractLsb' 0 32).toNat)

/-- STOP.crew and STOP.part hold the crews and wait for their halts (R410). -/
def stopCrews (s : State) (d : BitVec 6) (part : Nat) (task : Option Nat) : State :=
  let ws := s.runningCrews part task
  if ws.isEmpty then s.writeX d 1 2
  else if ws.all (fun w => (s.crew w).stopHold) then s.writeX d 2 2
  else
    let s := ws.foldl (fun s w => (s.modCrew w (fun w => { w with stopHold := true })).stopHorizon w) s
    if ws.all (fun w => (s.crew w).haltDone) then s.writeX d 0 2 else s.await (.stop d part task)

/-- The tiles of a crew go on once neither a stop, a deep belay nor the splice engine holds it (R399, R434, R457). -/
def unhalt (s : State) (crew : Nat) : State :=
  let w := s.crew crew
  s.modTiles crew (fun t => { t with halted := t.halted && (w.frozen || mustHalt w t.vcc) })

/-- The STOP hold of a crew is released; a replay still ends at its own vc before the crew goes on (R399, R431). -/
def stopGo (s : State) (crew : Nat) : State :=
  (s.modCrew crew (fun w => { w with stopHold := false, haltAt := none, haltDone := false })).unhalt crew

end State

def execStopCrew (g : Guard) (d a : BitVec 6) (s : State) : Ans :=
  runPriv 1 g s (fun s => do
    let (p, t) ← State.stopArg (s.readX a) false
    .ok (s.stopCrews d p (some t)))

def execStopPart (g : Guard) (d a : BitVec 6) (s : State) : Ans :=
  runPriv 1 g s (fun s => do
    let (p, _) ← State.stopArg (s.readX a) true
    .ok (s.stopCrews d p none))

/-- STOP.go; task number 0 names the whole partition (log entry 13). -/
def execStopGo (g : Guard) (d a : BitVec 6) (s : State) : Ans :=
  runPriv 1 g s (fun s => do
    let (p, t) ← State.stopArg (s.readX a) false
    let ws := s.runningCrews p (if t = 0 then none else some t)
    let held := ws.filter (fun w => (s.crew w).stopHold)
    if ws.isEmpty then .ok (s.writeX d 1 2)
    else if held.isEmpty then .ok (s.writeX d 2 2)
    else .ok ((held.foldl State.stopGo s).writeX d 0 2))

/-- The words of a core's stop record (R400). -/
def stopWord (c : Core) (w : Nat) : Word := if w = 0 then c.stop0 else if w = 1 then c.stop1 else c.stop2

def execRdrec (g : Guard) (d a : BitVec 6) (w : BitVec 2) (s : State) : Ans :=
  runPriv 1 g s (fun s => do
    let x := s.readX a
    let a := if spaceOf x == 0 then x ||| (4#4 ++ 0#60) else x
    check (spaceOf a == 4 && s.windowOk s.level s.cur.tile a && winKind a == 2 && winOff a == 0) cFormat 0
    .ok (s.writeX d (stopWord (s.core (winCore a)) w.toNat) 2))

end Sys2Proof.Machine
end

