-- ==== Sys2Proof/Machine/Belay.lean ====
section
/-! DEFINITION. BLAY and BLQ (R435-R437), with what they read: scheduled cuts (R415), the fill of a rope pool (R423), the
spare reserve (R433) and the crew status. -/

namespace Sys2Proof.Machine

/-- The first regular cut vc above a vc (R415). -/
def nextRegular (w : Crew) (v : Nat) : Nat :=
  let n := 2 ^ w.blk.belay
  w.tstart + ((v - w.tstart) / n + 1) * n

/-- The vc of the next scheduled cut (R437). -/
def nextCut (w : Crew) (v : Nat) : Nat :=
  (w.cuts.filter (fun c => decide (v < c))).foldl min (nextRegular w v)

/-- A multiple of 64 at or above a vc. -/
def up64 (v : Nat) : Nat := (v + 63) / 64 * 64

namespace State

/-- A cut enters the crew's schedule, once (R415, R438). -/
def enterCut (s : State) (crew c : Nat) : State :=
  s.modCrew crew (fun w => if w.cuts.contains c then w else { w with cuts := w.cuts ++ [c] })

/-- The record of a cut vc in the crew log, at the root tile; for a cut that BLAY asked for, by whom and when (R415, R436). -/
def logCut (s : State) (crew c : Nat) (by_ : Option (Nat × Nat)) : State :=
  let t0 := (s.crew crew).t0
  let s1 := s.modCrew crew (fun w => { w with log := w.log ++ [{ vc := c, tile := t0, ev := .cut by_ }] })
  let s2 := s1.modSite (s1.siteOf t0) (fun t => { t with logB := t.logB + 16 })
  s2.modSite (s2.siteOf (s2.partnerOf t0)) (fun t => { t with repB := t.repB + 16 })

/-- A cut is scheduled and its vc logged; a replay takes the logged cuts and no other (R415). -/
def scheduleCut (s : State) (crew c : Nat) : State :=
  if atReplay (s.crew crew) (s.tile (s.crew crew).t0).vcc || (s.crew crew).cuts.contains c then s
  else (s.enterCut crew c).logCut crew c none

/-- A good C0 spare: a compute site with power that no tile is bound to (R30, R433). -/
def isSpare (s : State) (n : Nat) : Bool :=
  let t := s.site n
  isSite n && (controlOf n).isNone && t.cls == 0 && !t.unusable && !t.hole && !t.fenced && s.siteUp n
    && (s.tileAt n).isNone

/-- All good C0 spares, by site number. -/
def spares (s : State) : List Nat := (List.range (184 * 256)).filter s.isSpare

/-- The register SPRES (R433). -/
def spres (s : State) : Word :=
  s.sys.sell ++ BitVec.ofNat 16 s.spares.length ++ 552#16 ++ BitVec.ofNat 16 s.sys.retire.length

/-- The crew status CRST (R437). -/
def crst (w : Crew) : Word :=
  w.nspl ++ w.ncut ++ 0#23 ++ BitVec.ofBool w.swx ++ 0#3 ++ BitVec.ofNat 5 w.blk.belay

end State

/-- The cut that a BLAY requests (R436). -/
def blayCut (w : Crew) (v : Nat) : Nat :=
  let c := up64 (v + 128)
  let near := w.cuts ++ (if nextRegular w (v + 127) ≤ c then [nextRegular w (v + 127)] else [])
  (near.filter (fun a => decide (v + 128 ≤ a))).foldl min c

/-- A BLAY's cut is scheduled; a replay takes the one that the log holds for it (R415, R421, R436). -/
def State.blaySchedule (s : State) (crew : Nat) : Nat × State :=
  let v := s.myVcc
  let mine (r : LogRec) : Bool := r.ev == .cut (some (s.myCtx, v))
  match (s.crew crew).redo.find? mine with
  | some r => (r.vc, s.modCrew crew (fun w => { w with redo := w.redo.filter (fun q => !mine q) }))
  | none =>
    let c := blayCut (s.crew crew) v
    (c, (s.enterCut crew c).logCut crew c (some (s.myCtx, v)))

def execBlay (g : Guard) (d : BitVec 6) (s : State) : Ans :=
  runThread g s (fun s =>
    match s.view.crew with
    | none => .error (.trap cFormat 0)
    | some c =>
      let (v, s) := s.blaySchedule c
      .ok (s.writeX d (BitVec.ofNat 64 v) 2))

def execBlayW (g : Guard) (d : BitVec 6) (s : State) : Ans :=
  runThread g s (fun s =>
    match s.view.crew with
    | none => .error (.trap cFormat 0)
    | some c =>
      let (v, s) := s.blaySchedule c
      .ok (s.await (.blayW d (BitVec.ofNat 64 v))))

/-- Every running crew takes an early cut, past the end of its replay if it has one, and is to halt at its vc (R434). -/
def State.deepStart (s : State) (k : Nat) : State :=
  let s := { s with sys := { s.sys with deepReq := some k } }
  (s.crews.filter (fun e => e.2.live && e.2.st == .running)).foldl (fun s e =>
    let c := up64 (max (s.horizon e.1) (((s.crew e.1).replayTo.or (s.crew e.1).haltAt).getD 0))
    ((s.enterCut e.1 c).logCut e.1 c none).modCrew e.1 (fun w => { w with deepCut := some c })) s

def execBlayDeep (g : Guard) (d : BitVec 6) (s : State) : Ans :=
  runPriv 1 g s (fun s =>
    if !s.sys.dbctl.getLsbD 0 then .ok (s.writeX d 1 2)
    else if s.sys.deepReq.isSome then .ok (s.writeX d 2 2)
    else .ok ((s.deepStart s.myCtx).await (.blayDeep d)))

/-- The value of BLQ (R437). -/
def blqValue (s : State) (c : Option Nat) (which : Nat) : Word :=
  let w := match c with | some c => s.crew c | none => {}
  match which with
  | 0 => BitVec.ofNat 64 (w.lastC.getD w.tstart)
  | 1 => BitVec.ofNat 64 (nextCut w s.myVcc)
  | 2 => BitVec.ofNat 64 (s.ropeFill s.cur.tile)
  | 3 => s.spres
  | _ => State.crst w

def execBlq (g : Guard) (d : BitVec 6) (which : BitVec 3) (s : State) : Ans :=
  runThread g s (fun s => do
    check (s.view.crew.isSome || which == 2 || which == 3) cFormat 0
    match s.loggedAnswer s.myCtx, s.view.crew with
    | some v, some c => .ok ((s.dropRedo c (fun e => e == .answer s.myCtx v)).writeX d v 2)
    | _, _ =>
      let v := blqValue s s.view.crew which.toNat
      .ok ((s.writeX d v 2).logEv s.cur.tile (.answer s.myCtx v) 16))

end Sys2Proof.Machine
end

