-- ==== Sys2Proof/Machine/Matrix.lean ====
section
/-! DEFINITION. The matrix engine's operations at issue: operand groups and shapes (R234-R236), stages and their lines
(R239), the schedule (R240-R242), MMA, MMAT, MZERO, MLDC, MSTC (R243-R249), and the neighbour-link instructions LNPUSH and
LNCFG (R255, R256). -/

namespace Sys2Proof.Machine

/-- The operand group of a format (R234): FP64, FP32, 16-bit, 8- and 6-bit, 4-bit. -/
def fmtGroup (t : Ty) : Option Nat :=
  match t with
  | .f64 => some 0
  | .f32 => some 1
  | .bf16 | .f16 => some 2
  | .e4m3 | .e5m2 | .e3m2 | .e2m3 => some 3
  | .e2m1 | .f4s => some 4
  | _ => none

/-- The group of a pair of formats (R234). -/
def pairGroup (a b : Ty) : Option Nat :=
  match fmtGroup a, fmtGroup b with
  | some x, some y => if x == y then some x else if decide (3 ≤ x) && decide (3 ≤ y) then some 3 else none
  | _, _ => none

/-- P: rc per 16-k chunk (R234). -/
def chunkTime (group : Nat) : Nat := [2048, 256, 64, 32, 16].getD group 0

/-- E: k per stage (R234). -/
def stageK (group : Nat) : Nat := [64, 128, 256, 256, 256].getD group 1

/-- A matrix operand: its entry, row0 for an unfolded one, its rows or columns (M or N) and K. -/
structure Operand where
  e : TsEnt
  row0 : Nat
  n : Nat
  k : Nat

/-- Geometry of an unfolded entry (R118): output height times width, and columns. -/
def unfRows (e : TsEnt) : Nat := (e.geo 28 16 + 1) * (e.geo 44 16 + 1)

def unfCols (e : TsEnt) : Nat := (e.geo 0 4 + 1) * (e.geo 4 4 + 1) * (e.dim 0 + 1)

/-- The element an unfolded matrix takes at (m, k); none in padding (R118). -/
def unfElem (e : TsEnt) (m k : Nat) : Option (Nat × (Nat × Nat × Nat)) :=
  let ow := e.geo 44 16 + 1
  let c := e.dim 0 + 1
  let kw := e.geo 4 4 + 1
  let iy : Int := (m / ow * (e.geo 8 3 + 1) + k / (kw * c) * (e.geo 22 3 + 1) : Nat) - (e.geo 14 4 : Nat)
  let ix : Int := (m % ow * (e.geo 11 3 + 1) + k / c % kw * (e.geo 25 3 + 1) : Nat) - (e.geo 18 4 : Nat)
  if 0 ≤ ix ∧ ix ≤ e.dim 1 ∧ 0 ≤ iy ∧ iy ≤ e.dim 2 then some (k % c, (ix.toNat, iy.toNat, 0)) else none

/-- The tensor element that operand element (m, k) is; none for padding (R235, R236). -/
def Operand.elem (o : Operand) (m k : Nat) : Option (Nat × (Nat × Nat × Nat)) :=
  if o.e.unf then unfElem o.e (o.row0 + m) k else if o.e.ord then some (m, (k, 0, 0)) else some (k, (m, 0, 0))

/-- The addresses of the bytes of an element (R116). -/
def elemAddrs (e : TsEnt) (i : Nat × (Nat × Nat × Nat)) : List Word :=
  let b0 := i.1 * e.bits / 8
  let b1 := (i.1 * e.bits + e.bits - 1) / 8
  (List.range (b1 + 1 - b0)).map (fun b => e.addr i.2 (b0 + b))

/-- The addresses of the scale bytes of an element's block. -/
def elemScales (e : TsEnt) (i : Nat × (Nat × Nat × Nat)) : List Word :=
  (List.range e.scaleBytes).map (e.scaleAddr i.1 i.2)

/-- The shape of an operand (R235, R236); `isA` allows an unfolded entry. -/
def operandOf (e : TsEnt) (isA : Bool) (row0 : Word) : Option Operand :=
  if !(decide (spaceOf e.base ≤ 1) && decide (spaceOf e.sbase ≤ 1)) then none
  else if e.unf then
    if isA && decide (row0.toNat < unfRows e) then some ⟨e, row0.toNat, min 32 (unfRows e - row0.toNat), unfCols e⟩ else none
  else
    let col := e.scl == 0 && e.base.toNat % 64 == 0 && e.str 1 % 64 == 0 && (e.dim 0 + 1) * e.bits % 512 == 0
    let (n, k) := if e.ord then (e.dim 0 + 1, e.dim 1 + 1) else (e.dim 1 + 1, e.dim 0 + 1)
    if decide (e.ndim ≤ 1) && row0 == 0 && (!e.ord || col) && decide (n ≤ 32) then some ⟨e, 0, n, k⟩ else none

/-- The physical order of lines (R239). -/
def State.lineKey (s : State) (l : Line) : Nat := vaultKey (s.siteOf l.tile) l.bank (64 * l.line)

/-- A line added to a list in ascending physical address, each line once. -/
def State.insLine (s : State) (l : Line) (ls : List Line) : List Line :=
  match ls with
  | [] => [l]
  | x :: rest =>
    if x == l then x :: rest else if s.lineKey l < s.lineKey x then l :: x :: rest else x :: s.insLine l rest

/-- The lines of a list of addresses under a latched map. -/
def State.linesOf (s : State) (place : Word → Except (BitVec 8) Loc) (as : List Word) : List Line :=
  as.foldl (fun acc a => match place a with
    | .ok l => s.insLine ⟨l.tile, l.bank, l.off / 64⟩ acc
    | .error _ => acc) []

/-- The elements of an operand that a stage uses. -/
def Operand.stageElems (o : Operand) (k0 k1 : Nat) : List (Nat × (Nat × Nat × Nat)) :=
  (List.range o.n).flatMap (fun m => (List.range (k1 - k0)).filterMap (fun k => o.elem m (k0 + k)))

/-- The line list of a stage (R239). -/
def State.stageLines (s : State) (place : Word → Except (BitVec 8) Loc) (a b : Operand) (k0 k1 : Nat) : List Line :=
  let ea := a.stageElems k0 k1
  let eb := b.stageElems k0 k1
  s.linesOf place (ea.flatMap (elemAddrs a.e)) ++ s.linesOf place (ea.flatMap (elemScales a.e))
    ++ s.linesOf place (eb.flatMap (elemAddrs b.e)) ++ s.linesOf place (eb.flatMap (elemScales b.e))

/-- The stages of a product with their compute times (R239). -/
def State.stagesOf (s : State) (place : Word → Except (BitVec 8) Loc) (a b : Operand) (group : Nat) : List (List Line × Nat) :=
  let e := stageK group
  (List.range ((a.k + e - 1) / e)).map (fun q =>
    let k0 := q * e
    let k1 := min a.k (k0 + e)
    (s.stageLines place a b k0 k1, (k1 - k0 + 15) / 16 * chunkTime group))

/-- R240 with no lost cycle from g, E(q-1), E(q-2): the cycle of each line, and the end of the last stage. -/
def scheduleGo (stages : List (List Line × Nat)) (g e1 e2 : Nat) : List (Line × Nat) × Nat :=
  match stages with
  | [] => ([], e1)
  | (ls, d) :: rest =>
    let f := max g (2 * e2)
    let here := ls.zipIdx.map (fun l => (l.1, f + l.2))
    let g' := f + ls.length
    let e := max e1 ((g' + 1) / 2) + d
    let (more, last) := scheduleGo rest g' e e1
    (here ++ more, last)

/-- The completion vc of stages that start at s (R240). -/
def spanOf (stages : List (List Line × Nat)) (s : Nat) : Nat := (scheduleGo stages (2 * s) s s).2 + 4 - s

/-- Where a line latched by the issuing thread lies. -/
def State.myPlace (s : State) (a : Word) : Except (BitVec 8) Loc :=
  s.latched s.cur.tile s.here.bmap s.view.crew s.level a

/-- The banks of the lines of all stages. -/
def stageRefs (stages : List (List Line × Nat)) : List (Nat × Nat) :=
  stages.foldl (fun acc st => st.1.foldl (fun acc l =>
    if acc.contains (l.tile, l.bank) then acc else acc ++ [(l.tile, l.bank)]) acc) []

/-- R131 steps 2 and 3 on the entries of an operation, all of them at each step; a global address outside R149 is a segment limit. -/
def State.engineWindows (s : State) (es : List TsEnt) (write : Bool) : Except Stop Unit := do
  check (!write || es.all TsEnt.wr) cRights 0
  s.attachedAll (es.flatMap panelSpans)
  match (allWindows (es.flatMap panelSpans)).find? (fun a => spaceOf a == 1 && !s.vaultSpaceOk a) with
  | some a => .error (.trap cLimit a)
  | none => .ok ()

/-- R131 steps 1 to 3 on the one entry of an operation. -/
def State.engineEntry (s : State) (r : BitVec 6) (write : Bool) : Except Stop TsEnt := do
  let e ← s.named r false
  s.engineWindows [e] write
  pure e

/-- R131 steps 1 to 3 on the entries of a product: A may be unfolded (R245). -/
def State.productEntries (s : State) (a b : BitVec 6) : Except Stop (TsEnt × TsEnt) := do
  let ea ← s.named a true
  let eb ← s.named b false
  s.engineWindows [ea, eb] false
  pure (ea, eb)

/-- The shapes of a product: operands and group (R234-R236), with TY matching the group. -/
def productOf (f64 : Bool) (ea eb : TsEnt) (row0 : Word) : Option (Operand × Operand × Nat) :=
  match pairGroup ea.ty eb.ty, operandOf ea true row0, operandOf eb false 0 with
  | some g, some a, some b => if a.k == b.k && (g == 0) == f64 then some (a, b, g) else none
  | _, _, _ => none

/-- The operation as the issuing thread latches it (R245). -/
def State.newMOp (s : State) (kind : MKind) (acc : Nat) (stages : List (List Line × Nat)) : MOp :=
  { id := 0, kind, acc, ctx := s.myCtx, uid := s.view.uid, slot := s.cur.slot, lvl := s.view.lvl, crew := s.view.crew,
    map := s.here.bmap, stages, span := spanOf stages 0, refs := stageRefs stages }

/-- An untimed operation waits for the engine, its thread absent (R242, R243). -/
def State.queueOp (s : State) (o : MOp) (w : Wait) : State :=
  let s1 : State := { s with nextId := s.nextId + 1 }
  (s1.modCore s.myCore (fun c => { c with mq := c.mq ++ [{ o with id := s.nextId }] })).await w

def execMma (g : Guard) (ty : Ty) (z sat : Bool) (d : BitVec 4) (a b c : BitVec 6) (s : State) : Ans :=
  runThread g s (fun s => do
    let (ea, eb) ← s.productEntries a b
    let row0 := s.readX c
    match productOf (ty == .f64) ea eb row0 with
    | none => .error (.trap cFormat 0)
    | some (oa, ob, grp) =>
      let stages := s.stagesOf s.myPlace oa ob grp
      check (stages.all (fun st => decide (st.1.length ≤ 512))) cFormat 0
      s.tagCheck ea
      s.tagCheck eb
      .ok (s.queueOp (s.newMOp (.mma z sat (ty == .f64) ea eb row0.toNat) d.toNat stages) .mma))

def execMmat (g : Guard) (ty : Ty) (z sat : Bool) (d : BitVec 4) (a b c : BitVec 6) (x : BitVec 16) (imm : BitVec 32)
    (s : State) : Ans :=
  runThread g s (fun s => do
    let (ea, eb) ← s.productEntries a b
    let bar ← s.barCheck (s.readX c) s.cur.tile
    check (!ea.unf || c != 31 && c != 63) cFormat 0
    let row0 := if ea.unf then s.readX (c + 1) else 0
    match productOf (ty == .f64) ea eb row0 with
    | none => .error (.trap cFormat 0)
    | some (oa, ob, grp) =>
      let stages := s.stagesOf s.myPlace oa ob grp
      check (stages.all (fun st => decide (st.1.length ≤ 512))) cFormat 0
      check (stages.all (fun st => st.1.all (fun l => l.tile == s.cur.tile))) cFormat 0
      let start ← s.timedCheck imm
      let o := { s.newMOp (.mma z sat (ty == .f64) ea eb row0.toNat) d.toNat stages with
        start := some start, bar := some bar, tag := x, id := s.nextId }
      check ((s.here.mtq ++ s.here.mrun.toList).all (fun q => match q.start with
        | some v => decide (v + q.span ≤ start) || decide (start + o.span ≤ v)
        | none => true)) cTiming 0
      let mine := (scheduleGo stages (2 * start) start start).1.map (fun l => (l.1.bank, l.2))
      s.rsvCheck mine
      let s1 ← s.enqueue { s.newCmd (.mmat s.nextId) (some bar) x (o.refs ++ [(bar.tile, bar.bank)]) with start := some start } mine
      .ok (s1.modCore s.myCore (fun k => { k with mtq := k.mtq ++ [o] })))

def execMzero (g : Guard) (ty : Ty) (d : BitVec 4) (s : State) : Ans :=
  runThread g s (fun s => .ok (s.queueOp { s.newMOp (.zero (ty == .f64)) d.toNat [] with span := 4 } .mzero))

/-- The lines of a whole entry of two dimensions. -/
def State.entryLines (s : State) (e : TsEnt) : List Line :=
  let els := e.rows.flatMap (fun i => (List.range (e.dim 0 + 1)).map (fun i0 => (i0, i)))
  s.linesOf s.myPlace (els.flatMap (elemAddrs e)) ++ s.linesOf s.myPlace (els.flatMap (elemScales e))

/-- The shape of an entry that MLDC reads or MSTC writes (R248, R249). -/
def tileEntryOk (e : TsEnt) (ty : Ty) : Bool :=
  e.ty == ty && !e.ord && decide (e.ndim ≤ 1) && decide (e.dim 0 ≤ 31) && decide (e.dim 1 ≤ 31)
    && decide (spaceOf e.base ≤ 1) && decide (spaceOf e.sbase ≤ 1)

def execMldc (g : Guard) (ty : Ty) (d : BitVec 4) (a : BitVec 6) (s : State) : Ans :=
  runThread g s (fun s => do
    let e ← s.engineEntry a false
    check (tileEntryOk e ty && e.scl == 0) cFormat 0
    s.tagCheck e
    .ok (s.queueOp (s.newMOp (.ldc (ty == .f64) e) d.toNat [(s.entryLines e, 0)]) .mldc))

def execMstc (g : Guard) (ty : Ty) (rm : Rm) (sat : Bool) (d : BitVec 6) (a : BitVec 4) (s : State) : Ans :=
  runThread g s (fun s => do
    let e ← s.engineEntry d true
    check (tileEntryOk e ty) cFormat 0
    let ls := s.entryLines e
    .ok (s.queueOp { s.newMOp (.stc ty rm sat e) a.toNat [] with
      span := 4 + (ls.length + 1) / 2, refs := stageRefs [(ls, 0)] } .mstc))

/-- The sides a push goes to. -/
def dirSides (dir : Dir) : List Bool :=
  match dir with
  | .e => [true]
  | .w => [false]
  | .ew => [true, false]

/-- Pushing a word to each side, with all credits held first (R252, R256). -/
def State.pushAll (s : State) (core : Nat) (sides : List Bool) (v : Vec) : Act := do
  let _ ← sides.mapM (fun side => s.checkPush core side)
  .ok (sides.foldl (fun s side => s.pushWord core side v) s)

def execLnpush (g : Guard) (dir : Dir) (a : BitVec 6) (s : State) : Ans :=
  runThread g s (fun s => do
    let _ ← (dirSides dir).mapM (fun side => check (s.linkCore s.myCore side).isSome cFormat 0)
    let (v, s) ← s.readV a
    s.pushAll s.myCore (dirSides dir) v)

/-- LNPUSH.t: a non-link source is read at issue; a link is popped at the start vc (R255). -/
def execLnpushT (g : Guard) (dir : Dir) (a : BitVec 6) (imm : BitVec 32) (s : State) : Ans :=
  runThread g s (fun s => do
    let _ ← (dirSides dir).mapM (fun side => check (s.linkCore s.myCore side).isSome cFormat 0)
    check (a.toNat < 62 || (s.linkCore s.myCore (a == 62)).isSome) cFormat 0
    let v ← s.timedCheck imm
    let link := if a.toNat < 62 then none else some (a == 62)
    s.enqueue { s.newCmd (.lnpush dir link (if a.toNat < 62 then s.oldV a else 0)) none 0 [] with start := some v } [])

/-- The link configuration as it reads (R256). -/
def lnConfig (c : Core) : Word :=
  0#40 ++ BitVec.ofNat 4 c.le.length ++ BitVec.ofNat 4 c.lw.length ++ 0#10 ++ c.lncfg

def execLncfg (g : Guard) (d : BitVec 6) (s : State) : Ans :=
  setX g d 2 s (fun s => lnConfig s.here)

/-- LNCFG.set takes effect from rc t + 2 (R256). -/
def execLncfgSet (g : Guard) (d a : BitVec 6) (s : State) : Ans :=
  runThread g s (fun s =>
    .ok ((s.writeX d (lnConfig s.here) 2).modCore s.myCore (fun c => { c with lnPend := c.lnPend ++ [(s.rc + 2, (s.readX a).setWidth 6)] })))

end Sys2Proof.Machine
end

