-- ==== Sys2Proof/Machine/Msg.lean ====
section
/-! DEFINITION. Messages, static routes, multicast, inboxes, hops, channels and router tables at issue (R263-R290). -/

namespace Sys2Proof.Machine

/-- The source range of SEND, SENDS and MCAST (R282 step 1): the place of each byte. -/
def State.sourceRange (s : State) (a : Word) (n : Nat) : Except Stop (List Loc) :=
  if n = 0 then .ok []
  else do
    check (decide (spaceOf a ≤ 1)) cLimit a
    let last := a + BitVec.ofNat 64 (n - 1)
    let _ ← s.coverCheck a a.toNat (a.toNat + n - 1 : Nat)
    check (s.vaultSpaceOk a && s.vaultSpaceOk last) cLimit a
    let _ ← (allWindows [(a, n)]).mapM (fun w => s.resolve w false)
    let ls := (List.range n).filterMap (fun i => (s.resolve (a + BitVec.ofNat 64 i) false).toOption)
    check (ls.all (fun l => l.tile == s.cur.tile)) cFormat a
    pure ls

/-- The banks a source range holds references on (R282). -/
def rangeRefs (ls : List Loc) : List (Nat × Nat) :=
  ls.foldl (fun acc l => if acc.contains (l.tile, l.bank) then acc else acc ++ [(l.tile, l.bank)]) []

/-- A barrier register: x0 means no barrier (R281). -/
def State.barReg (s : State) (c : BitVec 6) : Except Stop Bar :=
  if c == 0 then .ok none else (s.barCheck (s.readX c) s.cur.tile).map some

/-- R130 for a command that may be timed. -/
def State.startOf (s : State) (tm : Bool) (imm : BitVec 32) : Except Stop (Option Nat) :=
  if tm then (s.timedCheck imm).map some else .ok none

def State.chan (s : State) (core c : Nat) : Chan := Tbl.get {} (s.core core).chans c

def State.setChan (s : State) (core c : Nat) (f : Chan → Chan) : State :=
  s.modCore core (fun k => { k with chans := Tbl.set {} k.chans c (f (Tbl.get {} k.chans c)) })

/-- Sequence numbers of a channel in order (R275). -/
def seqBefore (a b : BitVec 32) : Bool := a != b && decide ((b - a).toNat < 2 ^ 31)

/-- Two messages of one channel. -/
def MsgHdr.sameChan (a b : MsgHdr) : Bool := a.score == b.score && a.schan == b.schan

/-- Insertion by sequence number. -/
def insRetx (r : Retx) (l : List Retx) : List Retx :=
  match l with
  | [] => [r]
  | x :: rest => if seqBefore r.hdr.seq x.hdr.seq then r :: x :: rest else x :: insRetx r rest

/-- CRC-16 of R269: polynomial 0x1021, initial value 0xFFFF, most significant bit first. -/
def crc16 (bs : List Byte) : BitVec 16 :=
  bs.foldl (fun c b => (List.range 8).foldl (fun (c : BitVec 16) _ =>
    if c.getLsbD 15 then (c <<< 1) ^^^ 0x1021 else c <<< 1) (c ^^^ (b ++ 0#8))) 0xFFFF

/-- The header of a message as it is stored (R269). -/
def MsgHdr.bytes (h : MsgHdr) : List Byte :=
  let w0 := h.cls.toNat * 2 ^ 28 + (if h.retx then 2 ^ 24 else 0) + h.ibx.toNat * 2 ^ 20 + h.len
  let bs := leBytes 4 w0 ++ leBytes 4 h.seq.toNat ++ leBytes 2 h.stile ++ [BitVec.ofNat 8 (h.score * 64 + h.schan), BitVec.ofNat 8 h.swaf]
    ++ leBytes 2 h.dtile ++ [BitVec.ofNat 8 h.dwaf, BitVec.ofNat 8 h.part] ++ leBytes 8 h.val.toNat ++ leBytes 4 h.stask.toNat ++ [0, 0]
  bs ++ leBytes 2 (crc16 bs).toNat

/-- HCRC: what the last two bytes of a header hold (R269). -/
def MsgHdr.hcrc (h : MsgHdr) : BitVec 16 := crc16 (h.bytes.take 30)

/-- Bytes a copy takes in the retransmission buffer (R274). -/
def copySize (len : Nat) : Nat := (32 + len + 127) / 128 * 128

/-- Bytes of the retransmission buffer of a tile that are taken, by copies and by SENDs not started. -/
def State.retxUsed (s : State) (t : Nat) : Nat :=
  let queued := (List.range 4).flatMap (fun c => (s.core (coreKey t c)).uq ++ (s.core (coreKey t c)).tq)
  ((s.tile t).retx.map (fun r => copySize r.hdr.len)).foldl (· + ·) 0
    + (queued.map (fun q => match q.kind with | .send false h _ _ => copySize h.len | _ => 0)).foldl (· + ·) 0

/-- SEND and SEND.sig (R283). -/
def sendIssue (sig tm : Bool) (a b c : BitVec 6) (len : Nat) (imm : BitVec 32) (s : State) : Act := do
  let src ← (if sig then .ok [] else s.sourceRange (s.readX b) len : Except Stop (List Loc))
  let bar ← s.barReg c
  let xa := s.readX a
  check (decide (xa.toNat < 64)) cMessage 0
  let n := xa.toNat
  let ch := s.chan s.myCore n
  check (ch.st == 1 || ch.st == 2) cMessage 0
  let start ← s.startOf tm imm
  let lost := ch.st == 2
  if !lost && (ch.outn == 8 || decide (65536 < s.retxUsed s.cur.tile + copySize len)) then .error .refuse
  else do
    let hdr : MsgHdr :=
      { cls := if sig then 2 else 0, retx := false, ibx := ch.ibx, len, seq := ch.next, stile := s.cur.tile,
        score := s.cur.core, schan := n, swaf := s.sys.wnum.toNat, dtile := ch.tile, dwaf := ch.waf.toNat,
        part := s.myPart.getD 0, val := if sig then s.readX b else 0, stask := (s.myCrew.map Crew.task).getD 0 }
    let (id, s1) := if lost then (0, s) else s.addOut s.myCtx (.msg ch.tile ch.remote) 1
    let s2 ← s1.enqueue { s1.newCmd (.send lost hdr src id) bar 0 (rangeRefs src) with start } []
    .ok (if lost then s2 else s2.setChan s.myCore n (fun k => { k with next := k.next + 1, outn := k.outn + 1 }))

def execSend (g : Guard) (tm : Bool) (a b c : BitVec 6) (len : BitVec 13) (imm : BitVec 32) (s : State) : Ans :=
  runThread g s (sendIssue false tm a b c len.toNat imm)

def execSendSig (g : Guard) (tm : Bool) (a b c : BitVec 6) (imm : BitVec 32) (s : State) : Ans :=
  runThread g s (sendIssue true tm a b c 0 imm)

/-- A tile number an instruction of this chapter may name (R261). -/
def State.tileNamed (s : State) (x : Word) : Bool :=
  decide (x.toNat < 2 ^ 16) && !isReservedTile x.toNat && s.tileBound x.toNat

/-- An entry of the static route table (R267). -/
def State.route (s : State) (t n : Nat) : Word := Tbl.get 0 (s.tile t).routes n

def execSends (g : Guard) (tm : Bool) (d a b c : BitVec 6) (x : BitVec 16) (imm : BitVec 32) (s : State) : Ans :=
  runThread g s (fun s => do
    let xd := s.readX d
    let len := (xd.extractLsb' 0 13).toNat
    let src ← s.sourceRange (s.readX a) len
    check (xd.extractLsb' 24 40 == 0 && xd.extractLsb' 13 3 == 0 && decide (64 ≤ len) && decide (len ≤ 4096)
      && len % 64 == 0 && (s.readX a).toNat % 64 == 0) cFormat 0
    let r := s.route s.cur.tile (xd.extractLsb' 16 8).toNat
    check (r.getLsbD 63 && s.tileNamed (r.extractLsb' 32 16 |>.setWidth 64)) cMessage 0
    let xb := s.readX b
    let xc := s.readX c
    check (decide (xb.toNat < 48 * 2 ^ 17)
      && (c == 0 || decide (xc.toNat < 48 * 2 ^ 17) && xc.toNat % 16 == 0) && xb.toNat % 64 == 0) cFormat 0
    let start ← s.startOf tm imm
    s.enqueue { s.newCmd (.sends src (r.extractLsb' 32 16).toNat (r.extractLsb' 16 16).toNat xb.toNat
      (if c == 0 then none else some xc.toNat)) none x
      (rangeRefs src) with start } [])

def execMcast (g : Guard) (tm : Bool) (d a b c : BitVec 6) (len : BitVec 13) (imm : BitVec 32) (s : State) : Ans :=
  runThread g s (fun s => do
    let n := len.toNat
    let src ← s.sourceRange (s.readX a) n
    let xb := s.readX b
    let xd := s.readX d
    let xc := s.readX c
    check (decide (8 ≤ n) && decide (n ≤ 4096) && n % 8 == 0 && (s.readX a).toNat % 8 == 0 && xb.toNat % 8 == 0
      && decide (xb.toNat + n ≤ 48 * 2 ^ 17) && xc.extractLsb' 48 16 == 0
      && (d == 0 || decide (xd.toNat < 48 * 2 ^ 17) && xd.toNat % 16 == 0)) cFormat 0
    let col0 := (xc.extractLsb' 0 16).toNat
    let row0 := (xc.extractLsb' 16 16).toNat
    let cols := (xc.extractLsb' 32 8).toNat + 1
    let rows := (xc.extractLsb' 40 8).toNat + 1
    match s.view.crew with
    | none => .error (.trap cMessage 0)
    | some w => do
      let blk := (s.crew w).blk
      check (decide (col0 + cols ≤ blk.cols) && decide (row0 + rows ≤ blk.rows)) cMessage 0
      let tiles := (List.range rows).flatMap (fun r => (List.range cols).map (fun k =>
        (s.crew w).t0 + (row0 + r) * blk.cols + col0 + k))
      let start ← s.startOf tm imm
      let (id, s1) := s.addOut s.myCtx .mcast tiles.length
      s1.enqueue { s1.newCmd (.mcast src tiles xb.toNat (if d == 0 then none else some xd.toNat) id) none 0 (rangeRefs src)
        with start } [])

/-- The fields of an inbox descriptor (R270). -/
def ibxEn (x : Word) : Bool := x.getLsbD 63

def ibxRing (x : Word) : Nat := (x.extractLsb' 48 8).toNat + 1

def ibxSize (x : Word) : Nat := 2 ^ (x.extractLsb' 44 4).toNat

def ibxCtl (t : Nat) (x : Word) : Loc := ⟨t, (x.extractLsb' 17 6).toNat, (x.extractLsb' 0 17).toNat⟩

/-- The place of entry i of an inbox. -/
def ibxEntry (t : Nat) (x : Word) (i : Nat) : Loc :=
  { ibxCtl t x with off := (ibxCtl t x).off + 64 + i * ibxSize x }

/-- A descriptor that CHAN.ibx accepts (R270, R287). -/
def ibxOk (x : Word) : Bool :=
  x.extractLsb' 56 7 == 0 && x.extractLsb' 23 21 == 0
    && (!ibxEn x || decide (6 ≤ (x.extractLsb' 44 4).toNat) && decide ((x.extractLsb' 44 4).toNat ≤ 13)
        && decide ((x.extractLsb' 17 6).toNat < 48) && (x.extractLsb' 0 17).toNat % 64 == 0
        && decide ((x.extractLsb' 0 17).toNat + 64 + ibxRing x * ibxSize x ≤ 2 ^ 17))

/-- The counters of a control word (R271). -/
structure IbxCtl where
  tail : Nat
  take : Nat
  head : Nat
  drop : Nat
  deriving DecidableEq, Repr

def State.ibxCounts (s : State) (t : Nat) (x : Word) : IbxCtl :=
  let bs := s.readLoc (ibxCtl t x) 16
  ⟨leNat (bs.take 4), leNat ((bs.drop 4).take 4), leNat ((bs.drop 8).take 4), leNat ((bs.drop 12).take 2)⟩

def State.inbox (s : State) (t i : Nat) : Word := Tbl.get 0 (s.tile t).inbox i

/-- A control word's 4-byte field written. -/
def State.setIbxWord (s : State) (t : Nat) (x : Word) (at_ v : Nat) : State :=
  s.writeLoc { ibxCtl t x with off := (ibxCtl t x).off + at_ } (leBytes 4 v)

/-- The global vault address of a place (R149). -/
def globalAddr (l : Loc) : Word :=
  1#4 ++ 0#12 ++ BitVec.ofNat 16 l.tile ++ 0#9 ++ BitVec.ofNat 6 l.bank ++ BitVec.ofNat 17 l.off

/-- IBPOP's take (R286). -/
def ibpopTake (nw : Bool) (d : BitVec 6) (ibx : BitVec 4) (s : State) : Act := do
  let x := s.inbox s.cur.tile ibx.toNat
  check (ibxEn x) cFormat 0
  let c := s.ibxCounts s.cur.tile x
  if c.take == c.tail then
    if nw then .ok (s.writeX d 0 8) else .error (.sleep (.ibpop ibx.toNat))
  else do
    let s ← s.takeWrite (ibxCtl s.cur.tile x) 16
    .ok ((s.setIbxWord s.cur.tile x 4 ((c.take + 1) % 2 ^ 32)).writeX d
      (globalAddr (ibxEntry s.cur.tile x (c.take % ibxRing x))) 8)

def execIbpop (g : Guard) (d : BitVec 6) (ibx : BitVec 4) (s : State) : Ans := runThread g s (ibpopTake false d ibx)

def execIbpopNw (g : Guard) (d : BitVec 6) (ibx : BitVec 4) (s : State) : Ans := runThread g s (ibpopTake true d ibx)

/-- Freed entries at HEAD leave, in order (R286). -/
def freeHead (n : Nat) (ring head take : Nat) (freed : List Nat) : Nat × List Nat :=
  match n with
  | 0 => (head, freed)
  | n + 1 =>
    if head != take && freed.contains (head % ring) then
      freeHead n ring ((head + 1) % 2 ^ 32) take (freed.erase (head % ring))
    else (head, freed)

def execIbpopFree (g : Guard) (a : BitVec 6) (ibx : BitVec 4) (s : State) : Ans :=
  runThread g s (fun s => do
    let t := s.cur.tile
    let i := ibx.toNat
    let x := s.inbox t i
    check (ibxEn x) cFormat 0
    let s ← s.takeWrite (ibxCtl t x) 16
    let c := s.ibxCounts t x
    let ring := ibxRing x
    let freed := (s.myTile.freed.filter (fun f => f.1 == i)).map Prod.snd
    let taken := (List.range ((c.take + 2 ^ 32 - c.head) % 2 ^ 32)).map (fun k => (c.head + k) % 2 ^ 32 % ring)
    match taken.find? (fun e => globalAddr (ibxEntry t x e) == s.readX a && !freed.contains e) with
    | none => .error (.trap cFormat 0)
    | some e =>
      let (head, left) := freeHead ring ring c.head c.take (e :: freed)
      let s1 := s.modTile t (fun k => { k with freed := k.freed.filter (fun f => f.1 != i) ++ left.map (fun e => (i, e)) })
      .ok (if head == c.head then s1 else s1.setIbxWord t x 8 head))

/-- HOP up to its wait; the context leaves once the thread has drained (R289). -/
def execHop (g : Guard) (np : Bool) (a : BitVec 6) (core : BitVec 3) (s : State) : Ans :=
  runThread g s (fun s => do
    let x := s.readX a
    check (s.tileNamed x && (match s.view.crew with | some c => s.inCrew c x.toNat | none => false)) cMessage 0
    check (s.tiles.all (fun e => e.2.resv.all (fun r => !r.queue.contains s.myCtx))) cHop 0
    .ok (s.await (.hop x.toNat core.toNat np false)))

def execChanOpen (g : Guard) (d a : BitVec 6) (ch : BitVec 6) (s : State) : Ans :=
  runThread g s (fun s => do
    let x := s.readX a
    check (x.extractLsb' 56 8 == 0 && x.extractLsb' 20 27 == 0) cFormat 0
    let remote := x.getLsbD 47 && x.extractLsb' 48 8 != s.sys.wnum
    let t := x.extractLsb' 0 16
    check (if remote then !isReservedTile t.toNat else s.tileNamed (t.setWidth 64)) cMessage 0
    if (s.chan s.myCore ch.toNat).st == 1 then .ok (s.writeX d 1 8)
    else .ok ((s.setChan s.myCore ch.toNat (fun _ =>
      { st := 1, outn := 0, waf := if remote then x.extractLsb' 48 8 else s.sys.wnum, remote,
        tile := (x.extractLsb' 0 16).toNat, ibx := x.extractLsb' 16 4, next := 0 })).writeX d 0 8))

def execChanIbx (g : Guard) (d a : BitVec 6) (ibx : BitVec 4) (s : State) : Ans :=
  runThread g s (fun s => do
    let x := s.readX a
    let t := s.cur.tile
    let i := ibx.toNat
    check (ibxOk x) cFormat 0
    let old := s.inbox t i
    let c := s.ibxCounts t old
    if ibxEn old && c.tail != c.head then .ok (s.writeX d 1 8)
    else if ibxEn x && s.linesHeld (ibxCtl t x) 16 then .error .refuse
    else
      let s1 := s.modTile t (fun k => { k with inbox := Tbl.set 0 k.inbox i x, freed := k.freed.filter (fun f => f.1 != i) })
      let s2 := if ibxEn x then s1.writeLoc (ibxCtl t x) (leBytes 16 0) else s1
      .ok (s2.writeX d 0 8))

/-- A channel as CHAN.qch reads it (R273). -/
def chanWord (c : Chan) : Word :=
  c.st ++ 0#2 ++ BitVec.ofNat 4 c.outn ++ c.waf ++ 0#12 ++ c.ibx ++ c.next

def execChanQch (g : Guard) (d : BitVec 6) (ch : BitVec 6) (s : State) : Ans :=
  runThread g s (fun s => .ok (s.writeX d (chanWord (s.chan s.myCore ch.toNat)) 8))

def execChanQib (g : Guard) (d : BitVec 6) (ibx : BitVec 4) (s : State) : Ans :=
  runThread g s (fun s => .ok (s.writeX d (s.inbox s.cur.tile ibx.toNat) 8))

/-- RTWR's arrival at its barrier, with 1. -/
def State.rtwrDone (s : State) (bar : Bar) : State :=
  match bar with
  | some l => s.arriveAt l 1 0 0 0
  | none => s

def execRtwrRb (g : Guard) (a b c : BitVec 6) (s : State) : Ans :=
  runPriv 2 g s (fun s => do
    let bar ← s.barReg c
    let xa := s.readX a
    let xb := s.readX b
    let t := xa.toNat
    check (decide (t < 2 ^ 16) && !isControlTile t && (xb == 0xFFFF || decide (xb.toNat < 2 ^ 16) && isSite xb.toNat)) cFormat 0
    check (!isReservedTile t) cMessage 0
    .ok { s with rebind := Tbl.set 0xFFFF s.rebind t (xb.setWidth 16)
                 floods := s.floods ++ [{ tile := t, old := Tbl.get 0xFFFF s.rebind t, bar }] })

def execRtwrDt (g : Guard) (a b c : BitVec 6) (s : State) : Ans :=
  runPriv 2 g s (fun s => do
    let bar ← s.barReg c
    let xa := s.readX a
    let xb := s.readX b
    check (xa.extractLsb' 20 44 == 0 && isSite (xa.extractLsb' 0 16).toNat && xb.extractLsb' 34 29 == 0) cFormat 0
    .ok ((s.modSite (xa.extractLsb' 0 16).toNat (fun t =>
      { t with detour := Tbl.set 0 t.detour (xa.extractLsb' 16 4).toNat xb })).rtwrDone bar))

def execRtwrSr (g : Guard) (a b c : BitVec 6) (s : State) : Ans :=
  runPriv 2 g s (fun s => do
    let bar ← s.barReg c
    let xa := s.readX a
    let xb := s.readX b
    let t := xa.extractLsb' 0 16
    check (xa.extractLsb' 24 40 == 0 && !isControlTile t.toNat && xb.extractLsb' 48 14 == 0) cFormat 0
    check (s.tileNamed (t.setWidth 64) && (!xb.getLsbD 63 || s.tileNamed (xb.extractLsb' 32 16 |>.setWidth 64))) cMessage 0
    .ok ((s.modTile (xa.extractLsb' 0 16).toNat (fun t =>
      { t with routes := Tbl.set 0 t.routes (xa.extractLsb' 16 8).toNat xb })).rtwrDone bar))

end Sys2Proof.Machine
end

