-- ==== Sys2Proof/Machine/Members.lean ====
section
/-! DEFINITION. Running one member of an issued group: the meaning of each thread instruction (R34, R53). -/

namespace Sys2Proof.Machine

/-- The effect of one member of a group; events are no members. -/
def runMember (i : Instr) (s : State) : Ans :=
  match i with
  | .add g ty sat d a b => execAdd g ty sat d a b s
  | .addi g ty sat d a imm => execAddi g ty sat d a imm s
  | .sub g ty sat d a b => execSub g ty sat d a b s
  | .mul g ty sat d a b => execMul g ty sat d a b s
  | .mulImm g ty sat d a imm => execMulImm g ty sat d a imm s
  | .mulh g d a b => execMulh g d a b s
  | .mulhn g d a b => execMulhn g d a b s
  | .and g d a b => execAnd g d a b s
  | .andImm g d a imm => execAndImm g d a imm s
  | .or g d a b => execOr g d a b s
  | .orImm g d a imm => execOrImm g d a imm s
  | .xor g d a b => execXor g d a b s
  | .xorImm g d a imm => execXorImm g d a imm s
  | .andn g d a b => execAndn g d a b s
  | .andnImm g d a imm => execAndnImm g d a imm s
  | .shl g d a b => execShl g d a b s
  | .shlImm g d a imm => execShlImm g d a imm s
  | .shr g d a b => execShr g d a b s
  | .shrImm g d a imm => execShrImm g d a imm s
  | .sar g d a b => execSar g d a b s
  | .sarImm g d a imm => execSarImm g d a imm s
  | .rol g d a b => execRol g d a b s
  | .rolImm g d a imm => execRolImm g d a imm s
  | .min g d a b => execMin g d a b s
  | .minImm g d a imm => execMinImm g d a imm s
  | .max g d a b => execMax g d a b s
  | .maxImm g d a imm => execMaxImm g d a imm s
  | .minn g d a b => execMinn g d a b s
  | .minnImm g d a imm => execMinnImm g d a imm s
  | .maxn g d a b => execMaxn g d a b s
  | .maxnImm g d a imm => execMaxnImm g d a imm s
  | .cmp g ty cond d a b => execCmp g ty cond d a b s
  | .cmpImm g ty cond d a imm => execCmpImm g ty cond d a imm s
  | .sel g d a b c => execSel g d a b c s
  | .mov g d a => execMov g d a s
  | .movi g d imm => execMovi g d imm s
  | .movh g d imm => execMovh g d imm s
  | .lea g d mem => execLea g d mem s
  | .clz g d a => execClz g d a s
  | .ctz g d a => execCtz g d a s
  | .popc g d a => execPopc g d a s
  | .bfx g sx d a bf => execBfx g sx d a bf s
  | .bfi g d a bf => execBfi g d a bf s
  | .sext g ty d a => execSext g ty d a s
  | .zext g ty d a => execZext g ty d a s
  | .divstep g q d a b c j => execDivstep g q d a b c j s
  | .pset g d a => execPset g d a s
  | .pand g d a b => execPand g d a b s
  | .por g d a b => execPor g d a b s
  | .pxor g d a b => execPxor g d a b s
  | .pnot g d a => execPnot g d a s
  | .mfs g d sr => execMfs g d sr s
  | .mts g sr a => execMts g sr a s
  | .vadd g ty rm sat vm d a b => execVadd g ty rm sat vm d a b s
  | .vsub g ty rm sat vm d a b => execVsub g ty rm sat vm d a b s
  | .vmul g ty rm sat vm d a b => execVmul g ty rm sat vm d a b s
  | .vfma g ty rm sat vm d a b c => execVfma g ty rm sat vm d a b c s
  | .vfms g ty rm sat vm d a b c => execVfms g ty rm sat vm d a b c s
  | .vmin g ty vm d a b => execVmin g ty vm d a b s
  | .vmax g ty vm d a b => execVmax g ty vm d a b s
  | .vabs g ty sat vm d a => execVabs g ty sat vm d a s
  | .vneg g ty sat vm d a => execVneg g ty sat vm d a s
  | .vcmp g ty cond vm d a b => execVcmp g ty cond vm d a b s
  | .vsel g vm d a b c => execVsel g vm d a b c s
  | .vmulh g ty vm d a b => execVmulh g ty vm d a b s
  | .vclz g ty vm d a => execVclz g ty vm d a s
  | .vpopc g ty vm d a => execVpopc g ty vm d a s
  | .vavg g ty vm d a b => execVavg g ty vm d a b s
  | .vshl g ty vm d a b => execVshl g ty vm d a b s
  | .vshr g ty vm d a b => execVshr g ty vm d a b s
  | .vsar g ty vm d a b => execVsar g ty vm d a b s
  | .vand g vm d a b => execVand g vm d a b s
  | .vor g vm d a b => execVor g vm d a b s
  | .vxor g vm d a b => execVxor g vm d a b s
  | .vperm g ty vm d a b c => execVperm g ty vm d a b c s
  | .vbcast g ty ramp vm d b => execVbcast g ty ramp vm d b s
  | .vbcastImm g ty ramp vm d imm => execVbcastImm g ty ramp vm d imm s
  | .vshuf g ty sh vm d a b => execVshuf g ty sh vm d a b s
  | .vred g ty rm sat op mk d a => execVred g ty rm sat op mk d a s
  | .vdot g ty rm mk d a b c => execVdot g ty rm mk d a b c s
  | .vcvt g ty rm sat cv vm d a => execVcvt g ty rm sat cv vm d a s
  | .vsrnd g ty sat cv vm d a c k => execVsrnd g ty sat cv vm d a c k s
  | .vpack g ty rm sat cv d a b c => execVpack g ty rm sat cv d a b c s
  | .vunpk g ty rm sat cv d a b => execVunpk g ty rm sat cv d a b s
  | .vscale g ty src d a c => execVscale g ty src d a c s
  | .vrcp g ty vm d a => execVrcp g ty vm d a s
  | .vrsq g ty vm d a => execVrsq g ty vm d a s
  | .vexp2 g ty vm d a => execVexp2 g ty vm d a s
  | .vlog2 g ty vm d a => execVlog2 g ty vm d a s
  | .vstep g ty rm sat kind vm d a b c => execVstep g ty rm sat kind vm d a b c s
  | .vrng g vm d a b => execVrng g vm d a b s
  | .mand g d a b => execMand g d a b s
  | .mor g d a b => execMor g d a b s
  | .mnot g d a => execMnot g d a s
  | .ld g ty d mem => execLd g ty d mem s
  | .st g ty b mem => execSt g ty b mem s
  | .ldv g d mem => execLdv g d mem s
  | .stv g b mk mem => execStv g b mk mem s
  | .ldg g ty d mem => execLdg g ty d mem s
  | .ldgV g d mem => execLdgV g d mem s
  | .sts g ty b mem => execSts g ty b mem s
  | .stsV g b mk mem => execStsV g b mk mem s
  | .stmask g b mem => execStmask g b mem s
  | .stmaskP g mem => execStmaskP g mem s
  | .sig g b mem => execSig g b mem s
  | .watch g d mem => execWatch g d mem s
  | .unwatch g mem => execUnwatch g mem s
  | .unwatchAll g => execUnwatchAll g s
  | .give g d a e => execGive g d a e s
  | .giveNb g d a e => execGiveNb g d a e s
  | .reclaim g d eb => execReclaim g d eb s
  | .reclaimNb g d eb => execReclaimNb g d eb s
  | .bmapRead g d e => execBmapRead g d e s
  | .bmapSwap g ee => execBmapSwap g ee s
  | .bmapSet g a e => execBmapSet g a e s
  | .bmapBank g d b => execBmapBank g d b s
  | .drain g => execDrain g s
  | .drainBank g e => execDrainBank g e s
  | .phase g d => execPhase g d s
  | .phaseT g imm => execPhaseT g imm s
  | .fence g sc => execFence g sc s
  | .amo g ty op d b mem => execAmo g ty op d b mem s
  | .red g ty op b mem => execRed g ty op b mem s
  | .lrw g d pd mem => execLrw g d pd mem s
  | .sch g b mem => execSch g b mem s
  | .relq g mem => execRelq g mem s
  | .nop g => execNop g s
  | .br g nul imm => execBr g nul imm s
  | .bra g nul imm => execBra g nul imm s
  | .brx g nul a imm => execBrx g nul a imm s
  | .call g nul imm => execCall g nul imm s
  | .callR g nul a imm => execCallR g nul a imm s
  | .ret g nul a => execRet g nul a s
  | .brk g x => execBrk g x s
  | .mma g ty z sat d a b c => execMma g ty z sat d a b c s
  | .mmat g ty z sat d a b c x imm => execMmat g ty z sat d a b c x imm s
  | .mzero g ty d => execMzero g ty d s
  | .mldc g ty d a => execMldc g ty d a s
  | .mstc g ty rm sat d a => execMstc g ty rm sat d a s
  | .lnpush g dir a => execLnpush g dir a s
  | .lnpushT g dir a imm => execLnpushT g dir a imm s
  | .lncfg g d => execLncfg g d s
  | .lncfgSet g d a => execLncfgSet g d a s
  | .tdef g d mem => execTdef g d mem s
  | .tget g d a w => execTget g d a w s
  | .tseq g d a imm => execTseq g d a imm s
  | .tseqAdd g d a imm => execTseqAdd g d a imm s
  | .tseqBar g d a imm => execTseqBar g d a imm s
  | .copy g edge out tm d a b c x imm => execCopy g edge out tm d a b c x imm s
  | .gath g edge tm d a b c x imm => execGath g edge tm d a b c x imm s
  | .scat g edge tm d a b c x imm => execScat g edge tm d a b c x imm s
  | .publ g tm a b c x imm => execPubl g tm a b c x imm s
  | .bari g b mem => execBari g b mem s
  | .barw g d b mem => execBarw g d b mem s
  | .barwNf g d b mem => execBarwNf g d b mem s
  | .barq g d mem => execBarq g d mem s
  | .send g tm a b c len imm => execSend g tm a b c len imm s
  | .sendSig g tm a b c imm => execSendSig g tm a b c imm s
  | .sends g tm d a b c x imm => execSends g tm d a b c x imm s
  | .mcast g tm d a b c len imm => execMcast g tm d a b c len imm s
  | .ibpop g d ibx => execIbpop g d ibx s
  | .ibpopNw g d ibx => execIbpopNw g d ibx s
  | .ibpopFree g a ibx => execIbpopFree g a ibx s
  | .hop g np a core => execHop g np a core s
  | .chanOpen g d a ch => execChanOpen g d a ch s
  | .chanIbx g d a ibx => execChanIbx g d a ibx s
  | .chanQch g d ch => execChanQch g d ch s
  | .chanQib g d ibx => execChanQib g d ibx s
  | .rtwrRb g a b c => execRtwrRb g a b c s
  | .rtwrDt g a b c => execRtwrDt g a b c s
  | .rtwrSr g a b c => execRtwrSr g a b c s
  | .spawn g d a b imm => execSpawn g d a b imm s
  | .reap g d a pd => execReap g d a pd s
  | .reapNb g d a pd => execReapNb g d a pd s
  | .reapKill g d a pd => execReapKill g d a pd s
  | .yield g => execYield g s
  | .sleep g d a => execSleep g d a s
  | .wake g a => execWake g a s
  | .wakeAll g => execWakeAll g s
  | .rfork g d a b c imm => execRfork g d a b c imm s
  | .join g a c imm => execJoin g a c imm s
  | .knotSet g b mem => execKnotSet g b mem s
  | .knotAdd g b mem => execKnotAdd g b mem s
  | .knotHold g b mem => execKnotHold g b mem s
  | .knotRd g d mem => execKnotRd g d mem s
  | .knotWait g d mem => execKnotWait g d mem s
  | .launch g d mem => execLaunch g d mem s
  | .launchNb g d mem => execLaunchNb g d mem s
  | .taskend g a => execTaskend g a s
  | .vstage g d => execVstage g d s
  | .vpub g d a => execVpub g d a s
  | .vdiscard g d a => execVdiscard g d a s
  | .vretire g d a => execVretire g d a s
  | .vadopt g imm => execVadopt g imm s
  | .vqry g d a => execVqry g d a s
  | .vqrySet g d => execVqrySet g d s
  | .sample g d b e mem => execSample g d b e mem s
  | .trap g x => execTrap g x s
  | .eret g => execEret g s
  | .eretKill g a => execEretKill g a s
  | .resume g => execResume g s
  | .swpo g d a => execSwpo g d a s
  | .swpoFar g d a b => execSwpoFar g d a b s
  | .swpi g d a b => execSwpi g d a b s
  | .swpiQ g d a b => execSwpiQ g d a b s
  | .swpiFar g q d a b => execSwpiFar g q d a b s
  | .stopCrew g d a => execStopCrew g d a s
  | .stopPart g d a => execStopPart g d a s
  | .stopGo g d a => execStopGo g d a s
  | .rdrec g d a w => execRdrec g d a w s
  | .twin g d => execTwin g d s
  | .twinNw g d => execTwinNw g d s
  | .segld g d a imm => execSegld g d a imm s
  | .segldRd g d a w => execSegldRd g d a w s
  | .segst g d a b c => execSegst g d a b c s
  | .blay g d => execBlay g d s
  | .blayW g d => execBlayW g d s
  | .blayDeep g d => execBlayDeep g d s
  | .blq g d which => execBlq g d which s
  | .issueTurn .. => .next s
  | .lineFetch .. => .next s
  | .schedulerDecision .. => .next s
  | .swapComplete .. => .next s
  | .trapRecordArrival .. => .next s
  | .vccTick .. => .next s
  | .vccOverflow .. => .next s
  | .siteCounterTick .. => .next s
  | .sleepDeadline .. => .next s
  | .timedCommandStart .. => .next s
  | .untimedCommandStart .. => .next s
  | .engineLineMove .. => .next s
  | .barrierArrival .. => .next s
  | .engineOperationStart .. => .next s
  | .matrixLineFetch .. => .next s
  | .matrixOperationComplete .. => .next s
  | .linkWordArrival .. => .next s
  | .linkCreditReturn .. => .next s
  | .vaultRequestArrival .. => .next s
  | .vaultReplyArrival .. => .next s
  | .immediateWriteLanding .. => .next s
  | .reservationGrant .. => .next s
  | .eccScrub .. => .next s
  | .arrayEccUncorrectable .. => .next s
  | .phaseClose .. => .next s
  | .phaseLineApply .. => .next s
  | .phaseCloseComplete .. => .next s
  | .farRequestTranslate .. => .next s
  | .pageWalkComplete .. => .next s
  | .parkact .. => .next s
  | .parkingEnd .. => .next s
  | .gwinv .. => .next s
  | .gwinvDone .. => .next s
  | .homeWrite .. => .next s
  | .homeWriteRetry .. => .next s
  | .homePubl .. => .next s
  | .homeRead .. => .next s
  | .farAtomicAtHome .. => .next s
  | .farReplyArrival .. => .next s
  | .farMediaError .. => .next s
  | .commitNoticeAtHome .. => .next s
  | .hotnessDecay .. => .next s
  | .routerFlitForward .. => .next s
  | .meshLinkDown .. => .next s
  | .staticRouteFlitLanding .. => .next s
  | .messageReceive .. => .next s
  | .ackReceive .. => .next s
  | .nackFullReceive .. => .next s
  | .nackOrderReceive .. => .next s
  | .nackFencedReceive .. => .next s
  | .nackReplayReceive .. => .next s
  | .resendDelayExpiry .. => .next s
  | .rebindChangeResend .. => .next s
  | .retransmitTimeout .. => .next s
  | .hopArrival .. => .next s
  | .hopReply .. => .next s
  | .mcastReplicaLanding .. => .next s
  | .rebindFlood .. => .next s
  | .taskDispatch .. => .next s
  | .imageLoadComplete .. => .next s
  | .launchCut .. => .next s
  | .taskEnd .. => .next s
  | .heldBlockPost .. => .next s
  | .belayCut .. => .next s
  | .candidateAnswer .. => .next s
  | .cutStreamLine .. => .next s
  | .cutPrepared .. => .next s
  | .commitDecision .. => .next s
  | .cutApply .. => .next s
  | .regularCutDue .. => .next s
  | .watchdogFire .. => .next s
  | .residueMismatch .. => .next s
  | .machineCheck .. => .next s
  | .splice .. => .next s
  | .replayEnd .. => .next s
  | .haltComplete .. => .next s
  | .partitionReconfiguration .. => .next s
  | .deepBelayImageWritten => .next s
  | .deepRestore => .next s
  | .adoption .. => .next s
  | .versionHomeRequest .. => .next s
  | .fieldPowerLoss .. => .next s
  | .deviceReset => .next s
  | .powerGood => .next s
  | .stageOneEntry .. => .next s
  | .fieldJoin .. => .next s
  | .fieldGivenUp .. => .next s
  | .thermalThrottle .. => .next s
  | .thermalShutdown .. => .next s
  | .droopStretch .. => .next s
  | .marginReplan .. => .next s
  | .hbmRepairStart .. => .next s
  | .hbmRepairDone .. => .next s
  | .selfTestStart .. => .next s
  | .selfTestComplete .. => .next s
  | .cxlPortDown .. => .next s
  | .cxlPortUp .. => .next s
  | .folvibelLinkTrain .. => .next s
  | .folvibelLinkDown .. => .next s
  | .hlaunch .. => .next s
  | .hpubn .. => .next s
  | .herrClear .. => .next s
  | .hlresDropClear .. => .next s
  | .hostFarRead .. => .next s
  | .hostFarWrite .. => .next s
  | .functionLevelReset .. => .next s
  | .hirq .. => .next s
  | .devrst .. => .next s
  | .quiesce .. => .next s
  | .quiesceDone .. => .next s
  | .quiesceRelease .. => .next s
  | .qbootGo .. => .next s
  | .qbootCancel .. => .next s
  | .hbeatWrite .. => .next s
  | .verify => .next s
  | .measure => .next s
  | .commit => .next s
  | .revert => .next s
  | .crc32 => .next s
  | .trustOperationDone => .next s
  | .getVersion .. => .next s
  | .getCapabilities .. => .next s
  | .negotiateAlgorithms .. => .next s
  | .getDigests .. => .next s
  | .getCertificate .. => .next s
  | .challenge .. => .next s
  | .getMeasurements .. => .next s
  | .registerWrite .. => .next s
  | .giveComplete .. => .next s
  | .reclaimComplete .. => .next s
  | .immediateWriteAcknowledgement .. => .next s
  | .trapWindowAccessArrival .. => .next s
  | .logReplicaAcknowledgement .. => .next s
  | .versionAnswer .. => .next s

end Sys2Proof.Machine
end

