-- ==== Sys2Proof/Machine/Issue.lean ====
section
/-! DEFINITION. Issuing: whose turn it is (R332), fetching ahead (R317), the checks of a group in order (R34, R39-R41), its
members as one step (R40, R51, R81, R207), the advance of the resume state (R314), and the waits that end by themselves. -/

namespace Sys2Proof.Machine

/-- The pair class of a word (R53). -/
def pairClass (r : Raw) : PairClass :=
  match r.fmt.toNat with
  | 0 => if r.op = 0x22 then .system else .free
  | 1 => .free
  | 2 => .memory
  | 3 => if r.op = 0 then .free else .control
  | 4 => .engine
  | 5 => if r.op = 8 ∨ r.op = 9 ∨ r.op = 10 then .memory else .engine
  | _ => .system

/-- The registers an instruction writes, as kind and number: 0 scalar, 1 vector, 2 predicate, 3 mask (R39).  LNPUSH.t pushes at
its start vc and counts as no push here; the spec does not say (log entry 22). -/
def destsOf (i : Instr) : List (Nat × Nat) :=
  match i with
  | .add (d := d) .. | .addi (d := d) .. | .sub (d := d) .. | .mul (d := d) .. | .mulImm (d := d) ..
  | .mulh (d := d) .. | .mulhn (d := d) .. | .and (d := d) .. | .andImm (d := d) .. | .or (d := d) ..
  | .orImm (d := d) .. | .xor (d := d) .. | .xorImm (d := d) .. | .andn (d := d) .. | .andnImm (d := d) ..
  | .shl (d := d) .. | .shlImm (d := d) .. | .shr (d := d) .. | .shrImm (d := d) .. | .sar (d := d) ..
  | .sarImm (d := d) .. | .rol (d := d) .. | .rolImm (d := d) .. | .min (d := d) .. | .minImm (d := d) ..
  | .max (d := d) .. | .maxImm (d := d) .. | .minn (d := d) .. | .minnImm (d := d) .. | .maxn (d := d) ..
  | .maxnImm (d := d) .. | .sel (d := d) .. | .mov (d := d) .. | .movi (d := d) .. | .movh (d := d) ..
  | .lea (d := d) .. | .clz (d := d) .. | .ctz (d := d) .. | .popc (d := d) .. | .bfx (d := d) ..
  | .bfi (d := d) .. | .sext (d := d) .. | .zext (d := d) .. | .divstep (d := d) .. | .mfs (d := d) ..
  | .vred (d := d) .. | .vdot (d := d) .. | .vscale (d := d) .. | .ld (d := d) .. | .ldg (d := d) ..
  | .watch (d := d) .. | .give (d := d) .. | .giveNb (d := d) .. | .reclaim (d := d) .. | .reclaimNb (d := d) ..
  | .bmapRead (d := d) .. | .bmapBank (d := d) .. | .phase (d := d) .. | .amo (d := d) .. | .lncfg (d := d) ..
  | .lncfgSet (d := d) .. | .tget (d := d) .. | .barw (d := d) .. | .barwNf (d := d) .. | .barq (d := d) ..
  | .ibpop (d := d) .. | .ibpopNw (d := d) .. | .chanOpen (d := d) .. | .chanIbx (d := d) .. | .chanQch (d := d) ..
  | .chanQib (d := d) .. | .spawn (d := d) .. | .sleep (d := d) .. | .rfork (d := d) .. | .knotRd (d := d) ..
  | .knotWait (d := d) .. | .launch (d := d) .. | .launchNb (d := d) .. | .vstage (d := d) .. | .vpub (d := d) ..
  | .vdiscard (d := d) .. | .vretire (d := d) .. | .vqry (d := d) .. | .vqrySet (d := d) .. | .sample (d := d) ..
  | .swpo (d := d) .. | .swpoFar (d := d) .. | .swpi (d := d) .. | .swpiQ (d := d) .. | .swpiFar (d := d) ..
  | .stopCrew (d := d) .. | .stopPart (d := d) .. | .stopGo (d := d) .. | .rdrec (d := d) .. | .twin (d := d) ..
  | .twinNw (d := d) .. | .segldRd (d := d) .. | .blay (d := d) .. | .blayW (d := d) .. | .blayDeep (d := d) ..
  | .blq (d := d) .. => [(0, d.toNat)]
  | .vadd (d := d) .. | .vsub (d := d) .. | .vmul (d := d) .. | .vfma (d := d) .. | .vfms (d := d) ..
  | .vmin (d := d) .. | .vmax (d := d) .. | .vabs (d := d) .. | .vneg (d := d) .. | .vsel (d := d) ..
  | .vmulh (d := d) .. | .vclz (d := d) .. | .vpopc (d := d) .. | .vavg (d := d) .. | .vshl (d := d) ..
  | .vshr (d := d) .. | .vsar (d := d) .. | .vand (d := d) .. | .vor (d := d) .. | .vxor (d := d) ..
  | .vperm (d := d) .. | .vbcast (d := d) .. | .vbcastImm (d := d) .. | .vshuf (d := d) .. | .vcvt (d := d) ..
  | .vsrnd (d := d) .. | .vpack (d := d) .. | .vunpk (d := d) .. | .vrcp (d := d) .. | .vrsq (d := d) ..
  | .vexp2 (d := d) .. | .vlog2 (d := d) .. | .vstep (d := d) .. | .vrng (d := d) .. | .ldv (d := d) ..
  | .ldgV (d := d) .. => [(1, d.toNat)]
  | .cmp (d := d) .. | .cmpImm (d := d) .. | .pset (d := d) .. | .pand (d := d) .. | .por (d := d) ..
  | .pxor (d := d) .. | .pnot (d := d) .. => [(2, d.toNat)]
  | .vcmp (d := d) .. | .mand (d := d) .. | .mor (d := d) .. | .mnot (d := d) .. => [(3, d.toNat)]
  | .reap (d := d) (pd := p) .. | .reapNb (d := d) (pd := p) .. | .reapKill (d := d) (pd := p) ..
  | .lrw (d := d) (pd := p) .. => [(0, d.toNat), (2, p.toNat)]
  | .call .. | .callR .. => [(0, 31)]
  | .lnpush (dir := .e) .. => [(1, 62)]
  | .lnpush (dir := .w) .. => [(1, 63)]
  | .lnpush (dir := .ew) .. => [(1, 62), (1, 63)]
  | _ => []

/-- The destinations that count: writes to x0, p0 and m0 are discarded (R39). -/
def countedDests (r : Raw) : List (Nat × Nat) :=
  match candidate r with
  | none => []
  | some i => (destsOf i).filter (fun d => d.1 == 1 || d.2 != 0)

/-- The vector sources of an instruction; a link among them is popped at issue (R49). -/
def vecSources (i : Instr) : List (BitVec 6) :=
  match i with
  | .vabs (a := a) .. | .vneg (a := a) .. | .vclz (a := a) .. | .vpopc (a := a) .. | .vred (a := a) .. | .vcvt (a := a) ..
  | .vunpk (a := a) .. | .vrcp (a := a) .. | .vrsq (a := a) .. | .vexp2 (a := a) .. | .vlog2 (a := a) .. | .lnpush (a := a) .. =>
    [a]
  | .stv (b := b) .. | .stsV (b := b) .. => [b]
  | .vadd (a := a) (b := b) .. | .vsub (a := a) (b := b) .. | .vmul (a := a) (b := b) .. | .vmin (a := a) (b := b) ..
  | .vmax (a := a) (b := b) .. | .vcmp (a := a) (b := b) .. | .vsel (a := a) (b := b) .. | .vmulh (a := a) (b := b) ..
  | .vavg (a := a) (b := b) .. | .vshl (a := a) (b := b) .. | .vshr (a := a) (b := b) .. | .vsar (a := a) (b := b) ..
  | .vand (a := a) (b := b) .. | .vor (a := a) (b := b) .. | .vxor (a := a) (b := b) .. | .vshuf (a := a) (b := b) ..
  | .vdot (a := a) (b := b) .. | .vrng (a := a) (b := b) .. => [a, b]
  | .vsrnd (a := a) (c := c) .. | .vpack (a := a) (c := c) .. | .vscale (a := a) (c := c) .. => [a, c]
  | .vfma (a := a) (b := b) (c := c) .. | .vfms (a := a) (b := b) (c := c) .. | .vperm (a := a) (b := b) (c := c) ..
  | .vstep (a := a) (b := b) (c := c) .. => [a, b, c]
  | _ => []

/-- The pushes of an instruction's pops: a pop of lw pushes to le where lw forwards east, a pop of le to lw where le forwards
west (R254). -/
def forwards (k : Core) (r : Raw) : List (Nat × Nat) :=
  let vs := ((candidate r).map vecSources).getD []
  (if fwE k && vs.contains 63 then [(1, 62)] else []) ++ (if fwW k && vs.contains 62 then [(1, 63)] else [])

/-- The rules of a pair on a core; a pop that forwards counts as a push (R39, R254). -/
def pairOk (k : Core) (a b : Raw) : Bool :=
  (pairClass a == .free || pairClass b == .free || (candidate a).isNone || (candidate b).isNone)
    && (countedDests a ++ forwards k a).all (fun d => !(countedDests b ++ forwards k b).contains d)

/-- The instructions of the vector multiply array (R207). -/
def usesArray (i : Instr) : Bool :=
  match i with
  | .vmul .. | .vmulh .. | .vfma .. | .vfms .. | .vdot .. | .vstep .. => true
  | _ => false

namespace State

/-- The slot and context whose turn it is: slot s, or its twin while slot s is absent (R332). -/
def turnOf (s : State) (core : Nat) : Option (Nat × Nat) :=
  let own := s.rcOf (tileOfCore core) % 16
  let at_ (j : Nat) : Option (Nat × Nat) := match s.inSlot core j with
    | some k => if s.present k then some (j, k) else none
    | none => none
  (at_ own).or (at_ (own ^^^ 8))

/-- A control site has fallen below C1, or is a hole: it serves as a control site no longer (R25; log entry 97). -/
def controlDown (s : State) (t : Nat) : Bool :=
  let n := s.site (s.siteOf t)
  isControlTile t && (decide (2 ≤ n.cls.toNat) || n.hole || n.unusable)

/-- When no group of a context issues: on a control site that has fallen below C1; of a crew's, before the launch cut has committed, in a capture or at a cut vc, in a halt, at the
end of a replay, and at an adoption vc until the adoption (R379, R399, R415, R416, R431, R434). -/
def issueHeld (s : State) (k : Nat) : Bool :=
  match (s.ctx k).crew with
  | none => s.controlDown (tileOfCtx k)
  | some c =>
    let w := s.crew c
    let i := s.tile (tileOfCtx k)
    w.st != .running || decide (0 < i.capture) || i.halted || mustHalt w i.vcc || atStop i.vcc w.replayTo || dueCut w i.vcc
      || atStop i.vcc i.adoptAt

/-- S after a group: step() of R314. -/
def advanceS (f : Resume) (target : Option Word) (d : Bool) (n : Nat) : Resume :=
  ⟨f.npc, f.nnpc, target.getD (nextAddr f.nnpc n), BitVec.ofBool d ++ BitVec.ofBool (f.nul.getLsbD 1 || d)⟩

/-- A line that a group needs: held and read well, to be fetched, or not to be had (R35, R317). -/
def needLine (s : State) (k : Nat) (a : Word) : Except Stop FLine :=
  match codeCheck (s.ctx k).code a a with
  | .error e => .error e
  | .ok _ => match s.held (coreOfCtx k) a with
    | some l =>
      if parityOk l || (s.ctx k).got.contains (a.toNat / 64) then .ok l else .error (.again (s.refetch k a))
    | none => .error (.sleep (.fetch a))

/-- One instruction of a group by steps 1 and 2 of R41: decoded, and legal at the level. -/
def legal (level : Nat) (w : BitVec 96) : Except Stop Instr :=
  match decode w with
  | .error .illegal => .error (.trap cIllegal 0)
  | .error .reserved => .error (.trap cReserved 0)
  | .ok i => if level < i.minLevel then .error (.trap cPrivilege 0) else .ok i

/-- A group that was fetched and passed steps 1 and 2: its members and the size of the group at nnpc.  Which member fails
is in the flag of the error. -/
structure Group where
  first : Instr
  second : Option Instr
  rawFirst : Raw
  rawSecond : Raw
  nextSize : Nat

/-- The line at pc with step 1 of R41 (R34, R37, R39). -/
def pcLine (s : State) (k : Nat) : Except Stop FLine := do
  let pc := (s.ctx k).s.pc
  let l ← s.needLine k pc
  check (lineOk l) cLine 0
  check (slotAligned pc) cTarget pc
  let i := slotIndex pc
  check (i = 0 || !pairBit l (i - 1)) cTarget pc
  check (!pairBit l i || pairOk (s.core (coreOfCtx k)) (Raw.unpack (slotWord l i)) (Raw.unpack (slotWord l (i + 1)))) cLine 0
  pure l

/-- npc of a stream that has just started, and nnpc until its line is read (R313). -/
def formNpc (s : State) (k : Nat) (l : FLine) : State :=
  let c := s.ctx k
  if !c.fresh then s
  else
    let npc := nextAddr c.s.pc (if pairBit l (slotIndex c.s.pc) then 2 else 1)
    s.modCtx k (fun c => { c with s := { c.s with npc, nnpc := nextAddr npc 1 } })

/-- nnpc of a stream that has just started (R313). -/
def formNnpc (s : State) (k : Nat) : Except Stop State := do
  let c := s.ctx k
  if !c.fresh then .ok s
  else do
    let l ← s.needLine k c.s.npc
    let nnpc := nextAddr c.s.npc (if pairBit l (slotIndex c.s.npc) then 2 else 1)
    .ok (s.modCtx k (fun c => { c with s := { c.s with nnpc }, fresh := false }))

/-- The fetches of npc and nnpc, then step 2 of R41 (R317); an error names the member, second or not. -/
def groupOf (s : State) (k : Nat) (l : FLine) : Except (Bool × Stop) Group := do
  let c := s.ctx k
  let first {α : Type} (x : Except Stop α) : Except (Bool × Stop) α := x.mapError (fun e => (false, e))
  let i := slotIndex c.s.pc
  let pair := pairBit l i
  let _ ← first (s.needLine k c.s.npc)
  let l3 ← first (s.needLine k c.s.nnpc)
  let a ← first (legal c.lvl.toNat (slotWord l i))
  let b ← if pair then ((legal c.lvl.toNat (slotWord l (i + 1))).map some).mapError (fun e => (true, e)) else .ok none
  .ok ⟨a, b, Raw.unpack (slotWord l i), Raw.unpack (slotWord l (i + 1)), if pairBit l3 (slotIndex c.s.nnpc) then 2 else 1⟩

/-- The group does not issue, and its thread waits as `t` does (R253). -/
def fallAsleep (found t : State) (memb : Bool) : State :=
  (found.modMe (fun c => { c with wait := t.me.wait, memb })).setRes .asleep

/-- A group that does not go on: the thread traps, waits for a line, or stays as it is. -/
def stopGroup (s : State) (memb : Bool) (e : Stop) : State :=
  let s := { s with cur := { s.cur with memb } }
  match e with
  | .trap cause a => s.raise cause a
  | .note cause a asyn holder => (s.noteTrap asyn holder).raise cause a
  | .refuse | .held _ => s.setRes .refused
  | .sleep w => (s.modMe (fun c => { c with wait := w, memb })).setRes .asleep
  | .again s' => s'.setRes .reissue

/-- The state of an answer; thread instructions answer next states. -/
def answered (s : State) (a : Ans) : State :=
  match a with
  | .next t => t
  | _ => s

/-- Running the second member on a state: it reads what the group found (R8, R40). -/
def runSecond (found s : State) (i : Instr) : State :=
  s.answered (runMember i { s with cur := { s.cur with memb := true, old := some found.me, res := .done } })

/-- A trap of a member: taken on the state the group found (R40). -/
def trapOn (found t : State) : State :=
  let s := { found with cur := { found.cur with memb := t.cur.memb, flags := t.cur.flags } }
  (s.noteTrap t.cur.asyn t.cur.holder).raise t.cur.cause t.cur.eaddr

/-- What a waiting group has written is held until it completes: the thread's registers and the results that have still to land
(R40).  Words popped without being forwarded are kept for a group that faults after all (log entry 83). -/
def holdLate (found t : State) : State :=
  let a := found.me
  let b := t.me
  let k := found.here
  let rc := found.rc
  let late : Late :=
    { x := Tbl.diff 0 a.x b.x, v := Tbl.diff 0 a.v b.v, m := Tbl.diff 0 a.m b.m, pm := a.p ^^^ b.p, p := b.p
      pend := (t.here.pend.drop k.pend.length).map (fun l => { l with due := l.due - rc })
      pops := (if t.here.le.length < k.le.length && !fwW k then k.le.head?.toList.map (fun w => (true, w)) else [])
        ++ (if t.here.lw.length < k.lw.length && !fwE k then k.lw.head?.toList.map (fun w => (false, w)) else []) }
  (t.modMe (fun c => { c with x := a.x, v := a.v, m := a.m, p := a.p, late })).modCore found.myCore (fun c => { c with pend := k.pend })

/-- Whether the flags of both members meet an enable (R81). -/
def flagStop (found one two : State) : Bool := fpTraps found.me.fst (one.cur.flags ||| two.cur.flags)

/-- The group's flags trap before it sends anything; the member named is the first whose flags meet an enable (R81). -/
def trapFlags (found one two : State) : State :=
  let f := one.cur.flags ||| two.cur.flags
  found.trapOn { found with cur := { found.cur with
    memb := !fpTraps found.me.fst one.cur.flags, flags := f, cause := cFp, eaddr := 0 } }

/-- The group does not issue, since `t` was refused a bank's cycle; the stream of a cut is told of the line it waits for (R156, R417). -/
def refusedBy (found t : State) : State :=
  (match t.cur.want with
    | some l => found.modSite (found.siteOf found.cur.tile) (fun n => { n with wanted := if n.wanted.contains l then n.wanted else n.wanted ++ [l] })
    | none => found).setRes .refused

/-- The members of a group as one step: the state they leave, `cur.res` saying how the group ended.  A group one of whose members
sleeps does not issue (R253); one that sends a request issues again, and one that waits holds back what its other member has
written (R40).  A fault of either member comes before the group's flags are tested: the spec gives no order between the flags
of slot s and a fault of slot s+1 (log entry 84). -/
def runGroup (s : State) (g : Group) : State :=
  let one := s.answered (runMember g.first s)
  match g.second with
  | none => match one.cur.res with
    | .trapped => s.trapOn one
    | .refused => s.refusedBy one
    | .asleep => s.fallAsleep one false
    | _ => one
  | some b =>
    match one.cur.res with
    | .trapped => s.trapOn one
    | .refused => s.refusedBy one
    | .reissue | .asleep =>
      let two := s.runSecond s b
      match two.cur.res with
      | .trapped => s.trapOn two
      | .refused => s.refusedBy two
      | _ =>
        if one.cur.res == .asleep then s.fallAsleep one false
        else if two.cur.res == .asleep then s.fallAsleep two true
        else if s.flagStop one two then s.trapFlags one two
        else ({ one with cur := { one.cur with memb := false } } : State).modMe (fun c => { c with memb := false })
    | r =>
      if (one.ctx s.myCtx).uid != (s.ctx s.myCtx).uid then
        let two := s.runSecond s b
        match two.cur.res with
        | .trapped => s.trapOn two
        | .refused => s.refusedBy two
        | .asleep => s.fallAsleep two true
        | .reissue => two
        | _ => two.answered (runMember g.first { two with cur := { two.cur with memb := false } })
      else
      let both := usesArray g.first && usesArray b && s.guard g.rawFirst.guard && s.guard g.rawSecond.guard
      let one := if both then one.modCore s.myCore (fun c => { c with vmul := some (s.rc + 1) }) else one
      let two := s.runSecond one b
      match two.cur.res with
      | .trapped => s.trapOn two
      | .refused => s.refusedBy two
      | .asleep => s.fallAsleep two true
      | .reissue => if s.flagStop one two then s.trapFlags one two else (s.runSecond (s.modMe (fun c => { c with asked := none })) b).modMe (fun c => { c with memb := true })
      | r2 =>
        if r == .waiting || r2 == .waiting then
          (s.holdLate (two.setRes .waiting)).modMe (fun c => { c with memb := r != .waiting })
        else two

/-- The group in issue needs the multiply array while the second member of another group uses it (R207). -/
def arrayTaken (s : State) (g : Group) : Bool :=
  s.here.vmul == some s.rc
    && (usesArray g.first && s.guard g.rawFirst.guard
      || (match g.second with | some b => usesArray b && s.guard g.rawSecond.guard | none => false))

/-- The end of a group that has issued: its flags are raised or trap (R81), S advances, at once or when its wait ends
(R314, R326). -/
def endGroup (found t : State) (g : Group) : State :=
  let k := found.myCtx
  let f := t.cur.flags
  if fpTraps (found.ctx k).fst f then
    let one := found.answered (runMember g.first found)
    found.trapOn { t with cur := { t.cur with cause := cFp, eaddr := 0, memb := !fpTraps (found.ctx k).fst one.cur.flags } }
  else if (t.ctx k).uid != (found.ctx k).uid then t
  else
    let s' := advanceS (found.ctx k).s t.cur.target t.cur.nullify g.nextSize
    if t.cur.res == .waiting then t.modCtx k (fun c => { c with late := { c.late with fl := f }, after := s', got := [] })
    else t.modCtx k (fun c => { c.noAsk with fst := orFst c.fst f, s := s', got := [] })

/-- A group that was fetched whole and passed steps 1 and 2 of R41 runs; a nullified one only takes its turn (R315). -/
def runFetched (s : State) (k : Nat) (g : Group) : State :=
  let s := { s with cur := { s.cur with size := if g.second.isSome then 2 else 1 } }
  if (s.ctx k).s.nul.getLsbD 0 then
    s.modCtx k (fun c => { c with s := advanceS c.s none false g.nextSize, got := [] })
  else if s.arrayTaken g then s.setRes .refused
  else
    let t := s.runGroup g
    match t.cur.res with
    | .done | .waiting => s.endGroup t g
    | .trapped => t.modCtx k (fun c => { c with got := [] })
    | _ => t

/-- A group of the thread in a slot issues, or its thread's turn passes: the line at pc and step 1, the lines at npc and nnpc,
step 2, then the members (R40, R41, R314, R315, R317). -/
def issueGroup (s : State) (core slot k : Nat) : State :=
  let s := { s with cur := { tile := tileOfCore core, core := core % 4, slot, num := k % 64, addr := (s.ctx k).s.pc } }
  match s.pcLine k with
  | .error e => s.stopGroup false e
  | .ok l =>
    let s := s.formNpc k l
    match s.formNnpc k with
    | .error e => s.stopGroup false e
    | .ok s => match s.groupOf k l with
      | .error (memb, e) => s.stopGroup memb e
      | .ok g => s.runFetched k g

/-- A fault that waited for its thread's turn is raised, with S as it stands (R390); what a group that faulted held back is
gone (R40). -/
def raisePending (s : State) (core slot k : Nat) (cause : BitVec 8) (a : Word) (asyn : Bool) : State :=
  let s := { s with cur := { tile := tileOfCore core, core := core % 4, slot, num := k % 64 } }
  let memb := (s.ctx k).pmemb
  (s.modCtx k (fun c => { c with pend := c.later.head?, later := c.later.tail, pmemb := false, got := [] })).takeTrap k slot memb
    asyn 0 cause a

/-- A context leaves by HOP once it has drained: its watches are released and it travels (R289). -/
def hopLeave (s : State) (k target core : Nat) (np : Bool) : State :=
  let s := (s.dropWatches k).modCtx k (fun c => { c with wait := .hop target core np true })
  let c := s.ctx k
  let carried := (List.range 8).filter (fun i => (Tbl.get {} c.sg i).has 8)
  let hdr : MsgHdr :=
    { cls := 1, retx := false, ibx := BitVec.ofNat 4 core, len := 688 + 24 * carried.length, seq := 0, stile := tileOfCtx k
      score := coreOfCtx k % 4, schan := 0, swaf := s.sys.wnum.toNat, dtile := target, dwaf := s.sys.wnum.toNat
      part := (c.crew.map (fun w => (s.crew w).part)).getD 0, val := 0, stask := (c.crew.map (fun w => (s.crew w).task)).getD 0 }
  s.send (tileOfCtx k) target 0 k 0 (.hop hdr { c.withLate with s := c.after } np hdr.hcrc)

/-- What a DRAIN waits for is over (R173). -/
def drainOver (s : State) (k : Nat) : Bool :=
  match (s.ctx k).wait with
  | .drain ids => (s.core (coreOfCtx k)).outs.all (fun o => !ids.contains o.id)
  | .drainBank t b => !s.bankBusy (coreOfCtx k) t b
  | _ => false

/-- A wait that ends by itself when what it waits for is gone: DRAIN, FENCE, JOIN, TASKEND, HOP, SWPO (R173, R289, R304,
R364, R366, R409). -/
def settleCtx (s : State) (k : Nat) : State :=
  let gone (cores ids : List Nat) : Bool :=
    cores.all (fun c => (s.core c).outs.all (fun o => !ids.contains o.id))
  match (s.ctx k).wait with
  | .drain _ | .drainBank .. => if s.drainOver k && !s.wakeAhead k then (s.complete k).logWake k 0x0A else s
  | .fence ids => if gone ((List.range 4).map (coreKey (tileOfCtx k))) ids then s.complete k else s
  | .taskend v => if (s.drainIds k).isEmpty then s.retire k v else s
  | .join p t false =>
    if (s.drainIds k).isEmpty then (s.sendKnot k p .join).waitKnot k (.join p t true) else s
  | .hop target c np false => if (s.drainIds k).isEmpty then s.hopLeave k target c np else s
  | .swap d c slot spill => match s.swapOut k c slot spill with
    | some (v, s) => s.completeX k d v 2
    | none => s
  | _ => s

/-- All waits that can end do. -/
def settle (s : State) : State :=
  (s.ctxs.filter (fun e => e.2.used && e.2.wait != .none)).foldl (fun s e => s.settleCtx e.1) s

end State

/-- The cores of a tile in the order in which they come in an rc: that of the second router cycle (R155). -/
def State.coreOrder (s : State) (t : Nat) : List Nat := (List.range 4).map (fun i => coreKey t ((2 * s.rcOf t + 1 + i) % 4))

/-- The core of a tile whose turn is next in this rc. -/
def State.turnCore (s : State) (t : Nat) : Option Nat :=
  (s.coreOrder t).find? (fun c => (s.core c).turnAt != some (s.rcOf t))

/-- A timed LNPUSH falls due and has not popped: it comes before the threads of its core (R253). -/
def State.timedPop (s : State) (core : Nat) : Bool :=
  let t := tileOfCore core
  !s.slacks t && (s.core core).tq.any (fun q => match q.kind, q.start with
    | .lnpush .., some v => decide (v ≤ (s.tile t).vcc)
    | _, _ => false)

/-- ISSUE_TURN: slot s, its twin or nobody issues a group in this rc (R332), behind the cores of the tile that come before (R155) and
the timed pops of its own (R253). -/
def execIssueTurn (core : Nat) (s : State) : Ans :=
  let rc := s.rcOf (tileOfCore core)
  if s.turnCore (tileOfCore core) != some core || s.timedPop core then .next s
  else
    let s := s.modCore core (fun c => { c with turnAt := some rc })
    match s.turnOf core with
    | none => .next s
    | some (slot, k) =>
      let c := s.ctx k
      let whole := c.whole
      if s.issueHeld k then .next s
      else if c.killed && whole then .next (s.retire k killedExit)
      else
        let t := match c.pend with
          | some (cause, a, asyn) => if whole then s.raisePending core slot k cause a asyn else s.issueGroup core slot k
          | none => s.issueGroup core slot k
        .next ({ t with cur := { t.cur with old := none } } : State).settle

end Sys2Proof.Machine
end

