-- ==== Sys2Proof/Machine/EvVault.lean ====
section
/-! DEFINITION. Events at the vault: arrivals of requests, replies, immediate-class writes and grants (R154, R155, R301,
R304, R311), GIVE and RECLAIM at the bank table (R170, R171), the scrub (R145, R146), and the phase close (R295-R300). -/

namespace Sys2Proof.Machine

namespace State

/-- A reply or acknowledgement to the context a packet came from. -/
def answer (s : State) (p : Pkt) (t : Nat) (b : Body) : State := s.send t p.src 1 p.ctx 0 b

/-- Whether JOIN or KNOT updates a cell, which wakes the owners of watches on it (R160): a read, an RFORK and an operation that leaves the
cell as it is do not (log entry 88). -/
def knotUpdates (op : KnotOp) (old new : Knot) : Bool :=
  match op with
  | .set _ | .add _ | .hold _ => true
  | .wait .. | .join => new != old
  | .rd | .fork _ | .probe | .done _ => false

/-- A knot update at its word (R353, R354): the cell, the watches, what it fires, and the reply. -/
def knotAtBank (s : State) (p : Pkt) (l : Loc) (op : KnotOp) (outId : Nat) : State :=
  let old := Knot.ofBytes (s.readLoc l 32)
  let o := old.apply op
  let s := s.writeLoc l o.cell.bytes
  let s := (if knotUpdates op old o.cell then s.watchWake l 32 (enBytes 32) else s).knotEffects (s.partOf p.ctx) (.vault l) o
  let s := match o.link with
    | some (b, next) => s.linkBlock p.ctx b next
    | none => s
  match op with
  | .rd | .probe | .wait .. | .join | .fork _ => s.answer p l.tile (.data (BitVec.ofNat 512 o.answer) (some outId))
  | _ => s.answer p l.tile (.ack outId)

/-- An LRW that reaches the table from another path than the tile's own alias window (R311). -/
def lrwAtBank (s : State) (p : Pkt) (l : Loc) : State :=
  match (s.ctx p.ctx).wait with
  | .lrw _ d pd => match s.lrwOut l p.ctx with
    | .bad => s.failWait p.ctx cFormat (globalAddr l)
    | .full =>
      if pd == 0 then s.failWait p.ctx cReserve (globalAddr l)
      else (s.putP p.ctx pd false).complete p.ctx
    | .joined head =>
      let s := s.joinResv l p.ctx
      if head then s.send l.tile (tileOfCtx p.ctx) 2 p.ctx 0 (.grant l p.ctx) else (fun _ => s) d
  | _ => s

end State

/-- The requests that VAULT_REQUEST_ARRIVAL serves. -/
def isRequest (b : Body) : Bool :=
  match b with
  | .read .. | .lrw _ | .relq .. => true
  | .amo (red := r) .. => !r
  | _ => false

/-- VAULT_REQUEST_ARRIVAL: a load, AMO, LRW or RELQ that came by the mesh is served in a free router cycle of its bank
(R154, R155, R311). -/
def execVaultRequestArrival (n : Nat) (s : State) : Ans :=
  match s.arrived n isRequest with
  | none => .next s
  | some (p, s1) => match p.body with
    | .read l len outId => match s1.useBank l.tile l.bank with
      | some s2 => .next (s2.answer p l.tile (.data (vecOfBytes (s2.readLoc l len)) (some outId)))
      | none => .next s
    | .amo l op ty b cmp _ outId =>
      match (if s1.linesHeld l 8 || !s1.orderTurn p.ctx l then none else s1.useBank l.tile l.bank) with
      | some s2 =>
        let (old, s3) := (s2.logOrder p.ctx l).amoAt p.ctx l op ty b cmp
        .next (s3.answer p l.tile (.data (BitVec.ofNat 512 old) (some outId)))
      | none => .next s
    | .lrw l => if s1.orderTurn p.ctx l then .next ((s1.logOrder p.ctx l).lrwAtBank p l) else .next s
    | .relq l outId =>
      if s1.orderTurn p.ctx l then .next (((s1.logOrder p.ctx l).leaveResv l p.ctx).answer p l.tile (.ack outId)) else .next s
    | _ => .next s

/-- VAULT_REPLY_ARRIVAL: a load's group issues again with the reply, an AMO's group completes when it issues again, a
cell's answer reaches its context (R154, R310, R353). -/
def execVaultReplyArrival (n : Nat) (s0 : State) : Ans :=
  match s0.arrived n (fun b => match b with | .data .. => true | _ => false) with
  | none => .next s0
  | some (p, s) => match p.body with
    | .data v outId =>
      let s := match outId with
        | some id => s.ackOut (coreOfCtx p.ctx) id
        | none => s
      let c := s.ctx p.ctx
      match c.asked with
      | some .amo => .next ((s.modCtx p.ctx (fun c => { c.answer v with wait := .none })).settle)
      | some _ => if s0.knotHeld p.ctx v.toNat then .next s0 else .next ((s.knotAnswer p.ctx v.toNat).settle)
      | none =>
        if c.wait == .load then .next (((s.modCtx p.ctx (fun c => c.answer v)).reissue p.ctx).settle)
        else .next s.settle
    | _ => .next s

/-- The immediate-class writes that IMMEDIATE_WRITE_LANDING lands. -/
def isImmediate (b : Body) : Bool :=
  match b with
  | .write .. | .bari .. | .sch .. | .knot .. => true
  | .amo (red := r) .. => r
  | _ => false

/-- IMMEDIATE_WRITE_LANDING: SIG, RED, BARI, SCH, a knot update, or a store of a context of no crew lands at its bank,
visible to every reader, and is acknowledged (R144, R160, R166, R301, R310, R311, R353). -/
def execImmediateWriteLanding (n : Nat) (s : State) : Ans :=
  match s.arrived n isImmediate with
  | none => .next s
  | some (p, s1) =>
    let land (l : Loc) (f : State → State) : Ans :=
      if s1.linesHeld l 32 || !s1.orderTurn p.ctx l then .next s
      else match s1.useBank l.tile l.bank with
        | some s2 => .next (f (s2.logOrder p.ctx l))
        | none => .next s
    match p.body with
    | .write l en v id => land l (fun s => (s.landImm p.ctx l 64 en v).answer p l.tile (.ack id))
    | .bari l c id => land l (fun s => (s.initBar l c.toNat).answer p l.tile (.ack id))
    | .amo l op ty b cmp _ id => land l (fun s => (s.amoAt p.ctx l op ty b cmp).2.answer p l.tile (.ack id))
    | .sch l v id =>
      land l (fun s => ((s.landImm p.ctx l 8 (enBytes 8) (v.setWidth 512)).leaveResv l p.ctx).answer p l.tile (.ack id))
    | .knot l op id => land l (fun s => s.knotAtBank p l op id)
    | _ => .next s

/-- IMMEDIATE_WRITE_ACKNOWLEDGEMENT: one operation less is outstanding, and the waits that counted it may end (R173,
R304). -/
def execImmediateWriteAcknowledgement (n : Nat) (s : State) : Ans :=
  match s.arrived n (fun b => match b with | .ack _ => true | _ => false) with
  | none => .next s
  | some (p, s) => match p.body with
    | .ack id => .next (s.ackOut (coreOfCtx p.ctx) id).settle
    | _ => .next s

/-- RESERVATION_GRANT: the new holder's LRW reads the word at its bank and completes (R311). -/
def execReservationGrant (n : Nat) (s0 : State) : Ans :=
  match s0.arrived n (fun b => match b with | .grant .. => true | _ => false) with
  | none => .next s0
  | some (p, s) => if s.wakeAhead p.ctx then .next s0 else match p.body, (s.ctx p.ctx).wait with
    | .grant l _, .lrw _ d pd =>
      if s.holderOf l == some p.ctx then .next ((s.lrwDone l p.ctx d pd).logWake p.ctx 0x0D)
      else .next s
    | _, _ => .next s

/-- GIVE_COMPLETE: a waiting GIVE whose bank is no longer busy reaches the bank table (R170). -/
def execGiveComplete (k : Nat) (s : State) : Ans :=
  match (s.ctx k).wait with
  | .give d e m desc _ =>
    let core := coreOfCtx k
    let my := tileOfCore core
    if s.wakeAhead k then .next s else
    match s.neighbour my (entDir m), s.neighbour my (giveDir desc) with
    | some t, some recvTile =>
      let bank := entBank m
      if s.bankBusy core t bank then .next s
      else
        let taken := !(s.waiters (fun w => match w with | .reclaim _ _ b _ => b == bank | _ => false)).all
          (fun k' => tileOfCtx k' != t)
        let recv := coreKey recvTile (giveCore desc)
        let done (s : State) (v : Word) : Ans := .next ((s.completeX k d v 8).logWake k 0x08)
        let order (e : LogEv) : Bool := match e with | .bank t' b _ => t' == t && b == bank | _ => false
        if s.rowHolder t bank != some (core, e) || taken then done s 4
        else if entV (s.mapEnt recv (giveEnt desc)) then done (s.setEnt core e m) 2
        else if !s.redoTurn t order (.bank t bank recv) then .next s
        else
          let ent := mkEnt ((s.dirTo recvTile t).getD 0) (entW m && desc.getLsbD 17) (entR m && desc.getLsbD 16) bank
          done (((s.setEnt recv (giveEnt desc) ent).setHolder t bank recv (giveEnt desc)).logEv t (.bank t bank recv) 0) 0
    | _, _ => .next s
  | _ => .next s

namespace State

/-- The entry that a bank is attached to, if it still names the bank, names it no more: a RECLAIM takes the bank from its holder (R153,
R171). -/
def leaveEntry (s : State) (t b : Nat) : State :=
  match s.rowHolder t b with
  | none => s
  | some (core, e) =>
    let m := s.mapEnt core e
    if entV m && entBank m == b && s.neighbour (tileOfCore core) (entDir m) == some t then s.setEnt core e (m &&& 0x7FFF) else s

/-- The bank that another GIVE has put at an entry since a RECLAIM to it issued is detached (R153; log entry 87). -/
def freeEntryOf (s : State) (core e : Nat) : State :=
  let m := s.mapEnt core e
  match s.neighbour (tileOfCore core) (entDir m) with
  | some t => if entV m && s.rowHolder t (entBank m) == some (core, e) then s.clearHolder t (entBank m) else s
  | none => s

end State

/-- RECLAIM_COMPLETE: a waiting RECLAIM whose bank's holder is no longer busy attaches the bank (R171). -/
def execReclaimComplete (k : Nat) (s : State) : Ans :=
  match (s.ctx k).wait with
  | .reclaim d e b holder =>
    let t := tileOfCtx k
    let core := coreOfCtx k
    let order (e : LogEv) : Bool := match e with | .bank t' b' _ => t' == t && b' == b | _ => false
    if s.bankBusy holder t b || s.wakeAhead k || !s.redoTurn t order (.bank t b core) then .next s
    else .next (((((s.leaveEntry t b).freeEntryOf core e).attachHome core e b).completeX k d 0 8).logEv t (.bank t b core) 0
      |>.logWake k 0x09)
  | _ => .next s

namespace State

/-- The crew that keeps its state at a site: that of the tile whose partner stands there (R413). -/
def keptCrew (s : State) (site : Nat) : Option Nat :=
  (s.tileAt site).bind (fun t => (s.tile (s.partnerOf t)).crew)

/-- An early belay of a crew: a cut at the next multiple of 64 above the horizon (R423). -/
def earlyBelay (s : State) (crew : Nat) : State :=
  if (s.crew crew).st != .running then s else s.scheduleCut crew (up64 (s.horizon crew))

/-- An uncorrectable error of a bank by its role (R26, R146). -/
def arrayError (s : State) (site bank line : Nat) : State :=
  let s := s.countBank site bank false
  if bank < 56 then (s.errorRecord 1 0x1C site 0xFF 0x08 bank (s.siteVc site)).raiseCheck site .arrayEcc
  else
    let s := s.errorRecord 0 0 site 0xFF 0x08 bank (BitVec.ofNat 64 line)
    match s.keptCrew site with
    | some c => s.earlyBelay c
    | none => s

/-- What a line shows that is read or scrubbed: a single-bit error is corrected and counted, an uncorrectable one handled by the bank's
role (R145, R146). -/
def scrubbed (s : State) (site bank line : Nat) (found : EccFound) : State :=
  match found with
  | .clean => s
  | .corrected => (s.countBank site bank true).errorRecord 0 0 site 0xFF 0x08 bank (BitVec.ofNat 64 line)
  | .uncorrectable => s.arrayError site bank line

end State

/-- ECC_SCRUB visits a line, or the bank writes back a word that a read has found and corrected, in a cycle that no other request wants
(R145, R155; log entry 85). -/
def execEccScrub (site bank line : Nat) (found : EccFound) (s : State) : Ans :=
  match s.tileAt site with
  | none => .next (s.scrubbed site bank line found)
  | some t => match s.useBankAs 6 t bank with
    | some s => .next (s.scrubbed site bank line found)
    | none => .next s

/-- ARRAY_ECC_UNCORRECTABLE: an error found by a read (R146). -/
def execArrayEccUncorrectable (site bank line : Nat) (s : State) : Ans := .next (s.arrayError site bank line)

namespace State

/-- Every tile of a crew has reached a vc. -/
def allAt (s : State) (crew v : Nat) : Bool := (s.crewTiles crew).all (fun t => (s.tile t).vcc == v)

/-- The cores of a crew. -/
def crewCores (s : State) (crew : Nat) : List Nat := (s.crewTiles crew).flatMap (fun t => (List.range 4).map (coreKey t))

/-- Whether a crew replays (R430). -/
def crewReplays (s : State) (crew : Nat) : Bool := s.replaying (s.crew crew).t0

/-- A crew's adopted PSN at a home: the home's PSN, or in a replay the one logged at the vc of this close, if it changed there (R101, R421). -/
def adoptAtHome (s : State) (crew h : Nat) : State :=
  let old := Tbl.get 0 (s.crew crew).dyn.adopted h
  let now (r : LogRec) : Bool := (match r.ev with | .adopted h' _ => h' == h | _ => false) && some r.vc == (s.crew crew).closing
  let logged := (s.crew crew).redo.findSome? (fun r => match r.ev with | .adopted _ p => if now r then some p else none | _ => none)
  let psn := if s.crewReplays crew then logged.getD old else (s.home h).psn
  let s := s.modDyn crew (fun d => { d with adopted := Tbl.set 0 d.adopted h psn })
  let s := s.setHome h (let m := s.home h; { m with crews := Tbl.put m.crews crew (psn, ((Tbl.find m.crews crew).getD (0, 0)).2) })
  if psn == old then s
  else if s.crewReplays crew then s.modCrew crew (fun w => { w with redo := w.redo.filter (fun r => !now r) })
  else s.logEv (s.crew crew).t0 (.adopted h psn) 0

end State

/-- A cut at the close vc is captured before the close (R416). -/
def State.captureFirst (s : State) (crew v : Nat) : Bool :=
  dueCut (s.crew crew) v || (s.crewTiles crew).any (fun t => decide (0 < (s.tile t).capture))

/-- PHASE_CLOSE: every tile of the crew stands at the close vc; buffers begin to be applied and every home sets the
crew's adopted PSN (R101, R296). -/
def execPhaseClose (crew : Nat) (s : State) : Ans :=
  match (s.crew crew).closing with
  | none => .next s
  | some v =>
    if (s.crew crew).closeOn || !s.allAt crew v || s.captureFirst crew v then .next s
    else .next ((List.range 24).foldl (fun s h => s.adoptAtHome crew h) (s.modCrew crew (fun w => { w with closeOn := true })))

/-- PHASE_LINE_APPLY: a buffered line reaches its bank and writes its enabled bytes; over another core's bytes it leaves a
trace entry and a log record, and a replay keeps the logged order (R299, R300). -/
def execPhaseLineApply (core i : Nat) (s : State) : Ans :=
  match (s.tile (tileOfCore core)).crew, (s.core core).pbuf[i]? with
  | some crew, some p =>
    let w := s.crew crew
    let ended := w.closeLines.filter (fun q => q.2.tile == p.tile && q.2.bank == p.bank && q.2.line == p.line && q.2.en &&& p.en != 0)
    let early := w.redo.any (fun r => match r.ev with
      | .close a b bank line => some r.vc == w.closing && r.tile == p.tile && b == core && bank == p.bank && line == p.line
          && !(ended.any (fun q => q.1 == a)) && (s.core a).pbuf.any (fun q => q.tile == p.tile && q.bank == bank && q.line == line)
      | _ => false)
    if !w.closeOn || early || s.linesHeld ⟨p.tile, p.bank, p.line * 64⟩ 64 then .next s
    else match s.useBankAs 2 p.tile p.bank with
      | none => .next s
      | some s =>
        let s := (s.writeEn ⟨p.tile, p.bank, p.line * 64⟩ 64 p.en p.data).modCore core (fun c => { c with pbuf := c.pbuf.eraseIdx i })
        let s := s.modCrew crew (fun w => { w with closeLines := w.closeLines ++ [(core, p)] })
        if ended.isEmpty then .next s
        else
          let s := s.traceEntry (s.siteOf p.tile) core p.bank p.line w.dyn.phase
          .next (ended.foldl (fun s q => s.logEv p.tile (.close q.1 core p.bank p.line) 16) s)
  | _, _ => .next s

namespace State

/-- Contexts that wait for a phase of a crew complete with the new number (R296, R309). -/
def phaseWake (s : State) (crew : Nat) (ph : BitVec 32) : State :=
  (s.waiters (fun w => match w with | .phase _ p => p == ph | _ => false)).foldl (fun s k =>
    match (s.ctx k).wait with
    | .phase d _ => if (s.ctx k).crew == some crew then s.completeX k d ((ph + 1).setWidth 64) 1 else s
    | _ => s) s

/-- No context of a crew is left in a slot, frame or spill area, and no unit is undealt (R352). -/
def taskOver (s : State) (crew : Nat) : Bool :=
  let w := s.crew crew
  s.ctxs.all (fun e => e.2.crew != some crew || !e.2.used) && decide (w.blk.units ≤ w.dyn.next.foldl (fun n e => n + e.2) 0)
    && w.dyn.waitq.isEmpty

/-- A phase close is over (R296): the number rises, the next phase's early arrivals stand, PHASE waiters resume. -/
def endPhase (s : State) (crew : Nat) : State :=
  let ph := (s.crew crew).dyn.phase
  let s := s.modCrew crew (fun w => { w with closing := none, closeOn := false, closeLines := [] })
  let s := (s.modDyn crew (fun d => { d with phase := ph + 1 })).modTiles crew (fun t => { t with arr := t.arrNext, arrNext := [] })
  let s := s.phaseWake crew ph
  if s.taskOver crew then s.modCrew crew (fun w => { w with endStep := 1 })
  else (s.arriveEmpty crew).settleClose crew

end State

/-- PHASE_CLOSE_COMPLETE: every buffered line has been applied (R296). -/
def execPhaseCloseComplete (crew : Nat) (s : State) : Ans :=
  if (s.crew crew).closeOn && (s.crewCores crew).all (fun c => (s.core c).pbuf.isEmpty) then .next (s.endPhase crew)
  else .next s

end Sys2Proof.Machine
end

