-- ==== Sys2Proof/Machine/EvEngine.lean ====
section
/-! DEFINITION. Events of the copy engine: the start of timed and untimed commands (R129, R130, R141, R342), line moves with
their arrivals (R125, R132, R133, R142), and arrivals at barriers (R125). -/

namespace Sys2Proof.Machine

namespace State

/-- An arrival travels to its barrier (R125). -/
def sendArrive (s : State) (srcTile ctx : Nat) (bar : Bar) (n : Nat) (tag : BitVec 16) (err : BitVec 8) (a : Word) : State :=
  match bar with
  | some b => s.send srcTile b.tile 0 ctx 0 (.arrive b n tag err (a.setWidth 32))
  | none => s

/-- The arrival of a command. -/
def cmdArrive (s : State) (c : Cmd) (n : Nat) (err : BitVec 8) (a : Word) : State :=
  s.sendArrive (tileOfCtx c.ctx) c.ctx c.bar n c.tag err a

/-- The start vc of a command, which a schedule or a timing fault of a queued timed command reports as its address (R388). -/
def startAddr (c : Cmd) : Word := BitVec.ofNat 64 (c.start.getD 0)

/-- A fault of a timed command: taken by its context at its next turn, or written to the task's record when the context has
retired or left (R342). -/
def timedFault (s : State) (c : Cmd) (cause err : BitVec 8) (a : Word) : State :=
  if (s.ctx c.ctx).used && (s.ctx c.ctx).uid == c.uid then s.pendFault c.ctx cause a false
  else match c.crew with
    | some w => s.taskFault w cause err a (coreOfCtx c.ctx) c.slot c.unit
    | none => s

/-- A queued command is gone: its queue place, reservations and engine operation. -/
def dropCmd (s : State) (core : Nat) (c : Cmd) : State :=
  let op := match c.kind with | .mmat op => some op | _ => none
  let s := s.modCore core (fun k => { k with
    uq := k.uq.filter (fun q => q.id != c.id), tq := k.tq.filter (fun q => q.id != c.id)
    mtq := k.mtq.filter (fun o => some o.id != op) })
  s.modTile (tileOfCore core) (fun t => { t with rsvd := t.rsvd.filter (fun r => !(r.core == core && r.id == c.id)) })

/-- The record of an untimed engine start, or its place in a replay (R250): `none` holds the start back. -/
def replayStart (s : State) (core : Nat) (matrix : Bool) : Option State :=
  let t := tileOfCore core
  match (s.tile t).crew with
  | none => some s
  | some w =>
    if !s.replaying t then some (s.logEv t (.engine core matrix) 16)
    else
      let mine (e : LogEv) : Bool := match e with | .engine c x => c == core && x == matrix | _ => false
      match (s.crew w).redo.find? (fun r => mine r.ev) with
      | none => some s
      | some r => if r.vc ≤ (s.tile t).vcc then some (s.dropRedo w mine) else none

/-- The bytes of a source range as they are now (R133). -/
def readRange (s : State) (ls : List Loc) : List Byte := ls.map (fun l => (s.readLoc l 1).headD 0)

/-- The bytes the engine reads of an index list, or the address it may not read (R141). -/
def readList (s : State) (c : Cmd) (a : Word) (n : Nat) : Except (BitVec 8 × Word) (List Byte) :=
  (List.range n).mapM (fun i =>
    let b := a + BitVec.ofNat 64 i
    match s.srcAt c b with
    | .vault l => .ok ((s.readLoc l 1).headD 0)
    | .bad e a => .error (e, a)
    | _ => .error (eRange, b))

/-- A command that moves data begins to run (R140, R141, R142). -/
def beginRun (s : State) (core : Nat) (c : Cmd) : State :=
  let run : Run := match c.kind with
    | .copy p t out _ origin =>
      { cmd := c, moves := if c.exact then s.exactMoves c p t out origin else s.copyMoves c p t out origin, left := p.total }
    | .gath p t out edge list =>
      match s.readList c list (4 * (p.dim 1 + 1)) with
      | .error e => { cmd := c, left := p.total, fail := some e }
      | .ok bs =>
        let idx := (List.range (p.dim 1 + 1)).map (fun i => (BitVec.ofNat 32 (leNat (slice bs (4 * i) 4))).toInt)
        { cmd := c, moves := s.gathMoves c p t out edge list idx, left := p.total }
    | _ => { cmd := c, left := 1 }
  s.modCore core (fun k => { k with runs := k.runs ++ [run] })

/-- A SEND of an earlier number of the channel that has not started (R274). -/
def earlierQueued (s : State) (t : Nat) (hdr : MsgHdr) : Bool :=
  ((s.core (coreKey t hdr.score)).uq ++ (s.core (coreKey t hdr.score)).tq).any (fun q => match q.kind with
    | .send false h _ _ => h.sameChan hdr && seqBefore h.seq hdr.seq
    | _ => false)

/-- An earlier message of the channel still has to be sent, or sent again, before one of its numbers is resent (R274). -/
def earlierHeld (s : State) (t : Nat) (hdr : MsgHdr) : Bool :=
  s.earlierQueued t hdr || (s.tile t).retx.any (fun r => r.hdr.sameChan hdr && seqBefore r.hdr.seq hdr.seq && r.st != .sent)

/-- The Folvibel port that a channel to another wafer uses (R449). -/
def chanPort (s : State) (wafer tile chan : Nat) : Option Nat := s.peerPort wafer (tile ^^^ chan)

/-- A message goes out; one for another wafer goes to the Folvibel port of its channel (R279, R449). -/
def sendMsg (s : State) (t ctx : Nat) (hdr : MsgHdr) (data : List Byte) : State :=
  let lane := if hdr.cls == 2 then 2 else 0
  let b : Body := .msg hdr data (hdr.hcrc ^^^ Config.headerNoise s.free)
  let s : State := { s with free := s.free + 1 }
  if hdr.dwaf == s.sys.wnum.toNat then s.send t hdr.dtile lane ctx 0 b
  else match s.chanPort hdr.dwaf t hdr.schan with
    | some q => s.sendTo t (portSite q) lane ctx 0 b
    | none => s

/-- SEND at its start: the payload is read, the copy kept and the message sent, in the order of the channel's numbers; on a
lost channel it arrives with PEER_LOST (R274, R283). -/
def startSend (s : State) (c : Cmd) (lost : Bool) (hdr : MsgHdr) (src : List Loc) (outId : Nat) : State :=
  let t := tileOfCtx c.ctx
  if lost then s.cmdArrive c 1 ePeerLost 0
  else
    let held := (s.tile t).retx.filter (fun r => r.hdr.sameChan hdr && seqBefore hdr.seq r.hdr.seq)
    let new : Retx := { hdr, data := s.readRange src, bar := c.bar, outId, st := .sent, at_ := s.rcOf t, delay := 256 }
    let s := s.modTile t (fun i => { i with retx := i.retx ++ [new] })
    let s := s.modCore (coreOfCtx c.ctx) (fun k => { k with msent := k.msent + 1 })
    if s.earlierQueued t hdr then s
    else (held.foldl (fun l r => insRetx r l) [new]).foldl (fun s r => s.sendMsg t c.ctx r.hdr r.data) s

/-- SENDS at its start: one packet per flit of 128 bytes with its due router cycle (R284). -/
def startSends (s : State) (c : Cmd) (src : List Loc) (dst plat data : Nat) (bar : Option Nat) : State :=
  let t := tileOfCtx c.ctx
  let bs := s.readRange src
  let place (a : Nat) : Loc := ⟨dst, a / 2 ^ 17 % 64, a % 2 ^ 17⟩
  let start := c.start.getD (s.tileVc t)
  (List.range ((bs.length + 127) / 128)).foldl (fun s i =>
    let piece := (slice bs (128 * i) 128).zipIdx.map (fun b => (place (data + 128 * i + b.2), b.1))
    s.send t dst 3 c.ctx 0 (.route piece (bar.map place) piece.length c.tag (2 * (start + plat) + i))) s

/-- MCAST at its start: one replica to each tile (R285). -/
def startMcast (s : State) (c : Cmd) (src : List Loc) (tiles : List Nat) (data : Nat) (bar : Option Nat) (outId : Nat) : State :=
  let t := tileOfCtx c.ctx
  let bs := s.readRange src
  tiles.foldl (fun s u =>
    let place (a : Nat) : Loc := ⟨u, a / 2 ^ 17 % 64, a % 2 ^ 17⟩
    s.send t u 0 c.ctx 0 (.mcast (bs.zipIdx.map (fun b => (place (data + b.2), b.1))) (bar.map place) bs.length outId)) s

/-- A command that needs nothing more starts. -/
def startCmd (s : State) (core : Nat) (c : Cmd) : State :=
  match c.kind with
  | .copy .. | .gath .. | .publ .. => s.beginRun core c
  | .send lost hdr src outId => s.startSend c lost hdr src outId
  | .sends src dst plat data bar => s.startSends c src dst plat data bar
  | .mcast src tiles data bar outId => s.startMcast c src tiles data bar outId
  | .phase => match c.crew with
    | some w => s.arriveCore w core (s.tile (tileOfCore core)).vcc true
    | none => s
  | .mmat op => match (s.core core).mtq.find? (fun o => o.id == op) with
    | some o =>
      let v := (s.tile (tileOfCore core)).vcc
      let whole := if o.stages.isEmpty then some (v + o.span) else none
      s.modCore core (fun k => { k with mtq := k.mtq.filter (fun q => q.id != op)
                                        mrun := some { o with g := 2 * v, e1 := v, e2 := v, done := whole } })
    | none => s
  | .lnpush .. => s

end State

/-- The entries a timed command reads through, as it latched them (R122, R245). -/
def timedSources (c : Cmd) (ops : List MOp) : List TsEnt :=
  match c.kind with
  | .copy p t out .. => [if out then p else t]
  | .gath p t out .. => [if out then p else t]
  | .mmat op => (ops.filter (fun o => o.id == op)).flatMap (fun o => match o.kind with
    | .mma _ _ _ a b _ => [a, b]
    | _ => [])
  | _ => []

/-- What a timed command meets at its start vc (R122, R251, R342). -/
inductive StartOut where
  | start (s : State)
  | missing
  | schedule (a : Word)
  | format
  | err (code : BitVec 8) (a : Word)

namespace State

/-- The first entry whose barrier does not let a reader read. -/
def firstTag (s : State) (tile : Nat) (c : Cmd) (es : List TsEnt) : Option (TagState × Word) :=
  (es.map (fun e => (s.tagOf tile c.map c.crew c.lvl.toNat e, e.bar))).find? (fun r => r.1 != .ready)

/-- A timed push (R255): the pop and the pushes, if the word and every credit are there; a pop that forwards toward a side with no neighbour is
an operand format fault (R251). -/
def timedPush (s : State) (core : Nat) (dir : Dir) (link : Option Bool) (v : Vec) : Except Stop State := do
  let (v, s) ← (match link with
    | some east => s.popWord core east
    | none => .ok (v, s) : Except Stop (Vec × State))
  s.pushAll core (dirSides dir) v

/-- How a timed command fares at its start vc. -/
def timedOut (s : State) (core : Nat) (c : Cmd) : StartOut :=
  let t := tileOfCore core
  match s.firstTag t c (timedSources c (s.core core).mtq) with
  | some (.err code, a) => .err code a
  | some (.pending, _) => .missing
  | some (_, a) => .schedule a
  | none => match c.kind with
    | .lnpush dir link v => match s.timedPush core dir link v with
      | .ok s => .start s
      | .error (.trap ..) => .format
      | .error _ => .missing
    | .mmat _ => if (s.core core).mrun.isSome then .missing else .start (s.startCmd core c)
    | _ => .start (s.startCmd core c)

end State

/-- TIMED_COMMAND_START: command i of a core's timing queue at its start vc: it starts, faults, or slacks the tile of an
elastic crew until its operand is there (R122, R130, R342).  None falls due in a capture, a halt or a close (R296, R399, R416). -/
def execTimedCommandStart (core i : Nat) (s : State) : Ans :=
  let t := tileOfCore core
  match (s.core core).tq[i]?, (s.tile t).crew with
  | some c, some w =>
    if (s.tile t).vcc < c.start.getD 0 || (s.crew w).st != .running || (s.tile t).halted || dueCut (s.crew w) (s.tile t).vcc
        || 0 < (s.tile t).capture || mustHalt (s.crew w) (s.tile t).vcc || atStop (s.tile t).vcc (s.crew w).replayTo
        || atStop (s.tile t).vcc (s.crew w).closing || c.kind != .phase && s.mayClose w (s.tile t).vcc then .next s
    else
      let el := (s.crew w).el
      let ended (s : State) : State := s.modTile t (fun x => { x with stall := if x.stall == some c.id then none else x.stall })
      match s.timedOut core c with
      | .start s' =>
        -- the reservations stay until an exact COPY or an MMAT ends
        let keep := c.exact || (match c.kind with | .mmat _ => true | _ => false)
        let s' := s'.modCore core (fun k => { k with tq := k.tq.filter (fun q => q.id != c.id) })
        .next (ended (if keep then s' else s'.dropCmd core c))
      | .missing =>
        if el then .next (s.modTile t (fun x => { x with stall := some c.id }))
        else .next ((s.dropCmd core c).timedFault c cTiming 0 (State.startAddr c))
      | .schedule _ => .next (ended ((s.dropCmd core c).timedFault c (if el then cSchedule else cTiming) 0 (State.startAddr c)))
      | .format => .next (ended ((s.dropCmd core c).timedFault c cFormat 0 0))
      | .err code a => .next (ended ((s.dropCmd core c).timedFault c (farCause code) code a))
  | _, _ => .next s

/-- The core of a tile whose untimed command is next in turn (R129). -/
def State.nextUntimed (s : State) (t : Nat) : Option Nat :=
  ((List.range 4).map (fun i => coreKey t (((s.tile t).rr + i) % 4))).find? (fun c => !(s.core c).uq.isEmpty)

/-- UNTIMED_COMMAND_START: the oldest untimed command of a core starts at the core's turn (R129). -/
def execUntimedCommandStart (core : Nat) (s : State) : Ans :=
  let t := tileOfCore core
  if s.nextUntimed t != some core || (s.tile t).halted then .next s
  else match (s.core core).uq with
    | [] => .next s
    | c :: rest => match s.replayStart core false with
      | none => .next s
      | some s =>
        let s := s.modCore core (fun k => { k with uq := rest })
        .next ((s.modTile t (fun x => { x with rr := (core + 1) % 4 })).startCmd core c)

namespace State

def modRun (s : State) (core id : Nat) (f : Run → Run) : State :=
  s.modCore core (fun k => { k with runs := k.runs.map (fun r => if r.cmd.id == id then f r else r) })

/-- A running command is over. -/
def endRun (s : State) (core id : Nat) : State :=
  (s.modCore core (fun k => { k with runs := k.runs.filter (fun r => r.cmd.id != id) })).modTile (tileOfCore core)
    (fun t => { t with rsvd := t.rsvd.filter (fun r => !(r.core == core && r.id == id)) })

/-- A command has failed: it stops delivering (R125). -/
def failRun (s : State) (core id : Nat) (err : BitVec 8) (a : Word) : State :=
  s.modRun core id (fun r => { r with moves := [], bufs := [], fail := some (r.fail.getD (err, a)) })

/-- A command has met a byte it may not touch or an index out of range: it makes no more moves, and those made before land (R125, R141). -/
def stopRun (s : State) (core id : Nat) (err : BitVec 8) (a : Word) : State :=
  s.modRun core id (fun r => { r with moves := [], fail := some (r.fail.getD (err, a)) })

/-- Bytes of a running command delivered: one arrival (R125). -/
def delivered (s : State) (core id n : Nat) : State :=
  match (s.core core).runs.find? (fun r => r.cmd.id == id) with
  | some r => (s.modRun core id (fun r => { r with left := r.left - n })).cmdArrive r.cmd n 0 0
  | none => s

end State

/-- Far bytes of a list in runs of consecutive addresses within 64 bytes: the first address, and the places in the list. -/
def farRuns (l : List Src) : List (Word × List Nat) :=
  (l.zipIdx.foldl (fun (acc : List (Word × List Nat)) b => match b.1 with
    | .far va => match acc with
      | (a, is) :: rest =>
        if va == a + BitVec.ofNat 64 is.length && b.2 == is.headD 0 + is.length && va.extractLsb' 6 58 == a.extractLsb' 6 58 then (a, is ++ [b.2]) :: rest
        else (va, [b.2]) :: acc
      | [] => [(va, [b.2])]
    | _ => acc) []).reverse

/-- The first byte that an engine may not touch. -/
def badOf (l : List Src) : Option (BitVec 8 × Word) :=
  l.findSome? (fun x => match x with | .bad e a => some (e, a) | _ => none)

namespace State

/-- A far request of a running command. -/
def cmdFar (s : State) (c : Cmd) (va : Word) (kind : FarKind) (slot : Option Nat) : State :=
  let core := coreOfCtx c.ctx
  let t := tileOfCore core
  let part := match c.crew with | some w => (s.crew w).part | none => (s.partOfTile t).getD 0
  let r : FarReq := { id := s.nextId, ctx := c.ctx, core, crew := c.crew, part, va, kind, slot, uid := c.uid, from_ := c.slot,
                      unit := c.unit }
  { s with nextId := s.nextId + 1 }.sendTo t (gwSite (fieldOf (s.siteOf t))) 0 c.ctx (streamOf 4 core) (.far r)

/-- The reads of a line move are made: vault bytes and constants now, far bytes by requests (R133). -/
def issueMove (s : State) (core : Nat) (r : Run) (m : Move) : State :=
  let id := s.nextId
  let data : List (Option Byte) := m.src.map (fun x => match x with
    | .vault l => some ((s.readLoc l 1).headD 0)
    | .const b => some b
    | _ => none)
  let s := ({ s with nextId := s.nextId + 1 } : State).modRun core r.cmd.id (fun r =>
    { r with moves := r.moves.tail, bufs := r.bufs ++ [{ id, dst := m.dst, data, n := m.n }] })
  (farRuns m.src).foldl (fun s x => s.cmdFar r.cmd x.1 (.read x.2.length id (x.2.headD 0)) r.cmd.ver) s

/-- The bytes that a queued command will write: a SCAT may write any row of its table (R132, R141). -/
def queuedWrites (s : State) (c : Cmd) : List Src :=
  let whole (e : TsEnt) : List Src := e.rows.flatMap (fun i =>
    (List.range e.rowBytes).map (fun b => s.srcAt c (e.addr i b)) ++ (List.range e.rowScales).map (fun b =>
      s.srcAt c (e.scaleAddr (32 * (b / e.scaleBytes)) i (b % e.scaleBytes))))
  match c.kind with
  | .copy p t out _ origin => (s.copyMoves c p t out origin).flatMap Move.dst
  | .gath p t out .. => whole (if out then t else p)
  | _ => []

/-- The commands of a core issued before one that have not started, but for timed ones that an exact COPY is to run ahead of: they start at
a later vc (R130, R132; log entry 37). -/
def earlierWaiting (s : State) (core : Nat) (c : Cmd) : List Cmd :=
  ((s.core core).uq ++ (s.core core).tq).filter (fun q => decide (q.id < c.id)
    && !(c.exact && (match q.start with | some v => decide (c.start.getD 0 < v) | none => false)))

/-- The bytes that earlier work of a core will still write (R132). -/
def pendingWrites (s : State) (core : Nat) (r : Run) (buf : Nat) : List Src :=
  let early := (s.core core).runs.filter (fun q => decide (q.cmd.id < r.cmd.id))
  (s.earlierWaiting core r.cmd).flatMap s.queuedWrites
    ++ early.flatMap (fun q => q.moves.flatMap Move.dst ++ q.bufs.flatMap LineBuf.dst)
    ++ (r.bufs.takeWhile (fun b => b.id != buf)).flatMap LineBuf.dst

/-- A line that lands: the bank line is written whole, or its bytes leave for their homes (R125, R133). -/
def landBuf (s : State) (core : Nat) (r : Run) (b : LineBuf) : State :=
  let id := r.cmd.id
  let drop (s : State) : State := s.modRun core id (fun q => { q with bufs := q.bufs.filter (fun x => x.id != b.id) })
  let bytes := b.data.map (fun x => x.getD 0)
  match farRuns b.dst with
  | [] =>
    let s := (b.dst.zip bytes).foldl (fun s x => match x.1 with | .vault l => s.writeLoc l [x.2] | _ => s) (drop s)
    s.delivered core id b.n
  | runs =>
    runs.zipIdx.foldl (fun s x =>
      let is := x.1.2
      let n := if x.2 = 0 then b.n - (b.dst.length - is.length) else is.length
      let req := s.nextId
      (s.cmdFar r.cmd x.1.1 (.write (is.map (fun i => bytes.getD i 0)) id) r.cmd.verW).modRun core id
        (fun q => { q with acks := q.acks ++ [(req, n)] })) (drop s)

/-- Whether a command writes far memory. -/
def writesFar (c : Cmd) : Bool :=
  match c.kind with
  | .copy p t out .. | .gath p t out .. =>
    let e := if out then t else p
    decide (2 ≤ spaceOf e.base) || e.scl != 0 && decide (2 ≤ spaceOf e.sbase)
  | _ => false

/-- The leaf of a page that is to be published, which lies in space 2 or 6 (R142). -/
def publLeaf (s : State) (field part : Nat) (a : Word) : Except (BitVec 8) Leaf × State :=
  if spaceOf a != 2 && spaceOf a != 6 then (.error eRange, s)
  else match s.farVa a none 1 with
    | .error e => (.error e, s)
    | .ok none => s.translatePeer field part (waferOf a) (a.toNat % 2 ^ 52) .publ
    | .ok (some va) => s.translate field part va .publ false

/-- The leaves of a published range, or the first error (R142). -/
def publLeaves (s : State) (fuel field part : Nat) (a : Word) (left : Nat) : Except (BitVec 8 × Word) (List Leaf) × State :=
  match fuel with
  | 0 => (.ok [], s)
  | fuel + 1 =>
    if left = 0 then (.ok [], s)
    else match s.publLeaf field part a with
      | (.error e, s) => (.error (e, a), s)
      | (.ok l, s) =>
        let n := l.va + l.size - a.toNat % 2 ^ 52
        if left ≤ n then (.ok [l], s)
        else match s.publLeaves fuel field part (a + BitVec.ofNat 64 n) (left - n) with
          | (.ok ls, s) => (.ok (l :: ls), s)
          | (.error e, s) => (.error e, s)

/-- Where a range is published: home, wafer of a remote one, buffer map entry and the greatest page index in it; each once, home index rising
(R142). -/
def publTargets (ls : List Leaf) : List (Nat × Option Nat × Nat × Nat) :=
  let key (l : Leaf) : Nat × Option Nat × Nat := (l.addr / 8 % 32, l.tag.map Prod.fst, l.addr / 2 ^ 24)
  let ks := (ls.map key).eraseDups
  (List.range 24).flatMap (fun h => (ks.filter (fun x => x.1 == h)).map (fun x =>
    (x.1, x.2.1, x.2.2, (ls.filter (fun l => key l == x)).foldl (fun m l => max m (l.addr / 256 % 2 ^ 16)) 0)))

/-- PRK of a barrier (R127). -/
def setPrk (s : State) (bar : Bar) (v : Bool) : State :=
  match bar with
  | some b =>
    let s := s.setBarrier b { s.barrier b with prk := v }
    if v then
      -- a thread that sleeps in BARW on it is parked (R96)
      (s.waiters (fun w => w == .barw b)).foldl (fun s k => s.modCtx k (fun c => { c with wait := .parkedBarw b })) s
    else s
  | none => s

/-- The running command that a request works for. -/
def reqRun (s : State) (r : FarReq) : Option Run :=
  (s.core r.core).runs.find? (fun q => match r.kind with
    | .read _ buf _ => q.bufs.any (fun b => b.id == buf)
    | .write _ id | .publ id => q.cmd.id == id
    | _ => false)

/-- A request that met NOT_PRESENT enters the park queue of its gateway, which posts a fault record to the steward, or fails with PARK_FULL
(R96).  A thread that waits for it is parked. -/
def parkReq (s : State) (field : Nat) (r : FarReq) : Except (BitVec 8) State :=
  let g := s.gw field
  match (List.range 256).find? (fun e => (Tbl.find g.park e).isNone) with
  | none => .error eParkFull
  | some e =>
    let bar : Bar := (s.reqRun r).bind (fun q => q.cmd.bar)
    let s := s.setGw field { g with park := Tbl.put g.park e { r with bar, late := true }, posted := g.posted ++ [e] }
    let park (f : Ctx → Ctx) : State := s.modCtx r.ctx (fun c => if c.uid == r.uid then f c else c)
    match r.kind with
    | .read .. | .write .. | .publ _ => .ok (s.setPrk bar true)
    | .fetch => .ok (park (fun c => { c with parked := true }))
    | .amo .. | .knot .. | .record _ => .ok (if awaited r.kind then park (fun c => { c with wait := .parkedAmo }) else s)

/-- The requests of a publication leave for their homes: on this wafer, or through the port that leads to a remote one (R142, R449). -/
def publSend (s : State) (core : Nat) (r : Run) (va : Word) (part : Nat) (x : Nat × Option Nat × Nat × Nat) : State :=
  let t := tileOfCore core
  let req : FarReq := { id := s.nextId, ctx := r.cmd.ctx, core, crew := r.cmd.crew, part, va, kind := .publ r.cmd.id,
                        home := some x.1, uid := r.cmd.uid, from_ := r.cmd.slot, unit := r.cmd.unit,
                        port := x.2.1.bind (fun w => s.peerPort w x.1) }
  let s : State := { s with nextId := s.nextId + 1 }
  (match req.port with
    | some q => s.sendTo t (portSite q) 0 r.cmd.ctx (streamOf 6 core) (.far req)
    | none => s.sendTo t (gwSite (fieldOfHome x.1)) 0 r.cmd.ctx (streamOf 6 core) (.home req (1 + x.2.2.1 * 2 ^ 16 + x.2.2.2) 0 x.1)).modRun
      core r.cmd.id (fun q => { q with acks := q.acks ++ [(req.id, 0)] })

/-- PUBL (R142): behind the core's far writes, the whole range is translated, then every home is told; it arrives when all
have acknowledged. -/
def publMove (s : State) (core : Nat) (r : Run) (va len : Word) : State :=
  let id := r.cmd.id
  let early (c : Cmd) : Bool := decide (c.id < id) && writesFar c
  let k := s.core core
  if k.runs.any (fun q => early q.cmd) || (k.uq ++ k.tq).any early || !r.acks.isEmpty then s
  else if r.made = 1 then (s.delivered core id 1).endRun core id
  else
    let t := tileOfCore core
    let field := s.gwOf t
    let part := match r.cmd.crew with | some w => (s.crew w).part | none => (s.partOfTile t).getD 0
    match s.publLeaves (len.toNat / 2 ^ 16 + 2) field part va len.toNat with
    | (.error (e, a), s) =>
      if e == eNotPresent then
        let req : FarReq := { id := s.nextId, ctx := r.cmd.ctx, core, crew := r.cmd.crew, part, va := a, kind := .publ id,
                              uid := r.cmd.uid, from_ := r.cmd.slot, unit := r.cmd.unit }
        match ({ s with nextId := s.nextId + 1 } : State).parkReq field req with
        | .ok s => s.modRun core id (fun q => { q with acks := [(req.id, 0)] })
        | .error e => s.failRun core id e a
      else s.failRun core id e a
    | (.ok ls, s) =>
      (publTargets ls).foldl (fun s x => s.publSend core r va part x) (s.modRun core id (fun q => { q with made := 1 }))

/-- The copy engine has moved fewer than four bank lines in each router cycle of this rc (R129). -/
def lineRoom (s : State) (t : Nat) : Bool := decide ((s.site (s.siteOf t)).moved < 8 * s.rcOf t + 8)

/-- The copy engine of a tile moves a line (R129). -/
def takeLine (s : State) (t : Nat) : State :=
  s.modSite (s.siteOf t) (fun n => { n with moved := max n.moved (8 * n.ctr) + 1 })

/-- One router cycle of an exact timed COPY: the arrival of the line written in the cycle before, the write of the line read in it, and the
read of the next line (R130, R157). -/
def exactMove (s : State) (core : Nat) (r : Run) : State :=
  let id := r.cmd.id
  let s := match r.owed, r.cmd.bar with
    | some n, some b => s.arriveAt b n r.cmd.tag 0 0
    | _, _ => s
  let s := match r.bufs with
    | b :: _ => (b.dst.zip b.data).foldl (fun (s : State) (x : Src × Option Byte) => match x.1 with
      | .vault l => s.writeLoc l [x.2.getD 0]
      | _ => s) (s.takeLine (tileOfCore core))
    | [] => s
  let read (m : Move) : LineBuf := { id := 0, dst := m.dst, n := m.n, data := m.src.map (fun x => match x with
    | .vault l => some ((s.readLoc l 1).headD 0)
    | .const b => some b
    | _ => none) }
  let bad := r.moves.head?.bind (fun m => badOf (m.src ++ m.dst))
  let s := s.modRun core id (fun q => { q with
    owed := r.bufs.head?.map LineBuf.n, left := q.left - (r.bufs.head?.map LineBuf.n).getD 0
    bufs := if bad.isSome then [] else (r.moves.head?.map read).toList, moves := q.moves.tail, made := q.made + 1 })
  match bad with
  | some (err, a) => s.stopRun core id err a
  | none => s

/-- An exact COPY has still to read, write or arrive. -/
def exactLeft (r : Run) : Bool := !r.moves.isEmpty || !r.bufs.isEmpty || r.owed.isSome

/-- A line that an engine is to write is held back (R417, R423). -/
def dstHeld (s : State) (l : List Src) : Bool := l.any (fun d => match d with | .vault l => s.linesHeld l 1 | _ => false)

/-- The banks that the vault bytes of a list lie in, each once. -/
def vaultBanks (l : List Src) : List (Nat × Nat) :=
  (l.filterMap (fun d => match d with | .vault l => some (l.tile, l.bank) | _ => none)).eraseDups

/-- A line of a running command that has come and lies behind no earlier work of its core on the same bytes (R132). -/
def landable (s : State) (core : Nat) (r : Run) : Option LineBuf :=
  r.bufs.find? (fun b => b.data.all Option.isSome && !(s.pendingWrites core r b.id).any (fun d => b.dst.contains d))

/-- The next thing of a running command would be a new line or a publication, which a halted crew's engines do not start (R399). -/
def startsLine (s : State) (core : Nat) (r : Run) : Bool :=
  match r.fail, r.cmd.kind with
  | none, .publ .. => r.made == 0
  | _, _ => (s.landable core r).isNone && !r.moves.isEmpty

/-- The next thing a running command can do, if there is one: a line that has come lands, at a cycle of each bank and behind earlier work of
its core on the same bytes, at most four in a router cycle (R129, R132, R155), else the next line is read; a command that has failed arrives once more at its end (R125). -/
def runMove (s : State) (core : Nat) (r : Run) : State :=
  let id := r.cmd.id
  match r.fail, r.cmd.kind with
  | none, .publ va len => s.publMove core r va len
  | _, _ =>
    match s.landable core r with
    | some b =>
      if s.dstHeld b.dst || !s.lineRoom (tileOfCore core) then s
      else match s.useLines (tileOfCore core) (vaultBanks b.dst) with
        | some s => (s.takeLine (tileOfCore core)).landBuf core r b
        | none => s
    | none => match r.moves with
      | m :: _ => match badOf (m.src ++ m.dst) with
        | some (err, a) => s.stopRun core id err a
        | none => match s.useLines (tileOfCore core) (vaultBanks m.src) with
          | some s => s.issueMove core r m
          | none => s
      | [] => if !(r.bufs.isEmpty && r.acks.isEmpty) then s else match r.fail with
        | some (err, a) => (s.cmdArrive r.cmd r.left err a).endRun core id
        | none => s.endRun core id

end State

/-- ENGINE_LINE_MOVE: running command i of a core makes one move: a line is read, a line lands, or the command ends (R125,
R129, R130, R133). -/
def execEngineLineMove (core i : Nat) (s : State) : Ans :=
  let t := tileOfCore core
  match (s.core core).runs[i]? with
  | none => .next s
  | some r =>
    let exact := r.cmd.exact && State.exactLeft r
    if (s.tile t).halted && (exact || s.startsLine core r) then .next s
    else if exact then
      -- the router cycles of a vc begin when the tile runs on into it
      let bound := if s.slacks t then 2 * (s.tile t).vcc else 2 * (s.tile t).vcc + 2
      let dst := r.bufs.flatMap LineBuf.dst
      if 2 * r.cmd.start.getD 0 + r.made < bound && !s.dstHeld dst && !(s.pendingWrites core r 0).any (fun d => dst.contains d) then
        let s := s.exactMove core r
        match (s.core core).runs[i]? with
        | some r => .next (if State.exactLeft r then s else s.runMove core r)
        | none => .next s
      else .next s
    else .next (s.runMove core r)

/-- BARRIER_ARRIVAL: a landed line or an acknowledgement arrives at its barrier (R125). -/
def execBarrierArrival (n : Nat) (s : State) : Ans :=
  match s.arrived n (fun b => match b with | .arrive .. => true | _ => false) with
  | none => .next s
  | some (p, s1) => match p.body with
    | .arrive b c tag err a =>
      if s1.linesHeld b 16 || !s1.orderTurn p.ctx b then .next s else .next ((s1.logOrder p.ctx b).arriveAt b c tag err a)
    | _ => .next s

end Sys2Proof.Machine
end

