-- ==== Sys2Proof/Machine/EvMatrix.lean ====
section
/-! DEFINITION. Events of the matrix engine (R233-R249) and of the neighbour links (R252, R253). -/

namespace Sys2Proof.Machine

/-- The number of an accumulator element among a core's (R233). -/
def accKey (tile i j : Nat) : Nat := tile * 1024 + i * 32 + j

/-- The code of an accumulator element: FP32, or FP64 over a pair (R233). -/
def accGet (acc : Tbl (BitVec 32)) (f64 : Bool) (d i j : Nat) : Nat :=
  let lo := (Tbl.get 0 acc (accKey d i j)).toNat
  if f64 then lo + 2 ^ 32 * (Tbl.get 0 acc (accKey (d + 1) i j)).toNat else lo

def accSet (acc : Tbl (BitVec 32)) (f64 : Bool) (d i j code : Nat) : Tbl (BitVec 32) :=
  let acc := Tbl.set 0 acc (accKey d i j) (BitVec.ofNat 32 code)
  if f64 then Tbl.set 0 acc (accKey (d + 1) i j) (BitVec.ofNat 32 (code >>> 32)) else acc

/-- A tile or pair set to +0. -/
def accZero (acc : Tbl (BitVec 32)) (f64 : Bool) (d : Nat) : Tbl (BitVec 32) :=
  acc.filter (fun e => !(e.1 / 1024 == d || f64 && e.1 / 1024 == d + 1))

/-- Counts for %mxc (R238, R249): NAN, OVF, SATC. -/
structure MxCount where
  nan : Nat := 0
  ovf : Nat := 0
  satc : Nat := 0
  deriving DecidableEq, Repr

def MxCount.add (a b : MxCount) : MxCount := ⟨a.nan + b.nan, a.ovf + b.ovf, a.satc + b.satc⟩

/-- %mxc with counts added, each counter saturating (R188, R238). -/
def mxcAdd (w : BitVec 48) (c : MxCount) : BitVec 48 :=
  let up (lo n : Nat) : BitVec 16 := BitVec.ofNat 16 (min 0xFFFF ((w.extractLsb' lo 16).toNat + n))
  up 32 c.nan ++ up 16 c.ovf ++ up 0 c.satc

/-- An element of an operand as the engine fetched it (R118, R237). -/
def operandVal (byte : Word → Byte) (o : Operand) (m k : Nat) : Val :=
  match o.elem m k with
  | none => .fin false 0 0
  | some i =>
    let bits := o.e.bits
    let code := leNat ((elemAddrs o.e i).map byte) >>> (i.1 * bits % 8) % 2 ^ bits
    if o.e.scl = 0 then valueOf o.e.ty code
    else
      let sc := (elemScales o.e i).map byte
      blockVal o.e.ty code (sc.headD 0).toNat (sc.getD 1 0).toNat

/-- A rounding of the engine: its code, and whether R77 clamped it. -/
def mRound (ty : Ty) (sat : Bool) (x : Val) : Nat × Bool :=
  let r := roundTo ty .rne sat x
  (r.code, sat && !x.isNan && (x.isInf || r.fl &&& flOF != 0))

/-- One element of a product: the code and what it counts (R82, R83, R237, R238). -/
def mmaElem (f64 sat : Bool) (k init : Nat) (a b : Nat → Val) : Nat × MxCount :=
  let ty : Ty := if f64 then .f64 else .f32
  let step (acc : Nat × Bool) (parts : List Val) : Nat × Bool :=
    let (c, cl) := mRound ty sat (exactSum false (valueOf ty acc.1 :: parts)).v
    (c, acc.2 || cl)
  let prod (i : Nat) : Val := (mulVal (a i) (b i)).v
  let (code, clamped) :=
    if f64 then (List.range k).foldl (fun acc i => step acc [prod i]) (init, false)
    else (List.range ((k + 15) / 16)).foldl (fun acc ch =>
      let ts := (List.range 16).map (fun t => if 16 * ch + t < k then prod (16 * ch + t) else .fin false 0 0)
      step acc [(exactSum false ts).v]) (init, false)
  let v0 := valueOf ty init
  let v := valueOf ty code
  (code, ⟨if v.isNan && !v0.isNan then 1 else 0, if v.isInf && !v0.isInf && !v0.isNan then 1 else 0, if clamped then 1 else 0⟩)

/-- The accumulator after a product, and its counts (R237, R238).  `byte q a` is the byte at an address in stage q. -/
def mmaResult (acc : Tbl (BitVec 32)) (d : Nat) (z sat f64 : Bool) (oa ob : Operand) (group : Nat)
    (byte : Nat → Word → Byte) : Tbl (BitVec 32) × MxCount :=
  let acc := if z then accZero acc f64 d else acc
  let e := stageK group
  (List.range oa.n).foldl (fun r m => (List.range ob.n).foldl (fun (r : Tbl (BitVec 32) × MxCount) n =>
    let (c, cnt) := mmaElem f64 sat oa.k (accGet r.1 f64 d m n) (fun k => operandVal (byte (k / e)) oa m k)
      (fun k => operandVal (byte (k / e)) ob n k)
    (accSet r.1 f64 d m n c, r.2.add cnt)) r) (acc, {})

/-- What one rounding of MSTC counts (R249). -/
def stcCount (ty : Ty) (x : Val) (r : Rd) (wasNan isNan : Bool) : MxCount :=
  let v := valueOf ty r.code
  let ended := r.fl &&& flOF != 0
  { nan := if isNan && !wasNan then 1 else 0
    ovf := if ended && (v.isInf || v.isNan) then 1 else 0
    satc := if !v.isInf && !v.isNan && (ended || x.isInf) then 1 else 0 }

/-- A row of MSTC: its element codes, its scale bytes and its counts (R249). -/
def stcRow (ty src : Ty) (mode : Mode) (sat : Bool) (scl : Nat) (ys : List Val) : List Nat × List Byte × MxCount :=
  if scl = 0 then
    let rs := ys.map (fun y => (y, roundTo ty mode sat y))
    (rs.map (fun r => r.2.code), [],
     rs.foldl (fun c r => c.add (stcCount ty r.1 r.2 r.1.isNan (valueOf ty r.2.code).isNan)) {})
  else
    let x := blockScale ty src ys
    let p : Packed := if x == 0xFF then ⟨List.replicate 32 ⟨0, 0⟩, ⟨0, 0⟩⟩
      else packBlock ty mode sat (ys.map (fun y => y.scale (127 - (x : Int))))
    let t := p.standIn.code
    let count := (ys.zip p.els).foldl (fun c e =>
      c.add (stcCount ty (if x == 0xFF then .nan else e.1) e.2 e.1.isNan (blockVal ty e.2.code x t).isNan)) {}
    let count := if ty == .f4s then count.add (stcCount .e4m3 .nan p.standIn true false) else count
    (p.els.map Rd.code, if scl = 1 then [BitVec.ofNat 8 x] else [BitVec.ofNat 8 x, BitVec.ofNat 8 t], count)

namespace State

/-- Where an address latched by an operation lies. -/
def opPlace (s : State) (o : MOp) (a : Word) : Except (BitVec 8) Loc :=
  s.latched (tileOfCtx o.ctx) o.map o.crew o.lvl.toNat a

/-- The byte at an address in the operand buffer, as fetched for a stage (R239). -/
def bufByte (s : State) (o : MOp) (q : Nat) (a : Word) : Byte :=
  match s.opPlace o a with
  | .ok l => match o.buf.find? (fun b => b.1 == q && b.2.1 == ⟨l.tile, l.bank, l.off / 64⟩) with
    | some b => byteOf b.2.2 (l.off % 64)
    | none => 0
  | .error _ => 0

/-- The entry rows and columns that MLDC and MSTC cover. -/
def entryCells (e : TsEnt) : List (Nat × Nat) :=
  (List.range (e.dim 1 + 1)).flatMap (fun i => (List.range (e.dim 0 + 1)).map (fun j => (i, j)))

/-- MSTC writes its rows (R249). -/
def storeAcc (s : State) (core : Nat) (o : MOp) (ty : Ty) (rm : Rm) (sat : Bool) (e : TsEnt) : State × MxCount :=
  let f64 := ty == .f64
  let src : Ty := if f64 then .f64 else .f32
  let acc := (s.core core).acc
  let put (s : State) (a : Word) (b : Byte) : State := match s.opPlace o a with
    | .ok l => s.writeLoc l [b]
    | .error _ => s
  (List.range (e.dim 1 + 1)).foldl (fun (r : State × MxCount) i =>
    let ys := (List.range (e.dim 0 + 1)).map (fun j => valueOf src (accGet acc f64 o.acc i j))
    let (codes, sc, cnt) := stcRow ty src (modeOf rm 0x0100) sat e.scl ys
    let bytes := leBytes e.rowBytes (streamOfElems e.bits codes)
    let s := bytes.zipIdx.foldl (fun s b => put s (e.addr (i, 0, 0) b.2) b.1) r.1
    let s := sc.zipIdx.foldl (fun s b => put s (e.scaleAddr 0 (i, 0, 0) b.2) b.1) s
    (s, r.2.add cnt)) (s, {})

/-- A line that an MSTC is to write is held back (R417, R423). -/
def storeHeld (s : State) (o : MOp) : Bool :=
  match o.kind with
  | .stc _ _ _ e =>
    let held (a : Word) : Bool := match s.opPlace o a with
      | .ok l => s.linesHeld l 1
      | .error _ => false
    (List.range (e.dim 1 + 1)).any (fun i => (List.range e.rowBytes).any (fun b => held (e.addr (i, 0, 0) b))
      || (List.range e.rowScales).any (fun b => held (e.scaleAddr 0 (i, 0, 0) b)))
  | _ => false

/-- An operation takes effect at its completion vc (R237, R248, R249). -/
def finishOp (s : State) (core : Nat) (o : MOp) : State × MxCount :=
  let setAcc (a : Tbl (BitVec 32)) : State := s.modCore core (fun k => { k with acc := a })
  let acc := (s.core core).acc
  match o.kind with
  | .mma z sat f64 ea eb row0 => match productOf f64 ea eb (BitVec.ofNat 64 row0) with
    | some (oa, ob, group) =>
      let (a, cnt) := mmaResult acc o.acc z sat f64 oa ob group (s.bufByte o)
      (setAcc a, cnt)
    | none => (s, {})
  | .zero f64 => (setAcc (accZero acc f64 o.acc), {})
  | .ldc f64 e =>
    (setAcc ((entryCells e).foldl (fun a c =>
      accSet a f64 o.acc c.1 c.2 (leNat ((elemAddrs e (c.2, (c.1, 0, 0))).map (s.bufByte o 0)))) acc), {})
  | .stc ty rm sat e => s.storeAcc core o ty rm sat e

/-- The next stage's first line may be fetched from router cycle F (R240). -/
def nextStage (o : MOp) : MOp :=
  match o.stages with
  | [] => o
  | (_, d) :: rest =>
    let e := max o.e1 ((o.g + 1) / 2) + d
    { o with stages := rest, stage := o.stage + 1, e2 := o.e1, e1 := e, g := max o.g (2 * o.e1)
             done := if rest.isEmpty then some (e + 4) else none }

end State

/-- ENGINE_OPERATION_START: the oldest untimed operation starts on an idle engine if it ends before the earliest queued
MMAT starts (R242). -/
def execEngineOperationStart (core : Nat) (s : State) : Ans :=
  let k := s.core core
  let t := tileOfCore core
  let v := s.tileVc t
  match k.mrun, k.mq with
  | none, o :: rest =>
    let fits := k.mtq.all (fun q => match q.start with | some x => decide (v + o.span ≤ x) | none => true)
    if !fits || (s.tile t).halted then .next s
    else match s.replayStart core true with
      | none => .next s
      | some s =>
        let whole := if o.stages.isEmpty then some (v + o.span) else none
        .next (s.modCore core (fun k => { k with mq := rest, mrun := some { o with
          g := 2 * v, e1 := v, e2 := v, done := whole } }))
  | _, _ => .next s

/-- The vc that an operation of a core has come to: an untimed one goes on while its crew slacks for an MMAT (R242; log entry 93). -/
def State.opVc (s : State) (core : Nat) (o : MOp) : Nat := s.tileVc (tileOfCore core) + o.slip

/-- MATRIX_LINE_FETCH: the next line of the current stage lands in the operand buffer in its router cycle; a line that
loses its cycle asks again in the next (R240, R241). -/
def execMatrixLineFetch (core : Nat) (s : State) : Ans :=
  match (s.core core).mrun with
  | none => .next s
  | some o =>
    let v := s.opVc core o
    let keep (s : State) (o : MOp) : Ans := .next (s.modCore core (fun k => { k with mrun := some o }))
    match o.stages with
    | [] => .next s
    | ([], _) :: _ => keep s (State.nextStage o)
    | (l :: ls, d) :: rest =>
      -- an untimed line asks for a cycle at its bank, class 5 on the engine's tile
      let got : Option (Nat × State) :=
        if 2 * v + 1 < o.g then none
        else if o.start.isSome then some (o.g, s)
        else (s.cycleOf (if l.tile == tileOfCore core then 5 else 3) l.tile l.bank (2 * v < o.g)).map (fun c =>
          (if c < 128 then 2 * v + 1 else 2 * v, s.modTile l.tile (fun i => { i with bankUse := c :: i.bankUse })))
      match got with
      | none => .next s
      | some (c, s) =>
        let data := vecOfBytes (s.readLoc ⟨l.tile, l.bank, 64 * l.line⟩ 64)
        let o := { o with buf := o.buf ++ [(o.stage, l, data)], g := c + 1, stages := (ls, d) :: rest }
        keep s (if ls.isEmpty then State.nextStage o else o)

/-- MATRIX_OPERATION_COMPLETE: at the completion vc the accumulator or entry is written, %mxc counts, an MMAT arrives at its
barrier and an untimed operation's thread goes on (R238, R240, R243). -/
def execMatrixOperationComplete (core : Nat) (s : State) : Ans :=
  match (s.core core).mrun with
  | none => .next s
  | some o => match o.done with
    | none => .next s
    | some v =>
      if s.opVc core o < v || s.storeHeld o || o.bar.any (fun b => s.linesHeld b 16) then .next s
      else
        let (s, cnt) := s.finishOp core o
        let s := (s.modCore core (fun k => { k with mrun := none })).modTile (tileOfCore core)
          (fun t => { t with rsvd := t.rsvd.filter (fun r => !(r.core == core && r.id == o.id)) })
        let mine := (s.ctx o.ctx).used && (s.ctx o.ctx).uid == o.uid
        let s := if mine then s.modCtx o.ctx (fun c => { c with mxc := mxcAdd c.mxc cnt }) else s
        if o.start.isSome then .next (match o.bar with | some b => s.arriveAt b 1 o.tag 0 0 | none => s)
        else if mine then .next (s.complete o.ctx) else .next s

/-- LINK_WORD_ARRIVAL: the oldest word on its way to a core's FIFO lands and wakes a thread that sleeps on the empty FIFO
(R252, R253). -/
def execLinkWordArrival (core : Nat) (east : Bool) (s : State) : Ans :=
  match s.linkCore core east with
  | none => .next s
  | some sender =>
    match (s.core sender).fly.findIdx? (fun f => f.east == !east) with
    | none => .next s
    | some i => match (s.core sender).fly[i]? with
      | none => .next s
      | some f =>
        let packet := s.net.findIdx? (fun p => p.pos == p.dst && p.stream == State.streamOf 3 sender && (match p.body with
          | .link w e => e == f.east && w == f.word
          | _ => false))
        let ready := decide (f.due ≤ s.rcOf (tileOfCore core)) && (!f.mesh || packet.isSome)
        let held := (s.ctxsOf core).any (fun k => (s.ctx k).wait == .link east && s.wakeAhead k)
        if !ready || held then .next s
        else
          let s : State := match f.mesh, packet with
            | true, some j => { s with net := s.net.eraseIdx j }
            | _, _ => s
          let s := s.modCore sender (fun c => { c with fly := c.fly.eraseIdx i })
          let s := s.modCore core (fun c => if east then { c with le := c.le ++ [f.word] } else { c with lw := c.lw ++ [f.word] })
          .next ((s.ctxsOf core).foldl (fun s k => match (s.ctx k).wait with
            | .link e => if e == east then (s.reissue k).logWake k 0x05 else s
            | _ => s) s)

/-- LINK_CREDIT_RETURN: the credit of a popped word is the sender's again (R252). -/
def execLinkCreditReturn (core : Nat) (east : Bool) (s : State) : Ans :=
  .next (s.modCore core (fun c => if east then { c with owedE := c.owedE - 1 } else { c with owedW := c.owedW - 1 }))

end Sys2Proof.Machine
end

