-- ==== Sys2Proof/Machine/EvCore.lean ====
section
/-! DEFINITION. Events of a core and its site's clock: the scheduler's decision with handler delivery and inversion rescue
(R336, R337, R393, R402, R404), swaps (R338), trap records (R392), the site counter (R179, R416, R481), deadlines (R362) and
VCC overflow (R344). -/

namespace Sys2Proof.Machine

namespace State

/-- The handler context of a core, if one is installed (R387, R393). -/
def handlerOf (s : State) (core : Nat) : Option Nat :=
  (s.core core).handler.bind (fun k => if (s.ctx k).used then some k else none)

/-- A decision of its own may move a context: in a replay those of a crew are moved by the log alone (R339). -/
def ownMove (s : State) (k : Nat) : Bool := (s.ctx k).crew.isNone || !s.replaying (tileOfCtx k)

/-- The eligible residents that a decision of its own may swap out. -/
def movable (s : State) (core : Nat) : List Nat := (s.eligible core).filter s.ownMove

/-- The slot a handler is delivered into (R393). -/
def deliverySlot (s : State) (core : Nat) : Option Nat :=
  match s.emptySlot core with
  | some j => some j
  | none =>
    let el := s.movable core
    (List.range 16).find? (fun j => match s.inSlot core j with | some k => el.contains k | none => false)

/-- A context that a delivery puts out of a slot is to come back to it. -/
def displace (s : State) (core slot : Nat) : State :=
  match s.inSlot core slot with
  | some k => s.modCore core (fun c => { c with displaced := Tbl.set 0 c.displaced slot (k % 64 + 1) })
  | none => s

/-- HANDLER_DELIVERY: an unclaimed record places the handler in a slot; in its slot the handler's ready bit is set, and a TWIN
wakes (R393). -/
def deliver (s : State) (core : Nat) : Option State :=
  if (s.core core).trapq.all (fun r => r.claimed) then none
  else match s.handlerOf core with
    | none => none
    | some h =>
      if s.inSwap h || (s.ctx h).held then none
      else if (s.slotOf h).isSome then
        if (s.ctx h).wait == .twin then some ((s.wakeBit h).reissue h)
        else if (s.ctx h).rdy then none
        else some (s.wakeBit h)
      else (s.deliverySlot core).map (fun j => (s.displace core j).decideSwap core j (some h) .deliver)

/-- A displaced context goes back into its slot as soon as the handler has left it, or when the handler sleeps there with
nothing to take (R393). -/
def reload (s : State) (core : Nat) : Option State :=
  (s.core core).displaced.findSome? (fun e =>
    let k := ctxKey core (e.2 - 1)
    let clear (s : State) : State := s.modCore core (fun c => { c with displaced := Tbl.set 0 c.displaced e.1 0 })
    if !(s.ctx k).used || (s.ctx k).held || (s.slotOf k).isSome then some (clear s)
    else if s.inSwap k || !s.ownMove k then none
    else match s.inSlot core e.1 with
      | none => if s.slotEmpty core e.1 then some ((clear s).decideSwap core e.1 (some k) .reload) else none
      | some h =>
        if some h == s.handlerOf core && (s.ctx h).wait == .twin && (s.core core).trapq.all (fun r => r.claimed) then
          some ((clear s).decideSwap core e.1 (some k) .reload)
        else none)

/-- A thread parked on a missing page (R402). -/
def isParked (s : State) (k : Nat) : Bool :=
  let c := s.ctx k
  c.used && !c.frz && (match c.wait with | .parkedBarw _ | .parkedAmo => true | .fetch _ => c.parked | _ => false)

/-- A parked resident leaves its slot while fewer than 48 contexts are outside slots (R402). -/
def parkOut (s : State) (core : Nat) : Option State :=
  if 48 ≤ ((s.ctxsOf core).filter (fun k => (s.slotOf k).isNone)).length then none
  else (List.range 16).findSome? (fun j => match s.inSlot core j with
    | some k => if s.isParked k && !s.inSwap k && s.ownMove k then some (s.decideSwap core j none .park) else none
    | none => none)

/-- INVERSION_RESCUE: a holder outside a slot is placed and runs at the waiter's class (R404). -/
def rescue (s : State) (core : Nat) : Option State :=
  match (s.ctxsOf core).find? (fun k => (s.ctx k).rescue.isSome && !(s.ctx k).rsc && s.isWaiting k && s.ownMove k) with
  | none => none
  | some k =>
    let slot := (s.emptySlot core).or
      ((s.victimOf ((s.movable core).filter (fun v => !s.holdsAny v))).bind s.slotOf)
    slot.map (fun j => (s.modCtx k (fun c => { c with rsc := true })).decideSwap core j (some k) SwapHow.rescue)

/-- Rows 1 to 5 of R337. -/
def rowDecision (s : State) (core : Nat) : Option State :=
  match s.nextWaiting core s.ownMove with
  | none => none
  | some w =>
    let p := s.classOf w
    let age := s.ageOf w
    let swap (v : Option Nat) : Option State := (v.bind s.slotOf).map (fun j => s.decideSwap core j (some w) .rows)
    let el := s.movable core
    let stay (k : Nat) : Int := (s.vccOf k : Int) - (s.ctx k).resid
    match s.emptySlot core with
    | some j => some (s.decideSwap core j (some w) .rows)
    | none =>
      (swap (s.victimOf (el.filter (fun k => decide (s.classOf k < p))))).or
        ((if 4096 ≤ age then swap (s.victimOf (el.filter (fun k => s.classOf k == p && decide (4096 ≤ stay k)))) else none).or
          (if 16384 ≤ age then swap (s.victimOf el) else none))

/-- A decision that a replay repeats from the log at its vc (R339): the resident leaves as it left, a displaced one is to come back, a
holder that was rescued runs at the waiter's class. -/
def loggedSwap (s : State) (core : Nat) : Option State :=
  match s.swapRecord core (fun _ how => how != .yield && how != .done) with
  | none => none
  | some (vc, j, inn, how) =>
    let leaves : Bool := match s.inSlot core j with
      | none => true
      | some k => s.mayLeave k || how == .park && (s.ctx k).crew.isSome
    if decide (vc ≤ (s.tile (tileOfCore core)).vcc) && inn.all s.mayEnter && !s.swapping core j && leaves then
      let s := if how == .deliver then s.displace core j
        else if how == .reload then s.modCore core (fun c => { c with displaced := Tbl.set 0 c.displaced j 0 })
        else s
      let s := match inn with
        | some k => if how == SwapHow.rescue then s.modCtx k (fun c => { c with rsc := true }) else s
        | none => s
      some (s.takeSwap core j inn how)
    else none

end State

/-- SCHEDULER_DECISION: at most one decision in an rc, by the first that applies; a halt or a capture of a crew does not keep the core from
it (R337, R393, R399, R402, R404). -/
def execSchedulerDecision (core : Nat) (s : State) : Ans :=
  let rc := s.rcOf (tileOfCore core)
  if (s.core core).decideAt == some rc then .next s
  else
    let s := s.modCore core (fun c => { c with decideAt := some rc })
    let own := (s.loggedSwap core).or ((s.rescue core).or (s.rowDecision core))
    .next (((s.deliver core).or ((s.reload core).or ((s.parkOut core).or own))).getD s)

/-- A swap of a core is at its end: its last line has been moved, the frame may be written, and a replay has come to its vc. -/
def State.swapOver (s : State) (core : Nat) (w : Swap) : Bool :=
  w.wr == 0 && w.rd == 0 && w.tail == 0 && !w.out.any (fun k => s.linesHeld (State.frameLoc k) 0xA00)
    && !((s.crewed w.out || s.crewed w.inn) && s.redoAhead (tileOfCore core) (fun e => e == .swap core w.slot none .done))

/-- SWAP_COMPLETE: the victim's frame has been written and the other context's read; it occupies the slot (R338).  The vc at which a swap of
a crew's context ends is recorded (log entry 94). -/
def execSwapComplete (core : Nat) (s : State) : Ans :=
  match (s.core core).swaps.find? (s.swapOver core) with
  | none => .next s
  | some w =>
    let s := if s.crewed w.out || s.crewed w.inn then s.logEv (tileOfCore core) (.swap core w.slot none .done) 0 else s
    let s := s.modCore core (fun c => { c with swaps := c.swaps.erase w })
    let s := match w.out with
      | some k => s.saveFrame k
      | none => s
    match w.inn with
    | some k => .next ((s.loadFrame k).putSlot core w.slot k)
    | none => .next s

/-- TRAP_RECORD_ARRIVAL: a record enters the partner core's queue of 32, or waits at its source (R392). -/
def execTrapRecordArrival (n : Nat) (s : State) : Ans :=
  match s.arrived n (fun b => match b with | .trap .. => true | _ => false) with
  | none => .next s
  | some (p, s1) => match p.body with
    | .trap core r =>
      let q := (s1.core core).trapq
      match (List.range 32).find? (fun e => q.all (fun x => x.entry.toNat != e)) with
      | none => .next s
      | some e =>
        let s := s1.modCore core (fun c => { c with trapq := c.trapq ++ [{ r with ctx := p.ctx, entry := BitVec.ofNat 5 e }] })
        .next (if (s.handlerOf core).isNone then s.countCore core 32 1 else s)
    | _ => .next s

/-- Insertion of a landing by due rc, then rank (R179). -/
def insLanding (l : Landing) (ls : List Landing) : List Landing :=
  match ls with
  | [] => [l]
  | x :: rest => if l.due < x.due ∨ l.due = x.due ∧ l.rank < x.rank then l :: x :: rest else x :: insLanding l rest

/-- Results that land by an rc: the later due rc and the higher rank are kept (R178, R179). -/
def landShared (c : Core) (rc : Nat) : Core :=
  let due := (c.pend.filter (fun l => decide (l.due ≤ rc))).foldl (fun acc l => insLanding l acc) []
  let cfg := (c.lnPend.filter (fun l => decide (l.1 ≤ rc))).getLast?
  { c with
    pend := c.pend.filter (fun l => decide (rc < l.due))
    k := due.foldl (fun k l => if l.isVec then k else Tbl.set 0 k l.reg (l.val.setWidth 64)) c.k
    w := due.foldl (fun w l => if l.isVec then Tbl.set 0 w l.reg l.val else w) c.w
    lnPend := c.lnPend.filter (fun l => decide (rc < l.1))
    lncfg := match cfg with | some l => l.2 | none => c.lncfg }

namespace State

/-- SAMPLE completes with its token (R385). -/
def endSamples (s : State) (core : Nat) : State :=
  (s.ctxsOf core).foldl (fun s k => match (s.ctx k).wait with
    | .sample d tok due => if due ≤ s.rcOf (tileOfCore core) then s.completeX k d tok 1 else s
    | _ => s) s

/-- An untimed operation goes on while an elastic crew slacks for an MMAT of its core (R242). -/
def slipOp (stall : Option Nat) (k : Core) : Core :=
  if k.tq.any (fun q => stall == some q.id && (match q.kind with | .mmat _ => true | _ => false)) then
    { k with mrun := k.mrun.map (fun o => if o.start.isNone then { o with slip := o.slip + 1 } else o) }
  else k

/-- What a new rc brings to the tile of a site. -/
def tickTile (s : State) (t rc : Nat) : State :=
  let runs := match (s.tile t).crew with | some c => (s.crew c).live && (s.crew c).st == .running | none => false
  let s := s.modTile t (fun i => { i with
    bankUse := [], capture := i.capture - 1, wd := if runs && i.capture == 0 && !i.halted then i.wd + 1 else i.wd })
  let s := s.landPvr t rc
  (List.range 4).foldl (fun s c => ((s.modCore (coreKey t c) (fun k => slipOp (s.tile t).stall (landShared k rc))).endSamples
    (coreKey t c)).moveSwaps (coreKey t c)) s

end State

/-- SLEEP_DEADLINE: a sleep whose nonzero deadline is reached ends with 0 (R362). -/
def execSleepDeadline (k : Nat) (s : State) : Ans :=
  match (s.ctx k).wait with
  | .sleep d x => if x != 0 && decide (x.toNat ≤ s.vccOf k) && (s.ctx k).used then .next (s.completeX k d 0 2) else .next s
  | _ => .next s

/-- A task ends FAULTED by its crew: the fault is recorded and the crew ends (R344, R349, R352). -/
def State.failCrew (s : State) (crew : Nat) (cause err : BitVec 8) (a : Word) : State :=
  (s.taskFault crew cause err a (coreKey (s.crew crew).t0 0) 0 0).modCrew crew (fun w => { w with st := .ending })

/-- A task ends FAULTED because its crew cannot be restored: cause 0x1A or 0x1D, at the tile that failed (R378, R426, R427,
R429). -/
def State.loseCrew (s : State) (crew : Nat) (cause : BitVec 8) (tile : Nat) : State :=
  (s.taskFault crew cause 0 0 (coreKey tile 0) 0 0).modCrew crew (fun w => { w with st := .ending, lost := true })

/-- VCC_OVERFLOW: the VCC would reach 2^48; the task completes FAULTED with cause timing (R344). -/
def execVccOverflow (crew : Nat) (s : State) : Ans :=
  if (s.crew crew).live && (s.crew crew).st == .running
      && (s.crewTiles crew).any (fun t => decide (2 ^ 48 - 1 ≤ (s.tile t).vcc)) then
    .next (s.failCrew crew cTiming 0 0)
  else .next s

end Sys2Proof.Machine
end

