-- ==== Sys2Proof/Machine/Trust.lean ====
section
/-! DEFINITION. The trust block: SHA-256 and CRC-32, image headers (R453), the five operations (R455), and the measurements that
SPDM reports (R454). -/

namespace Sys2Proof.Machine

/-- The greatest r below 2^bits with r^e at most x. -/
def rootBelow (e x bits : Nat) : Nat :=
  (List.range bits).reverse.foldl (fun r b => if (r + 2 ^ b) ^ e ≤ x then r + 2 ^ b else r) 0

/-- The first 64 primes. -/
def shaPrimes : List Nat := (List.range 312).filter (fun n => 2 ≤ n && (List.range n).all (fun d => d < 2 || n % d != 0))

/-- The first 32 bits of the fraction of the e-th root of a prime. -/
def shaConst (e p : Nat) : BitVec 32 := BitVec.ofNat 32 (rootBelow e (p * 2 ^ (32 * e)) 37)

/-- The round constants of SHA-256, from cube roots. -/
def shaK : List (BitVec 32) := shaPrimes.map (shaConst 3)

/-- The hash that SHA-256 starts with, from square roots. -/
def shaInit : List (BitVec 32) := (shaPrimes.take 8).map (shaConst 2)

/-- The message schedule, newest word first, from the 16 words of a block in that order. -/
def shaSchedule (fuel : Nat) (w : List (BitVec 32)) : List (BitVec 32) :=
  match fuel with
  | 0 => w
  | fuel + 1 =>
    let x := w.getD 14 0
    let y := w.getD 1 0
    let s0 := x.rotateRight 7 ^^^ x.rotateRight 18 ^^^ (x >>> 3)
    let s1 := y.rotateRight 17 ^^^ y.rotateRight 19 ^^^ (y >>> 10)
    shaSchedule fuel ((w.getD 15 0 + s0 + w.getD 6 0 + s1) :: w)

/-- One round on the working variables a-h. -/
def shaRound (v : List (BitVec 32)) (k w : BitVec 32) : List (BitVec 32) :=
  match v with
  | [a, b, c, d, e, f, g, h] =>
    let s1 := e.rotateRight 6 ^^^ e.rotateRight 11 ^^^ e.rotateRight 25
    let t1 := h + s1 + ((e &&& f) ^^^ (~~~e &&& g)) + k + w
    let s0 := a.rotateRight 2 ^^^ a.rotateRight 13 ^^^ a.rotateRight 22
    [t1 + s0 + ((a &&& b) ^^^ (a &&& c) ^^^ (b &&& c)), a, b, c, d + t1, e, f, g]
  | v => v

/-- One block of 64 bytes. -/
def shaBlock (h : List (BitVec 32)) (block : List Byte) : List (BitVec 32) :=
  let w := (List.range 16).map (fun i => block.getD (4 * i) 0 ++ block.getD (4 * i + 1) 0 ++ block.getD (4 * i + 2) 0
    ++ block.getD (4 * i + 3) 0)
  let ws := (shaSchedule 48 w.reverse).reverse
  List.zipWith (· + ·) h ((shaK.zip ws).foldl (fun v x => shaRound v x.1 x.2) h)

/-- SHA-256 (R453). -/
def sha256 (m : List Byte) : BitVec 256 :=
  let pad := (119 - m.length % 64) % 64
  let bits := (leBytes 8 (8 * m.length)).reverse
  let bs := m ++ 0x80 :: (List.range pad).map (fun _ => 0) ++ bits
  let h := (List.range (bs.length / 64)).foldl (fun h i => shaBlock h (slice bs (64 * i) 64)) shaInit
  h.foldl (fun (acc : BitVec 256) w => (acc <<< 32) ||| w.setWidth 256) 0

/-- CRC-32 of IEEE 802.3: reflected, all ones before, inverted after (R455). -/
def crc32 (m : List Byte) : BitVec 32 :=
  ~~~(m.foldl (fun (c : BitVec 32) b => (List.range 8).foldl (fun c _ =>
    if c.getLsbD 0 then (c >>> 1) ^^^ 0xEDB88320 else c >>> 1) (c ^^^ b.setWidth 32)) 0xFFFFFFFF)

/-- A big-endian number of bytes. -/
def beNat (bs : List Byte) : Nat := bs.foldl (fun n b => n * 256 + b.toNat) 0

/-- The bytes of a hash. -/
def hashBytes (h : BitVec 256) : List Byte := (leBytes 32 h.toNat).reverse

/-- Results of TBST.RES (R455). -/
def tbMagic : BitVec 8 := 1
def tbSignature : BitVec 8 := 2
def tbRevoked : BitVec 8 := 3
def tbSvn : BitVec 8 := 4
def tbRange : BitVec 8 := 5
def tbState : BitVec 8 := 6

namespace State

/-- A physical range that R87 allows. -/
def rangeOk (s : State) (pa n : Nat) : Bool :=
  n == 0 && s.paOk pa || s.paOk pa && s.paOk (pa + n - 1) && paUnit pa == paUnit (pa + n - 1)

/-- The checks of VERIFY on an image's header alone: 0, or the code of the first that fails (R455). -/
def headCode (s : State) (h : List Byte) : BitVec 8 :=
  let key := leNat (slice h 8 1)
  if leNat (slice h 0 4) ≠ 0x4E495051 then tbMagic
  else if 4 ≤ key || !Config.keyHashOk key (Config.fusedKeyHash key) then tbSignature
  else if s.sys.trust.revoked.getLsbD key then tbRevoked
  else 0

/-- Its checks of the body, the signature and the SVN, in that order (R453, R455). -/
def bodyCode (s : State) (h body : List Byte) : BitVec 8 :=
  if hashBytes (sha256 body) ≠ slice h 24 32 then tbSignature
  else if !Config.signatureOk (leNat (slice h 8 1)) (sha256 (slice h 0 64)) (BitVec.ofNat 512 (beNat (slice h 64 64))) then tbSignature
  else if BitVec.ofNat 16 (leNat (slice h 6 2)) < s.sys.trust.floor then tbSvn
  else 0

/-- VERIFY (R455): the image at a PA, or the code of the first check that fails. -/
def verifyImage (s : State) (pa : Nat) : Except (BitVec 8) Slot :=
  let h := s.readPa pa 128
  let len := leNat (slice h 16 8)
  let body := s.readPa (pa + 128) len
  if !s.rangeOk pa 128 then .error tbRange
  else if s.headCode h ≠ 0 then .error (s.headCode h)
  else if !s.rangeOk (pa + 128) len then .error tbRange
  else if s.bodyCode h body ≠ 0 then .error (s.bodyCode h body)
  else .ok { version := BitVec.ofNat 16 (leNat (slice h 4 2)), svn := BitVec.ofNat 16 (leNat (slice h 6 2)), header := h, body,
             bodyHash := sha256 body }

/-- ROM's check of the image that a slot holds, by the same tests (R451, R453). -/
def slotOk (s : State) (x : Slot) : Bool := s.headCode x.header == 0 && s.bodyCode x.header x.body == 0

/-- The image in a slot of the trust block. -/
def slotImage (s : State) (i : BitVec 1) : Slot := if i = 0 then s.sys.trust.slotA else s.sys.trust.slotB

/-- The slot that ROM starts: the active one, or the other where only that verifies (R451). -/
def startSlot (s : State) : BitVec 1 :=
  let i := s.sys.act
  if !s.slotOk (s.slotImage i) && s.slotOk (s.slotImage (~~~i)) then ~~~i else i

/-- Whether the new image accepts the handover structure at QBOOT.HPA: its magic, layout, length and CRC match (R458). -/
def handoverOk (s : State) : Bool :=
  let pa := (s.sys.qboot.extractLsb' 6 42).toNat * 64
  let h := s.readPa pa 64
  let n := s.sys.stlen.toNat
  s.rangeOk pa 64 && leNat (slice h 0 4) == 0x51484F56 && leNat (slice h 4 2) == 3 && leNat (slice h 8 8) == n
    && s.rangeOk (pa + 64) n && leNat (slice h 16 4) == (crc32 (s.readPa (pa + 64) n)).toNat

def setSlot (s : State) (i : BitVec 1) (x : Slot) : State :=
  let t := s.sys.trust
  { s with sys := { s.sys with trust := if i = 0 then { t with slotA := x } else { t with slotB := x } } }

def modTrust (s : State) (f : Trust → Trust) : State := { s with sys := { s.sys with trust := f s.sys.trust } }

/-- A write of TBCMD: GO begins an operation of R455 with the arguments as they stand; ignored while one runs. -/
def trustStart (s : State) (v : Word) : State :=
  if s.sys.trust.busy then s
  else
    let op : BitVec 8 := v.extractLsb' 0 8
    let s : State := { s with sys := { s.sys with tbcmd := v &&& 0x80000000000000FF } }
    if v.getLsbD 63 && decide (1 ≤ op.toNat) && decide (op.toNat ≤ 5) then
      s.modTrust (fun t => { t with op := some (op, s.sys.tbarg0, s.sys.tbarg1), out := none, busy := true })
    else s

/-- The arguments of an operation that has begun. -/
def trustArgs (s : State) (n : BitVec 8) : Option (Word × Word) :=
  match s.sys.trust.op with
  | some (op, a, b) => if op = n then some (a, b) else none
  | none => none

/-- An operation has its outcome, which TBST reports when it ends. -/
def trustOut (s : State) (res : BitVec 8) (val : BitVec 32) : State :=
  s.modTrust (fun t => { t with op := none, out := some (res, val) })

/-- What the measurement of an image covers: header and body hash (R454). -/
def slotBytes (x : Slot) : List Byte := x.header ++ hashBytes x.bodyHash

end State

end Sys2Proof.Machine
end

