-- ==== Sys2Proof/Machine/HostOps.lean ====
section
/-! DEFINITION. What the host functions do to the device: errors (R442, R444), launches and publishes behind the posted writes
of a function (R443-R445), and the device reset (R439, R446). -/

namespace Sys2Proof.Machine

/-- The core that hands on the accesses of the host: control site 1 of the anchor field (R450). -/
def hostCore : Nat := coreKey (0xC000 + anchorField * 4 + 1) 0

namespace State

def modHost (s : State) (fn : Nat) (f : HostFn → HostFn) : State := s.setHost fn (f (s.host fn))

/-- PCTX of a function (R442). -/
def pctx (s : State) (fn : Nat) : Nat := ((s.host fn).hfn.extractLsb' 0 4).toNat

/-- A failed access is recorded while HERR.V is 0 (R442, R444). -/
def hostErr (s : State) (fn : Nat) (err : BitVec 8) (off : Nat) : State :=
  s.modHost fn (fun h => if h.herr.getLsbD 63 then h else { h with herr := 1#1 ++ 0#23 ++ err ++ BitVec.ofNat 32 off })

/-- A host write that waits at a home, or was one: its function. -/
def hostOf (r : FarReq) : Option Nat := if 16 ≤ r.from_ then some (r.from_ - 16) else none

/-- A posted write of a function waits at a home for a free copy (R100, R445). -/
def hostWaits (s : State) (fn : Nat) : Bool := s.homes.any (fun h => h.2.waiting.any (fun w => hostOf w.1 == some fn))

/-- Bytes of far memory as the host reads them: current copies of buffers, without parking (R443, R444). -/
def hostRead (s : State) (fn : Nat) (a : Word) (n : Nat) : Except (BitVec 8) (List Byte) × State :=
  s.readLines anchorField (s.pctx fn) none (linePieces a n)

/-- HLRES once an HLAUNCH has finished; of a launch begun before a reset of the function the result is discarded (R442, R446). -/
def hostResult (s : State) (fn : Nat) (stat err : BitVec 8) (task : BitVec 32) : State :=
  s.modHost fn (fun h =>
    if h.discard then { h with busy := false, discard := false }
    else { h with busy := false, seq := h.seq + 1, stat, err, task })

/-- One LAUNCH.nb on behalf of the host (R443, R457). -/
def hostLaunch (s : State) (fn : Nat) : State :=
  let part := s.pctx fn
  if s.sys.stage.toNat < 2 then s.hostResult fn 2 0 0
  else if s.quiesced then s.hostResult fn 3 0 0
  else match s.hostRead fn (s.host fn).hlaunch 256 with
    | (.error e, s) => s.hostResult fn 4 e 0
    | (.ok bs, s) =>
      let b := blockOf bs
      if !blockPlaced b then s.hostResult fn 5 0 0
      else if s.queueFull part then s.hostResult fn 1 0 0
      else
        let (t, s) := s.post part b
        s.hostResult fn 0 0 t

/-- One publish of the host, as PUBL does it on a range of space 2: its error code, or `none` while a write waits at one of its homes (R142,
R442, R444). -/
def hostPublish (s : State) (fn : Nat) (a len : Word) : Option (BitVec 8 × State) :=
  let part := s.pctx fn
  if len != 0 && spaceOf a != 2 then some (eRange, s)
  else match s.publLeaves (len.toNat / 2 ^ 16 + 2) anchorField part a len.toNat with
    | (.error (e, _), s) => some (e, s)
    | (.ok ls, s) =>
      let ts := publTargets ls
      if ts.any (fun x => (s.home x.1).waiting.any (fun w => w.1.part == part && (w.2.1 - 1) / 2 ^ 16 == x.2.2.1)) then none
      else some (ts.foldl (fun (r : BitVec 8 × State) x =>
        let code := (r.2.bufMap x.1 part x.2.2.1).admits x.2.2.2
        if code = 0 then (r.1, r.2.publishAt x.1 part x.2.2.1) else (if r.1 = 0 then code else r.1, r.2)) (0, s))

/-- The publishes of a function that can take effect; they are held while the device is quiesced (R445, R457). -/
def hostPublishes (s : State) (fuel fn : Nat) : State :=
  match fuel, (s.host fn).pubq with
  | fuel + 1, (a, len) :: rest =>
    if s.quiesced then s
    else match s.hostPublish fn a len with
      | none => s
      | some (err, s) =>
        (s.modHost fn (fun h => { h with
          pubq := rest, hpubs := 0#24 ++ err ++ 0#31 ++ BitVec.ofBool (!rest.isEmpty) })).hostPublishes fuel fn
  | _, _ => s

/-- A function goes on: behind its posted writes its publishes and its launch take effect (R445). -/
def hostSettle (s : State) (fn : Nat) : State :=
  if s.hostWaits fn then s
  else
    let s := s.hostPublishes (s.host fn).pubq.length fn
    if (s.host fn).busy then s.hostLaunch fn else s

/-- A waiting host write has landed or failed at its home. -/
def hostWritten (s : State) (fn : Nat) (r : FarReq) (err : BitVec 8) : State :=
  (if err = 0 then s else s.hostErr fn err (r.va.toNat % 2 ^ 30)).hostSettle fn

/-- Only the classes, test results and holes of sites outlast a reset (log entry 3). -/
def keptSite (t : Site) : Site :=
  { cls := t.cls, hole := t.hole, unusable := t.unusable, svtest := t.svtest, grade := t.grade }

/-- THE DEVICE RESETS (R30, R109, R439, R446, R466): everything is as `State.reset` has it, the incarnation is one higher, and what
lies in the trust block, in memory, in the black boxes and in the grades of sites stays; RTIME counts on where the power does. -/
def resetDevice (s : State) (powerOn : Bool) : State :=
  { State.reset with
    sched := s.sched
    free := s.free
    nextId := s.nextId
    mem := s.mem
    sites := s.sites.filterMap (fun e => if keptSite e.2 = {} then none else some (e.1, keptSite e.2))
    fields := s.fields.filterMap (fun e =>
      let f : Fld := { box := e.2.box, boxn := e.2.boxn }
      if f = {} then none else some (e.1, f))
    hbm := s.hbm
    deep := s.deep
    sys := { State.reset.sys with
      inc := s.sys.inc + 1, act := s.sys.act, rtime := if powerOn then 0 else s.sys.rtime
      trust := { s.sys.trust with pending := none, op := none, out := none, busy := false, res := 0, val := 0 } } }

end State

end Sys2Proof.Machine
end

