-- ==== Sys2Proof/Machine/EvFar.lean ====
section
/-! DEFINITION. Events of far memory: instruction lines (R317), translation, walks and parking (R89-R97, R402), the homes
(R98-R107), replies (R95, R97, R105) and media errors (R106). -/

namespace Sys2Proof.Machine

/-- Bytes a request touches. -/
def reqLen (k : FarKind) : Nat :=
  match k with
  | .read n .. => n
  | .fetch => 64
  | .write data _ => data.length
  | .publ _ => 1
  | .amo _ ty .. => (natTy ty).bits / 8
  | .knot .. | .record _ => 32

def reqAcc (k : FarKind) : Acc :=
  match k with
  | .read .. => .read
  | .fetch => .fetch
  | .write .. => .write
  | .publ _ => .publ
  | .amo .. | .knot .. | .record _ => .atomic

namespace State

/-- The issuing context, if it is still the one that issued. -/
def reqCtx (s : State) (r : FarReq) : Bool := (s.ctx r.ctx).used && (s.ctx r.ctx).uid == r.uid

/-- An error of a RED, or of a knot update that nobody waits for: into the task's record, or for a context of no crew at
its next turn or into its core's counter (R97). -/
def looseError (s : State) (r : FarReq) (err : BitVec 8) : State :=
  match r.crew with
  | some w => s.taskFault w (farCause err) err r.va r.core r.from_ r.unit
  | none => if s.reqCtx r then s.pendFault r.ctx (farCause err) r.va false else s.countCore r.core 48 1

/-- The data of a reply that enters the crew from outside: logged, or in a replay taken from the log (R105, R110, R421). -/
def loggedData (s : State) (r : FarReq) (data : List Byte) (logged : Bool) : List Byte × State :=
  match r.crew with
  | none => (data, s)
  | some w =>
    let t := tileOfCore r.core
    if !logged then (data, s)
    else if s.replaying t then
      let mine (e : LogEv) : Bool := match e with | .farReply c va _ => c == r.core && va == r.va | _ => false
      match (s.crew w).redo.findSome? (fun x => match x.ev with
        | .farReply c va d => if c == r.core && va == r.va then some d else none
        | _ => none) with
      | some d => (d, s.dropRedo w mine)
      | none => (data, s)
    else (data, s.logEv t (.farReply r.core r.va data) data.length)

/-- A far request is answered at its core (R95-R97). -/
def farDone (s : State) (r : FarReq) (err : BitVec 8) (data : List Byte) (logged : Bool) : State :=
  let s := match r.outId with
    | some id => s.ackOut r.core id
    | none => s
  let (data, s) := if err = 0 then s.loggedData r data logged else (data, s)
  match r.kind with
  | .read _ buf off => match s.reqRun r with
    | none => s
    | some q =>
      if err != 0 then s.failRun r.core q.cmd.id err r.va
      else s.modRun r.core q.cmd.id (fun q => { q with bufs := q.bufs.map (fun b =>
        if b.id == buf then { b with data := b.data.mapIdx (fun i x =>
          if off ≤ i ∧ i < off + data.length then some (data.getD (i - off) 0) else x) } else b) })
  | .write _ id => match s.reqRun r with
    | none => s
    | some q =>
      let n := ((q.acks.find? (fun a => a.1 == r.id)).map Prod.snd).getD 0
      let s := s.modRun r.core id (fun q => { q with acks := q.acks.filter (fun a => a.1 != r.id) })
      if err != 0 then s.failRun r.core id err r.va else s.delivered r.core id n
  | .publ id => match s.reqRun r with
    | none => s
    | some _ =>
      let s := s.modRun r.core id (fun q => { q with acks := q.acks.filter (fun a => a.1 != r.id) })
      if err != 0 then s.failRun r.core id err r.va else s
  | .fetch => s
  | .amo _ _ _ _ true _ => if err != 0 then s.looseError r err else s
  | .amo _ _ _ _ false _ =>
    if !s.reqCtx r || (s.ctx r.ctx).asked != some .amo then s
    else if err != 0 then
      s.failWait r.ctx (farCause err) r.va
    else s.modCtx r.ctx (fun c => { c.answer (vecOfBytes data) with wait := .none })
  | .record crew => if err != 0 then s.modCrew crew (fun w => { w with denied := true }) else s
  | .knot op _ =>
    if !asksKnot op then (if err != 0 then s.looseError r err else s)
    else if !s.reqCtx r || (s.ctx r.ctx).asked.isNone then s
    else if err != 0 then s.knotFault r.ctx (farCause err) r.va
    else s.knotAnswer r.ctx (leNat data)

/-- A reply leaves for the issuing core. -/
def farAnswer (s : State) (site : Nat) (r : FarReq) (err : BitVec 8) (data : List Byte) (logged : Bool) : State :=
  let t := tileOfCore r.core
  s.sendTo ((s.tileAt site).getD t) (s.siteOf t) 1 r.ctx 0 (.reply r err data logged)

/-- A request that meets an error on translation: parked on NOT_PRESENT, else answered with it (R96, R97). -/
def transError (s : State) (field : Nat) (r : FarReq) (err : BitVec 8) : State :=
  if err == eNotPresent then match s.parkReq field r with
    | .ok s => s
    | .error e => s.farAnswer (gwSite field) r e [] false
  else s.farAnswer (gwSite field) r err [] false

/-- The sequence number of a request at its home; one that has a number keeps it. -/
def withSeqNum (k : FarKind) (n : BitVec 32) : FarKind :=
  match k with
  | .amo op ty b cmp red none => .amo op ty b cmp red (some n)
  | .knot op none => .knot op (some n)
  | k => k

/-- A numbered request has its number. -/
def hasNum (k : FarKind) : Bool :=
  match k with
  | .amo _ _ _ _ _ q | .knot _ q => q.isSome
  | _ => true

/-- The numbers that operations of a core which had parked drew after later ones, by the crew log that a replay follows (R105; log entry
90). -/
def drawnLate (s : State) (core key : Nat) (crew : Option Nat) : List (Nat × BitVec 32) :=
  match crew with
  | none => []
  | some w => (s.crew w).redo.filterMap (fun x => match x.ev with
    | .farSeq c ord k q => if c == core && k == key then some (ord, q) else none
    | _ => none)

/-- A request draws the next number of its core for a home, or in a replay the one it drew before; that of one that has parked is logged
(R105; log entry 90). -/
def drawSeq (s : State) (r : FarReq) (key : Nat) : FarReq × State :=
  if hasNum r.kind then (r, s)
  else
    let kept := s.drawnLate r.core key r.crew
    match kept.find? (fun e => e.1 == r.ord) with
    | some (_, q) => ({ r with kind := withSeqNum r.kind q }, s)
    | none =>
      let next (n : BitVec 32) : BitVec 32 :=
        (((List.range (kept.length + 1)).map (fun i => n + BitVec.ofNat 32 i)).find? (fun q => kept.all (fun e => e.2 != q))).getD n
      let q := next (Tbl.get 0 (s.core r.core).fseq key)
      let s := s.modCore r.core (fun c => { c with fseq := Tbl.set 0 c.fseq key (next (q + 1)) })
      ({ r with kind := withSeqNum r.kind q },
        if r.late && r.crew.isSome then s.logEv (tileOfCore r.core) (.farSeq r.core r.ord key q) 16 else s)

/-- A translated request leaves for its home (R88, R98, R105); `none` while 32 operations to that home are outstanding. -/
def forward (s : State) (field : Nat) (r : FarReq) (l : Leaf) (va : Nat) : Option State :=
  let off := va - l.va
  let pa := l.addr + off
  let h := leafHome l off
  let place := if l.buffer then (1 + l.addr / 2 ^ 24 * 2 ^ 16 + l.addr / 256 % 2 ^ 16, off) else (0, pa)
  if !l.buffer && !(s.leafOk pa && s.leafOk (pa + reqLen r.kind - 1)) then some (s.transError field r ePa)
  else match r.kind with
  | .publ _ => some (s.farAnswer (gwSite field) r 0 [] false)
  | .fetch => some s
  | _ =>
    if isSeq r.kind && 32 ≤ s.seqOut r.core h then none
    else
      let (r, s) := s.drawSeq { r with home := some h } h
      some ((s.sendTo (tileOfCore r.core) (gwSite (fieldOfHome h)) 0 r.ctx (streamOf 6 r.core) (.home r place.1 place.2 h)).movePkt
        s.nextId (gwSite field))

/-- A translated request for a peer leaves for the corner field whose port leads there by its home (R27, R105, R449); an offset past a stack
is PA_INVALID (R87). -/
def forwardPeer (s : State) (field : Nat) (r : FarReq) (l : Leaf) (wafer va : Nat) : Option State :=
  let h := leafHome l (va - l.va)
  let key := homeKey (some wafer) h
  if !l.buffer && decide (2 ^ 36 ≤ (l.addr + (va - l.va)) % 2 ^ 40) then some (s.transError field r ePa)
  else if isSeq r.kind && 32 ≤ s.seqOut r.core key then none
  else match r.kind, s.peerPort wafer h with
  | .publ _, _ => some (s.farAnswer (gwSite field) r 0 [] false)
  | _, none => some (s.farAnswer (gwSite field) r ePeerLost [] false)
  | _, some q =>
    let (r, s) := s.drawSeq { r with home := some h, port := some q } key
    some ((s.sendTo (tileOfCore r.core) (portSite q) 0 r.ctx (streamOf 6 r.core) (.far r)).movePkt s.nextId (gwSite field))

/-- A request for another wafer is translated through the context's remote root (R108); `none` while it may not leave yet. -/
def toPeer (s : State) (field : Nat) (r : FarReq) : Option State :=
  let va := r.va.toNat % 2 ^ 52
  match s.translatePeer field r.part (waferOf r.va) va (reqAcc r.kind) with
  | (.error e, s) => some (s.transError field r e)
  | (.ok l, s) => s.forwardPeer field r l (waferOf r.va) va

/-- A translated request at the port it leaves by: outstanding at the peer, or lost while the link is down (R95, R110). -/
def leavePort (s : State) (q : Nat) (r : FarReq) : State :=
  if s.portUp q then { s.crossPort q with peers := s.peers ++ [(waferOf r.va, r)] } else s.farAnswer (portSite q) r ePeerLost [] false

/-- A request whose leaf is not at hand begins a walk (R89, R90). -/
def beginWalk (s : State) (field : Nat) (r : FarReq) (va : Nat) : State :=
  match s.walkRoot field r.part va with
  | .error e => s.transError field r e
  | .ok pa => s.setGw field (let g := s.gw field; { g with walks := g.walks ++ [⟨r, 1, pa⟩] })

/-- The far address of a request as the table translates it. -/
def reqVa (s : State) (r : FarReq) : Except (BitVec 8) (Option Nat) := s.farVa r.va r.slot (reqLen r.kind)

/-- Whether a request goes to a version slot (R375). -/
def isWeight (r : FarReq) : Bool := spaceOf r.va == 3

end State

/-- FAR_REQUEST_TRANSLATE: a request at its gateway: from the cache to its home, into a walk, toward a peer, or refused; one for a peer at its
port (R86, R93, R108, R449). -/
def execFarRequestTranslate (n : Nat) (s : State) : Ans :=
  match s.arrived n (fun b => match b with | .far _ => true | _ => false) with
  | none => .next s
  | some (p, s1) => match p.body with
    | .far r =>
      let field := fieldOf p.dst
      if r.port.isSome then .next (s1.leavePort (r.port.getD 0) r)
      else if (s1.gw field).walks.any (fun w => w.req.core == r.core) then .next s
      else match s1.reqVa r with
        | .error e => .next (s1.transError field r e)
        | .ok none => match s1.toPeer field r with
          | some s2 => .next s2
          | none => .next s
        | .ok (some va) =>
          match s1.cachedLeaf field r.part va with
          | some l =>
            if l.permits (reqAcc r.kind) (State.isWeight r) = 0 then
              match (s1.installLeaf field l).forward field r l va with
              | some s2 => .next s2
              | none => .next s
            else .next (s1.beginWalk field r va)
          | none => .next (s1.beginWalk field r va)
    | _ => .next s

/-- PAGE_WALK_COMPLETE: the entry that walk i of a gateway reads: the next level, a leaf for the cache and the home, or an
error; NOT_PRESENT parks the request (R90, R91, R93, R96). -/
def execPageWalkComplete (field i : Nat) (s : State) : Ans :=
  let g := s.gw field
  match g.walks[i]? with
  | none => .next s
  | some w =>
    let ended : State := s.setGw field { g with walks := g.walks.eraseIdx i }
    match s.reqVa w.req with
    | .ok (some va) =>
      if !s.paOk w.pa then .next (ended.transError field w.req ePa)
      else match pteOut w.req.part w.level va (s.readPte w.pa) with
        | .err e => .next (ended.transError field w.req e)
        | .table t =>
          let w' : Walk := { w with level := w.level + 1, pa := t + 8 * levelIndex (w.level + 1) va }
          .next (s.setGw field { g with walks := g.walks.set i w' })
        | .leaf l =>
          let code := l.permits (reqAcc w.req.kind) (State.isWeight w.req)
          if code != 0 then .next ((ended.installLeaf field l).transError field w.req code)
          else match (ended.installLeaf field l).forward field w.req l va with
            | some s2 => .next s2
            | none => .next s
    | _ => .next ended

namespace State

/-- Whether any request of a barrier's commands is parked (R127). -/
def barParked (s : State) (b : Loc) : Bool :=
  s.gws.any (fun g => g.2.park.any (fun e => e.2.bar == some b))

/-- PRK is cleared when no request of the barrier's commands is parked (R127). -/
def unparkBar (s : State) (bar : Bar) : State :=
  match bar with
  | some b => if s.barParked b then s else s.setPrk bar false
  | none => s

/-- The steward's answer to park queue entry e (R96): fail it with DENIED, or walk again. -/
def parkAct (s : State) (field : Nat) (v : Word) : State :=
  let g := s.gw field
  let keep : State := s.setGw field { g with parkact := v &&& 0x40000000000000FF }
  if !v.getLsbD 63 then keep
  else match Tbl.find g.park (v.extractLsb' 0 8).toNat with
    | none => keep
    | some r =>
      let e := (v.extractLsb' 0 8).toNat
      let g := keep.gw field
      let s1 := keep.setGw field { g with park := Tbl.del g.park e, posted := g.posted.filter (· != e) }
      let s2 := if v.getLsbD 62 then
          (match r.kind with
            | .fetch => match s1.reqCtx r, (s1.ctx r.ctx).wait with
              | true, .fetch a => (s1.failWait r.ctx cCopy a).modCtx r.ctx (fun c => { c with parked := false })
              | _, _ => s1
            | .record _ => s1.farDone r eDenied [] false
            | _ => s1.farAnswer (gwSite field) r eDenied [] false)
        else if (match r.kind with | .record _ => true | _ => false) then s1
        else match s1.reqVa r with
          | .ok (some va) => s1.beginWalk field r va
          | .ok none => (s1.toPeer field r).getD (s1.sendTo (tileOfCore r.core) (gwSite field) 0 r.ctx (streamOf 4 r.core) (.far r))
          | .error e => s1.transError field r e
      s2.unparkBar r.bar

/-- The leaves that an invalidation names: those of the context that overlap the range, or all of them (R94). -/
def gwHit (v : Word) (l : Leaf) : Bool :=
  let lo := (v.extractLsb' 16 36).toNat * 2 ^ 16
  let hi := lo + ((v.extractLsb' 0 16).toNat + 1) * 2 ^ 16
  l.ctx == (v.extractLsb' 56 4).toNat && (v.getLsbD 62 || decide (l.va < hi) && decide (lo < l.va + l.size))

/-- GWINV: they leave the cache (R94). -/
def gwInv (s : State) (field : Nat) (v : Word) : State :=
  let g := s.gw field
  let keep : Word := 0xCF0FFFFFFFFFFFFF
  s.setGw field { g with gwinv := v &&& keep, leaves := if v.getLsbD 63 then g.leaves.filter (fun l => !gwHit v l) else g.leaves }

/-- The requests of a context that a gateway has translated and that have not reached their homes (R94). -/
def inFlightOf (s : State) (field part : Nat) : Bool :=
  s.net.any (fun p => match p.body with
    | .home r _ _ _ => r.part == part && s.gwOf (tileOfCore r.core) == field && p.pos != p.dst
    | .far r => r.port.isSome && r.part == part && s.gwOf (tileOfCore r.core) == field && p.pos != p.dst
    | _ => false) || (s.gw field).walks.any (fun w => w.req.part == part)

end State

/-- PARKACT: the steward writes the register of a gateway (R96). -/
def execParkact (field : Nat) (v : Word) (s : State) : Ans := .next (s.parkAct field v)

namespace State

/-- The cause that a context is parked for has cleared (R402). -/
def parkingOver (s : State) (k : Nat) : Bool :=
  let c := s.ctx k
  let mine := s.gws.any (fun g => g.2.park.any (fun e => e.2.ctx == k && e.2.uid == c.uid && awaited e.2.kind))
  match c.wait with
  | .parkedBarw b => !(s.barrier b).prk
  | .parkedAmo => !mine
  | .fetch _ => c.parked && !mine
  | _ => false

/-- A context parks no longer: it waits again with age 0 (R402). -/
def unpark (s : State) (k : Nat) : State := s.modCtx k (fun c => { c with wait := .none, parked := false, since := s.vccOf k })

end State

/-- PARKING_END: a parked context whose cause has cleared is waiting again with age 0 (R402); a replay ends it at the logged vc. -/
def execParkingEnd (k : Nat) (s : State) : Ans :=
  if !(s.ctx k).used || !s.parkingOver k || s.wakeAhead k then .next s
  else .next ((s.unpark k).logWake k (BitVec.ofNat 6 (s.ctx k).wait.code))

/-- GWINV: the steward starts an invalidation (R94). -/
def execGwinv (field : Nat) (v : Word) (s : State) : Ans := .next (s.gwInv field v)

/-- GWINV_DONE: GO clears once every request translated through the leaves has reached its home; a leaf that a walk already under way has
brought in since leaves the cache too (R94). -/
def execGwinvDone (field : Nat) (s : State) : Ans :=
  let g := s.gw field
  if g.gwinv.getLsbD 63 && !s.inFlightOf field (g.gwinv.extractLsb' 56 4).toNat then
    .next (s.setGw field { g with gwinv := g.gwinv &&& 0x7FFFFFFFFFFFFFFF, leaves := g.leaves.filter (fun l => !State.gwHit g.gwinv l) })
  else .next s

/-- A line enters the instruction cache of 1,024 lines; which line a full cache drops the spec does not say (R35, log entry 6). -/
def State.fillLine (s : State) (core line : Nat) (l : FLine) : State :=
  let ic := (s.core core).ic
  if (Tbl.find ic line).isSome || decide (ic.length < 1024) then s.modCore core (fun c => { c with ic := Tbl.put c.ic line l })
  else
    let out := ((ic[(Config.icVictim s.free).val]?).map Prod.fst).getD 0
    { s with free := s.free + 1 }.modCore core (fun c => { c with ic := Tbl.put (Tbl.del c.ic out) line l })

/-- LINE_FETCH: the line that a thread of the core waits for arrives; NOT_PRESENT parks the thread, another error is raised
at its next turn with the address the group asked for (R35, R36, R317, R319). -/
def execLineFetch (core : Nat) (a : Word) (s : State) : Ans :=
  let a := lineOf a
  let wants (s : State) (k : Nat) : Option Word := match (s.ctx k).wait with
    | .fetch x => if lineOf x == a then some x else none
    | _ => none
  let waits (k : Nat) : Bool := (wants s k).isSome && !(s.ctx k).parked
  match (s.ctxsOf core).find? waits with
  | none => .next s
  | some k =>
    let t := tileOfCore core
    match s.readFar (s.gwOf t) (s.partOf k) (s.ctx k).crew a 64 .fetch with
    | (.ok bs, s) =>
      let s := s.fillLine core (a.toNat / 64) (BitVec.ofNat 512 (leNat bs))
      .next ((s.ctxsOf core).foldl (fun s k =>
        if (wants s k).isSome then
          s.modCtx k (fun c => { c with wait := .none, parked := false, got := a.toNat / 64 :: c.got }) else s) s)
    | (.error e, s) =>
      let r : FarReq := { id := s.nextId, ctx := k, core, crew := (s.ctx k).crew, part := s.partOf k, va := a, kind := .fetch,
                          uid := (s.ctx k).uid }
      let fail : State := s.failWait k cCopy ((wants s k).getD a)
      if e == eNotPresent then match ({ s with nextId := s.nextId + 1 } : State).parkReq (s.gwOf t) r with
        | .ok s => .next s
        | .error _ => .next fail
      else .next fail

namespace State

/-- A home's answer to the core. -/
def homeAnswer (s : State) (p : Pkt) (r : FarReq) (err : BitVec 8) (data : List Byte) (logged : Bool) : State :=
  s.farAnswer p.dst r err data logged

/-- Writing through a buffer map entry: `none` while no copy is free, or the copy's channel pauses (R99, R100, R461). -/
def bufWrite (s : State) (h : Nat) (r : FarReq) (leaf off : Nat) (data : List Byte) : Option (BitVec 8 × State) :=
  let entry := (leaf - 1) / 2 ^ 16
  let page := (leaf - 1) % 2 ^ 16
  let s := s.touchBuf h r.part entry
  let b := s.bufMap h r.part entry
  if b.admits page != 0 then some (b.admits page, s)
  else
    let at_ (c : Nat) : Nat := b.cpa.getD c 0 + page * b.pageSize + off
    let put (s : State) (c : Nat) : Option (BitVec 8 × State) :=
      let pa := at_ c
      if !(s.leafOk pa && s.leafOk (pa + data.length - 1)) then some (ePa, s)
      else if s.chanHeld pa then none
      else some (0, (s.writePa pa data).heat h pa data.length (s.gwOf (tileOfCore r.core)))
    if b.sopen then put s b.shd
    else match b.freeCopy with
      | none => none
      | some c => put (s.openShadow h r.part entry b c) c

/-- The waiting writes of a home to one entry. -/
def waitsFor (s : State) (h : Nat) (part leaf : Nat) : Bool :=
  (s.home h).waiting.any (fun w => w.1.part == part && (w.2.1 - 1) / 2 ^ 16 == (leaf - 1) / 2 ^ 16)

/-- A write that finds no free copy waits; a timed command's wait slacks its tile or is its timing fault (R100, R342). -/
def holdWrite (s : State) (h : Nat) (r : FarReq) (leaf off : Nat) : State :=
  let wait : State := s.setHome h (let m := s.home h; { m with waiting := m.waiting ++ [(r, leaf, off)] })
  match s.reqRun r, r.crew with
  | some q, some w =>
    if q.cmd.start.isNone then wait
    else if (s.crew w).el then wait.modTile (tileOfCore r.core) (fun t => { t with stall := some q.cmd.id })
    else (s.timedFault q.cmd cTiming 0 (State.startAddr q.cmd)).endRun r.core q.cmd.id
  | _, _ => wait

end State

/-- The writes that HOME_WRITE serves. -/
def writeData (k : FarKind) : Option (List Byte) := match k with | .write d _ => some d | _ => none

/-- HOME_WRITE: a far write at its home: into the shadow, which it may open, or into the plain pages of a staging version
(R98-R100, R375). -/
def execHomeWrite (n : Nat) (s : State) : Ans :=
  match s.arrived n (fun b => match b with | .home r .. => (writeData r.kind).isSome | _ => false) with
  | none => .next s
  | some (p, s1) => match p.body with
    | .home r leaf pa h =>
      let data := (writeData r.kind).getD []
      if leaf == 0 && s.chanHeld pa then .next s
      else
      let s := s1
      if leaf = 0 then .next (((s.writePa pa data).heat h pa data.length (s.gwOf (tileOfCore r.core))).homeAnswer p r 0 [] false)
      else if s.waitsFor h r.part leaf then .next (s.holdWrite h r leaf pa)
      else match s.bufWrite h r leaf pa data with
        | some (err, s) => .next (s.homeAnswer p r err [] false)
        | none => .next (s.holdWrite h r leaf pa)
    | _ => .next s

/-- HOME_WRITE_RETRY: a waiting write is applied once a copy is free, first come first; those of one host function keep
their order (R99, R100, R445). -/
def execHomeWriteRetry (h i : Nat) (s : State) : Ans :=
  let ws := (s.home h).waiting
  match ws[i]? with
  | none => .next s
  | some (r, leaf, off) =>
    if (ws.take i).any (fun w => w.1.part == r.part && (w.2.1 - 1) / 2 ^ 16 == (leaf - 1) / 2 ^ 16
        || (State.hostOf r).isSome && State.hostOf w.1 == State.hostOf r) then .next s
    else match s.bufWrite h r leaf off ((writeData r.kind).getD []) with
      | none => .next s
      | some (err, s) =>
        let s := s.setHome h (let m := s.home h; { m with waiting := m.waiting.eraseIdx i })
        let id := match r.kind with | .write _ id => some id | _ => none
        let s := s.modTile (tileOfCore r.core) (fun t => if t.stall == id then { t with stall := none } else t)
        match State.hostOf r with
        | some fn => .next (s.hostWritten fn r err)
        | none => .next (s.farAnswer (gwSite (fieldOfHome h)) r err [] false)

/-- HOME_PUBL: the open shadow becomes current behind the writes that wait (R99). -/
def execHomePubl (n : Nat) (s : State) : Ans :=
  match s.arrived n (fun b => match b with | .home r .. => (match r.kind with | .publ _ => true | _ => false) | _ => false) with
  | none => .next s
  | some (p, s1) => match p.body with
    | .home r leaf _ h =>
      let entry := (leaf - 1) / 2 ^ 16
      let code := (s1.bufMap h r.part entry).admits ((leaf - 1) % 2 ^ 16)
      if s1.waitsFor h r.part leaf then .next s
      else if code != 0 then .next (s1.homeAnswer p r code [] false)
      else .next ((s1.publishAt h r.part entry).homeAnswer p r 0 [] false)
    | _ => .next s

/-- The place of a read at its home, or its error (R98, R101). -/
def State.readAtHome (s : State) (h : Nat) (r : FarReq) (leaf pa n : Nat) : Except (BitVec 8) Nat :=
  if leaf = 0 then .ok pa
  else
    let page := (leaf - 1) % 2 ^ 16
    let b := s.bufMap h r.part ((leaf - 1) / 2 ^ 16)
    if b.admits page != 0 then .error (b.admits page)
    else
      let at_ := b.cpa.getD (b.copyFor (s.adoptedPsn h r.crew)) 0 + page * b.pageSize + pa
      if s.leafOk at_ && s.leafOk (at_ + n - 1) then .ok at_ else .error ePa

/-- HOME_READ: a far read is served from the copy of the reader's adopted PSN, or from a plain page; it waits while its channel
pauses (R101, R107, R461). -/
def execHomeRead (n : Nat) (s : State) : Ans :=
  match s.arrived n (fun b => match b with | .home r .. => (match r.kind with | .read .. => true | _ => false) | _ => false) with
  | none => .next s
  | some (p, s1) => match p.body with
    | .home r leaf pa h =>
      let len := reqLen r.kind
      match s1.readAtHome h r leaf pa len with
      | .error e => .next (s1.homeAnswer p r e [] false)
      | .ok a => if s1.chanHeld a then .next s else
        let s := if leaf = 0 then s1 else s1.touchBuf h r.part ((leaf - 1) / 2 ^ 16)
        .next (((s.heat h a len (s.gwOf (tileOfCore r.core))).countRow h a).homeAnswer p r 0 (s.readPa a len)
          (leaf == 0 && spaceOf r.va != 3))
    | _ => .next s

namespace State

/-- An atomic, a reduction or a knot update at its home: the reply and the state after (R104, R353). -/
def applyAtomic (s : State) (r : FarReq) (pa : Nat) : List Byte × State :=
  match r.kind with
  | .amo op ty b cmp _ _ =>
    let n := reqLen r.kind
    let old := leNat (s.readPa pa n)
    let new := amoNew op ty old (b.toNat % 2 ^ (8 * n)) cmp.toNat
    (leBytes n old, s.writePa pa (leBytes n new))
  | .knot op _ =>
    let o := (Knot.ofBytes (s.readPa pa 32)).apply op
    let s := (s.writePa pa o.cell.bytes).knotEffects r.part (.far r.va) o
    let s := match o.link with
      | some (b, next) => s.linkBlock r.ctx b next
      | none => s
    (leBytes 16 o.answer, s)
  | _ => ([], s)

end State

/-- The sequence number of a request. -/
def seqOf (k : FarKind) : Nat :=
  match k with
  | .amo _ _ _ _ _ q | .knot _ q => (q.getD 0).toNat
  | _ => 0

/-- FAR_ATOMIC_AT_HOME: applied once by its sequence number; a number in the set gets the stored reply, an older one is
dropped (R104, R105). -/
def execFarAtomicAtHome (n : Nat) (s : State) : Ans :=
  match s.arrived n (fun b => match b with | .home r .. => isSeq r.kind | _ => false) with
  | none => .next s
  | some (p, s1) => match p.body with
    | .home r _ pa h =>
      if s.chanHeld pa then .next s
      else
      let s := s1
      let seen := Tbl.get [] (s.home h).seen r.core
      let q := seqOf r.kind
      let len := if (match r.kind with | .knot .. => true | _ => false) then 16 else reqLen r.kind
      match seen.find? (fun e => e.1 == q) with
      | some e => .next (s.homeAnswer p r 0 (leBytes len e.2) true)
      | none =>
        if 64 ≤ seen.length && seen.all (fun e => seqBefore (BitVec.ofNat 32 q) (BitVec.ofNat 32 e.1)) then .next s
        else
          let (data, s) := s.applyAtomic r pa
          let s := (s.heat h pa (reqLen r.kind) (s.gwOf (tileOfCore r.core))).countRow h pa
          let m := s.home h
          let kept := if seen.length < 64 then seen else seen.drop 1
          .next ((s.setHome h { m with seen := Tbl.put m.seen r.core (kept ++ [(q, leNat data)]) }).homeAnswer p r 0 data true)
    | _ => .next s

/-- FAR_REPLY_ARRIVAL: an answer reaches the issuing core (R95, R97, R105); behind the packets, that of a peer for an
outstanding request reaches its port, with a code of those that a home gives and bytes that the spec does not state (R108, log entry 6). -/
def execFarReplyArrival (n : Nat) (s0 : State) : Ans :=
  let s := s0
  if s.net.length ≤ n then
    match s.peers[n - s.net.length]? with
    | none => .next s
    | some (_, r) =>
      let len := reqLen r.kind
      let data := (List.range len).map (fun i => Config.freeByte (s.free + i))
      let s1 : State := { s with peers := s.peers.eraseIdx (n - s.net.length), free := s.free + len }
      let code := [0, eRange, eFormat, ePa, eMedia].getD (Config.peerCode s.free).val 0
      .next ((s1.crossPort (r.port.getD 0)).farAnswer (portSite (r.port.getD 0)) r code (if code = 0 then data else []) true)
  else match s.arrived n (fun b => match b with | .reply .. => true | _ => false) with
    | none => .next s
    | some (p, s) => match p.body with
      | .reply r err data logged =>
        let t := tileOfCore r.core
        let full := !s.replaying t && decide (2 ^ 21 < s.ropeFill t + 16 + data.length)
        let ahead := s.redoAhead t (fun e => match e with | .farReply c va _ => c == r.core && va == r.va | _ => false)
        if logged && err == 0 && r.crew.isSome && (full || ahead) || (match r.kind with | .knot .. => s.knotHeld r.ctx (leNat data) | _ => false) then .next s0
        else .next (s.farDone r err data logged).settle
      | _ => .next s

namespace State

/-- A far read at a home meets an uncorrectable line: a machine check that rolls the reading crew back.  When its replay finds the line so
again the access ends with MEDIA and the task's record names the line; the access of a context of no crew, which nothing rolls back, ends
with MEDIA at once (R106; log entry 91). -/
def mediaMet (s : State) (h pa : Nat) (crew : Option Nat) (core from_ : Nat) (unit : BitVec 24) : Bool × State :=
  let line := pa / 64
  let m := s.home h
  match crew with
  | none => (true, s)
  | some w =>
    if m.media.contains line && s.replaying (tileOfCore core) then
      (true, s.taskFault w cCopy eMedia (BitVec.ofNat 64 (64 * line)) core from_ unit)
    else
      let site := s.siteOf (tileOfCore core)
      let s := s.setHome h (if m.media.contains line then m else { m with media := m.media ++ [line] })
      let s := s.errorRecord 1 0x1C site 0xFF 0x0D (paUnit pa * 64) (s.siteVc site)
      (false, { s with rollbacks := if s.rollbacks.contains w then s.rollbacks else s.rollbacks ++ [w] }.raiseCheck site .arrayEcc)

/-- The contexts that wait for an instruction line. -/
def fetching (s : State) : List Nat := s.waiters (fun w => match w with | .fetch _ => true | _ => false)

/-- An instruction line that a context waits for is uncorrectable (R106). -/
def fetchMedia (s : State) (k : Nat) : State :=
  let c := s.ctx k
  match c.wait with
  | .fetch a => match s.farPlace (s.gwOf (tileOfCtx k)) (s.partOf k) c.crew (lineOf a) 64 .fetch with
    | (.ok pa, s) => match s.mediaMet (homeOfPa pa) pa c.crew (coreOfCtx k) (s.rankOf k) c.unit with
      | (true, s) => s.failWait k cCopy a
      | (false, s) => s
    | (.error _, _) => s
  | _ => s

end State

/-- FAR_MEDIA_ERROR: the read of a far transfer, an atomic, a knot update, or behind the packets of an instruction line meets an uncorrectable
line (R106). -/
def execFarMediaError (n : Nat) (s : State) : Ans :=
  if s.net.length ≤ n then match s.fetching[n - s.net.length]? with
    | some k => .next (s.fetchMedia k)
    | none => .next s
  else match s.arrived n (fun b => match b with | .home r .. => (writeData r.kind).isNone && (match r.kind with | .publ _ => false | _ => true) | _ => false) with
  | none => .next s
  | some (p, s1) => match p.body with
    | .home r leaf pa h =>
      match s1.readAtHome h r leaf pa (reqLen r.kind) with
      | .error e => .next (s1.homeAnswer p r e [] false)
      | .ok a => match s1.mediaMet h a r.crew r.core r.from_ r.unit with
        | (true, s) => .next (s.homeAnswer p r eMedia [] false)
        | (false, s) => .next s
    | _ => .next s

/-- COMMIT_NOTICE_AT_HOME: the crew's committed PSN is set and copies that no crew can still read are freed (R102). -/
def execCommitNoticeAtHome (n : Nat) (s : State) : Ans :=
  match s.arrived n (fun b => match b with | .commitPsn .. => true | _ => false) with
  | none => .next s
  | some (p, s) => match p.body with
    | .commitPsn h crew psn =>
      let m := s.home h
      match Tbl.find m.crews crew with
      | some (a, _) => .next ((s.setHome h { m with crews := Tbl.put m.crews crew (a, psn) }).freeCopies h)
      | none => .next s
    | _ => .next s

/-- HOTNESS_DECAY: every count and sum of a home is halved (R107). -/
def execHotnessDecay (h : Nat) (s : State) : Ans :=
  let m := s.home h
  .next (s.setHome h { m with hot := m.hot.map (fun e =>
    (e.1, { e.2 with count := e.2.count >>> 1, sx := e.2.sx >>> 1, sy := e.2.sy >>> 1, raw := none })) })

end Sys2Proof.Machine
end

