-- ==== Sys2Proof/Machine/EvNet.lean ====
section
/-! DEFINITION. Events of the mesh: routing with detours and fences (R261-R264), a link that is marked down (R260), landings
of static routes and multicast stores (R267, R284, R285), and rebind floods (R290). -/

namespace Sys2Proof.Machine

/-- The site next to a site at a port: 0 north, 1 east, 2 south, 3 west (R257, R263). -/
def nextSite (site port : Nat) : Option Nat :=
  let x := siteX site
  let y := siteY site
  match port with
  | 0 => if y = 0 then none else some (siteNum x (y - 1))
  | 1 => if x = 191 then none else some (siteNum (x + 1) y)
  | 2 => if y = 183 then none else some (siteNum x (y + 1))
  | 3 => if x = 0 then none else some (siteNum (x - 1) y)
  | _ => none

namespace State

/-- A reply of a router to a tile, on lane 1. -/
def sendFrom (s : State) (site tile ctx : Nat) (b : Body) : State := (s.send tile tile 1 ctx 0 b).movePkt s.nextId site

/-- FENCE_NACK: a router with the fence bit of a flit's destination does not deliver it: a message is NACKed, a hop or request goes back to
its source (R264, log entry 49). -/
def fenceFlit (s : State) (p : Pkt) : State :=
  match p.body with
  | .msg hdr .. =>
    if hdr.swaf != s.sys.wnum.toNat then s.dropPkt p.id else (s.dropPkt p.id).sendFrom p.pos hdr.stile p.dst (.nackFenced hdr)
  | b => if p.back.isNone && (requestTile b).isSome then s.modPkt p.id (fun q => { q with dst := s.siteOf q.src, back := some q.dst })
    else s.dropPkt p.id

/-- A hop or request that a fence turned back is at its source's router: it enters the mesh again once that router's entry for its tile
is not the fenced site; one for a home or gateway at once (R264, R276, log entry 49). -/
def enterAgain (s : State) (p : Pkt) (old : Nat) : State :=
  match requestTile p.body with
  | some t =>
    let site := if t < 0x8000 then s.boundAt p.pos t else old
    if t < 0x8000 && site == old then s else s.modPkt p.id (fun q => { q with dst := site, back := none })
  | none => s

/-- A flit's repeats on a link are counted on the receiving side: RETRY of LINKC (R260, R463). -/
def countLink (s : State) (site port lo bits n : Nat) : State :=
  s.modSite site (fun t => { t with linkc := Tbl.set 0 t.linkc port (satAdd (Tbl.get 0 t.linkc port) lo bits n) })

/-- Each repeat of a flit is a corrected error, recorded where it is received (R260, R465). -/
def recordRepeats (s : State) (site port n : Nat) : State :=
  (List.range n).foldl (fun s _ => s.errorRecord 0 0 site 0xFF 0x07 port (BitVec.ofNat 64 port)) s

/-- Of two packets at one output, q goes before p: lane 3 always first; of the others one that has waited 64 router cycles before those that
have waited less, then the higher lane (R257). -/
def firstOut (now : Nat) (q p : Pkt) : Bool :=
  let old (k : Pkt) : Bool := decide (k.here + 64 ≤ now)
  if q.lane == 3 || p.lane == 3 then q.lane == 3 && p.lane != 3
  else if old q && decide (q.here < p.here) then true
  else if old p && decide (p.here < q.here) then false
  else decide (p.lane < q.lane)

/-- The link at a port carries one flit in a router cycle: a packet that has come to the port may go if the link is free for its lane, and no
packet that waits for it goes before (R257, R258). -/
def mayCross (s : State) (p : Pkt) (port : Nat) : Bool :=
  let n := s.site p.pos
  let now := 2 * n.ctr + 1
  decide (p.here ≤ now) && decide (Tbl.get 0 (if p.lane == 3 then n.out3 else n.outLow) port ≤ now)
    && s.net.all (fun q => q.id == p.id || !q.inj || decide (now < q.here) || q.pos != p.pos || n.fence.contains q.dst
      || s.outPort q.pos q.dst != port || !firstOut now q p)

/-- The source in a tile of a packet of lane 0: the copy engine, the message port or the bank switch (R259). -/
def sourceOf (b : Body) : Nat :=
  match b with
  | .far _ => 0
  | .read .. | .write .. | .bari .. | .amo .. | .lrw _ | .sch .. | .relq .. | .knot .. | .arrive .. | .window .. => 2
  | _ => 1

/-- Of two packets at a local port, whether q enters before p: lane 3 first, then the higher lane, within lane 0 the source whose turn comes
first (R257, R259). -/
def firstIn (turn : Nat) (q p : Pkt) : Bool :=
  let rank (k : Pkt) : Nat := (sourceOf k.body + 3 - turn) % 3
  decide (p.lane < q.lane) || q.lane == 0 && p.lane == 0 && decide (rank q < rank p)

/-- The local port takes in one flit in a router cycle: a packet may enter if it is free and none that waits there goes before (R259). -/
def mayInject (s : State) (p : Pkt) : Bool :=
  let n := s.site p.pos
  let now := 2 * n.ctr + 1
  decide (p.here ≤ now) && decide (Tbl.get 0 n.outLow 4 ≤ now)
    && s.net.all (fun q => q.id == p.id || q.inj || q.pos != p.pos || decide (now < q.here) || !firstIn n.injTurn q p)

/-- The router cycle in which the last flit of a packet has left the mesh at a site, where it comes to the way out in cycle `c`: the local port
gives out one flit in a router cycle (R258, R259); a gateway or home adds its own least time (R482). -/
def outAt (s : State) (site c : Nat) (b : Body) : Nat :=
  max c (Tbl.get 0 (s.site site).outLow 5) + 3 + (flitsOf b - 1) + serviceOf b

/-- Where a packet has come to its destination the way out of the local port is taken for its flits (R259). -/
def useOut (s : State) (site c : Nat) (p : Pkt) : State :=
  s.modSite site (fun n => if site = p.dst then { n with outLow := Tbl.set 0 n.outLow 5 (max c (Tbl.get 0 n.outLow 5) + flitsOf p.body) } else n)

/-- A packet enters the mesh, which takes 3 router cycles (R258, R259); one for the site itself is at the way out then. -/
def enterMesh (s : State) (p : Pkt) : State :=
  let n := s.site p.pos
  let c := max p.here (max (2 * n.ctr) (Tbl.get 0 n.outLow 4))
  let s1 := s.modSite p.pos (fun n => { n with
    outLow := Tbl.set 0 n.outLow 4 (c + flitsOf p.body), injTurn := if p.lane == 0 then (sourceOf p.body + 1) % 3 else n.injTurn })
  (s1.useOut p.pos (c + 3) p).modPkt p.id (fun k => { k with
    inj := true, here := c + 3, at_ := if p.pos = p.dst then s.outAt p.pos (c + 3) p.body else k.at_ })

/-- The router cycles that a packet's flits take of a link; those of lane 3 come out of the other lanes' too (R257). -/
def useLink (s : State) (p : Pkt) (port : Nat) : State :=
  let flits := flitsOf p.body
  s.modSite p.pos (fun n =>
    let take (t : Tbl Nat) : Tbl Nat := Tbl.set 0 t port (max (Tbl.get 0 t port) (2 * n.ctr) + flits)
    { n with outLow := take n.outLow, out3 := if p.lane == 3 then take n.out3 else n.out3 })

/-- A packet crosses a link to site q in 2 router cycles, and 8 more for each repeat of its flits; it starts in one of the two router cycles of
this rc.  At its destination it takes the way out, and can land from the end of the router cycle of its arrival on (R258, R260; log entries
7 and 45). -/
def crossLink (s : State) (p : Pkt) (port q : Nat) : State :=
  let half := if Config.secondHalf s.free then 1 else min 1 (p.here - 2 * (s.site p.pos).ctr)
  let n := (Config.linkRepeats s.free).val
  let c := 2 * (s.site q).ctr + half + 2 + 8 * n
  let at_ := if q = p.dst then s.outAt q c p.body else p.at_
  let s := ((s.useLink p port).countLink q ((port + 2) % 4) 32 32 n).useOut q c p
  { s.modPkt p.id (fun k => { k with pos := q, at_, here := c }) with
    free := s.free + 1, fields := (s.recordRepeats q ((port + 2) % 4) n).fields }

end State

/-- ROUTER_FLIT_FORWARD: packet n enters the mesh or moves over one link, meets a fence, or waits while its port has no working link, or its link is taken or
goes to a packet before it; the router of a hole works no more (R18, R257-R260, R262-R264). The routers of a field without power go on
forwarding (log entry 65). -/
def execRouterFlitForward (n : Nat) (s : State) : Ans :=
  match s.net[n]? with
  | none => .next s
  | some p =>
    if (s.site p.pos).hole then .next s
    else if !p.inj then .next (if s.mayInject p then s.enterMesh p else s)
    else if (s.site p.pos).fence.contains p.dst then .next (s.fenceFlit p)
    else
      let port := s.outPort p.pos p.dst
      if port = 4 then
        match p.back with
        | some old => .next (s.enterAgain p old)
        | none => .next s
      else match nextSite p.pos port with
        | none => .next s
        | some q => if (s.site p.pos).down.contains port || (s.site q).hole || !s.mayCross p port then .next s else .next (s.crossLink p port q)

/-- MESH_LINK_DOWN: a flit that fails eight times at a port of the receiving router marks the link down and raises a machine
check, other (R260). -/
def execMeshLinkDown (site port : Nat) (s : State) : Ans :=
  match nextSite site port with
  | none => .next s
  | some q =>
    if !isSite site || (s.site site).down.contains port then .next s
    else
      let mark (s : State) (site port : Nat) : State := s.modSite site (fun t => { t with down := t.down ++ [port] })
      let s := (mark s site port).modSite q (fun t =>
        if t.down.contains ((port + 2) % 4) then t else { t with down := t.down ++ [(port + 2) % 4] })
      let s := (s.countLink site port 32 32 7).countLink site port 0 16 1
      .next ((s.errorRecord 1 0x1D site 0xFF 0x07 port (s.siteVc site)).raiseCheck site .other)

/-- The record of a flit of a static route that landed late (R267). -/
def State.lateEv (l : Loc) (due : Nat) : LogEv := .order l.tile l.bank l.off (BitVec.ofNat 64 due)

/-- A replay has still to repeat the late landing of a flit (R267, R430). -/
def State.lateLogged (s : State) (l : Loc) (due : Nat) : Bool :=
  s.replaying l.tile && (match (s.tile l.tile).crew with
    | none => false
    | some c => (s.crew c).redo.any (fun r => r.ev == State.lateEv l due))

/-- STATIC_ROUTE_FLIT_LANDING: a flit lands at its due router cycle, or late on arrival with a log record, and its bytes
arrive at the barrier (R267, R284). -/
def execStaticRouteFlitLanding (n : Nat) (s : State) : Ans :=
  match s.arrived n (fun b => match b with | .route .. => true | _ => false) with
  | none => .next s
  | some (p, s1) => match p.body with
    | .route bytes bar c tag due =>
      let place := ((bytes.head?).map Prod.fst).getD ⟨0, 0, 0⟩
      let t := place.tile
      let vc := s1.tileVc t
      let banks := bytes.foldl (fun (acc : List Nat) b => if acc.contains b.1.bank then acc else acc ++ [b.1.bank]) []
      if 2 * vc + 1 < due || bytes.any (fun b => s1.linesHeld b.1 1) || bar.any (fun b => s1.linesHeld b 16)
          || s1.redoAhead t (· == State.lateEv place due) then .next s
      else match banks.foldlM (fun s b => s.useBank t b) s1 with
        | none => .next s
        | some s2 =>
          let s3 := bytes.foldl (fun s b => s.writeLoc b.1 [b.2]) s2
          let s4 := match bar with
            | some b => s3.arriveAt b c tag 0 0
            | none => s3
          .next (if due < 2 * vc || s1.lateLogged place due then s4.logEv t (State.lateEv place due) 8 else s4)
    | _ => .next s

/-- MCAST_REPLICA_LANDING: the next line of the replica lands as an immediate-class write; with the last the barrier takes its arrival,
and the store is acknowledged (R285). -/
def execMcastReplicaLanding (n : Nat) (s : State) : Ans :=
  match s.arrived n (fun b => match b with | .mcast .. => true | _ => false) with
  | none => .next s
  | some (p, s1) => match p.body with
    | .mcast bytes bar c id => match bytes with
      | [] => .next s1
      | (l, _) :: _ =>
        let line := bytes.takeWhile (fun x => x.1.off / 64 == l.off / 64)
        let rest := bytes.drop line.length
        let words := l :: (if rest.isEmpty then bar.toList else [])
        if s1.linesHeld l 1 || rest.isEmpty && bar.any (fun b => s1.linesHeld b 16) || !words.all (s1.orderTurn p.ctx) then .next s
        else match (if rest.isEmpty then s1 else s).useBank l.tile l.bank with
        | none => .next s
        | some s2 =>
          let s3 := (line.foldl (fun s x => s.writeLoc x.1 [x.2]) (words.foldl (fun s w => s.logOrder p.ctx w) s2)).watchHit l.tile (fun w =>
            line.any (fun x => x.1.bank == w.bank && x.1.off / 8 == w.off / 8))
          if rest.isEmpty then
            let s4 := match bar with
              | some b => s3.arriveAt b c 0 0 0
              | none => s3
            .next (s4.send l.tile p.src 1 p.ctx 0 (.ack id))
          else .next (s3.modPkt p.id (fun k => { k with body := .mcast rest bar c id }))
    | _ => .next s

namespace State

/-- A router that takes part in a flood: of a site that is no hole, with power, in a joined field (R290). -/
def routerWorks (s : State) (site : Nat) : Bool :=
  isSite site && !(s.site site).hole && s.siteUp site

/-- Every working router has applied a flood. -/
def floodOver (s : State) (f : Flood) : Bool :=
  (List.range (184 * 256)).all (fun n => !s.routerWorks n || f.applied.contains n)

end State

/-- REBIND_FLOOD: a router applies an entry; when every working router has, RTWR.rb arrives at its barrier (R290). -/
def execRebindFlood (site i : Nat) (s : State) : Ans :=
  match s.floods[i]? with
  | none => .next s
  | some f =>
    if !isSite site || f.applied.contains site then .next s
    else
      let f' : Flood := { f with applied := f.applied ++ [site] }
      if s.floodOver f' then .next (({ s with floods := s.floods.eraseIdx i } : State).rtwrDone f.bar)
      else .next { s with floods := s.floods.set i f' }

end Sys2Proof.Machine
end

