-- ==== Sys2Proof/Machine/EvMsg.lean ====
section
/-! DEFINITION. Events of messages: receiving and landing (R269-R278), the sender's replies and resends (R276), the log replica
(R278, R422), and hops (R288, R289). -/

namespace Sys2Proof.Machine

/-- A receive entry of a message (R275). -/
def RecvEnt.isFor (e : RecvEnt) (h : MsgHdr) : Bool :=
  e.waf == h.swaf && e.tile == h.stile && e.core == h.score && e.chan == h.schan && e.task == h.stask.toNat && e.part == h.part
    && e.ibx == h.ibx.toNat

/-- The same message, retransmitted or not. -/
def MsgHdr.same (a b : MsgHdr) : Bool := { a with retx := false } == { b with retx := false }

namespace State

/-- Threads sleeping in IBPOP on an inbox issue again (R286). -/
def wakePop (s : State) (t ibx : Nat) : State :=
  ((s.waiters (fun w => w == .ibpop ibx)).filter (fun k => tileOfCtx k == t)).foldl (fun s k =>
    if s.wakeHeld k then s else (s.reissue k).logWake k 0x03) s

/-- MESSAGE_LAND: header and payload stand in the entry; TAIL is incremented, with its watches and the sleeping IBPOPs (R272, R286). -/
def landMsg (s : State) (t : Nat) (x : Word) (h : MsgHdr) : State :=
  let c := s.ibxCounts t x
  let s := (s.setIbxWord t x 0 ((c.tail + 1) % 2 ^ 32)).watchWake (ibxCtl t x) 8 (enBytes 8)
  (s.wakePop t h.ibx.toNat).modTile t (fun i => { i with mrecv := i.mrecv + 1 })

/-- The receive entry of a message, made with EXP 0 where there is none (R275). -/
def withRecv (s : State) (t : Nat) (h : MsgHdr) : State :=
  if (s.tile t).recv.any (fun e => e.isFor h) then s
  else s.modTile t (fun i => { i with recv := i.recv ++
    [{ waf := h.swaf, tile := h.stile, core := h.score, chan := h.schan, task := h.stask.toNat, part := h.part, ibx := h.ibx.toNat,
       exp := 0 }] })

/-- The number that a receive entry expects next. -/
def expNext (s : State) (t : Nat) (h : MsgHdr) : State :=
  s.modTile t (fun i => { i with recv := i.recv.map (fun e => if e.isFor h then { e with exp := e.exp + 1 } else e) })

/-- A reply of the receiver; a sender on another wafer gets it through Folvibel (R279). -/
def replyTo (s : State) (t : Nat) (h : MsgHdr) (b : Body) : State :=
  if h.swaf != s.sys.wnum.toNat then s else s.send t h.stile 1 0 0 b

/-- A message discarded by R275: counted in the control word's DROP, saturating. -/
def dropMsg (s : State) (t : Nat) (x : Word) : State :=
  let c := s.ibxCounts t x
  s.writeLoc { ibxCtl t x with off := (ibxCtl t x).off + 12 } (leBytes 2 (min 0xFFFF (c.drop + 1)))

/-- A message from outside the crew of a tile (R278). -/
def fromOutside (s : State) (crew : Nat) (h : MsgHdr) : Bool :=
  h.swaf != s.sys.wnum.toNat || !s.inCrew crew h.stile || h.stask != (s.crew crew).task

/-- The bytes of a message's log record beyond its header (R421). -/
def msgLogBytes (outside : Bool) (h : MsgHdr) : Nat := if outside then 32 + h.len else 0

/-- A message whose turn has come lands, with its log record and its replica, before the ACK (R272, R278, R422). -/
def acceptMsg (s : State) (t crew : Nat) (x : Word) (h : MsgHdr) (data : List Byte) : State :=
  let outside := s.fromOutside crew h
  let n := msgLogBytes outside h
  let s1 := ((s.withRecv t h).landMsg t x h).expNext t h
  if s.replaying t && (s.crew crew).redo.any (fun r => match r.ev with
      | .message h' _ _ => r.tile == t && h'.same h
      | _ => false) then
    (s1.modCrew crew (fun w => { w with redo := w.redo.filter (fun r => match r.ev with
      | .message h' _ _ => !(r.tile == t && h'.same h)
      | _ => true) })).replyTo t h (.msgAck h)
  else
    let s2 := s1.logEv t (.message h (if outside then data else []) outside) n
    s2.send t (s.partnerOf t) 0 0 0 (.log t n (some h))

/-- The receive algorithm of R275 at a tile that a message is for: the state in which it is dropped, NACKed or a duplicate; `none` where it
lands. -/
def refuseMsg (s : State) (t : Nat) (h : MsgHdr) : Option State :=
  let ack (s : State) : State := s.replyTo t h (.msgAck h)
  let x := s.inbox t h.ibx.toNat
  match (s.tile t).crew with
  | none => some (ack ((s.countMsg (s.siteOf t)).countPart h.part 32))
  | some crew =>
    if (s.crew crew).part != h.part then some (ack ((s.countMsg (s.siteOf t)).countPart h.part 32))
    else if !ibxEn x then some (ack (s.countMsg (s.siteOf t)))
    else if ibxSize x < 32 + h.len then some (ack ((s.dropMsg t x).countMsg (s.siteOf t)))
    else
      let tbl := (s.tile t).recv
      let old := tbl.find? (fun e => e.isFor h)
      if old.isNone && h.seq != 0 then some (ack ((s.dropMsg t x).countMsg (s.siteOf t)))
      else if old.isNone && decide (1024 ≤ tbl.length) then some (s.replyTo t h (.nackFull h))
      else
        let s := s.withRecv t h
        let d := (h.seq - (old.map RecvEnt.exp).getD 0).toNat
        let c := s.ibxCounts t x
        if 2 ^ 31 ≤ d then some (ack s)
        else if s.replaying t && s.fromOutside crew h then some (s.replyTo t h (.nackReplay h))
        else if 0 < d then some (s.replyTo t h (.nackOrder h))
        else if (c.tail + 2 ^ 32 - c.head) % 2 ^ 32 == ibxRing x then some (s.replyTo t h (.nackFull h))
        else if 2 ^ 21 < s.ropeFill t + 16 + msgLogBytes (s.fromOutside crew h) h then some (s.replyTo t h (.nackReplay h))
        else none

/-- A message that may land waits: its logged vc lies ahead (R278), or another is landing in its inbox (R277). -/
def msgWaits (s : State) (t crew : Nat) (h : MsgHdr) : Bool :=
  s.replaying t && (s.crew crew).redo.any (fun r => match r.ev with
    | .message h' _ _ => r.tile == t && h'.same h && decide ((s.tile t).vcc < r.vc)
    | _ => false)
  || s.net.any (fun p => decide (0 < p.part) && (match p.body with
    | .msg h' .. => h'.dtile == t && h'.ibx == h.ibx
    | _ => false))

/-- A message for another wafer has come to a corner field: it leaves by the port of its channel, or crosses the mesh to that port on lane 0,
as one from a third wafer does that this wafer forwards (R279, R449). -/
def passOn (s : State) (p : Pkt) (h : MsgHdr) : State :=
  match s.chanPort h.dwaf h.stile h.schan with
  | none => s
  | some q =>
    if portSite q = p.dst then (if s.portUp q then s.crossPort q else s)
    else { s with net := s.net ++ [{ p with pos := p.dst, dst := portSite q, lane := 0, here := 2 * (s.site p.dst).ctr }] }

end State

/-- MESSAGE_RECEIVE: a data or signal message at its tile is dropped, NACKed or lands, a line of its entry at a time and then its TAIL
(R155, R272, R275); one whose HCRC fails is dropped and counted (R269); one for another wafer is passed on (R279, R449). -/
def execMessageReceive (n : Nat) (s : State) : Ans :=
  match s.arrived n (fun b => match b with | .msg .. => true | _ => false) with
  | none => .next s
  | some (p, s1) => match p.body with
    | .msg h data crc =>
      let t := h.dtile
      if h.dwaf != s1.sys.wnum.toNat then .next (s1.passOn p h)
      else if crc != h.hcrc then .next (s1.countMsg p.dst)
      else if s1.tileAt p.dst != some t then .next s1
      else match s1.refuseMsg t h, (s1.tile t).crew with
        | some s2, _ => .next s2
        | none, none => .next s
        | none, some crew =>
          let x := s1.inbox t h.ibx.toNat
          let bytes := h.bytes ++ data
          let entry := ibxEntry t x ((s1.ibxCounts t x).tail % ibxRing x)
          let l : Loc := { entry with off := entry.off + 64 * p.part }
          let body := 64 * p.part < bytes.length
          if s1.msgWaits t crew h || s1.linesHeld (if body then l else ibxCtl t x) 16 then .next s
          else match (if body then s else s1).useBank t l.bank with
            | none => .next s
            | some s2 =>
              if body then .next ((s2.writeLoc l (slice bytes (64 * p.part) 64)).modPkt p.id (fun k => { k with part := k.part + 1 }))
              else .next (s2.acceptMsg t crew x h data)
    | _ => .next s

/-- LOG_REPLICA_ACKNOWLEDGEMENT: the partner has the replica of a record; the message it belongs to is ACKed (R278, R422). -/
def execLogReplicaAcknowledgement (n : Nat) (s : State) : Ans :=
  match s.arrived n (fun b => match b with | .log .. | .logAck _ => true | _ => false) with
  | none => .next s
  | some (p, s) => match p.body with
    | .log t _ h => .next (s.send (s.partnerOf t) t 1 0 0 (.logAck h))
    | .logAck (some h) => .next (s.replyTo h.dtile h (.msgAck h))
    | _ => .next s

namespace State

/-- A message is on its way in the mesh. -/
def inMesh (s : State) (h : MsgHdr) : Bool := s.net.any (fun p => match p.body with | .msg h' .. => h'.same h | _ => false)

/-- The unacknowledged messages that have left for other wafers, with their tiles. -/
def remoteRetx (s : State) : List (Nat × Retx) :=
  s.tiles.flatMap (fun e => (e.2.retx.filter (fun r => r.hdr.dwaf != s.sys.wnum.toNat && !s.inMesh r.hdr)).map (fun r => (e.1, r)))

/-- The copy that a reply is for: that of packet n, or for a number behind the packets that of a message to another wafer
(R279); with it the number the packet carried (the site of a fence). -/
def repliedCopy (s : State) (n : Nat) (hdrOf : Body → Option MsgHdr) : Option (Nat × Retx × Nat × State) :=
  if s.net.length ≤ n then (s.remoteRetx[n - s.net.length]?).map (fun r => (r.1, r.2, s.boundAt (s.siteOf r.1) r.2.hdr.dtile, s))
  else match s.arrived n (fun b => (hdrOf b).isSome) with
    | none => none
    | some (p, s) => match hdrOf p.body with
      | none => none
      | some h => match (s.tile h.stile).retx.find? (fun r => r.hdr.same h) with
        | some r => some (h.stile, r, p.ctx, s)
        | none => none

/-- The state after an arrived reply that no copy waits for. -/
def replyGone (s : State) (n : Nat) (hdrOf : Body → Option MsgHdr) : State :=
  match s.arrived n (fun b => (hdrOf b).isSome) with
  | none => s
  | some (_, s) => s

def modRetx (s : State) (t : Nat) (h : MsgHdr) (f : Retx → Retx) : State :=
  s.modTile t (fun i => { i with retx := i.retx.map (fun r => if r.hdr.same h then f r else r) })

/-- A message is sent again, with RETX (R276). -/
def resend (s : State) (t : Nat) (r : Retx) : State :=
  let h := { r.hdr with retx := true }
  (s.modRetx t r.hdr (fun q => { q with hdr := h, st := .sent, at_ := s.rcOf t })).sendMsg t 0 h r.data

/-- A copy is given up: the message arrives at its barrier with an error code, or 0 for an ACK. -/
def endSend (s : State) (t : Nat) (r : Retx) (err : BitVec 8) : State :=
  let core := coreKey t r.hdr.score
  let s := s.modTile t (fun i => { i with retx := i.retx.filter (fun q => !q.hdr.same r.hdr) })
  let s := s.setChan core r.hdr.schan (fun c => { c with outn := c.outn - 1 })
  (s.sendArrive t 0 r.bar 1 0 err 0).ackOut core r.outId

end State

/-- ACK_RECEIVE: the copy is freed and the SEND arrives at its barrier (R276). -/
def execAckReceive (n : Nat) (s : State) : Ans :=
  let f (b : Body) : Option MsgHdr := match b with | .msgAck h => some h | _ => none
  match s.repliedCopy n f with
  | none => .next (s.replyGone n f)
  | some (t, r, _, s) => .next (s.endSend t r 0).settle

/-- NACK_FULL_RECEIVE: resent after 256 router cycles, doubling up to 65,536 (R276). -/
def execNackFullReceive (n : Nat) (s : State) : Ans :=
  let f (b : Body) : Option MsgHdr := match b with | .nackFull h => some h | _ => none
  match s.repliedCopy n f with
  | none => .next (s.replyGone n f)
  | some (t, r, _, s) => .next (s.modRetx t r.hdr (fun q =>
      { q with st := .delay (s.rcOf t + q.delay / 2) q.delay, delay := min 65536 (2 * q.delay) }))

/-- NACK_ORDER_RECEIVE: the channel's unacknowledged messages are sent again in order (R276). -/
def execNackOrderReceive (n : Nat) (s : State) : Ans :=
  let f (b : Body) : Option MsgHdr := match b with | .nackOrder h => some h | _ => none
  match s.repliedCopy n f with
  | none => .next (s.replyGone n f)
  | some (t, r, _, s) =>
    let all := ((s.tile t).retx.filter (fun q => q.hdr.sameChan r.hdr && !s.earlierQueued t q.hdr)).foldl (fun l q => insRetx q l) []
    .next (all.foldl (fun s q => s.resend t q) s)

/-- NACK_FENCED_RECEIVE: the message waits for another rebind entry than the one it used (R276). -/
def execNackFencedReceive (n : Nat) (s : State) : Ans :=
  let f (b : Body) : Option MsgHdr := match b with | .nackFenced h => some h | _ => none
  match s.repliedCopy n f with
  | none => .next (s.replyGone n f)
  | some (t, r, site, s) => .next (s.modRetx t r.hdr (fun q => { q with st := .fenced site }))

/-- NACK_REPLAY_RECEIVE: resent after 4,096 router cycles (R276). -/
def execNackReplayReceive (n : Nat) (s : State) : Ans :=
  let f (b : Body) : Option MsgHdr := match b with | .nackReplay h => some h | _ => none
  match s.repliedCopy n f with
  | none => .next (s.replyGone n f)
  | some (t, r, _, s) => .next (s.modRetx t r.hdr (fun q => { q with st := .delay (s.rcOf t + 2048) q.delay }))

/-- RESEND_DELAY_EXPIRY: a NACKed copy's delay is over (R276). -/
def execResendDelayExpiry (tile i : Nat) (s : State) : Ans :=
  match (s.tile tile).retx[i]? with
  | none => .next s
  | some r => match r.st with
    | .delay rc _ => if (s.tile tile).halted || s.rcOf tile < rc || s.earlierHeld tile r.hdr then .next s else .next (s.resend tile r)
    | _ => .next s

/-- REBIND_CHANGE_RESEND: the sender's own router has another entry for the fenced tile (R276). -/
def execRebindChangeResend (tile i : Nat) (s : State) : Ans :=
  match (s.tile tile).retx[i]? with
  | none => .next s
  | some r => match r.st with
    | .fenced site =>
      if (s.tile tile).halted || s.boundAt (s.siteOf tile) r.hdr.dtile == site || s.earlierHeld tile r.hdr then .next s else .next (s.resend tile r)
    | _ => .next s

/-- RETRANSMIT_TIMEOUT: no reply within 131,072 router cycles of the latest sending (R276). -/
def execRetransmitTimeout (tile i : Nat) (s : State) : Ans :=
  match (s.tile tile).retx[i]? with
  | none => .next s
  | some r => match r.st with
    | .sent =>
      if (s.tile tile).halted || s.rcOf tile < r.at_ + 65536 || s.earlierHeld tile r.hdr then .next s else .next (s.resend tile r)
    | _ => .next s

namespace State

/-- The core a hop goes to: the one it names, or the one with the most free slots, the lowest on a tie (R288). -/
def hopCore (s : State) (t sel : Nat) : Nat :=
  let free (c : Nat) : Nat := ((List.range 16).filter (s.slotEmpty (coreKey t c))).length
  if sel < 4 then coreKey t sel
  else coreKey t ((List.range 4).foldl (fun b c => if free b < free c then c else b) 0)

/-- The context that arrives: what the light context carries, the rest at its creation value (R288, R289). -/
def hopCtx (s : State) (core : Nat) (c : Ctx) : Ctx :=
  let (sg, src) := s.newSegs core c.segs (some c)
  let carried (i : Nat) : Bool := (Tbl.get {} c.sg i).has 8
  { used := true, x := c.x.filter (fun e => decide (e.1 < 16)), v := c.v.filter (fun e => decide (e.1 < 8)), p := c.p, s := c.s,
    segs := c.segs, sg, sgsrc := (List.range 8).foldl (fun t i => if carried i then Tbl.set 0 t i 0xFF else t) src,
    code := s.segEntry core c.segs 0, prio := c.prio, unit := c.unit, fst := c.fst, rkey := c.rkey, lvl := c.lvl, el := c.el,
    swx := c.swx, crew := c.crew, place := c.place }

/-- An admission of this tile that a replay has still to repeat. -/
def loggedHop (s : State) (t : Nat) : Option LogRec :=
  match (s.tile t).crew with
  | none => none
  | some w => if s.replaying t then (s.crew w).redo.find? (fun r => match r.ev with
      | .hopIn k => tileOfCtx k == t
      | _ => false) else none

/-- The admission of R289: the slot or none, and the number. -/
def hopPlace (s : State) (core : Nat) (np : Bool) : Option (Option Nat × Nat) :=
  match s.freeNum core with
  | none => none
  | some n => match s.emptySlot core with
    | some j => some (some j, n)
    | none => if !np && decide (((s.ctxsOf core).filter (fun k => (s.slotOf k).isNone)).length < 48) then some (none, n) else none

end State

/-- HOP_ARRIVAL: the target admits the light context into a slot, parked, or refuses it (R289). -/
def execHopArrival (n : Nat) (s : State) : Ans :=
  match s.arrived n (fun b => match b with | .hop .. => true | _ => false) with
  | none => .next s
  | some (p, s1) => match p.body with
    | .hop h c np crc =>
      let answer (s : State) (ok : Bool) : State := s.sendFrom p.dst p.src p.ctx (.hopAck ok c)
      if crc != h.hcrc then .next (s1.countMsg p.dst) else
      match s1.tileAt p.dst with
      | none => .next (answer s1 false)
      | some t =>
        if c.crew.isNone || (s1.tile t).crew != c.crew then .next (answer s1 false)
        else
          let logged := s1.loggedHop t
          if (match logged with | some r => decide ((s1.tile t).vcc < r.vc) | none => false) then .next s
          else
            let core := s1.hopCore t h.ibx.toNat
            match s1.hopPlace core np with
            | none => .next (answer s1 false)
            | some (slot, num) =>
              let s2 := s1.addCtx core num slot (s1.hopCtx core c)
              let s3 := match logged, c.crew with
                | some _, some w => s2.dropRedo w (fun e => match e with | .hopIn k => tileOfCtx k == t | _ => false)
                | _, _ => s2.logEv t (.hopIn (ctxKey core num)) 16
              .next (answer s3 true)
    | _ => .next s

/-- HOP_REPLY: on admission the source frees the slot; refused, the context resumes at the HOP group with hop refused raised
precisely (R289). -/
def execHopReply (n : Nat) (s : State) : Ans :=
  match s.arrived n (fun b => match b with | .hopAck .. => true | _ => false) with
  | none => .next s
  | some (p, s) => match p.body, (s.ctx p.ctx).wait with
    | .hopAck ok c, .hop _ _ _ true =>
      let k := p.ctx
      let core := coreOfCtx k
      if (s.ctx k).uid != c.uid then .next s
      else if !ok then .next (s.failWait k cHop 0)
      else
        let s := s.landLate k
        let s1 := match s.slotOf k with
          | some j => s.clearSlot core j
          | none => s
        let s2 := (s1.setCtx k {}).dealWaiting core
        match c.crew with
        | some w =>
          .next (if s2.coreEmpty w core && (s2.crew w).st == .running then s2.arriveCore w core (s2.tile (tileOfCore core)).vcc false
            else s2)
        | none => .next s2
    | _, _ => .next s

end Sys2Proof.Machine
end

