-- ==== Sys2Proof/Machine/Cut.lean ====
section
/-! DEFINITION. What cuts share: the capture of a tile and of a crew (R416, R420), the
early-belay request (R423), and the release of staging and logs. -/

namespace Sys2Proof.Machine

namespace State

/-- The contexts of a tile that are not spilled. -/
def tileCtxs (s : State) (t : Nat) : Tbl Ctx := s.ctxs.filter (fun e => decide (e.1 < spillBase) && tileOfCtx e.1 == t)

/-- A packet that belongs to a tile's accesses: its own, or an answer to one of its contexts. -/
def isOwn (t : Nat) (p : Pkt) : Bool :=
  match p.body with
  | .data .. | .ack _ | .grant .. | .reply .. | .answer _ (some _) _ _ _ => tileOfCtx p.ctx == t
  | .answer .. | .version _ _ (.candidate _) | .version _ _ (.commit _) | .commitPsn .. | .log .. | .logAck _ | .msgAck _ | .nackFull _ | .nackOrder _ | .nackFenced _ | .nackReplay _ => false
  | _ => p.src == t

/-- The far requests of a tile that a gateway, a home or a peer holds. -/
def heldReqs (s : State) (t : Nat) : List FarReq :=
  let mine (r : FarReq) : Bool := tileOfCore r.core == t
  ((s.gws.flatMap (fun g => g.2.walks.map Walk.req ++ g.2.park.map Prod.snd)) ++ s.homes.flatMap (fun h => h.2.waiting.map Prod.fst)
    ++ s.peers.map Prod.snd).filter mine

/-- The frames of a tile's residents are written without taking them out of their slots (R416 step 2). -/
def saveResidents (s : State) (t : Nat) : State :=
  (List.range 4).foldl (fun s c => (List.range 16).foldl (fun s j => match s.inSlot (coreKey t c) j with
    | some k => s.saveFrame k
    | none => s) s) s

/-- The belayed state of a tile (R420). -/
def imageOf (s : State) (t v : Nat) : Image :=
  let recs := s.cores.flatMap (fun e => (e.2.trapq.filter (fun r => tileOfCtx r.ctx == t)).map (fun r => (e.1, r)))
  { vc := v, turn := s.rcOf t % 16, tile := s.tile t, recs, cores := (List.range 4).map (fun c => s.core (coreKey t c)), ctxs := s.tileCtxs t,
    pkts := s.net.filter (isOwn t), reqs := s.heldReqs t }

/-- Every line of banks 0-55. -/
def allLines : List Nat := List.range (56 * 2048)

/-- A tile captures its state: frames, image, cut set; its dirty bits clear and it slacks for 192 rc (R416).  A cut into a
keep without an image takes every line (R423). -/
def captureTile (s : State) (t v : Nat) : State :=
  let s := s.saveResidents t
  let site := s.siteOf t
  let whole := !(s.site (s.siteOf (s.partnerOf t))).keepv
  let im := s.imageOf t v
  let s := s.modSite site (fun n => { n with cap := some im, cutset := if whole then allLines else n.dirty, wanted := [], cutCap := false, dirty := [] })
  s.modTile t (fun i => { i with capture := 192 })

/-- The candidate of a cut is known: of the cut in progress, or of the last committed one (R373, R377). -/
def setCandidate (s : State) (crew vc : Nat) (v : BitVec 16) : State :=
  (s.modCrew crew (fun w =>
    if (w.cut.map Cut.vc) == some vc then { w with cut := w.cut.map (fun c => { c with cand := some v }) }
    else if w.lastC == some vc then
      { w with dyn := { w.dyn with cand := some v }, saved := w.saved.map (fun d => { d with cand := some v }) }
    else w)).updateRefs crew

/-- A bound crew asks its set's home for the candidate of a cut; a replay takes a logged one from the log (R377). -/
def askCandidate (s : State) (crew vc : Nat) : State :=
  match (s.crew crew).boundSet with
  | none => s
  | some v =>
    let t0 := (s.crew crew).t0
    match (s.crew crew).redo.findSome? (fun r => match r.ev with | .candidate c n => if c == vc then some n else none | _ => none) with
    | some n => (s.dropRedo crew (fun e => e == .candidate vc n)).setCandidate crew vc n
    | none => s.sendTo t0 (versionHome v) 0 (ctxKey (coreKey t0 0) 0) 0 (.version v crew (.candidate vc))

/-- The cut of a crew at a vc: every tile is captured in one step (R416). -/
def captureCrew (s : State) (crew v : Nat) (launch : Bool) : State :=
  let pvr := (s.tile (s.crew crew).t0).pvr
  let s := (s.crewTiles crew).foldl (fun s t => s.captureTile t v) s
  let s := s.modCrew crew (fun w => { w with
    cuts := w.cuts.filter (fun c => c != v)
    cut := some { vc := v, launch, dyn := w.dyn, pvr, cand := if launch then some pvr else none } })
  if launch then s else s.askCandidate crew v

/-- EARLY_BELAY_REQUEST: a pool whose fill reaches BLT asks the crews it serves for an early cut, once until it commits
(R423). -/
def earlyCheck (s : State) (t : Nat) : State :=
  let blt := ((s.part ((s.partOfTile t).getD 0)).blctl.extractLsb' 0 5).toNat
  if s.ropeFill t < blt * 2 ^ 16 then s
  else
    let crews := ((s.tile t).crew.toList ++ (s.tile (s.partnerOf t)).crew.toList).eraseDups
    crews.foldl (fun s c =>
      if (s.crew c).cuts.isEmpty && (s.crew c).cut.isNone && !s.crewReplays c then s.earlyBelay c else s) s

/-- The log share of a tile as its pool and its partner's hold it (R422). -/
def setLogShare (s : State) (crew t : Nat) : State :=
  let n := ((s.crew crew).log.filter (fun r => r.tile == t)).foldl (fun n r => n + r.size) 0
  let s := s.modSite (s.siteOf t) (fun x => { x with logB := n })
  s.modSite (s.siteOf (s.partnerOf t)) (fun x => { x with repB := n })

/-- What a cut has staged for a tile is discarded (R419). -/
def dropStaging (s : State) (t : Nat) : State :=
  let s := s.modSite (s.siteOf t) (fun x => { x with cutset := [], cutCap := false, cap := none })
  s.modSite (s.siteOf (s.partnerOf t)) (fun x => { x with rope := [] })

end State

end Sys2Proof.Machine
end

