-- ==== Sys2Proof/Machine/EvTask.lean ====
section
/-! DEFINITION. Tasks: dispatch with its refusals (R345-R348, R265, R266, R376), loading and the launch cut (R340, R350, R415),
the task end with record and knot (R349, R352, R353), and held launch blocks (R354). -/

namespace Sys2Proof.Machine

/-- A route list entry (R265): route, row and column offset, latency. -/
structure RouteEnt where
  route : Nat
  drow : Int
  dcol : Int
  plat : Nat
  reserved : Bool
  deriving DecidableEq, Repr

def RouteEnt.ofWord (w : Word) : RouteEnt :=
  ⟨(w.extractLsb' 56 8).toNat, (w.extractLsb' 40 8).toInt, (w.extractLsb' 32 8).toInt, (w.extractLsb' 16 16).toNat,
    w.extractLsb' 48 8 != 0 || w.extractLsb' 0 16 != 0⟩

/-- A list that R265 accepts: no route twice, no reserved field, latencies from 1. -/
def routesOk (l : List RouteEnt) : Bool :=
  l.all (fun e => !e.reserved && e.plat != 0) && (l.map RouteEnt.route).eraseDups.length == l.length

/-- The fields that R348 FIELD checks. -/
def Block.fieldsOk (b : Block) : Bool :=
  !b.reserved && b.vbind.extractLsb' 12 3 == 0 && decide (1 ≤ b.slots) && decide (b.slots ≤ 16) && decide (16 ≤ b.belay)
    && decide (b.belay ≤ 28) && decide (1 ≤ b.grain) && decide (b.grain ≤ 2 ^ 24) && decide (b.nroutes ≤ 256)

def Block.el (b : Block) : Bool := b.flags.getLsbD 0

def Block.fit (b : Block) : Bool := b.flags.getLsbD 1

/-- Links on the path from a site to another (R262, R263). -/
def State.pathLinks (s : State) (fuel at_ dst : Nat) : Nat :=
  match fuel with
  | 0 => 0
  | fuel + 1 =>
    if at_ = dst then 0
    else match nextSite at_ (s.outPort at_ dst) with
      | some n => 1 + s.pathLinks fuel n dst
      | none => 0

namespace State

/-- ALAT of a route between two tiles (R266). -/
def alat (s : State) (t u : Nat) : Nat := 3 + s.pathLinks 1000 (s.siteOf t) (s.siteOf u)

/-- Bytes of a block or list at an address in space 1 or 2, as firmware reads them. -/
def readAny (s : State) (field part : Nat) (a : Word) (n : Nat) : Option (List Byte) × State :=
  if spaceOf a == 1 then
    let l := globalLoc a
    if isReservedTile l.tile || !s.tileBound l.tile || decide (48 ≤ l.bank) || decide (2 ^ 17 < l.off + n)
        || a.extractLsb' 48 12 != 0 || a.extractLsb' 23 9 != 0 then (none, s)
    else (some (s.readLoc l n), s)
  else if spaceOf a == 2 then
    let r := s.readLines field part none (linePieces a n)
    (r.1.toOption, r.2)
  else (none, s)

/-- The gateway that a partition's firmware writes through: that of the field of its first tile. -/
def partField (s : State) (p : Nat) : Nat := let f := s.gwOf (s.part p).base; if f < 64 then f else anchorField

/-- A tile that a placement may take; its field and its partner's have joined (R346, R433, R452, R462). -/
def tileFree (s : State) (t : Nat) : Bool :=
  let n := s.site (s.siteOf t)
  decide (t < 0x8000) && s.tileBound t && (s.tile t).crew.isNone && !s.sys.retire.contains t && !n.testing && !n.fenced
    && !n.unusable && s.siteUp (s.siteOf t) && s.siteUp (s.siteOf (s.partnerOf t))

/-- The T0s that the shape and FIT allow (R346). -/
def fits (s : State) (p : Nat) (b : Block) : List Nat :=
  let q := s.part p
  let n := b.cols * b.rows
  ((List.range (q.count + 1 - n)).map (fun i => q.base + i)).filter (fun t => !b.fit || t % b.cols == 0)

/-- The tile a route leads to from a tile of a crew placed at T0, if it is valid there (R265). -/
def routeTo (b : Block) (t0 i : Nat) (e : RouteEnt) : Option Nat :=
  let c : Int := (i % b.cols : Nat) + e.dcol
  let r : Int := (i / b.cols : Nat) + e.drow
  if 0 ≤ c ∧ c < b.cols ∧ 0 ≤ r ∧ r < b.rows then some (t0 + r.toNat * b.cols + c.toNat) else none

/-- Every route of a crew placed at T0 meets its padding (R266). -/
def routesMeet (s : State) (b : Block) (l : List RouteEnt) (t0 : Nat) : Bool :=
  (List.range (b.cols * b.rows)).all (fun i => l.all (fun e => match routeTo b t0 i e with
    | some u => decide (s.alat (t0 + i) u ≤ e.plat)
    | none => true))

/-- The route table of a tile (R265-R267); RTWR.sr entries of other numbers are not kept. -/
def routeTable (s : State) (b : Block) (l : List RouteEnt) (t0 i : Nat) : Tbl Word :=
  l.foldl (fun t e => match routeTo b t0 i e with
    | some u =>
      let a := s.alat (t0 + i) u
      Tbl.set 0 t e.route (1#1 ++ BitVec.ofBool (decide (e.plat < a)) ++ 0#14 ++ BitVec.ofNat 16 u ++ BitVec.ofNat 16 e.plat
        ++ BitVec.ofNat 16 a)
    | none => t) []

/-- How a queued task fares when it is considered (R346, R348). -/
inductive Dispatch where
  | refuse (reason : BitVec 8)
  | zero
  | place (t0 : Nat) (routes : List RouteEnt)
  | wait

/-- SEGSET and ENTRY of R348 at a placement: entry 0 of the set, and R319 on the entry's line. -/
def entryReason (s : State) (p : Nat) (b : Block) (t0 : Nat) : BitVec 8 × State :=
  let g := segOfBytes (s.readLoc (setEntryLoc t0 b.segs 0) 24)
  if !(g.wf && g.kind == kFar && g.has rX) then (0x04, s)
  else if !slotAligned b.entry then (0x05, s)
  else match codeCheck g b.entry b.entry with
    | .error _ => (0x05, s)
    | .ok _ => match s.readFar (s.gwOf t0) p none (lineOf b.entry) 64 .fetch with
      | (.ok bs, s) => (if tgtBit (BitVec.ofNat 512 (leNat bs)) (slotIndex b.entry) then 0 else 0x05, s)
      | (.error _, s) => (0x05, s)

/-- The route list of a block, if it can be read and R265 accepts it. -/
def routeList (s : State) (p : Nat) (b : Block) : Option (List RouteEnt) × State :=
  if b.nroutes = 0 then (some [], s)
  else match s.readAny (s.partField p) p b.routes (8 * b.nroutes) with
    | (some bs, s) =>
      let l := (List.range b.nroutes).map (fun i => RouteEnt.ofWord (word64 bs (8 * i)))
      (if routesOk l then some l else none, s)
    | (none, s) => (none, s)

/-- What becomes of a task that is considered: the first reason to refuse it, or a place for it (R346, R348).  Where no placement is free its
segment set is read at the lowest T0 that its shape allows (log entry 96). -/
def considered (s : State) (p : Nat) (b : Block) : Dispatch × State :=
  if 2 ^ 24 < b.units then (.refuse 0x01, s)
  else if !b.fieldsOk then (.refuse 0x02, s)
  else if b.units = 0 then (.zero, s)
  else if b.cols = 0 ∨ b.rows = 0 ∨ (s.fits p b).isEmpty then (.refuse 0x03, s)
  else
    let (list, s) := s.routeList p b
    let t0s := s.fits p b
    let free (t0 : Nat) : Bool := (List.range (b.cols * b.rows)).all (fun i => s.tileFree (t0 + i))
    let ok (l : List RouteEnt) (t0 : Nat) : Bool := b.el || s.routesMeet b l t0
    let t0 := ((list.bind (fun l => t0s.find? (fun t0 => free t0 && ok l t0))).or (t0s.find? free)).getD (t0s.headD 0)
    let (r, s) := s.entryReason p b t0
    if r != 0 then (.refuse r, s)
    else match list with
      | none => (.refuse 0x06, s)
      | some l =>
        if !t0s.any (ok l) then (.refuse 0x07, s)
        else if free t0 && ok l t0 then (.place t0 l, s) else (.wait, s)

end State

/-- The key of a task's crew record. -/
def crewKey (part : Nat) (task : BitVec 32) : Nat := part * 2 ^ 32 + task.toNat

namespace State

/-- A task that ends without having run (R348): only its record and its knot are left to write. -/
def endUnrun (s : State) (p : Nat) (e : QEnt) (reason : BitVec 8) : State :=
  s.setCrew (crewKey p e.task) { live := true, part := p, task := e.task, blk := { e.blk with cols := 0, rows := 0, units := 0 },
                                 t0 := (s.part p).base, st := .ended, reason, endStep := 2 }

/-- A tile as its crew finds it (R148, R152, R340): its own router tables, pairs and spill areas stay. -/
def placedTile (i : Tile) (crew col row : Nat) (pvr : BitVec 16) (routes : Tbl Word) (view : VView) : Tile :=
  { crew := some crew, col, row, pvr, routes, vview := view, pairR := i.pairR, spb := i.spb, rr := i.rr, pred := i.pred,
    lastSrc := i.lastSrc
    rows := (List.range 48).foldl (fun t b => Tbl.set 0x3800 t b (mkRow (b / 12) 0 (b / 12) (b % 12))) []
    firstSet := (List.range 48).foldl (fun t b => Tbl.set false t b true) [] }

/-- A core as its task finds it (R114, R148, R176, R233, R251, R273, R400): handlers, contexts of no crew, sequence counters
and queued records stay. -/
def placedCore (c : Core) (i : Nat) : Core :=
  { handler := c.handler, displaced := c.displaced, slots := c.slots, swaps := c.swaps, trapq := c.trapq, fseq := c.fseq,
    outs := c.outs, vmul := c.vmul, turnAt := c.turnAt, decideAt := c.decideAt
    bmap := (List.range 12).foldl (fun t e => Tbl.set 0 t e (mkEnt 0 true true (12 * i + e))) [] }

/-- A crew is placed (R329, R340, R345, R376): its tiles are claimed, the homes take its PSNs, its set the reference. -/
def placeCrew (s : State) (p : Nat) (e : QEnt) (t0 : Nat) (routes : List RouteEnt) : State :=
  let b := e.blk
  let c := crewKey p e.task
  let w : Crew := { live := true, part := p, task := e.task, since := e.since, blk := b, t0, el := b.el, st := .loading }
  let psns : Tbl Nat := (List.range 24).foldl (fun t h => Tbl.set 0 t h (s.home h).psn) []
  let pvr : BitVec 16 := match w.boundSet with | some v => (s.vset v).newest | none => 0
  let view : VView := { set := w.boundSet, cur := w.boundSet.bind (fun v => s.slotWith v pvr) }
  let s := s.setCrew c { w with dyn := { adopted := psns, committed := psns, cand := some pvr, cpvr := pvr } }
  let s := (List.range (b.cols * b.rows)).foldl (fun s i =>
    let t := t0 + i
    let s := s.setTile t (placedTile (s.tile t) c (i % b.cols) (i / b.cols) pvr (s.routeTable b routes t0 i) view)
    (List.range 4).foldl (fun s k => s.modCore (coreKey t k) (fun x => placedCore x k)) s) s
  let s := (List.range 24).foldl (fun s h =>
    s.setHome h (let m := s.home h; { m with crews := Tbl.put m.crews c (m.psn, m.psn) })) s
  s.updateRefs c

/-- The queue in the order of R345: class by class, highest first, oldest first within a class. -/
def queueOrder (q : List QEnt) : List QEnt :=
  (List.range 8).flatMap (fun i => q.filter (fun e => e.blk.prio.toNat == 7 - i))

/-- The class whose oldest task has waited 2^24 router cycles, if there is one: it and the lower classes wait for that task
(R345). -/
def staleTask (s : State) (q : List QEnt) : Option QEnt :=
  (List.range 8).findSome? (fun i => match q.find? (fun e => e.blk.prio.toNat == 7 - i) with
    | some e => if e.since + 2 ^ 24 ≤ s.sys.rtime.toNat then some e else none
    | none => none)

/-- A task leaves the queue. -/
def dequeue (s : State) (p : Nat) (e : QEnt) : State :=
  s.setPart p (let q := s.part p; { q with queue := q.queue.filter (fun x => x.task != e.task) })

/-- What dispatch does with a considered task, and whether that is something; a task that waits is passed by. -/
def dispatchOne (s : State) (p : Nat) (e : QEnt) (mayPlace : Bool) : Bool × State :=
  match s.considered p e.blk with
  | (.refuse r, s) => (true, (s.dequeue p e).endUnrun p e r)
  | (.zero, s) => (true, (s.dequeue p e).endUnrun p e 0)
  | (.place t0 l, s) => if mayPlace then (true, (s.dequeue p e).placeCrew p e t0 l) else (false, s)
  | (.wait, s) => (false, s)

/-- The first task in order that is refused, completes or is placed. -/
def dispatchFrom (s : State) (p : Nat) (q : List QEnt) (stale : Option QEnt) : Bool × State :=
  match q with
  | [] => (false, s)
  | e :: rest =>
    let may := match stale with
      | some o => decide (o.blk.prio.toNat < e.blk.prio.toNat) || o.task == e.task
      | none => true
    match s.dispatchOne p e may with
    | (true, s) => (true, s)
    | (false, s) => s.dispatchFrom p rest stale

/-- LAUNCHes that wait for an entry complete, once the held blocks have been posted (R354, R367). -/
def feedLaunch (s : State) (part : Nat) : State :=
  (s.waiters (fun w => match w with | .launch .. => true | _ => false)).foldl (fun s k =>
    match (s.ctx k).wait with
    | .launch d bs =>
      if s.partOf k != part || s.queueFull part || (s.launchRecord k).isSome then s
      else
        let (v, s) := s.postLaunch k (blockOf bs)
        s.completeX k d v 2
    | _ => s) s

end State

/-- TASK_DISPATCH: one task of a partition is placed, refused, or completes without units; none while the device
is quiesced (R345, R346, R348, R457). -/
def execTaskDispatch (part : Nat) (s : State) : Ans :=
  let q := (s.part part).queue
  if s.quiesced then .next s
  else match s.dispatchFrom part (State.queueOrder q) (s.staleTask q) with
  | (true, s) => .next (s.feedLaunch part)
  | (false, s) => .next s

namespace State

/-- The vault image that the runtime holds for a task, within the program banks (R60; log entry 95). -/
def imageFor (s : State) (w : Crew) : List (Nat × Nat × List Byte) :=
  (((s.images.find? (fun i => i.part == w.part && i.entry == w.blk.entry)).map VaultImage.data).getD []).filter (fun x =>
    decide (x.1 < 48) && decide (x.2.1 + x.2.2.length ≤ 2 ^ 17))

/-- A tile is loaded: zeros in banks 0-47, then the image in the banks it names (R60, R478). -/
def loadTile (s : State) (t : Nat) (im : List (Nat × Nat × List Byte)) : State :=
  let s : State := { s with mem := memClear s.mem (vaultKey (s.siteOf t) 0 0) (48 * 2 ^ 17) }
  im.foldl (fun s x => s.writeLoc ⟨t, x.1, x.2.1⟩ x.2.2) s

end State

/-- IMAGE_LOAD_COMPLETE: the last tile of a crew has its images; %tstart is that vc rounded up to 1,024, the set caches are
loaded (R60, R340, R395, R478). -/
def execImageLoadComplete (crew : Nat) (s : State) : Ans :=
  let w := s.crew crew
  if w.st != .loading then .next s
  else
    let v := (s.crewTiles crew).foldl (fun m t => max m (s.tile t).vcc) 0
    let s := (s.crewTiles crew).foldl (fun s t => s.loadTile t (s.imageFor w)) s
    let s := s.modCrew crew (fun w => { w with tstart := (v + 1023) / 1024 * 1024, st := .launchCut })
    let s := (s.crewCores crew).foldl (fun s c =>
      let seg (n : Nat) : Seg := segOfBytes (s.readLoc (setEntryLoc (tileOfCore c) w.blk.segs n) 24)
      s.modCore c (fun k => { k with setc := (List.range 64).map (fun n => (w.blk.segs.toNat * 64 + n, seg n)) })) s
    .next (s.logEv w.t0 .tstart 0)

namespace State

/-- At %tstart each place with a unit creates its context (R350). -/
def dealAll (s : State) (crew : Nat) : State :=
  let w := s.crew crew
  (List.range (min (places w) w.blk.units)).foldl (fun s q => s.deal crew q (q % w.blk.slots)) s

end State

/-- LAUNCH_CUT: with every tile at %tstart the first contexts are created and the launch cut is taken (R350, R415). -/
def execLaunchCut (crew : Nat) (s : State) : Ans :=
  let w := s.crew crew
  if w.st != .launchCut || w.cut.isSome || !s.allAt crew w.tstart then .next s
  else .next ((((s.dealAll crew).captureCrew crew w.tstart true).earlyCheck w.t0).earlyCheck (s.partnerOf w.t0))

namespace State

/-- Every command has completed and every operation of the task has been acknowledged (R352 step 2). -/
def quiet (s : State) (crew : Nat) : Bool :=
  (s.crewCores crew).all (fun k =>
    let c := s.core k
    c.uq.isEmpty && c.tq.isEmpty && c.runs.isEmpty && c.mq.isEmpty && c.mtq.isEmpty && c.mrun.isNone && c.outs.isEmpty
      && c.pbuf.isEmpty)
    && (s.crewTiles crew).all (fun t => (s.tile t).retx.isEmpty)
    && s.net.all (fun p => match p.body with
      | .far r | .home r .. | .reply r .. => r.crew != some crew
      | .log .. | .logAck _ | .msgAck _ | .nackFull _ | .nackOrder _ | .nackFenced _ | .nackReplay _ | .trap .. => true
      | _ => !s.inCrew crew p.src)
    && (s.crewTiles crew).all (fun t => (s.heldReqs t).all (fun r => match r.kind with | .record _ => true | _ => false))

/-- The staging slots of a crew: its marks and versions at its set's home (R378). -/
def ownSlot (w : Crew) (x : VSlot) : Bool := x.st == 1 && x.owner == w.task && x.opart.toNat == w.part

/-- A slot without its version. -/
def freeSlot (x : VSlot) : VSlot := { base := x.base, refs := x.refs }

/-- W1's owner: that of the most recently opened slot still staging (R370). -/
def fixOwner (e : VSet) : VSet :=
  let slot (i : Nat) : VSlot := Tbl.get {} e.slots i
  let age (i : Nat) : Nat := (e.last - (slot i).vnum).toNat
  match (List.range 4).find? (fun i => (slot i).st == 1
      && (List.range 4).all (fun j => (slot j).st != 1 || decide (age i ≤ age j))) with
  | some i => { e with owner := (slot i).owner, opart := (slot i).opart }
  | none => { e with owner := 0, opart := 0 }

/-- A mark of a crew on a slot: publish and discard of a version it opened, retire of one it asked for (R378). -/
def markOf (w : Crew) (crew : Nat) (x : VSlot) : Bool :=
  (x.pnd == 1 || x.pnd == 2) && ownSlot w x || x.pnd == 3 && x.asker == some crew

/-- The marks of a crew made before a vc take effect at its set's home: publish, discard, retire (R378). -/
def applyMarks (s : State) (crew v before : Nat) : State :=
  let w := s.crew crew
  let e := s.vset v
  let mine (x : VSlot) : Bool := markOf w crew x && decide (x.pndAt < before)
  let newest := (List.range 4).foldl (fun n i => let x := Tbl.get {} e.slots i
    if mine x && x.pnd == 1 then x.vnum else n) e.newest
  let act (x : VSlot) : VSlot :=
    if !mine x then x
    else if x.pnd == 1 then { x with st := 2, pnd := 0, pndAt := 0, owner := 0, opart := 0 }
    else if x.pnd == 2 then freeSlot x
    else { x with st := 3, pnd := 0, pndAt := 0, asker := none }
  let e := { e with newest, slots := (List.range 4).foldl (fun t i => Tbl.set {} t i (act (Tbl.get {} t i))) e.slots }
  let s := s.setVset v (fixOwner e)
  -- a retired slot without references becomes free
  (s.setRefs crew v (s.refSlots crew v)).lookSet v

/-- A rollback to a cut clears the marks made since (R378). -/
def clearMarks (s : State) (crew v since : Nat) : State :=
  let w := s.crew crew
  let e := s.vset v
  let act (x : VSlot) : VSlot :=
    if markOf w crew x && decide (since ≤ x.pndAt) then { x with pnd := 0, pndAt := 0, asker := none } else x
  s.setVset v { e with slots := (List.range 4).foldl (fun t i => Tbl.set {} t i (act (Tbl.get {} t i))) e.slots }

/-- The staging slot of every tile's view: the one its crew owns that has no pending change (R374). -/
def refreshView (s : State) (crew : Nat) : State :=
  match (s.crew crew).boundSet with
  | none => s
  | some v =>
    let w := s.crew crew
    let st := (List.range 4).find? (fun i => let x := Tbl.get {} (s.vset v).slots i; ownSlot w x && x.pnd == 0)
    s.modTiles crew (fun t => { t with vview := { t.vview with staging := st } })

/-- At task end the marks are applied, or dropped for a crew that cannot be restored, and open versions discarded (R378). -/
def endVersions (s : State) (crew : Nat) : State :=
  let w := s.crew crew
  match w.boundSet with
  | none => s
  | some v =>
    let s := if w.lost then s else s.applyMarks crew v (2 ^ 64)
    let e := s.vset v
    let act (x : VSlot) : VSlot :=
      if ownSlot w x then freeSlot x else if x.pnd == 3 && x.asker == some crew then { x with pnd := 0, pndAt := 0, asker := none } else x
    let e := { e with slots := (List.range 4).foldl (fun t i => Tbl.set {} t i (act (Tbl.get {} t i))) e.slots }
    (s.setVset v (fixOwner e)).setRefs crew v []

/-- STATUS of a completion (R349, R352). -/
def endStatus (w : Crew) : BitVec 8 := if w.reason != 0 then 2 else if 0 < w.dyn.flt.n then 1 else 0

/-- The completion record (R349). -/
def recordBytes (s : State) (crew : Nat) : List Byte :=
  let w := s.crew crew
  let f := w.dyn.flt
  let vc := if 0 < f.n then f.vc else (s.crewTiles crew).foldl (fun m t => max m (s.tile t).vcc) 0
  [endStatus w, if w.reason != 0 then cLaunch else f.cause, w.reason, f.err] ++ leBytes 4 w.task.toNat ++ leBytes 8 vc
    ++ leBytes 8 f.addr.toNat ++ leBytes 2 f.tile ++ [BitVec.ofNat 8 f.core, BitVec.ofNat 8 f.slot] ++ leBytes 4 f.unit.toNat
    ++ leBytes 8 w.dyn.exitv.toNat ++ leBytes 4 (min f.n (2 ^ 32 - 1)) ++ leBytes 20 0

/-- How a completion write fares: done, skipped, or waiting for the steward (R352). -/
inductive EndWrite where
  | done (pa : Nat) (s : State)
  | skip (s : State)
  | wait (s : State)

/-- One write of a task end to a plain far page with A. -/
def endWrite (s : State) (crew : Nat) (a : Word) (n : Nat) : EndWrite :=
  let w := s.crew crew
  let field := s.partField w.part
  let mine (r : FarReq) : Bool := match r.kind with | .record c => c == crew | _ => false
  if w.denied then .skip (s.modCrew crew (fun w => { w with denied := false }))
  else if (s.gw field).park.any (fun e => mine e.2) then .wait s
  else match s.plainPlace field w.part a n with
    | (.ok pa, s) => .done pa s
    | (.error e, s) =>
      if e == eNotPresent then
        let t := (s.part w.part).base
        let r : FarReq := { id := s.nextId, ctx := ctxKey (coreKey t 0) 0, core := coreKey t 0, crew := some crew,
                            part := w.part, va := a, kind := .record crew }
        match ({ s with nextId := s.nextId + 1 } : State).parkReq field r with
        | .ok s => .wait s
        | .error _ => .skip s
      else .skip s

/-- The crew's tiles are freed; what they and the homes kept for it goes (R99, R275, R352 step 6). -/
def freeCrew (s : State) (crew : Nat) : State :=
  let s := (s.crewTiles crew).foldl (fun s t =>
    let s := (s.dropStaging t).modSite (s.siteOf t) (fun x => { x with logB := 0 })
    let s := s.modSite (s.siteOf (s.partnerOf t)) (fun x => { x with repB := 0, keepv := false, sk0 := none, sk1 := none })
    s.modTile t (fun i => { i with crew := none, recv := [], adoptAt := none, stall := none, halted := false, capture := 0,
                                   vview := {}, wd := 0 })) s
  let s := (List.range 24).foldl (fun s h =>
    (s.setHome h (let m := s.home h; { m with crews := Tbl.del m.crews crew })).freeCopies h) s
  let p := (s.crew crew).part
  let s := s.setPart p (let q := s.part p; { q with dedup := q.dedup.filter (fun e => e.1 != crew) })
  s.setCrew crew {}

/-- Steps 4 to 6 of R352, as far as they go. -/
def endTask (s : State) (crew : Nat) : State :=
  let w := s.crew crew
  let first : Bool × State :=
    if w.endStep ≠ 2 then (true, s)
    else match s.endWrite crew w.blk.record 64 with
      | .done pa s => (true, (s.writePa pa (s.recordBytes crew)).modCrew crew (fun w => { w with endStep := 3 }))
      | .skip s => (true, (s.countPart2 w.part 0).modCrew crew (fun w => { w with endStep := 3 }))
      | .wait s => (false, s)
  if !first.1 then first.2
  else match first.2.endWrite crew w.blk.knot 32 with
    | .wait s => s
    | .skip s => (s.countPart2 w.part 32).freeCrew crew
    | .done pa s =>
      let o := (Knot.ofBytes (s.readPa pa 32)).apply (.done (endStatus w))
      ((s.writePa pa o.cell.bytes).knotEffects w.part (.far w.blk.knot) o).freeCrew crew

/-- A crew that is ended before its contexts have retired: they go, with its commands and packets (R344, R426, R429). -/
def stripCrew (s : State) (crew : Nat) : State :=
  let ks := (s.ctxs.filter (fun e => e.2.crew == some crew)).map Prod.fst
  let s := ks.foldl (fun s k =>
    let s := (s.dropWatches k).leaveAll k
    let s := match s.slotOf k with
      | some j => s.clearSlot (coreOfCtx k) j
      | none => s
    s.setCtx k {}) s
  let s := (s.crewCores crew).foldl (fun s c => s.modCore c (fun k => { k with
    uq := [], tq := [], runs := [], mq := [], mtq := [], mrun := none, outs := [], pbuf := []
    swaps := (k.swaps.map (fun w => { w with out := w.out.filter (!ks.contains ·), inn := w.inn.filter (!ks.contains ·) })).filter (fun w =>
      w.out.isSome || w.inn.isSome)
    trapq := k.trapq.filter (fun r => !ks.contains r.ctx) })) s
  let s := s.modTiles crew (fun t => { t with retx := [], rsvd := [] })
  let gone (r : FarReq) : Bool := r.crew == some crew
  let s : State := { s with
    net := s.net.filter (fun p => !(s.inCrew crew p.src || ks.contains p.ctx) || (match p.body with | .log .. | .logAck _ => true | _ => false))
    peers := s.peers.filter (fun r => !gone r.2)
    gws := s.gws.map (fun g => (g.1, { g.2 with walks := g.2.walks.filter (fun w => !gone w.req), park := g.2.park.filter (fun r => !gone r.2) }))
    homes := s.homes.map (fun h => (h.1, { h.2 with waiting := h.2.waiting.filter (fun r => !gone r.1) })) }
  s.modCrew crew (fun w => { w with dyn := { w.dyn with waitq := [] }, endStep := 1 })

end State

/-- TASK_END: after its final close and its last acknowledgement a task's versions are settled, its record and knot written
and its tiles freed (R349, R352, R378). -/
def execTaskEnd (crew : Nat) (s : State) : Ans :=
  let w := s.crew crew
  if !w.live then .next s
  else match w.st with
    | .ended => .next (s.endTask crew)
    | .ending => .next ((((s.stripCrew crew).endVersions crew).modCrew crew (fun w => { w with st := .ended, endStep := 2 })).endTask crew)
    | .running =>
      if w.endStep = 1 && s.taskOver crew && s.quiet crew && w.closing.isNone && !atReplay w (s.tile w.t0).vcc then
        .next (((s.endVersions crew).modCrew crew (fun w => { w with st := .ended, endStep := 2 })).endTask crew)
      else .next s
    | _ => .next s

namespace State

/-- A block that could not be read: LOST is set and the drop counted (R354). -/
def lostBlock (s : State) (part : Nat) (p : Place) : State :=
  let lost (b : Byte) : Byte := b ||| 4
  let s := match p with
    | .vault l => s.writeLoc { l with off := l.off + 5 } [lost ((s.readLoc { l with off := l.off + 5 } 1).headD 0)]
    | .far va => match s.plainPlace (s.partField part) part va 32 with
      | (.ok pa, s) => s.writePa (pa + 5) [lost ((s.readPa (pa + 5) 1).headD 0)]
      | (.error _, s) => s
  s.countPart part 0

end State

/-- HELD_BLOCK_POST: the first block that a fired knot posts is read and enters the queue, its chain following; one that
finds the queue full waits in order (R354). -/
def execHeldBlockPost (part : Nat) (s : State) : Ans :=
  let q := s.part part
  match q.held with
  | bs :: rest =>
    if 1024 ≤ q.queue.length then .next s
    else .next ((s.setPart part { q with held := rest }).post part (blockOf bs)).2
  | [] => match q.heldAddr with
    | [] => .next (s.feedLaunch part)
    | (a, chain, p) :: rest =>
      match s.readAny (s.partField part) part a 256 with
      | (none, s) => .next ((s.setPart part { q with heldAddr := rest }).lostBlock part p)
      | (some bs, s) =>
        let next := (blockOf bs).next
        let more := if chain && next != 0 then [(next, true, p)] else []
        let q : Part := { s.part part with heldAddr := more ++ rest }
        if 1024 ≤ q.queue.length then .next (s.setPart part { q with held := q.held ++ [bs] })
        else .next ((s.setPart part q).post part (blockOf bs)).2

end Sys2Proof.Machine
end

