-- ==== Sys2Proof/Machine/Window.lean ====
section
/-! DEFINITION. The trap window (R394, R395): reading and writing the frame of a frozen or held context and the shared registers
of a core. -/

namespace Sys2Proof.Machine

namespace State

/-- The context that a KIND 0 or KIND 1 address names (R394). -/
def winCtx (s : State) (a : Word) : Option Nat :=
  if winKind a == 0 then s.inSlot (winCore a) (winIndex a)
  else
    let k := ctxKey (winCore a) (winIndex a)
    if (s.ctx k).used then some k else none

/-- The frame of a context as it stands: what has been changed in the saved bytes counts (R395). -/
def frameNow (s : State) (k : Nat) : List Byte :=
  let c := s.ctx k
  let now := s.frameBytes k
  if c.frame.isEmpty || (s.slotOf k).isSome then now else mergeFrame c.frame (s.readLoc (frameLoc k) 0xA00) now

/-- The shared-register map (R394). -/
def sharedBytes (c : Core) : List Byte :=
  (List.range 32).flatMap (fun i => leBytes 8 (Tbl.get 0 c.k i).toNat)
    ++ (List.range 30).flatMap (fun i => leBytes 64 (Tbl.get 0 c.w i).toNat)

end State

/-- Bytes of a list, zero past its end. -/
def sliceZ (bs : List Byte) (at_ n : Nat) : List Byte := (List.range n).map (fun i => bs.getD (at_ + i) 0)

/-- A list of bytes with the enabled bytes of a value written at an offset. -/
def patch (bs : List Byte) (at_ : Nat) (en : BitVec 64) (v : BitVec 512) : List Byte :=
  bs.mapIdx (fun i b => if at_ ≤ i ∧ i < at_ + 64 ∧ en.getLsbD (i - at_) = true then byteOf v (i - at_) else b)

/-- Whether a write touches a byte of a range. -/
def touches (at_ : Nat) (en : BitVec 64) (lo n : Nat) : Bool :=
  (List.range 64).any (fun i => en.getLsbD i && decide (lo ≤ at_ + i) && decide (at_ + i < lo + n))

namespace State

/-- A context with a window write at an offset of its frame, by a writer of a level (R395). -/
def frameWrite (s : State) (k at_ : Nat) (en : BitVec 64) (v : BitVec 512) (level : BitVec 2) : Ctx :=
  let c := s.ctx k
  let bs := patch (s.frameNow k) at_ en v
  -- a write to the extension sets the source byte to 0xFF
  let bs := bs.mapIdx (fun i b =>
    if 0x938 ≤ i ∧ i < 0x940 ∧ touches at_ en (0x940 + 24 * (i - 0x938)) 24 = true then 0xFF else b)
  let w := word64 bs 0
  let lvl : BitVec 2 := w.extractLsb' 37 2
  let c' := s.withFrame k c bs (if lvl.toNat ≤ level.toNat then lvl else c.lvl)
  let kept (i : Nat) : Bool := !touches at_ en (0x938 + i) 1 && !touches at_ en (0x940 + 24 * i) 24
  { c' with
    rdy := if touches at_ en 0 8 then w.getLsbD 36 else c.rdy
    fresh := c.fresh && !touches at_ en 0x900 24
    sg := (List.range 8).foldl (fun t i => if kept i then Tbl.set {} t i (Tbl.get {} c.sg i) else t) c'.sg }

/-- A window write lands: in the context, and in its frame area when it is outside a slot; or in the shared registers, over
every slot's result (R179, R394, R395). -/
def winWrite (s : State) (a : Word) (en : BitVec 64) (v : BitVec 512) (level : BitVec 2) : State :=
  if winKind a == 2 then
    let bs := patch (sharedBytes (s.core (winCore a))) (winOff a) en v
    s.modCore (winCore a) (fun c => { c with
      k := (List.range 32).foldl (fun t i => Tbl.set 0 t i (word64 bs (8 * i))) c.k
      w := (List.range 30).foldl (fun t i => Tbl.set 0 t i (BitVec.ofNat 512 (leNat (slice bs (0x100 + 64 * i) 64)))) c.w })
  else match s.winCtx a with
    | none => s
    | some k =>
      let s1 := s.setCtx k (s.frameWrite k (winOff a) en v level)
      if (s.slotOf k).isSome then s1 else s1.saveFrame k

/-- A window read of n bytes (R394). -/
def winRead (s : State) (a : Word) (n : Nat) : List Byte :=
  if winKind a == 2 then sliceZ (sharedBytes (s.core (winCore a))) (winOff a) n
  else match s.winCtx a with
    | some k => sliceZ (s.frameNow k) (winOff a) n
    | none => (List.range n).map (fun _ => 0)

/-- Whether an access is refused: its context is neither frozen nor held (R394). -/
def winRefused (s : State) (a : Word) : Bool :=
  winKind a != 2 && (match s.winCtx a with
    | some k => !(s.ctx k).frz && !(s.ctx k).held
    | none => true)

/-- A write through the window, with its log record where it reaches a crew's state (R397). -/
def winStore (s : State) (a : Word) (en : BitVec 64) (v : BitVec 512) (level : BitVec 2) : State :=
  let crews := winKind a == 2 || (match s.winCtx a with | some k => (s.ctx k).crew.isSome | none => false)
  let s1 := s.winWrite a en v level
  if crews then s1.logEv (globalTile a) (.window a en v level) 80 else s1

end State

end Sys2Proof.Machine
end

