-- ==== Sys2Proof/Machine/Replay.lean ====
section
/-! DEFINITION. Replay and rollback: applying the crew log (R397, R421, R430), the end of a cut (R418, R419), and the return of a
crew to its last committed cut (R428 step 7). -/

namespace Sys2Proof.Machine

/-- The event of a record comes again by itself in a replay; a tile waits for it at its vc (R430). -/
def regenerated (e : LogEv) : Bool :=
  match e with
  | .message _ _ outside => !outside
  | .farReply .. | .engine .. | .hopIn _ | .swap .. | .order .. | .bank .. | .handoff .. | .join _ | .created _ | .recruits .. | .launch .. | .posted .. | .answer .. => true
  | .wake _ code => code == 0x08 || code == 0x09 || code == 0x0A || code == 0x0D
  | _ => false

namespace State

/-- A message from outside the crew lands from the log (R278, R430). -/
def landLogged (s : State) (t : Nat) (h : MsgHdr) (data : List Byte) : State :=
  let s := if (s.tile t).recv.any (fun e => e.isFor h) then s else s.modTile t (fun i => { i with recv := i.recv ++
    [{ waf := h.swaf, tile := h.stile, core := h.score, chan := h.schan, task := h.stask.toNat, part := h.part, ibx := h.ibx.toNat,
       exp := h.seq }] })
  let x := s.inbox t h.ibx.toNat
  let entry := ibxEntry t x ((s.ibxCounts t x).tail % ibxRing x)
  ((s.writeLoc entry (h.bytes ++ data)).landMsg t x h).expNext t h

/-- A logged return from a trap (R397, R408). -/
def returnLogged (s : State) (k form : Nat) (v : Word) : State :=
  let f := (s.ctx k).s
  if form = 0 then s.returnTo k f
  else if form = 1 then s.returnTo k ⟨f.npc, f.nnpc, v, 0#1 ++ f.nul.extractLsb' 1 1⟩
  else s.retire k v

/-- A logged wake is made at its vc (R402, R421). -/
def wakeLogged (s : State) (k : Nat) (code : BitVec 6) : Option State :=
  if code.toNat != (s.ctx k).wait.code then none
  else match (s.ctx k).wait with
  | .sleep d _ => some (s.completeX k d 1 2)
  | .knotWait => some ((s.modCtx k (fun c => { c with rdy := true })).reissue k)
  | .ibpop _ | .link _ => some (s.reissue k)
  | .drain _ | .drainBank .. => if s.drainOver k then some (s.complete k) else none
  | .parkedBarw _ | .parkedAmo | .fetch _ => if s.parkingOver k then some (s.unpark k) else none
  | _ => none

/-- What a record brings about by itself, from the log alone (R397, R421, R430). -/
def applyLogged (s : State) (crew : Nat) (r : LogRec) : Option State :=
  match r.ev with
  | .message h data true => some (s.landLogged r.tile h data)
  | .window a en v level =>
    some (if spaceOf a == 1 then (s.writeEn (globalLoc a) 64 en v).watchWake (globalLoc a) 64 en else s.winWrite a en v level)
  | .ret k form v => if (s.ctx k).frz then some (s.returnLogged k form v) else none
  | .wake k code => s.wakeLogged k code
  | .answer k v => match (s.ctx k).wait with
    | .version d => if (s.ctx k).asked.isNone then some ((s.completeX k d v 2).refreshView crew) else none
    | .blayW d _ => some (s.completeX k d v 2)
    | _ => none
  | .created q => match (s.crew crew).dyn.waitq.find? (fun x => x.1 == q) with
    | some x => if (s.freeNum (placeCore (s.crew crew) q)).isSome then some (s.dealFrom crew x) else none
    | none => none
  | .launch k v => match (s.ctx k).wait with
    | .launch d _ => some ((s.countLaunch k v).completeX k d v 2)
    | _ => none
  | _ => none

/-- The records due at a tile, in order, until one that the tile must wait for. -/
def replayDue (s : State) (fuel t crew : Nat) : State :=
  match fuel with
  | 0 => s
  | fuel + 1 =>
    let next := (s.crew crew).redo.zipIdx.find? (fun r => r.1.tile == t && decide (r.1.vc ≤ (s.tile t).vcc)
      && (regenerated r.1.ev || (s.applyLogged crew r.1).isSome))
    match next with
    | none => s
    | some (r, i) =>
      let s' := s.modCrew crew (fun w => { w with redo := w.redo.eraseIdx i })
      match s'.applyLogged crew r with
      | some s2 => s2.replayDue fuel t crew
      | none => s

/-- A replaying tile applies what its log holds for its vc. -/
def replayTile (s : State) (t : Nat) : State :=
  match (s.tile t).crew with
  | none => s
  | some c => if s.replaying t then s.replayDue (s.crew c).redo.length t c else s

/-- A regenerated event that the log holds for a tile's vc, or an earlier one, has not come, or a flit of a static route that landed in
time in the first run (R267, R430). -/
def redoWaits (s : State) (t : Nat) : Bool :=
  s.replaying t && (match (s.tile t).crew with
    | none => false
    | some c => (s.crew c).redo.any (fun r => r.tile == t && regenerated r.ev && decide (r.vc ≤ (s.tile t).vcc))
      || s.net.any (fun p => match p.body with
        | .route ((l, _) :: _) _ _ _ due => l.tile == t && decide (due ≤ 2 * (s.tile t).vcc + 1) && !s.lateLogged l due
        | _ => false))

/-- The place in the keep of a site where line l of the partner's banks 0-55 lies (R414). -/
def keepKey (site l : Nat) : Nat := vaultKey site (56 + l / 2048) (l % 2048 * 64)

/-- A cut that fails before its commit decision: its staging is discarded, the lines are dirty again (R419). -/
def failCut (s : State) (crew : Nat) : State :=
  let s := (s.crewTiles crew).foldl (fun s t =>
    let staged := (s.site (s.siteOf (s.partnerOf t))).rope.map Prod.fst
    let s := s.modSite (s.siteOf t) (fun x => { x with dirty := (x.dirty ++ x.cutset ++ staged).eraseDups })
    s.dropStaging t) s
  (s.modCrew crew (fun w => { w with cut := none })).updateRefs crew

/-- One partner applies a committed cut: staged lines into the keep, the new state slot, the log below the cut (R418). -/
def applyTile (s : State) (crew t c : Nat) : State :=
  let pu := s.siteOf (s.partnerOf t)
  let rope := (s.site pu).rope
  let s : State := { s with mem := rope.foldl (fun m x => memWriteN m (keepKey pu x.1) (bytesOfVec 64 x.2)) s.mem }
  let s := s.modSite pu (fun x => { x with rope := [], skc := !x.skc, keepv := true })
  let s := s.modSite (s.siteOf t) (fun x => { x with cap := none, cutset := [], cutCap := false })
  let gone (r : LogRec) : Bool := r.tile == t && decide (r.vc < c)
  let s := s.modCrew crew (fun w => { w with
    log := w.log.filter (fun r => !gone r), redo := w.redo.filter (fun r => !gone r)
    cut := w.cut.map (fun x => { x with applied := x.applied ++ [t] }) })
  s.setLogShare crew t

/-- The notices of a committed cut: to every far home, and to the set's home (R102, R373, R378). -/
def commitNotices (s : State) (crew : Nat) (cut : Cut) : State :=
  let t0 := (s.crew crew).t0
  let s := (List.range 24).foldl (fun s h =>
    s.sendTo t0 (gwSite (fieldOfHome h)) 0 0 0 (.commitPsn h crew (Tbl.get 0 cut.dyn.adopted h))) s
  match (s.crew crew).boundSet with
  | some v => s.sendTo t0 (versionHome v) 0 0 0 (.version v crew (.commit cut.vc))
  | none => s

/-- The committed image of a tile, in its partner's state store (R414). -/
def committedImage (s : State) (t : Nat) : Option Image :=
  let p := s.site (s.siteOf (s.partnerOf t))
  if p.skc then p.sk1 else p.sk0

/-- How many rc a tile slacks at its image's vc before its slots have the turns they had at the cut (R332, R430). -/
def turnSlack (s : State) (t : Nat) : Nat :=
  match s.committedImage t with
  | some im => (im.turn + 16 - s.rcOf t % 16) % 16
  | none => 0

/-- BLAY.w of a crew that waits for a cut above `lo` returns when the cut at `v` is committed; the answer is logged, and a replay
repeats it at its vc; what is committed in a replay returns at its end (R421, R430, R436). -/
def endBlay (s : State) (crew lo v : Nat) : State :=
  (s.waiters (fun w => match w with | .blayW _ c => decide (lo < c.toNat) && decide (c.toNat ≤ v) | _ => false)).foldl (fun s k =>
    match (s.ctx k).wait with
    | .blayW d _ =>
      let x : Word := BitVec.ofNat 64 v
      if (s.ctx k).crew != some crew then s
      else if s.replaying (tileOfCtx k) then s.modCtx k (fun c => { c with wait := .blayW d x })
      else (s.completeX k d x 2).logEv (tileOfCtx k) (.answer k x) 16
    | _ => s) s

/-- The vcs that BLAY.w of a crew waits for and that its last committed cut has reached. -/
def blayDue (s : State) (crew : Nat) : List Nat :=
  (s.waiters (fun w => match w with | .blayW .. => true | _ => false)).filterMap (fun k => match (s.ctx k).wait with
    | .blayW _ c => if (s.ctx k).crew == some crew && decide (c.toNat ≤ (s.crew crew).lastC.getD 0) then some c.toNat else none
    | _ => none)

/-- Every partner has applied a cut: it is the rollback target, BLAY.w returns, the launch cut lets the crew run (R415, R418,
R434, R436). -/
def finishCut (s : State) (crew : Nat) (cut : Cut) : State :=
  let before := (s.crew crew).lastC.getD 0
  let at_ (d : CrewDyn) : CrewDyn := { d with cand := cut.cand, cpvr := cut.pvr, committed := cut.dyn.adopted }
  let s := s.modCrew crew (fun w => { w with
    saved := some (at_ cut.dyn), dyn := at_ w.dyn, lastC := some cut.vc, ncut := if cut.launch then w.ncut else w.ncut + 1
    cut := none, st := if cut.launch then .running else w.st
    deepHold := w.deepHold || atStop cut.vc w.deepCut })
  let s := s.commitNotices crew cut
  let s := s.endBlay crew before cut.vc
  let s := if cut.launch then
      let s := (s.crewTiles crew).foldl (fun s t => s.modTile t (fun i => { i with capture := max i.capture (s.turnSlack t) })) s
      (s.arriveEmpty crew).settleClose crew
    else s
  s.updateRefs crew

/-- A cut whose commit is decided is applied to the end; any other fails (R419). -/
def closeCut (s : State) (crew : Nat) : State :=
  match (s.crew crew).cut with
  | none => s
  | some c =>
    if c.decided then
      (((s.crewTiles crew).filter (fun t => !c.applied.contains t)).foldl (fun s t => s.applyTile crew t c.vc) s).finishCut crew c
    else s.failCut crew

/-- A context of no crew on a tile: a rollback leaves it as it is (R397). -/
def isSteward (s : State) (k : Nat) : Bool := (s.ctx k).used && (s.ctx k).crew.isNone

/-- A core as its image has it; contexts of no crew keep what is theirs (R397, R420). -/
def restoredCore (s : State) (crew core : Nat) (im : Core) (old : Tbl Ctx) : Core :=
  let c := s.core core
  let key (n : Nat) : Nat := ctxKey core (n - 1)
  let crewWas (k : Nat) : Bool := (Tbl.get {} old k).crew == some crew
  let cmds (a b : List Cmd) : List Cmd := a.filter (fun q => q.crew == some crew) ++ b.filter (fun q => q.crew != some crew)
  let ops (a b : List MOp) : List MOp := a.filter (fun q => q.crew == some crew) ++ b.filter (fun q => q.crew != some crew)
  let slot (j : Nat) : Nat :=
    let n := Tbl.get 0 im.slots j
    let m := Tbl.get 0 c.slots j
    if n != 0 && crewWas (key n) then n else if m != 0 && s.isSteward (key m) then m else 0
  let swaps := (im.swaps.map (fun w => { w with out := w.out.filter crewWas, inn := w.inn.filter crewWas })).filter (fun w =>
    w.out.isSome || w.inn.isSome)
  { landShared im (2 ^ 64) with
    uq := cmds im.uq c.uq, tq := cmds im.tq c.tq
    runs := im.runs.filter (fun r => r.cmd.crew == some crew) ++ c.runs.filter (fun r => r.cmd.crew != some crew)
    mq := ops im.mq c.mq, mtq := ops im.mtq c.mtq
    mrun := (ops im.mrun.toList c.mrun.toList).head?
    outs := im.outs.filter (fun o => !s.isSteward o.ctx) ++ c.outs.filter (fun o => s.isSteward o.ctx)
    slots := (List.range 16).foldl (fun t j => Tbl.set 0 t j (slot j)) []
    swaps := swaps ++ c.swaps.filter (fun w => (w.out.toList ++ w.inn.toList).all s.isSteward && slot w.slot == 0
      && swaps.all (fun v => v.slot != w.slot))
    trapq := c.trapq, handler := c.handler, ic := c.ic
    displaced := Tbl.setAll 0 (im.displaced.filter (fun e => crewWas (key e.2))) (c.displaced.filter (fun e => s.isSteward (key e.2)))
    vmul := c.vmul, turnAt := c.turnAt
    decideAt := c.decideAt, stop0 := c.stop0, stop1 := c.stop1, stop2 := c.stop2 }

/-- The contexts of the crew on a tile as the image has them; a context of no crew that has taken such a number since gets
another. -/
def restoreCtxs (s : State) (crew t : Nat) (im : Tbl Ctx) : State :=
  let s : State := { s with ctxs := s.ctxs.filter (fun e => !(tileOfCtx e.1 == t && e.2.crew == some crew)) }
  (im.filter (fun e => e.2.crew == some crew)).foldl (fun s e =>
    let free := (List.range 64).find? (fun n =>
      let k := ctxKey (coreOfCtx e.1) n
      !(s.ctx k).used && !(Tbl.get {} im k).used)
    let s := match (s.ctx e.1).used, free with
      | true, some n => s.renumber e.1 (ctxKey (coreOfCtx e.1) n)
      | _, _ => s
    s.setCtx e.1 e.2) s

/-- A tile reads back its lines and its state slot (R428 step 7). -/
def restoreTile (s : State) (crew t : Nat) : State :=
  match s.committedImage t with
  | none => s
  | some im =>
    let site := s.siteOf t
    let s : State := { s with mem := memCopy s.mem (vaultKey (s.siteOf (s.partnerOf t)) 56 0) (vaultKey site 0 0) (56 * 2 ^ 17) }
    let s := s.modSite site (fun x => { x with dirty := [], cutset := [], cutCap := false, cap := none })
    let s := s.restoreCtxs crew t im.ctxs
    -- saved frames of contexts of no crew stay as they are
    let s := (s.tileCtxs t).foldl (fun s e =>
      if e.2.crew.isNone && !e.2.frame.isEmpty then s.writeLoc (frameLoc e.1) e.2.frame else s) s
    let s := im.cores.zipIdx.foldl (fun s c =>
      s.setCore (coreKey t c.2) (s.restoredCore crew (coreKey t c.2) c.1 im.ctxs)) s
    s.modTile t (fun i => { im.tile with
      routes := i.routes, pairR := i.pairR, spb := i.spb, bankUse := i.bankUse, halted := false, capture := s.turnSlack t, wd := 0 })

/-- A packet of a tile as it enters the mesh again: from the tile's own router, past the site it has left. -/
def reenter (s : State) (t old new : Nat) (p : Pkt) : Pkt :=
  let f (n : Nat) : Nat := if n == old then new else n
  let pos := if p.src == t then s.siteOf t else f p.pos
  { p with pos, dst := f p.dst, here := 2 * (s.site pos).ctr, at_ := 2 * (s.site (f p.dst)).ctr, inj := p.src != t }

/-- The packets and far requests that were under way at the cut go on again (R420); a request that was parked is parked no longer, and its
barrier says so until it parks again (R127). -/
def restoreTraffic (s : State) (crew t old new : Nat) : State :=
  match s.committedImage t with
  | none => s
  | some im =>
    let s : State := { s with net := s.net ++ (im.pkts.filter (fun p => (Tbl.get {} im.ctxs p.ctx).crew.isSome
      || !(Tbl.get {} im.ctxs p.ctx).used)).map (s.reenter t old new) }
    (im.reqs.filter (fun r => r.crew == some crew)).foldl (fun s r =>
      ((s.sendTo t (gwSite (fieldOf (s.siteOf t))) 0 r.ctx (streamOf 4 r.core) (.far { r with home := none, port := none, bar := none })).unparkBar
        r.bar)) s

/-- The records of traps frozen at the cut are queued again; those of later traps are gone, and a claim of one of them ends
(R397). -/
def restoreRecords (s : State) (t : Nat) : State :=
  match s.committedImage t with
  | none => s
  | some im => im.recs.foldl (fun s r =>
      if (Tbl.get {} im.ctxs r.2.ctx).frz && (Tbl.get {} im.ctxs r.2.ctx).crew.isSome && !s.retLogged r.2.ctx then
        s.send t (tileOfCore r.1) 2 r.2.ctx (streamOf 1 (coreOfCtx r.2.ctx)) (.trap r.1 { r.2 with claimed := false })
      else s) s

/-- What a crew has in the mesh, the gateways, the homes and the trap queues is withdrawn. -/
def withdraw (s : State) (crew : Nat) : State :=
  let ks := (s.ctxs.filter (fun e => e.2.crew == some crew)).map Prod.fst
  let tiles := s.crewTiles crew
  let own (p : Pkt) : Bool := !s.isSteward p.ctx && tiles.any (fun t => isOwn t p)
    || (match p.body with | .trap .. => ks.contains p.ctx | _ => false)
  let gone (r : FarReq) : Bool := r.crew == some crew && (match r.kind with | .record _ => false | _ => true)
  let s : State := { s with
    net := s.net.filter (fun p => !own p)
    peers := s.peers.filter (fun r => !gone r.2)
    gws := s.gws.map (fun g => (g.1, { g.2 with walks := g.2.walks.filter (fun w => !gone w.req), park := g.2.park.filter (fun r => !gone r.2) }))
    homes := s.homes.map (fun h => (h.1, { h.2 with waiting := h.2.waiting.filter (fun r => !gone r.1) })) }
  let claims := s.cores.flatMap (fun e => (e.2.trapq.filter (fun r => ks.contains r.ctx && r.claimed)).map (fun r => (e.1, r.entry)))
  let s : State := { s with cores := s.cores.map (fun e => (e.1, { e.2 with trapq := e.2.trapq.filter (fun r => !ks.contains r.ctx) })) }
  { s with ctxs := s.ctxs.map (fun e =>
      if e.2.rcv && claims.contains (coreOfCtx e.1, e.2.ridx) then (e.1, { e.2 with rcv := false }) else e) }

/-- Regular cut vcs between two vcs (R415). -/
def regularCuts (w : Crew) (lo hi : Nat) : List Nat :=
  let n := 2 ^ w.blk.belay
  ((List.range ((hi - lo) / n + 1)).map (fun i => nextRegular w lo + i * n)).filter (fun c => decide (c < hi))

/-- A crew goes back to its last committed cut and replays up to H (R428 steps 7 and 8, R430); `old` and `new` are the sites of a
tile that has moved. -/
def rollBack (s : State) (crew H old new : Nat) : State :=
  match (s.crew crew).saved, (s.crew crew).lastC with
  | some dyn, some c =>
    let s := s.withdraw crew
    let s := (s.crewTiles crew).foldl (fun s t => s.restoreTile crew t) s
    let s := s.modCrew crew (fun w => { w with
      dyn, closing := none, closeOn := false, closeLines := [], cut := none, redo := w.log, replayTo := some H, haltDone := false, frozen := false
      endStep := 0
      cuts := (w.log.filterMap (fun r => match r.ev with | .cut _ => if c < r.vc then some r.vc else none | _ => none)
        ++ regularCuts w c H).eraseDups })
    let s := (s.crewTiles crew).foldl (fun s t => (s.restoreTraffic crew t old new).restoreRecords t) s
    let s := (List.range 24).foldl (fun s h => s.setHome h (let m := s.home h;
      { m with crews := Tbl.put m.crews crew (Tbl.get 0 dyn.adopted h, ((Tbl.find m.crews crew).getD (0, 0)).2) })) s
    let s := match (s.crew crew).boundSet with
      | some v => ((s.clearMarks crew v c).refreshView crew).updateRefs crew
      | none => s
    (s.arriveEmpty crew).settleClose crew
  | _, _ => s

/-- The vc at which a crew that the splice engine stops is to halt: the horizon, or the end of an earlier replay or stop that it
has still to reach (R399, R431). -/
def stopVc (s : State) (crew : Nat) : Nat := max (s.horizon crew) (((s.crew crew).replayTo.or (s.crew crew).haltAt).getD 0)

/-- The records of splice steps (R465). -/
def spliceRecords (s : State) (site : Nat) (steps : List Nat) : State :=
  steps.foldl (fun s n => s.errorRecord 5 0 site 0xFF 0 n (s.siteVc site)) s

/-- A task placed again from its launch block: its tiles are freed and it is queued as it was posted (R415). -/
def requeue (s : State) (crew : Nat) : State :=
  let w := s.crew crew
  let s := s.stripCrew crew
  let s := match w.boundSet with | some v => s.setRefs crew v [] | none => s
  let s := s.freeCrew crew
  s.setPart w.part (let p := s.part w.part; { p with queue := { task := w.task, blk := w.blk, since := w.since } :: p.queue })

/-- ROLLBACK_IN_PLACE: the splice sequence without fence, spare, keeps and rebind; a crew whose launch cut has not committed is
placed again (R415, R426). -/
def rollBackInPlace (s : State) (crew site : Nat) : State :=
  let s := s.closeCut crew
  if (s.crew crew).lastC.isNone then s.requeue crew
  else (s.rollBack crew (s.stopVc crew) 0 0).spliceRecords site [3, 7, 8]

end State

end Sys2Proof.Machine
end

