-- ==== Sys2Proof/Machine/EvBelay.lean ====
section
/-! DEFINITION. Belay and splice events: the VCC (R340-R344), cuts (R415-R419, R423), the watchdog (R425), machine checks and
splices (R426-R429), the end of a replay (R431, R432), halts (R399, R400), reconfiguration (R413, R433) and deep belay (R434). -/

namespace Sys2Proof.Machine

namespace State

/-- Router cycle g has come at a vc. -/
def cycleDue (v g : Nat) : Bool := decide (g ≤ 2 * v + 1)

/-- Work of a core that falls due at a vc and is not done: queued timed commands (R130), cycles of an exact COPY, lines of an
MMAT and completions of the matrix engine (R240). -/
def coreWork (c : Core) (v : Nat) : Bool :=
  c.tq.any (fun q => match q.start with | some x => decide (x ≤ v) | none => false)
    || c.runs.any (fun r => r.cmd.exact && exactLeft r && cycleDue v (2 * r.cmd.start.getD 0 + r.made))
    || (match c.mrun with
      | some o => (match o.done with | some d => decide (d ≤ v) | none => false) || o.start.isSome && (match o.stages with
        | [] => false
        | ([], _) :: _ => true
        | _ => cycleDue v o.g)
      | none => false)

/-- What falls due at a tile's vc and has not come about: the tile does not leave the vc before (R130, R240, R284, R344,
R362); a flit that loses its cycles lands in a later one. -/
def vcWork (s : State) (t : Nat) : Bool :=
  let v := (s.tile t).vcc
  (List.range 4).any (fun c => coreWork (s.core (coreKey t c)) v)
    || (s.tileCtxs t).any (fun e => e.2.crew.isSome && (match e.2.wait with
      | .sleep _ x => x != 0 && decide (x.toNat ≤ v)
      | _ => false))
    || s.net.any (fun p => p.pos == p.dst && p.inj && p.dst == s.siteOf t && (match p.body with
      | .route bytes bar .. => bytes.all (fun b => s.asksFor t b.1.bank p && (s.useBank t b.1.bank).isSome)
          && !bar.any (fun b => s.linesHeld b 16)
      | _ => false))
    || decide (2 ^ 48 - 1 ≤ v)

/-- A check vc of the watchdog (R425). -/
def isCheckVc (w : Crew) (v : Nat) : Bool := decide (w.tstart ≤ v) && (v - w.tstart) % 4096 == 0

end State

/-- VCC_TICK: a tile's copy of the VCC advances by one, once in an rc, unless the tile slacks or its vc is not over (R6, R340, R341, R344); a replay
applies what its log holds for the new vc (R430); at a stop's vc the tile halts (R399). -/
def execVccTick (tile : Nat) (s : State) : Ans :=
  match (s.tile tile).crew with
  | none => .next s
  | some c =>
    let s := s.replayTile tile
    let w := s.crew c
    let v := (s.tile tile).vcc
    if mustHalt w v then .next (s.modTile tile (fun i => { i with halted := i.halted || w.st == .running }))
    else if s.slacks tile || s.vcWork tile || s.redoWaits tile || !s.turnsOver tile || (s.tile tile).vccAt == some (s.rcOf tile) then
      .next s
    else
      let s := s.modTile tile (fun i => { i with
        vcc := v + 1, vccAt := some (s.rcOf tile), wd := if State.isCheckVc w (v + 1) then 0 else i.wd, halted := mustHalt w (v + 1) && w.st == .running })
      .next ((s.replayTile tile).earlyCheck tile)

/-- A tile's copy of the VCC may stand in this rc: it slacks, or what falls due at its vc has still to come about (log entry 7). -/
def State.vcHeld (s : State) (t : Nat) : Bool := s.slacks t || s.vcWork t || s.redoWaits t

/-- An rc of a site is over: every core of its tile has had its turn, and its copy of the VCC has counted the rc or stands (R6, R340). -/
def State.rcOver (s : State) (site : Nat) : Bool :=
  match s.tileAt site with
  | none => true
  | some t => s.turnsOver t && ((s.tile t).vccAt == some (s.rcOf t) || s.vcHeld t)

/-- A site's counter goes on at 0: what was kept by it of links and packets begins again (R481). -/
def State.clockWraps (s : State) (site : Nat) : State :=
  { s.modSite site (fun n => { n with out3 := [], outLow := [], streamAt := 0, moved := 0 }) with
    net := s.net.map (fun p => { p with at_ := if p.dst == site then 0 else p.at_, here := if p.pos == site then 0 else p.here }) }

/-- SITE_COUNTER_TICK: the site's clock advances by one rc (R481): bank cycles are new, shared registers land (R178), a
capture goes on (R416), the watchdog counts (R425); the anchor's control site 0 carries the device time (R439).  An rc is over when every
core of the site's tile has had its turn and its vc, if it counts, has passed (R6, log entry 7). -/
def execSiteCounterTick (site : Nat) (s : State) : Ans :=
  let anchor := site == controlSite anchorField 0
  if !isSite site || !anchor && s.sys.rtime.toNat < (s.field (fieldOf site)).droop || !s.rcOver site then .next s
  else
    let s := s.modSite site (fun t => { t with ctr := (t.ctr + 1) % 2 ^ 48 })
    let rc := (s.site site).ctr
    let s := if rc = 0 then s.clockWraps site else s
    let s : State := if anchor then { s with sys := { s.sys with rtime := s.sys.rtime + 2 } } else s
    match s.tileAt site with
    | some t => .next (s.tickTile t rc)
    | none => .next s

namespace State

/-- A machine check of a crew has arisen and is not handled: no cut of the crew is taken or decided (R419). -/
def checked (s : State) (crew : Nat) : Bool :=
  let sites := (s.crewTiles crew).map s.siteOf
  s.checks.any (fun c => sites.contains c.1) || s.splices.any (fun n => sites.contains n) || s.rollbacks.contains crew

/-- A scheduled cut whose vc every tile has reached. -/
def reachedCut (s : State) (crew : Nat) : Option Nat := (s.crew crew).cuts.find? (fun c => s.allAt crew c)

end State

/-- BELAY_CUT: every tile of a crew stands at a cut vc, and the previous cut is applied: the crew's state is captured, and a
bound crew asks for its candidate (R377, R416, R418). -/
def execBelayCut (crew : Nat) (s : State) : Ans :=
  let w := s.crew crew
  if !w.live || w.st != .running || w.cut.isSome || s.checked crew then .next s
  else match s.reachedCut crew with
    | none => .next s
    | some c => .next (s.captureCrew crew c false)

namespace State

/-- The cut that a tile streams. -/
def streamCut (s : State) (t : Nat) : Option (Nat × Cut) :=
  match (s.tile t).crew with
  | none => none
  | some c => match (s.crew c).cut with
    | some x => if x.prepared.contains t || x.decided || (s.site (s.siteOf t)).fenced then none else some (c, x)
    | none => none

/-- Whether a write of a packet that stands at its place, or of a line that an engine of the tile moves, waits for a line (R417). -/
def landingWants (s : State) (t line : Nat) : Bool :=
  let here (l : Loc) (n : Nat) : Bool := l.tile == t && (linesAt l n).contains line
  s.net.any (fun p => p.pos == p.dst && p.inj && p.back.isNone && (match p.body with
    | .write l .. | .bari l .. | .amo l .. | .sch l .. | .knot l .. | .arrive l .. => here l 32
    | .mcast lines .. => (lines.head?).any (fun x => here x.1 1)
    | .route bytes .. => bytes.any (fun x => here x.1 1)
    | _ => false))
  || (List.range 4).any (fun c => (s.core (coreKey t c)).runs.any (fun r => r.bufs.any (fun b =>
      b.data.all Option.isSome && b.dst.any (fun d => match d with | .vault l => here l 1 | _ => false))))

/-- The line that a tile's stream sends next: of the cut set one that a write waits for, else the first (R417). -/
def nextLine (s : State) (t : Nat) : Option Nat :=
  let n := s.site (s.siteOf t)
  (n.cutset.find? (fun l => n.wanted.contains l || s.landingWants t l)).or n.cutset.head?

end State

/-- CUT_STREAM_LINE: one line of the cut set, of those first that writes wait for, then the state slot, goes to the partner, at most
one in a router cycle; a keep without an image takes them directly (R415, R417, R423). -/
def execCutStreamLine (tile : Nat) (s : State) : Ans :=
  match s.streamCut tile with
  | none => .next s
  | some _ =>
    let site := s.siteOf tile
    let pu := s.siteOf (s.partnerOf tile)
    match s.nextLine tile with
    | some l =>
      let loc : Loc := ⟨tile, l / 2048, l % 2048 * 64⟩
      if 2 * (s.site site).ctr + 1 < (s.site site).streamAt then .next s
      else match s.useBankAs 5 tile loc.bank with
      | none => .next s
      | some s =>
        let bs := s.readLoc loc 64
        let s := s.modSite site (fun n => { n with
          cutset := n.cutset.erase l, wanted := n.wanted.erase l, streamAt := max n.streamAt (2 * n.ctr) + 1 })
        let s : State := if (s.site pu).keepv then s.modSite pu (fun n => { n with rope := n.rope ++ [(l, vecOfBytes bs)] })
          else { s with mem := memWriteN s.mem (State.keepKey pu l) bs }
        .next (s.earlyCheck (s.partnerOf tile))
    | none =>
      if (s.site site).cutCap then .next s
      else
        let im := (s.site site).cap
        let s := s.modSite pu (fun n => if n.skc then { n with sk0 := im } else { n with sk1 := im })
        .next (s.modSite site (fun n => { n with cutCap := true }))

namespace State

/-- The far requests that have not been answered. -/
def openFar (s : State) : List Nat :=
  s.net.filterMap (fun p => match p.body with | .far r | .home r .. | .reply r .. => some r.id | _ => none)
    ++ (s.gws.flatMap (fun g => g.2.walks.map (fun w => w.req.id) ++ g.2.park.map (fun r => r.2.id)))
    ++ s.homes.flatMap (fun h => h.2.waiting.map (fun r => r.1.id)) ++ s.peers.map (fun r => r.2.id)

/-- The far writes and the commands that write far memory of an image (R378). -/
def imageWrites (im : Image) : List Nat × List Nat :=
  let ids := (im.pkts.filterMap (fun p => match p.body with | .far r | .home r .. | .reply r .. => some r | _ => none) ++ im.reqs).filterMap
    (fun r => match r.kind with | .write .. => some r.id | _ => none)
  (ids, im.cores.flatMap (fun c => ((c.runs.map Run.cmd ++ c.uq ++ c.tq).filter writesFar).map Cmd.id))

/-- A crew has a publish marked before a vc, at its set's home or on the way there (R378). -/
def publishMarked (s : State) (crew vc : Nat) : Bool :=
  match (s.crew crew).boundSet with
  | none => false
  | some v => (List.range 4).any (fun i => let x := Tbl.get {} (s.vset v).slots i; x.pnd == 1 && ownSlot (s.crew crew) x)
      || s.net.any (fun p => match p.body with
        | .version v' c (.mark pnd _ at_) => v' == v && c == crew && pnd == 1 && decide (at_ < vc)
        | _ => false)

/-- Every far write issued before the cut has been acknowledged. -/
def writesAcked (s : State) (t : Nat) (im : Option Image) : Bool :=
  match im with
  | none => true
  | some im =>
    let (ids, cmds) := imageWrites im
    let now := (List.range 4).flatMap (fun c => let k := s.core (coreKey t c); (k.runs.map Run.cmd ++ k.uq ++ k.tq).map Cmd.id)
    ids.all (fun i => !s.openFar.contains i) && cmds.all (fun i => !now.contains i)

end State

/-- CUT_PREPARED: the partner has acknowledged a tile's whole stream, and a marked publish has its far writes acknowledged
(R418). -/
def execCutPrepared (tile : Nat) (s : State) : Ans :=
  match s.streamCut tile with
  | none => .next s
  | some (crew, c) =>
    let n := s.site (s.siteOf tile)
    if !n.cutset.isEmpty || !n.cutCap || s.publishMarked crew c.vc && !s.writesAcked tile n.cap then .next s
    else .next (s.modCrew crew (fun w => { w with cut := w.cut.map (fun c => { c with prepared := c.prepared ++ [tile] }) }))

/-- COMMIT_DECISION: every tile is prepared: the decision is logged; a cut that finds a context spilled fails, and the crew goes
back to the cut before (R403, R418, R419). -/
def execCommitDecision (crew : Nat) (s : State) : Ans :=
  match (s.crew crew).cut with
  | none => .next s
  | some c =>
    if c.decided || s.checked crew || !(s.crewTiles crew).all (fun t => c.prepared.contains t) then .next s
    else if s.ctxs.any (fun e => decide (spillBase ≤ e.1) && e.2.used && e.2.crew == some crew) then
      .next (s.rollBackInPlace crew (s.siteOf (s.crew crew).t0))
    else .next ((s.modCrew crew (fun w => { w with cut := some { c with decided := true } })).logEv (s.crew crew).t0 .decision 0)

/-- CUT_APPLY: a partner applies a decided cut; with the last, the root sends the notices (R102, R373, R378, R418). -/
def execCutApply (tile : Nat) (s : State) : Ans :=
  match (s.tile tile).crew with
  | none => .next s
  | some crew => match (s.crew crew).cut with
    | none => .next s
    | some c =>
      if !c.decided || c.applied.contains tile then .next s
      else
        let s := s.applyTile crew tile c.vc
        let done := (s.crewTiles crew).all (fun t => t == tile || c.applied.contains t)
        .next ((if done then s.finishCut crew c else s).earlyCheck (s.partnerOf tile))

/-- REGULAR_CUT_DUE: a regular cut vc has come (R415). -/
def execRegularCutDue (crew : Nat) (s : State) : Ans :=
  let w := s.crew crew
  let r := nextRegular w (max (w.lastC.getD w.tstart) ((w.cut.map Cut.vc).getD 0))
  if w.live && w.st == .running && (s.crewTiles crew).any (fun t => decide (r ≤ (s.tile t).vcc)) then .next (s.scheduleCut crew r)
  else .next s

namespace State

/-- A crew that a machine check can roll back. -/
def restorable (w : Crew) : Bool := w.live && (w.st == .running || w.st == .loading || w.st == .launchCut)

/-- WDL of the partition of a crew (R424). -/
def watchLimit (s : State) (crew : Nat) : Nat := 2 ^ ((s.part (s.crew crew).part).blctl.extractLsb' 16 8).toNat

/-- The fence bits of a failed site (R264, R428 step 2). -/
def fenceSite (s : State) (site : Nat) : State :=
  let mark (s : State) (at_ : Nat) : State := s.modSite at_ (fun n => if n.fence.contains site then n else { n with fence := n.fence ++ [site] })
  let s := (site :: (List.range 4).filterMap (nextSite site)).foldl mark s
  s.modSite site (fun n => { n with fenced := true })

/-- A crew stands still while the device is quiesced, until its check is handled (R457). -/
def freezeCrew (s : State) (crew : Option Nat) : State :=
  match crew with
  | some c => if restorable (s.crew c) then (s.modTiles c (fun t => { t with halted := true })).modCrew c (fun w => { w with frozen := true }) else s
  | none => s

/-- The check vc above a vc (R425). -/
def nextCheckVc (w : Crew) (v : Nat) : Nat := w.tstart + ((v - w.tstart) / 4096 + 1) * 4096

end State

/-- WATCHDOG_FIRE: a tile has not reached its next check vc within 2^WDL rc: a machine check with that vc, and the cut at it
fails (R419, R425). -/
def execWatchdogFire (tile : Nat) (s : State) : Ans :=
  match (s.tile tile).crew with
  | none => .next s
  | some crew =>
    let w := s.crew crew
    if w.st != .running || (s.tile tile).wd < s.watchLimit crew then .next s
    else
      let site := s.siteOf tile
      let k := State.nextCheckVc w (s.tile tile).vcc
      let s := (s.errorRecord 1 0x1A site 0xFF 0 0 (BitVec.ofNat 64 k)).modTile tile (fun i => { i with wd := 0 })
      let s := match w.cut with
        | some c => if c.decided then s else s.failCut crew
        | none => s
      if w.wdSeen == some (tile, k) then .next (s.loseCrew crew 0x1A tile)
      else .next ((s.modCrew crew (fun w => { w with wdSeen := some (tile, k) })).raiseCheck site .watchdog)

/-- RESIDUE_MISMATCH: a checker finds a wrong result before it lands: a pipeline error of its tile, with the unit's path
(R459). -/
def execResidueMismatch (site core unit sub : Nat) (s : State) : Ans :=
  if !isSite site then .next s
  else
    .next ((s.errorRecord 1 0x1B site (BitVec.ofNat 8 core) (BitVec.ofNat 8 unit) sub (s.siteVc site)).raiseCheck site .pipeline)

/-- MACHINE_CHECK: the splice engine takes a check: a first pipeline error at a site within 2^40 rc, or an uncorrectable far
line, rolls the crew back in place; any other is spliced, and the cut in progress fails; while the device is quiesced the site is
fenced and the crew stands still until the release (R106, R419, R426, R457). -/
def execMachineCheck (site : Nat) (cause : MCause) (s : State) : Ans :=
  if !s.checks.contains (site, cause) then .next s
  else
    let crew := (s.tileAt site).bind (fun t => (s.tile t).crew)
    let n := s.site site
    let first := match n.perr with | some rc => decide (rc + 2 ^ 40 ≤ n.ctr) | none => true
    let far := cause == .arrayEcc && (match crew with | some c => s.rollbacks.contains c | none => false)
    if s.quiesced then .next ((if far || cause == .pipeline && first then s else s.fenceSite site).freezeCrew crew)
    else
    let s : State := { s with checks := s.checks.filter (fun c => c != (site, cause)) }
    let s := if cause == .pipeline then s.modSite site (fun n => { n with perr := some n.ctr }) else s
    let s : State := { s with rollbacks := s.rollbacks.filter (fun c => some c != crew || cause != .arrayEcc) }
    let back (s : State) : Ans := match crew with
      | some c => if State.restorable (s.crew c) then .next (s.rollBackInPlace c site) else .next s
      | none => .next s
    if far || cause == .pipeline && first then back s
    else
      let s := match crew with
        | some c => match (s.crew c).cut with
          | some x => if x.decided then s else s.failCut c
          | none => s
        | none => s
      .next { s with splices := if s.splices.contains site then s.splices else s.splices ++ [site] }

namespace State

/-- |Δfx| + |Δfy| of two fields. -/
def fieldDist (f g : Nat) : Nat :=
  (max (fieldX f) (fieldX g) - min (fieldX f) (fieldX g)) + (max (fieldY f) (fieldY g) - min (fieldY f) (fieldY g))

/-- SPARE_CHOICE: the lowest C0 spare in the failed site's field, else in the nearest field, the lowest field on a tie; never in
the field of the partner (R427). -/
def spareFor (s : State) (site partner : Nat) : Option Nat :=
  let f := fieldOf site
  let rank (n : Nat) : Nat × Nat × Nat := (fieldDist f (fieldOf n), fieldOf n, n)
  let less (a b : Nat × Nat × Nat) : Bool :=
    decide (a.1 < b.1) || a.1 == b.1 && (decide (a.2.1 < b.2.1) || a.2.1 == b.2.1 && decide (a.2.2 < b.2.2))
  (s.spares.filter (fun n => fieldOf n != fieldOf partner)).foldl (fun (acc : Option Nat) n => match acc with
    | none => some n
    | some m => if less (rank n) (rank m) then some n else some m) none

/-- A site's keep, state slots and rope can be read (R429). -/
def keepReadable (s : State) (site : Nat) : Bool :=
  let n := s.site site
  !n.hole && s.siteUp site

/-- RETIRE_MARKING: while spares and marked tiles are below the floor, the highest-numbered unmarked bound tile is marked
(R433). -/
def markRetire (s : State) : State :=
  let need := 552 - (s.spares.length + s.sys.retire.length)
  let bound := ((s.rebind.map Prod.fst).filter (fun t => !s.sys.retire.contains t)).reverse
  { s with sys := { s.sys with retire := s.sys.retire ++ bound.take need } }

/-- Pairs of tiles of a crew that neighbour links join, on adjacent sites (R252). -/
def adjacentPairs (s : State) (crew : Nat) : List Nat :=
  (s.crewTiles crew).filter (fun t => s.inCrew crew (t + 1) && s.siteOf (t + 1) == s.siteOf t + 1
    && siteX (s.siteOf t) + 1 == siteX (s.siteOf (t + 1)))

/-- The failed site's keep goes to the spare, or is lost, and with it the image of the partner (R428 step 5, R429). -/
def moveKeep (s : State) (t site spare : Nat) : State :=
  let u := s.partnerOf t
  let n := s.site site
  let put (s : State) (f : Site → Site) : State := s.modSite spare (fun m => f { m with
    logB := n.logB, dirty := [], cutset := [], cutCap := false, cap := none })
  let s := if s.keepReadable site then
      put { s with mem := memCopy s.mem (vaultKey site 56 0) (vaultKey spare 56 0) (72 * 2 ^ 17) } (fun m =>
        { m with sk0 := n.sk0, sk1 := n.sk1, skc := n.skc, keepv := n.keepv, rope := n.rope, repB := n.repB })
    else
      let s := match (s.tile u).crew with
        | some c => if (s.tile t).crew == some c then s else s.closeCut c
        | none => s
      put s (fun m => { m with sk0 := none, sk1 := none, skc := false, keepv := false, rope := [], repB := 0 })
  s.modSite site (fun m => { m with
    sk0 := none, sk1 := none, skc := false, keepv := false, rope := [], cap := none, dirty := [], cutset := [], cutCap := false
    logB := 0, repB := 0 })

/-- The tile moves to the spare: every router has the new entry (R428 step 6). -/
def moveTile (s : State) (t spare : Nat) : State :=
  { s with rebind := Tbl.set 0xFFFF s.rebind t (BitVec.ofNat 16 spare) }

/-- A splice that has its spare (R428 steps 4 to 8, R429). -/
def spliceTo (s : State) (t site spare : Nat) : State :=
  let u := s.partnerOf t
  let crew := (s.tile t).crew
  let same := crew.isSome && (s.tile u).crew == crew
  let live := match crew with | some c => restorable (s.crew c) | none => false
  -- the failed tile's image lies with its partner (R429)
  let lost := !s.keepReadable (s.siteOf u) || (s.site (s.siteOf u)).fenced || s.splices.contains (s.siteOf u)
    || !(s.site (s.siteOf u)).keepv
  let lostKeep := !s.keepReadable site && (s.site site).keepv
  match crew with
  | some c =>
    if !live then (s.moveKeep t site spare).moveTile t spare
    else
      let s := s.closeCut c
      if (s.crew c).lastC.isNone then (((s.requeue c).moveKeep t site spare).moveTile t spare)
      else
        let pairs := s.adjacentPairs c
        let h := s.stopVc c
        let s := (s.moveKeep t site spare).moveTile t spare
        let apart := pairs.any (fun p => !(s.adjacentPairs c).contains p)
        let s := s.modCrew c (fun w => { w with nspl := w.nspl + 1, unlinked := w.unlinked || apart })
        if lost then s.loseCrew c 0x1D t
        else if same && lostKeep then s.loseCrew c 0x1D t
        else s.rollBack c h site spare
  | none => (s.moveKeep t site spare).moveTile t spare

end State

/-- SPLICE: a failed site is fenced, the crew stopped, a spare chosen, the keeps moved, the tile rebound, and its crew goes back
to the last committed cut and replays; while the device is quiesced only the first steps run (R264, R399, R426-R430, R433, R457). -/
def execSplice (site : Nat) (s : State) : Ans :=
  if !s.splices.contains site then .next s
  else if s.quiesced then .next ((s.fenceSite site).freezeCrew ((s.tileAt site).bind (fun t => (s.tile t).crew)))
  else
    let s := s.fenceSite site
    let ended (s : State) : State := { s with splices := s.splices.filter (fun n => n != site) }
    match s.tileAt site with
    | none => .next (ended s)
    | some t =>
      if isControlTile t then .next (ended s)
      else match s.spareFor site (s.siteOf (s.partnerOf t)) with
        | none =>
          let s := s.spliceRecords site [2]
          .next (ended (match (s.tile t).crew with
            | some c => if State.restorable (s.crew c) then s.loseCrew c 0x1D t else s
            | none => s))
        | some spare => .next (ended ((s.spliceRecords site [2, 3, 4, 5, 6, 7, 8]).spliceTo t site spare).markRetire)

namespace State

/-- ALAT of every route of a tile as the mesh is now (R266, R432). -/
def routesNow (s : State) (t : Nat) : Tbl Word :=
  (s.tile t).routes.map (fun e =>
    let u := (e.2.extractLsb' 32 16).toNat
    let a := s.alat t u
    let p := (e.2.extractLsb' 16 16).toNat
    (e.1, if e.2.getLsbD 63 then 1#1 ++ BitVec.ofBool (decide (p < a)) ++ 0#14 ++ BitVec.ofNat 16 u ++ BitVec.ofNat 16 p ++ BitVec.ofNat 16 a
      else e.2))

/-- A strict crew that the mesh no longer serves in time is switched to elastic for the rest of its task (R432). -/
def switchElastic (s : State) (crew : Nat) : State :=
  let w := s.crew crew
  let slow := (s.crewTiles crew).any (fun t => (s.tile t).routes.any (fun e => e.2.getLsbD 63 && e.2.getLsbD 62))
  if w.el || !(slow || w.unlinked) then s
  else
    let s := s.modCrew crew (fun w => { w with el := true, swx := true })
    let s : State := { s with ctxs := s.ctxs.map (fun e => if e.2.crew == some crew then (e.1, { e.2 with el := true, swx := true }) else e) }
    let site := s.siteOf w.t0
    (s.logEv w.t0 .switched 0).errorRecord 5 0 site 0xFF 0 9 (s.siteVc site)

end State

/-- REPLAY_END: every tile of the crew has reached H: routes and links are checked again, and the crew goes on (R431, R432). -/
def execReplayEnd (crew : Nat) (s : State) : Ans :=
  match (s.crew crew).replayTo with
  | none => .next s
  | some h =>
    if !(s.crew crew).live || !(s.crewTiles crew).all (fun t => decide (h ≤ (s.tile t).vcc)) then .next s
    else
      let s := (s.crewTiles crew).foldl (fun s t => s.modTile t (fun i => { i with routes := s.routesNow t })) s
      let s := (s.switchElastic crew).modCrew crew (fun w => { w with replayTo := none, redo := [], unlinked := false })
      .next ((s.blayDue crew).eraseDups.foldl (fun s v => s.endBlay crew (v - 1) v) s)

namespace State

/-- No flit of a crew is in flight, no far request of it is on its way through a gateway or to another wafer, and no line that its engines
have read has still to land (R399; log entry 43). -/
def settled (s : State) (crew : Nat) : Bool :=
  s.net.all (fun p => match p.body with
    | .commitPsn .. | .version .. | .answer .. | .log .. | .logAck _ | .trap .. => true
    | .reply r .. | .far r | .home r .. => r.crew != some crew
    | _ => s.isSteward p.ctx || !s.inCrew crew p.src)
    && s.gws.all (fun g => g.2.walks.all (fun w => w.req.crew != some crew)) && s.peers.all (fun r => r.2.crew != some crew)
    && (s.crewCores crew).all (fun c => (s.core c).runs.all (fun r => r.cmd.exact && exactLeft r || (s.landable c r).isNone))

end State

/-- HALT_COMPLETE: every tile of a stopped crew that is not fenced has halted at H and its traffic has settled: the stop records
are written and STOP returns (R399, R400, R410). -/
def execHaltComplete (crew : Nat) (s : State) : Ans :=
  let w := s.crew crew
  match w.haltAt with
  | none => .next s
  | some h =>
    let part (t : Nat) : Bool := !(s.site (s.siteOf t)).fenced
    if !w.live || w.haltDone || !(s.crewTiles crew).all (fun t => !part t || (s.tile t).halted && decide (h ≤ (s.tile t).vcc)) || !s.settled crew then .next s
    else
      let s := (s.crewTiles crew).foldl (fun s t => (List.range 4).foldl (fun s c => s.modCore (coreKey t c) (fun k => { k with
        stop0 := 1#1 ++ BitVec.ofNat 63 h, stop1 := k.msent.setWidth 64, stop2 := BitVec.ofNat 64 ((s.tile t).mrecv % 2 ^ 32) })) s) s
      let s := s.modCrew crew (fun w => { w with haltDone := true })
      -- STOP returns once every crew it names has halted
      .next ((s.waiters (fun w => match w with | .stop .. => true | _ => false)).foldl (fun s k => match (s.ctx k).wait with
        | .stop d p t => if (s.runningCrews p t).all (fun c => !(s.crew c).stopHold || (s.crew c).haltDone) then s.completeX k d 0 2 else s
        | _ => s) s)

namespace State

/-- Fields of a pair lie apart (R413). -/
def apart (s : State) (t u : Nat) : Bool := fieldOf (s.siteOf t) != fieldOf (s.siteOf u)

/-- Tiles whose partners have retired are paired with each other, across fields (R413). -/
def pairUp (s : State) (fuel : Nat) (ts : List Nat) : State :=
  match fuel, ts with
  | fuel + 1, t :: rest =>
    match rest.find? (fun u => s.apart t u) with
    | some u => ({ s with partner := Tbl.put (Tbl.put s.partner t u) u t } : State).pairUp fuel (rest.filter (fun x => x != u))
    | none => s.pairUp fuel rest
  | _, _ => s

end State

/-- A change would take the spare reserve below its floor (R30). -/
def belowFloor (before after : Nat) : Bool := decide (after < before) && decide (after < 552)

/-- PARTITION_RECONFIGURATION: a partition takes its tiles, marked tiles that are free become spares, and orphaned partners are
paired again; one that would take the spare reserve below its floor is refused (R30, R413, R433). -/
def execPartitionReconfiguration (part base count : Nat) (s0 : State) : Ans :=
  let s := s0
  let held := s.crews.any (fun e => e.2.live && e.2.part == part && e.2.st != .ended
    && !(decide (base ≤ e.2.t0) && decide (e.2.t0 + e.2.blk.cols * e.2.blk.rows ≤ base + count)))
  let clash := (List.range 16).any (fun p => p != part && decide ((s.part p).base < base + count)
    && decide (base < (s.part p).base + (s.part p).count))
  if held || clash || 16 ≤ part || 0x8000 < base + count then .next s
  else
    let s := s.setPart part { s.part part with base, count }
    let gone := s.sys.retire.filter (fun t => (s.tile t).crew.isNone)
    let orphans := (gone.map s.partnerOf).filter (fun u => !gone.contains u && s.tileBound u)
    let t : State := { s with
      rebind := gone.foldl (fun m t => Tbl.set 0xFFFF m t 0xFFFF) s.rebind
      sys := { s.sys with retire := s.sys.retire.filter (fun t => !gone.contains t), sell := s.sys.sell - BitVec.ofNat 16 gone.length } }
    if !gone.isEmpty && belowFloor s.spares.length t.spares.length then .next s0 else .next (t.pairUp orphans.length orphans)

namespace State

/-- Every running crew has committed its deep cut and halted there (R434). -/
def deepReady (s : State) : Bool :=
  s.sys.deepReq.isSome && s.crews.all (fun e => !e.2.live || e.2.deepCut.isNone || e.2.st != .running
    || e.2.deepHold && e.2.cut.isNone && s.settled e.1 && (s.crewTiles e.1).all (fun t => (s.tile t).halted || (s.site (s.siteOf t)).fenced))

end State

/-- DEEP_BELAY_IMAGE_WRITTEN: with every crew halted at its deep cut the image is written, the halts are released and BLAY.deep
returns 0 (R434, R436, R461). -/
def execDeepBelayImageWritten (s : State) : Ans :=
  match s.sys.deepReq with
  | none => .next s
  | some k =>
    if !s.deepReady || !s.sys.held.isEmpty then .next s
    else
      let in_ := (s.crews.filter (fun e => e.2.live && e.2.deepHold)).map Prod.fst
      let mine (t : Nat) : Bool := in_.any (fun c => s.inCrew c t)
      let d : Deep := { mem := s.mem, sites := s.sites, crews := s.crews.filter (fun e => in_.contains e.1),
                        tiles := s.tiles.filter (fun e => mine e.1), cores := s.cores.filter (fun e => mine (tileOfCore e.1)),
                        ctxs := s.ctxs.filter (fun e => mine (tileOfCtx e.1)) }
      let s : State := { s with deep := some d, sys := { s.sys with deepReq := none } }
      let s := in_.foldl (fun s c =>
        (s.modCrew c (fun w => { w with deepHold := false, deepCut := none })).unhalt c) s
      .next (match (s.ctx k).wait with | .blayDeep x => s.completeX k x 0 2 | _ => s)

/-- Keys of second-tier bytes: the deep-belay image does not hold them (R434). -/
def secondTier (k : Nat) : Bool := decide (0x40 * 2 ^ 40 ≤ k) && decide (k < 2 ^ 48)

namespace State

/-- A crew comes back from a deep image at its deep cut (R434); channels to other wafers come back lost (R279). -/
def deepCrew (s : State) (d : Deep) (crew : Nat) (w : Crew) : State :=
  let s := s.setCrew crew { w with deepHold := false, deepCut := none, haltAt := none, haltDone := false, stopHold := false, frozen := false }
  let s := (s.crewTiles crew).foldl (fun s t =>
    let s := s.setTile t { Tbl.get {} d.tiles t with halted := false, bankUse := [] }
    (List.range 4).foldl (fun s c =>
      let k := Tbl.get {} d.cores (coreKey t c)
      s.setCore (coreKey t c) { k with
        chans := k.chans.map (fun x => (x.1, if x.2.remote && x.2.st == 1 then { x.2 with st := 2 } else x.2))
        turnAt := none, decideAt := none }) s) s
  let s := (d.ctxs.filter (fun e => s.inCrew crew (tileOfCtx e.1))).foldl (fun s e => s.setCtx e.1 e.2) s
  let s := (s.crewTiles crew).foldl (fun s t =>
    let n := Tbl.get {} d.sites (s.siteOf (s.partnerOf t))
    let s := s.modSite (s.siteOf (s.partnerOf t)) (fun m => { m with sk0 := n.sk0, sk1 := n.sk1, skc := n.skc, keepv := n.keepv, rope := [] })
    (s.modSite (s.siteOf t) (fun m => { m with dirty := [], cutset := [], cutCap := false, cap := none })).setLogShare crew t) s
  let s := (List.range 24).foldl (fun s h => s.setHome h (let m := s.home h;
    { m with psn := max m.psn (Tbl.get 0 w.dyn.adopted h)
             crews := Tbl.put m.crews crew (Tbl.get 0 w.dyn.adopted h, Tbl.get 0 w.dyn.committed h) })) s
  (s.crewTiles crew).foldl (fun s t => s.modTile t (fun i => { i with routes := s.routesNow t })) s

end State

/-- DEEP_RESTORE: after a reset firmware brings every crew of the deep image back to its deep cut (R434). -/
def execDeepRestore (s : State) : Ans :=
  match s.deep with
  | none => .next s
  | some d =>
    if s.crews.any (fun e => e.2.live) || !(s.field anchorField).joined then .next s
    else
      let old := d.mem.filter (fun e => !secondTier e.1)
      let s : State := { s with mem := old.filter (fun e => decide (e.1 < 2 ^ 48)) ++ s.mem.filter (fun e => secondTier e.1)
                                  ++ old.filter (fun e => decide (2 ^ 48 ≤ e.1)) }
      .next (d.crews.foldl (fun s e => s.deepCrew d e.1 e.2) s)

end Sys2Proof.Machine
end

