-- ==== Sys2Proof/Machine/EvVersion.lean ====
section
/-! DEFINITION. Events of version sets: requests at a set's home (R370-R372, R377, R378, R381-R383), the answers at the crew, and
adoption (R379). -/

namespace Sys2Proof.Machine

/-- W0 of a set's entry (R370). -/
def VSet.w0 (e : VSet) : Word := BitVec.ofBool e.en ++ 0#7 ++ e.newest ++ e.sizem1

/-- W1: the owner of the version being staged, and LAST (R370). -/
def VSet.w1 (e : VSet) : Word := e.owner ++ e.opart ++ 0#12 ++ e.last

/-- A slot word (R370). -/
def VSlot.word (x : VSlot) : Word := x.vnum ++ x.st ++ x.pnd ++ 0#12 ++ x.refs ++ 0#16

/-- A slot owner word (R370). -/
def VSlot.ownerWord (x : VSlot) : Word := x.owner ++ x.opart ++ 0#28

/-- The number that follows another (R372). -/
def nextVersion (n : BitVec 16) : BitVec 16 := if n = 0xFFFF then 1 else n + 1

/-- VSTAGE's answers (R381). -/
def vsBusy : Word := 2 ^ 63 + 1
def vsFull : Word := 2 ^ 63 + 2

namespace State

/-- The bytes of a new staging version are undefined: its plain pages take free values (R381, log entry 6). -/
def undefPages (s : State) (fuel field part va : Nat) : State :=
  match fuel with
  | 0 => s
  | fuel + 1 =>
    let s := match s.translate field part va .read true with
      | (.ok l, s) =>
        let pa := l.addr + (va - l.va)
        if l.buffer || !s.leafOk pa || !s.leafOk (pa + 65535) then s
        else
          let s' := s.writePa pa ((List.range 65536).map (fun i => Config.freeByte (s.free + i)))
          { s' with free := s.free + 65536 }
      | (.error _, s) => s
    s.undefPages fuel field part (va + 65536)

/-- VSTAGE at the home (R381). -/
def stageAt (s : State) (v crew : Nat) : Word × State :=
  let e := s.vset v
  let slot (i : Nat) : VSlot := Tbl.get {} e.slots i
  if (List.range 4).any (fun i => (slot i).st == 1 && (slot i).pnd == 0) then (vsBusy, s)
  else match (List.range 4).find? (fun i => (slot i).st == 0) with
    | none => (vsFull, s)
    | some i =>
      let w := s.crew crew
      let n := nextVersion e.last
      let x : VSlot := { base := (slot i).base, refs := (slot i).refs, vnum := n, st := 1, owner := w.task, opart := BitVec.ofNat 4 w.part }
      let s := s.setVset v { e with slots := Tbl.set {} e.slots i x, last := n, owner := w.task, opart := BitVec.ofNat 4 w.part }
      (n.setWidth 64, s.undefPages ((e.sizem1.toNat + 1) / 65536) (fieldOfHome (v % 24)) w.part (x.base.toNat % 2 ^ 52))

/-- VPUB, VDISCARD and VRETIRE at the home: DONE marks the slot (R382). -/
def markAt (s : State) (v crew : Nat) (pnd : BitVec 2) (n : BitVec 16) (vc : Nat) : Word × State :=
  let e := s.vset v
  match s.slotWith v n with
  | none => (1, s)
  | some i =>
    let x := Tbl.get {} e.slots i
    let set (x : VSlot) : Word × State := (0, s.setVset v { e with slots := Tbl.set {} e.slots i { x with pnd, pndAt := vc } })
    if pnd == 3 then
      if x.st == 2 && n == e.newest then (2, s)
      else if x.st == 2 && x.pnd == 0 then set { x with asker := some crew }
      else (1, s)
    else if ownSlot (s.crew crew) x && x.pnd == 0 then set x
    else (1, s)

/-- VQRY at the home (R383). -/
def queryAt (s : State) (v : Nat) (n : Option (BitVec 16)) : Word :=
  match n with
  | none => (s.vset v).w0
  | some n => match s.slotWith v n with
    | some i => (Tbl.get {} (s.vset v).slots i).word
    | none => 0

/-- An answer of a home. -/
def homeReply (s : State) (p : Pkt) (crew : Nat) (ctx : Option Nat) (op : VerOp) (v : Word) (ok : Bool) : State :=
  s.sendTo ((s.tileAt p.dst).getD p.src) (s.siteOf p.src) 1 p.ctx 0 (.answer crew ctx op v ok)

end State

/-- VERSION_HOME_REQUEST: a request at the home of a set, applied in order of arrival (R371): a candidate, a version to stage, a
mark, a query, or a commit, which applies the marks made before its vc (R373, R377, R378). -/
def execVersionHomeRequest (n : Nat) (s : State) : Ans :=
  match s.arrived n (fun b => match b with | .version .. => true | _ => false) with
  | none => .next s
  | some (p, s) => match p.body with
    | .version v crew op =>
      let en := (s.vset v).en
      let reply (s : State) (x : Word) : Ans := .next (s.homeReply p crew (some p.ctx) op x true)
      match op with
      | .candidate _ => .next ((s.homeReply p crew none op ((s.vset v).newest.setWidth 64) true).updateRefs crew)
      | .commit vc => .next (if (s.crew crew).live then s.applyMarks crew v vc else s)
      | .stage =>
        if !en then .next (s.homeReply p crew (some p.ctx) op 0 false)
        else
          let (x, s) := s.stageAt v crew
          reply s x
      | .mark pnd num vc =>
        if !en then .next (s.homeReply p crew (some p.ctx) op 0 false)
        else
          let (x, s) := s.markAt v crew pnd num vc
          reply s x
      | .query num => if !en then .next (s.homeReply p crew (some p.ctx) op 0 false) else reply s (s.queryAt v num)
    | _ => .next s

/-- CANDIDATE_ANSWER: the candidate of a cut reaches the crew's root and is logged; the first answer counts (R377). -/
def execCandidateAnswer (n : Nat) (s : State) : Ans :=
  match s.arrived n (fun b => match b with | .answer _ none _ _ _ => true | _ => false) with
  | none => .next s
  | some (p, s) => match p.body with
    | .answer crew none (.candidate vc) v _ =>
      let w := s.crew crew
      let waits := match w.cut with
        | some c => c.vc == vc && c.cand.isNone
        | none => false
      if w.live && (waits || w.lastC == some vc && w.dyn.cand.isNone) then
        .next ((s.logEv w.t0 (.candidate vc (v.setWidth 16)) 8).setCandidate crew vc (v.setWidth 16))
      else .next (s.updateRefs crew)
    | _ => .next s

/-- VERSION_ANSWER: every tile's view is updated and the waiting thread completes, or raises version for a set that is not enabled; one whose
status a replay has from the log completes with that one, at its vc (R374, R380-R383, R421). -/
def execVersionAnswer (n : Nat) (s : State) : Ans :=
  match s.arrived n (fun b => match b with | .answer _ (some _) _ _ _ => true | _ => false) with
  | none => .next s
  | some (p, s) => match p.body with
    | .answer crew _ _ v ok =>
      let k := p.ctx
      let s := s.refreshView crew
      match (s.ctx k).wait with
      | .version d =>
        if s.replaying (tileOfCtx k) && (s.loggedAnswer k).isSome then .next (s.modCtx k (fun c => { c with asked := none }))
        else if ok then .next ((s.completeX k d v 2).logEv (tileOfCtx k) (.answer k v) 8)
        else .next (s.failWait k cVersion 0)
      | _ => .next s
    | _ => .next s

/-- The candidate that an adoption at a vc takes: that of the latest cut at or below it, once answered (R379). -/
def adoptable (w : Crew) (a : Nat) : Option (BitVec 16) :=
  match w.cut with
  | some c => if c.vc ≤ a then c.cand else w.dyn.cand
  | none => w.dyn.cand

/-- ADOPTION: a tile stands at the adoption vc and takes the candidate; the last tile ends the adoption (R373, R379). -/
def execAdoption (tile : Nat) (s : State) : Ans :=
  match (s.tile tile).crew, (s.tile tile).adoptAt with
  | some crew, some a =>
    let w := s.crew crew
    if (s.tile tile).vcc < a || dueCut w (s.tile tile).vcc then .next s
    else match adoptable w a, w.boundSet with
      | some n, some v =>
        let s := s.modTile tile (fun i => { i with pvr := n, adoptAt := none, vview := { i.vview with cur := s.slotWith v n } })
        let ended := (s.crewTiles crew).all (fun t => (s.tile t).adoptAt.isNone)
        .next ((if ended then s.modDyn crew (fun d => { d with adopt := none }) else s).updateRefs crew)
      | _, _ => .next s
  | _, _ => .next s

end Sys2Proof.Machine
end

