-- ==== Sys2Proof/Machine/Register.lean ====
section
/-! DEFINITION. The registers in control space: access codes (R10), the system block (R439, R446, R447-R449, R451, R455-R457), the
gateway blocks (R113), the version table (R370), the trap blocks (R391), the belay, capability and grade registers (R424, R433,
R434, R464, R467), the service blocks (R463, R468) and the black boxes (R466). -/

namespace Sys2Proof.Machine

/-- IDENT (R439). -/
def Sys.ident (y : Sys) : Word := 0x3220#16 ++ 0xA2#8 ++ 0x01#8 ++ y.qmaj ++ y.qmin ++ 0#16

/-- START (R451). -/
def Sys.start (y : Sys) : Word :=
  let n := ((List.range 64).filter (fun f => y.fjoin.getLsbD f)).length
  BitVec.ofBool y.rcvy ++ 0#47 ++ BitVec.ofNat 8 n ++ 0#5 ++ y.stage

/-- TBST (R455). -/
def Sys.tbst (y : Sys) : Word := BitVec.ofBool y.trust.busy ++ 0#7 ++ y.trust.res ++ 0#16 ++ y.trust.val

/-- QSLOT (R456). -/
def Sys.qslot (y : Sys) : Word :=
  y.trust.slotA.version ++ y.trust.slotB.version ++ 0#29 ++ BitVec.ofBool y.upd ++ BitVec.ofBool y.rcvy ++ y.act

/-- QSCST (R456). -/
def Sys.qscst (y : Sys) : Word := 0#62 ++ BitVec.ofBool y.qdone ++ BitVec.ofBool (y.qsc.getLsbD 0)

namespace State

def modSys (s : State) (f : Sys → Sys) : State := { s with sys := f s.sys }

/-- A steward write of HIRQ: the vector is signalled, or pends while it is masked (R446). -/
def raiseIrq (s : State) (v : Word) : State :=
  let bit : BitVec 32 := 1#32 <<< (v.extractLsb' 0 5).toNat
  (s.modSys (fun y => { y with hirq := v &&& 0x31F })).modHost (v.extractLsb' 8 2).toNat (fun h =>
    if h.msixMask &&& bit = 0 then { h with msixSent := h.msixSent ||| bit } else { h with msixPend := h.msixPend ||| bit })

/-- A write of QSC: setting Q quiesces the device, unless HPA lies outside HBM4E; clearing it releases the device, and held
publishes go on (R456, R457). -/
def writeQsc (s : State) (v : Word) : State :=
  let pa := (v.extractLsb' 6 42).toNat * 64
  let v' := v &&& 0x0000FFFFFFFFFFC1
  if v.getLsbD 0 then
    if paUnit pa < 0x30 && s.paOk pa then s.modSys (fun y => { y with qsc := v' }) else s
  else (List.range 4).foldl hostSettle (s.modSys (fun y => { y with qsc := v', qdone := false }))

/-- QBOOT.CANCEL: the standby sites stop and are reset (R456). -/
def cancelBoot (s : State) : State :=
  let tiles := s.sys.standbySites.filterMap s.tileAt
  let out (k : Nat) : Bool := tiles.contains (tileOfCore k)
  { s with
    ctxs := s.ctxs.filter (fun e => !(tiles.contains (tileOfCtx e.1) && isControlTile (tileOfCtx e.1)))
    cores := s.cores.filter (fun e => !(out e.1 && isControlTile (tileOfCore e.1)))
    sys := { s.sys with upd := false, standbySites := [] } }

/-- QBOOT.GO: the image in SLOT starts on the standby sites of the joined fields (R450, R456). -/
def goBoot (s : State) : State :=
  s.modSys (fun y => { y with
    upd := true, hbeat := 0, bootT := y.rtime
    standbySites := ((List.range 64).filter (fun f => y.fjoin.getLsbD f)).map (fun f => controlSite f 2) })

/-- In recovery a write of QBOOT verifies the image the host has placed at HPA, and starts it (R451). -/
def recoverBoot (s : State) (v : Word) : State :=
  match s.verifyImage ((v.extractLsb' 6 42).toNat * 64) with
  | .error _ => s
  | .ok x =>
    let slot := v.extractLsb' 0 1
    (s.setSlot slot x).modSys (fun y => { y with
      rcvy := false, act := slot, qmaj := x.version.extractLsb' 8 8, qmin := x.version.extractLsb' 0 8 })

/-- A write of QBOOT (R451, R456). -/
def writeQboot (s : State) (v : Word) : State :=
  let s := s.modSys (fun y => { y with qboot := v &&& 0xC000FFFFFFFFFFC1 })
  if s.sys.rcvy then s.recoverBoot v
  else if v.getLsbD 62 then s.cancelBoot
  else if v.getLsbD 63 then s.goBoot
  else s

/-- A write of HBEAT from a site: the first from a standby site while UPD is set counts (R456). -/
def writeHbeat (s : State) (site : Nat) : State :=
  if s.sys.upd && s.sys.standbySites.contains site && !s.sys.hbeat.getLsbD 63 then
    s.modSys (fun y => { y with hbeat := 1#1 ++ 0#15 ++ y.rtime.setWidth 48 })
  else s

/-- The system block as a level reads it: RWF registers read 0 below firmware (R10, R439). -/
def readSys (s : State) (off : Nat) (fw : Bool) : Word :=
  let y := s.sys
  let f (w : Word) : Word := if fw then w else 0
  if off = 0x000 then y.ident
  else if off = 0x008 then 0#40 ++ (if fw then y.wnum else 0) ++ y.inc
  else if off = 0x010 then y.start
  else if off = 0x018 then y.fjoin
  else if off = 0x020 then y.rtime
  else if off = 0x028 then f y.stlen
  else if off = 0x030 then y.hirq
  else if off = 0x100 then f y.qsc
  else if off = 0x108 then y.qscst
  else if off = 0x200 then f y.tbcmd
  else if off = 0x208 then f y.tbarg0
  else if off = 0x210 then f y.tbarg1
  else if off = 0x218 then y.tbst
  else if off = 0x300 then y.qslot
  else if off = 0x308 then f y.qboot
  else if off = 0x310 then y.hbeat
  else if off = 0x318 then y.bootT
  else if 0x400 ≤ off && off < 0x4C0 && off % 8 == 0 then Tbl.get 0 y.cxl ((off - 0x400) / 8)
  else if 0x500 ≤ off && off < 0x600 && off % 8 == 0 then Tbl.get 0 y.fv ((off - 0x500) / 8)
  else if 0x600 ≤ off && off < 0xE00 && off % 8 == 0 then f (Tbl.get 0 y.fvroute ((off - 0x600) / 8))
  else 0

/-- A write to the system block by steward or firmware (R439). -/
def writeSys (s : State) (off : Nat) (v : Word) (fw : Bool) (site : Nat) : State :=
  if off = 0x030 then s.raiseIrq v
  else if off = 0x310 then (if fw then s.writeHbeat site else s)
  else if !fw then s
  else if off = 0x008 then s.modSys (fun y => { y with wnum := v.extractLsb' 16 8 })
  else if off = 0x028 then s.modSys (fun y => { y with stlen := v })
  else if off = 0x038 then (if v.getLsbD 0 then s.resetDevice false else s)
  else if off = 0x100 then s.writeQsc v
  else if off = 0x200 then s.trustStart v
  else if off = 0x208 then s.modSys (fun y => { y with tbarg0 := v })
  else if off = 0x210 then s.modSys (fun y => { y with tbarg1 := v })
  else if off = 0x308 then s.writeQboot v
  else if 0x600 ≤ off && off < 0xE00 && off % 8 == 0 then
    s.modSys (fun y => { y with fvroute := Tbl.set 0 y.fvroute ((off - 0x600) / 8) (v &&& 0xFFFFFFFF) })
  else s

/-- How a park queue entry reads: context, far address, access kind (R113). -/
def parkWord (r : FarReq) (w : Nat) : Word :=
  if w = 0 then BitVec.ofNat 64 r.part
  else if w = 1 then r.va
  else if w = 2 then Config.accessCode (match reqAcc r.kind with | .read => 0 | .fetch => 1 | .write => 2 | .publ => 3 | .atomic => 4)
  else 0

/-- A word of a hotness entry: what firmware has written there, until the entry next changes (R107, R113; log entry 6). -/
def hotRead (h : Home) (e : Nat) (hi : Bool) : Word :=
  match Tbl.find h.hot e with
  | some x => match x.raw with
    | some (w0, w1) => if hi then w1 else w0
    | none => Config.hotWord hi x.page x.count x.sx x.sy x.qm
  | none => 0

/-- The home that a gateway is, if it is one (R88). -/
def homeField (f : Nat) : Option Nat := attachOf f

/-- A gateway's block (R94, R96, R113). -/
def readGw (s : State) (field off : Nat) (fw : Bool) : Word :=
  let g := s.gw field
  if off % 8 ≠ 0 then 0
  else if off < 0x200 then
    let n := off / 0x20
    if off % 0x20 = 0 then Tbl.get 0 g.tcbase n else if off % 0x20 = 8 then Tbl.get 0 g.tclim n
    else if off % 0x20 = 0x10 then Tbl.get 0 g.tcbmb n else 0
  else if off = 0x200 then g.gwinv
  else if off = 0x208 then g.parkact
  else if off = 0x210 then (match homeField field with | some h => BitVec.ofNat 64 (s.home h).psn | none => 0)
  else if 0x1000 ≤ off && off < 0x3000 then
    (match Tbl.find g.park ((off - 0x1000) / 0x20) with | some r => parkWord r (off % 0x20 / 8) | none => 0)
  else if 0x4000 ≤ off && off < 0x44000 then
    (Tbl.get 0 g.roots ((off - 0x4000) / 64)).extractLsb' (8 * (off % 64)) 64
  else if 0x400000 ≤ off && off < 0x410000 then
    (match homeField field with
      | some h => if fw then hotRead (s.home h) ((off - 0x400000) / 16) (off % 16 == 8) else 0
      | none => 0)
  else 0

/-- A write to a gateway's block by steward or firmware (R94, R96, R113). -/
def writeGw (s : State) (field off : Nat) (v : Word) (fw : Bool) : State :=
  let g := s.gw field
  if off % 8 ≠ 0 then s
  else if off < 0x200 then
    let n := off / 0x20
    if off % 0x20 = 0 then s.setGw field { g with tcbase := Tbl.set 0 g.tcbase n (v &&& 0x8000FFFFFFFFF000) }
    else if off % 0x20 = 8 then s.setGw field { g with tclim := Tbl.set 0 g.tclim n (v &&& 0x7FFFFF) }
    else if off % 0x20 = 0x10 then s.setGw field { g with tcbmb := Tbl.set 0 g.tcbmb n (v &&& 0x0000FFFFFFFFFFC0) }
    else s
  else if off = 0x200 then s.gwInv field v
  else if off = 0x208 then s.parkAct field v
  else if 0x4000 ≤ off && off < 0x44000 then
    let e := (off - 0x4000) / 64
    let i := 8 * (off % 64)
    let all : BitVec 512 := (0xFFFFFFFFFFFFFFFF#64).setWidth 512 <<< i
    let new : BitVec 512 := (Tbl.get 0 g.roots e &&& ~~~all) ||| (v.setWidth 512 <<< i)
    s.setGw field { g with roots := Tbl.set 0 g.roots e new }
  else if 0x400000 ≤ off && off < 0x410000 && fw then
    (match homeField field with
      | some h =>
        let m := s.home h
        let e := (off - 0x400000) / 16
        let hi := off % 16 == 8
        let w0 := if hi then hotRead m e false else v
        let w1 := if hi then v else hotRead m e true
        let w := Config.hotOf w0 w1
        let x : Hot := { page := w.1, count := w.2.1, sx := w.2.2.1, sy := w.2.2.2.1, qm := w.2.2.2.2, raw := some (w0, w1) }
        s.setHome h { m with hot := Tbl.put m.hot e x }
      | none => s)
  else s

/-- A change of every tile bound to a set. -/
def modSetTiles (s : State) (v : Nat) (f : Tile → Tile) : State :=
  ((s.tiles.filter (fun e => e.2.vview.set == some v)).map Prod.fst).foldl (fun s t => s.modTile t f) s

/-- The version table (R370). -/
def readVer (s : State) (v w : Nat) : Word :=
  let e := s.vset v
  let slot (i : Nat) : VSlot := Tbl.get {} e.slots i
  if w = 0 then e.w0 else if w = 1 then e.w1 else if w < 6 then (slot (w - 2)).word
  else if w < 10 then (slot (w - 6)).base else if w < 14 then (slot (w - 10)).ownerWord else 0

/-- A write to the version table by steward or firmware: BASEi, SIZEM1 and EN while the set is disabled, and EN 0, which frees
every slot (R370). -/
def writeVer (s : State) (v w : Nat) (x : Word) : State :=
  let e := s.vset v
  if w = 0 then
    if e.en then
      if x.getLsbD 63 then s
      else
        let s := s.setVset v { e with
          en := false, newest := 0, last := 0, owner := 0, opart := 0, refs := []
          slots := (List.range 4).foldl (fun t i => Tbl.set {} t i { base := (Tbl.get {} e.slots i).base }) [] }
        (s.modSetTiles v (fun i => { i with vview := { i.vview with cur := none, staging := none } }))
    else s.setVset v { e with
      en := x.getLsbD 63, sizem1 := if x.extractLsb' 0 16 == 0xFFFF then x.extractLsb' 0 40 else e.sizem1 }
  else if 6 ≤ w && w < 10 && !e.en then
    s.setVset v { e with slots := Tbl.set {} e.slots (w - 6) { Tbl.get {} e.slots (w - 6) with base := x } }
  else s

/-- A tile's trap block (R391, R400). -/
def readTrapBlk (s : State) (t off : Nat) : Word :=
  if isReservedTile t || off % 8 ≠ 0 then 0
  else if off < 0x20 then Tbl.get 0 (s.tile t).pairR (off / 8)
  else if 0x40 ≤ off && off < 0x60 then Tbl.get 0 (s.tile t).spb ((off - 0x40) / 8)
  else if 0x80 ≤ off && off < 0xE0 then stopWord (s.core (coreKey t ((off - 0x80) / 0x18))) ((off - 0x80) % 0x18 / 8)
  else 0

/-- A write to a trap block by steward or firmware (R391). -/
def writeTrapBlk (s : State) (t off : Nat) (v : Word) : State :=
  if isReservedTile t || off % 8 ≠ 0 then s
  else if off < 0x20 then s.modTile t (fun i => { i with pairR := Tbl.set 0 i.pairR (off / 8) (v &&& 0x8000FFFF00000003) })
  else if 0x40 ≤ off && off < 0x60 then
    s.modTile t (fun i => { i with spb := Tbl.set 0 i.spb ((off - 0x40) / 8) (v &&& 0x0000FFFFFFFFF000) })
  else s

/-- Links beyond the direct path on the path between two sites. -/
def detourLinks (s : State) (a b : Nat) : Nat :=
  s.pathLinks 1000 a b - ((max (siteX a) (siteX b) - min (siteX a) (siteX b)) + (max (siteY a) (siteY b) - min (siteY a) (siteY b)))

/-- The runtime vector (R467); the bisection counts the rows whose link between sx 95 and sx 96 works (ch 01). -/
def runtimeVector (s : State) : Word :=
  let rows := ((List.range 184).filter (fun y => !(s.site (siteNum 95 y)).hole && !(s.site (siteNum 96 y)).hole)).length
  let bound := s.rebind.map (fun e => e.2.toNat)
  let far := if s.sites.any (fun e => !e.2.detour.isEmpty) then
      bound.foldl (fun m a => bound.foldl (fun m b => max m (s.detourLinks a b)) m) 0
    else 0
  s.sys.sell ++ BitVec.ofNat 16 ((rows * 4096 + 500) / 1000) ++ BitVec.ofNat 16 (s.sys.sell.toNat * 6 / 1024) ++ BitVec.ofNat 16 far

/-- How many sites of the array a test holds for. -/
def countSites (s : State) (p : Site → Bool) : Nat := ((List.range (184 * 256)).filter (fun n => isSite n && p (s.site n))).length

/-- The binning vector (R467). -/
def binningVector (s : State) : Word :=
  let n (c : BitVec 2) : BitVec 16 := BitVec.ofNat 16 (s.countSites (fun t => t.cls == c && !t.hole))
  n 0 ++ n 1 ++ n 2 ++ n 3

/-- BLCTL, SPRES, DBCTL, the grade vectors and the partition counters (R424, R433, R434, R464, R467). -/
def readBelay (s : State) (off : Nat) (fw : Bool) : Word :=
  if off % 8 ≠ 0 then 0
  else if off < 0x80 then (s.part (off / 8)).blctl
  else if off = 0x100 then s.spres
  else if off = 0x108 then (if fw then s.sys.dbctl else 0)
  else if off = 0x110 then s.runtimeVector
  else if off = 0x118 then s.binningVector
  else if off = 0x120 then BitVec.ofNat 64 (s.countSites (fun t => t.hole))
  else if 0x200 ≤ off && off < 0x280 then (if fw then (s.part ((off - 0x200) / 8)).psvc else 0)
  else if 0x300 ≤ off && off < 0x380 then (if fw then (s.part ((off - 0x300) / 8)).psvc2 else 0)
  else 0

/-- A write to them by steward or firmware; a value out of its range leaves a field of BLCTL as it is (R424). -/
def writeBelay (s : State) (off : Nat) (v : Word) (fw : Bool) : State :=
  if off % 8 ≠ 0 then s
  else if off < 0x80 then
    let q := s.part (off / 8)
    let wdl := (v.extractLsb' 16 8).toNat
    let blt := (v.extractLsb' 0 5).toNat
    let w : BitVec 8 := if 20 ≤ wdl && wdl ≤ 32 then v.extractLsb' 16 8 else q.blctl.extractLsb' 16 8
    let b : BitVec 5 := if 4 ≤ blt && blt ≤ 24 then v.extractLsb' 0 5 else q.blctl.extractLsb' 0 5
    s.setPart (off / 8) { q with blctl := 0#40 ++ w ++ 0#11 ++ b }
  else if !fw then s
  else if off = 0x108 then s.modSys (fun y => { y with dbctl := v &&& 1 })
  else if 0x200 ≤ off && off < 0x280 then s.setPart ((off - 0x200) / 8) { s.part ((off - 0x200) / 8) with psvc := v }
  else if 0x300 ≤ off && off < 0x380 then s.setPart ((off - 0x300) / 8) { s.part ((off - 0x300) / 8) with psvc2 := v }
  else s

/-- SVID.STATE of a site (R463). -/
def siteState (s : State) (site : Nat) : BitVec 3 :=
  let t := s.site site
  if t.hole then 4
  else if t.fenced then 5
  else if (controlOf site).isSome then (if t.unusable || decide (2 ≤ t.cls.toNat) then 2 else 3)
  else match s.tileAt site with
    | some l => if s.sys.retire.contains l then 6 else 0
    | none => if t.unusable || t.cls != 0 then 2 else 1

/-- SVID (R463). -/
def svid (s : State) (site : Nat) (fw : Bool) : Word :=
  BitVec.ofNat 16 ((s.tileAt site).getD 0xFFFF) ++ 0#37 ++ s.siteState site ++ 0#6 ++ (if fw then (s.site site).cls else 0)

/-- A site's service block (R463, R468). -/
def readService (s : State) (site off : Nat) (fw : Bool) : Word :=
  let t := s.site site
  let f (w : Word) : Word := if fw then w else 0
  if !isSite site || off % 8 ≠ 0 then 0
  else if off = 0 then s.svid site fw
  else if off = 8 then t.svtest
  else if off = 0x10 then
    let m := (s.field (fieldOf site)).vmarg
    Config.pathSlack site m ++ Config.ringFreq site ++ (if fw then m else 0) ++ 0#16
  else if 0x40 ≤ off && off < 0x440 then f (Tbl.get 0 t.bankc ((off - 0x40) / 8))
  else if 0x440 ≤ off && off < 0x460 then
    let p := (off - 0x440) / 8
    f (Tbl.get 0 t.linkc p) ||| (0#32 ++ Config.eyeMargin site p ++ 0#24)
  else if off = 0x460 then f t.msgc
  else if 0x468 ≤ off && off < 0x488 then f (Tbl.get 0 t.corc ((off - 0x468) / 8))
  else if 0x800 ≤ off then Tbl.get 0 t.ring ((off - 0x800) / 8)
  else 0

/-- A class is only ever lowered; while a task holds the site the grade waits for its next test, and a bound site that falls below
C0 is spliced out; a control site below C1 serves no longer (R25, R462, R463, R470). -/
def gradeSite (s : State) (site : Nat) (c : BitVec 2) : State :=
  let t := s.site site
  let tile := s.tileAt site
  if c ≤ t.cls then s
  else if (match tile with | some l => (s.tile l).crew.isSome | none => false) then s.setSite site { t with grade := some c }
  else
    let s := s.setSite site { t with cls := c }
    match tile with
    | some l => if isControlTile l || s.splices.contains site then s else { s with splices := s.splices ++ [site] }
    | none => s

/-- A write to a service block by firmware (R463, R468). -/
def writeService (s : State) (site off : Nat) (v : Word) : State :=
  let t := s.site site
  if !isSite site || off % 8 ≠ 0 then s
  else if off = 0 then s.gradeSite site (v.extractLsb' 0 2)
  else if off = 0x10 then
    s.setField (fieldOf site) { s.field (fieldOf site) with vmarg := v.extractLsb' 16 16 }
  else if 0x40 ≤ off && off < 0x440 then
    s.setSite site { t with bankc := Tbl.set 0 t.bankc ((off - 0x40) / 8) (v &&& 0xFFFF0000FFFFFFFF) }
  else if 0x440 ≤ off && off < 0x460 then
    s.setSite site { t with linkc := Tbl.set 0 t.linkc ((off - 0x440) / 8) (v &&& 0xFFFFFFFF0000FFFF) }
  else if off = 0x460 then s.setSite site { t with msgc := v }
  else if 0x468 ≤ off && off < 0x488 then s.setSite site { t with corc := Tbl.set 0 t.corc ((off - 0x468) / 8) v }
  else s

end State

/-- The bytes of an error record (R465). -/
def ErrRec.bytes (r : ErrRec) : List Byte :=
  leBytes 8 r.time.toNat ++ [r.kind, r.cause] ++ leBytes 2 r.site ++ [BitVec.ofNat 8 (fieldOf r.site), r.core, r.unit, 0]
    ++ leBytes 2 r.sub.toNat ++ leBytes 2 r.tile.toNat ++ leBytes 4 r.task.toNat ++ leBytes 8 r.detail.toNat

namespace State

/-- A field's black box (R466). -/
def readBox (s : State) (field off : Nat) : Word :=
  let f := s.field field
  if off % 8 ≠ 0 then 0
  else if off < 0x20000 then match Tbl.find f.box (off / 32) with
    | some r => word64 r.bytes (off % 32)
    | none => 0
  else if off = 0x20000 then BitVec.ofNat 64 f.boxn
  else 0

/-- Reading 8 bytes of a register block in control space (R10, R440); what is not listed reads 0. -/
def ctrlRead (s : State) (a : Word) (level : BitVec 2) : Word :=
  let off := (a.extractLsb' 0 32).toNat
  let fw := level == 2
  match (a.extractLsb' 32 28).toNat with
  | 1 => if off / 2 ^ 24 < 64 then s.readGw (off / 2 ^ 24) (off % 2 ^ 24) fw else 0
  | 2 => if off < 4096 * 0x80 && off % 8 == 0 then s.readVer (off / 0x80) (off % 0x80 / 8) else 0
  | 3 => s.readTrapBlk (off / 0x1000) (off % 0x1000)
  | 4 => s.readBelay off fw
  | 5 => s.readSys off fw
  | 6 => s.readService (off / 0x1000) (off % 0x1000) fw
  | 7 => if off / 2 ^ 18 < 64 then s.readBox (off / 2 ^ 18) (off % 2 ^ 18) else 0
  | _ => 0

/-- Writing 8 bytes of a register block in control space, from a site: each field by its access code; a write from task level is
ignored (R10, R440). -/
def ctrlWrite (s : State) (a v : Word) (level : BitVec 2) (site : Nat) : State :=
  let off := (a.extractLsb' 0 32).toNat
  let fw := level == 2
  if level == 0 then s
  else match (a.extractLsb' 32 28).toNat with
    | 1 => if off / 2 ^ 24 < 64 then s.writeGw (off / 2 ^ 24) (off % 2 ^ 24) v fw else s
    | 2 => if off < 4096 * 0x80 && off % 8 == 0 then s.writeVer (off / 0x80) (off % 0x80 / 8) v else s
    | 3 => s.writeTrapBlk (off / 0x1000) (off % 0x1000) v
    | 4 => s.writeBelay off v fw
    | 5 => s.writeSys off v fw site
    | 6 => if fw then s.writeService (off / 0x1000) (off % 0x1000) v else s
    | _ => s

/-- HLRES (R442). -/
def hlres (h : HostFn) : Word :=
  BitVec.ofBool h.busy ++ BitVec.ofBool h.drop ++ 0#6 ++ h.seq ++ h.stat ++ h.err ++ h.task

/-- What the host reads in BAR0 of a function: its registers, the aperture table, the vector control of MSI-X and the pending bits, and the
system block's first 256 bytes, of which it sees what a level below firmware does (R10, R441, R442, R444; log entry 8). -/
def barRead (s : State) (fn off : Nat) : Word :=
  let h := s.host fn
  if off % 8 ≠ 0 then 0
  else if off = 0x000 then h.hlaunch
  else if off = 0x008 then hlres h
  else if off = 0x010 then h.hpuba
  else if off = 0x018 then h.hpubn
  else if off = 0x020 then h.hpubs
  else if off = 0x028 then h.hfn
  else if off = 0x030 then h.herr
  else if 0x1000 ≤ off && off < 0x1200 then Tbl.get 0 h.apt ((off - 0x1000) / 8)
  else if 0x40000 ≤ off && off < 0x40200 && off % 16 == 8 then
    0#31 ++ BitVec.ofBool (h.msixMask.getLsbD ((off - 0x40000) / 16)) ++ 0#32
  else if off = 0x41000 then 0#32 ++ h.msixPend
  else if 0x80000 ≤ off && off < 0x80100 then s.readSys (off - 0x80000) false
  else 0

/-- The host's writes to BAR0 of a function, other than HLAUNCH and HPUBN: HPUBA, the W1C bits, the aperture table, the vector
control of MSI-X (R441, R442, R444, R446); the model numbers them by their offset in BAR0 (log entry 8). -/
def barWrite (s : State) (fn off : Nat) (v : Word) : State :=
  if s.sys.stage = 0 then s
  else s.modHost fn (fun h =>
    if off = 0x008 then (if v.getLsbD 62 then { h with drop := false } else h)
    else if off = 0x010 then { h with hpuba := v }
    else if off = 0x030 then (if v.getLsbD 63 then { h with herr := 0 } else h)
    else if 0x1000 ≤ off && off < 0x1200 && off % 8 == 0 then
      { h with apt := Tbl.set 0 h.apt ((off - 0x1000) / 8) (v &&& 0xE00FFFFFC0000000) }
    else if 0x40000 ≤ off && off < 0x40200 && off % 16 == 8 then
      let bit : BitVec 32 := 1#32 <<< ((off - 0x40000) / 16)
      if v.getLsbD 32 then { h with msixMask := h.msixMask ||| bit }
      else { h with
        msixMask := h.msixMask &&& ~~~bit, msixPend := h.msixPend &&& ~~~bit
        msixSent := h.msixSent ||| (h.msixPend &&& bit) }
    else h)

end State

end Sys2Proof.Machine
end

