-- ==== Sys2Proof/Machine/EvHost.lean ====
section
/-! DEFINITION. Events of the outside: field power and the staged start (R30, R446, R451, R452), CXL and Folvibel links (R110, R279,
R447, R448), the host functions (R442-R446), live update and quiesce (R456-R458), the trust block (R455), SPDM (R454), and
accesses to the trap window and to control space (R10, R394, R440). -/

namespace Sys2Proof.Machine

namespace State

/-- Bound tiles of a field. -/
def fieldTiles (s : State) (f : Nat) : List Nat := (s.rebind.filter (fun e => fieldOf e.2.toNat == f)).map Prod.fst

/-- A field's power domain is lost: every bound tile of it has a fault, its control sites' contexts and its black box are gone; the
loss of the anchor resets the device (R30, R452, R466). -/
def fieldLoss (s : State) (f : Nat) : State :=
  let s := s.setField f { s.field f with power := false, throttled := false, throttleAt := [], droop := 0, box := [], boxn := 0 }
  if f = anchorField then s.resetDevice true
  else
    let tiles := s.fieldTiles f
    let crews := (tiles.filterMap (fun t => (s.tile t).crew)).eraseDups
    let s := s.recordIn anchorField 6 0 (controlSite f 0) 0xFF 0x10 0 0
    let s := crews.foldl (fun s c => match (s.crew c).cut with
      | some x => if x.decided then s else s.failCut c
      | none => s) s
    let lost (t : Nat) : Bool := isControlTile t && (t - 0xC000) / 4 == f
    { s with
      splices := s.splices ++ (tiles.map s.siteOf).filter (fun n => !s.splices.contains n)
      ctxs := s.ctxs.filter (fun e => !lost (tileOfCtx e.1))
      cores := s.cores.filter (fun e => !lost (tileOfCore e.1)) }

end State

/-- FIELD_POWER_LOSS (R30). -/
def execFieldPowerLoss (field : Nat) (s : State) : Ans :=
  if (s.field field).power then .next (s.fieldLoss field) else .next s

/-- DEVICE_RESET: power-on (R439, R446). -/
def execDeviceReset (s : State) : Ans := .next (s.resetDevice true)

/-- POWER_GOOD: power on the anchor field; ROM clears the vaults of the anchor's control sites (R451). -/
def execPowerGood (s : State) : Ans :=
  if s.sys.stage != 0 || (s.field anchorField).power then .next s
  else
    let sites := (List.range 4).map (controlSite anchorField)
    let s : State := { s with mem := s.mem.filter (fun e => !sites.any (fun n =>
      decide (vaultKey n 0 0 ≤ e.1) && decide (e.1 < vaultKey n 128 0))) }
    .next ((s.setField anchorField { s.field anchorField with power := true }).errorRecord 6 0 (controlSite anchorField 0) 0xFF 0x10 0 0)

/-- STAGE_ONE_ENTRY: Quinpin starts on the anchor field from the active slot, or the other where only that verifies, or ROM enters recovery
(R439, R451; log entry 66). -/
def execStageOneEntry (recovery : Bool) (s : State) : Ans :=
  if s.sys.stage != 0 || !(s.field anchorField).power then .next s
  else
    let i := s.startSlot
    let x := s.slotImage i
    .next ((s.modSys (fun y => { y with
      stage := 1, act := i, rcvy := recovery, qmaj := x.version.extractLsb' 8 8, qmin := x.version.extractLsb' 0 8 })).modTrust (fun t =>
        { t with standby := t.standby.or (some (s.slotImage (~~~i))) }))

namespace State

/-- The place of a field in the join order (R452). -/
def joinRank (f : Nat) : Nat × Nat := (fieldX f + (max (fieldY f) 3 - min (fieldY f) 3), f)

/-- A field's turn to join or to be given up has come (R451, R452). -/
def joinTurn (s : State) (f : Nat) : Bool :=
  let before (g : Nat) : Bool :=
    decide ((joinRank g).1 < (joinRank f).1) || (joinRank g).1 == (joinRank f).1 && decide (g < f)
  decide (1 ≤ s.sys.stage.toNat) && !s.sys.rcvy && !(s.field f).joined && !(s.field f).given
    && (f == anchorField || decide (2 ≤ s.sys.stage.toNat))
    && (List.range 64).all (fun g => !before g || (s.field g).joined || (s.field g).given)

/-- The site of a tile in the stored binding map (R452, R453). -/
def bindSite (s : State) (t : Nat) : Nat :=
  match Tbl.find s.sys.trust.bindMap t with
  | some n => n.toNat
  | none => shipSite t

/-- The tiles that the stored binding map has in a field. -/
def boundIn (s : State) (f : Nat) : List Nat := (List.range 0x8000).filter (fun t => fieldOf (s.bindSite t) == f)

/-- A tile enters the rebind tables at a site. -/
def bindTile (s : State) (t site : Nat) : State := { s with rebind := Tbl.set 0xFFFF s.rebind t (BitVec.ofNat 16 site) }

/-- A tile whose site cannot hold it takes a spare, or stays unbound (R427, R433, R452). -/
def bindSpare (s : State) (t : Nat) : State :=
  let u := s.partnerOf t
  match s.spareFor (s.bindSite t) (if s.bound u = 0xFFFF then s.bindSite u else s.bound u) with
  | some n => s.bindTile t n
  | none => s.modSys (fun y => { y with sell := y.sell - 1 })

/-- The stage after a field has joined or been given up (R451). -/
def stageNow (s : State) : State :=
  s.modSys (fun y => { y with
    stage := if (List.range 64).all (fun g => (s.field g).joined || (s.field g).given) then 3 else 2 })

/-- The sites of a field. -/
def fieldSites (f : Nat) : List Nat :=
  (List.range 23).flatMap (fun y => (List.range 24).map (fun x => siteNum (24 * fieldX f + x) (23 * fieldY f + y)))

/-- SVTEST at the end of a test (R463). -/
def testWord (old : Word) (res unit : BitVec 8) (rtime : BitVec 64) : Word :=
  BitVec.ofNat 16 (min 0xFFFF ((old.extractLsb' 48 16).toNat + 1)) ++ res ++ unit ++ rtime.extractLsb' 24 32

/-- The self-test of a field's start: each site's outcome is kept, and a failure recorded (R451, R463, R465). -/
def startTest (s : State) (f : Nat) (failed : List Nat) : State :=
  (fieldSites f).foldl (fun s n =>
    if failed.contains n then
      let unit := Config.freeByte s.free
      let s : State := { s with free := s.free + 1 }
      (s.modSite n (fun t => { t with unusable := true, svtest := testWord t.svtest 1 unit s.sys.rtime })).errorRecord 3 0 n 0xFF unit 0 0
    else s.modSite n (fun t => { t with svtest := testWord t.svtest 0 0 s.sys.rtime })) s

end State

/-- FIELD_JOIN: in its turn a field joins: its good sites take their tiles from the stored binding map, the tiles of failed sites
take spares, and FJOIN is set (R25, R451, R452). -/
def execFieldJoin (field : Nat) (failed : List Nat) (s : State) : Ans :=
  if !s.joinTurn field then .next s
  else
    let s := if (s.field field).power then s else
      (s.setField field { s.field field with power := true }).errorRecord 6 0 (controlSite field 0) 0xFF 0x10 0 0
    let s := s.startTest field failed
    let s := s.setField field { s.field field with joined := true }
    let tiles := s.boundIn field
    let good (t : Nat) : Bool := let n := s.site (s.bindSite t); n.cls == 0 && !n.hole && !n.unusable
    let s := (tiles.filter good).foldl (fun s t => s.bindTile t (s.bindSite t)) s
    let s := (tiles.filter (fun t => !good t)).foldl State.bindSpare s
    .next (s.modSys (fun y => { y with fjoin := y.fjoin ||| 1#64 <<< field })).stageNow

/-- FIELD_GIVEN_UP: a field whose power does not come up: its tiles take spares (R452). -/
def execFieldGivenUp (field : Nat) (s : State) : Ans :=
  if !s.joinTurn field || field = anchorField then .next s
  else
    let s := s.setField field { s.field field with given := true }
    .next (((s.boundIn field).foldl State.bindSpare s).stageNow.errorRecord 6 0 (controlSite field 0) 0xFF 0x10 0 0)

/-- CXL_PORT_DOWN: the unit's limit falls to 0, outstanding requests to it end with PA_INVALID, and deep belay is off (R447). -/
def execCxlPortDown (port : Nat) (s : State) : Ans :=
  let toPort (p : Pkt) : Bool := match p.body with
    | .home _ leaf pa _ => leaf == 0 && paUnit pa == 0x40 + port
    | _ => false
  let gone := s.net.filter toPort
  let s : State := { s with
    net := s.net.filter (fun p => !toPort p)
    sys := { s.sys with cxl := Tbl.set 0 s.sys.cxl port 0x4000000000000000, dbctl := 0 } }
  .next (gone.foldl (fun s p => match p.body with
    | .home r _ _ h => s.farAnswer (gwSite (fieldOfHome h)) r ePa [] false
    | _ => s) s)

/-- CXL_PORT_UP: the link is trained and the device's HDM range mapped, 512 GB at most (R111, R447). -/
def execCxlPortUp (port : Nat) (lanes rate : BitVec 8) (gb : BitVec 16) (s : State) : Ans :=
  let w : Word := 1#1 ++ 0#15 ++ lanes ++ rate ++ gb ++ BitVec.ofNat 16 (min 512 gb.toNat)
  .next (s.modSys (fun y => { y with cxl := Tbl.set 0 y.cxl port w }))

namespace State

/-- Channels to a wafer become lost, and their unacknowledged messages arrive with PEER_LOST: those sent at once, those still queued when
they start (R279); `only` names the port that failed. -/
def loseChannels (s : State) (wafer : Nat) (only : Option Nat) : State :=
  let hit (tile chan : Nat) : Bool := match only with
    | some q => s.chanPort wafer tile chan == some q
    | none => true
  let gone (tile : Nat) (h : MsgHdr) : Bool := h.dwaf == wafer && h.dwaf != s.sys.wnum.toNat && hit tile h.schan
  let s := s.tiles.foldl (fun s e => e.2.retx.foldl (fun s r => if gone e.1 r.hdr then s.endSend e.1 r ePeerLost else s) s) s
  let s := s.cores.foldl (fun s e => (e.2.uq ++ e.2.tq).foldl (fun s q => match q.kind with
    | .send false h _ id => if gone (tileOfCore e.1) h then s.ackOut e.1 id else s
    | _ => s) s) s
  let late (core : Nat) (q : Cmd) : Cmd := match q.kind with
    | .send false h src id => if gone (tileOfCore core) h then { q with kind := .send true h src id } else q
    | _ => q
  { s with cores := s.cores.map (fun e => (e.1, { e.2 with uq := e.2.uq.map (late e.1), tq := e.2.tq.map (late e.1), chans := e.2.chans.map (fun c =>
      if c.2.remote && c.2.waf.toNat == wafer && c.2.st == 1 && hit (tileOfCore e.1) c.1 then (c.1, { c.2 with st := 2, outn := 0 }) else c) })) }

/-- Outstanding requests to a wafer complete with PEER_LOST, all or those that use a port, and the gateways drop the wafer's leaves (R110,
R449). -/
def losePeers (s : State) (wafer : Nat) (port : Option Nat) : State :=
  let gone (p : Nat × FarReq) : Bool := p.1 == wafer && (port.isNone || p.2.port == port)
  let ours (l : Leaf) : Bool := l.tag.map Prod.fst == some wafer
  let s1 : State := { s with
    peers := s.peers.filter (fun p => !gone p)
    gws := s.gws.map (fun g => (g.1, { g.2 with leaves := g.2.leaves.filter (fun l => !ours l) })) }
  (s.peers.filter gone).foldl (fun s p => s.farDone p.2 ePeerLost [] false) s1

end State

/-- FOLVIBEL_LINK_TRAIN: a port trains with its peer, unless the peer reports this wafer's own number; a peer known under another
incarnation has been reset: what was under way to it is lost (R109, R279, R448). -/
def execFolvibelLinkTrain (port : Nat) (wafer : BitVec 8) (inc : BitVec 16) (pport : BitVec 5) (s : State) : Ans :=
  if wafer = s.sys.wnum then .next s
  else
    let other := s.sys.fv.any (fun e => e.2.extractLsb' 48 8 == wafer && e.2.extractLsb' 32 16 != inc && e.2 != 0)
    let s := if other then ((s.losePeers wafer.toNat none).loseChannels wafer.toNat none) else s
    let retry := (Tbl.get 0 s.sys.fv port).extractLsb' 0 24
    .next (s.modSys (fun y => { y with fv := Tbl.set 0 y.fv port (1#1 ++ 0#7 ++ wafer ++ inc ++ 0#3 ++ pport ++ retry) })).settle

/-- FOLVIBEL_LINK_DOWN: outstanding requests to the wafers behind the link complete with PEER_LOST, and the channels that used it
are lost (R110, R279, R449). -/
def execFolvibelLinkDown (port : Nat) (s : State) : Ans :=
  if !s.portUp port then .next s
  else
    let wafers := (List.range 256).filter (fun w => (s.peerPorts w).contains port)
    let s := wafers.foldl (fun s w => (s.losePeers w (some port)).loseChannels w (some port)) s
    .next (s.modSys (fun y => { y with fv := Tbl.set 0 y.fv port (Tbl.get 0 y.fv port &&& 0x7FFFFFFFFFFFFFFF) })).settle

/-- HLAUNCH: a host write of HLAUNCH: discarded while one is being handled, else one LAUNCH.nb (R442, R443, R445). -/
def execHlaunch (fn : Nat) (addr : Word) (s : State) : Ans :=
  if s.sys.stage = 0 then .next s
  else if (s.host fn).busy then .next (s.modHost fn (fun h => { h with drop := true }))
  else .next ((s.modHost fn (fun h => { h with busy := true, hlaunch := addr })).hostSettle fn)

/-- HPUBN: a host write of HPUBN starts a publish (R442, R444, R445). -/
def execHpubn (fn : Nat) (len : Word) (s : State) : Ans :=
  if s.sys.stage = 0 then .next s
  else .next ((s.modHost fn (fun h => { h with hpubn := len, hpubs := 1, pubq := h.pubq ++ [(h.hpuba, len)] })).hostSettle fn)

/-- HERR_CLEAR (R442). -/
def execHerrClear (fn : Nat) (s : State) : Ans :=
  if s.sys.stage = 0 then .next s else .next (s.modHost fn (fun h => { h with herr := 0 }))

/-- HLRES_DROP_CLEAR (R442). -/
def execHlresDropClear (fn : Nat) (s : State) : Ans :=
  if s.sys.stage = 0 then .next s else .next (s.modHost fn (fun h => { h with drop := false }))

/-- Where an aperture leads (R444). -/
inductive HostAt where
  | phys (pa : Nat)
  | virt (a : Word)
  deriving DecidableEq, Repr

namespace State

/-- The place of an offset in BAR2; `none` in a disabled aperture (R444, R451). -/
def hostPlace (s : State) (fn off : Nat) : Option HostAt :=
  let h := s.host fn
  let n := off / 2 ^ 30
  let w := Tbl.get 0 h.apt n
  let base := (w.extractLsb' 30 22).toNat * 2 ^ 30 + off % 2 ^ 30
  if !w.getLsbD 63 then none
  else if w.getLsbD 62 && (h.hfn.getLsbD 4 || s.sys.rcvy && n == 0) then some (.phys base)
  else some (.virt (BitVec.ofNat 64 (2 * 2 ^ 60 + base)))

/-- Whether an aperture may be written. -/
def hostMayWrite (s : State) (fn off : Nat) : Bool := (Tbl.get 0 (s.host fn).apt (off / 2 ^ 30)).getLsbD 61

/-- Host bytes line by line: `none` for a disabled aperture, else the bytes or the far error. -/
def hostPieces (s : State) (fn : Nat) (ps : List (Word × Nat)) : Option (Except (BitVec 8) (List Byte) × State) :=
  match ps with
  | [] => some (.ok [], s)
  | (o, n) :: rest => match s.hostPlace fn o.toNat with
    | none => none
    | some x =>
      let (r, s) := match x with
        | .phys pa => ((if s.rangeOk pa n then .ok (s.readPa pa n) else .error ePa : Except (BitVec 8) (List Byte)), s)
        | .virt a => s.hostRead fn a n
      match r with
      | .error e => some (.error e, s)
      | .ok bs => (s.hostPieces fn rest).map (fun q => (q.1.map (fun more => bs ++ more), q.2))

/-- Host bytes from an offset. -/
def hostBytes (s : State) (fn off len : Nat) : Option (Except (BitVec 8) (List Byte) × State) :=
  s.hostPieces fn (linePieces (BitVec.ofNat 64 off) len)

end State

/-- HOST_FAR_READ: a host read through an aperture, behind the function's posted writes (R444, R445). -/
def execHostFarRead (fn : Nat) (off : BitVec 36) (len : Nat) (s : State) : Ans :=
  if s.sys.stage = 0 || s.hostWaits fn then .next s
  else match s.hostBytes fn off.toNat len with
    | none => .next (s.modHost fn (fun h => { h with readOut := some .unsupportedRequest }))
    | some (.error e, s) =>
      .next ((s.hostErr fn e (off.toNat % 2 ^ 30)).modHost fn (fun h => { h with readOut := some .completerAbort }))
    | some (.ok bs, s) => .next (s.modHost fn (fun h => { h with readOut := some (.data bs) }))

namespace State

/-- A piece of a host write within one page (R99, R444, R445). -/
def hostPiece (s : State) (fn off : Nat) (data : List Byte) : State :=
  let fail (s : State) (e : BitVec 8) : State := s.hostErr fn e (off % 2 ^ 30)
  match s.hostPlace fn off with
  | none => s
  | some x =>
    if !s.hostMayWrite fn off then fail s eRights
    else match x with
      | .phys pa => if s.rangeOk pa data.length then s.writePa pa data else fail s ePa
      | .virt a =>
        let part := s.pctx fn
        match s.translate anchorField part (a.toNat % 2 ^ 52) .write false with
        | (.error e, s) => fail s e
        | (.ok l, s) =>
          let h := l.addr / 8 % 32
          let leaf := 1 + l.addr / 2 ^ 24 * 2 ^ 16 + l.addr / 256 % 2 ^ 16
          let at_ := a.toNat % 2 ^ 52 - l.va
          let r : FarReq := { id := s.nextId, ctx := 0, core := hostCore, crew := none, part, va := a, kind := .write data s.nextId,
                              home := some h, from_ := 16 + fn }
          let s : State := { s with nextId := s.nextId + 1 }
          let wait (s : State) : State := s.setHome h (let m := s.home h; { m with waiting := m.waiting ++ [(r, leaf, at_)] })
          if s.waitsFor h part leaf || (s.home h).waiting.any (fun w => hostOf w.1 == some fn) then wait s
          else match s.bufWrite h r leaf at_ data with
            | none => wait s
            | some (err, s) => if err = 0 then s else fail s err

end State

/-- HOST_FAR_WRITE: a host write through an aperture, page by page: into a buffer's shadow or to a PA (R444, R445). -/
def execHostFarWrite (fn : Nat) (off : BitVec 36) (data : List Byte) (s : State) : Ans :=
  if s.sys.stage = 0 then .next s
  else
    let o := off.toNat
    let first := o / 4096
    let n := (o + data.length + 4095) / 4096 - first
    .next ((List.range n).foldl (fun s i =>
      let lo := max o ((first + i) * 4096)
      let bs := (data.drop (lo - o)).take ((first + i + 1) * 4096 - lo)
      if bs.isEmpty then s else s.hostPiece fn lo bs) s)

/-- FUNCTION_LEVEL_RESET: the function's apertures, HLRES, HPUBS, HERR and MSI-X state are cleared; a launch under way completes
unseen (R446). -/
def execFunctionLevelReset (fn : Nat) (s : State) : Ans :=
  .next (s.modHost fn (fun h => { h with
    apt := [], drop := false, seq := 0, stat := 0, err := 0, task := 0, discard := h.busy, hpubs := 0, herr := 0
    msixMask := 0xFFFFFFFF, msixPend := 0, msixSent := 0 }))

/-- HIRQ: a steward write of HIRQ (R446). -/
def execHirq (v : Word) (s : State) : Ans := .next (s.raiseIrq v)

/-- DEVRST: a firmware write of DEVRST (R439, R446). -/
def execDevrst (v : Word) (s : State) : Ans := if v.getLsbD 0 then .next (s.resetDevice false) else .next s

/-- QUIESCE: a write of QSC that sets Q (R456, R457). -/
def execQuiesce (v : Word) (s : State) : Ans := if v.getLsbD 0 then .next (s.writeQsc v) else .next s

/-- QUIESCE_DONE: nothing is in progress: the frozen body is at HPA + 64, its length in STLEN, and DONE is set (R457). -/
def execQuiesceDone (body : List Byte) (s : State) : Ans :=
  let pa := (s.sys.qsc.extractLsb' 6 42).toNat * 64 + 64
  if !s.quiesced || s.sys.qdone || (List.range 4).any (fun f => (s.host f).busy) || !s.rangeOk pa body.length then .next s
  else .next ((s.writePa pa body).modSys (fun y => { y with stlen := BitVec.ofNat 64 body.length, qdone := true }))

/-- QUIESCE_RELEASE: a write of QSC that clears Q (R456, R457). -/
def execQuiesceRelease (v : Word) (s : State) : Ans := if v.getLsbD 0 then .next s else .next (s.writeQsc v)

/-- QBOOT_GO: a write of QBOOT with GO (R451, R456). -/
def execQbootGo (v : Word) (s : State) : Ans := if v.getLsbD 63 then .next (s.writeQboot v) else .next s

/-- QBOOT_CANCEL: a write of QBOOT with CANCEL (R456). -/
def execQbootCancel (v : Word) (s : State) : Ans := if v.getLsbD 62 then .next (s.writeQboot v) else .next s

/-- HBEAT_WRITE: the new image, if it accepts the handover structure, writes HBEAT from a site (R456, R458). -/
def execHbeatWrite (site : Nat) (s : State) : Ans := .next (if s.handoverOk then s.writeHbeat site else s)

/-- VERIFY: trust block op 1 (R455). -/
def execVerify (s : State) : Ans :=
  match s.trustArgs 1 with
  | none => .next s
  | some (a, _) => match s.verifyImage a.toNat with
    | .error e => .next (s.trustOut e 0)
    | .ok _ => .next (s.trustOut 0 0)

/-- MEASURE: trust block op 2: a verified image is copied into the slot that is not active and sets index 6 (R455). -/
def execMeasure (s : State) : Ans :=
  match s.trustArgs 2 with
  | none => .next s
  | some (a, b) =>
    if 1 < b.toNat then .next (s.trustOut tbRange 0)
    else if b.extractLsb' 0 1 = s.sys.act then .next (s.trustOut tbState 0)
    else match s.verifyImage a.toNat with
      | .error e => .next (s.trustOut e 0)
      | .ok x =>
        let slot := b.extractLsb' 0 1
        .next (((s.setSlot slot x).modTrust (fun t => { t with pending := some (slot, x) })).trustOut 0 0)

/-- COMMIT: trust block op 3: the measured slot becomes active (R455, R456). -/
def execCommit (s : State) : Ans :=
  match s.trustArgs 3 with
  | none => .next s
  | some (_, b) =>
    if 1 < b.toNat then .next (s.trustOut tbRange 0)
    else match s.sys.trust.pending with
      | none => .next (s.trustOut tbState 0)
      | some (slot, x) =>
        if b.extractLsb' 0 1 != slot then .next (s.trustOut tbState 0)
        else
          let old := s.slotImage s.sys.act
          let s := s.modTrust (fun t => { t with
            pending := none, standby := some old, floor := if t.floor < x.svn then x.svn else t.floor })
          let s := s.modSys (fun y => { y with
            act := slot, upd := false, qmaj := x.version.extractLsb' 8 8, qmin := x.version.extractLsb' 0 8 })
          .next ((s.errorRecord 7 0 (controlSite anchorField 0) 0xFF 0 0 0).trustOut 0 0)

/-- REVERT: trust block op 4 (R455). -/
def execRevert (s : State) : Ans :=
  match s.trustArgs 4 with
  | none => .next s
  | some _ => .next ((s.modTrust (fun t => { t with pending := none })).trustOut 0 0)

/-- CRC32: trust block op 5 (R455). -/
def execCrc32 (s : State) : Ans :=
  match s.trustArgs 5 with
  | none => .next s
  | some (a, b) =>
    if !s.rangeOk a.toNat b.toNat then .next (s.trustOut tbRange 0)
    else .next (s.trustOut 0 (crc32 (s.readPa a.toNat b.toNat)))

/-- TRUST_OPERATION_DONE: BUSY clears and TBST reports the outcome (R455). -/
def execTrustOperationDone (s : State) : Ans :=
  match s.sys.trust.out with
  | none => .next s
  | some (res, val) => .next (s.modTrust (fun t => { t with out := none, busy := false, res, val }))

namespace State

/-- The measurement blocks (R454); in recovery that of the ROM only (R451). -/
def measurements (s : State) : List (Nat × BitVec 256) :=
  let t := s.sys.trust
  let rom := [(1, Config.romMeasurement 0)]
  let d (i : Nat) (bs : List Byte) : Nat × BitVec 256 := (i, Config.spdmDigest i bs)
  if s.sys.rcvy then rom
  else rom ++ [d 2 (slotBytes (s.slotImage s.sys.act))] ++ (t.standby.map (fun x => d 3 (slotBytes x))).toList
    ++ [d 4 (leBytes 2 t.floor.toNat ++ [t.revoked.setWidth 8])]
    ++ [d 5 ((List.range 0x8000).flatMap (fun i => leBytes 2 (s.bindSite i)) ++ leBytes 8 s.runtimeVector.toNat
        ++ leBytes 8 s.binningVector.toNat)]
    ++ (t.pending.map (fun x => d 6 (slotBytes x.2))).toList

/-- The SPDM responder answers a request that stage `need` of the exchange allows, one after another; while the device is quiesced
it answers Busy (R454, R457). -/
def spdmAnswer (s : State) (fn need next : Nat) (ans : SpdmAns) : State :=
  if s.sys.stage = 0 then s
  else
    let d := s.sys.spdm
    let put (stage : Nat) (a : SpdmAns) : State := s.modSys (fun y => { y with spdm := { stage, ans := Tbl.put d.ans fn a } })
    if s.quiesced then put d.stage .busy
    else if d.stage < need then put d.stage .unexpected
    else put next ans

end State

/-- GET_VERSION (R454). -/
def execGetVersion (fn : Nat) (s : State) : Ans := .next (s.spdmAnswer fn 0 1 (.version [1, 1] [2, 3]))

/-- GET_CAPABILITIES (R454). -/
def execGetCapabilities (fn : Nat) (s : State) : Ans := .next (s.spdmAnswer fn 1 2 (.capabilities true true true true))

/-- NEGOTIATE_ALGORITHMS: ECDSA P-256 and SHA-256 only (R454). -/
def execNegotiateAlgorithms (fn : Nat) (s : State) : Ans := .next (s.spdmAnswer fn 2 3 (.algorithms true true))

/-- GET_DIGESTS: the digest of the chain in slot 0 (R453, R454). -/
def execGetDigests (fn : Nat) (s : State) : Ans := .next (s.spdmAnswer fn 3 3 (.digests (sha256 (Config.certChain 0))))

/-- GET_CERTIFICATE (R453, R454). -/
def execGetCertificate (fn : Nat) (s : State) : Ans := .next (s.spdmAnswer fn 3 3 (.certificate (Config.certChain 0)))

/-- CHALLENGE: signed with the device identity key (R453, R454). -/
def execChallenge (fn : Nat) (nonce : BitVec 256) (s : State) : Ans :=
  let digest := Config.spdmDigest 0 (hashBytes nonce ++ s.measurements.flatMap (fun m => hashBytes m.2))
  .next (s.spdmAnswer fn 3 3 (.challengeAuth digest (Config.deviceSign digest)))

/-- GET_MEASUREMENTS: the count for index 0, every block for 0xFF, else the block of that index, signed (R454). -/
def execGetMeasurements (fn index : Nat) (s : State) : Ans :=
  let ms := s.measurements
  let out := if index = 0xFF then ms else ms.filter (fun m => m.1 == index)
  let sig := Config.deviceSign (Config.spdmDigest 0 (out.flatMap (fun m => hashBytes m.2)))
  .next (s.spdmAnswer fn 3 3 (if index = 0 then .count ms.length else if out.isEmpty then .invalid else .measurements out sig))

/-- REGISTER_WRITE: a write from a tile to a register of control space, each field by its access code (R10, R440); an address below
2^20 is an offset in BAR0 of function `tile`, written by the host at level 3, and HFN by firmware (R442, log entry 8). -/
def execRegisterWrite (addr v : Word) (level : BitVec 2) (tile : Nat) (s : State) : Ans :=
  if addr.toNat < 2 ^ 20 then
    if level = 3 then .next (s.barWrite (tile % 4) addr.toNat v)
    else if level = 2 && addr = 0x028 then .next (s.modHost (tile % 4) (fun h => { h with hfn := v &&& 0x1F }))
    else .next s
  else if spaceOf addr = 5 && !isPhysWindow addr then .next (s.ctrlWrite addr v level (s.siteOf tile))
  else .next s

/-- TRAP_WINDOW_ACCESS_ARRIVAL: an access to spaces 4 and 5 reads or lands where it arrives, and is answered; one to a context that
is neither frozen nor held raises operand format (R394, R395, R440). -/
def execTrapWindowAccessArrival (n : Nat) (s : State) : Ans :=
  match s.arrived n (fun b => match b with | .window .. => true | _ => false) with
  | none => .next s
  | some (p, s1) => match p.body with
    | .window a en v wr len level =>
      let fault (cause : BitVec 8) : Ans := .next (s1.failWait p.ctx cause a)
      let reply (s : State) (v : BitVec 512) : Ans :=
        .next (if (s.ctx p.ctx).used then
          s.answer p (if spaceOf a == 4 then globalTile a else ctrlTile a) (.data v none) else s)
      if spaceOf a == 4 then
        if s1.winRefused a then fault cFormat
        else if wr then reply (s1.winStore a en v level) 0
        else reply s1 (vecOfBytes (s1.winRead a len))
      else if isPhysWindow a then
        let pa := physOf a
        if !s1.rangeOk pa len then fault cCopy
        else if s1.chanHeld pa then .next s
        else if wr then
          reply ((List.range len).foldl (fun s i => if en.getLsbD i then s.writePa (pa + i) [byteOf v i] else s) s1) 0
        else reply s1 (vecOfBytes (s1.readPa pa len))
      else if wr then reply (s1.ctrlWrite a (v.setWidth 64) level (s1.siteOf p.src)) 0
      else reply s1 ((s1.ctrlRead a level).setWidth 512)
    | _ => .next s

end Sys2Proof.Machine
end

