-- ==== Sys2Proof/Machine/EvService.lean ====
section
/-! DEFINITION. Events of service: heat and droop (R343, R469), voltage margins (R468), HBM4E repair (R461) and self-test between tasks
(R462). -/

namespace Sys2Proof.Machine

namespace State

/-- Strict crews with a tile in a field. -/
def strictCrews (s : State) (f : Nat) : List Nat :=
  ((s.fieldTiles f).filterMap (fun t => (s.tile t).crew)).eraseDups.filter (fun c => (s.crew c).live && !(s.crew c).el)

/-- The fields that hold tiles of a crew. -/
def crewFields (s : State) (c : Nat) : List Nat := ((s.crewTiles c).map (fun t => fieldOf (s.siteOf t))).eraseDups

/-- The vc that a crew's announcement names: 1,024 past its copies (R343). -/
def announceVc (s : State) (c : Nat) : Nat := (s.crewTiles c).foldl (fun m t => max m (s.tile t).vcc) 0 + 1024

end State

/-- THERMAL_THROTTLE: a junction reaches 100 °C: a field without strict crews throttles at once; for a strict crew every field that
holds one of its tiles is told a vc 1,024 ahead, and throttles when the crew has come to it (R343, R469). -/
def execThermalThrottle (field : Nat) (s : State) : Ans :=
  let d := s.field field
  if !d.power || d.throttled then .next s
  else
    let crews := s.strictCrews field
    if d.throttleAt.isEmpty then
      if crews.isEmpty then .next (s.setField field { d with throttled := true })
      else .next (crews.foldl (fun s c =>
        let vc := s.announceVc c
        (s.crewFields c).foldl (fun s f => s.setField f { s.field f with throttleAt := (s.field f).throttleAt ++ [(c, vc)] }) s) s)
    else if d.throttleAt.all (fun x => !(s.crew x.1).live || (s.crewTiles x.1).all (fun t => decide (x.2 ≤ (s.tile t).vcc))) then
      .next (s.setField field { d with throttled := true, throttleAt := [] })
    else .next s

/-- THERMAL_SHUTDOWN: at 115 °C the field's power domain is shut down (R30, R469). -/
def execThermalShutdown (field : Nat) (s : State) : Ans :=
  if (s.field field).power then .next (s.fieldLoss field) else .next s

/-- DROOP_STRETCH: the field's clock stands still for at most 8 rc, of two router cycles each (R343). -/
def execDroopStretch (field cycles : Nat) (s : State) : Ans :=
  let d := s.field field
  if !d.power then .next s
  else .next (s.setField field { d with droop := s.sys.rtime.toNat + 2 * min cycles 8 })

/-- MARGIN_REPLAN: firmware sets a field's margin, up to the highest; there, a site that does not reach 20 ps is recorded, and
graded at its next free test (R468). -/
def execMarginReplan (field : Nat) (mv : BitVec 16) (s : State) : Ans :=
  let d := s.field field
  if !d.joined || !d.power then .next s
  else
    let top := Config.maxMargin field
    let m := BitVec.ofNat 16 (min mv.toNat top)
    let s := s.setField field { d with vmarg := m }
    if mv.toNat < top then .next s
    else
      let slow := (State.fieldSites field).filter (fun n => decide ((Config.pathSlack n m).toNat < 20))
      .next (slow.foldl (fun s n =>
        (s.errorRecord 2 0 n 0xFF 0 0 0).modSite n (fun t => { t with grade := some (t.grade.getD 3) })) s)

/-- HBM_REPAIR_START: a pin has passed its threshold, which is recorded, and its channel pauses for a repair, unless a deep belay writes its
image (R461, R465, R470; log entry 98). -/
def execHbmRepairStart (stack channel : Nat) (s : State) : Ans :=
  let k := 64 * stack + channel
  if 64 ≤ channel || s.sys.deepReq.isSome || s.sys.held.contains k then .next s
  else .next ((s.modSys (fun y => { y with held := y.held ++ [k] })).errorRecord 2 0 (controlSite (fieldOfHome (stack / 2)) 3) 0xFF 0x0D k 0)

/-- HBM_REPAIR_DONE: the pin is remapped and the channel resumes; with no redundant lane left it is degraded (R461, R465). -/
def execHbmRepairDone (stack channel : Nat) (s : State) : Ans :=
  let k := 64 * stack + channel
  if !s.sys.held.contains k then .next s
  else
    let used := (Tbl.get (0, 0) s.hbm k).1 + 1
    let left := if Config.redundantLanes k ≤ used then 1 else 0
    let s := s.modSys (fun y => { y with held := y.held.filter (fun x => x != k) })
    .next ({ s with hbm := Tbl.set (0, 0) s.hbm k (used, left) }.errorRecord 4 0
      (controlSite (fieldOfHome (stack / 2)) 3) 0xFF 0x0D k 0)

namespace State

/-- Free tiles of a partition. -/
def freeTiles (s : State) (p : Nat) : List Nat :=
  ((List.range (s.part p).count).map (fun i => (s.part p).base + i)).filter (fun t => s.tileBound t && (s.tile t).crew.isNone)

/-- Another site of the partition may be put under test: at most one in 64 of its free tiles (R462). -/
def testRoom (s : State) (t : Nat) : Bool :=
  match s.partOfTile t with
  | none => true
  | some p =>
    let free := s.freeTiles p
    decide ((free.filter (fun u => (s.site (s.siteOf u)).testing)).length < (free.length + 63) / 64)

end State

/-- SELF_TEST_START: a test of a site that no task holds; where the partner too is free its keep is tested, and holds no valid
image (R423, R462, R470). -/
def execSelfTestStart (site : Nat) (s : State) : Ans :=
  let t := s.site site
  if !isSite site || t.testing || !s.siteUp site then .next s
  else
    let s := s.modSite site (fun t => { t with testing := true })
    match s.tileAt site with
    | none => .next (s.modSite site (fun t => { t with sk0 := none, sk1 := none, skc := false, keepv := false, rope := [] }))
    | some l =>
      if isControlTile l then .next s
      else if (s.tile l).crew.isSome || !(s.modSite site (fun t => { t with testing := false })).testRoom l then
        .next (s.modSite site (fun t => { t with testing := false }))
      else if (s.tile (s.partnerOf l)).crew.isNone then
        .next (s.modSite site (fun t => { t with sk0 := none, sk1 := none, skc := false, keepv := false, rope := [] }))
      else .next s

/-- The class of a test's outcome, whether the site is a hole, RES, and the unit code where the outcome tells it (R462, R463, R465).  R462 gives
a failed router no class: a hole shows class 3 (DESIGN CHOICE, log entry 4). -/
def testGrade (o : TestOutcome) : BitVec 2 × Bool × BitVec 8 × Option (BitVec 8) :=
  match o with
  | .pass => (0, false, 0, some 0)
  | .matrixFails => (1, false, 1, none)
  | .banks24 => (2, false, 2, some 0x08)
  | .banksFew => (3, false, 2, some 0x08)
  | .unitFails => (3, false, 1, none)
  | .routerFails => (3, true, 1, some 0x07)

namespace State

/-- The fence bits of a site are cleared (R264, R462). -/
def unfence (s : State) (site : Nat) : State :=
  let clear (s : State) (n : Nat) : State := s.modSite n (fun t => { t with fence := t.fence.filter (fun x => x != site) })
  ((site :: (List.range 4).filterMap (nextSite site)).foldl clear s).modSite site (fun t => { t with fenced := false })

end State

/-- SELF_TEST_COMPLETE: the site has its grade, a class being only ever lowered; a failure is recorded, a bound site below C0 is
spliced out, and the fence is cleared (R25, R264, R462, R463, R465, R468). -/
def execSelfTestComplete (site : Nat) (outcome : TestOutcome) (s : State) : Ans :=
  let t := s.site site
  if !t.testing then .next s
  else
    let (c, hole, res, known) := testGrade outcome
    let unit := known.getD (Config.freeByte s.free)
    let s : State := if known.isNone then { s with free := s.free + 1 } else s
    let s := if outcome = .pass then s else s.errorRecord 3 0 site 0xFF unit 0 0
    let wait := t.grade.getD 0
    let low (a b : BitVec 2) : BitVec 2 := if a ≤ b then b else a
    let cls := low (low t.cls c) wait
    let s := s.modSite site (fun t => { t with
      testing := false, cls, hole := t.hole || hole, unusable := if (controlOf site).isSome then decide (2 ≤ cls.toNat) else cls != 0, grade := none
      svtest := State.testWord t.svtest res unit s.sys.rtime })
    let s := s.unfence site
    match s.tileAt site with
    | some l =>
      if cls = 0 || isControlTile l || s.splices.contains site then .next s else .next { s with splices := s.splices ++ [site] }
    | none => .next s

end Sys2Proof.Machine
end

