-- ==== Sys2Proof/Machine/Dispatch.lean ====
section
/-! DEFINITION. The meaning of every step: one arm per constructor of `Instr`. -/

namespace Sys2Proof.Machine

def exec (i : Instr) (s : State) : Host.Outcome State Fault Refusal :=
  match i with
  | .add g ty sat d a b => Sys2Proof.Machine.execAdd g ty sat d a b s
  | .addi g ty sat d a imm => Sys2Proof.Machine.execAddi g ty sat d a imm s
  | .sub g ty sat d a b => Sys2Proof.Machine.execSub g ty sat d a b s
  | .mul g ty sat d a b => Sys2Proof.Machine.execMul g ty sat d a b s
  | .mulImm g ty sat d a imm => Sys2Proof.Machine.execMulImm g ty sat d a imm s
  | .mulh g d a b => Sys2Proof.Machine.execMulh g d a b s
  | .mulhn g d a b => Sys2Proof.Machine.execMulhn g d a b s
  | .and g d a b => Sys2Proof.Machine.execAnd g d a b s
  | .andImm g d a imm => Sys2Proof.Machine.execAndImm g d a imm s
  | .or g d a b => Sys2Proof.Machine.execOr g d a b s
  | .orImm g d a imm => Sys2Proof.Machine.execOrImm g d a imm s
  | .xor g d a b => Sys2Proof.Machine.execXor g d a b s
  | .xorImm g d a imm => Sys2Proof.Machine.execXorImm g d a imm s
  | .andn g d a b => Sys2Proof.Machine.execAndn g d a b s
  | .andnImm g d a imm => Sys2Proof.Machine.execAndnImm g d a imm s
  | .shl g d a b => Sys2Proof.Machine.execShl g d a b s
  | .shlImm g d a imm => Sys2Proof.Machine.execShlImm g d a imm s
  | .shr g d a b => Sys2Proof.Machine.execShr g d a b s
  | .shrImm g d a imm => Sys2Proof.Machine.execShrImm g d a imm s
  | .sar g d a b => Sys2Proof.Machine.execSar g d a b s
  | .sarImm g d a imm => Sys2Proof.Machine.execSarImm g d a imm s
  | .rol g d a b => Sys2Proof.Machine.execRol g d a b s
  | .rolImm g d a imm => Sys2Proof.Machine.execRolImm g d a imm s
  | .min g d a b => Sys2Proof.Machine.execMin g d a b s
  | .minImm g d a imm => Sys2Proof.Machine.execMinImm g d a imm s
  | .max g d a b => Sys2Proof.Machine.execMax g d a b s
  | .maxImm g d a imm => Sys2Proof.Machine.execMaxImm g d a imm s
  | .minn g d a b => Sys2Proof.Machine.execMinn g d a b s
  | .minnImm g d a imm => Sys2Proof.Machine.execMinnImm g d a imm s
  | .maxn g d a b => Sys2Proof.Machine.execMaxn g d a b s
  | .maxnImm g d a imm => Sys2Proof.Machine.execMaxnImm g d a imm s
  | .cmp g ty cond d a b => Sys2Proof.Machine.execCmp g ty cond d a b s
  | .cmpImm g ty cond d a imm => Sys2Proof.Machine.execCmpImm g ty cond d a imm s
  | .sel g d a b c => Sys2Proof.Machine.execSel g d a b c s
  | .mov g d a => Sys2Proof.Machine.execMov g d a s
  | .movi g d imm => Sys2Proof.Machine.execMovi g d imm s
  | .movh g d imm => Sys2Proof.Machine.execMovh g d imm s
  | .lea g d mem => Sys2Proof.Machine.execLea g d mem s
  | .clz g d a => Sys2Proof.Machine.execClz g d a s
  | .ctz g d a => Sys2Proof.Machine.execCtz g d a s
  | .popc g d a => Sys2Proof.Machine.execPopc g d a s
  | .bfx g sx d a bf => Sys2Proof.Machine.execBfx g sx d a bf s
  | .bfi g d a bf => Sys2Proof.Machine.execBfi g d a bf s
  | .sext g ty d a => Sys2Proof.Machine.execSext g ty d a s
  | .zext g ty d a => Sys2Proof.Machine.execZext g ty d a s
  | .divstep g q d a b c j => Sys2Proof.Machine.execDivstep g q d a b c j s
  | .pset g d a => Sys2Proof.Machine.execPset g d a s
  | .pand g d a b => Sys2Proof.Machine.execPand g d a b s
  | .por g d a b => Sys2Proof.Machine.execPor g d a b s
  | .pxor g d a b => Sys2Proof.Machine.execPxor g d a b s
  | .pnot g d a => Sys2Proof.Machine.execPnot g d a s
  | .mfs g d sr => Sys2Proof.Machine.execMfs g d sr s
  | .mts g sr a => Sys2Proof.Machine.execMts g sr a s
  | .vadd g ty rm sat vm d a b => Sys2Proof.Machine.execVadd g ty rm sat vm d a b s
  | .vsub g ty rm sat vm d a b => Sys2Proof.Machine.execVsub g ty rm sat vm d a b s
  | .vmul g ty rm sat vm d a b => Sys2Proof.Machine.execVmul g ty rm sat vm d a b s
  | .vfma g ty rm sat vm d a b c => Sys2Proof.Machine.execVfma g ty rm sat vm d a b c s
  | .vfms g ty rm sat vm d a b c => Sys2Proof.Machine.execVfms g ty rm sat vm d a b c s
  | .vmin g ty vm d a b => Sys2Proof.Machine.execVmin g ty vm d a b s
  | .vmax g ty vm d a b => Sys2Proof.Machine.execVmax g ty vm d a b s
  | .vabs g ty sat vm d a => Sys2Proof.Machine.execVabs g ty sat vm d a s
  | .vneg g ty sat vm d a => Sys2Proof.Machine.execVneg g ty sat vm d a s
  | .vcmp g ty cond vm d a b => Sys2Proof.Machine.execVcmp g ty cond vm d a b s
  | .vsel g vm d a b c => Sys2Proof.Machine.execVsel g vm d a b c s
  | .vmulh g ty vm d a b => Sys2Proof.Machine.execVmulh g ty vm d a b s
  | .vclz g ty vm d a => Sys2Proof.Machine.execVclz g ty vm d a s
  | .vpopc g ty vm d a => Sys2Proof.Machine.execVpopc g ty vm d a s
  | .vavg g ty vm d a b => Sys2Proof.Machine.execVavg g ty vm d a b s
  | .vshl g ty vm d a b => Sys2Proof.Machine.execVshl g ty vm d a b s
  | .vshr g ty vm d a b => Sys2Proof.Machine.execVshr g ty vm d a b s
  | .vsar g ty vm d a b => Sys2Proof.Machine.execVsar g ty vm d a b s
  | .vand g vm d a b => Sys2Proof.Machine.execVand g vm d a b s
  | .vor g vm d a b => Sys2Proof.Machine.execVor g vm d a b s
  | .vxor g vm d a b => Sys2Proof.Machine.execVxor g vm d a b s
  | .vperm g ty vm d a b c => Sys2Proof.Machine.execVperm g ty vm d a b c s
  | .vbcast g ty ramp vm d b => Sys2Proof.Machine.execVbcast g ty ramp vm d b s
  | .vbcastImm g ty ramp vm d imm => Sys2Proof.Machine.execVbcastImm g ty ramp vm d imm s
  | .vshuf g ty sh vm d a b => Sys2Proof.Machine.execVshuf g ty sh vm d a b s
  | .vred g ty rm sat op mk d a => Sys2Proof.Machine.execVred g ty rm sat op mk d a s
  | .vdot g ty rm mk d a b c => Sys2Proof.Machine.execVdot g ty rm mk d a b c s
  | .vcvt g ty rm sat cv vm d a => Sys2Proof.Machine.execVcvt g ty rm sat cv vm d a s
  | .vsrnd g ty sat cv vm d a c k => Sys2Proof.Machine.execVsrnd g ty sat cv vm d a c k s
  | .vpack g ty rm sat cv d a b c => Sys2Proof.Machine.execVpack g ty rm sat cv d a b c s
  | .vunpk g ty rm sat cv d a b => Sys2Proof.Machine.execVunpk g ty rm sat cv d a b s
  | .vscale g ty src d a c => Sys2Proof.Machine.execVscale g ty src d a c s
  | .vrcp g ty vm d a => Sys2Proof.Machine.execVrcp g ty vm d a s
  | .vrsq g ty vm d a => Sys2Proof.Machine.execVrsq g ty vm d a s
  | .vexp2 g ty vm d a => Sys2Proof.Machine.execVexp2 g ty vm d a s
  | .vlog2 g ty vm d a => Sys2Proof.Machine.execVlog2 g ty vm d a s
  | .vstep g ty rm sat kind vm d a b c => Sys2Proof.Machine.execVstep g ty rm sat kind vm d a b c s
  | .vrng g vm d a b => Sys2Proof.Machine.execVrng g vm d a b s
  | .mand g d a b => Sys2Proof.Machine.execMand g d a b s
  | .mor g d a b => Sys2Proof.Machine.execMor g d a b s
  | .mnot g d a => Sys2Proof.Machine.execMnot g d a s
  | .ld g ty d mem => Sys2Proof.Machine.execLd g ty d mem s
  | .st g ty b mem => Sys2Proof.Machine.execSt g ty b mem s
  | .ldv g d mem => Sys2Proof.Machine.execLdv g d mem s
  | .stv g b mk mem => Sys2Proof.Machine.execStv g b mk mem s
  | .ldg g ty d mem => Sys2Proof.Machine.execLdg g ty d mem s
  | .ldgV g d mem => Sys2Proof.Machine.execLdgV g d mem s
  | .sts g ty b mem => Sys2Proof.Machine.execSts g ty b mem s
  | .stsV g b mk mem => Sys2Proof.Machine.execStsV g b mk mem s
  | .stmask g b mem => Sys2Proof.Machine.execStmask g b mem s
  | .stmaskP g mem => Sys2Proof.Machine.execStmaskP g mem s
  | .sig g b mem => Sys2Proof.Machine.execSig g b mem s
  | .watch g d mem => Sys2Proof.Machine.execWatch g d mem s
  | .unwatch g mem => Sys2Proof.Machine.execUnwatch g mem s
  | .unwatchAll g => Sys2Proof.Machine.execUnwatchAll g s
  | .give g d a e => Sys2Proof.Machine.execGive g d a e s
  | .giveNb g d a e => Sys2Proof.Machine.execGiveNb g d a e s
  | .reclaim g d eb => Sys2Proof.Machine.execReclaim g d eb s
  | .reclaimNb g d eb => Sys2Proof.Machine.execReclaimNb g d eb s
  | .bmapRead g d e => Sys2Proof.Machine.execBmapRead g d e s
  | .bmapSwap g ee => Sys2Proof.Machine.execBmapSwap g ee s
  | .bmapSet g a e => Sys2Proof.Machine.execBmapSet g a e s
  | .bmapBank g d b => Sys2Proof.Machine.execBmapBank g d b s
  | .drain g => Sys2Proof.Machine.execDrain g s
  | .drainBank g e => Sys2Proof.Machine.execDrainBank g e s
  | .phase g d => Sys2Proof.Machine.execPhase g d s
  | .phaseT g imm => Sys2Proof.Machine.execPhaseT g imm s
  | .fence g sc => Sys2Proof.Machine.execFence g sc s
  | .amo g ty op d b mem => Sys2Proof.Machine.execAmo g ty op d b mem s
  | .red g ty op b mem => Sys2Proof.Machine.execRed g ty op b mem s
  | .lrw g d pd mem => Sys2Proof.Machine.execLrw g d pd mem s
  | .sch g b mem => Sys2Proof.Machine.execSch g b mem s
  | .relq g mem => Sys2Proof.Machine.execRelq g mem s
  | .nop g => Sys2Proof.Machine.execNop g s
  | .br g nul imm => Sys2Proof.Machine.execBr g nul imm s
  | .bra g nul imm => Sys2Proof.Machine.execBra g nul imm s
  | .brx g nul a imm => Sys2Proof.Machine.execBrx g nul a imm s
  | .call g nul imm => Sys2Proof.Machine.execCall g nul imm s
  | .callR g nul a imm => Sys2Proof.Machine.execCallR g nul a imm s
  | .ret g nul a => Sys2Proof.Machine.execRet g nul a s
  | .brk g x => Sys2Proof.Machine.execBrk g x s
  | .mma g ty z sat d a b c => Sys2Proof.Machine.execMma g ty z sat d a b c s
  | .mmat g ty z sat d a b c x imm => Sys2Proof.Machine.execMmat g ty z sat d a b c x imm s
  | .mzero g ty d => Sys2Proof.Machine.execMzero g ty d s
  | .mldc g ty d a => Sys2Proof.Machine.execMldc g ty d a s
  | .mstc g ty rm sat d a => Sys2Proof.Machine.execMstc g ty rm sat d a s
  | .lnpush g dir a => Sys2Proof.Machine.execLnpush g dir a s
  | .lnpushT g dir a imm => Sys2Proof.Machine.execLnpushT g dir a imm s
  | .lncfg g d => Sys2Proof.Machine.execLncfg g d s
  | .lncfgSet g d a => Sys2Proof.Machine.execLncfgSet g d a s
  | .tdef g d mem => Sys2Proof.Machine.execTdef g d mem s
  | .tget g d a w => Sys2Proof.Machine.execTget g d a w s
  | .tseq g d a imm => Sys2Proof.Machine.execTseq g d a imm s
  | .tseqAdd g d a imm => Sys2Proof.Machine.execTseqAdd g d a imm s
  | .tseqBar g d a imm => Sys2Proof.Machine.execTseqBar g d a imm s
  | .copy g edge out tm d a b c x imm => Sys2Proof.Machine.execCopy g edge out tm d a b c x imm s
  | .gath g edge tm d a b c x imm => Sys2Proof.Machine.execGath g edge tm d a b c x imm s
  | .scat g edge tm d a b c x imm => Sys2Proof.Machine.execScat g edge tm d a b c x imm s
  | .publ g tm a b c x imm => Sys2Proof.Machine.execPubl g tm a b c x imm s
  | .bari g b mem => Sys2Proof.Machine.execBari g b mem s
  | .barw g d b mem => Sys2Proof.Machine.execBarw g d b mem s
  | .barwNf g d b mem => Sys2Proof.Machine.execBarwNf g d b mem s
  | .barq g d mem => Sys2Proof.Machine.execBarq g d mem s
  | .send g tm a b c len imm => Sys2Proof.Machine.execSend g tm a b c len imm s
  | .sendSig g tm a b c imm => Sys2Proof.Machine.execSendSig g tm a b c imm s
  | .sends g tm d a b c x imm => Sys2Proof.Machine.execSends g tm d a b c x imm s
  | .mcast g tm d a b c len imm => Sys2Proof.Machine.execMcast g tm d a b c len imm s
  | .ibpop g d ibx => Sys2Proof.Machine.execIbpop g d ibx s
  | .ibpopNw g d ibx => Sys2Proof.Machine.execIbpopNw g d ibx s
  | .ibpopFree g a ibx => Sys2Proof.Machine.execIbpopFree g a ibx s
  | .hop g np a core => Sys2Proof.Machine.execHop g np a core s
  | .chanOpen g d a ch => Sys2Proof.Machine.execChanOpen g d a ch s
  | .chanIbx g d a ibx => Sys2Proof.Machine.execChanIbx g d a ibx s
  | .chanQch g d ch => Sys2Proof.Machine.execChanQch g d ch s
  | .chanQib g d ibx => Sys2Proof.Machine.execChanQib g d ibx s
  | .rtwrRb g a b c => Sys2Proof.Machine.execRtwrRb g a b c s
  | .rtwrDt g a b c => Sys2Proof.Machine.execRtwrDt g a b c s
  | .rtwrSr g a b c => Sys2Proof.Machine.execRtwrSr g a b c s
  | .spawn g d a b imm => Sys2Proof.Machine.execSpawn g d a b imm s
  | .reap g d a pd => Sys2Proof.Machine.execReap g d a pd s
  | .reapNb g d a pd => Sys2Proof.Machine.execReapNb g d a pd s
  | .reapKill g d a pd => Sys2Proof.Machine.execReapKill g d a pd s
  | .yield g => Sys2Proof.Machine.execYield g s
  | .sleep g d a => Sys2Proof.Machine.execSleep g d a s
  | .wake g a => Sys2Proof.Machine.execWake g a s
  | .wakeAll g => Sys2Proof.Machine.execWakeAll g s
  | .rfork g d a b c imm => Sys2Proof.Machine.execRfork g d a b c imm s
  | .join g a c imm => Sys2Proof.Machine.execJoin g a c imm s
  | .knotSet g b mem => Sys2Proof.Machine.execKnotSet g b mem s
  | .knotAdd g b mem => Sys2Proof.Machine.execKnotAdd g b mem s
  | .knotHold g b mem => Sys2Proof.Machine.execKnotHold g b mem s
  | .knotRd g d mem => Sys2Proof.Machine.execKnotRd g d mem s
  | .knotWait g d mem => Sys2Proof.Machine.execKnotWait g d mem s
  | .launch g d mem => Sys2Proof.Machine.execLaunch g d mem s
  | .launchNb g d mem => Sys2Proof.Machine.execLaunchNb g d mem s
  | .taskend g a => Sys2Proof.Machine.execTaskend g a s
  | .vstage g d => Sys2Proof.Machine.execVstage g d s
  | .vpub g d a => Sys2Proof.Machine.execVpub g d a s
  | .vdiscard g d a => Sys2Proof.Machine.execVdiscard g d a s
  | .vretire g d a => Sys2Proof.Machine.execVretire g d a s
  | .vadopt g imm => Sys2Proof.Machine.execVadopt g imm s
  | .vqry g d a => Sys2Proof.Machine.execVqry g d a s
  | .vqrySet g d => Sys2Proof.Machine.execVqrySet g d s
  | .sample g d b e mem => Sys2Proof.Machine.execSample g d b e mem s
  | .trap g x => Sys2Proof.Machine.execTrap g x s
  | .eret g => Sys2Proof.Machine.execEret g s
  | .eretKill g a => Sys2Proof.Machine.execEretKill g a s
  | .resume g => Sys2Proof.Machine.execResume g s
  | .swpo g d a => Sys2Proof.Machine.execSwpo g d a s
  | .swpoFar g d a b => Sys2Proof.Machine.execSwpoFar g d a b s
  | .swpi g d a b => Sys2Proof.Machine.execSwpi g d a b s
  | .swpiQ g d a b => Sys2Proof.Machine.execSwpiQ g d a b s
  | .swpiFar g q d a b => Sys2Proof.Machine.execSwpiFar g q d a b s
  | .stopCrew g d a => Sys2Proof.Machine.execStopCrew g d a s
  | .stopPart g d a => Sys2Proof.Machine.execStopPart g d a s
  | .stopGo g d a => Sys2Proof.Machine.execStopGo g d a s
  | .rdrec g d a w => Sys2Proof.Machine.execRdrec g d a w s
  | .twin g d => Sys2Proof.Machine.execTwin g d s
  | .twinNw g d => Sys2Proof.Machine.execTwinNw g d s
  | .segld g d a imm => Sys2Proof.Machine.execSegld g d a imm s
  | .segldRd g d a w => Sys2Proof.Machine.execSegldRd g d a w s
  | .segst g d a b c => Sys2Proof.Machine.execSegst g d a b c s
  | .blay g d => Sys2Proof.Machine.execBlay g d s
  | .blayW g d => Sys2Proof.Machine.execBlayW g d s
  | .blayDeep g d => Sys2Proof.Machine.execBlayDeep g d s
  | .blq g d which => Sys2Proof.Machine.execBlq g d which s
  | .issueTurn core => Sys2Proof.Machine.execIssueTurn core s
  | .lineFetch core addr => Sys2Proof.Machine.execLineFetch core addr s
  | .schedulerDecision core => Sys2Proof.Machine.execSchedulerDecision core s
  | .swapComplete core => Sys2Proof.Machine.execSwapComplete core s
  | .trapRecordArrival n => Sys2Proof.Machine.execTrapRecordArrival n s
  | .vccTick tile => Sys2Proof.Machine.execVccTick tile s
  | .vccOverflow crew => Sys2Proof.Machine.execVccOverflow crew s
  | .siteCounterTick site => Sys2Proof.Machine.execSiteCounterTick site s
  | .sleepDeadline ctx => Sys2Proof.Machine.execSleepDeadline ctx s
  | .timedCommandStart core j => Sys2Proof.Machine.execTimedCommandStart core j s
  | .untimedCommandStart core => Sys2Proof.Machine.execUntimedCommandStart core s
  | .engineLineMove core j => Sys2Proof.Machine.execEngineLineMove core j s
  | .barrierArrival n => Sys2Proof.Machine.execBarrierArrival n s
  | .engineOperationStart core => Sys2Proof.Machine.execEngineOperationStart core s
  | .matrixLineFetch core => Sys2Proof.Machine.execMatrixLineFetch core s
  | .matrixOperationComplete core => Sys2Proof.Machine.execMatrixOperationComplete core s
  | .linkWordArrival core east => Sys2Proof.Machine.execLinkWordArrival core east s
  | .linkCreditReturn core east => Sys2Proof.Machine.execLinkCreditReturn core east s
  | .vaultRequestArrival n => Sys2Proof.Machine.execVaultRequestArrival n s
  | .vaultReplyArrival n => Sys2Proof.Machine.execVaultReplyArrival n s
  | .immediateWriteLanding n => Sys2Proof.Machine.execImmediateWriteLanding n s
  | .reservationGrant n => Sys2Proof.Machine.execReservationGrant n s
  | .eccScrub site bank line found => Sys2Proof.Machine.execEccScrub site bank line found s
  | .arrayEccUncorrectable site bank line => Sys2Proof.Machine.execArrayEccUncorrectable site bank line s
  | .phaseClose crew => Sys2Proof.Machine.execPhaseClose crew s
  | .phaseLineApply core j => Sys2Proof.Machine.execPhaseLineApply core j s
  | .phaseCloseComplete crew => Sys2Proof.Machine.execPhaseCloseComplete crew s
  | .farRequestTranslate n => Sys2Proof.Machine.execFarRequestTranslate n s
  | .pageWalkComplete field j => Sys2Proof.Machine.execPageWalkComplete field j s
  | .parkact field v => Sys2Proof.Machine.execParkact field v s
  | .parkingEnd ctx => Sys2Proof.Machine.execParkingEnd ctx s
  | .gwinv field v => Sys2Proof.Machine.execGwinv field v s
  | .gwinvDone field => Sys2Proof.Machine.execGwinvDone field s
  | .homeWrite n => Sys2Proof.Machine.execHomeWrite n s
  | .homeWriteRetry home j => Sys2Proof.Machine.execHomeWriteRetry home j s
  | .homePubl n => Sys2Proof.Machine.execHomePubl n s
  | .homeRead n => Sys2Proof.Machine.execHomeRead n s
  | .farAtomicAtHome n => Sys2Proof.Machine.execFarAtomicAtHome n s
  | .farReplyArrival n => Sys2Proof.Machine.execFarReplyArrival n s
  | .farMediaError n => Sys2Proof.Machine.execFarMediaError n s
  | .commitNoticeAtHome n => Sys2Proof.Machine.execCommitNoticeAtHome n s
  | .hotnessDecay home => Sys2Proof.Machine.execHotnessDecay home s
  | .routerFlitForward n => Sys2Proof.Machine.execRouterFlitForward n s
  | .meshLinkDown site port => Sys2Proof.Machine.execMeshLinkDown site port s
  | .staticRouteFlitLanding n => Sys2Proof.Machine.execStaticRouteFlitLanding n s
  | .messageReceive n => Sys2Proof.Machine.execMessageReceive n s
  | .ackReceive n => Sys2Proof.Machine.execAckReceive n s
  | .nackFullReceive n => Sys2Proof.Machine.execNackFullReceive n s
  | .nackOrderReceive n => Sys2Proof.Machine.execNackOrderReceive n s
  | .nackFencedReceive n => Sys2Proof.Machine.execNackFencedReceive n s
  | .nackReplayReceive n => Sys2Proof.Machine.execNackReplayReceive n s
  | .resendDelayExpiry tile j => Sys2Proof.Machine.execResendDelayExpiry tile j s
  | .rebindChangeResend tile j => Sys2Proof.Machine.execRebindChangeResend tile j s
  | .retransmitTimeout tile j => Sys2Proof.Machine.execRetransmitTimeout tile j s
  | .hopArrival n => Sys2Proof.Machine.execHopArrival n s
  | .hopReply n => Sys2Proof.Machine.execHopReply n s
  | .mcastReplicaLanding n => Sys2Proof.Machine.execMcastReplicaLanding n s
  | .rebindFlood site j => Sys2Proof.Machine.execRebindFlood site j s
  | .taskDispatch part => Sys2Proof.Machine.execTaskDispatch part s
  | .imageLoadComplete crew => Sys2Proof.Machine.execImageLoadComplete crew s
  | .launchCut crew => Sys2Proof.Machine.execLaunchCut crew s
  | .taskEnd crew => Sys2Proof.Machine.execTaskEnd crew s
  | .heldBlockPost part => Sys2Proof.Machine.execHeldBlockPost part s
  | .belayCut crew => Sys2Proof.Machine.execBelayCut crew s
  | .candidateAnswer n => Sys2Proof.Machine.execCandidateAnswer n s
  | .cutStreamLine tile => Sys2Proof.Machine.execCutStreamLine tile s
  | .cutPrepared tile => Sys2Proof.Machine.execCutPrepared tile s
  | .commitDecision crew => Sys2Proof.Machine.execCommitDecision crew s
  | .cutApply tile => Sys2Proof.Machine.execCutApply tile s
  | .regularCutDue crew => Sys2Proof.Machine.execRegularCutDue crew s
  | .watchdogFire tile => Sys2Proof.Machine.execWatchdogFire tile s
  | .residueMismatch site core unit sub => Sys2Proof.Machine.execResidueMismatch site core unit sub s
  | .machineCheck site cause => Sys2Proof.Machine.execMachineCheck site cause s
  | .splice site => Sys2Proof.Machine.execSplice site s
  | .replayEnd crew => Sys2Proof.Machine.execReplayEnd crew s
  | .haltComplete crew => Sys2Proof.Machine.execHaltComplete crew s
  | .partitionReconfiguration part base count => Sys2Proof.Machine.execPartitionReconfiguration part base count s
  | .deepBelayImageWritten => Sys2Proof.Machine.execDeepBelayImageWritten s
  | .deepRestore => Sys2Proof.Machine.execDeepRestore s
  | .adoption tile => Sys2Proof.Machine.execAdoption tile s
  | .versionHomeRequest n => Sys2Proof.Machine.execVersionHomeRequest n s
  | .fieldPowerLoss field => Sys2Proof.Machine.execFieldPowerLoss field s
  | .deviceReset => Sys2Proof.Machine.execDeviceReset s
  | .powerGood => Sys2Proof.Machine.execPowerGood s
  | .stageOneEntry recovery => Sys2Proof.Machine.execStageOneEntry recovery s
  | .fieldJoin field failed => Sys2Proof.Machine.execFieldJoin field failed s
  | .fieldGivenUp field => Sys2Proof.Machine.execFieldGivenUp field s
  | .thermalThrottle field => Sys2Proof.Machine.execThermalThrottle field s
  | .thermalShutdown field => Sys2Proof.Machine.execThermalShutdown field s
  | .droopStretch field cycles => Sys2Proof.Machine.execDroopStretch field cycles s
  | .marginReplan field mv => Sys2Proof.Machine.execMarginReplan field mv s
  | .hbmRepairStart stack channel => Sys2Proof.Machine.execHbmRepairStart stack channel s
  | .hbmRepairDone stack channel => Sys2Proof.Machine.execHbmRepairDone stack channel s
  | .selfTestStart site => Sys2Proof.Machine.execSelfTestStart site s
  | .selfTestComplete site outcome => Sys2Proof.Machine.execSelfTestComplete site outcome s
  | .cxlPortDown port => Sys2Proof.Machine.execCxlPortDown port s
  | .cxlPortUp port lanes rate gb => Sys2Proof.Machine.execCxlPortUp port lanes rate gb s
  | .folvibelLinkTrain port wafer inc pport => Sys2Proof.Machine.execFolvibelLinkTrain port wafer inc pport s
  | .folvibelLinkDown port => Sys2Proof.Machine.execFolvibelLinkDown port s
  | .hlaunch fn addr => Sys2Proof.Machine.execHlaunch fn addr s
  | .hpubn fn len => Sys2Proof.Machine.execHpubn fn len s
  | .herrClear fn => Sys2Proof.Machine.execHerrClear fn s
  | .hlresDropClear fn => Sys2Proof.Machine.execHlresDropClear fn s
  | .hostFarRead fn off len => Sys2Proof.Machine.execHostFarRead fn off len s
  | .hostFarWrite fn off data => Sys2Proof.Machine.execHostFarWrite fn off data s
  | .functionLevelReset fn => Sys2Proof.Machine.execFunctionLevelReset fn s
  | .hirq v => Sys2Proof.Machine.execHirq v s
  | .devrst v => Sys2Proof.Machine.execDevrst v s
  | .quiesce v => Sys2Proof.Machine.execQuiesce v s
  | .quiesceDone body => Sys2Proof.Machine.execQuiesceDone body s
  | .quiesceRelease v => Sys2Proof.Machine.execQuiesceRelease v s
  | .qbootGo v => Sys2Proof.Machine.execQbootGo v s
  | .qbootCancel v => Sys2Proof.Machine.execQbootCancel v s
  | .hbeatWrite site => Sys2Proof.Machine.execHbeatWrite site s
  | .verify => Sys2Proof.Machine.execVerify s
  | .measure => Sys2Proof.Machine.execMeasure s
  | .commit => Sys2Proof.Machine.execCommit s
  | .revert => Sys2Proof.Machine.execRevert s
  | .crc32 => Sys2Proof.Machine.execCrc32 s
  | .trustOperationDone => Sys2Proof.Machine.execTrustOperationDone s
  | .getVersion fn => Sys2Proof.Machine.execGetVersion fn s
  | .getCapabilities fn => Sys2Proof.Machine.execGetCapabilities fn s
  | .negotiateAlgorithms fn => Sys2Proof.Machine.execNegotiateAlgorithms fn s
  | .getDigests fn => Sys2Proof.Machine.execGetDigests fn s
  | .getCertificate fn => Sys2Proof.Machine.execGetCertificate fn s
  | .challenge fn nonce => Sys2Proof.Machine.execChallenge fn nonce s
  | .getMeasurements fn index => Sys2Proof.Machine.execGetMeasurements fn index s
  | .registerWrite addr v level tile => Sys2Proof.Machine.execRegisterWrite addr v level tile s
  | .giveComplete ctx => Sys2Proof.Machine.execGiveComplete ctx s
  | .reclaimComplete ctx => Sys2Proof.Machine.execReclaimComplete ctx s
  | .immediateWriteAcknowledgement n => Sys2Proof.Machine.execImmediateWriteAcknowledgement n s
  | .trapWindowAccessArrival n => Sys2Proof.Machine.execTrapWindowAccessArrival n s
  | .logReplicaAcknowledgement n => Sys2Proof.Machine.execLogReplicaAcknowledgement n s
  | .versionAnswer n => Sys2Proof.Machine.execVersionAnswer n s

end Sys2Proof.Machine
end

