-- ==== Sys2Proof/Machine/Step.lean ====
section
/-! DEFINITION. One step of the device: the next event of the agenda, else what the tile that `cur` names does next in its rc (R332, R340,
R481, log entry 1); and how an instruction is placed where it is fetched next (log entry 11). -/

namespace Sys2Proof.Machine

/-- A line that a thread of a core waits for (R317). -/
def State.lineWanted (s : State) (core : Nat) : Option Word :=
  (s.ctxsOf core).findSome? (fun k => match (s.ctx k).wait with
    | .fetch a => if (s.ctx k).parked then none else some a
    | _ => none)

/-- Without an event of the agenda the tile of `cur` goes on: for the core whose turn it is (R155, R332) a line it waits for arrives, else
its issue turn passes; when all have had theirs, the vc (R340) and the site's clock advance (R481). -/
def coreStep (s : State) : Host.Outcome State Fault Refusal :=
  match s.turnCore s.cur.tile with
  | some core => match s.lineWanted core with
    | some a => execLineFetch core a s
    | none => execIssueTurn core s
  | none => match execVccTick s.cur.tile s with
    | .next t => execSiteCounterTick (t.siteOf s.cur.tile) t
    | x => x

/-- One step: the first event of the agenda, if it is well formed, else the tile in turn goes on (log entry 1). -/
def step (s : State) : Host.Outcome State Fault Refusal :=
  match s.sched with
  | [] => coreStep s
  | e :: rest => if e.wf then exec e { s with sched := rest } else .next { s with sched := rest }

/-- A NOP in every slot, every slot a target (R31, R32). -/
def nopLine : FLine :=
  (List.range 5).foldl (fun (l : FLine) i => l ||| ((0x600000000000000000000000#96).setWidth 512 <<< (96 * i))) (0x1F#512 <<< 480)

/-- A line with its parity (R33). -/
def sealLine (l : FLine) : FLine :=
  let body : FLine := l &&& ~~~(0xFFFF#512 <<< 496)
  body ||| ((lineParity body).setWidth 512 <<< 496)

/-- A line with an instruction of its own in a slot. -/
def putSlotWord (l : FLine) (i : Nat) (w : BitVec 96) : FLine :=
  let out : FLine := ((0xFFFFFFFFFFFFFFFFFFFFFFFF#96).setWidth 512 <<< (96 * i)) ||| (0xFFE0#512 <<< 480)
  sealLine ((l &&& ~~~out) ||| (w.setWidth 512 <<< (96 * i)) ||| (1#512 <<< (480 + i)))

namespace State

/-- The thread that `step` would issue a group of next. -/
def nextThread (s : State) : Option Nat :=
  match s.turnCore s.cur.tile with
  | none => none
  | some core => match s.turnOf core with
  | some (_, k) =>
    let c := s.ctx k
    if !s.timedPop core && !s.issueHeld k && !c.killed && c.pend.isNone && c.wait == .none
        && !c.fresh && !c.s.nul.getLsbD 0 && slotAligned c.s.pc && (s.lineWanted core).isNone then some k else none
  | none => none

/-- A thread at firmware level with a code segment, in the slot whose turn it is (log entry 11). -/
def placeThread (s : State) : State :=
  let core := (s.coreOrder s.cur.tile).headD 0
  let slot := s.rcOf s.cur.tile % 16
  let k := ctxKey core 0
  let pc : Word := 0x2000000000000000
  let s := s.setCtx k { used := true, uid := s.nextId, lvl := 2, s := ⟨pc, pc + 12, pc + 24, 0⟩,
                        code := { base := pc, limit := 0xFFFF, attr := 0x43 } }
  let s := s.modCore core (fun c => { c with
    slots := Tbl.set 0 (c.slots.filter (fun e => e.2 != 1)) slot 1, turnAt := none, tq := [] })
  { s with nextId := s.nextId + 1 }

/-- An instruction word placed where `step` fetches next: into the line at the pc of the thread in turn, or of a thread made for it;
the lines it needs beside that one are held (R313, R317, log entry 11). -/
def withFetchWord (s : State) (nbits w : Nat) : State :=
  let s : State := { s with sched := [] }
  let word := BitVec.ofNat 96 (w % 2 ^ nbits)
  let s := if s.nextThread.isSome then s else s.placeThread
  let k := s.nextThread.getD (ctxKey ((s.coreOrder s.cur.tile).headD 0) 0)
  let f := (s.ctx k).s
  let core := coreOfCtx k
  let line (s : State) (a : Word) : FLine := (s.held core a).getD (sealLine nopLine)
  let hold (s : State) (a : Word) : State :=
    let l := line s a
    s.modCore core (fun c => { c with ic := Tbl.put c.ic (a.toNat / 64) l })
  let s := (hold s f.npc |> fun s => hold s f.nnpc)
  let l := putSlotWord (line s f.pc) (slotIndex f.pc) word
  s.modCore core (fun c => { c with ic := Tbl.put c.ic (f.pc.toNat / 64) l })

end State

end Sys2Proof.Machine
end

