-- ==== Sys2Proof/Safety.lean ====
section
/-! DEFINITION. What claims are stated in: when a thread instruction issues, values at the width of a type, vectors written
under a mask, and steps of the device. -/

namespace Sys2Proof.Machine

/-- One step of the device leads from `s` to `t`. -/
def State.Steps (s t : State) : Prop := step s = .next t

/-- What the model keeps of the thread in issue is a thread of a tile: a 16-bit tile number, one of 4 cores, one of 64 context
numbers (R334). Every step keeps it, and it holds after reset. -/
abbrev State.ThreadOk (s : State) : Prop := s.cur.tile < 2 ^ 16 ∧ s.cur.core < 4 ∧ s.cur.num < 64

/-- A thread instruction issues: its context is in use and its guard holds (R51). -/
def State.Issues (s : State) (g : Guard) : Prop := s.me.used = true ∧ s.guard g = true ∧ s.ThreadOk

/-- An instruction that needs a privilege level issues (R55, R186). -/
def State.IssuesAt (s : State) (g : Guard) (level : Nat) : Prop := s.Issues g ∧ level ≤ s.level

/-- The low bits of a word read as a number of an integer type; TY 0 reads as `.n64` (R193). -/
def intVal (ty : Ty) (x : Word) : Int :=
  if ty.isS then (x.setWidth ty.bits).toInt else ((x.setWidth ty.bits).toNat : Int)

/-- The lowest and the highest number of an integer type (R71). -/
def lowest (ty : Ty) : Int := if ty.isS then -(2 ^ (ty.bits - 1) : Nat) else 0

def highest (ty : Ty) : Int := if ty.isS then (2 ^ (ty.bits - 1) : Nat) - 1 else (2 ^ ty.bits : Nat) - 1

/-- A number clamped with SAT, cut to the width of the type and extended to 64 bits by its signedness (R193). -/
def extended (ty : Ty) (sat : Bool) (v : Int) : Word :=
  let v := if sat then min (max v (lowest ty)) (highest ty) else v
  if ty.isS then (BitVec.ofInt ty.bits v).signExtend 64 else (BitVec.ofInt ty.bits v).setWidth 64

/-- Whether a condition holds between two codes of a type (R198, R215): integers by their numbers, floating-point codes by their
values, where a NaN makes every condition false but `.ne` and `.un`. -/
def compares (ty : Ty) (c : Cond) (x y : Nat) : Bool :=
  if ty = .f32 ∨ ty = .f64 then
    let p := valueF (fmtOf ty) (x % 2 ^ ty.bits)
    let q := valueF (fmtOf ty) (y % 2 ^ ty.bits)
    let nan := p == .nan || q == .nan
    match c with
    | .eq => !nan && p.cmp q == 0
    | .ne => nan || p.cmp q != 0
    | .lt => !nan && p.cmp q == -1
    | .le => !nan && p.cmp q != 1
    | .gt => !nan && p.cmp q == 1
    | .ge => !nan && p.cmp q != -1
    | .un => nan
    | .or => !nan
  else
    let p := intVal ty (BitVec.ofNat 64 x)
    let q := intVal ty (BitVec.ofNat 64 y)
    match c with
    | .eq => decide (p = q)
    | .ne => decide (p ≠ q)
    | .lt => decide (p < q)
    | .le => decide (p ≤ q)
    | .gt => decide (q < p)
    | .ge => decide (q ≤ p)
    | .un => false
    | .or => true

/-- A vector written under a governing mask (R205): active elements hold the code of `f`, the others 0 or their old value. -/
def MaskedResult (w : Nat) (mask : BitVec 16) (zero : Bool) (old : Vec) (f : Nat → Rd) (v : Vec) : Prop :=
  ∀ i, i < 512 / w →
    elem w v.toNat i = if active mask w i then (f i).code % 2 ^ w else if zero then 0 else elem w old.toNat i

/-- The flags that the active elements raise; an inactive element raises none (R205). -/
def maskedFlags (w : Nat) (mask : BitVec 16) (f : Nat → Rd) : BitVec 5 :=
  (List.range (512 / w)).foldl (fun fl i => if active mask w i then fl ||| (f i).fl else fl) 0

/-- A vector register field can be written now: a register always, a link when a neighbour stands there and the core holds a
credit for it (R251, R252). -/
def State.CanWriteV (s : State) (d : BitVec 6) : Prop :=
  d.toNat < 62 ∨ (s.linkCore s.myCore (d == 62)).isSome = true ∧ s.hasCredit s.myCore (d == 62) = true

/-- The state after a masked vector result (R205): the flags are gathered and the vector is written with latency `lat`. -/
def State.VectorWritten (s : State) (w : Nat) (vm : VMask) (d : BitVec 6) (lat : Nat) (f : Nat → Rd) (t : State) : Prop :=
  ∃ v, MaskedResult w (s.readM vm.gm) (vm.z || decide (62 ≤ d.toNat)) (s.oldV d) f v
    ∧ (s.raiseFlags (maskedFlags w (s.readM vm.gm) f)).writeV d v lat = .ok t

/-- A bank of the issuing tile can serve a thread in this rc: it is neither reserved nor given, and no arrival or phase close asks for it
(R155-R157). -/
def State.BankFree (s : State) (bank : Nat) : Prop :=
  s.reservedNow s.cur.tile bank 1 = false ∧ bank ∉ s.myTile.bankUse ∧ s.threadsMay s.cur.tile bank = true

/-- A load of n bytes can complete: from a bank of the tile at once, elsewhere once its reply has come in this phase (R151, R154,
R297); the bytes are overlaid by the phase buffer of the core (R164). -/
def State.LoadReady (s : State) (a : Word) (l : Loc) (n : Nat) (bs : List Byte) (t : State) : Prop :=
  s.closeHolds = false ∧
    (s.isDirect a = true ∧ s.BankFree l.bank ∧ bs = s.overlay l (s.readLoc l n) ∧ t = s.grantBank s.cur.tile l.bank
      ∨ s.isDirect a = false ∧ s.answerFresh = true ∧ ∃ v, s.answered? = some v ∧ bs = s.overlay l (bytesOfVec n v) ∧ t = s.tookReply)

/-- An immediate read of n bytes can complete: the bytes of the bank, with no overlay (R144, R151). -/
def State.ImmReady (s : State) (a : Word) (l : Loc) (n : Nat) (bs : List Byte) (t : State) : Prop :=
  s.isDirect a = true ∧ s.BankFree l.bank ∧ bs = s.readLoc l n ∧ t = s.grantBank s.cur.tile l.bank
    ∨ s.isDirect a = false ∧ ∃ v, s.answered? = some v ∧ bs = bytesOfVec n v ∧ t = s.tookReply

/-- Packet n can be taken where it stands: it is at its destination's router, which is no hole and has no detour for it, it meets no fence,
the router cycle in which it came is over, no earlier packet of its stream is on its way to that place, and none that meets it there goes
before it; `u` is the device without it (R18, R151, R155, R263, R264, R277). -/
def State.Arrives (s : State) (n : Nat) (p : Pkt) (u : State) : Prop :=
  s.net[n]? = some p ∧ p.pos = p.dst ∧ p.inj = true ∧ p.back = none ∧ p.dst ∉ (s.site p.pos).fence ∧ (s.site p.pos).hole = false
    ∧ s.detourAt p.pos p.dst = none ∧ s.cameIn p = true
    ∧ (∀ q ∈ s.net.take n, q.stream = 0 ∨ q.stream ≠ p.stream ∨ samePlace q p = false)
    ∧ (∀ q ∈ s.net, s.outranks q p = false) ∧ u = { s with net := s.net.eraseIdx n }

/-- A command enters its queue, which has room: 64 places for timed commands and 16 for the others (R129), with its
reservations (R157). -/
def State.Queues (s : State) (c : Cmd) (mine : List (Nat × Nat)) (t : State) : Prop :=
  let c := { c with id := s.nextId, entry := if c.start.isSome then s.freeEntry else 0 }
  let u : State := { s with nextId := s.nextId + 1 }
  (if c.start.isSome then s.here.tq.length < 64 else s.here.uq.length < 16)
  ∧ t = (if mine = [] then id else fun u : State => u.modTile s.cur.tile (fun i =>
          { i with rsvd := i.rsvd ++ mine.map (fun m => ⟨m.1, m.2, s.myCore, s.nextId, c.entry⟩) }))
        (u.modCore s.myCore (fun k => if c.start.isSome then { k with tq := k.tq ++ [c] } else { k with uq := k.uq ++ [c] }))

/-- An immediate-class write is taken: it lands at once in a bank of the tile, else it leaves as a packet and is counted until
it is acknowledged (R166). -/
def State.ImmTaken (s : State) (a : Word) (l : Loc) (n : Nat) (en : BitVec 64) (v : BitVec 512) (t : State) : Prop :=
  s.isDirect a = true ∧ s.linesHeld l n = false ∧ s.BankFree l.bank
      ∧ t = (s.grantBank s.cur.tile l.bank).landImm s.myCtx l n en v
    ∨ s.isDirect a = false
      ∧ t = (s.addOut s.myCtx (.vault l.tile l.bank true) 1).2.send s.cur.tile l.tile 0 s.myCtx (vaultStream s.myCtx a)
          (.write l en v s.nextId)

/-- An ordinary store is taken: into the phase buffer of the core for a context of a crew (R164), as an immediate-class write
for a context of none (R481). -/
def State.StoreTaken (s : State) (a : Word) (l : Loc) (n : Nat) (en : BitVec 64) (v : BitVec 512) (t : State) : Prop :=
  s.closeHolds = false ∧
    (s.view.crew = none ∧ s.ImmTaken a l n en v t
      ∨ s.view.crew ≠ none ∧ en = 0 ∧ t = s
      ∨ s.view.crew ≠ none ∧ en ≠ 0
        ∧ ((findPLine s.here.pbuf l.tile l.bank (l.off / 64)).isSome = true ∨ s.here.pbuf.length < 512)
        ∧ t = s.modCore s.myCore (fun c => { c with
            pbuf := mergePLine c.pbuf ⟨l.tile, l.bank, l.off / 64, en <<< (l.off % 64), v <<< (8 * (l.off % 64))⟩ }))

end Sys2Proof.Machine
end

