-- ==== Sys2Proof/Certificates/Slice0/Obligations.lean ====
section
/-! DEFINITION. The statements for the provers: encoding, the step, the memory invariant, each family of thread instructions and
each family of events with the next state it answers, and the frames. -/

open Sys2Proof Sys2Proof.Machine

/-- R43-R47, R52: decode and encode agree: every well-formed instruction reads back from its word, with every operand at every
value its fields admit. -/
def Obligations.DecodeEncode : Prop :=
  ∀ (i : Instr) (w : BitVec 96), i.wf = true → encode i = some w → decode w = .ok i

/-- R43-R47, R52: what the decoder accepts is well formed, has that word, and no other instruction has it. -/
def Obligations.DecodeSound : Prop :=
  ∀ (w : BitVec 96) (i : Instr), decode w = .ok i →
    i.wf = true ∧ encode i = some w ∧ ∀ j : Instr, j.wf = true → encode j = some w → j = i

/-- R10, R43, R44, R54, R55: words written out from the spec's encodings, for each format class and family, decode to their
instructions. -/
def Obligations.DecodeWords : Prop :=
  let g : Guard := ⟨0, false⟩
  let reads (w : Nat) (i : Instr) : Prop := decodeTableWord 96 w = some i
  reads 0x200018600000000000000010 (.addi g .none false 3 3 0x10)
  ∧ reads 0x026420600000000000000000 (.mov ⟨1, false⟩ 4 3)
  ∧ reads 0x600000000000000000000000 (.nop g)
  ∧ reads 0x022009660032000000000000 (.cmp g .i32 .lt 1 11 12)
  ∧ reads 0x0B801842812000B000000000 (.vpack g .f4s .dyn false ⟨0, .bf16⟩ 3 2 5 0)
  ∧ reads 0x0C8010008000000000000000 (.vrng g ⟨false, 0⟩ 2 0 1)
  ∧ reads 0x092008418072000000000000 (.vcmp g .n32 .lt ⟨false, 0⟩ 1 2 3)
  ∧ reads 0x40C001608400000000000000 (.stmask g 1 ⟨2, 11, 0⟩)
  ∧ reads 0x414049000000000500000000 (.give g 9 8 5)
  ∧ reads 0x418080000000000400000000 (.bmapRead g 16 4)
  ∧ reads 0x424028830240000000000040 (.amo g .i64 .add 5 6 ⟨1, 4, 0x40⟩)
  ∧ reads 0x6024000000020000FFFFFFE8 (.br ⟨1, false⟩ .nn 0xFFFFFFE8)
  ∧ reads 0x802020418CA2000900000200 (.mmat g .f32 true false 4 2 3 6 9 0x200)
  ∧ reads 0xA00010228C00000700000000 (.copy g false false false 2 1 5 6 7 0)
  ∧ reads 0xA20000828C00010000000000 (.send g false 4 5 6 256 0)
  ∧ reads 0xA26098000000000000000000 (.ibpop g 19 0)
  ∧ reads 0xC0A030E28400000000000034 (.rfork g 6 7 5 2 0x34)
  ∧ reads 0xC40018000000000000000000 (.vstage g 3)
  ∧ reads 0xC4C048E30200000400000040 (.sample g 9 6 4 ⟨1, 7, 0x40⟩)
  ∧ reads 0xC80000000000002100000000 (.trap g 0x21)
  ∧ reads 0xC82000000000000000000000 (.eret g)
  ∧ reads 0xC94028000001000000000000 (.blayW g 5)

/-- R40, R41, R51, R81, R155, R253, R313, R314, R332: a step takes the event at the head of the agenda; without one, the tile
in turn goes on: the core whose turn it is gets a line that it waits for, or runs the word at the pc of the thread in turn: the
decoded instruction's effect, then S moves on past the group; when every core has had its turn, the vc and the site's clock
advance. The agenda is the model's own (log entry 1). -/
def Obligations.StepRunsDecoded : Prop :=
  ∀ (s : State),
    (∀ e rest, s.sched = e :: rest → step s = if e.wf then exec e { s with sched := rest } else .next { s with sched := rest })
    ∧ (s.sched = [] → s.turnCore s.cur.tile = none →
        ∀ t, exec (.vccTick s.cur.tile) s = .next t → step s = exec (.siteCounterTick (t.siteOf s.cur.tile)) t)
    ∧ (∀ core, s.sched = [] → s.turnCore s.cur.tile = some core →
        (∀ a, s.lineWanted core = some a → step s = exec (.lineFetch core a) s)
        ∧ (s.lineWanted core = none → step s = exec (.issueTurn core) s))
    ∧ ∀ (core slot k : Nat) (l : FLine) (i : Instr) (one : State),
      let u := s.modCore core (fun c => { c with turnAt := some (s.rcOf (tileOfCore core)) })
      let c := u.ctx k
      let pc := c.s.pc
      -- it is the turn of thread k of this core, and nothing holds it
      s.sched = [] → s.turnCore s.cur.tile = some core → s.lineWanted core = none → s.timedPop core = false →
      u.turnOf core = some (slot, k) → coreOfCtx k = core → k < spillBase → u.issueHeld k = false → c.killed = false → c.pend = none →
      c.fresh = false → c.s.nul.getLsbD 0 = false →
      -- its lines are held, read well and allowed, and a single instruction stands at pc
      (∀ a, a ∈ [pc, c.s.npc, c.s.nnpc] → codeCheck c.code a a = .ok () ∧ ∃ h, u.held core a = some h ∧ parityOk h = true) →
      u.held core pc = some l → lineOk l = true → slotAligned pc = true → pairBit l (slotIndex pc) = false →
      (slotIndex pc = 0 ∨ pairBit l (slotIndex pc - 1) = false) →
      decode (slotWord l (slotIndex pc)) = .ok i → i.minLevel ≤ c.lvl.toNat →
      let v : State := { u with cur := { tile := tileOfCore core, core := core % 4, slot, num := k % 64, addr := pc } }
      (usesArray i = true → v.here.vmul ≠ some v.rc) →
      -- what it does, when it is done and its flags raise no trap
      exec i v = .next one → one.cur.res = .done → (one.ctx k).uid = c.uid → fpTraps c.fst one.cur.flags = false →
      let n := match u.held core c.s.nnpc with | some l3 => if pairBit l3 (slotIndex c.s.nnpc) then 2 else 1 | none => 1
      let w := one.modCtx k (fun x => { x.noAsk with
        fst := orFst x.fst one.cur.flags, s := State.advanceS c.s one.cur.target one.cur.nullify n, got := [] })
      let t := ({ w with cur := { w.cur with old := none } } : State).settle
      step s = .next t ∧ exec (.issueTurn core) s = .next t

/-- R26, R87: the memory keeps its one canonical form through every step: addresses rise strictly and no cell lists what an
unlisted address reads as; that of a deep-belay image too. The form is the model's own. -/
def Obligations.MemoryInvariant : Prop :=
  ∀ (s t : State), Memory.wf s.mem = true → (∀ d, s.deep = some d → Memory.wf d.mem = true) → s.Steps t →
    Memory.wf t.mem = true ∧ ∀ d, t.deep = some d → Memory.wf d.mem = true

/-- R332, R334: what the model keeps of the thread in issue stays a thread of a tile through every step, and is one after
reset. The record is the model's own (log entry 1). -/
def Obligations.ThreadInvariant : Prop :=
  State.reset.ThreadOk ∧ ∀ (s t : State), s.ThreadOk → s.Steps t → t.ThreadOk

/-- R19, R21, R80, R109, R176, R182, R370, R424, R433, R439, R446, R448, R451-R453: the machine right after power-on. Registers
whose reset value the spec does not give are 0 by the model's choice (log entry 3), as is memory (log entry 2). -/
def Obligations.ResetValues : Prop :=
  let s := State.reset
  s.sys.stage = 0 ∧ s.sys.fjoin = 0 ∧ s.sys.rtime = 0 ∧ s.sys.inc = 0 ∧ s.sys.hbeat = 0 ∧ s.sys.qsc = 0 ∧ s.sys.cxl = [] ∧ s.sys.fv = []
  ∧ s.sys.act = 0 ∧ s.sys.upd = false ∧ s.sys.trust.slotA.version = 0x0104 ∧ s.sys.trust.slotB.version = 0x0104
  ∧ (∀ t, t < 0x8000 → s.tileBound t = false) ∧ (∀ k, (s.ctx k).used = false ∧ (s.ctx k).fst = 0x0100)
  ∧ (∀ p, (s.part p).blctl = 0x1A0018 ∧ (s.part p).queue = []) ∧ (∀ v, (s.vset v).en = false)
  ∧ (∀ f, (s.host f).msixMask = 0xFFFFFFFF ∧ (s.host f).herr = 0 ∧ (s.host f).busy = false)
  ∧ (∀ f, (s.field f).joined = false) ∧ (∀ a, memRead s.mem a = 0) ∧ Memory.wf s.mem = true ∧ s.deep = none ∧ s.net = [] ∧ s.checks = []

/-- R41, R51, R55, R186, R316: a false guard leaves everything as it was, for every instruction but a transfer and NOP, which
has no effect anyway; below the level that an instruction needs the thread takes privilege, whatever the guard. -/
def Obligations.GuardAndPrivilege : Prop :=
  ∀ (i : Instr) (r : Raw) (s : State), i.raw = some r → s.me.used = true →
    ((match i with | .br .. | .bra .. | .brx .. | .call .. | .callR .. | .ret .. => False | _ => True) →
      i.minLevel ≤ s.level → s.guard r.guard = false → exec i s = .next s)
    ∧ (s.level < i.minLevel → exec i s = .next (s.raise 0x05 0))

/-- R8, R40, R48, R176-R180: the scalar and vector families (format classes 0 and 1 but MFS and MTS): whatever they answer,
memory, the other contexts and the tiles are as before, and of the thread's registers only the destinations change. -/
def Obligations.RegisterFrame : Prop :=
  ∀ (i : Instr) (r : Raw) (s t : State), i.raw = some r → (r.fmt = 0 ∧ r.op ≠ 0x22 ∨ r.fmt = 1) → exec i s = .next t →
    (∀ a, memRead t.mem a = memRead s.mem a) ∧ (∀ k, k ≠ s.myCtx → t.ctx k = s.ctx k)
    ∧ t.tiles = s.tiles ∧ t.crews = s.crews ∧ t.sys = s.sys
    ∧ (∀ n, (0, n) ∉ destsOf i → Tbl.get 0 t.me.x n = Tbl.get 0 s.me.x n)
    ∧ (∀ n, (1, n) ∉ destsOf i → Tbl.get 0 t.me.v n = Tbl.get 0 s.me.v n)
    ∧ (∀ n, n < 8 → (2, n) ∉ destsOf i → t.me.p.getLsbD n = s.me.p.getLsbD n)
    ∧ (∀ n, (3, n) ∉ destsOf i → Tbl.get 0 t.me.m n = Tbl.get 0 s.me.m n)
    ∧ t.me.fst = s.me.fst ∧ t.me.mxc = s.me.mxc ∧ t.me.lvl = s.me.lvl ∧ t.me.s = s.me.s ∧ t.me.sg = s.me.sg

/-- R4, R26, R176, R178, R389: what the writes of the machine do to memory, byte by byte: a write to a vault or to far memory
touches exactly its bytes; a register write and a trap touch none. -/
def Obligations.MemoryWrites : Prop :=
  ∀ (s : State) (l : Loc) (pa a : Nat) (bs : List Byte),
    (memRead (s.writeLoc l bs).mem a = if s.locKey l ≤ a ∧ a < s.locKey l + bs.length then bs.getD (a - s.locKey l) 0 else memRead s.mem a)
    ∧ (memRead (s.writePa pa bs).mem a = if pa ≤ a ∧ a < pa + bs.length then bs.getD (a - pa) 0 else memRead s.mem a)
    ∧ (∀ r x lat, (s.writeX r x lat).mem = s.mem)
    ∧ (∀ r x lat t, s.writeV r x lat = .ok t → t.mem = s.mem ∧ (32 ≤ r.toNat → t.ctxs = s.ctxs)
        ∧ (r.toNat < 32 → Tbl.get 0 t.me.v r.toNat = x ∧ (∀ q, q ≠ r.toNat → Tbl.get 0 t.me.v q = Tbl.get 0 s.me.v q) ∧ t = s.modMe (fun c => { c with v := t.me.v }))
        ∧ (32 ≤ r.toNat → r.toNat < 62 → t = s.modCore s.myCore (fun c =>
            { c with pend := c.pend ++ [⟨s.rc + lat, s.cur.slot, true, r.toNat - 32, x⟩] })))
    ∧ (∀ cause e, let t := s.raise cause e
        t.mem = s.mem ∧ (t.ctx s.myCtx).frz = true ∧ (t.ctx s.myCtx).x = (s.ctx s.myCtx).x ∧ (t.ctx s.myCtx).s = (s.ctx s.myCtx).s
        ∧ (∀ k, k ≠ s.myCtx → t.ctx k = s.ctx k) ∧ t.cores = s.cores)

/-- R193: ADD, ADDI, SUB and MUL at every integer type, wrapping or clamped. -/
def Obligations.ScalarArithmetic : Prop :=
  ∀ (s : State) (g : Guard) (ty : Ty) (sat : Bool) (d a b : BitVec 6) (imm : BitVec 32),
    s.Issues g → ty.isWidth = true →
    let A := intVal ty (s.readX a)
    let B := intVal ty (s.readX b)
    let I := intVal ty (imm.signExtend 64)
    exec (.add g ty sat d a b) s = .next (s.writeX d (extended ty sat (A + B)) 1)
    ∧ exec (.addi g ty sat d a imm) s = .next (s.writeX d (extended ty sat (A + I)) 1)
    ∧ exec (.sub g ty sat d a b) s = .next (s.writeX d (extended ty sat (A - B)) 1)
    ∧ exec (.mul g ty sat d a b) s = .next (s.writeX d (extended ty sat (A * B)) 4)
    ∧ exec (.mulImm g ty sat d a imm) s = .next (s.writeX d (extended ty sat (A * I)) 4)

/-- R194, R197: Bits [127:64] of the exact product. One step of a division yields a quotient byte or the remainder, also for a
divisor of 0; eight steps from 0 divide. -/
def Obligations.HighProductsAndDivision : Prop :=
  (∀ (s : State) (g : Guard) (d a b : BitVec 6), s.Issues g →
      (∃ v : Word, exec (.mulh g d a b) s = .next (s.writeX d v 4)
        ∧ v = (BitVec.ofInt 128 ((s.readX a).toInt * (s.readX b).toInt)).extractLsb' 64 64)
      ∧ (∃ v : Word, exec (.mulhn g d a b) s = .next (s.writeX d v 4)
        ∧ v = ((s.readX a).setWidth 128 * (s.readX b).setWidth 128).extractLsb' 64 64))
  ∧ (∀ (s : State) (g : Guard) (d a b c : BitVec 6) (j : BitVec 3), s.Issues g →
      let D := (s.readX b).toNat
      let byte := ((s.readX c).extractLsb' (56 - 8 * j.toNat) 8).toNat
      let v := (s.readX a).toNat * 256 + byte
      let q := if D = 0 then 255 else min (v / D) 255
      exec (.divstep g false d a b c j) s = .next (s.writeX d (BitVec.ofNat 64 (v - q * D)) 4)
      ∧ exec (.divstep g true d a b c j) s = .next (s.writeX d (BitVec.ofNat 64 ((s.readX d).toNat * 256 + q)) 4)
      ∧ ∀ N : Word,
        let one (rq : Nat × Nat) (j : Nat) : Nat × Nat :=
          let v := rq.1 * 256 + (N.extractLsb' (56 - 8 * j) 8).toNat
          let q := if D = 0 then 255 else min (v / D) 255
          ((v - q * D) % 2 ^ 64, (rq.2 * 256 + q) % 2 ^ 64)
        (List.range 8).foldl one (0, 0) = if D = 0 then (N.toNat, 2 ^ 64 - 1) else (N.toNat % D, N.toNat / D))

/-- R195, R196: Logic, shifts, rotation, least and greatest, in the register and the immediate form. Counts of bits, bit
fields, and sign and zero extension. -/
def Obligations.LogicAndBits : Prop :=
  (∀ (s : State) (g : Guard) (d a b : BitVec 6) (imm : BitVec 32), s.Issues g →
      let A := s.readX a
      let B := s.readX b
      let I : Word := imm.signExtend 64
      let gives (i : Instr) (v : Word) : Prop := exec i s = .next (s.writeX d v 1)
      let shl (x y : Word) : Word := BitVec.ofNat 64 (x.toNat * 2 ^ (y.toNat % 64))
      let shr (x y : Word) : Word := BitVec.ofNat 64 (x.toNat / 2 ^ (y.toNat % 64))
      let sar (x y : Word) : Word := BitVec.ofInt 64 (x.toInt / 2 ^ (y.toNat % 64))
      let rol (x y : Word) : Word := x.rotateLeft (y.toNat % 64)
      gives (.and g d a b) (A &&& B) ∧ gives (.andImm g d a imm) (A &&& I)
      ∧ gives (.or g d a b) (A ||| B) ∧ gives (.orImm g d a imm) (A ||| I)
      ∧ gives (.xor g d a b) (A ^^^ B) ∧ gives (.xorImm g d a imm) (A ^^^ I)
      ∧ gives (.andn g d a b) (A &&& ~~~B) ∧ gives (.andnImm g d a imm) (A &&& ~~~I)
      ∧ gives (.shl g d a b) (shl A B) ∧ gives (.shlImm g d a imm) (shl A I)
      ∧ gives (.shr g d a b) (shr A B) ∧ gives (.shrImm g d a imm) (shr A I)
      ∧ gives (.sar g d a b) (sar A B) ∧ gives (.sarImm g d a imm) (sar A I)
      ∧ gives (.rol g d a b) (rol A B) ∧ gives (.rolImm g d a imm) (rol A I)
      ∧ gives (.min g d a b) (if A.toInt < B.toInt then A else B) ∧ gives (.minImm g d a imm) (if A.toInt < I.toInt then A else I)
      ∧ gives (.max g d a b) (if A.toInt < B.toInt then B else A) ∧ gives (.maxImm g d a imm) (if A.toInt < I.toInt then I else A)
      ∧ gives (.minn g d a b) (if A.toNat < B.toNat then A else B)
      ∧ gives (.minnImm g d a imm) (if A.toNat < I.toNat then A else I)
      ∧ gives (.maxn g d a b) (if A.toNat < B.toNat then B else A)
      ∧ gives (.maxnImm g d a imm) (if A.toNat < I.toNat then I else A))
  ∧ (∀ (s : State) (g : Guard) (d a : BitVec 6) (bf : BitField) (sx : Bool), s.Issues g → bf.ok = true →
      let A := s.readX a
      let len := bf.len1.toNat + 1
      let lsb := bf.lsb.toNat
      let gives (i : Instr) (v : Word) : Prop := exec i s = .next (s.writeX d v 1)
      (∃ n : Nat, gives (.clz g d a) (BitVec.ofNat 64 n) ∧ if A = 0 then n = 64 else n < 64 ∧ A.toNat / 2 ^ (63 - n) = 1)
      ∧ (∃ n : Nat, gives (.ctz g d a) (BitVec.ofNat 64 n)
          ∧ if A = 0 then n = 64 else n < 64 ∧ A.getLsbD n = true ∧ A.toNat % 2 ^ n = 0)
      ∧ gives (.popc g d a) (BitVec.ofNat 64 ((List.range 64).countP (fun i => A.getLsbD i)))
      ∧ (∃ v : Word, gives (.bfx g sx d a bf) v
          ∧ ∀ i, i < 64 → v.getLsbD i = if i < len then A.getLsbD (lsb + i) else sx && A.getLsbD (lsb + len - 1))
      ∧ (∃ v : Word, gives (.bfi g d a bf) v
          ∧ ∀ i, i < 64 → v.getLsbD i = if lsb ≤ i ∧ i < lsb + len then A.getLsbD (i - lsb) else (s.readX d).getLsbD i)
      ∧ gives (.sext g .i8 d a) ((A.setWidth 8).signExtend 64) ∧ gives (.sext g .i16 d a) ((A.setWidth 16).signExtend 64)
      ∧ gives (.sext g .i32 d a) ((A.setWidth 32).signExtend 64)
      ∧ gives (.zext g .n8 d a) ((A.setWidth 8).setWidth 64) ∧ gives (.zext g .n16 d a) ((A.setWidth 16).setWidth 64)
      ∧ gives (.zext g .n32 d a) ((A.setWidth 32).setWidth 64))

/-- R198, R199, R200: CMP at every type and condition, in the register and the immediate form. Moves, selection and the
predicate instructions. LEA forms the address; only KIND 0 and the limit fault, both as segment limit. -/
def Obligations.CompareAndMove : Prop :=
  (∀ (s : State) (g : Guard) (ty : Ty) (c : Cond) (d : BitVec 3) (a b : BitVec 6) (imm : BitVec 32), s.Issues g →
      ((Instr.cmp g ty c d a b).wf = true → exec (.cmp g ty c d a b) s = .next (s.writeP d (compares ty c (s.readX a).toNat (s.readX b).toNat)))
      ∧ ((Instr.cmpImm g ty c d a imm).wf = true →
          exec (.cmpImm g ty c d a imm) s = .next (s.writeP d (compares ty c (s.readX a).toNat (imm.signExtend 64).toNat))))
  ∧ (∀ (s : State) (g : Guard) (d a b : BitVec 6) (p q r : BitVec 3) (imm : BitVec 32), s.Issues g →
      let gives (i : Instr) (v : Word) : Prop := exec i s = .next (s.writeX d v 1)
      let sets (i : Instr) (v : Bool) : Prop := exec i s = .next (s.writeP p v)
      gives (.sel g d a b q) (if s.readP q = true then s.readX a else s.readX b)
      ∧ gives (.mov g d a) (s.readX a)
      ∧ gives (.movi g d imm) (imm.signExtend 64)
      ∧ gives (.movh g d imm) (BitVec.ofNat 64 (imm.toNat * 2 ^ 32 + (s.readX d).toNat % 2 ^ 32))
      ∧ sets (.pset g p a) (decide (s.readX a ≠ 0))
      ∧ sets (.pand g p q r) (s.readP q && s.readP r)
      ∧ sets (.por g p q r) (s.readP q || s.readP r)
      ∧ sets (.pxor g p q r) (xor (s.readP q) (s.readP r))
      ∧ sets (.pnot g p q) (!s.readP q))
  ∧ (∀ (s : State) (g : Guard) (d : BitVec 6) (m : MemOp), s.Issues g →
      let o := s.readX m.idx + m.disp.signExtend 64
      let e := s.readSg m.sg
      if e.attr.extractLsb' 0 3 ≠ 0 ∧ o.toNat ≤ e.limit.toNat then exec (.lea g d m) s = .next (s.writeX d (e.base + o) 1)
      else exec (.lea g d m) s = .next (s.raise 0x06 (e.base + o)))

/-- R176, R178, R179, R185, R201: What writing a scalar register does: x0 discards, a private register holds the value at once
and nothing else changes, a shared register's write waits for its landing. MFS reads and MTS writes the special registers, each
as the table of R185 gives it; %pvr lands on the tiles of the crew two rc later. -/
def Obligations.ScalarRegisters : Prop :=
  (∀ (s : State) (r : BitVec 6) (v : Word) (lat : Nat), s.ThreadOk → s.cur.old = none →
      let t := s.writeX r v lat
      s.readX 0 = 0
      ∧ (r = 0 → t = s)
      ∧ (0 < r.toNat → r.toNat < 32 →
          t.readX r = v ∧ (∀ q : BitVec 6, q ≠ r → t.readX q = s.readX q) ∧ t = { s with ctxs := t.ctxs }
          ∧ (∀ k, k ≠ s.myCtx → t.ctx k = s.ctx k) ∧ { t.me with x := s.me.x } = s.me)
      ∧ (32 ≤ r.toNat →
          (∀ q : BitVec 6, t.readX q = s.readX q) ∧ t = { s with cores := t.cores }
          ∧ (∀ k, k ≠ s.myCore → t.core k = s.core k)
          ∧ t.here = { s.here with pend := s.here.pend ++ [⟨s.rc + lat, s.cur.slot, false, r.toNat - 32, v.setWidth 512⟩] }))
  ∧ (∀ (s : State) (g : Guard) (sr : SReg) (d a : BitVec 6),
      (s.IssuesAt g sr.readLevel → ∃ v, exec (.mfs g d sr) s = .next (s.writeX d v 2) ∧
        match sr with
        | .slot => v = BitVec.ofNat 64 s.cur.slot
        | .core => v = BitVec.ofNat 64 s.cur.core
        | .tile => v = BitVec.ofNat 64 s.cur.tile
        | .site => v = BitVec.ofNat 64 (s.siteOf s.cur.tile)
        | .unit => v = s.view.unit.setWidth 64
        | .fst => v = s.view.fst.setWidth 64
        | .mxc => v = s.view.mxc.setWidth 64
        | .rkey0 => v = (s.view.rkey.extractLsb' 0 32).setWidth 64
        | .rkey1 => v = (s.view.rkey.extractLsb' 32 32).setWidth 64
        | .prio => v = s.view.prio.setWidth 64
        | .vcc => v = BitVec.ofNat 64 (s.myVcc % 2 ^ 48)
        | .mode => v.getLsbD 0 = s.view.el ∧ v.extractLsb' 1 2 = s.view.lvl ∧ v.getLsbD 3 = s.view.swx ∧ v.toNat < 16
        | .crew => (s.view.crew = none → v = 0) ∧ ∀ w, s.view.crew = some w →
            v.toNat = (s.myTile.col % 2 ^ 16) + 2 ^ 16 * (s.myTile.row % 2 ^ 16) + 2 ^ 32 * ((s.crew w).task.toNat % 2 ^ 16)
        | .task => v = (match s.view.crew with | none => 0 | some w => (s.crew w).task.setWidth 64)
        | .ucount => v = (match s.view.crew with | none => 0 | some w => BitVec.ofNat 64 (s.crew w).blk.units)
        | .tstart => v = (match s.view.crew with | none => 0 | some w => BitVec.ofNat 64 (s.crew w).tstart)
        | .pvr => v = (match s.view.crew with | none => 0 | some _ => s.myTile.pvr.setWidth 64)
        | .epc => v = (match s.claimed s.myCtx with | some r => (s.ctx r.ctx).s.pc | none => s.view.epc)
        | .enpc => v = (match s.claimed s.myCtx with | some r => (s.ctx r.ctx).s.npc | none => s.view.enpc)
        | .ennpc => v = (match s.claimed s.myCtx with | some r => (s.ctx r.ctx).s.nnpc | none => s.view.ennpc)
        | .estat => (match s.claimed s.myCtx with
            | some r => v.extractLsb' 0 2 = (s.ctx r.ctx).s.nul ∧ v.getLsbD 2 = r.asyn ∧ v.toNat < 8
            | none => v = s.view.estat)
        | .ecause => v = (match s.claimed s.myCtx with | some r => r.ecause | none => s.view.ecause)
        | .eaddr => v = (match s.claimed s.myCtx with | some r => r.eaddr | none => s.view.eaddr))
      ∧ (s.IssuesAt g sr.writeLevel → sr.writable = true → s.claimed s.myCtx = none → ∃ t, exec (.mts g sr a) s = .next t ∧
          let v := s.readX a
          match sr with
          | .unit => t = s.modMe (fun c => { c with unit := v.setWidth 24 })
          | .mxc => t = s.modMe (fun c => { c with mxc := v.setWidth 48 })
          | .rkey0 => t = s.modMe (fun c => { c with rkey := c.rkey.extractLsb' 32 32 ++ v.setWidth 32 })
          | .rkey1 => t = s.modMe (fun c => { c with rkey := v.setWidth 32 ++ c.rkey.extractLsb' 0 32 })
          | .prio => t = s.modMe (fun c => { c with prio := v.setWidth 3 })
          | .fst => ∃ n : BitVec 16, t = s.modMe (fun c => { c with fst := n }) ∧ n.extractLsb' 0 5 = v.extractLsb' 0 5
              ∧ n.extractLsb' 5 3 = 0 ∧ n.extractLsb' 11 5 = v.extractLsb' 11 5
              ∧ n.extractLsb' 8 3 = (if v.extractLsb' 8 3 = 0 ∨ v.extractLsb' 8 3 = 6 ∨ v.extractLsb' 8 3 = 7
                  then s.me.fst.extractLsb' 8 3 else v.extractLsb' 8 3)
          | .pvr => (s.view.crew = none → t = s) ∧ ∀ w, s.view.crew = some w → ∀ u,
              t.tile u = if u ∈ s.crewTiles w
                then { s.tile u with pvrPend := (s.tile u).pvrPend ++ [(s.rcOf u + 2, v.setWidth 16)] } else s.tile u
          | .epc => t = s.modMe (fun c => { c with epc := v })
          | .enpc => t = s.modMe (fun c => { c with enpc := v })
          | .ennpc => t = s.modMe (fun c => { c with ennpc := v })
          | .estat => t = s.modMe (fun c => { c with estat := v &&& 7 })
          | .ecause => t = s.modMe (fun c => { c with ecause := v &&& 0xFFFF3F000000FFFF })
          | .eaddr => t = s.modMe (fun c => { c with eaddr := v })
          | _ => True))

/-- R205, R212-R214, R213, R214, R229, R232: The masked instructions of one source, element by element. The masked instructions
of two sources on integers and bits, and VRNG, element by element. -/
def Obligations.VectorElements : Prop :=
  (∀ (s s1 : State) (g : Guard) (ty : Ty) (sat : Bool) (vm : VMask) (d a : BitVec 6) (x : Vec),
      s.Issues g → s.readV a = .ok (x, s1) → s1.CanWriteV d →
      let w := ty.bits
      let X (i : Nat) : Nat := elem w x.toNat i
      let gives (i : Instr) (lat : Nat) (f : Nat → Rd) : Prop := ∃ t, exec i s = .next t ∧ s1.VectorWritten w vm d lat f t
      let estimated (v : Nat → Ex) (i : Nat) : Rd := ⟨(estimate (fmtOf ty) (v i).v).code, (estimate (fmtOf ty) (v i).v).fl ||| (v i).fl⟩
      (ty.isI = true →
        gives (.vclz g ty vm d a) 2 (fun i => ⟨clzN w (X i), 0⟩)
        ∧ gives (.vpopc g ty vm d a) 2 (fun i => ⟨(List.range w).countP (fun j => (X i).testBit j), 0⟩))
      ∧ (ty.isS = true →
        gives (.vabs g ty sat vm d a) 2 (fun i => ⟨wrapInt ty sat (intOf ty (X i)).natAbs, 0⟩)
        ∧ gives (.vneg g ty sat vm d a) 2 (fun i => ⟨wrapInt ty sat (-intOf ty (X i)), 0⟩))
      ∧ (ty.isF = true →
        gives (.vabs g ty false vm d a) 2 (fun i =>
          if valueF (fmtOf ty) (X i) = .nan then specialNan (fmtOf ty) else ⟨X i % 2 ^ (w - 1), 0⟩)
        ∧ gives (.vneg g ty false vm d a) 2 (fun i =>
          if valueF (fmtOf ty) (X i) = .nan then specialNan (fmtOf ty) else ⟨X i ^^^ 2 ^ (w - 1), 0⟩)
        ∧ gives (.vrcp g ty vm d a) 4 (estimated (fun i => rcpVal (valueF (fmtOf ty) (X i))))
        ∧ gives (.vrsq g ty vm d a) 4 (estimated (fun i => rsqVal (valueF (fmtOf ty) (X i))))
        ∧ gives (.vexp2 g ty vm d a) 4 (estimated (fun i => exp2Val (valueF (fmtOf ty) (X i))))
        ∧ gives (.vlog2 g ty vm d a) 4 (estimated (fun i => log2Val (valueF (fmtOf ty) (X i))))))
  ∧ (∀ (s s1 s2 : State) (g : Guard) (ty : Ty) (sat : Bool) (vm : VMask) (d a b : BitVec 6) (x y : Vec),
      s.Issues g → s.readV a = .ok (x, s1) → s1.readV b = .ok (y, s2) → s2.CanWriteV d →
      let X (w i : Nat) : Nat := elem w x.toNat i
      let Y (w i : Nat) : Nat := elem w y.toNat i
      let gives (i : Instr) (w lat : Nat) (f : Nat → Nat) : Prop :=
        ∃ t, exec i s = .next t ∧ s2.VectorWritten w vm d lat (fun i => ⟨f i, 0⟩) t
      let w := ty.bits
      let P (i : Nat) : Int := intOf ty (X w i)
      let Q (i : Nat) : Int := intOf ty (Y w i)
      (ty.isI = true →
        gives (.vadd g ty .dyn sat vm d a b) w 2 (fun i => wrapInt ty sat (P i + Q i))
        ∧ gives (.vsub g ty .dyn sat vm d a b) w 2 (fun i => wrapInt ty sat (P i - Q i))
        ∧ gives (.vmul g ty .dyn sat vm d a b) w (mulLat s2 4) (fun i => wrapInt ty sat (P i * Q i))
        ∧ gives (.vmulh g ty vm d a b) w (mulLat s2 4) (fun i => codeInt ty (P i * Q i / 2 ^ w))
        ∧ gives (.vavg g ty vm d a b) w 2 (fun i => codeInt ty ((P i + Q i + 1) / 2))
        ∧ gives (.vmin g ty vm d a b) w 2 (fun i => if P i < Q i then X w i else Y w i)
        ∧ gives (.vmax g ty vm d a b) w 2 (fun i => if P i < Q i then Y w i else X w i)
        ∧ gives (.vshl g ty vm d a b) w 2 (fun i => X w i * 2 ^ (Y w i % w))
        ∧ gives (.vshr g ty vm d a b) w 2 (fun i => X w i / 2 ^ (Y w i % w))
        ∧ gives (.vsar g ty vm d a b) w 2 (fun i =>
            codeInt ty ((if 2 ^ (w - 1) ≤ X w i then (X w i : Int) - 2 ^ w else X w i) / 2 ^ (Y w i % w))))
      ∧ gives (.vand g vm d a b) 32 1 (fun i => X 32 i &&& Y 32 i)
      ∧ gives (.vor g vm d a b) 32 1 (fun i => X 32 i ||| Y 32 i)
      ∧ gives (.vxor g vm d a b) 32 1 (fun i => X 32 i ^^^ Y 32 i)
      ∧ gives (.vrng g vm d a b) 32 4 (fun i => (kmix (BitVec.ofNat 64 (Y 32 i * 2 ^ 32 + X 32 i)) s.view.rkey).toNat))

/-- R211, R213, R230: the masked floating-point instructions: each result is the exact value rounded once in the mode of RM. -/
def Obligations.VectorFloats : Prop :=
  ∀ (s s1 s2 s3 : State) (g : Guard) (ty : Ty) (rm : Rm) (sat : Bool) (vm : VMask) (d a b c : BitVec 6) (x y z : Vec)
    (kind : StepKind),
    s.Issues g → ty.isF = true → s.readV a = .ok (x, s1) → s1.readV b = .ok (y, s2) →
    let w := ty.bits
    let mode := modeOf rm s.view.fst
    let val (v : Vec) (i : Nat) : Val := valueF (fmtOf ty) (elem w v.toNat i)
    let rounded (v : Val) (fl : BitVec 5) : Rd := ⟨(roundF (fmtOf ty) mode sat v).code, (roundF (fmtOf ty) mode sat v).fl ||| fl⟩
    let summed (p q : Val) (fl : BitVec 5) : Rd :=
      rounded (exactSum (mode == .rdn) [p, q]).v ((exactSum (mode == .rdn) [p, q]).fl ||| fl)
    (s2.CanWriteV d →
      let gives (i : Instr) (lat : Nat) (f : Nat → Rd) : Prop := ∃ t, exec i s = .next t ∧ s2.VectorWritten w vm d lat f t
      gives (.vadd g ty rm sat vm d a b) 4 (fun i => summed (val x i) (val y i) 0)
      ∧ gives (.vsub g ty rm sat vm d a b) 4 (fun i => summed (val x i) (val y i).neg 0)
      ∧ gives (.vmul g ty rm sat vm d a b) (mulLat s2 4) (fun i =>
          rounded (mulVal (val x i) (val y i)).v (mulVal (val x i) (val y i)).fl)
      ∧ gives (.vmin g ty vm d a b) 2 (fun i => minMaxElem ty false (elem w x.toNat i) (elem w y.toNat i))
      ∧ gives (.vmax g ty vm d a b) 2 (fun i => minMaxElem ty true (elem w x.toNat i) (elem w y.toNat i)))
    ∧ (s2.readV c = .ok (z, s3) → s3.CanWriteV d →
      let gives (i : Instr) (f : Nat → Rd) : Prop := ∃ t, exec i s = .next t ∧ s3.VectorWritten w vm d (mulLat s3 4) f t
      gives (.vfma g ty rm sat vm d a b c) (fun i => summed (mulVal (val x i) (val y i)).v (val z i) (mulVal (val x i) (val y i)).fl)
      ∧ gives (.vfms g ty rm sat vm d a b c) (fun i =>
          summed (mulVal (val x i) (val y i)).v (val z i).neg (mulVal (val x i) (val y i)).fl)
      ∧ gives (.vstep g ty rm sat kind vm d a b c) (fun i => stepElem ty kind mode sat
          (elem w x.toNat i) (elem w y.toNat i) (elem w z.toNat i) (elem w (s3.oldV d).toNat i)))

/-- R216, R218-R220: selection, permutation, broadcast and shuffles move elements and change none. -/
def Obligations.VectorMoves : Prop :=
  ∀ (s : State) (g : Guard) (ty : Ty) (vm : VMask) (d a b c : BitVec 6), s.Issues g → ty.isW = true →
    let w := ty.bits
    let n := 512 / w
    (∀ (ramp : Bool) (imm : BitVec 32), s.CanWriteV d →
      let gives (i : Instr) (v : Word) : Prop := ∃ t, exec i s = .next t
        ∧ s.VectorWritten w vm d 1 (fun i => ⟨v.toNat + (if ramp then i else 0), 0⟩) t
      gives (.vbcast g ty ramp vm d b) (s.readX b) ∧ gives (.vbcastImm g ty ramp vm d imm) (imm.signExtend 64))
    ∧ ∀ (s1 s2 : State) (x y : Vec), s.readV a = .ok (x, s1) → s1.readV b = .ok (y, s2) →
      let X (i : Nat) : Nat := elem w x.toNat i
      let Y (i : Nat) : Nat := elem w y.toNat i
      let XY (i : Nat) : Nat := if i < n then X i else Y (i - n)
      (s2.CanWriteV d →
        (∀ p : BitVec 3, ∃ t, exec (.vsel g vm d a b p) s = .next t ∧ s2.VectorWritten 32 vm d 1 (fun i =>
            ⟨if (s.readM p).getLsbD i then elem 32 x.toNat i else elem 32 y.toNat i, 0⟩) t)
        ∧ ∀ sh : Shuffle, sh.ok ty b = true → ∃ t, exec (.vshuf g ty sh vm d a b) s = .next t
          ∧ s2.VectorWritten w vm d 2 (fun i => ⟨match sh.pat with
              | .ziplo => if i % 2 = 0 then X (i / 2) else Y (i / 2)
              | .ziphi => if i % 2 = 0 then X (n / 2 + i / 2) else Y (n / 2 + i / 2)
              | .even => XY (2 * i)
              | .odd => XY (2 * i + 1)
              | .slide => XY (i + sh.k.toNat)
              | .rev => X (n - 1 - i), 0⟩) t)
      ∧ ∀ (s3 : State) (z : Vec), s2.readV c = .ok (z, s3) → s3.CanWriteV d →
        ∃ t, exec (.vperm g ty vm d a b c) s = .next t ∧ s3.VectorWritten w vm d 2 (fun i =>
          let k := Y i % (2 * n)
          ⟨if k < n then X k else elem w z.toNat (k - n), 0⟩) t

/-- R84, R215, R217, R221, R222: VCMP's lane mask and the mask instructions; m0 reads as all ones and discards writes (R176).
Reductions and dot products over the active elements write a scalar. -/
def Obligations.MasksAndReductions : Prop :=
  (∀ (s : State) (g : Guard) (d p q : BitVec 3), s.Issues g →
      exec (.mand g d p q) s = .next (s.writeM d (s.readM p &&& s.readM q))
      ∧ exec (.mor g d p q) s = .next (s.writeM d (s.readM p ||| s.readM q))
      ∧ exec (.mnot g d p) s = .next (s.writeM d (~~~s.readM p))
      ∧ s.readM 0 = 0xFFFF ∧ (∀ v, s.writeM 0 v = s)
      ∧ ∀ (ty : Ty) (cond : Cond) (vm : VMask) (a b : BitVec 6) (x y : Vec) (s1 s2 : State),
        (Instr.vcmp g ty cond vm d a b).wf = true → s.readV a = .ok (x, s1) → s1.readV b = .ok (y, s2) →
        ∃ v : BitVec 16, exec (.vcmp g ty cond vm d a b) s = .next (s2.writeM d v) ∧ ∀ j, j < 16 →
          let i := j * 32 / ty.bits
          v.getLsbD j = if (s.readM vm.gm).getLsbD (i * ty.bits / 32) then
              compares ty cond (elem ty.bits x.toNat i) (elem ty.bits y.toNat i)
            else !vm.z && (s.readM d).getLsbD j)
  ∧ (∀ (s s1 : State) (g : Guard) (ty : Ty) (rm : Rm) (mk : BitVec 3) (d a b c : BitVec 6) (x : Vec),
      s.Issues g → s.readV a = .ok (x, s1) →
      let w := ty.bits
      (∀ (sat : Bool) (op : RedOp), (Instr.vred g ty rm sat op mk d a).wf = true →
        let leaves := (List.range (512 / w)).map
          (fun i => if active (s.readM mk) w i then elem w x.toNat i else redIdentity ty op)
        let r := ptree (redNode ty op (modeOf rm s.view.fst) sat) (Nat.log2 (512 / w)) leaves
        exec (.vred g ty rm sat op mk d a) s
          = .next ((s1.raiseFlags r.fl).writeX d (if ty.isF then BitVec.ofNat 64 r.code else extend ty r.code) 6))
      ∧ ∀ (s2 : State) (y : Vec), s1.readV b = .ok (y, s2) →
        (ty.isDotI = true → ∃ v : Word, exec (.vdot g ty .dyn mk d a b c) s = .next (s2.writeX d v (mulLat s2 6))
          ∧ v = BitVec.ofInt 64 ((s2.readX c).toInt + ((List.range (512 / w)).map (fun i =>
              if active (s.readM mk) w i then intOf ty (elem w x.toNat i) * intOf ty (elem w y.toNat i) else 0)).sum))
        ∧ (ty.isF = true →
          let r := dotF ty (modeOf rm s.view.fst) (s.readM mk) x.toNat y.toNat (s2.readX c)
          exec (.vdot g ty rm mk d a b c) s
            = .next ((s2.raiseFlags r.fl).writeX d (BitVec.ofNat 64 r.code) (mulLat s2 6))))

/-- R223, R224, R225-R228: Conversions and stochastic rounding of the elements from PART on. Block scales, packing and
unpacking. -/
def Obligations.ConversionsAndBlocks : Prop :=
  (∀ (s s1 : State) (g : Guard) (ty : Ty) (rm : Rm) (sat : Bool) (cv : ConvSel) (vm : VMask) (d a c : BitVec 6) (k : BitVec 5)
      (x : Vec), s.Issues g → s.readV a = .ok (x, s1) →
      let ws := cv.src.bits
      let wd := ty.bits
      let n := 512 / max ws wd
      let at0 := if wd < ws then cv.part.toNat * n else 0
      let src (j : Nat) : Nat := j - at0 + (if ws < wd then cv.part.toNat * n else 0)
      let converted (mask : BitVec 16) (zero : Bool) (old : Vec) (f : Nat → Nat → Rd) (v : Vec) (fl : BitVec 5) : Prop :=
        (∀ j, j < 512 / wd → elem wd v.toNat j =
          if at0 ≤ j ∧ j < at0 + n then
            if active mask (max ws wd) (j - at0) then (f (src j) (elem ws x.toNat (src j))).code % 2 ^ wd
            else if zero then 0 else elem wd old.toNat j
          else elem wd old.toNat j)
        ∧ fl = (List.range (512 / wd)).foldl (fun fl j =>
            if at0 ≤ j ∧ j < at0 + n ∧ active mask (max ws wd) (j - at0) = true then fl ||| (f (src j) (elem ws x.toNat (src j))).fl
            else fl) 0
      ((Instr.vcvt g ty rm sat cv vm d a).wf = true → s1.CanWriteV d →
        ∃ v fl t, exec (.vcvt g ty rm sat cv vm d a) s = .next t ∧ (s1.raiseFlags fl).writeV d v 4 = .ok t
          ∧ converted (s.readM vm.gm) (vm.z || decide (62 ≤ d.toNat)) (s1.oldV d)
              (fun _ e => cvtElem cv.src ty (modeOf rm s.view.fst) sat e) v fl)
      ∧ ∀ (r : Vec) (s2 : State), (Instr.vsrnd g ty sat cv vm d a c k).wf = true → s1.readV c = .ok (r, s2) → s2.CanWriteV d →
        ∃ v fl t, exec (.vsrnd g ty sat cv vm d a c k) s = .next t ∧ (s2.raiseFlags fl).writeV d v 4 = .ok t
          ∧ converted (s.readM vm.gm) (vm.z || decide (62 ≤ d.toNat)) (s2.oldV d)
              (fun j e => roundF (fmtOf ty) (.sr (srndDraw ws r.toNat j) k.toNat (some (gridOf cv.src))) sat (valueF (fmtOf cv.src) e)) v fl)
  ∧ (∀ (s s1 s2 : State) (g : Guard) (ty : Ty) (rm : Rm) (sat : Bool) (d a b c : BitVec 6) (x y : Vec),
      s.Issues g → s.readV a = .ok (x, s1) →
      (∀ cv : UnpackSel, (Instr.vunpk g ty rm sat cv d a b).wf = true → s1.CanWriteV d →
        let part := cv.part.toNat
        let bytes := 4 * cv.src.bits
        let e := if cv.src = .f4s then elem 8 x.toNat (48 + 2 * part) else (s.readX b).toNat % 256
        let st := if cv.src = .f4s then elem 8 x.toNat (49 + 2 * part) else 0
        let code (j : Nat) : Nat := elem cv.src.bits (x.toNat / 2 ^ (8 * (part * bytes))) (j + if cv.half then 16 else 0)
        ∃ v fl t, exec (.vunpk g ty rm sat cv d a b) s = .next t ∧ (s1.raiseFlags fl).writeV d v 6 = .ok t
          ∧ let f (j : Nat) : Rd :=
              if ty.isFloat then roundF (fmtOf ty) (modeOf rm s.view.fst) sat (blockVal cv.src (code j) e st)
              else ⟨codeInt ty (intOf cv.src (code j)), 0⟩
            (∀ j, j < 512 / ty.bits → elem ty.bits v.toNat j = (f j).code % 2 ^ ty.bits)
            ∧ fl = (List.range (512 / ty.bits)).foldl (fun fl j => fl ||| (f j).fl) 0)
      ∧ ∀ src : Ty, (src.bits = 32 → s1.readV c = .ok (y, s2)) → (src.bits ≠ 32 → s2 = s1 ∧ y = 0) →
        let codes := if src.bits = 32 then elems 32 16 x.toNat ++ elems 32 16 y.toNat else elems 16 32 x.toNat
        ((Instr.vscale g ty src d a c).wf = true →
          exec (.vscale g ty src d a c) s
            = .next (s2.writeX d (BitVec.ofNat 64 (blockScale ty src (codes.map (valueF (fmtOf src))))) 6))
        ∧ ∀ part : BitVec 3, (Instr.vpack g ty rm sat ⟨part, src⟩ d a b c).wf = true → s2.CanWriteV d →
          let e := (s2.readX b).toNat % 256
          let p : Packed :=
            if ty.isBlock then
              if e = 255 then ⟨List.replicate 32 ⟨0, 0⟩, ⟨0, 0⟩⟩
              else packBlock ty (modeOf rm s.view.fst) sat (codes.map (fun k => (valueF (fmtOf src) k).scale (127 - (e : Int))))
            else ⟨codes.map (fun k => roundI ty (modeOf rm s.view.fst) (valInt (intOf src k))), ⟨0, 0⟩⟩
          ∃ t, exec (.vpack g ty rm sat ⟨part, src⟩ d a b c) s = .next t
            ∧ (s2.raiseFlags (p.els.foldl (fun fl r => fl ||| r.fl) 0 ||| p.standIn.fl)).writeV d
                (BitVec.ofNat 512 (packVec ty part.toNat e p (s2.oldV d).toNat)) 6 = .ok t)

/-- R148, R150, R184: The checks of a memory operand, in order: no segment, the limit, the kind, the right, the level. An alias
address goes through the bank map entry of its window; a global address names its tile and bank. -/
def Obligations.SegmentsAndPlaces : Prop :=
  (∀ (s : State) (m : MemOp) (n : Nat) (kinds : List Nat) (right : Option Nat),
      let e := s.readSg m.sg
      let o := s.readX m.idx + m.disp.signExtend 64
      let a := e.base + o
      let kind := (e.attr.extractLsb' 0 3).toNat
      s.segEA m n kinds right =
        if kind = 0 ∨ e.limit.toNat < o.toNat + n - 1 then .error (.trap 0x06 a)
        else if kind ∉ kinds ∨ (∃ r, right = some r ∧ e.attr.getLsbD r = false) then .error (.trap 0x07 a)
        else if (kind = 5 ∨ kind = 6) ∧ s.level = 0 then .error (.trap 0x05 a)
        else .ok a)
  ∧ (∀ (s : State) (a : Word) (write : Bool),
      let m := s.mapEnt s.myCore (a.extractLsb' 17 5).toNat
      let off := (a.extractLsb' 0 17).toNat
      s.resolve a write =
        if spaceOf a = 0 then
          if m.getLsbD 15 = false then .error (.trap 0x08 a)
          else if m.getLsbD (if write then 9 else 8) = false then .error (.trap 0x07 a)
          else if 48 ≤ (m.extractLsb' 0 6).toNat ∧ s.level = 0 then .error (.trap 0x07 a)
          else match s.neighbour s.cur.tile (m.extractLsb' 12 3).toNat with
            | none => .error (.trap 0x08 a)
            | some t => .ok ⟨t, (m.extractLsb' 0 6).toNat, off⟩
        else if 48 ≤ (a.extractLsb' 17 6).toNat ∧ s.level = 0 then .error (.trap 0x07 a)
        else .ok ⟨(a.extractLsb' 32 16).toNat, (a.extractLsb' 17 6).toNat, off⟩)

/-- R150, R151, R154, R163, R164, R164-R166, R297, R394, R440: Loads: the bytes read, extended by the type; a load from
elsewhere asks, waits, and completes with the answer of this phase, from the place it issued to. Stores: an ordinary store goes
into the phase buffer, SIG is an immediate-class write. -/
def Obligations.LoadsAndStores : Prop :=
  (∀ (s : State) (g : Guard) (ty : Ty) (d : BitVec 6) (m : MemOp) (a : Word) (l : Loc), s.Issues g → ty.isWidth = true →
      let n := ty.bits / 8
      -- LD and LDV through an ALIAS segment
      (s.vaultEA m n [1] 4 false = .ok (a, l) → ∀ bs t, s.LoadReady a l n bs t →
        exec (.ld g ty d m) s = .next (t.writeX d (extended ty false (leNat bs)) 8))
      ∧ (s.vaultEA m 64 [1] 4 false = .ok (a, l) → ∀ bs t u, s.LoadReady a l 64 bs t →
        t.writeV d (BitVec.ofNat 512 (leNat bs)) 8 = .ok u → exec (.ldv g d m) s = .next u)
      -- LDG through a VAULT segment
      ∧ (globalEA s m n false false = .ok (a, some l) → ∀ bs t, s.LoadReady a l n bs t →
        exec (.ldg g ty d m) s = .next (t.writeX d (extended ty false (leNat bs)) 8))
      ∧ (globalEA s m 64 true false = .ok (a, some l) → ∀ bs t u, s.LoadReady a l 64 bs t →
        t.writeV d (BitVec.ofNat 512 (leNat bs)) 8 = .ok u → exec (.ldgV g d m) s = .next u)
      -- LDG of the trap window and of control space, when the reply has come
      ∧ (globalEA s m n false false = .ok (a, none) → s.closeHolds = false → ∀ v, s.answered? = some v →
        exec (.ldg g ty d m) s = .next (s.tookReply.writeX d (extended ty false (leNat (bytesOfVec n v))) 8))
      ∧ (globalEA s m 64 true false = .ok (a, none) → s.closeHolds = false → ∀ v u, s.answered? = some v →
        s.tookReply.writeV d (BitVec.ofNat 512 (leNat (bytesOfVec 64 v))) 8 = .ok u → exec (.ldgV g d m) s = .next u)
      -- a load from another tile or by a global address, with no answer of this phase: one request leaves and the group issues again
      ∧ (s.vaultEA m n [1] 4 false = .ok (a, l) → s.closeHolds = false → s.isDirect a = false →
        (s.answered? = none ∨ s.answerFresh = false) →
        let u := s.tookReply
        exec (.ld g ty d m) s = .next (((((u.addOut u.myCtx (.vault l.tile l.bank false) 1).2.send u.cur.tile l.tile 0 u.myCtx
          (vaultStream u.myCtx a) (.read l n u.nextId)).setGoing ⟨a, some l, s.phaseNow⟩).modMe (fun c => { c with wait := .load })).setRes
            .reissue))
      -- the place of an access by LDG or STS: checked when it first issues, kept when it issues again
      ∧ (s.going = none → ∀ vec write k, s.segEA m k [2, 5, 6] (some (if write then 5 else 4)) = .ok a →
          (spaceOf a = 1 → s.vaultSpaceOk a = true → a.toNat % k = 0 → s.resolve a write = .ok l →
            globalEA s m k vec write = .ok (a, some l))
          ∧ (spaceOf a ≠ 1 → s.windowChecks a k vec = .ok () → globalEA s m k vec write = .ok (a, none)))
      ∧ (∀ x vec write k, s.going = some x → globalEA s m k vec write = .ok (x.addr, x.loc)))
  ∧ (∀ (s s1 t : State) (g : Guard) (ty : Ty) (b : BitVec 6) (p mk : BitVec 3) (m : MemOp) (a : Word) (l : Loc) (v : Vec),
      s.Issues g → ty.isWidth = true →
      let n := ty.bits / 8
      let lanes : BitVec 64 := BitVec.ofNat 64 ((List.range 64).map (fun i => if (s.readM mk).getLsbD (i / 4) then 2 ^ i else 0)).sum
      let X : BitVec 512 := (s.readX b).setWidth 512
      (s.vaultEA m n [1] 5 true = .ok (a, l) → s.StoreTaken a l n (BitVec.ofNat 64 (2 ^ n - 1)) X t →
        exec (.st g ty b m) s = .next t)
      ∧ (s.vaultEA m 64 [1] 5 true = .ok (a, l) → s.readV b = .ok (v, s1) → s1.StoreTaken a l 64 lanes v t →
        exec (.stv g b mk m) s = .next t)
      ∧ (globalEA s m n false true = .ok (a, some l) → s.StoreTaken a l n (BitVec.ofNat 64 (2 ^ n - 1)) X t →
        exec (.sts g ty b m) s = .next t)
      ∧ (globalEA s m 64 true true = .ok (a, some l) → s.readV b = .ok (v, s1) → s1.StoreTaken a l 64 lanes v t →
        exec (.stsV g b mk m) s = .next t)
      ∧ (s.vaultEA m 2 [1, 2] 5 true = .ok (a, l) → s.StoreTaken a l 2 3 ((s.readM p).setWidth 512) t →
        exec (.stmask g p m) s = .next t)
      ∧ (s.vaultEA m 1 [1, 2] 5 true = .ok (a, l) → s.StoreTaken a l 1 1 ((s.view.p ||| 1).setWidth 512) t →
        exec (.stmaskP g m) s = .next t)
      ∧ (s.vaultEA m 8 [1, 2] 5 true = .ok (a, l) → s.ImmTaken a l 8 0xFF X t → exec (.sig g b m) s = .next t)
      -- a store to the trap window or to control space ends with its reply
      ∧ (globalEA s m n false true = .ok (a, none) → s.closeHolds = false → (∃ w, s.answered? = some w) →
        exec (.sts g ty b m) s = .next s.tookReply)
      ∧ (globalEA s m 64 true true = .ok (a, none) → s.readV b = .ok (v, s1) → s1.closeHolds = false → (∃ w, s1.answered? = some w) →
        exec (.stsV g b mk m) s = .next s1.tookReply))

/-- R159, R160, R166, R167, R301: A landing immediate-class write changes its enabled bytes and no other byte of memory.
Watches: at most 512 words of a tile and 8 of a context; a second owner is turned away. -/
def Obligations.ImmediateWritesAndWatches : Prop :=
  (∀ (s : State) (ctx : Nat) (l : Loc) (n : Nat) (en : BitVec 64) (v : BitVec 512), n ≤ 64 →
      let t := s.landImm ctx l n en v
      ∀ k, memRead t.mem k =
        if s.locKey l ≤ k ∧ k < s.locKey l + n ∧ en.getLsbD (k - s.locKey l) = true then v.extractLsb' (8 * (k - s.locKey l)) 8
        else memRead s.mem k)
  ∧ (∀ (s : State) (g : Guard) (d : BitVec 6) (m : MemOp) (a : Word) (l : Loc), s.Issues g →
      let mine (w : Watch) : Bool := w.bank == l.bank && w.off == l.off
      let ws := s.myTile.watches
      (s.vaultEA m 8 [1, 2] 4 false = .ok (a, l) → l.tile = s.cur.tile →
        let r : Word × List Watch :=
          if (∃ w ∈ ws, mine w = true) then
            (if (ws.find? mine).map Watch.ctx = some s.myCtx then 0 else 2, ws)
          else if 512 ≤ ws.length ∨ 8 ≤ ws.countP (fun w => w.ctx == s.myCtx) then (1, ws)
          else (0, ws ++ [⟨l.bank, l.off, s.myCtx⟩])
        exec (.watch g d m) s = .next ((s.modTile s.cur.tile (fun i => { i with watches := r.2 })).writeX d r.1 8))
      ∧ (s.vaultEA m 8 [1, 2] 4 false = .ok (a, l) → exec (.unwatch g m) s = .next (s.modTile s.cur.tile (fun i => { i with
          watches := i.watches.filter (fun w => !(l.tile == s.cur.tile && mine w && w.ctx == s.myCtx)) })))
      ∧ exec (.unwatchAll g) s = .next (s.modTile (tileOfCtx s.myCtx) (fun i => { i with
          watches := i.watches.filter (fun w => w.ctx != s.myCtx) })))

/-- R148, R152, R153, R169-R171, R172, R173: GIVE clears its entry and, once the bank is quiet, completes with 0: the bank is
at the receiver's entry and its row says so; or with 2, the entry restored, where the receiver's entry is taken; the .nb form
answers 1 while the bank is busy. RECLAIM takes an unattached bank at once, and a held one once its holder is quiet. The bank
map instructions and DRAIN, which complete at once or, waiting, when what they wait for is over. -/
def Obligations.BankOwnership : Prop :=
  (∀ (s : State) (g : Guard) (d a : BitVec 6) (e : BitVec 5) (b : BitVec 6) (recv t : Nat), s.Issues g →
      let m := s.mapEnt s.myCore e.toNat
      let x := s.readX a
      let bank := (m.extractLsb' 0 6).toNat
      let row := bankRow s.myTile b.toNat
      (m.getLsbD 15 = true → bank < 48 → giveOk x = true →
        (s.neighbour s.cur.tile (x.extractLsb' 0 3).toNat = none ∨ s.neighbour s.cur.tile (m.extractLsb' 12 3).toNat = none) →
        exec (.give g d a e) s = .next (s.writeX d 3 8) ∧ exec (.giveNb g d a e) s = .next (s.writeX d 3 8))
      ∧ (m.getLsbD 15 = true → bank < 48 → giveOk x = true → s.neighbour s.cur.tile (x.extractLsb' 0 3).toNat = some recv →
        s.neighbour s.cur.tile (m.extractLsb' 12 3).toNat = some t →
        let waits := (s.setEnt s.myCore e.toNat (m &&& 0x7FFF)).await (.give d e.toNat m x false)
        if (s.dirTo t recv).isNone then
          exec (.give g d a e) s = .next (s.writeX d 3 8) ∧ exec (.giveNb g d a e) s = .next (s.writeX d 3 8)
        else exec (.give g d a e) s = .next waits
          ∧ exec (.giveNb g d a e) s = .next (if s.bankBusy s.myCore t bank then s.writeX d 1 8 else waits))
      ∧ (b.toNat < 48 → (row.extractLsb' 14 2).toNat = s.cur.core → 
        let m0 := s.mapEnt s.myCore e.toNat
        let both (u : State) : Prop :=
          exec (.reclaim g d ⟨b, e⟩) s = .next u ∧ exec (.reclaimNb g d ⟨b, e⟩) s = .next u
        (m0.getLsbD 15 = true →
          both (s.writeX d (if (m0.extractLsb' 12 3).toNat = 0 ∧ (m0.extractLsb' 0 6).toNat = b.toNat then 0 else 2) 8))
        ∧ (m0.getLsbD 15 = false → s.rowHolder s.cur.tile b.toNat = none →
          both ((s.attachHome s.myCore e.toNat b.toNat).writeX d 0 8))
        ∧ ∀ h f, m0.getLsbD 15 = false → s.rowHolder s.cur.tile b.toNat = some (h, f) →
          let waits := (s.setEnt h f (s.mapEnt h f &&& 0x7FFF)).await (.reclaim d e.toNat b.toNat h)
          exec (.reclaim g d ⟨b, e⟩) s = .next waits
          ∧ exec (.reclaimNb g d ⟨b, e⟩) s = .next (if s.bankBusy h s.cur.tile b.toNat then s.writeX d 1 8 else waits))
      -- what a waiting GIVE and RECLAIM of context k do when the bank is quiet, outside a replay
      ∧ ∀ (k r : Nat) (w : BitVec 16) (desc : Word), (s.ctx k).crew = none → s.replaying r = false →
        let t2 := tileOfCtx k
        let c2 := coreOfCtx k
        ((s.ctx k).wait = .give d e.toNat w desc false → s.neighbour t2 (w.extractLsb' 12 3).toNat = some r →
          ∀ v, s.neighbour t2 (desc.extractLsb' 0 3).toNat = some v → s.bankBusy c2 r (w.extractLsb' 0 6).toNat = false →
          s.rowHolder r (w.extractLsb' 0 6).toNat = some (c2, e.toNat) →
          (∀ q ∈ s.ctxs, ∀ d' e' h, q.2.wait = .reclaim d' e' (w.extractLsb' 0 6).toNat h → tileOfCtx q.1 ≠ r) →
          let to_ := coreKey v (desc.extractLsb' 4 2).toNat
          let f := (desc.extractLsb' 8 5).toNat
          let bank := (w.extractLsb' 0 6).toNat
          if (s.mapEnt to_ f).getLsbD 15 then exec (.giveComplete k) s = .next ((s.setEnt c2 e.toNat w).completeX k d 2 8)
          else
            let ent := mkEnt ((s.dirTo v r).getD 0) (w.getLsbD 9 && desc.getLsbD 17) (w.getLsbD 8 && desc.getLsbD 16) bank
            exec (.giveComplete k) s = .next ((((s.setEnt to_ f ent).setHolder r bank to_ f).logEv r (.bank r bank to_) 0).completeX k d 0 8))
        ∧ ∀ h, (s.ctx k).wait = .reclaim d e.toNat b.toNat h → r = t2 → s.bankBusy h t2 b.toNat = false →
          exec (.reclaimComplete k) s = .next (((((s.leaveEntry t2 b.toNat).freeEntryOf c2 e.toNat).attachHome c2 e.toNat b.toNat).completeX
            k d 0 8).logEv t2 (.bank t2 b.toNat c2) 0))
  ∧ (∀ (s : State) (g : Guard) (d a : BitVec 6) (e e2 : BitVec 5), s.Issues g →
      let c := s.myCore
      let m := s.mapEnt c e.toNat
      let m2 := s.mapEnt c e2.toNat
      exec (.bmapRead g d e) s = .next (s.writeX d (m.setWidth 64) 8)
      ∧ (s.entryHeld c e.toNat = false → s.entryHeld c e2.toNat = false →
        (1 ≤ s.level ∨ ∀ w, w = m ∨ w = m2 → w.getLsbD 15 = true → (w.extractLsb' 0 6).toNat < 48) →
        exec (.bmapSwap g ⟨e2, e⟩) s
          = .next ((((s.setEnt c e.toNat m2).setEnt c e2.toNat m).moveRow c m e2.toNat).moveRow c m2 e.toNat))
      ∧ (∀ b : BitVec 6, exec (.bmapBank g d b) s
          = .next (if b.toNat < 48 then s.writeX d ((bankRow s.myTile b.toNat).setWidth 64) 8 else s.raise 0x0C 0))
      ∧ (1 ≤ s.level → s.entryHeld c e.toNat = false → bmapSetOk s (s.readX a) e.toNat = true →
        ∃ t, exec (.bmapSet g a e) s = .next t ∧ t.mapEnt c e.toNat = (s.readX a).setWidth 16
          ∧ (∀ f, f ≠ e.toNat → t.mapEnt c f = s.mapEnt c f) ∧ t = { s with cores := t.cores, tiles := t.tiles })
      ∧ exec (.drain g) s = .next (if s.drainIds s.myCtx = [] then s else s.await (.drain (s.drainIds s.myCtx)))
      ∧ (m.getLsbD 15 = true → ∀ t, s.neighbour s.cur.tile (m.extractLsb' 12 3).toNat = some t →
        exec (.drainBank g e) s = .next (if s.bankBusy c t (m.extractLsb' 0 6).toNat
          then s.await (.drainBank t (m.extractLsb' 0 6).toNat) else s))
      -- a thread that waits goes on when nothing of it is left, or the bank is quiet
      ∧ ∀ k, (s.ctx k).crew = none → s.replaying (tileOfCtx k) = false →
        (∀ ids, (s.ctx k).wait = .drain ids → (∀ o ∈ (s.core (coreOfCtx k)).outs, o.id ∉ ids) → s.settleCtx k = s.complete k)
        ∧ ∀ u bank, (s.ctx k).wait = .drainBank u bank → s.bankBusy (coreOfCtx k) u bank = false → s.settleCtx k = s.complete k)

/-- R97, R105, R150, R151, R303, R307, R310, R311, R312: AMO and RED at a word of the tile's own bank: the new value lands, AMO
gives the old value. AMO and RED at a word of another tile or of far memory: one request leaves, to far memory while its core
has fewer than 32 out there; RED goes on, AMO issues again until the old value has come. Reservations: LRW joins the queue of a
word and completes as its head, SCH writes and hands on, RELQ hands on. -/
def Obligations.Atomics : Prop :=
  (∀ (s : State) (g : Guard) (ty : Ty) (op : AmoOp) (d b : BitVec 6) (m : MemOp) (a : Word) (l : Loc),
      s.Issues g → ty.isAmo = true → op.okFor ty = true →
      let n := ty.bits / 8
      let old := leNat (s.readLoc l n)
      let x := (s.readX b).toNat % 2 ^ ty.bits
      let num (v : Nat) : Int := intVal ty (BitVec.ofNat 64 v)
      let new : Nat :=
        match op with
        | .add => if ty = .f32 ∨ ty = .f64 then
            (roundF (fmtOf ty) .rne false (exactSum false [valueF (fmtOf ty) old, valueF (fmtOf ty) x]).v).code
          else (old + x) % 2 ^ ty.bits
        | .and => old &&& x
        | .or => old ||| x
        | .xor => old ^^^ x
        | .min => if ty = .f32 ∨ ty = .f64 then (minMaxElem ty false old x).code else if num old < num x then old else x
        | .max => if ty = .f32 ∨ ty = .f64 then (minMaxElem ty true old x).code else if num old < num x then x else old
        | .swap => x
        | .cas => if old = (s.readX d).toNat % 2 ^ ty.bits then x else old
      s.amoEA m n = .ok (a, some l) → s.isDirect a = true → s.linesHeld l n = false → s.BankFree l.bank →
      let lands (v : Nat) : State := ((s.grantBank s.cur.tile l.bank).meetLine l (tileOfCtx s.myCtx)).landImm s.myCtx l n
        (BitVec.ofNat 64 (2 ^ n - 1)) (BitVec.ofNat 512 v)
      exec (.amo g ty op d b m) s = .next ((lands new).writeX d (extended ty false old) 2)
      ∧ (op ≠ .swap → op ≠ .cas → exec (.red g ty op b m) s = .next (lands new)))
  ∧ (∀ (s : State) (g : Guard) (ty : Ty) (op : AmoOp) (d b : BitVec 6) (m : MemOp) (a : Word) (l : Option Loc),
      s.Issues g → ty.isAmo = true → s.amoEA m (ty.bits / 8) = .ok (a, l) → (l = none ∨ s.isDirect a = false) →
      (∀ v, s.answered? = some v → exec (.amo g ty op d b m) s
        = .next (s.tookReply.writeX d (extended ty false (v.toNat % 2 ^ ty.bits)) 2))
      ∧ (∀ w, l = some w → exec (.red g ty op b m) s
          = .next ((s.addOut s.myCtx (.vault w.tile w.bank true) 1).2.send s.cur.tile w.tile 0 s.myCtx (vaultStream s.myCtx a)
              (.amo w op ty (s.readX b) 0 true s.nextId)))
      ∧ (∀ w, l = some w → s.answered? = none → exec (.amo g ty op d b m) s
          = .next (((((s.addOut s.myCtx (.vault w.tile w.bank true) 1).2.send s.cur.tile w.tile 0 s.myCtx (vaultStream s.myCtx a)
              (.amo w op ty (s.readX b) (s.readX d) false s.nextId)).setGoing ⟨a, some w, none⟩).modMe
              (fun c => { c with wait := .amo, asked := some .amo })).setRes .reissue))
      ∧ (l = none → s.farRoom a = .ok () → exec (.red g ty op b m) s
          = .next ((s.addOut s.myCtx (.far (s.isRemote a)) 1).2.sendFar s.myCtx a (.amo op ty (s.readX b) 0 true none) (some s.nextId)))
      ∧ (l = none → s.answered? = none → s.me.asked = none → s.farRoom a = .ok () → exec (.amo g ty op d b m) s
          = .next ((((s.sendFar s.myCtx a (.amo op ty (s.readX b) (s.readX d) false none) none).setGoing ⟨a, none, none⟩).modMe
              (fun c => { c with wait := .amo, asked := some .amo })).setRes .reissue)))
  ∧ (∀ (s : State) (g : Guard) (d b : BitVec 6) (p : BitVec 3) (m : MemOp) (a : Word) (l : Loc), s.Issues g →
      let word (u : State) : Word := BitVec.ofNat 64 (leNat (u.readLoc l 8))
      (s.vaultEA m 8 [1, 2] 4 false = .ok (a, l) →
        (s.isDirect a = true → s.lrwOut l s.myCtx = .joined true → s.BankFree l.bank →
          exec (.lrw g d p m) s = .next ((((s.grantBank s.cur.tile l.bank).joinResv l s.myCtx).writeP p true).writeX d (word s) 8))
        ∧ (s.isDirect a = true → s.lrwOut l s.myCtx = .joined false →
          exec (.lrw g d p m) s = .next ((s.joinResv l s.myCtx).await (.lrw l d p)))
        ∧ (s.isDirect a = true → s.lrwOut l s.myCtx = .full →
          exec (.lrw g d p m) s = .next (if p = 0 then s.raise 0x0F a else s.writeP p false))
        ∧ (s.isDirect a = true → s.holds l s.myCtx = true →
          exec (.relq g m) s = .next ((s.endRescue l s.myCtx).leaveResv l s.myCtx))
        ∧ (s.isDirect a = false → exec (.lrw g d p m) s
            = .next ((s.send s.cur.tile l.tile 0 s.myCtx (vaultStream s.myCtx a) (.lrw l)).await (.lrw l d p)))
        ∧ (s.isDirect a = false → s.holds l s.myCtx = true → exec (.relq g m) s
            = .next (((s.addOut s.myCtx (.vault l.tile l.bank false) 1).2.send s.cur.tile l.tile 0 s.myCtx (vaultStream s.myCtx a)
                (.relq l s.nextId)).endRescue l s.myCtx))
        ∧ (s.holds l s.myCtx = false → exec (.relq g m) s = .next (s.raise 0x0C a)))
      ∧ (s.vaultEA m 8 [1, 2] 5 true = .ok (a, l) →
        (s.isDirect a = true → s.holds l s.myCtx = true → s.linesHeld l 8 = false → s.BankFree l.bank →
          exec (.sch g b m) s = .next ((((s.grantBank s.cur.tile l.bank).landImm s.myCtx l 8 0xFF ((s.readX b).setWidth 512)).endRescue
            l s.myCtx).leaveResv l s.myCtx))
        ∧ (s.isDirect a = false → s.holds l s.myCtx = true → exec (.sch g b m) s
            = .next (((s.addOut s.myCtx (.vault l.tile l.bank true) 1).2.send s.cur.tile l.tile 0 s.myCtx (vaultStream s.myCtx a)
                (.sch l (s.readX b) s.nextId)).endRescue l s.myCtx))
        ∧ (s.holds l s.myCtx = false → exec (.sch g b m) s = .next (s.raise 0x0C a)))
      ∧ (∀ r rest, s.resvOf l = some r → r.queue = s.myCtx :: rest → s.myCtx ∉ rest →
        (s.leaveResv l s.myCtx).holderOf l = rest.head?))

/-- R295, R304, R309: PHASE arrives and waits for the close, PHASE.t queues its arrival, FENCE waits for what is outstanding. -/
def Obligations.PhaseAndFence : Prop :=
  ∀ (s : State) (g : Guard) (d : BitVec 6) (imm : BitVec 32) (sc : Scope), s.Issues g →
    (∀ c, s.view.crew = some c → exec (.phase g d) s = .next ((s.arriveCore c s.myCore s.myVcc false).await
      (.phase d ((s.crew c).dyn.phase + if s.atClose c s.cur.tile then 1 else 0))))
    ∧ (s.view.crew = none → exec (.phase g d) s = .next (s.raise 0x0C 0))
    ∧ (∀ v t, s.timedCheck imm = .ok v → s.enqueue { s.newCmd .phase none 0 [] with start := some v } [] = .ok t →
      exec (.phaseT g imm) s = .next t)
    ∧ exec (.fence g sc) s = .next (if s.fenceIds sc = [] then s else s.await (.fence (s.fenceIds sc)))

/-- R86, R183, R316, R319, R323: A taken transfer checks its target, gives it to the group and decides which delay group is
nullified; CALL writes the return point to x31; a transfer not taken nullifies with .nn alone. The checks of a transfer's
target, in order, where its line is held and reads well (R35). -/
def Obligations.Transfers : Prop :=
  (∀ (s : State) (g : Guard) (nul : Nul) (a : BitVec 6) (imm : BitVec 32), s.me.used = true →
      let here := s.view.s.pc + (if s.cur.memb then 12 else 0)
      let taken (link : Bool) (t : Word) : State :=
        let u := if link then s.writeX 31 s.returnPoint 1 else s
        { u with cur := { u.cur with target := some t, nullify := decide (nul = .nt) } }
      let notTaken : State := { s with cur := { s.cur with target := none, nullify := decide (nul = .nn) } }
      let goes (i : Instr) (link : Bool) (t : Word) : Prop :=
        (s.guard g = true → s.targetCheck t = .ok () → exec i s = .next (taken link t))
        ∧ (s.guard g = false → exec i s = .next notTaken)
      goes (.br g nul imm) false (here + imm.signExtend 64)
      ∧ goes (.bra g nul imm) false (s.view.code.base + imm.setWidth 64)
      ∧ goes (.brx g nul a imm) false (s.readX a + imm.signExtend 64)
      ∧ goes (.call g nul imm) true (here + imm.signExtend 64)
      ∧ goes (.callR g nul a imm) true (s.readX a + imm.signExtend 64)
      ∧ goes (.ret g nul a) false (s.readX a)
      ∧ exec (.nop g) s = .next s)
  ∧ (∀ (s : State) (t : Word) (l : FLine), s.held s.myCore t = some l → parityOk l = true →
      let off := t.toNat % 64
      let first := t.toNat - off
      let e := s.view.code
      s.targetCheck t =
        if off % 12 ≠ 0 ∨ 60 ≤ off then .error (.trap 0x04 t)
        else if t.toNat / 2 ^ 52 ≠ 0x200 ∨ e.attr.extractLsb' 0 3 = 0 ∨ first < e.base.toNat ∨ e.base.toNat + e.limit.toNat < first + 63 then .error (.trap 0x06 t)
        else if e.attr.getLsbD 6 = false then .error (.trap 0x07 t)
        else if l.getLsbD (480 + off / 12) = false then .error (.trap 0x04 t)
        else .ok ())

/-- R324, R388, R389, R408: BRK and TRAP take their traps: the context freezes with its resume state and a record goes to the
core that handles it; nothing else of the context changes. -/
def Obligations.SoftwareTraps : Prop :=
  ∀ (s : State) (g : Guard) (x : BitVec 16), s.Issues g →
    exec (.brk g x) s = .next (s.raise 0x13 (x.setWidth 64)) ∧ exec (.trap g x) s = .next (s.raise 0x12 (x.setWidth 64))
    ∧ ∀ (cause : BitVec 8) (e : Word), s.retLogged s.myCtx = false →
      let t := s.raise cause e
      let k := s.myCtx
      let target := s.trapTarget k
      t.me = { s.me with frz := true, wait := .none, reply := none, reply2 := none, goes := none, goes2 := none, asked := none
                         eaddr := if e = 0 ∧ cause ∈ [0x01, 0x02, 0x03, 0x05, 0x11] then s.me.eaddr else e }
      ∧ (∀ j, j ≠ k → t.ctx j = s.ctx j)
      ∧ (∃ r p, t.net = s.net ++ [p] ∧ p.body = .trap target r ∧ p.src = tileOfCtx k
          ∧ r.ctx = k ∧ r.eaddr = e ∧ r.claimed = false ∧ r.asyn = s.cur.asyn
          ∧ r.ecause.extractLsb' 0 8 = cause ∧ r.ecause.extractLsb' 8 5 = (if cause = 0x11 then s.cur.flags else 0)
          ∧ r.ecause.extractLsb' 13 2 = s.me.lvl ∧ r.ecause.getLsbD 15 = s.cur.memb
          ∧ (r.ecause.extractLsb' 40 4).toNat = s.cur.slot % 16 ∧ (r.ecause.extractLsb' 44 2).toNat = coreOfCtx k % 4
          ∧ (r.ecause.extractLsb' 48 16).toNat = tileOfCtx k % 2 ^ 16)
      ∧ t.mem = s.mem ∧ t.cores = s.cores ∧ t.tiles = s.tiles ∧ t.sites = s.sites ∧ t.crews = s.crews ∧ t.parts = s.parts
      ∧ t.gws = s.gws ∧ t.homes = s.homes ∧ t.vsets = s.vsets ∧ t.fields = s.fields ∧ t.hosts = s.hosts ∧ t.sys = s.sys
      ∧ t.rebind = s.rebind

/-- R119, R120, R128-R131, R135-R138, R139-R142: TDEF checks a descriptor and latches it into the core's table; TGET reads a
word of an entry; TSEQ changes the sequence number and barrier of a valid entry. A command that passes the checks of its issue
latches its operands and enters its queue. -/
def Obligations.TensorsAndCommands : Prop :=
  (∀ (s : State) (g : Guard) (d a : BitVec 6) (w : BitVec 3) (imm : BitVec 32) (m : MemOp), s.Issues g →
      exec (.tget g d a w) s = .next (s.writeX d ((s.ent s.myCore a).word w.toNat) 8)
      ∧ (∀ (ad : Word) (l : Loc) (bs : List Byte) (u : State) (sg : Seg), s.vaultEA m 64 [1, 2] 4 false = .ok (ad, l) →
          s.LoadReady ad l 64 bs u → let e := TsEnt.ofBytes bs
          descOk e = true → u.coverCheck e.base (tensorSpan e).1 (tensorSpan e).2 = .ok sg →
          (e.scl ≠ 0 → ∃ sg2, u.coverCheck e.sbase e.sbase.toNat
            (e.sbase.toNat + (e.dim 1 + 1) * (e.dim 2 + 1) * (e.dim 3 + 1) * e.rowScales - 1 : Nat) = .ok sg2) →
          ∃ f : TsEnt, exec (.tdef g d m) s = .next (u.setEntry u.myCore d f) ∧ { f with w1 := e.w1 } = e
            ∧ f.w1.getLsbD 48 = true ∧ f.w1.getLsbD 49 = sg.attr.getLsbD 5 ∧ f.w1.extractLsb' 0 48 = e.w1.extractLsb' 0 48)
      ∧ (let e := s.ent s.myCore d
        let latches (i : Instr) (seq : BitVec 16) (bar : Word) : Prop := ∃ f : TsEnt,
          exec i s = .next (s.setEntry s.myCore d f) ∧ f.w4.extractLsb' 32 16 = seq ∧ f.bar = bar
            ∧ f.w4.extractLsb' 0 32 = e.w4.extractLsb' 0 32 ∧ f.w4.extractLsb' 48 16 = e.w4.extractLsb' 48 16
            ∧ { f with w4 := e.w4, bar := e.bar } = e
        let v := s.readX a + imm.signExtend 64
        (e.w1.getLsbD 48 = true →
          latches (.tseq g d a imm) (v.setWidth 16) e.bar
          ∧ latches (.tseqAdd g d a imm) (e.w4.extractLsb' 32 16 + v.setWidth 16) e.bar
          ∧ ((s.readX a = 0 ∨ spaceOf (s.readX a) ≤ 1 ∧ (s.readX a).toNat % 16 = 0) → latches (.tseqBar g d a imm) (imm.setWidth 16) (s.readX a)))
        ∧ (e.w1.getLsbD 48 = false → exec (.tseq g d a imm) s = .next (s.raise 0x0C 0)
          ∧ exec (.tseqAdd g d a imm) s = .next (s.raise 0x0C 0) ∧ exec (.tseqBar g d a imm) s = .next (s.raise 0x0C 0))))
  ∧ (∀ (s t : State) (g : Guard) (edge out tm : Bool) (d a b c : BitVec 6) (x : BitVec 16) (imm : BitVec 32) (ed ea : TsEnt)
      (bar : Loc) (ver verW start : Option Nat), s.Issues g →
      let list := s.readX b
      let listBytes (p : TsEnt) : Nat := 4 * (p.dim 1 + 1)
      -- an untimed command has found its source's tag; a timed one has its start vc
      (s.named d false = .ok ed → s.named a false = .ok ea → ed.wr = true →
        s.barCheck (s.readX c) (s.destTile ed.base) = .ok bar → s.entrySlot ea false = .ok ver → s.entrySlot ed true = .ok verW →
        s.lateChecks tm imm ea = .ok start →
        (let p := if out then ea else ed
          let t0 := if out then ed else ea
          let spans := panelSpans p ++ windowSpans p t0 list
          let cmd : Cmd := { s.newCmd (.copy p t0 out edge list) (some bar) x (s.refsOf spans bar) with ver, verW, start }
          let mine := if cmd.exact then copyRsv (start.getD 0) (s.exactMoves cmd p t0 out list) else []
          s.attachedAll spans = .ok () → copyShape p t0 edge list = true → s.rsvConflict mine = none → s.Queues cmd mine t →
          exec (.copy g edge out tm d a b c x imm) s = .next t)
        ∧ (∀ sc : Bool,
          let p := if sc then ea else ed
          let t0 := if sc then ed else ea
          let spans := panelSpans p ++ panelSpans t0
          s.attachedAll spans = .ok () → gathShape p t0 = true → s.listCheck list (listBytes p) = .ok () →
          s.attachedAll [(list, listBytes p)] = .ok () →
          s.Queues { s.newCmd (.gath p t0 sc edge list) (some bar) x (s.refsOf ((list, listBytes p) :: spans) bar) with
            ver, verW, start } [] t →
          exec (if sc then .scat g edge tm d a b c x imm else .gath g edge tm d a b c x imm) s = .next t))
      ∧ (s.barCheck (s.readX c) s.cur.tile = .ok bar → (tm = true → ∃ v, s.timedCheck imm = .ok v ∧ start = some v) →
        (tm = false → start = none) →
        s.Queues { s.newCmd (.publ (s.readX a) (s.readX b)) (some bar) x [(bar.tile, bar.bank)] with start } [] t →
        exec (.publ g tm a b c x imm) s = .next t))

/-- R124, R143, R144: BARI starts a barrier; BARW completes with the status word when the phase is the asked one, traps on a
barrier error unless .nf, and sleeps otherwise; BARQ reads the status word. -/
def Obligations.Barriers : Prop :=
  ∀ (s : State) (g : Guard) (d b : BitVec 6) (m : MemOp) (a : Word) (l : Loc), s.Issues g →
    (s.vaultEA m 16 [1, 2] 5 true = .ok (a, l) → l.tile = s.cur.tile →
      let n := (s.readX b).toNat % 2 ^ 32
      0 < n → n ≤ 2 ^ 31 → s.isDirect a = true → s.linesHeld l 16 = false → s.BankFree l.bank →
      ∃ t, exec (.bari g b m) s = .next t
        ∧ t.barrier l = { s.barrier l with exp := n, pend := n, err := 0, fadr := 0 }
        ∧ ∀ k, (k < s.locKey l ∨ s.locKey l + 16 ≤ k) → memRead t.mem k = memRead s.mem k)
    ∧ (s.vaultEA m 16 [1, 2] 4 false = .ok (a, l) → ∀ bs u, s.ImmReady a l 16 bs u →
      exec (.barq g d m) s = .next (u.writeX d (Barrier.ofBytes bs).status 8)
      ∧ (l.tile = s.cur.tile →
        let w := s.barrier l
        let asked := (s.readX b).getLsbD 0
        (w.ph = asked → exec (.barwNf g d b m) s = .next (u.writeX d w.status 8)
          ∧ (w.err = 0 → exec (.barw g d b m) s = .next (u.writeX d w.status 8))
          ∧ (w.err ≠ 0 → exec (.barw g d b m) s
              = .next ((s.noteTrap true none).raise (if w.err = 9 ∨ w.err = 10 then 0x17 else 0x14) a)))
        ∧ (w.ph ≠ asked →
          let sleeps := (s.modMe (fun c => { c with wait := if w.prk then .parkedBarw l else .barw l })).setRes .asleep
          exec (.barw g d b m) s = .next sleeps ∧ exec (.barwNf g d b m) s = .next sleeps)))

/-- R239-R249, R251-R256: The matrix instructions latch their entries and queue an operation of the engine. LNPUSH pushes a
word to each named side that holds a credit; LNPUSH.t queues the push; LNCFG reads the configuration with the fill of both
FIFOs, LNCFG.set changes it two rc later. -/
def Obligations.MatrixAndLinks : Prop :=
  (∀ (s : State) (g : Guard) (ty : Ty) (z sat : Bool) (rm : Rm) (d : BitVec 4) (a b c : BitVec 6) (x : BitVec 16) (imm : BitVec 32)
      (ea eb : TsEnt), s.Issues g →
      let f64 := ty == .f64
      exec (.mzero g ty d) s = .next (s.queueOp { s.newMOp (.zero f64) d.toNat [] with span := 4 } .mzero)
      ∧ (s.engineEntry a false = .ok ea → tileEntryOk ea ty = true → ea.scl = 0 → s.tagCheck ea = .ok () →
        exec (.mldc g ty d a) s = .next (s.queueOp (s.newMOp (.ldc f64 ea) d.toNat [(s.entryLines ea, 0)]) .mldc))
      ∧ (s.engineEntry c true = .ok ea → tileEntryOk ea ty = true →
        exec (.mstc g ty rm sat c d) s = .next (s.queueOp { s.newMOp (.stc ty rm sat ea) d.toNat [] with
          span := 4 + ((s.entryLines ea).length + 1) / 2, refs := stageRefs [(s.entryLines ea, 0)] } .mstc))
      ∧ (s.productEntries a b = .ok (ea, eb) →
        (∀ oa ob grp, productOf f64 ea eb (s.readX c) = some (oa, ob, grp) →
          let stages := s.stagesOf s.myPlace oa ob grp
          (∀ st ∈ stages, st.1.length ≤ 512) → s.tagCheck ea = .ok () → s.tagCheck eb = .ok () →
          exec (.mma g ty z sat d a b c) s
            = .next (s.queueOp (s.newMOp (.mma z sat f64 ea eb (s.readX c).toNat) d.toNat stages) .mma))
        ∧ (∀ oa ob grp bar start u,
          let row0 := if ea.unf then s.readX (c + 1) else 0
          s.barCheck (s.readX c) s.cur.tile = .ok bar → (ea.unf = true → c ≠ 31 ∧ c ≠ 63) →
          productOf f64 ea eb row0 = some (oa, ob, grp) →
          let stages := s.stagesOf s.myPlace oa ob grp
          let o : MOp := { s.newMOp (.mma z sat f64 ea eb row0.toNat) d.toNat stages with
            start := some start, bar := some bar, tag := x, id := s.nextId }
          let mine := (scheduleGo stages (2 * start) start start).1.map (fun l => (l.1.bank, l.2))
          (∀ st ∈ stages, st.1.length ≤ 512 ∧ ∀ l ∈ st.1, l.tile = s.cur.tile) → s.timedCheck imm = .ok start →
          (∀ q ∈ s.here.mtq ++ s.here.mrun.toList, ∀ v, q.start = some v → v + q.span ≤ start ∨ start + o.span ≤ v) → s.rsvConflict mine = none →
          s.Queues { s.newCmd (.mmat s.nextId) (some bar) x (o.refs ++ [(bar.tile, bar.bank)]) with start := some start } mine u →
          exec (.mmat g ty z sat d a b c x imm) s = .next (u.modCore s.myCore (fun k => { k with mtq := k.mtq ++ [o] })))))
  ∧ (∀ (s s1 t : State) (g : Guard) (dir : Dir) (d a : BitVec 6) (imm : BitVec 32) (v : Vec) (start : Nat), s.Issues g →
      let sides : List Bool := match dir with | .e => [true] | .w => [false] | .ew => [true, false]
      (s.readV a = .ok (v, s1) →
        (∀ e ∈ sides, (s.linkCore s.myCore e).isSome = true ∧ (s1.linkCore s.myCore e).isSome = true ∧ s1.hasCredit s.myCore e = true) →
        exec (.lnpush g dir a) s = .next (sides.foldl (fun (u : State) e => u.pushWord s.myCore e v) s1))
      ∧ ((∀ e ∈ sides, (s.linkCore s.myCore e).isSome = true) → (62 ≤ a.toNat → (s.linkCore s.myCore (a == 62)).isSome = true) →
        s.timedCheck imm = .ok start →
        s.Queues { s.newCmd (.lnpush dir (if a.toNat < 62 then none else some (a == 62)) (if a.toNat < 62 then s.oldV a else 0)) none 0 []
          with start := some start } [] t →
        exec (.lnpushT g dir a imm) s = .next t)
      ∧ ∃ w : Word, w.extractLsb' 0 6 = s.here.lncfg ∧ (w.extractLsb' 16 4).toNat = s.here.lw.length % 16
        ∧ (w.extractLsb' 20 4).toNat = s.here.le.length % 16 ∧ w.extractLsb' 24 40 = 0
        ∧ exec (.lncfg g d) s = .next (s.writeX d w 2)
        ∧ exec (.lncfgSet g d a) s = .next ((s.writeX d w 2).modCore s.myCore (fun c =>
            { c with lnPend := c.lnPend ++ [(s.rc + 2, (s.readX a).setWidth 6)] })))

/-- R261, R267, R269, R273, R274, R281, R283, R284, R285, R290: SEND and SEND.sig on an open channel with room take the
channel's next number, count as outstanding and queue the message. SENDS names a static route and MCAST a rectangle of the
crew; both queue their command. RTWR starts the flood of a rebind entry, or writes a detour entry or a static route and reports
to its barrier. -/
def Obligations.MessagesAndRoutes : Prop :=
  (∀ (s t : State) (g : Guard) (sig tm : Bool) (a b c : BitVec 6) (len : BitVec 13) (imm : BitVec 32) (src : List Loc) (bar : Bar)
      (start : Option Nat), s.Issues g →
      let n := (s.readX a).toNat
      let ch := s.chan s.myCore n
      let bytes := if sig then 0 else len.toNat
      let hdr : MsgHdr :=
        { cls := if sig then 2 else 0, retx := false, ibx := ch.ibx, len := bytes, seq := ch.next, stile := s.cur.tile,
          score := s.cur.core, schan := n, swaf := s.sys.wnum.toNat, dtile := ch.tile, dwaf := ch.waf.toNat,
          part := s.myPart.getD 0, val := if sig then s.readX b else 0, stask := (s.myCrew.map Crew.task).getD 0 }
      let s1 := (s.addOut s.myCtx (.msg ch.tile ch.remote) 1).2
      (sig = true → src = []) → (sig = false → s.sourceRange (s.readX b) len.toNat = .ok src) → s.barReg c = .ok bar → n < 64 →
      ch.st = 1 → ch.outn ≠ 8 → s.retxUsed s.cur.tile + copySize bytes ≤ 65536 → s.startOf tm imm = .ok start →
      s1.Queues { s1.newCmd (.send false hdr src s.nextId) bar 0 (rangeRefs src) with start } [] t →
      exec (if sig then .sendSig g tm a b c imm else .send g tm a b c len imm) s
        = .next (t.setChan s.myCore n (fun k => { k with next := k.next + 1, outn := k.outn + 1 })))
  ∧ (∀ (s t : State) (g : Guard) (tm : Bool) (d a b c : BitVec 6) (len : BitVec 13) (x : BitVec 16) (imm : BitVec 32) (src : List Loc)
      (start : Option Nat), s.Issues g →
      let A := s.readX a
      let B := s.readX b
      let C := s.readX c
      let D := s.readX d
      s.startOf tm imm = .ok start →
      (let n := D.toNat % 2 ^ 13
        let r := s.route s.cur.tile (D.extractLsb' 16 8).toNat
        s.sourceRange A n = .ok src → D.extractLsb' 24 40 = 0 → D.extractLsb' 13 3 = 0 → 64 ≤ n → n ≤ 4096 → n % 64 = 0 →
        A.toNat % 64 = 0 → r.getLsbD 63 = true →
        s.tileNamed ((r.extractLsb' 32 16).setWidth 64) = true → B.toNat < 48 * 2 ^ 17 → B.toNat % 64 = 0 →
        (c ≠ 0 → C.toNat < 48 * 2 ^ 17 ∧ C.toNat % 16 = 0) →
        s.Queues { s.newCmd (.sends src (r.extractLsb' 32 16).toNat (r.extractLsb' 16 16).toNat B.toNat (if c = 0 then none else some C.toNat))
          none x
          (rangeRefs src) with start } [] t →
        exec (.sends g tm d a b c x imm) s = .next t)
      ∧ (let n := len.toNat
        let col0 := (C.extractLsb' 0 16).toNat
        let row0 := (C.extractLsb' 16 16).toNat
        let cols := (C.extractLsb' 32 8).toNat + 1
        let rows := (C.extractLsb' 40 8).toNat + 1
        ∀ w, s.view.crew = some w → s.sourceRange A n = .ok src → 8 ≤ n → n ≤ 4096 → n % 8 = 0 → A.toNat % 8 = 0 → B.toNat % 8 = 0 →
        B.toNat + n ≤ 48 * 2 ^ 17 → C.extractLsb' 48 16 = 0 → (d ≠ 0 → D.toNat < 48 * 2 ^ 17 ∧ D.toNat % 16 = 0) →
        col0 + cols ≤ (s.crew w).blk.cols → row0 + rows ≤ (s.crew w).blk.rows →
        let tiles := (List.range rows).flatMap (fun r => (List.range cols).map (fun k =>
          (s.crew w).t0 + (row0 + r) * (s.crew w).blk.cols + col0 + k))
        let s1 := (s.addOut s.myCtx .mcast tiles.length).2
        s1.Queues { s1.newCmd (.mcast src tiles B.toNat (if d = 0 then none else some D.toNat) s.nextId) none 0 (rangeRefs src)
          with start } [] t →
        exec (.mcast g tm d a b c len imm) s = .next t))
  ∧ (∀ (s : State) (g : Guard) (a b c : BitVec 6) (bar : Bar), s.IssuesAt g 2 → s.barReg c = .ok bar →
      let A := s.readX a
      let B := s.readX b
      let done (u : State) : State := match bar with | some l => u.arriveAt l 1 0 0 0 | none => u
      (A.toNat < 0x8000 → (B = 0xFFFF ∨ B.toNat < 2 ^ 16 ∧ isSite B.toNat = true) →
        ∃ t, exec (.rtwrRb g a b c) s = .next t ∧ t.bound A.toNat = B.toNat ∧ (∀ k, k ≠ A.toNat → t.bound k = s.bound k)
          ∧ t.floods = s.floods ++ [⟨A.toNat, Tbl.get 0xFFFF s.rebind A.toNat, [], bar⟩]
          ∧ t = { s with rebind := t.rebind, floods := t.floods })
      ∧ (A.extractLsb' 20 44 = 0 → isSite (A.toNat % 2 ^ 16) = true → B.extractLsb' 34 29 = 0 →
        exec (.rtwrDt g a b c) s = .next (done (s.modSite (A.toNat % 2 ^ 16) (fun t =>
          { t with detour := Tbl.set 0 t.detour (A.extractLsb' 16 4).toNat B }))))
      ∧ (A.extractLsb' 24 40 = 0 → A.toNat % 2 ^ 16 < 0x8000 → B.extractLsb' 48 14 = 0 →
        s.tileNamed ((A.extractLsb' 0 16).setWidth 64) = true →
        (B.getLsbD 63 = true → s.tileNamed ((B.extractLsb' 32 16).setWidth 64) = true) →
        exec (.rtwrSr g a b c) s = .next (done (s.modTile (A.toNat % 2 ^ 16) (fun t =>
          { t with routes := Tbl.set 0 t.routes (A.extractLsb' 16 8).toNat B })))))

/-- R155, R261, R270, R271, R273, R286, R287-R289: IBPOP takes the oldest entry, .nw answers 0 when there is none and the plain
form sleeps; IBPOP.free gives a taken entry back and HEAD passes the entries that are free. CHAN opens channels, sets inboxes
and reads both; HOP waits until the thread has drained and leaves. -/
def Obligations.InboxesChannelsHop : Prop :=
  (∀ (s : State) (g : Guard) (d a : BitVec 6) (ibx : BitVec 4), s.Issues g →
      let t := s.cur.tile
      let x := s.inbox t ibx.toNat
      let ring := (x.extractLsb' 48 8).toNat + 1
      let c := s.ibxCounts t x
      let entry (e : Nat) : Word := globalAddr ⟨t, (x.extractLsb' 17 6).toNat,
        (x.extractLsb' 0 17).toNat + 64 + e * 2 ^ (x.extractLsb' 44 4).toNat⟩
      x.getLsbD 63 = true →
      (c.take = c.tail → exec (.ibpopNw g d ibx) s = .next (s.writeX d 0 8)
        ∧ exec (.ibpop g d ibx) s = .next ((s.modMe (fun c => { c with wait := .ibpop ibx.toNat })).setRes .asleep))
      ∧ (s.linesHeld (ibxCtl t x) 16 = false → s.BankFree (ibxCtl t x).bank →
        (c.take ≠ c.tail →
          let u := ((s.grantBank t (ibxCtl t x).bank).setIbxWord t x 4 ((c.take + 1) % 2 ^ 32)).writeX d (entry (c.take % ring)) 8
          exec (.ibpop g d ibx) s = .next u ∧ exec (.ibpopNw g d ibx) s = .next u)
        ∧ (let freed := (s.myTile.freed.filter (fun f => f.1 == ibx.toNat)).map Prod.snd
          let taken := (List.range ((c.take + 2 ^ 32 - c.head) % 2 ^ 32)).map (fun k => (c.head + k) % 2 ^ 32 % ring)
          ∀ e, taken.find? (fun e => entry e == s.readX a && !freed.contains e) = some e →
            let h := freeHead ring ring c.head c.take (e :: freed)
            let u := (s.grantBank t (ibxCtl t x).bank).modTile t (fun k =>
                { k with freed := k.freed.filter (fun f => f.1 != ibx.toNat) ++ h.2.map (fun e => (ibx.toNat, e)) })
            exec (.ibpopFree g a ibx) s = .next (if h.1 = c.head then u else u.setIbxWord t x 8 h.1))))
  ∧ (∀ (s : State) (g : Guard) (np : Bool) (d a : BitVec 6) (core : BitVec 3) (ch : BitVec 6) (ibx : BitVec 4), s.Issues g →
      let x := s.readX a
      let k := s.chan s.myCore ch.toNat
      (∃ w : Word, exec (.chanQch g d ch) s = .next (s.writeX d w 8) ∧ w.extractLsb' 0 32 = k.next ∧ w.extractLsb' 32 4 = k.ibx
        ∧ w.extractLsb' 48 8 = k.waf ∧ (w.extractLsb' 56 4).toNat = k.outn % 16 ∧ w.extractLsb' 62 2 = k.st)
      ∧ exec (.chanQib g d ibx) s = .next (s.writeX d (s.inbox s.cur.tile ibx.toNat) 8)
      ∧ (x.extractLsb' 56 8 = 0 → x.extractLsb' 20 27 = 0 →
        let remote := x.getLsbD 47 && decide (x.extractLsb' 48 8 ≠ s.sys.wnum)
        (if remote = true then isReservedTile (x.extractLsb' 0 16).toNat = false else s.tileNamed ((x.extractLsb' 0 16).setWidth 64) = true) →
        exec (.chanOpen g d a ch) s = .next (if k.st = 1 then s.writeX d 1 8
          else (s.setChan s.myCore ch.toNat (fun _ =>
            { st := 1, outn := 0, waf := if remote then x.extractLsb' 48 8 else s.sys.wnum, remote,
              tile := (x.extractLsb' 0 16).toNat, ibx := x.extractLsb' 16 4, next := 0 })).writeX d 0 8))
      ∧ (ibxOk x = true →
        let t := s.cur.tile
        let old := s.inbox t ibx.toNat
        let c := s.ibxCounts t old
        let u := s.modTile t (fun k => { k with inbox := Tbl.set 0 k.inbox ibx.toNat x, freed := k.freed.filter (fun f => f.1 != ibx.toNat) })
        (old.getLsbD 63 = true ∧ c.tail ≠ c.head → exec (.chanIbx g d a ibx) s = .next (s.writeX d 1 8))
        ∧ (¬(old.getLsbD 63 = true ∧ c.tail ≠ c.head) → (x.getLsbD 63 = true → s.linesHeld (ibxCtl t x) 16 = false) →
          exec (.chanIbx g d a ibx) s
            = .next ((if x.getLsbD 63 then u.writeLoc (ibxCtl t x) (List.replicate 16 0) else u).writeX d 0 8)))
      ∧ (s.tileNamed x = true → (∃ w, s.view.crew = some w ∧ s.inCrew w x.toNat = true) →
        (∀ e ∈ s.tiles, ∀ r ∈ e.2.resv, s.myCtx ∉ r.queue) →
        exec (.hop g np a core) s = .next (s.await (.hop x.toNat core.toNat np false)))
      -- the context leaves when nothing of it is outstanding: its watches are released and it is on its way as a message of class 1
      ∧ ∀ k to_ n, (s.ctx k).wait = .hop to_ n np false → s.drainIds k = [] →
        s.settleCtx k = s.hopLeave k to_ n np
        ∧ ((s.hopLeave k to_ n np).ctx k).wait = .hop to_ n np true
        ∧ ∃ p h c, (s.hopLeave k to_ n np).net = s.net ++ [p] ∧ p.body = .hop h c np h.hcrc ∧ p.ctx = k ∧ h.cls = 1 ∧ h.dtile = to_
            ∧ h.stile = tileOfCtx k ∧ h.len = 688 + 24 * (List.range 8).countP (fun i => (Tbl.get {} (s.ctx k).sg i).has 8)
            ∧ c.s = (s.ctx k).after)

/-- R333, R335, R339, R359, R360, R361, R362: SPAWN on slot 0 creates a child in an empty slot with a free context number, and
says 1 or 2 when there is none. REAP takes the exit value of an empty slot, waits for an occupied one, .nb says no; .kill
retires a context at a group boundary and marks any other. SLEEP takes a set ready bit or a passed deadline at once and sleeps
otherwise; WAKE sets ready bits; YIELD gives its slot to a waiting context of its class or above. -/
def Obligations.ContextsOfACore : Prop :=
  (∀ (s : State) (g : Guard) (d a b : BitVec 6) (imm : BitVec 32), s.Issues g → s.cur.slot = 0 →
      let n := (s.readX a).toNat
      let t := s.slotAddr + imm.signExtend 64
      1 ≤ n → n ≤ 15 → s.targetCheck t = .ok () →
      exec (.spawn g d a b imm) s = .next (
        if s.slotEmpty s.myCore n = false then s.writeX d 1 2
        else match s.freeNum s.myCore with
          | none => s.writeX d 2 2
          | some k => (s.addCtx s.myCore k (some n) (s.childCtx s.myCore s.view t [s.readX b])).writeX d 0 2))
  ∧ (∀ (s : State) (g : Guard) (d a : BitVec 6) (p : BitVec 3), s.Issues g → s.cur.slot = 0 →
      let n := (s.readX a).toNat
      1 ≤ n → n ≤ 15 →
      (s.inSlot s.myCore n = none →
        let u := if s.here.exitp.getLsbD n then s.takeExit s.myCtx s.myCore n d p else s.writeP p false
        exec (.reap g d a p) s = .next u ∧ exec (.reapNb g d a p) s = .next u ∧ exec (.reapKill g d a p) s = .next u)
      ∧ ∀ k, s.inSlot s.myCore n = some k →
        exec (.reap g d a p) s = .next (s.await (.reap n d p)) ∧ exec (.reapNb g d a p) s = .next (s.writeP p false)
        ∧ exec (.reapKill g d a p) s = .next (if atBoundary (s.ctx k) = true
            then (s.retire k 0xFFFFFFFFFFFFFFFF).takeExit s.myCtx s.myCore n d p
            else (s.modCtx k (fun c => { c with killed := true })).await (.reap n d p)))
  ∧ (∀ (s : State) (g : Guard) (d a : BitVec 6), s.Issues g →
      let x := s.readX a
      exec (.sleep g d a) s = .next (
        if s.me.rdy then (s.modMe (fun c => { c with rdy := false })).writeX d 1 2
        else if x ≠ 0 ∧ x.toNat ≤ s.myVcc then s.writeX d 0 2 else s.await (.sleep d x))
      ∧ (x.toNat < 16 → exec (.wake g a) s
          = .next (match s.inSlot s.myCore x.toNat with | some k => s.wakeBit k | none => s))
      ∧ exec (.wakeAll g) s
          = .next (((List.range 16).filterMap (s.inSlot s.myCore)).foldl (fun (u : State) k => u.wakeBit k) s)
      ∧ (let aged (u : State) : State := u.modMe (fun c => { c with since := c.since - 4096 })
        (s.view.crew = none ∨ s.replaying s.cur.tile = false →
          exec (.yield g) s = .next (match s.nextWaiting s.myCore (fun _ => true) with
            | some w => if s.classOf s.myCtx ≤ s.classOf w then aged (s.decideSwap s.myCore s.cur.slot (some w) .yield) else s
            | none => s))
        -- a replay yields where its log says so
        ∧ (s.view.crew ≠ none → s.replaying s.cur.tile = true →
          exec (.yield g) s = .next (match s.swapRecord s.myCore (fun j how => j == s.cur.slot && how == .yield) with
            | some (vc, _, inn, _) =>
              if vc = s.myVcc ∧ inn.all s.mayEnter = true then aged (s.takeSwap s.myCore s.cur.slot inn .yield) else s
            | none => s)))
      -- a ready bit that is set and waits for nobody
      ∧ ∀ k, (s.ctx k).used = true → (s.ctx k).wait = .none → s.wakeBit k = s.modCtx k (fun c => { c with rdy := true }))

/-- R353, R354, R358, R363-R365: The knot instructions send their update to the cell; the asking forms wait for its answer.
What an update does to a knot cell, and when the cell fires. -/
def Obligations.Knots : Prop :=
  (∀ (s : State) (g : Guard) (d a b : BitVec 6) (c : BitVec 3) (imm : BitVec 32) (m : MemOp) (p : Place), s.Issues g →
      let asks (op : KnotOp) (w : Wait) (u : State) : State := ((u.sendKnot s.myCtx p op).waitKnot s.myCtx w).setRes .waiting
      let t := s.slotAddr + imm.signExtend 64
      (s.knotEA m = .ok p →
        exec (.knotSet g b m) s = .next (s.sendKnot s.myCtx p (.set ((s.readX b).setWidth 32)))
        ∧ exec (.knotAdd g b m) s = .next (s.sendKnot s.myCtx p (.add ((s.readX b).setWidth 32)))
        ∧ ((s.readX b).toNat % 256 = 0 → (spaceOf (s.readX b) = 1 ∨ spaceOf (s.readX b) = 2) →
          exec (.knotHold g b m) s = .next (s.sendKnot s.myCtx p (.hold (s.readX b))))
        ∧ (s.me.asked = none → exec (.knotRd g d m) s = .next (asks .rd (.knotRd d) s)
          ∧ exec (.knotWait g d m) s
            = .next (asks (.wait s.cur.num s.myCore) (.knotAsk d) (s.modMe (fun c => { c with rdy := false })))))
      ∧ (s.knotEA ⟨c, a, 0⟩ = .ok p → s.targetCheck t = .ok () → s.me.asked = none →
        (s.cur.slot = 0 → s.view.crew ≠ none →
          exec (.rfork g d a b c imm) s = .next (asks .probe (.rfork d (s.readX b) p t (s.readX a) 0) s))
        ∧ exec (.join g a c imm) s = .next (if s.drainIds s.myCtx = [] then asks .join (.join p t true) s
            else s.await (.join p t false))))
  ∧ (∀ (k : Knot) (v : BitVec 32) (status : BitVec 8) (r : Nat) (b : Word),
      (k.apply .rd).cell = k ∧ (k.apply .rd).answer = k.low
      ∧ (let o := k.apply (.set v)
        o.cell.count = v ∧ o.cell.stat = 0 ∧ o.cell.ndone = 0 ∧ o.cell.nfault = 0
        ∧ (v.toInt ≤ 0 → o.cell.hold = 0 ∧ o.cell.nw = 0 ∧ o.post = (if k.hold = 0 then [] else [(k.hold, true)])
            ∧ o.wake = (if 0 < k.nw then [waitCtx k.w0] else []) ++ (if 1 < k.nw then [waitCtx k.w1] else []))
        ∧ (0 < v.toInt → o.cell.hold = k.hold ∧ o.cell.nw = k.nw ∧ o.post = [] ∧ o.wake = []))
      ∧ (let o := k.apply (.add v)
        o.cell.count = k.count + v
        ∧ (0 < k.count.toInt ∧ (k.count + v).toInt ≤ 0 → o.cell.hold = 0 ∧ o.post = (if k.hold = 0 then [] else [(k.hold, true)]))
        ∧ (¬(0 < k.count.toInt ∧ (k.count + v).toInt ≤ 0) → o.cell = { k with count := k.count + v } ∧ o.post = [] ∧ o.wake = []))
      ∧ (let o := k.apply (.done status)
        o.cell.count = k.count - 1 ∧ o.cell.ndone = k.ndone + 1
        ∧ o.cell.nfault = (if status = 0 then k.nfault else k.nfault + 1)
        ∧ o.cell.stat.toNat = max k.stat.toNat status.toNat)
      ∧ (0 < k.count.toInt → (k.apply (.hold b)).cell = { k with hold := b } ∧ (k.apply (.hold b)).link = some (b, k.hold)
          ∧ (k.apply (.hold b)).post = [])
      ∧ (k.count.toInt ≤ 0 → (b, false) ∈ (k.apply (.hold b)).post)
      ∧ (k.apply (.fork r)).cell.count = BitVec.ofNat 32 (r + 1)
      ∧ (k.count.toInt ≤ 0 → (k.apply .join).cell = k ∧ (k.apply .join).answer / 2 ^ 64 = 2)
      ∧ (0 < k.count.toInt → (k.apply .join).cell.count = k.count - 1
          ∧ (k.apply .join).answer / 2 ^ 64 = if k.count = 1 then 1 else 0))

/-- R345, R347, R366, R367: LAUNCH reads a block of 256 bytes, checks it and posts a task, or waits while no entry is free;
TASKEND retires its context once the thread has drained. -/
def Obligations.LaunchAndTaskEnd : Prop :=
  ∀ (s u : State) (g : Guard) (d a : BitVec 6) (m : MemOp) (ad : Word) (l : Loc) (bs : List Byte), s.Issues g →
    exec (.taskend g a) s = .next (if s.drainIds s.myCtx = [] then (s.retire s.myCtx (s.readX a)).setRes .waiting
      else s.await (.taskend (s.readX a)))
    ∧ ((s.view.crew ≠ none ∨ s.level ≠ 2) → s.vaultEA m 256 [1, 2] 4 false = .ok (ad, l) → s.LoadReady ad l 256 bs u →
      let b := blockOf (u.overlay l (u.readLoc l 256))
      let part := u.partOf u.myCtx
      blockPlaced b = true →
      -- in a replay at its logged vc and with its logged result
      (∀ vc v, u.launchRecord u.myCtx = some (vc, v) →
        let w := ((u.countLaunch u.myCtx v).writeX d v 2).logEv u.cur.tile (.launch u.myCtx v) 16
        exec (.launchNb g d m) s = .next w
        ∧ exec (.launch g d m) s = .next (if u.myVcc < vc then u.await (.launch d (u.overlay l (u.readLoc l 256))) else w))
      ∧ (u.launchRecord u.myCtx = none → u.queueFull part = false →
        let w := (u.postLaunch u.myCtx b).2.writeX d (u.postLaunch u.myCtx b).1 2
        exec (.launch g d m) s = .next w ∧ exec (.launchNb g d m) s = .next w)
      ∧ (u.launchRecord u.myCtx = none → u.queueFull part = true →
        exec (.launch g d m) s = .next (u.await (.launch d (u.overlay l (u.readLoc l 256))))
        ∧ exec (.launchNb g d m) s = .next ((u.writeX d (2 ^ 63) 2).logEv u.cur.tile (.launch u.myCtx (2 ^ 63)) 16)))

/-- R373, R381-R384, R385: The version instructions ask the home of the crew's set and wait for its answer; VADOPT announces an
adoption vc at least 128 ahead to every tile of the crew. SAMPLE draws a token by the thread's key and counter, stores its
record as an ordinary store and is busy until the draw is over. -/
def Obligations.VersionsAndSample : Prop :=
  (∀ (s : State) (g : Guard) (d a : BitVec 6) (imm : BitVec 32) (c set : Nat), s.Issues g → s.view.crew = some c →
      (s.crew c).boundSet = some set →
      let asks (op : VerOp) : State := ((s.sendTo s.cur.tile (gwSite (fieldOfHome (set % 24))) 0 s.myCtx (State.streamOf 0 s.myCtx)
        (.version set c op))).await (.version d)
      let n : BitVec 16 := (s.readX a).setWidth 16
      let marks (pnd : BitVec 2) : State := (asks (.mark pnd n s.myVcc)).modMe (fun c => { c with asked := some (.version d) })
      ((s.readX a).toNat < 2 ^ 16 →
        exec (.vpub g d a) s = .next (marks 1) ∧ exec (.vdiscard g d a) s = .next (marks 2) ∧ exec (.vretire g d a) s = .next (marks 3)
        ∧ (s.loggedAnswer s.myCtx = none → exec (.vqry g d a) s = .next (asks (.query (some n)))))
      ∧ (s.loggedAnswer s.myCtx = none → exec (.vstage g d) s = .next (asks .stage) ∧ exec (.vqrySet g d) s = .next (asks (.query none)))
      ∧ (let v := s.startVc imm
        s.myVcc + 128 ≤ v → ((s.crew c).dyn.adopt = none ∨ (s.crew c).dyn.adopt = some v) →
        exec (.vadopt g imm) s
          = .next ((s.modDyn c (fun d => { d with adopt := some v })).modTiles c (fun t => { t with adoptAt := some v })))
      ∧ (s.myVcc + 128 > s.startVc imm → exec (.vadopt g imm) s = .next (s.raise 0x0B 0)))
  ∧ (∀ (s t : State) (g : Guard) (d b e : BitVec 6) (m : MemOp) (a : Word) (l : Loc), s.Issues g →
      let te := s.ent s.myCore e
      let n := te.dim 0 + 1
      sampleEntry s te = .ok () → s.tagCheck te = .ok () → s.vaultEA m 8 [1, 2] 5 true = .ok (a, l) →
      let bytes := (List.range (4 * n)).map (fun i => match s.resolve (te.addr (0, 0, 0) i) false with
        | .ok p => (s.readLoc p 1).headD 0
        | .error _ => 0)
      (∀ i, i < 4 * n → ∃ p, s.resolve (te.addr (0, 0, 0) i) false = .ok p) →
      let weights := (List.range n).map (fun i => leNat ((bytes.drop (4 * i)).take 4))
      let tok := sampleToken weights (kmix (s.readX b) s.view.rkey)
      let pvr : BitVec 16 := if s.view.crew = none then 0 else s.myTile.pvr
      s.StoreTaken a l 8 0xFF ((((s.readX b).setWidth 16 ++ pvr ++ tok.setWidth 32 : BitVec 64)).setWidth 512) t →
      exec (.sample g d b e m) s = .next (t.await (.sample d tok (t.rc + 8 + (n + 15) / 16))))

/-- R395, R407, R408: TWIN claims the oldest unclaimed record of its core; RESUME, ERET and ERET.kill end the claim and let the
trapped context issue its group again, go on after it, or retire. -/
def Obligations.TrapHandling : Prop :=
  ∀ (s : State) (g : Guard) (d a : BitVec 6), s.IssuesAt g 1 →
    (s.me.rcv = false → ∀ r, s.here.trapq.find? (fun r => !r.claimed) = some r →
      ∃ t, exec (.twin g d) s = .next t ∧ exec (.twinNw g d) s = .next t
        ∧ t = (((s.modCore s.myCore (fun c => { c with
            trapq := c.trapq.map (fun q => if q.entry == r.entry then { q with claimed := true } else q) })).modMe
            (fun c => { c with rcv := true, ridx := r.entry })).writeX d (slotWindow (coreOfCtx r.ctx) (r.ecause.extractLsb' 40 4).toNat) 2))
    ∧ (s.me.rcv = false → s.here.trapq.find? (fun r => !r.claimed) = none →
      exec (.twinNw g d) s = .next (s.writeX d 0 2)
      ∧ exec (.twin g d) s = .next ((s.modMe (fun c => { c with wait := .twin })).setRes .asleep))
    ∧ ∀ r, s.claimed s.myCtx = some r → (∀ i, i < 8 → (Tbl.get {} (s.ctx r.ctx).sg i).wf = true) →
      let f := (s.ctx r.ctx).s
      let u := s.endClaim
      exec (.resume g) s = .next ((u.returnTo r.ctx f).logEv (tileOfCtx r.ctx) (.ret r.ctx 0 0) 0)
      ∧ exec (.eretKill g a) s = .next ((u.logEv (tileOfCtx r.ctx) (.ret r.ctx 2 (s.readX a)) 8).retire r.ctx (s.readX a))
      ∧ (∀ l, codeCheck (s.ctx r.ctx).code f.nnpc f.nnpc = .ok () →
        (s.held (coreOfCtx r.ctx) f.nnpc).or (s.held s.myCore f.nnpc) = some l →
        let after := nextAddr f.nnpc (if pairBit l (slotIndex f.nnpc) then 2 else 1)
        exec (.eret g) s = .next ((u.returnTo r.ctx ⟨f.npc, f.nnpc, after, 0#1 ++ f.nul.extractLsb' 1 1⟩).logEv (tileOfCtx r.ctx)
          (.ret r.ctx 1 after) 8))
      -- what ending a claim and returning change
      ∧ u.me.rcv = false ∧ (∀ q ∈ u.here.trapq, ¬(q.claimed = true ∧ q.entry = s.me.ridx)) ∧ u.mem = s.mem
      ∧ (∀ k h, ((s.returnTo k h).ctx k).s = h ∧ ((s.returnTo k h).ctx k).frz = false
          ∧ (∀ j, j ≠ k → (s.returnTo k h).ctx j = s.ctx j) ∧ s.returnTo k h = { s with ctxs := (s.returnTo k h).ctxs })

/-- R400, R407, R409, R410: the steward's instructions: SWPO and SWPI move contexts, STOP holds crews and lets them go, RDREC
reads a stop record. -/
def Obligations.StewardInstructions : Prop :=
  ∀ (s : State) (g : Guard) (q : Bool) (d a b : BitVec 6) (w : BitVec 2), s.IssuesAt g 1 →
    let n := (s.readX b).toNat
    (∀ core slot, s.swapArg (s.readX a) false = .ok (core, slot) →
      (∀ v u, s.swapOut s.myCtx core slot none = some (v, u) → exec (.swpo g d a) s = .next (u.writeX d v 2))
      ∧ (s.swapOut s.myCtx core slot none = none → exec (.swpo g d a) s = .next (s.await (.swap d core slot none)))
      ∧ (∀ v u, s.swapOut s.myCtx core slot (some n) = some (v, u) → exec (.swpoFar g d a b) s = .next (u.writeX d v 2))
      ∧ exec (.swpi g d a b) s = .next ((s.swapIn core slot n false).2.writeX d (s.swapIn core slot n false).1 2))
    ∧ (∀ core slot, s.swapArg (s.readX a) true = .ok (core, slot) →
      exec (.swpiQ g d a b) s = .next ((s.swapIn core slot n true).2.writeX d (s.swapIn core slot n true).1 2))
    ∧ (∀ core slot, s.swapArg (s.readX a) q = .ok (core, slot) →
      exec (.swpiFar g q d a b) s = .next ((s.swapInFar core slot n q).2.writeX d (s.swapInFar core slot n q).1 2))
    ∧ (let x := s.readX a
      let part := (x.extractLsb' 32 4).toNat
      let task := (x.extractLsb' 0 32).toNat
      let all := s.runningCrews part (if task = 0 then none else some task)
      let held := all.filter (fun c => (s.crew c).stopHold)
      x.extractLsb' 36 28 = 0 →
      exec (.stopCrew g d a) s = .next (s.stopCrews d part (some task))
      ∧ (task = 0 → exec (.stopPart g d a) s = .next (s.stopCrews d part none))
      ∧ exec (.stopGo g d a) s = .next (if all = [] then s.writeX d 1 2 else if held = [] then s.writeX d 2 2
          else (held.foldl State.stopGo s).writeX d 0 2))
    ∧ (let x := s.readX a
      let ad := if spaceOf x = 0 then x ||| (4#4 ++ 0#60) else x
      spaceOf ad = 4 → s.windowOk s.level s.cur.tile ad = true → winKind ad = 2 → winOff ad = 0 →
      let c := s.core (winCore ad)
      exec (.rdrec g d a w) s = .next (s.writeX d (if w = 0 then c.stop0 else if w = 1 then c.stop1 else c.stop2) 2))

/-- R181-R183, R202, R203, R434-R437: The segment instructions: SEGLD takes an entry of the thread's set, SEGLD.rd reads a word
of a segment register, SEGST writes a well-formed descriptor from steward level. BLAY schedules an early cut at least 128 vc
ahead and answers its vc, .w waits until it is committed; BLAY.deep asks for a deep belay; BLQ reads the state of the belay. -/
def Obligations.SegmentsAndBelay : Prop :=
  (∀ (s : State) (g : Guard) (i : BitVec 3) (d a b c : BitVec 6) (w : BitVec 2) (imm : BitVec 32), s.Issues g →
      exec (.segldRd g d i w) s
        = .next (s.writeX d (if w = 0 then (s.readSg i).base else if w = 1 then (s.readSg i).limit else (s.readSg i).attr) 1)
      ∧ (let n := (s.readX a).toInt + imm.toInt
        0 ≤ n → n < 64 → s.BankFree 55 →
        let bs := s.readLoc ⟨s.cur.tile, 55, 0x18000 + s.view.segs.toNat * 0x800 + n.toNat * 32⟩ 32
        let e := segOfBytes bs
        e.wf = true → leNat (bs.drop 24) = 0 →
        exec (.segld g i a imm) s = .next ((s.grantBank s.cur.tile 55).writeSg i e (BitVec.ofInt 8 n)))
      ∧ (let n := (s.readX a).toInt + imm.toInt
        n < 0 ∨ 64 ≤ n → exec (.segld g i a imm) s = .next (s.raise 0x06 (BitVec.ofInt 64 n)))
      ∧ (1 ≤ s.level →
        let e : Seg := ⟨s.readX a, s.readX b, s.readX c⟩
        exec (.segst g i a b c) s = .next (if e.wf = true then s.writeSg i e 0xFF else s.raise 0x0C 0)))
  ∧ (∀ (s : State) (g : Guard) (d : BitVec 6) (which : BitVec 3), s.Issues g →
      (∀ c, s.view.crew = some c → (s.crew c).redo = [] →
        let r := s.blaySchedule c
        exec (.blay g d) s = .next (r.2.writeX d (BitVec.ofNat 64 r.1) 2)
        ∧ exec (.blayW g d) s = .next (r.2.await (.blayW d (BitVec.ofNat 64 r.1)))
        ∧ s.myVcc + 128 ≤ r.1 ∧ (s.crew c).cuts ⊆ (r.2.crew c).cuts ∧ r.1 ∈ (r.2.crew c).cuts)
      ∧ (1 ≤ s.level → exec (.blayDeep g d) s = .next (
          if s.sys.dbctl.getLsbD 0 = false then s.writeX d 1 2 else if s.sys.deepReq.isSome then s.writeX d 2 2
          else (s.deepStart s.myCtx).await (.blayDeep d)))
      ∧ ((s.view.crew ≠ none ∨ which = 2 ∨ which = 3) → s.loggedAnswer s.myCtx = none →
        let v := blqValue s s.view.crew which.toNat
        exec (.blq g d which) s = .next ((s.writeX d v 2).logEv s.cur.tile (.answer s.myCtx v) 16)))

/-- R6, R35, R178, R179, R317, R336-R344, R362, R392, R393, R416, R481: the events of a core and the clocks: the site counter,
once the rc is over, with the landings of shared registers, the scheduler's decision, swaps, instruction lines, trap records,
sleep deadlines, and the VCC, at most once in an rc. -/
def Obligations.CoreEvents : Prop :=
  ∀ (s : State),
    (∀ site, isSite site = true → site ≠ controlSite anchorField 0 → (s.field (fieldOf site)).droop ≤ s.sys.rtime.toNat →
      s.rcOver site = true →
      ∃ t, exec (.siteCounterTick site) s = .next t ∧ (t.site site).ctr = ((s.site site).ctr + 1) % 2 ^ 48
        ∧ (∀ n, n ≠ site → t.site n = s.site n) ∧ t.mem = s.mem ∧ t.sys = s.sys
        ∧ ∀ i, s.tileAt site = some i → i < 2 ^ 16 → (t.tile i).capture = (s.tile i).capture - 1
          ∧ ((∀ c, c < 4 → (s.core (coreKey i c)).swaps = []) → (t.tile i).bankUse = [])
          ∧ ∀ c, c < 4 → (t.core (coreKey i c)).k = (landShared (s.core (coreKey i c)) (t.site site).ctr).k
            ∧ (t.core (coreKey i c)).w = (landShared (s.core (coreKey i c)) (t.site site).ctr).w)
    -- a landing that is due stays, the later due rc and then the higher rank
    ∧ (∀ (c : Core) (l : Landing) (rc : Nat), c.pend = [l] → l.isVec = false →
        Tbl.get 0 (landShared c rc).k l.reg = if l.due ≤ rc then l.val.setWidth 64 else Tbl.get 0 c.k l.reg)
    ∧ (∀ (c : Core) (a b : Landing) (rc : Nat), (c.pend = [a, b] ∨ c.pend = [b, a]) → a.isVec = false → b.isVec = false →
        a.reg = b.reg → b.due ≤ rc → (a.due < b.due ∨ a.due = b.due ∧ a.rank < b.rank) →
        Tbl.get 0 (landShared c rc).k b.reg = b.val.setWidth 64)
    ∧ (∀ k d x, (s.ctx k).wait = .sleep d x → (s.ctx k).used = true → x ≠ 0 → x.toNat ≤ s.vccOf k →
        exec (.sleepDeadline k) s = .next (s.completeX k d 0 2))
    ∧ (∀ core, let u := s.modCore core (fun c => { c with decideAt := some (s.rcOf (tileOfCore core)) })
        if (s.core core).decideAt = some (s.rcOf (tileOfCore core)) then exec (.schedulerDecision core) s = .next s
        else exec (.schedulerDecision core) s = .next (((u.deliver core).or ((u.reload core).or ((u.parkOut core).or
            ((u.loggedSwap core).or ((u.rescue core).or (u.rowDecision core)))))).getD u))
    -- the first two rows of R337
    ∧ (∀ core w, s.nextWaiting core s.ownMove = some w →
        (∀ j, s.emptySlot core = some j → s.rowDecision core = some (s.decideSwap core j (some w) .rows))
        ∧ (s.emptySlot core = none → ∀ k j,
            s.victimOf ((s.movable core).filter (fun k => decide (s.classOf k < s.classOf w))) = some k → s.slotOf k = some j →
            s.rowDecision core = some (s.decideSwap core j (some w) .rows)))
    -- a swap whose last line has been moved
    ∧ (∀ core w, (s.core core).swaps.find? (s.swapOver core) = some w →
        let l := if s.crewed w.out || s.crewed w.inn then s.logEv (tileOfCore core) (.swap core w.slot none .done) 0 else s
        let u := l.modCore core (fun c => { c with swaps := c.swaps.erase w })
        let v := match w.out with | some o => u.saveFrame o | none => u
        exec (.swapComplete core) s = .next (match w.inn with | some i => (v.loadFrame i).putSlot core w.slot i | none => v))
    ∧ (∀ core slot k, coreOfCtx k = core → k < spillBase → (s.putSlot core slot k).inSlot core slot = some k)
    ∧ (∀ core a k, (s.ctxsOf core).find? (fun j =>
          (match (s.ctx j).wait with | .fetch x => lineOf x == lineOf a | _ => false) && !(s.ctx j).parked) = some k →
        let got := s.readFar (s.gwOf (tileOfCore core)) (s.partOf k) (s.ctx k).crew (lineOf a) 64 .fetch
        (∀ bs u, got = (.ok bs, u) → ∃ t, exec (.lineFetch core a) s = .next t
          ∧ Tbl.find (t.core core).ic ((lineOf a).toNat / 64) = some (BitVec.ofNat 512 (leNat bs)) ∧ t.mem = u.mem
          ∧ ∀ j ∈ u.ctxsOf core, ∀ x, (u.ctx j).wait = .fetch x → lineOf x = lineOf a →
              (t.ctx j).wait = .none ∧ (t.ctx j).parked = false)
        ∧ (∀ e u x, got = (.error e, u) → e ≠ 0x01 → (u.ctx k).wait = .fetch x → lineOf x = lineOf a →
            exec (.lineFetch core a) s = .next (u.failWait k 0x14 x)))
    ∧ (∀ n p u core r e, s.Arrives n p u → p.body = .trap core r →
        (List.range 32).find? (fun e => (u.core core).trapq.all (fun x => x.entry.toNat != e)) = some e →
        ∃ t, exec (.trapRecordArrival n) s = .next t ∧ t.mem = s.mem
          ∧ (t.core core).trapq = (u.core core).trapq ++ [{ r with ctx := p.ctx, entry := BitVec.ofNat 5 e }])
    ∧ (∀ tile c, (s.tile tile).crew = some c → s.replaying tile = false →
        let v := (s.tile tile).vcc
        (mustHalt (s.crew c) v = true → exec (.vccTick tile) s
          = .next (s.modTile tile (fun i => { i with halted := i.halted || (s.crew c).st == .running })))
        ∧ (mustHalt (s.crew c) v = false → (s.slacks tile = true ∨ s.vcWork tile = true ∨ s.turnsOver tile = false
            ∨ (s.tile tile).vccAt = some (s.rcOf tile)) → exec (.vccTick tile) s = .next s)
        ∧ (mustHalt (s.crew c) v = false → s.slacks tile = false → s.vcWork tile = false → s.turnsOver tile = true →
          (s.tile tile).vccAt ≠ some (s.rcOf tile) →
          ∃ t, exec (.vccTick tile) s = .next t ∧ (t.tile tile).vcc = v + 1 ∧ (∀ j, j ≠ tile → t.tile j = s.tile j) ∧ t.mem = s.mem))
    ∧ (∀ c t, (s.crew c).live = true → (s.crew c).st = .running → t ∈ s.crewTiles c → 2 ^ 48 - 1 ≤ (s.tile t).vcc →
        ∃ u, exec (.vccOverflow c) s = .next u ∧ (u.crew c).st = .ending ∧ (u.crew c).dyn.flt.n = (s.crew c).dyn.flt.n + 1
          ∧ ((s.crew c).dyn.flt.n = 0 → (u.crew c).dyn.flt.cause = 0x0B))

/-- R122, R125, R129-R133, R155, R250, R251, R296, R342: the events of the copy engine: a due timed command starts, slacks the
tile of an elastic crew or faults; the oldest untimed command starts at its core's turn; a running command makes one move; an
arrival counts at its barrier. -/
def Obligations.EngineEvents : Prop :=
  ∀ (s : State),
    (∀ core i c w, (s.core core).tq[i]? = some c → (s.tile (tileOfCore core)).crew = some w →
      let t := tileOfCore core
      let v := (s.tile t).vcc
      c.start.getD 0 ≤ v → (s.crew w).st = .running → (s.tile t).halted = false → dueCut (s.crew w) v = false →
      (s.tile t).capture = 0 → mustHalt (s.crew w) v = false → atStop v (s.crew w).replayTo = false →
      atStop v (s.crew w).closing = false → (c.kind = .phase ∨ s.mayClose w v = false) →
      let go := exec (.timedCommandStart core i) s
      let a0 : Word := BitVec.ofNat 64 (c.start.getD 0)
      let ended (u : State) : State := u.modTile t (fun x => { x with stall := if x.stall = some c.id then none else x.stall })
      let gone := s.dropCmd core c
      let isMmat := match c.kind with | .mmat _ => true | _ => false
      (∀ u, s.timedOut core c = .start u →
        let u' := u.modCore core (fun k => { k with tq := k.tq.filter (fun q => q.id != c.id) })
        go = .next (ended (if c.exact || isMmat then u' else u'.dropCmd core c)))
      ∧ (s.timedOut core c = .missing →
        go = .next (if (s.crew w).el then s.modTile t (fun x => { x with stall := some c.id }) else gone.timedFault c 0x0B 0 a0))
      ∧ (∀ a, s.timedOut core c = .schedule a →
        go = .next (ended (gone.timedFault c (if (s.crew w).el then 0x0A else 0x0B) 0 a0)))
      ∧ (∀ code a, s.timedOut core c = .err code a →
        go = .next (ended (gone.timedFault c (if code = 9 ∨ code = 10 then 0x17 else 0x14) code a)))
      ∧ (s.timedOut core c = .format → go = .next (ended (gone.timedFault c 0x0C 0 0)))
      ∧ (s.firstTag t c (timedSources c (s.core core).mtq) = none →
        (match c.kind with | .lnpush .. => true | _ => false) = false →
        (isMmat = false ∨ (s.core core).mrun = none → s.timedOut core c = .start (s.startCmd core c))
        ∧ (isMmat = true → (s.core core).mrun ≠ none → s.timedOut core c = .missing)))
    ∧ (∀ core c rest, (s.core core).uq = c :: rest → s.nextUntimed (tileOfCore core) = some core →
        (s.tile (tileOfCore core)).halted = false → s.replaying (tileOfCore core) = false →
        exec (.untimedCommandStart core) s = .next ((((s.logEv (tileOfCore core) (.engine core false) 16).modCore core
          (fun k => { k with uq := rest })).modTile (tileOfCore core) (fun x => { x with rr := (core + 1) % 4 })).startCmd core c))
    ∧ (∀ core i r, (s.core core).runs[i]? = some r → (s.tile (tileOfCore core)).halted = false →
        let go := exec (.engineLineMove core i) s
        let bound := 2 * (s.tile (tileOfCore core)).vcc + if s.slacks (tileOfCore core) then 0 else 2
        ((r.cmd.exact = false ∨ State.exactLeft r = false) → go = .next (s.runMove core r))
        ∧ (r.cmd.exact = true → State.exactLeft r = true →
          (bound ≤ 2 * r.cmd.start.getD 0 + r.made → go = .next s)
          ∧ (2 * r.cmd.start.getD 0 + r.made < bound → s.dstHeld (r.bufs.flatMap LineBuf.dst) = false →
            (∀ d ∈ s.pendingWrites core r 0, d ∉ r.bufs.flatMap LineBuf.dst) →
            let u := s.exactMove core r
            ∀ q, (u.core core).runs[i]? = some q → go = .next (if State.exactLeft q then u else u.runMove core q))))
    -- what one move of a running command is
    ∧ (∀ core r,
        let go := s.runMove core r
        (∀ err a, r.fail = some (err, a) → r.moves = [] → r.bufs = [] → r.acks = [] →
          go = (s.cmdArrive r.cmd r.left err a).endRun core r.cmd.id)
        ∧ (r.fail = none → (match r.cmd.kind with | .publ .. => true | _ => false) = false →
          (r.moves = [] → r.bufs = [] → r.acks = [] → go = s.endRun core r.cmd.id)
          ∧ (∀ b u, s.landable core r = some b → s.dstHeld b.dst = false → s.useLines (tileOfCore core) (State.vaultBanks b.dst) = some u →
              (s.lineRoom (tileOfCore core) = true → go = (u.takeLine (tileOfCore core)).landBuf core r b)
              ∧ (s.lineRoom (tileOfCore core) = false → go = s))
          ∧ ∀ m rest, r.bufs = [] → r.moves = m :: rest →
            (badOf (m.src ++ m.dst) = none → ∀ u, s.useLines (tileOfCore core) (State.vaultBanks m.src) = some u → go = u.issueMove core r m)
            ∧ ∀ err a, badOf (m.src ++ m.dst) = some (err, a) → go = s.stopRun core r.cmd.id err a)
        ∧ (∀ va len, r.fail = none → r.cmd.kind = .publ va len → go = s.publMove core r va len))
    ∧ (∀ n p u b c tag err a, s.Arrives n p u → p.body = .arrive b c tag err a → u.linesHeld b 16 = false → u.orderTurn p.ctx b = true →
        exec (.barrierArrival n) s = .next ((u.logOrder p.ctx b).arriveAt b c tag err a)
        ∧ ((u.ctx p.ctx).crew = none → u.orderTurn p.ctx b = true ∧ u.logOrder p.ctx b = u))
    -- arrive() of R125
    ∧ (∀ (b : Barrier) (n : Nat) (tag : BitVec 16) (a : BitVec 32),
        (n < b.pend → b.arrive n tag 0 a = ({ b with pend := b.pend - n }, false))
        ∧ (n = b.pend → b.arrive n tag 0 a = ({ b with ph := !b.ph, tag, pend := b.exp }, true))
        ∧ (b.pend < n → b.err = 0 → b.arrive n tag 0 a = ({ b with ph := !b.ph, tag, pend := b.exp, err := 0x10 }, true))
        ∧ ∀ err, err ≠ 0 → n < b.pend →
          b.arrive n tag err a = ({ b with pend := b.pend - n, err := if b.err = 0 then err else b.err,
                                           fadr := if b.err = 0 then a else b.fadr }, false))

/-- R155, R240-R243, R250, R252, R253: the events of the matrix engine and of the links: an untimed operation starts on an idle
engine, a line is fetched in its router cycle, an operation takes effect at its completion vc; a word lands in its FIFO and its
credit returns. -/
def Obligations.MatrixAndLinkEvents : Prop :=
  ∀ (s : State) (core : Nat),
    let v := s.tileVc (tileOfCore core)
    (∀ o rest, (s.core core).mrun = none → (s.core core).mq = o :: rest →
      (∀ q ∈ (s.core core).mtq, ∀ x, q.start = some x → v + o.span ≤ x) → (s.tile (tileOfCore core)).halted = false →
      s.replaying (tileOfCore core) = false →
      exec (.engineOperationStart core) s = .next ((s.logEv (tileOfCore core) (.engine core true) 16).modCore core (fun k => { k with
        mq := rest
        mrun := some { o with g := 2 * v, e1 := v, e2 := v, done := if o.stages = [] then some (v + o.span) else none } })))
    ∧ (∀ o l ls d rest, (s.core core).mrun = some o → o.stages = (l :: ls, d) :: rest →
        let v := v + o.slip
        let fetched (c : Nat) : MOp := { o with
          buf := o.buf ++ [(o.stage, l, vecOfBytes (s.readLoc ⟨l.tile, l.bank, 64 * l.line⟩ 64))], g := c + 1, stages := (ls, d) :: rest }
        let keeps (u : State) (c : Nat) : State := u.modCore core (fun k => { k with
          mrun := some (if ls = [] then State.nextStage (fetched c) else fetched c) })
        (o.start ≠ none → o.g ≤ 2 * v + 1 → exec (.matrixLineFetch core) s = .next (keeps s o.g))
        ∧ (o.start = none → o.g ≤ 2 * v + 1 → ∀ c,
          s.cycleOf (if l.tile = tileOfCore core then 5 else 3) l.tile l.bank (decide (2 * v < o.g)) = some c →
          exec (.matrixLineFetch core) s
            = .next (keeps (s.modTile l.tile (fun i => { i with bankUse := c :: i.bankUse })) (if c < 128 then 2 * v + 1 else 2 * v)))
        ∧ (2 * v + 1 < o.g → exec (.matrixLineFetch core) s = .next s))
    ∧ (∀ o d, (s.core core).mrun = some o → o.done = some d → d ≤ v + o.slip → s.storeHeld o = false →
        (∀ b, o.bar = some b → s.linesHeld b 16 = false) →
        let (u, counts) := s.finishOp core o
        let w := (u.modCore core (fun k => { k with mrun := none })).modTile (tileOfCore core) (fun t => { t with
          rsvd := t.rsvd.filter (fun r => !(r.core == core && r.id == o.id)) })
        let mine := (s.ctx o.ctx).used = true ∧ (s.ctx o.ctx).uid = o.uid
        let arrives (x : State) : State := match o.bar with | some b => x.arriveAt b 1 o.tag 0 0 | none => x
        (mine → let x := w.modCtx o.ctx (fun c => { c with mxc := mxcAdd c.mxc counts })
          exec (.matrixOperationComplete core) s = .next (if o.start = none then x.complete o.ctx
            else arrives x))
        ∧ (¬mine → exec (.matrixOperationComplete core) s = .next (if o.start = none then w
            else arrives w)))
    -- clearing an accumulator changes that tile or pair alone
    ∧ (∀ (acc : Tbl (BitVec 32)) (f64 : Bool) (d e i j : Nat), i < 32 → j < 32 →
        Tbl.get 0 (accZero acc f64 d) (accKey e i j) = if e = d ∨ (f64 = true ∧ e = d + 1) then 0 else Tbl.get 0 acc (accKey e i j))
    ∧ (∀ east sender i f, s.linkCore core east = some sender → sender ≠ core →
        (s.core sender).fly.findIdx? (fun f => f.east == !east) = some i → (s.core sender).fly[i]? = some f →
        f.due ≤ s.rcOf (tileOfCore core) →
        -- between sites that are not adjacent the flit that carries the word has come too
        (f.mesh = true → ∃ p ∈ s.net, p.pos = p.dst ∧ p.stream = State.streamOf 3 sender ∧ p.body = .link f.word f.east) → (∀ k ∈ s.ctxsOf core, s.replaying (tileOfCtx k) = false) →
        ∃ t, exec (.linkWordArrival core east) s = .next t ∧ (t.core sender).fly = (s.core sender).fly.eraseIdx i
          ∧ (t.core core).le = (s.core core).le ++ (if east then [f.word] else [])
          ∧ (t.core core).lw = (s.core core).lw ++ (if east then [] else [f.word])
          ∧ ∀ k ∈ s.ctxsOf core, (s.ctx k).wait = .link east → (t.ctx k).wait = .none)
    ∧ (∀ east, exec (.linkCreditReturn core east) s = .next (s.modCore core (fun c =>
        if east then { c with owedE := c.owedE - 1 } else { c with owedW := c.owedW - 1 })))

/-- R144, R154, R155, R166, R170, R171, R301, R304, R310, R311: requests, replies, immediate-class writes, acknowledgements and
grants at a vault, and the ends of GIVE and RECLAIM. -/
def Obligations.VaultEvents : Prop :=
  ∀ (s u : State) (n : Nat) (p : Pkt),
    (s.Arrives n p u →
      (∀ l len id w, p.body = .read l len id → u.useBank l.tile l.bank = some w →
        exec (.vaultRequestArrival n) s = .next (w.answer p l.tile (.data (vecOfBytes (w.readLoc l len)) (some id))))
      ∧ (∀ l op ty b cmp id w, p.body = .amo l op ty b cmp false id → u.linesHeld l 8 = false → u.orderTurn p.ctx l = true →
        u.useBank l.tile l.bank = some w →
        let r := (w.logOrder p.ctx l).amoAt p.ctx l op ty b cmp
        exec (.vaultRequestArrival n) s = .next (r.2.answer p l.tile (.data (BitVec.ofNat 512 r.1) (some id))))
      ∧ (∀ l id, p.body = .relq l id → u.orderTurn p.ctx l = true →
        exec (.vaultRequestArrival n) s = .next (((u.logOrder p.ctx l).leaveResv l p.ctx).answer p l.tile (.ack id)))
      ∧ (∀ l d pd, p.body = .lrw l → u.orderTurn p.ctx l = true →
        let w := u.logOrder p.ctx l
        (w.ctx p.ctx).wait = .lrw l d pd →
        (w.lrwOut l p.ctx = .joined false → exec (.vaultRequestArrival n) s = .next (w.joinResv l p.ctx))
        ∧ (w.lrwOut l p.ctx = .joined true → exec (.vaultRequestArrival n) s
            = .next ((w.joinResv l p.ctx).send l.tile (tileOfCtx p.ctx) 2 p.ctx 0 (.grant l p.ctx)))
        ∧ (w.lrwOut l p.ctx = .full → exec (.vaultRequestArrival n) s = .next (if pd = 0
            then w.failWait p.ctx cReserve (globalAddr l) else (w.putP p.ctx pd false).complete p.ctx)))
      ∧ (∀ v id, p.body = .data v id →
        let w := match id with | some i => u.ackOut (coreOfCtx p.ctx) i | none => u
        ((w.ctx p.ctx).asked = none → (w.ctx p.ctx).wait = .load →
          exec (.vaultReplyArrival n) s = .next (((w.modCtx p.ctx (fun c => c.answer v)).reissue p.ctx).settle))
        ∧ ((w.ctx p.ctx).asked = some .amo → exec (.vaultReplyArrival n) s
            = .next (w.modCtx p.ctx (fun c => { c.answer v with wait := .none })).settle)
        ∧ (∀ x, (w.ctx p.ctx).asked = some x → x ≠ .amo → s.knotHeld p.ctx v.toNat = false → exec (.vaultReplyArrival n) s = .next (w.knotAnswer p.ctx v.toNat).settle))
      ∧ (∀ l w', u.linesHeld l 32 = false → u.orderTurn p.ctx l = true → u.useBank l.tile l.bank = some w' →
        let w := w'.logOrder p.ctx l
        let lands (v : State) (id : Nat) : Prop := exec (.immediateWriteLanding n) s = .next (v.answer p l.tile (.ack id))
        (∀ en v id, p.body = .write l en v id → lands (w.landImm p.ctx l 64 en v) id)
        ∧ (∀ c id, p.body = .bari l c id → lands (w.initBar l c.toNat) id)
        ∧ (∀ op ty b cmp id, p.body = .amo l op ty b cmp true id → lands (w.amoAt p.ctx l op ty b cmp).2 id)
        ∧ (∀ v id, p.body = .sch l v id → lands ((w.landImm p.ctx l 8 0xFF (v.setWidth 512)).leaveResv l p.ctx) id)
        ∧ (∀ op id, p.body = .knot l op id → exec (.immediateWriteLanding n) s = .next (w.knotAtBank p l op id)))
      ∧ (∀ id, p.body = .ack id → exec (.immediateWriteAcknowledgement n) s = .next (u.ackOut (coreOfCtx p.ctx) id).settle)
      ∧ (∀ l c l2 d pd, p.body = .grant l c → (u.ctx p.ctx).wait = .lrw l2 d pd → u.wakeAhead p.ctx = false →
        u.holderOf l = some p.ctx →
        exec (.reservationGrant n) s = .next ((u.lrwDone l p.ctx d pd).logWake p.ctx 0x0D)))
    -- the first free router cycle of a bank when no line of a close waits for one, and the write-off of an outstanding operation
    ∧ (∀ t b, s.closeLinesAt t b = 0 →
        let took (c : Nat) : Option State := some (s.modTile t (fun i => { i with bankUse := c :: i.bankUse }))
        (s.firstFree t b = true → s.useBank t b = took (b + 128))
        ∧ (s.firstFree t b = false → s.secondFree t b = true → s.useBank t b = took b)
        ∧ (s.firstFree t b = false → s.secondFree t b = false → s.useBank t b = none))
    ∧ (∀ t b, 0 < s.closeLinesAt t b → s.useBank t b = none)
    ∧ (∀ core id, (∀ o ∈ (s.core core).outs, o.id = id → o.left ≤ 1) →
        ((s.ackOut core id).core core).outs = (s.core core).outs.filter (fun o => o.id != id))
    -- GIVE and RECLAIM, once their bank is no longer busy
    ∧ (∀ k d e m desc sent t recvTile, (s.ctx k).wait = .give d e m desc sent →
        let core := coreOfCtx k
        let my := tileOfCore core
        let bank := (m.extractLsb' 0 6).toNat
        let recv := coreKey recvTile (desc.extractLsb' 4 2).toNat
        let slot := (desc.extractLsb' 8 5).toNat
        let done (v : State) (x : Word) : Prop := exec (.giveComplete k) s = .next ((v.completeX k d x 8).logWake k 0x08)
        s.wakeAhead k = false → s.replaying t = false → s.neighbour my (m.extractLsb' 12 3).toNat = some t →
        s.neighbour my (desc.extractLsb' 0 3).toNat = some recvTile →
        (s.bankBusy core t bank = true → exec (.giveComplete k) s = .next s)
        ∧ (s.bankBusy core t bank = false →
          (s.rowHolder t bank ≠ some (core, e) → done s 4)
          ∧ (s.rowHolder t bank = some (core, e) → (∀ q ∈ s.ctxs, ∀ a b c h, q.2.wait ≠ .reclaim a b c h) →
            ((s.mapEnt recv slot).getLsbD 15 = true → done (s.setEnt core e m) 2)
            ∧ ((s.mapEnt recv slot).getLsbD 15 = false →
              let ent := mkEnt ((s.dirTo recvTile t).getD 0) (m.getLsbD 9 && desc.getLsbD 17) (m.getLsbD 8 && desc.getLsbD 16) bank
              done (((s.setEnt recv slot ent).setHolder t bank recv slot).logEv t (.bank t bank recv) 0) 0))))
    ∧ (∀ k d e b holder, (s.ctx k).wait = .reclaim d e b holder → s.wakeAhead k = false → s.replaying (tileOfCtx k) = false →
        let t := tileOfCtx k
        let core := coreOfCtx k
        let home := ((s.leaveEntry t b).freeEntryOf core e).attachHome core e b
        exec (.reclaimComplete k) s = .next (if s.bankBusy holder t b then s
          else ((home.completeX k d 0 8).logEv t (.bank t b core) 0).logWake k 0x09))

/-- R26, R101, R145, R146, R296, R299, R300: the scrub and uncorrectable errors; the close of a phase begins when every tile
stands at its vc, applies the buffered lines and raises the phase number. -/
def Obligations.PhaseAndScrubEvents : Prop :=
  ∀ (s : State) (site bank line crew : Nat),
    (∀ found, s.tileAt site = none → exec (.eccScrub site bank line found) s = .next (s.scrubbed site bank line found))
    ∧ (∀ found tile u, s.tileAt site = some tile → s.useBankAs 6 tile bank = some u →
        exec (.eccScrub site bank line found) s = .next (u.scrubbed site bank line found))
    ∧ s.scrubbed site bank line .clean = s
    ∧ s.scrubbed site bank line .corrected
        = (s.countBank site bank true).errorRecord 0 0 site 0xFF 0x08 bank (BitVec.ofNat 64 line)
    ∧ (∃ t, s.scrubbed site bank line .uncorrectable = t ∧ exec (.arrayEccUncorrectable site bank line) s = .next t
        ∧ t.mem = s.mem ∧ t.ctxs = s.ctxs ∧ t.cores = s.cores
        ∧ (bank < 56 → (site, .arrayEcc) ∈ t.checks ∧ t.crews = s.crews)
        ∧ (56 ≤ bank → t.checks = s.checks ∧ (s.keptCrew site = none → t.crews = s.crews)))
    ∧ (∀ v, (s.crew crew).closing = some v → (s.crew crew).closeOn = false → (∀ t ∈ s.crewTiles crew, (s.tile t).vcc = v) →
        s.captureFirst crew v = false → s.crewReplays crew = false → ∃ t, exec (.phaseClose crew) s = .next t ∧ (t.crew crew).closeOn = true ∧ t.mem = s.mem
          ∧ ∀ h, h < 24 → Tbl.get 0 (t.crew crew).dyn.adopted h = (s.home h).psn)
    ∧ (∀ core i p u, (s.tile (tileOfCore core)).crew = some crew → (s.core core).pbuf[i]? = some p → (s.crew crew).closeOn = true →
        (s.crew crew).redo = [] → s.linesHeld ⟨p.tile, p.bank, p.line * 64⟩ 64 = false → s.useBankAs 2 p.tile p.bank = some u →
        let earlier := (s.crew crew).closeLines.filter (fun q =>
          q.2.tile == p.tile && q.2.bank == p.bank && q.2.line == p.line && q.2.en &&& p.en != 0)
        let v := ((u.writeEn ⟨p.tile, p.bank, p.line * 64⟩ 64 p.en p.data).modCore core (fun c => { c with pbuf := c.pbuf.eraseIdx i })).modCrew
          crew (fun w => { w with closeLines := w.closeLines ++ [(core, p)] })
        exec (.phaseLineApply core i) s = .next (if earlier = [] then v
          else earlier.foldl (fun (x : State) q => x.logEv p.tile (.close q.1 core p.bank p.line) 16)
            (v.traceEntry (v.siteOf p.tile) core p.bank p.line (s.crew crew).dyn.phase)))
    ∧ ((s.crew crew).closeOn = true → (∀ c ∈ s.crewCores crew, (s.core c).pbuf = []) →
        exec (.phaseCloseComplete crew) s = .next (s.endPhase crew)
        ∧ ((s.endPhase crew).crew crew).dyn.phase = (s.crew crew).dyn.phase + 1 ∧ ((s.endPhase crew).crew crew).closeOn = false)

/-- R86-R97, R402: the events of a gateway: a request is translated from the cache, walks the table, leaves for a peer or ends
with its error; an entry that is not present parks it; PARKACT and GWINV are the steward's answers. -/
def Obligations.GatewayEvents : Prop :=
  ∀ (s : State) (field : Nat),
    (∀ n p u r q, s.Arrives n p u → p.body = .far r → r.port = some q → exec (.farRequestTranslate n) s = .next (u.leavePort q r))
    ∧ (∀ n p u r, s.Arrives n p u → p.body = .far r → r.port = none → (∀ w ∈ (u.gw (fieldOf p.dst)).walks, w.req.core ≠ r.core) →
      let f := fieldOf p.dst
      let go := exec (.farRequestTranslate n) s
      (∀ e, u.reqVa r = .error e → go = .next (u.transError f r e))
      ∧ (u.reqVa r = .ok none → ∀ w, u.toPeer f r = some w → go = .next w)
      ∧ ∀ va, u.reqVa r = .ok (some va) →
        (u.cachedLeaf f r.part va = none → go = .next (u.beginWalk f r va))
        ∧ ∀ l, u.cachedLeaf f r.part va = some l →
          (l.permits (reqAcc r.kind) (State.isWeight r) ≠ 0 → go = .next (u.beginWalk f r va))
          ∧ (l.permits (reqAcc r.kind) (State.isWeight r) = 0 → ∀ w, (u.installLeaf f l).forward f r l va = some w → go = .next w))
    ∧ (∀ i w va, (s.gw field).walks[i]? = some w → s.reqVa w.req = .ok (some va) →
        let go := exec (.pageWalkComplete field i) s
        let ended := s.setGw field { s.gw field with walks := (s.gw field).walks.eraseIdx i }
        (s.paOk w.pa = false → go = .next (ended.transError field w.req 0x06))
        ∧ (s.paOk w.pa = true →
          (∀ e, pteOut w.req.part w.level va (s.readPte w.pa) = .err e → go = .next (ended.transError field w.req e))
          ∧ (∀ t, pteOut w.req.part w.level va (s.readPte w.pa) = .table t → go = .next (s.setGw field { s.gw field with
              walks := (s.gw field).walks.set i { w with level := w.level + 1, pa := t + 8 * levelIndex (w.level + 1) va } }))
          ∧ ∀ l, pteOut w.req.part w.level va (s.readPte w.pa) = .leaf l →
            let code := l.permits (reqAcc w.req.kind) (State.isWeight w.req)
            (code ≠ 0 → go = .next ((ended.installLeaf field l).transError field w.req code))
            ∧ (code = 0 → ∀ x, (ended.installLeaf field l).forward field w.req l va = some x → go = .next x)))
    -- what an entry says (R91)
    ∧ (∀ part level va (e : Word), 1 ≤ level → level ≤ 3 →
        (e.extractLsb' 62 2 = 0 → pteOut part level va e = .err 0x01)
        ∧ (e.extractLsb' 62 2 = 1 → level = 3 → pteOut part level va e = .err 0x05)
        ∧ (e.extractLsb' 62 2 = 1 → level < 3 → e.extractLsb' 48 14 = 0 → e.extractLsb' 0 8 = 0 → (e.extractLsb' 40 8).toNat < 0x30 →
          pteOut part level va e = .table (e.extractLsb' 0 48).toNat))
    -- a request that finds no entry parks in the lowest free place
    ∧ (∀ (r : FarReq) e, (List.range 256).find? (fun e => (Tbl.find (s.gw field).park e).isNone) = some e →
        ∃ t, s.parkReq field r = .ok t ∧ e ∈ (t.gw field).posted
          ∧ Tbl.find (t.gw field).park e = some { r with bar := (s.reqRun r).bind (fun q => q.cmd.bar), late := true })
    ∧ (∀ (v : Word), v.getLsbD 63 = false →
        exec (.parkact field v) s = .next (s.setGw field { s.gw field with parkact := v &&& 0x40000000000000FF }))
    ∧ (∀ (v : Word) (r : FarReq) (va : Nat), v.getLsbD 63 = true → Tbl.find (s.gw field).park (v.extractLsb' 0 8).toNat = some r →
        let g := s.gw field
        let e := (v.extractLsb' 0 8).toNat
        let u := s.setGw field { g with parkact := v &&& 0x40000000000000FF, park := Tbl.del g.park e,
                                        posted := g.posted.filter (· != e) }
        (∃ len b off, r.kind = .read len b off) → r.bar = none → u.reqVa r = .ok (some va) →
        exec (.parkact field v) s = .next (if v.getLsbD 62 then u.farAnswer (gwSite field) r 0x08 [] false else u.beginWalk field r va))
    ∧ (∀ k, (s.ctx k).used = true →
        let ended := (s.modCtx k (fun c => { c with wait := .none, parked := false, since := s.vccOf k })).logWake k
          (BitVec.ofNat 6 (s.ctx k).wait.code)
        let freed := ∀ g ∈ s.gws, ∀ e ∈ g.2.park, e.2.ctx ≠ k
        s.wakeAhead k = false → (∀ b, (s.ctx k).wait = .parkedBarw b → exec (.parkingEnd k) s = .next (if (s.barrier b).prk then s else ended))
        ∧ (freed → (s.ctx k).wait = .parkedAmo → exec (.parkingEnd k) s = .next ended)
        ∧ (freed → ∀ a, (s.ctx k).wait = .fetch a → (s.ctx k).parked = true → exec (.parkingEnd k) s = .next ended))
    ∧ (∀ (v : Word), ∃ t, exec (.gwinv field v) s = .next t ∧ (t.gw field).gwinv = v &&& 0xCF0FFFFFFFFFFFFF
        ∧ t = { s with gws := t.gws } ∧ (∀ f, f ≠ field → t.gw f = s.gw f)
        ∧ let lo := (v.extractLsb' 16 36).toNat * 2 ^ 16
          let hi := lo + ((v.extractLsb' 0 16).toNat + 1) * 2 ^ 16
          ∀ l : Leaf, l ∈ (t.gw field).leaves ↔ l ∈ (s.gw field).leaves
            ∧ ¬(v.getLsbD 63 = true ∧ l.ctx = (v.extractLsb' 56 4).toNat ∧ (v.getLsbD 62 = true ∨ l.va < hi ∧ lo < l.va + l.size)))
    ∧ (let g := s.gw field
       g.gwinv.getLsbD 63 = true → s.inFlightOf field (g.gwinv.extractLsb' 56 4).toNat = false →
        ∃ t, exec (.gwinvDone field) s = .next t ∧ (t.gw field).gwinv = g.gwinv &&& 0x7FFFFFFFFFFFFFFF
          ∧ t = { s with gws := t.gws } ∧ ∀ l : Leaf, l ∈ (t.gw field).leaves ↔ l ∈ g.leaves ∧ State.gwHit g.gwinv l = false)

/-- R97-R107, R110: the events of the homes: writes go to the open shadow or a plain page, a publish makes it current, a read
is served from the reader's copy, an atomic is applied once, and replies, notices and decay. -/
def Obligations.HomeEvents : Prop :=
  ∀ (s : State),
    (∀ h, exec (.hotnessDecay h) s = .next (s.setHome h { s.home h with hot := (s.home h).hot.map (fun e =>
        (e.1, { e.2 with count := e.2.count >>> 1, sx := e.2.sx >>> 1, sy := e.2.sy >>> 1, raw := none })) }))
    -- the table of corrected errors never has more than 256 rows of a stack
    ∧ (∀ h pa stack, ((s.home h).rows.filter (fun e => e.1 == stack)).length ≤ 256 →
        (((s.countRow h pa).home h).rows.filter (fun e => e.1 == stack)).length ≤ 256 ∧ (s.countRow h pa).mem = s.mem
          ∧ (∀ j, j ≠ h → (s.countRow h pa).home j = s.home j))
    -- the write that has waited longest goes on once a copy is free
    ∧ (∀ h r leaf off err w rest, (s.home h).waiting = (r, leaf, off) :: rest → State.hostOf r = none →
        s.bufWrite h r leaf off ((writeData r.kind).getD []) = some (err, w) →
        ∃ t, exec (.homeWriteRetry h 0) s = .next t ∧ (t.home h).waiting = (w.home h).waiting.tail ∧ t.mem = w.mem)
    ∧ ∀ (u : State) (n : Nat) (p : Pkt) (r : FarReq) (leaf pa h : Nat), s.Arrives n p u →
    let gw := u.gwOf (tileOfCore r.core)
    (p.body = .home r leaf pa h →
      (∀ data id, r.kind = .write data id →
        (leaf = 0 → s.chanHeld pa = false →
          exec (.homeWrite n) s = .next (((u.writePa pa data).heat h pa data.length gw).homeAnswer p r 0 [] false))
        ∧ (leaf ≠ 0 → u.waitsFor h r.part leaf = false →
          (∀ err w, u.bufWrite h r leaf pa data = some (err, w) → exec (.homeWrite n) s = .next (w.homeAnswer p r err [] false))
          ∧ (u.bufWrite h r leaf pa data = none → exec (.homeWrite n) s = .next (u.holdWrite h r leaf pa))))
      ∧ (∀ id, r.kind = .publ id → u.waitsFor h r.part leaf = false →
        let entry := (leaf - 1) / 2 ^ 16
        let code := (u.bufMap h r.part entry).admits ((leaf - 1) % 2 ^ 16)
        exec (.homePubl n) s = .next (if code = 0 then (u.publishAt h r.part entry).homeAnswer p r 0 [] false
          else u.homeAnswer p r code [] false))
      ∧ (∀ len b off a, r.kind = .read len b off → u.readAtHome h r leaf pa len = .ok a →
        let w := if leaf = 0 then u else u.touchBuf h r.part ((leaf - 1) / 2 ^ 16)
        (u.chanHeld a = false → exec (.homeRead n) s
          = .next (((w.heat h a len (w.gwOf (tileOfCore r.core))).countRow h a).homeAnswer p r 0 (w.readPa a len)
            (leaf == 0 && spaceOf r.va != 3)))
        ∧ (r.crew = none → exec (.farMediaError n) s = .next (u.homeAnswer p r 0x0B [] false))
        ∧ (∀ w, r.crew = some w → a / 64 ∉ (u.home h).media → ∃ t, exec (.farMediaError n) s = .next t
            ∧ w ∈ t.rollbacks ∧ (u.siteOf (tileOfCore r.core), .arrayEcc) ∈ t.checks ∧ a / 64 ∈ (t.home h).media ∧ t.mem = s.mem)
        ∧ (∀ w, r.crew = some w → a / 64 ∈ (u.home h).media → u.replaying (tileOfCore r.core) = true →
            exec (.farMediaError n) s = .next ((u.taskFault w cCopy 0x0B (BitVec.ofNat 64 (64 * (a / 64))) r.core r.from_ r.unit).homeAnswer p r
              0x0B [] false)))
      ∧ (isSeq r.kind = true → s.chanHeld pa = false →
        let seen := Tbl.get [] (u.home h).seen r.core
        let len := match r.kind with | .knot .. => 16 | k => reqLen k
        (∀ e, seen.find? (fun e => e.1 == seqOf r.kind) = some e →
          exec (.farAtomicAtHome n) s = .next (u.homeAnswer p r 0 (leBytes len e.2) true))
        ∧ (seen.find? (fun e => e.1 == seqOf r.kind) = none → seen.length < 64 →
          let (data, w) := u.applyAtomic r pa
          let x := (w.heat h pa (reqLen r.kind) (w.gwOf (tileOfCore r.core))).countRow h pa
          exec (.farAtomicAtHome n) s = .next ((x.setHome h { x.home h with
            seen := Tbl.put (x.home h).seen r.core (seen ++ [(seqOf r.kind, leNat data)]) }).homeAnswer p r 0 data true))))
    ∧ (∀ err data, p.body = .reply r err data false → (∀ op q, r.kind = .knot op q → u.knotHeld r.ctx (leNat data) = false) → exec (.farReplyArrival n) s = .next (u.farDone r err data false).settle)
    ∧ (∀ crew psn a b, p.body = .commitPsn h crew psn → Tbl.find (u.home h).crews crew = some (a, b) →
        exec (.commitNoticeAtHome n) s
          = .next ((u.setHome h { u.home h with crews := Tbl.put (u.home h).crews crew (a, psn) }).freeCopies h))

/-- R260-R267, R284, R285, R290: the events of the mesh: a flit moves by its detour or west-first, nearer with each move;
fences; a link that fails; landings of routes and multicast stores; a flood. -/
def Obligations.MeshEvents : Prop :=
  ∀ (s : State) (n : Nat) (p : Pkt),
    (s.net[n]? = some p → p.inj = true →
      let port := s.outPort p.pos p.dst
      ((s.site p.pos).hole = true → exec (.routerFlitForward n) s = .next s)
      ∧ ((s.site p.pos).hole = false →
        (p.dst ∈ (s.site p.pos).fence → exec (.routerFlitForward n) s = .next (s.fenceFlit p))
        ∧ (p.dst ∉ (s.site p.pos).fence →
          (∀ old, port = 4 → p.back = some old → exec (.routerFlitForward n) s = .next (s.enterAgain p old))
          ∧ ∀ q, port ≠ 4 → nextSite p.pos port = some q → port ∉ (s.site p.pos).down → (s.site q).hole = false →
            (s.mayCross p port = true → exec (.routerFlitForward n) s = .next (s.crossLink p port q))
            ∧ (s.mayCross p port = false → exec (.routerFlitForward n) s = .next s))))
    -- entering the mesh
    ∧ (s.net[n]? = some p → p.inj = false → (s.site p.pos).hole = false →
        (s.mayInject p = true → exec (.routerFlitForward n) s = .next (s.enterMesh p))
        ∧ (s.mayInject p = false → exec (.routerFlitForward n) s = .next s))
    ∧ ((s.enterMesh p).mem = s.mem ∧ ∀ k ∈ (s.enterMesh p).net, k.id = p.id → k.inj = true)
    ∧ (∀ port q, (∀ k ∈ (s.crossLink p port q).net, k.id = p.id → k.pos = q) ∧ (s.crossLink p port q).mem = s.mem)
    -- the port: the first detour entry that holds the destination, else the plain one, which comes nearer
    ∧ (∀ at_ dst, (∀ i, i < 16 → detourHit (Tbl.get 0 (s.site at_).detour i) dst = false) → s.outPort at_ dst = plainPort at_ dst)
    ∧ (∀ at_ dst i, i < 16 → detourHit (Tbl.get 0 (s.site at_).detour i) dst = true →
        (∀ j, j < i → detourHit (Tbl.get 0 (s.site at_).detour j) dst = false) →
        s.outPort at_ dst = ((Tbl.get 0 (s.site at_).detour i).extractLsb' 32 3).toNat)
    ∧ (∀ a b, isSite a = true → isSite b = true → a ≠ b →
        let far (a b : Nat) : Nat := ((siteX a : Int) - siteX b).natAbs + ((siteY a : Int) - siteY b).natAbs
        ∃ q, nextSite a (plainPort a b) = some q ∧ isSite q = true ∧ far q b + 1 = far a b)
    ∧ (∀ site port q, isSite site = true → nextSite site port = some q → port ∉ (s.site site).down →
        ∃ t, exec (.meshLinkDown site port) s = .next t ∧ port ∈ (t.site site).down ∧ (port + 2) % 4 ∈ (t.site q).down
          ∧ (site, .other) ∈ t.checks ∧ t.mem = s.mem ∧ t.net = s.net)
    ∧ (∀ u bytes bar c tag due l w, s.Arrives n p u → p.body = .route bytes bar c tag due → bytes.head?.map Prod.fst = some l →
        due ≤ 2 * u.tileVc l.tile + 1 → (∀ b ∈ bytes, u.linesHeld b.1 1 = false) → (∀ b, bar = some b → u.linesHeld b 16 = false) →
        u.replaying l.tile = false → (∀ b ∈ bytes, b.1.bank = l.bank) → u.useBank l.tile l.bank = some w →
        let x := bytes.foldl (fun (s : State) b => s.writeLoc b.1 [b.2]) w
        let y := match bar with | some b => x.arriveAt b c tag 0 0 | none => x
        exec (.staticRouteFlitLanding n) s = .next (if due < 2 * u.tileVc l.tile
          then y.logEv l.tile (.order l.tile l.bank l.off (BitVec.ofNat 64 due)) 8 else y))
    ∧ (∀ u l b0 tl bar c id, s.Arrives n p u → p.body = .mcast ((l, b0) :: tl) bar c id → u.linesHeld l 1 = false →
        u.orderTurn p.ctx l = true →
        let line := ((l, b0) :: tl).takeWhile (fun x => x.1.off / 64 == l.off / 64)
        let rest := ((l, b0) :: tl).drop line.length
        let lands (w : State) : State := (line.foldl (fun (s : State) x => s.writeLoc x.1 [x.2]) w).watchHit l.tile (fun w =>
          line.any (fun x => x.1.bank == w.bank && x.1.off / 8 == w.off / 8))
        (rest ≠ [] → ∀ w, s.useBank l.tile l.bank = some w → exec (.mcastReplicaLanding n) s
          = .next ((lands (w.logOrder p.ctx l)).modPkt p.id (fun k => { k with body := .mcast rest bar c id })))
        ∧ (rest = [] → (∀ b, bar = some b → u.linesHeld b 16 = false ∧ u.orderTurn p.ctx b = true) →
          ∀ w, u.useBank l.tile l.bank = some w →
          let x := lands ((l :: bar.toList).foldl (fun (s : State) b => s.logOrder p.ctx b) w)
          let y := match bar with | some b => x.arriveAt b c 0 0 0 | none => x
          exec (.mcastReplicaLanding n) s = .next (y.send l.tile p.src 1 p.ctx 0 (.ack id))))
    ∧ (∀ site i f, s.floods[i]? = some f → isSite site = true → site ∉ f.applied →
        let g : Flood := { f with applied := f.applied ++ [site] }
        (s.floodOver g = false → exec (.rebindFlood site i) s = .next { s with floods := s.floods.set i g })
        ∧ (s.floodOver g = true → exec (.rebindFlood site i) s
          = .next (({ s with floods := s.floods.eraseIdx i } : State).rtwrDone f.bar)))

/-- R269-R278, R269, R271, R272, R276, R286: The events of messages: a message is received, dropped, NACKed or landed and
acknowledged, its log record replicated first; the sender frees the copy or sends it again. What landing a message and sending
one again do, and the three reasons to send again. -/
def Obligations.MessageEvents : Prop :=
  (∀ (s : State) (n : Nat) (p : Pkt) (u : State), s.Arrives n p u →
      (∀ h data crc, p.body = .msg h data crc → h.dwaf ≠ u.sys.wnum.toNat → exec (.messageReceive n) s = .next (u.passOn p h)
          ∧ ∀ q, u.chanPort h.dwaf h.stile h.schan = some q → portSite q ≠ p.dst →
            u.passOn p h = { u with net := u.net ++ [{ p with pos := p.dst, dst := portSite q, lane := 0, here := 2 * (u.site p.dst).ctr }] })
      ∧ (∀ h data crc, p.body = .msg h data crc → h.dwaf = u.sys.wnum.toNat → crc ≠ h.hcrc →
        exec (.messageReceive n) s = .next (u.countMsg p.dst))
      ∧ (∀ h data crc, p.body = .msg h data crc → h.dwaf = u.sys.wnum.toNat → crc = h.hcrc →
        let go := exec (.messageReceive n) s
        let x := u.inbox h.dtile h.ibx.toNat
        let ack (s : State) : State := s.replyTo h.dtile h (.msgAck h)
        let site := u.siteOf h.dtile
        (u.tileAt p.dst ≠ some h.dtile → go = .next u)
        ∧ (u.tileAt p.dst = some h.dtile →
          ((u.tile h.dtile).crew = none → go = .next (ack ((u.countMsg site).countPart h.part 32)))
          ∧ ∀ w, (u.tile h.dtile).crew = some w →
            ((u.crew w).part ≠ h.part → go = .next (ack ((u.countMsg site).countPart h.part 32)))
            ∧ ((u.crew w).part = h.part → ibxEn x = false → go = .next (ack (u.countMsg site)))
            ∧ ((u.crew w).part = h.part → ibxEn x = true → ibxSize x < 32 + h.len → go = .next (ack ((u.dropMsg h.dtile x).countMsg site)))
            ∧ ((u.crew w).part = h.part → ibxEn x = true → 32 + h.len ≤ ibxSize x → u.replaying h.dtile = false →
              let old := (u.tile h.dtile).recv.find? (fun e => e.isFor h)
              (old = none → h.seq ≠ 0 → go = .next (ack ((u.dropMsg h.dtile x).countMsg site)))
              ∧ (old = none → h.seq = 0 → 1024 ≤ (u.tile h.dtile).recv.length → go = .next (u.replyTo h.dtile h (.nackFull h)))
              ∧ (∀ e, old = some e →
                (2 ^ 31 ≤ (h.seq - e.exp).toNat → go = .next (ack u))
                ∧ (0 < (h.seq - e.exp).toNat → (h.seq - e.exp).toNat < 2 ^ 31 → go = .next (u.replyTo h.dtile h (.nackOrder h))))
              -- the number that is expected: NACK full, or landing with the record and its replica first
              ∧ ∀ v, ((∃ e, old = some e ∧ h.seq = e.exp) ∧ v = u
                  ∨ old = none ∧ h.seq = 0 ∧ (u.tile h.dtile).recv.length < 1024 ∧ v = u.modTile h.dtile (fun i => { i with recv := i.recv ++
                    [{ waf := h.swaf, tile := h.stile, core := h.score, chan := h.schan, task := h.stask.toNat, part := h.part,
                       ibx := h.ibx.toNat, exp := 0 }] })) →
                let c := v.ibxCounts h.dtile x
                let full := (c.tail + 2 ^ 32 - c.head) % 2 ^ 32 == ibxRing x
                let outside := v.fromOutside w h
                let k := State.msgLogBytes outside h
                (full = true → v.replaying h.dtile = false → go = .next (v.replyTo h.dtile h (.nackFull h)))
                -- it lands line by line in its entry, each in a cycle of the bank, and then its TAIL
                ∧ (full = false → v.replaying h.dtile = false → v.ropeFill h.dtile + 16 + k ≤ 2 ^ 21 → u.msgWaits h.dtile w h = false →
                  let bytes := h.bytes ++ data
                  let e := ibxEntry h.dtile x (c.tail % ibxRing x)
                  let l : Loc := { e with off := e.off + 64 * p.part }
                  (64 * p.part < bytes.length → u.linesHeld l 16 = false → ∀ y, s.useBank h.dtile l.bank = some y →
                    go = .next ((y.writeLoc l (slice bytes (64 * p.part) 64)).modPkt p.id (fun q => { q with part := q.part + 1 })))
                  ∧ (bytes.length ≤ 64 * p.part → u.linesHeld (ibxCtl h.dtile x) 16 = false → ∀ y, u.useBank h.dtile l.bank = some y →
                    let a := ((y.withRecv h.dtile h).landMsg h.dtile x h).expNext h.dtile h
                    let b := a.logEv h.dtile (.message h (if y.fromOutside w h then data else []) (y.fromOutside w h))
                      (State.msgLogBytes (y.fromOutside w h) h)
                    y.replaying h.dtile = false → go = .next (b.send h.dtile (b.partnerOf h.dtile) 0 0 0
                      (.log h.dtile (State.msgLogBytes (y.fromOutside w h) h) (some h))))))))
      ∧ (∀ t k h, p.body = .log t k h → exec (.logReplicaAcknowledgement n) s = .next (u.send (u.partnerOf t) t 1 0 0 (.logAck h)))
      ∧ (∀ h, p.body = .logAck (some h) → exec (.logReplicaAcknowledgement n) s = .next (u.replyTo h.dtile h (.msgAck h)))
      -- the sender
      ∧ (∀ (h : MsgHdr) (r : Retx), (u.tile h.stile).retx.find? (fun r => r.hdr.same h) = some r →
          (p.body = .msgAck h → exec (.ackReceive n) s = .next (u.endSend h.stile r 0).settle)
          ∧ (p.body = .nackFull h → exec (.nackFullReceive n) s = .next (u.modRetx h.stile r.hdr (fun q =>
              { q with st := .delay (u.rcOf h.stile + q.delay / 2) q.delay, delay := min 65536 (2 * q.delay) })))
          ∧ (p.body = .nackOrder h → (u.tile h.stile).retx.filter (fun q => q.hdr.sameChan r.hdr && !u.earlierQueued h.stile q.hdr) = [r] →
              exec (.nackOrderReceive n) s = .next (u.resend h.stile r))
          ∧ (p.body = .nackFenced h → exec (.nackFencedReceive n) s = .next (u.modRetx h.stile r.hdr (fun q => { q with st := .fenced p.ctx })))
          ∧ (p.body = .nackReplay h → exec (.nackReplayReceive n) s
              = .next (u.modRetx h.stile r.hdr (fun q => { q with st := .delay (u.rcOf h.stile + 2048) q.delay })))))
  ∧ (∀ (s : State) (tile i : Nat) (r : Retx), (s.tile tile).retx[i]? = some r → (s.tile tile).halted = false →
      (∀ rc d, r.st = .delay rc d → rc ≤ s.rcOf tile → s.earlierHeld tile r.hdr = false → exec (.resendDelayExpiry tile i) s = .next (s.resend tile r))
      ∧ (∀ site, r.st = .fenced site → s.boundAt (s.siteOf tile) r.hdr.dtile ≠ site → s.earlierHeld tile r.hdr = false →
          exec (.rebindChangeResend tile i) s = .next (s.resend tile r))
      ∧ (r.st = .sent → r.at_ + 65536 ≤ s.rcOf tile → s.earlierHeld tile r.hdr = false →
          exec (.retransmitTimeout tile i) s = .next (s.resend tile r))
      ∧ (∀ h : MsgHdr, h.bytes.length = 32 ∧ word32 h.bytes 4 = h.seq ∧ word64 h.bytes 16 = h.val ∧ word32 h.bytes 24 = h.stask))

/-- R288, R289: a light context arrives in a slot or parked, or is refused; the source frees the slot, or resumes at the HOP
with hop refused. -/
def Obligations.HopEvents : Prop :=
  ∀ (s : State) (n : Nat) (p : Pkt) (u : State), s.Arrives n p u →
    (∀ h c np crc, p.body = .hop h c np crc → crc ≠ h.hcrc → exec (.hopArrival n) s = .next (u.countMsg p.dst))
    ∧ (∀ h c np crc, p.body = .hop h c np crc → crc = h.hcrc →
      let sel := h.ibx.toNat
      let answer (s : State) (ok : Bool) : State := s.sendFrom p.dst p.src p.ctx (.hopAck ok c)
      (u.tileAt p.dst = none → exec (.hopArrival n) s = .next (answer u false))
      ∧ ∀ t w, u.tileAt p.dst = some t → c.crew = some w →
        ((u.tile t).crew ≠ some w → exec (.hopArrival n) s = .next (answer u false))
        ∧ ((u.tile t).crew = some w → u.replaying t = false →
          (u.hopPlace (u.hopCore t sel) np = none → exec (.hopArrival n) s = .next (answer u false))
          ∧ ∀ slot num, u.hopPlace (u.hopCore t sel) np = some (slot, num) →
            exec (.hopArrival n) s = .next (answer ((u.addCtx (u.hopCore t sel) num slot (u.hopCtx (u.hopCore t sel) c)).logEv t
              (.hopIn (ctxKey (u.hopCore t sel) num)) 16) true)))
    ∧ (∀ core c, let d := u.hopCtx core c
        d.used = true ∧ d.p = c.p ∧ d.s = c.s ∧ d.prio = c.prio ∧ d.unit = c.unit ∧ d.crew = c.crew
        ∧ (∀ i, i < 16 → Tbl.get 0 d.x i = Tbl.get 0 c.x i) ∧ (∀ i, 16 ≤ i → Tbl.get 0 d.x i = 0)
        ∧ (∀ i, i < 8 → Tbl.get 0 d.v i = Tbl.get 0 c.v i) ∧ (∀ i, 8 ≤ i → Tbl.get 0 d.v i = 0))
    ∧ (∀ ok c tgt sel np, p.body = .hopAck ok c → (u.ctx p.ctx).wait = .hop tgt sel np true → (u.ctx p.ctx).uid = c.uid →
        (ok = false → ∃ t, exec (.hopReply n) s = .next t ∧ (t.ctx p.ctx).wait = .none
          ∧ (t.ctx p.ctx).pend = some (0x16, 0, false) ∧ (t.ctx p.ctx).s = (u.ctx p.ctx).s ∧ t.mem = s.mem)
        ∧ (ok = true → c.crew = none → exec (.hopReply n) s
          = .next (((match (u.landLate p.ctx).slotOf p.ctx with
              | some j => (u.landLate p.ctx).clearSlot (coreOfCtx p.ctx) j
              | none => u.landLate p.ctx).setCtx p.ctx {}).dealWaiting (coreOfCtx p.ctx))))

/-- R340, R345-R354, R378, R415: the events of a task: dispatch with its refusals, loading, the launch cut, the completion
record and knot, and held blocks. -/
def Obligations.TaskEvents : Prop :=
  ∀ (s : State) (part crew : Nat),
    (∀ e rest, s.quiesced = false → State.queueOrder (s.part part).queue = e :: rest → s.staleTask (s.part part).queue = none →
        (∀ r u, s.considered part e.blk = (.refuse r, u) →
          exec (.taskDispatch part) s = .next (((u.dequeue part e).endUnrun part e r).feedLaunch part))
        ∧ (∀ u, s.considered part e.blk = (.zero, u) →
          exec (.taskDispatch part) s = .next (((u.dequeue part e).endUnrun part e 0).feedLaunch part))
        ∧ ∀ t0 l u, s.considered part e.blk = (.place t0 l, u) →
          exec (.taskDispatch part) s = .next (((u.dequeue part e).placeCrew part e t0 l).feedLaunch part))
    -- the reasons that do not depend on where tasks run (R348)
    ∧ (∀ b : Block, (2 ^ 24 < b.units → s.considered part b = (.refuse 1, s))
        ∧ (b.units ≤ 2 ^ 24 → b.fieldsOk = false → s.considered part b = (.refuse 2, s))
        ∧ (b.fieldsOk = true → b.units = 0 → s.considered part b = (.zero, s))
        ∧ (b.units ≤ 2 ^ 24 → b.fieldsOk = true → b.units ≠ 0 → s.fits part b = [] → s.considered part b = (.refuse 3, s)))
    ∧ ((s.crew crew).st = .loading →
        let v := (s.crewTiles crew).foldl (fun (m : Nat) t => max m (s.tile t).vcc) 0
        ∃ t, exec (.imageLoadComplete crew) s = .next t ∧ (t.crew crew).st = .launchCut
          ∧ (t.crew crew).tstart = (v + 1023) / 1024 * 1024 ∧ t.ctxs = s.ctxs
          ∧ t.mem = ((s.crewTiles crew).foldl (fun (x : State) i => x.loadTile i (s.imageFor (s.crew crew))) s).mem)
    -- banks 0-47 of a loaded tile hold zeros but for the image (R478)
    ∧ (∀ tile bank off, bank < 48 → off < 2 ^ 17 → (s.loadTile tile []).readLoc ⟨tile, bank, off⟩ 1 = [0])
    ∧ ((s.crew crew).st = .launchCut → (s.crew crew).cut = none → s.allAt crew (s.crew crew).tstart = true →
        exec (.launchCut crew) s = .next ((((s.dealAll crew).captureCrew crew (s.crew crew).tstart true).earlyCheck (s.crew crew).t0).earlyCheck
          (s.partnerOf (s.crew crew).t0)))
    ∧ (∀ q, let c := s.dealtCtx crew q
        c.used = true ∧ c.crew = some crew ∧ c.unit = BitVec.ofNat 24 (State.placeUnit (s.crew crew) q) ∧ c.s = startS (s.crew crew).blk.entry)
    ∧ ((s.crew crew).live = true →
        -- steps 4 to 6: record, knot, tiles
        (∀ pa u pk x, (s.crew crew).st = .ended → (s.crew crew).endStep = 2 →
          s.endWrite crew (s.crew crew).blk.record 64 = .done pa u →
          ((u.writePa pa (u.recordBytes crew)).modCrew crew (fun w => { w with endStep := 3 })).endWrite crew (s.crew crew).blk.knot 32 = .done pk x →
          let o := (Knot.ofBytes (x.readPa pk 32)).apply (.done (State.endStatus (s.crew crew)))
          exec (.taskEnd crew) s
            = .next (((x.writePa pk o.cell.bytes).knotEffects (s.crew crew).part (.far (s.crew crew).blk.knot) o).freeCrew crew))
        ∧ ((s.crew crew).st = .running → (s.crew crew).endStep = 1 → s.taskOver crew = true → s.quiet crew = true →
          (s.crew crew).closing = none → (s.crew crew).replayTo = none →
          exec (.taskEnd crew) s = .next (((s.endVersions crew).modCrew crew (fun w => { w with st := .ended, endStep := 2 })).endTask crew))
        ∧ ((s.crew crew).st = .ending → exec (.taskEnd crew) s = .next ((((s.stripCrew crew).endVersions crew).modCrew crew
            (fun w => { w with st := .ended, endStep := 2 })).endTask crew)))
    ∧ (s.recordBytes crew).length = 64
    ∧ (∀ bs rest, (s.part part).held = bs :: rest → (s.part part).queue.length < 1024 →
        exec (.heldBlockPost part) s = .next ((s.setPart part { s.part part with held := rest }).post part (blockOf bs)).2)
    ∧ (∀ a chain p rest, (s.part part).held = [] → (s.part part).heldAddr = (a, chain, p) :: rest →
        (∀ u, s.readAny (s.partField part) part a 256 = (none, u) → exec (.heldBlockPost part) s
          = .next ((u.setPart part { s.part part with heldAddr := rest }).lostBlock part p))
        ∧ ∀ bs u, s.readAny (s.partField part) part a 256 = (some bs, u) →
          let q : Part := { u.part part with
            heldAddr := (if chain && (blockOf bs).next != 0 then [((blockOf bs).next, true, p)] else []) ++ rest }
          exec (.heldBlockPost part) s = .next (if (u.part part).queue.length < 1024 then ((u.setPart part q).post part (blockOf bs)).2
            else u.setPart part { q with held := q.held ++ [bs] }))

/-- R102, R373, R377, R414-R419: the events of a cut: capture, streaming, preparation, decision and apply. -/
def Obligations.CutEvents : Prop :=
  ∀ (s : State) (crew tile : Nat),
    (∀ c, (s.crew crew).live = true → (s.crew crew).st = .running → (s.crew crew).cut = none → s.checked crew = false →
        s.reachedCut crew = some c → exec (.belayCut crew) s = .next (s.captureCrew crew c false))
    -- what capturing a tile leaves
    ∧ (∀ v, let f := s.saveResidents tile
        let u := s.captureTile tile v
        (u.site (s.siteOf tile)).cap = some (f.imageOf tile v) ∧ (u.site (s.siteOf tile)).dirty = []
        ∧ ((s.site (s.siteOf (s.partnerOf tile))).keepv = true → (u.site (s.siteOf tile)).cutset = (f.site (s.siteOf tile)).dirty)
        ∧ ((s.site (s.siteOf (s.partnerOf tile))).keepv = false → (u.site (s.siteOf tile)).cutset = List.range (56 * 2048))
        ∧ (u.tile tile).capture = 192)
    ∧ (let site := s.siteOf tile
        let pu := s.siteOf (s.partnerOf tile)
        ∀ y, s.streamCut tile = some y →
          -- a line that a write waits for goes first, and one line in a router cycle
          (∀ l w, s.nextLine tile = some l → (s.site site).streamAt ≤ 2 * (s.site site).ctr + 1 → s.useBankAs 5 tile (l / 2048) = some w →
            let bs := w.readLoc ⟨tile, l / 2048, l % 2048 * 64⟩ 64
            let w := w.modSite site (fun n => { n with
              cutset := n.cutset.erase l, wanted := n.wanted.erase l, streamAt := max n.streamAt (2 * n.ctr) + 1 })
            exec (.cutStreamLine tile) s = .next ((if (w.site pu).keepv
              then w.modSite pu (fun n => { n with rope := n.rope ++ [(l, vecOfBytes bs)] })
              else { w with mem := memWriteN w.mem (State.keepKey pu l) bs }).earlyCheck (w.partnerOf tile)))
          ∧ (∀ l, s.nextLine tile = some l → l ∈ (s.site site).cutset ∧ ∀ k ∈ (s.site site).wanted, k ∈ (s.site site).cutset →
              l ∈ (s.site site).wanted ∨ s.landingWants tile l = true)
          ∧ ((s.site site).cutset ≠ [] → (s.nextLine tile).isSome = true)
          ∧ (2 * (s.site site).ctr + 1 < (s.site site).streamAt → s.nextLine tile ≠ none → exec (.cutStreamLine tile) s = .next s)
          ∧ ((s.site site).cutset = [] → (s.site site).cutCap = false → pu ≠ site →
            ∃ t, exec (.cutStreamLine tile) s = .next t ∧ t.mem = s.mem ∧ (t.site site).cutCap = true
              ∧ (if (s.site pu).skc then (t.site pu).sk0 = (s.site site).cap ∧ (t.site pu).sk1 = (s.site pu).sk1
                else (t.site pu).sk1 = (s.site site).cap ∧ (t.site pu).sk0 = (s.site pu).sk0)))
    ∧ (∀ x, s.streamCut tile = some (crew, x) → (s.site (s.siteOf tile)).cutset = [] → (s.site (s.siteOf tile)).cutCap = true →
        s.publishMarked crew x.vc = false ∨ s.writesAcked tile (s.site (s.siteOf tile)).cap = true →
        exec (.cutPrepared tile) s = .next (s.modCrew crew (fun w =>
          { w with cut := w.cut.map (fun c => { c with prepared := c.prepared ++ [tile] }) })))
    ∧ (∀ c, (s.crew crew).cut = some c → c.decided = false → s.checked crew = false → (∀ t ∈ s.crewTiles crew, t ∈ c.prepared) →
        let spilled := s.ctxs.any (fun e => decide (spillBase ≤ e.1) && e.2.used && e.2.crew == some crew)
        exec (.commitDecision crew) s = .next (if spilled then s.rollBackInPlace crew (s.siteOf (s.crew crew).t0)
          else (s.modCrew crew (fun w => { w with cut := some { c with decided := true } })).logEv (s.crew crew).t0 .decision 0))
    ∧ (∀ c, (s.tile tile).crew = some crew → (s.crew crew).cut = some c → c.decided = true → tile ∉ c.applied →
        let a := s.applyTile crew tile c.vc
        exec (.cutApply tile) s = .next ((if (a.crewTiles crew).all (fun t => t == tile || c.applied.contains t)
          then a.finishCut crew c else a).earlyCheck (a.partnerOf tile)))
    ∧ (let w := s.crew crew
        let r := nextRegular w (max (w.lastC.getD w.tstart) ((w.cut.map Cut.vc).getD 0))
        w.live = true → w.st = .running → (∃ t ∈ s.crewTiles crew, r ≤ (s.tile t).vcc) →
        exec (.regularCutDue crew) s = .next (s.scheduleCut crew r))

/-- R370-R374, R373, R377-R383, R379: The events of version sets: requests at the home in their order, the candidate and the
answer at the crew, and adoption. A tile that stands at the adoption vc takes the candidate. -/
def Obligations.VersionEvents : Prop :=
  (∀ (s : State) (n : Nat) (p : Pkt) (u : State), s.Arrives n p u →
      (∀ v crew op, p.body = .version v crew op →
        let go := exec (.versionHomeRequest n) s
        let reply (t : State) (x : Word) (ok : Bool) : State := t.homeReply p crew (some p.ctx) op x ok
        (∀ c, op = .candidate c → go = .next ((u.homeReply p crew none op ((u.vset v).newest.setWidth 64) true).updateRefs crew))
        ∧ (∀ vc, op = .commit vc → go = .next (if (u.crew crew).live then u.applyMarks crew v vc else u))
        ∧ ((u.vset v).en = false → (∀ c, op ≠ .candidate c) → (∀ c, op ≠ .commit c) → go = .next (reply u 0 false))
        ∧ ((u.vset v).en = true →
          (op = .stage → go = .next (reply (u.stageAt v crew).2 (u.stageAt v crew).1 true))
          ∧ (∀ pnd num vc, op = .mark pnd num vc → go = .next (reply (u.markAt v crew pnd num vc).2 (u.markAt v crew pnd num vc).1 true))
          ∧ ∀ num, op = .query num → go = .next (reply u (u.queryAt v num) true)))
      -- the home's rules
      ∧ (∀ v crew, let e := u.vset v
          ((∃ i, i < 4 ∧ (Tbl.get {} e.slots i).st = 1 ∧ (Tbl.get {} e.slots i).pnd = 0) → u.stageAt v crew = (vsBusy, u))
          ∧ ((∀ i, i < 4 → (Tbl.get {} e.slots i).st ≠ 0 ∧ ¬((Tbl.get {} e.slots i).st = 1 ∧ (Tbl.get {} e.slots i).pnd = 0)) →
            u.stageAt v crew = (vsFull, u))
          ∧ ((∀ i, i < 4 → ¬((Tbl.get {} e.slots i).st = 1 ∧ (Tbl.get {} e.slots i).pnd = 0)) → ∀ i, i < 4 → (Tbl.get {} e.slots i).st = 0 →
            (∀ j, j < i → (Tbl.get {} e.slots j).st ≠ 0) →
            (u.stageAt v crew).1 = (nextVersion e.last).setWidth 64
            ∧ ((u.stageAt v crew).2.vset v).last = nextVersion e.last
            ∧ (Tbl.get {} ((u.stageAt v crew).2.vset v).slots i).st = 1
            ∧ (Tbl.get {} ((u.stageAt v crew).2.vset v).slots i).vnum = nextVersion e.last))
      ∧ (∀ crew vc v ok, p.body = .answer crew none (.candidate vc) v ok → (u.crew crew).live = true →
          (∃ c, (u.crew crew).cut = some c ∧ c.vc = vc ∧ c.cand = none) →
          exec (.candidateAnswer n) s
            = .next ((u.logEv (u.crew crew).t0 (.candidate vc (v.setWidth 16)) 8).setCandidate crew vc (v.setWidth 16)))
      ∧ (∀ crew c op v ok d, p.body = .answer crew (some c) op v ok →
          let w := u.refreshView crew
          (w.ctx p.ctx).wait = .version d → w.replaying (tileOfCtx p.ctx) = false →
          exec (.versionAnswer n) s = .next (if ok then (w.completeX p.ctx d v 2).logEv (tileOfCtx p.ctx) (.answer p.ctx v) 8
            else w.failWait p.ctx 0x0E 0)))
  ∧ (∀ (s : State) (tile crew a v : Nat) (n : BitVec 16), (s.tile tile).crew = some crew → (s.tile tile).adoptAt = some a →
      a ≤ (s.tile tile).vcc → dueCut (s.crew crew) (s.tile tile).vcc = false → adoptable (s.crew crew) a = some n →
      (s.crew crew).boundSet = some v →
      ∃ t, exec (.adoption tile) s = .next t ∧ (t.tile tile).pvr = n ∧ (t.tile tile).adoptAt = none
        ∧ (t.tile tile).vview.cur = s.slotWith v n ∧ (∀ j, j ≠ tile → t.tile j = s.tile j) ∧ t.mem = s.mem ∧ t.ctxs = s.ctxs)

/-- R106, R425-R429, R457, R459: the events that find and handle a failed site: the watchdog, residue checkers, the machine
check, and the splice with its choice of a spare. -/
def Obligations.SpliceEvents : Prop :=
  ∀ (s : State) (site tile crew : Nat),
    ((s.tile tile).crew = some crew → (s.crew crew).st = .running → s.watchLimit crew ≤ (s.tile tile).wd →
        let k := State.nextCheckVc (s.crew crew) (s.tile tile).vcc
        (s.crew crew).wdSeen ≠ some (tile, k) →
        ∃ t, exec (.watchdogFire tile) s = .next t ∧ (s.siteOf tile, .watchdog) ∈ t.checks ∧ (t.crew crew).wdSeen = some (tile, k)
          ∧ (t.tile tile).wd = 0 ∧ t.mem = s.mem)
    ∧ (∀ core unit sub, isSite site = true →
        ∃ t, exec (.residueMismatch site core unit sub) s = .next t ∧ (site, .pipeline) ∈ t.checks
          ∧ (t.field (fieldOf site)).boxn = (s.field (fieldOf site)).boxn + 1 ∧ t.mem = s.mem ∧ t.ctxs = s.ctxs)
    ∧ (∀ cause, (site, cause) ∈ s.checks →
        let at_ := (s.tileAt site).bind (fun t => (s.tile t).crew)
        let far := cause = .arrayEcc ∧ ∃ c, at_ = some c ∧ c ∈ s.rollbacks
        let first := (s.site site).perr = none ∨ ∃ rc, (s.site site).perr = some rc ∧ rc + 2 ^ 40 ≤ (s.site site).ctr
        (s.quiesced = true → ¬far → ¬(cause = .pipeline ∧ first) →
          exec (.machineCheck site cause) s = .next ((s.fenceSite site).freezeCrew at_))
        ∧ (s.quiesced = false → ¬far → ¬(cause = .pipeline ∧ first) →
          ∃ t, exec (.machineCheck site cause) s = .next t ∧ site ∈ t.splices ∧ (site, cause) ∉ t.checks ∧ t.mem = s.mem)
        ∧ (s.quiesced = false → cause = .pipeline → first → ∀ c, at_ = some c → State.restorable (s.crew c) = true →
          exec (.machineCheck site cause) s = .next ((({ s with checks := s.checks.filter (fun c => c != (site, cause)) } : State).modSite site
            (fun n => { n with perr := some n.ctr })).rollBackInPlace c site)))
    ∧ (∀ w, w = s.fenceSite site →
        site ∈ (w.site site).fence ∧ (w.site site).fenced = true ∧ ∀ port q, port < 4 → nextSite site port = some q → site ∈ (w.site q).fence)
    ∧ (site ∈ s.splices →
        let w := s.fenceSite site
        let ended (t : State) : State := { t with splices := t.splices.filter (fun n => n != site) }
        (s.quiesced = true → exec (.splice site) s
          = .next (w.freezeCrew ((s.tileAt site).bind (fun t => (s.tile t).crew))))
        ∧ (s.quiesced = false →
          (w.tileAt site = none → exec (.splice site) s = .next (ended w))
          ∧ ∀ t, w.tileAt site = some t → isControlTile t = false →
            (∀ spare, w.spareFor site (w.siteOf (w.partnerOf t)) = some spare → exec (.splice site) s
              = .next (ended ((w.spliceRecords site [2, 3, 4, 5, 6, 7, 8]).spliceTo t site spare).markRetire))
            ∧ (w.spareFor site (w.siteOf (w.partnerOf t)) = none → ∀ c, (w.tile t).crew = some c →
              State.restorable ((w.spliceRecords site [2]).crew c) = true → ((w.spliceRecords site [2]).tile t).crew = some c →
              exec (.splice site) s = .next (ended ((w.spliceRecords site [2]).loseCrew c 0x1D t)))))
    -- the spare is the nearest by fields, never in the partner's field
    ∧ (∀ partner n, s.spareFor site partner = some n → n ∈ s.spares ∧ fieldOf n ≠ fieldOf partner
        ∧ ∀ m ∈ s.spares, fieldOf m ≠ fieldOf partner →
          State.fieldDist (fieldOf site) (fieldOf n) ≤ State.fieldDist (fieldOf site) (fieldOf m))

/-- R399, R400, R413, R431-R434: the end of a replay, a halted crew with its stop records, reconfiguration, and the deep-belay
image with its restore. -/
def Obligations.CrewEvents : Prop :=
  ∀ (s : State) (crew : Nat),
    (∀ h, (s.crew crew).replayTo = some h → (s.crew crew).live = true → (∀ t ∈ s.crewTiles crew, h ≤ (s.tile t).vcc) →
        ∃ t, exec (.replayEnd crew) s = .next t ∧ (t.crew crew).replayTo = none ∧ (t.crew crew).redo = [] ∧ t.mem = s.mem)
    ∧ (∀ h, (s.crew crew).haltAt = some h → (s.crew crew).live = true → (s.crew crew).haltDone = false →
        (∀ t ∈ s.crewTiles crew, (s.site (s.siteOf t)).fenced = true ∨ (s.tile t).halted = true ∧ h ≤ (s.tile t).vcc) → s.settled crew = true →
        ∃ u, exec (.haltComplete crew) s = .next u ∧ (u.crew crew).haltDone = true ∧ u.mem = s.mem
          ∧ ∀ t ∈ s.crewTiles crew, ∀ c, c < 4 → (u.core (coreKey t c)).stop0 = 1#1 ++ BitVec.ofNat 63 h
            ∧ (u.core (coreKey t c)).stop1 = (s.core (coreKey t c)).msent.setWidth 64
            ∧ (u.core (coreKey t c)).stop2 = BitVec.ofNat 64 ((s.tile t).mrecv % 2 ^ 32))
    ∧ (∀ part base count, part < 16 → base + count ≤ 0x8000 →
        (∀ e ∈ s.crews, e.2.live = true → e.2.part = part → e.2.st = .ended ∨ base ≤ e.2.t0 ∧ e.2.t0 + e.2.blk.cols * e.2.blk.rows ≤ base + count) →
        (∀ p, p < 16 → p ≠ part → base + count ≤ (s.part p).base ∨ (s.part p).base + (s.part p).count ≤ base) →
        ∃ t, exec (.partitionReconfiguration part base count) s = .next t ∧ t.mem = s.mem ∧ t.ctxs = s.ctxs
          ∧ ((∀ x ∈ s.sys.retire, (s.tile x).crew ≠ none) → (t.part part).base = base ∧ (t.part part).count = count)
          ∧ (t ≠ s → (t.part part).base = base ∧ (t.part part).count = count))
    ∧ (∀ part base count p, p < 16 → p ≠ part → (s.part p).base < base + count → base < (s.part p).base + (s.part p).count →
        exec (.partitionReconfiguration part base count) s = .next s)
    ∧ (∀ before after, belowFloor before after = true ↔ after < before ∧ after < 552)
    ∧ (∀ k, s.sys.deepReq = some k → s.deepReady = true → s.sys.held = [] →
        ∃ t d, exec .deepBelayImageWritten s = .next t ∧ t.deep = some d ∧ d.mem = s.mem ∧ d.sites = s.sites ∧ t.sys.deepReq = none
          ∧ t.mem = s.mem)
    ∧ (∀ d, s.deep = some d → (∀ e ∈ s.crews, e.2.live = false) → (s.field anchorField).joined = true →
        ∃ t, exec .deepRestore s = .next t ∧ t.deep = some d
          ∧ ∀ a, memRead t.mem a = if secondTier a then memRead s.mem a else memRead d.mem a)

/-- R30, R109, R439, R446, R451, R452, R466, R469: power, the device reset and the staged start: what a reset keeps, stage 1,
joining in turn, and the loss of a field. -/
def Obligations.StartEvents : Prop :=
  ∀ (s : State) (field : Nat),
    ((s.field field).power = true → exec (.fieldPowerLoss field) s = .next (s.fieldLoss field)
        ∧ exec (.thermalShutdown field) s = .next (s.fieldLoss field))
    ∧ (field ≠ anchorField → ((s.fieldLoss field).field field).power = false ∧ (s.fieldLoss field).mem = s.mem
        ∧ ∀ t ∈ s.fieldTiles field, s.siteOf t ∈ (s.fieldLoss field).splices)
    ∧ (∀ on t, s.resetDevice on = t →
        (on = true → exec .deviceReset s = .next t) ∧ (on = false → ∀ v : Word, v.getLsbD 0 = true → exec (.devrst v) s = .next t)
        ∧ t.mem = s.mem ∧ t.deep = s.deep ∧ t.ctxs = [] ∧ t.cores = [] ∧ t.tiles = [] ∧ t.crews = [] ∧ t.net = [] ∧ t.rebind = []
        ∧ t.sys.stage = 0 ∧ t.sys.fjoin = 0 ∧ t.sys.inc = s.sys.inc + 1 ∧ t.sys.rtime = (if on then 0 else s.sys.rtime)
        ∧ t.sys.trust.slotA = s.sys.trust.slotA ∧ t.sys.trust.slotB = s.sys.trust.slotB ∧ t.sys.trust.floor = s.sys.trust.floor
        ∧ (Tbl.wf {} s.fields = true → ∀ n, (t.field n).box = (s.field n).box)
        ∧ (Tbl.wf {} s.sites = true → ∀ n, (t.site n).cls = (s.site n).cls ∧ (t.site n).hole = (s.site n).hole))
    ∧ (s.sys.stage = 0 → (s.field anchorField).power = false →
        ∃ t, exec .powerGood s = .next t ∧ (t.field anchorField).power = true
          ∧ ∀ a, memRead t.mem a = if ∃ i ∈ List.range 4, vaultKey (controlSite anchorField i) 0 0 ≤ a ∧ a < vaultKey (controlSite anchorField i) 128 0
            then 0 else memRead s.mem a)
    ∧ (∀ recovery, s.sys.stage = 0 → (s.field anchorField).power = true →
        ∃ t, exec (.stageOneEntry recovery) s = .next t ∧ t.sys.stage = 1 ∧ t.sys.rcvy = recovery ∧ t.mem = s.mem
          ∧ t.sys.qmaj ++ t.sys.qmin = (s.slotImage s.startSlot).version ∧ t.sys.act = s.startSlot)
    ∧ (∀ failed, s.joinTurn field = true →
        ∃ t, exec (.fieldJoin field failed) s = .next t ∧ (t.field field).joined = true ∧ (t.field field).power = true
          ∧ t.sys.fjoin = s.sys.fjoin ||| 1#64 <<< field ∧ t.mem = s.mem ∧ t.ctxs = s.ctxs
          ∧ ∀ l ∈ s.boundIn field, s.bindSite l < 2 ^ 16 → s.bindSite l ∉ failed → (s.site (s.bindSite l)).cls = 0 →
            (s.site (s.bindSite l)).hole = false → (s.site (s.bindSite l)).unusable = false → t.bound l = s.bindSite l)
    ∧ (s.joinTurn field = true → field ≠ anchorField →
        ∃ t, exec (.fieldGivenUp field) s = .next t ∧ (t.field field).given = true ∧ t.sys.fjoin = s.sys.fjoin ∧ t.mem = s.mem)

/-- R343, R461-R463, R468, R469: heat, droop, margins, repair and self-test. -/
def Obligations.ServiceEvents : Prop :=
  ∀ (s : State) (field site : Nat),
    ((s.field field).power = true → (s.field field).throttled = false →
        ((s.field field).throttleAt = [] → s.strictCrews field = [] →
          exec (.thermalThrottle field) s = .next (s.setField field { s.field field with throttled := true }))
        ∧ (∀ c, (s.field field).throttleAt = [] → s.strictCrews field = [c] →
          exec (.thermalThrottle field) s = .next ((s.crewFields c).foldl (fun (t : State) f =>
            t.setField f { t.field f with throttleAt := (t.field f).throttleAt ++ [(c, s.announceVc c)] }) s))
        ∧ ((s.field field).throttleAt ≠ [] →
          (∀ x ∈ (s.field field).throttleAt, (s.crew x.1).live = false ∨ ∀ t ∈ s.crewTiles x.1, x.2 ≤ (s.tile t).vcc) →
          exec (.thermalThrottle field) s = .next (s.setField field { s.field field with throttled := true, throttleAt := [] })))
    ∧ (∀ cycles, (s.field field).power = true → exec (.droopStretch field cycles) s
        = .next (s.setField field { s.field field with droop := s.sys.rtime.toNat + 2 * min cycles 8 }))
    ∧ (∀ mv : BitVec 16, (s.field field).joined = true → (s.field field).power = true →
        ∃ t, exec (.marginReplan field mv) s = .next t
          ∧ (t.field field).vmarg = BitVec.ofNat 16 (min mv.toNat (Config.maxMargin field)) ∧ t.mem = s.mem ∧ t.ctxs = s.ctxs)
    ∧ (∀ stack channel, channel < 64 →
        (s.sys.deepReq = none → 64 * stack + channel ∉ s.sys.held →
          ∃ t, exec (.hbmRepairStart stack channel) s = .next t
            ∧ t = { s with sys := { s.sys with held := s.sys.held ++ [64 * stack + channel] }, fields := t.fields })
        ∧ (64 * stack + channel ∈ s.sys.held →
          ∃ t, exec (.hbmRepairDone stack channel) s = .next t ∧ 64 * stack + channel ∉ t.sys.held ∧ t.mem = s.mem
            ∧ (Tbl.get (0, 0) t.hbm (64 * stack + channel)).1 = (Tbl.get (0, 0) s.hbm (64 * stack + channel)).1 + 1))
    ∧ (isSite site = true → (s.site site).testing = false → s.siteUp site = true →
        (∀ l, s.tileAt site = some l → isControlTile l = false → (s.tile l).crew = none → s.testRoom l = true →
          ∃ t, exec (.selfTestStart site) s = .next t ∧ (t.site site).testing = true ∧ t.mem = s.mem
            ∧ ((s.tile (s.partnerOf l)).crew = none → (t.site site).keepv = false))
        ∧ (s.tileAt site = none → ∃ t, exec (.selfTestStart site) s = .next t ∧ (t.site site).testing = true ∧ (t.site site).keepv = false
          ∧ t.mem = s.mem))
    ∧ (∀ o, (s.site site).testing = true →
        ∃ t, exec (.selfTestComplete site o) s = .next t ∧ (t.site site).testing = false ∧ (t.site site).fenced = false ∧ t.mem = s.mem
          ∧ (t.site site).cls.toNat
            = max (max (s.site site).cls.toNat (testGrade o).1.toNat) (((s.site site).grade.getD 0).toNat)
          ∧ (t.site site).hole = ((s.site site).hole || (testGrade o).2.1)
          ∧ (t.site site).unusable = (if (controlOf site).isSome then decide (2 ≤ (t.site site).cls.toNat) else decide ((t.site site).cls ≠ 0))
          ∧ ∀ l, s.tileAt site = some l → isControlTile l = false → (t.site site).cls ≠ 0 → site ∈ t.splices)

/-- R109-R111, R279, R447-R449: the links of the package: CXL ports map their units and lose them, Folvibel ports train and
fall. -/
def Obligations.LinkEvents : Prop :=
  ∀ (s : State) (port : Nat),
    (∃ t, exec (.cxlPortDown port) s = .next t ∧ Tbl.get 0 t.sys.cxl port = 0x4000000000000000 ∧ t.sys.dbctl = 0 ∧ t.mem = s.mem
        ∧ t.cxlLimit port = 0)
    ∧ (∀ lanes rate gb, ∃ t, exec (.cxlPortUp port lanes rate gb) s = .next t
        ∧ t.cxlLimit port = min 512 gb.toNat * 10 ^ 9 ∧ t = { s with sys := { s.sys with cxl := t.sys.cxl } }
        ∧ ∀ j, j ≠ port → Tbl.get 0 t.sys.cxl j = Tbl.get 0 s.sys.cxl j)
    ∧ (∀ inc pport, exec (.folvibelLinkTrain port s.sys.wnum inc pport) s = .next s)
    ∧ (∀ wafer inc pport, wafer ≠ s.sys.wnum →
        let put (t : State) : State := (t.modSys (fun y => { y with
          fv := Tbl.set 0 y.fv port (1#1 ++ 0#7 ++ wafer ++ inc ++ 0#3 ++ pport ++ (Tbl.get 0 t.sys.fv port).extractLsb' 0 24) })).settle
        let other := s.sys.fv.any (fun e => e.2.extractLsb' 48 8 == wafer && e.2.extractLsb' 32 16 != inc && e.2 != 0)
        (other = false → exec (.folvibelLinkTrain port wafer inc pport) s = .next (put s))
        ∧ (other = true →
          exec (.folvibelLinkTrain port wafer inc pport) s = .next (put ((s.losePeers wafer.toNat none).loseChannels wafer.toNat none))))
    ∧ (s.portUp port = true → (∀ w, w < 256 → port ∉ s.peerPorts w) → exec (.folvibelLinkDown port) s
        = .next (s.modSys (fun y => { y with fv := Tbl.set 0 y.fv port (Tbl.get 0 y.fv port &&& 0x7FFFFFFFFFFFFFFF) })).settle)
    ∧ (∀ w, s.portUp port = true → w < 256 → port ∈ s.peerPorts w → (∀ v, v < 256 → v ≠ w → port ∉ s.peerPorts v) →
        exec (.folvibelLinkDown port) s = .next (((s.losePeers w (some port)).loseChannels w (some port)).modSys (fun y =>
          { y with fv := Tbl.set 0 y.fv port (Tbl.get 0 y.fv port &&& 0x7FFFFFFFFFFFFFFF) })).settle)
    -- requests to the wafer end with PEER_LOST
    ∧ (∀ w r, s.peers = [(w, r)] →
        let kept : State := { s with
          peers := []
          gws := s.gws.map (fun g => (g.1, { g.2 with leaves := g.2.leaves.filter (fun l => !(l.tag.map Prod.fst == some w)) })) }
        s.losePeers w none = kept.farDone r 0x09 [] false
        ∧ (r.port = some port → s.losePeers w (some port) = kept.farDone r 0x09 [] false))

/-- R10, R394, R395, R440, R442-R446, R442: The host: HLAUNCH as one LAUNCH.nb with HLRES, publishes, far reads and writes
through the apertures, W1C bits, the reset of a function, and interrupts. Accesses to the windows and the registers in control
space. -/
def Obligations.HostEvents : Prop :=
  (∀ (s : State) (fn : Nat),
      (s.sys.stage ≠ 0 →
          (∀ a, (s.host fn).busy = true → exec (.hlaunch fn a) s = .next (s.modHost fn (fun h => { h with drop := true })))
          ∧ (∀ a, (s.host fn).busy = false →
            exec (.hlaunch fn a) s = .next ((s.modHost fn (fun h => { h with busy := true, hlaunch := a })).hostSettle fn))
          ∧ (∀ len, exec (.hpubn fn len) s = .next ((s.modHost fn (fun h =>
              { h with hpubn := len, hpubs := 1, pubq := h.pubq ++ [(h.hpuba, len)] })).hostSettle fn))
          ∧ exec (.herrClear fn) s = .next (s.modHost fn (fun h => { h with herr := 0 }))
          ∧ exec (.hlresDropClear fn) s = .next (s.modHost fn (fun h => { h with drop := false }))
          ∧ (∀ off len, s.hostWaits fn = false →
            (s.hostBytes fn off.toNat len = none →
              exec (.hostFarRead fn off len) s = .next (s.modHost fn (fun h => { h with readOut := some .unsupportedRequest })))
            ∧ (∀ e u, s.hostBytes fn off.toNat len = some (.error e, u) → exec (.hostFarRead fn off len) s
              = .next ((u.hostErr fn e (off.toNat % 2 ^ 30)).modHost fn (fun h => { h with readOut := some .completerAbort })))
            ∧ ∀ bs u, s.hostBytes fn off.toNat len = some (.ok bs, u) →
              exec (.hostFarRead fn off len) s = .next (u.modHost fn (fun h => { h with readOut := some (.data bs) })))
          ∧ (∀ (off : BitVec 36) data, data ≠ [] → off.toNat % 4096 + data.length ≤ 4096 →
            exec (.hostFarWrite fn off data) s = .next (s.hostPiece fn off.toNat data)))
      -- a launch behind the function's writes, and its status
      ∧ (s.hostWaits fn = false → (s.host fn).pubq = [] → s.hostSettle fn = if (s.host fn).busy then s.hostLaunch fn else s)
      ∧ ((s.sys.stage.toNat < 2 → s.hostLaunch fn = s.hostResult fn 2 0 0)
          ∧ (2 ≤ s.sys.stage.toNat → s.quiesced = true → s.hostLaunch fn = s.hostResult fn 3 0 0)
          ∧ (2 ≤ s.sys.stage.toNat → s.quiesced = false →
            (∀ e u, s.hostRead fn (s.host fn).hlaunch 256 = (.error e, u) → s.hostLaunch fn = u.hostResult fn 4 e 0)
            ∧ ∀ bs u, s.hostRead fn (s.host fn).hlaunch 256 = (.ok bs, u) →
              (blockPlaced (blockOf bs) = false → s.hostLaunch fn = u.hostResult fn 5 0 0)
              ∧ (blockPlaced (blockOf bs) = true → u.queueFull (s.pctx fn) = true → s.hostLaunch fn = u.hostResult fn 1 0 0)
              ∧ (blockPlaced (blockOf bs) = true → u.queueFull (s.pctx fn) = false →
                s.hostLaunch fn = (u.post (s.pctx fn) (blockOf bs)).2.hostResult fn 0 0 (u.post (s.pctx fn) (blockOf bs)).1)))
      -- apertures
      ∧ (∀ off data, (s.hostPlace fn off = none → s.hostPiece fn off data = s)
          ∧ (∀ x, s.hostPlace fn off = some x → s.hostMayWrite fn off = false → s.hostPiece fn off data = s.hostErr fn 0x03 (off % 2 ^ 30))
          ∧ ∀ pa, s.hostPlace fn off = some (.phys pa) → s.hostMayWrite fn off = true → s.rangeOk pa data.length = true →
            s.hostPiece fn off data = s.writePa pa data)
      -- what the host writes and reads in BAR0
      ∧ (s.sys.stage ≠ 0 → (∀ v, (s.barWrite fn 0x010 v).barRead fn 0x010 = v)
          ∧ (∀ n v, n < 64 → (s.barWrite fn (0x1000 + 8 * n) v).barRead fn (0x1000 + 8 * n) = v &&& 0xE00FFFFFC0000000)
          ∧ ∀ v : Word, (s.barWrite fn 0x030 v).barRead fn 0x030 = if v.getLsbD 63 then 0 else (s.host fn).herr)
      ∧ s.barRead fn 0x80000 = s.sys.ident
      ∧ ((s.barRead fn 0x008).getLsbD 63 = (s.host fn).busy ∧ (s.barRead fn 0x008).getLsbD 62 = (s.host fn).drop
          ∧ (s.barRead fn 0x008).extractLsb' 48 8 = (s.host fn).seq ∧ (s.barRead fn 0x008).extractLsb' 40 8 = (s.host fn).stat
          ∧ (s.barRead fn 0x008).extractLsb' 32 8 = (s.host fn).err ∧ (s.barRead fn 0x008).extractLsb' 0 32 = (s.host fn).task)
      ∧ (∃ t, exec (.functionLevelReset fn) s = .next t ∧ (t.host fn).apt = [] ∧ (t.host fn).herr = 0 ∧ (t.host fn).hpubs = 0
          ∧ (t.host fn).drop = false ∧ (t.host fn).seq = 0 ∧ (t.host fn).stat = 0 ∧ (t.host fn).discard = (s.host fn).busy
          ∧ (∀ j, j ≠ fn → t.host j = s.host j) ∧ t = { s with hosts := t.hosts })
      ∧ (∀ v : Word, ∃ t, exec (.hirq v) s = .next t ∧ t.mem = s.mem ∧ t.ctxs = s.ctxs
          ∧ let h := s.host (v.extractLsb' 8 2).toNat
            let u := t.host (v.extractLsb' 8 2).toNat
            let i := (v.extractLsb' 0 5).toNat
            if h.msixMask.getLsbD i then u.msixPend.getLsbD i = true ∧ u.msixSent = h.msixSent
            else u.msixSent.getLsbD i = true ∧ u.msixPend = h.msixPend))
  ∧ (∀ (s : State),
      (∀ addr v tile (level : BitVec 2),
          (spaceOf addr = 5 → isPhysWindow addr = false → exec (.registerWrite addr v level tile) s
            = .next (s.ctrlWrite addr v level (s.siteOf tile)))
          ∧ (addr.toNat < 2 ^ 20 → level = 3 → exec (.registerWrite addr v level tile) s = .next (s.barWrite (tile % 4) addr.toNat v))
          ∧ (addr = 0x028 → level = 2 → exec (.registerWrite addr v level tile) s
            = .next (s.modHost (tile % 4) (fun h => { h with hfn := v &&& 0x1F }))))
      -- a task may write no register; what a read gives of the system block
      ∧ (∀ a v site, s.ctrlWrite a v 0 site = s)
      ∧ (∀ level, s.ctrlRead 0x5000000500000000 level = s.sys.ident ∧ s.ctrlRead 0x5000000500000010 level = s.sys.start
          ∧ s.ctrlRead 0x5000000500000018 level = s.sys.fjoin ∧ s.ctrlRead 0x5000000500000020 level = s.sys.rtime)
      ∧ (∀ v site, (s.ctrlWrite 0x5000000500000208 v 2 site).ctrlRead 0x5000000500000208 2 = v
          ∧ (s.ctrlWrite 0x5000000500000208 v 2 site).ctrlRead 0x5000000500000208 1 = 0
          ∧ s.ctrlWrite 0x5000000500000208 v 1 site = s ∧ s.ctrlWrite 0x5000000500000000 v 2 site = s)
      ∧ (∀ n p u a en v wr len level, s.Arrives n p u → p.body = .window a en v wr len level →
          let go := exec (.trapWindowAccessArrival n) s
          let fault (cause : BitVec 8) : State := u.failWait p.ctx cause a
          (spaceOf a = 4 → u.winRefused a = true → go = .next (fault 0x0C))
          ∧ (spaceOf a = 4 → u.winRefused a = false → wr = false → (u.ctx p.ctx).used = true →
            go = .next (u.answer p (globalTile a) (.data (vecOfBytes (u.winRead a len)) none)))
          ∧ (spaceOf a = 4 → u.winRefused a = false → wr = true →
            let w := u.winStore a en v level
            go = .next (if (w.ctx p.ctx).used then w.answer p (globalTile a) (.data 0 none) else w))
          ∧ (spaceOf a ≠ 4 → isPhysWindow a = true → u.rangeOk (physOf a) len = false → go = .next (fault 0x14))
          ∧ (spaceOf a ≠ 4 → isPhysWindow a = true → u.rangeOk (physOf a) len = true → u.chanHeld (physOf a) = false → wr = false →
            (u.ctx p.ctx).used = true → go = .next (u.answer p (ctrlTile a) (.data (vecOfBytes (u.readPa (physOf a) len)) none)))
          ∧ (spaceOf a ≠ 4 → isPhysWindow a = false → wr = false → (u.ctx p.ctx).used = true →
            go = .next (u.answer p (ctrlTile a) (.data ((u.ctrlRead a level).setWidth 512) none)))
          ∧ (spaceOf a ≠ 4 → isPhysWindow a = false → wr = true →
            let w := u.ctrlWrite a (v.setWidth 64) level (u.siteOf p.src)
            go = .next (if (w.ctx p.ctx).used then w.answer p (ctrlTile a) (.data 0 none) else w))))

/-- R450-R457, R453, R454, R457: Live update: quiesce with its frozen body, release, QBOOT and the heartbeat; and the trust
block with its five operations. The SPDM responder: each request in its stage of the exchange, Busy while the device is
quiesced. -/
def Obligations.UpdateEvents : Prop :=
  (∀ (s : State) (v : Word),
      (∀ pa, pa = (v.extractLsb' 6 42).toNat * 64 →
          v.getLsbD 0 = true → exec (.quiesce v) s = .next (if paUnit pa < 0x30 ∧ s.paOk pa = true
            then { s with sys := { s.sys with qsc := v &&& 0x0000FFFFFFFFFFC1 } } else s))
      ∧ (v.getLsbD 0 = false → exec (.quiesceRelease v) s = .next ((List.range 4).foldl State.hostSettle
          (s.modSys (fun y => { y with qsc := v &&& 0x0000FFFFFFFFFFC1, qdone := false }))))
      ∧ (∀ body pa, pa = (s.sys.qsc.extractLsb' 6 42).toNat * 64 + 64 →
          s.quiesced = true → s.sys.qdone = false → (∀ f, f < 4 → (s.host f).busy = false) → s.rangeOk pa body.length = true →
          ∃ t, exec (.quiesceDone body) s = .next t ∧ t.mem = memWriteN s.mem pa body ∧ t.sys.qdone = true
            ∧ t.sys.stlen = BitVec.ofNat 64 body.length ∧ t.ctxs = s.ctxs)
      ∧ (v.getLsbD 63 = true → v.getLsbD 62 = false → s.sys.rcvy = false →
          ∃ t, exec (.qbootGo v) s = .next t ∧ t.sys.upd = true ∧ t.sys.hbeat = 0 ∧ t.sys.bootT = s.sys.rtime ∧ t.mem = s.mem
            ∧ ∀ f, f < 64 → (controlSite f 2 ∈ t.sys.standbySites ↔ s.sys.fjoin.getLsbD f = true))
      ∧ (v.getLsbD 62 = true → s.sys.rcvy = false →
          ∃ t, exec (.qbootCancel v) s = .next t ∧ t.sys.upd = false ∧ t.sys.standbySites = [] ∧ t.mem = s.mem)
      ∧ (∀ site, exec (.hbeatWrite site) s = .next (if s.handoverOk = true ∧ s.sys.upd = true ∧ site ∈ s.sys.standbySites ∧ s.sys.hbeat.getLsbD 63 = false
          then { s with sys := { s.sys with hbeat := 1#1 ++ 0#15 ++ s.sys.rtime.setWidth 48 } } else s))
      -- the trust block
      ∧ (∀ op : BitVec 8, v = 0x8000000000000000 ||| op.setWidth 64 → 1 ≤ op.toNat → op.toNat ≤ 5 → s.sys.trust.busy = false →
          (s.trustStart v).sys.trust.busy = true ∧ (s.trustStart v).trustArgs op = some (s.sys.tbarg0, s.sys.tbarg1))
      ∧ (∀ a b, s.trustArgs 1 = some (a, b) →
          (∀ x, s.verifyImage a.toNat = .ok x → exec .verify s = .next (s.trustOut 0 0))
          ∧ ∀ e, s.verifyImage a.toNat = .error e → exec .verify s = .next (s.trustOut e 0))
      ∧ (∀ a b, s.trustArgs 2 = some (a, b) →
          (1 < b.toNat → exec .measure s = .next (s.trustOut 5 0))
          ∧ (b.toNat ≤ 1 → b.extractLsb' 0 1 = s.sys.act → exec .measure s = .next (s.trustOut 6 0))
          ∧ (b.toNat ≤ 1 → b.extractLsb' 0 1 ≠ s.sys.act →
            (∀ e, s.verifyImage a.toNat = .error e → exec .measure s = .next (s.trustOut e 0))
            ∧ ∀ x, s.verifyImage a.toNat = .ok x →
              ∃ t, exec .measure s = .next t ∧ t.slotImage (b.extractLsb' 0 1) = x ∧ t.slotImage s.sys.act = s.slotImage s.sys.act
                ∧ t.sys.trust.pending = some (b.extractLsb' 0 1, x) ∧ t.sys.trust.out = some (0, 0) ∧ t.mem = s.mem))
      ∧ (∀ a b slot x, s.trustArgs 3 = some (a, b) → b.toNat ≤ 1 → s.sys.trust.pending = some (slot, x) →
          (b.extractLsb' 0 1 ≠ slot → exec .commit s = .next (s.trustOut 6 0))
          ∧ (b.extractLsb' 0 1 = slot →
            ∃ t, exec .commit s = .next t ∧ t.sys.act = slot ∧ t.sys.trust.pending = none ∧ t.sys.trust.out = some (0, 0)
              ∧ t.sys.trust.floor.toNat = max s.sys.trust.floor.toNat x.svn.toNat ∧ t.mem = s.mem))
      ∧ (∀ a b, s.trustArgs 4 = some (a, b) →
          exec .revert s = .next ((s.modTrust (fun t => { t with pending := none })).trustOut 0 0))
      ∧ (∀ a b, s.trustArgs 5 = some (a, b) → exec .crc32 s = .next (if s.rangeOk a.toNat b.toNat
          then s.trustOut 0 (crc32 (s.readPa a.toNat b.toNat)) else s.trustOut 5 0))
      ∧ (∀ res x, s.sys.trust.out = some (res, x) →
          ∃ t, exec .trustOperationDone s = .next t ∧ t.sys.trust.busy = false ∧ t.sys.trust.res = res ∧ t.sys.trust.val = x
            ∧ t = { s with sys := t.sys }))
  ∧ (∀ (s : State) (fn index : Nat) (nonce : BitVec 256), s.sys.stage ≠ 0 →
      let answers (i : Instr) (need next : Nat) (a : SpdmAns) : Prop :=
        ∃ t, exec i s = .next t ∧ t = { s with sys := { s.sys with spdm := t.sys.spdm } }
          ∧ if s.quiesced then Tbl.find t.sys.spdm.ans fn = some .busy ∧ t.sys.spdm.stage = s.sys.spdm.stage
            else if s.sys.spdm.stage < need then Tbl.find t.sys.spdm.ans fn = some .unexpected ∧ t.sys.spdm.stage = s.sys.spdm.stage
            else Tbl.find t.sys.spdm.ans fn = some a ∧ t.sys.spdm.stage = next
      let ms := s.measurements
      let out := if index = 0xFF then ms else ms.filter (fun m => m.1 == index)
      let digest := Config.spdmDigest 0 (hashBytes nonce ++ ms.flatMap (fun m => hashBytes m.2))
      answers (.getVersion fn) 0 1 (.version [1, 1] [2, 3])
      ∧ answers (.getCapabilities fn) 1 2 (.capabilities true true true true)
      ∧ answers (.negotiateAlgorithms fn) 2 3 (.algorithms true true)
      ∧ answers (.getDigests fn) 3 3 (.digests (sha256 (Config.certChain 0)))
      ∧ answers (.getCertificate fn) 3 3 (.certificate (Config.certChain 0))
      ∧ answers (.challenge fn nonce) 3 3 (.challengeAuth digest (Config.deviceSign digest))
      ∧ answers (.getMeasurements fn index) 3 3 (if index = 0 then .count ms.length else if out = [] then .invalid
          else .measurements out (Config.deviceSign (Config.spdmDigest 0 (out.flatMap (fun m => hashBytes m.2))))))
end

