-- ==== Sys2Proof/Laws/Decode.lean ====
section
/-! SUPPORT. Laws of the instruction word: every code of the encoding tables reads back as what it stands for, packing and
unpacking a word's fields are inverse, and what the decoder answers encodes to the word it was given. -/

namespace Sys2Proof

-- theorems one after the other: a thread for each would need more memory than the check has
set_option Elab.async false

@[simp] theorem Ty.ofCode_code (t : Ty) : Ty.ofCode t.code = t := by cases t <;> rfl
@[simp] theorem Rm.ofCode_code (m : Rm) : Rm.ofCode m.code = m := by cases m <;> rfl
@[simp] theorem Nul.ofBits_hi_lo (n : Nul) : Nul.ofBits n.hi n.lo = n := by cases n <;> rfl
@[simp] theorem Cond.ofBits_hi_lo (c : Cond) : Cond.ofBits c.hi c.lo = c := by cases c <;> rfl
@[simp] theorem Pat.ofCode_code (p : Pat) : Pat.ofCode p.code = p := by cases p <;> rfl
@[simp] theorem RedOp.ofBits_bits (o : RedOp) : RedOp.ofBits o.bits = o := by cases o <;> rfl
@[simp] theorem StepKind.ofBits_bits (k : StepKind) : StepKind.ofBits k.bits = k := by cases k <;> rfl
@[simp] theorem Scope.ofCode_code (s : Scope) : Scope.ofCode s.code = s := by cases s <;> rfl
@[simp] theorem AmoOp.ofCode_code (o : AmoOp) : AmoOp.ofCode o.code = o := by cases o <;> rfl
@[simp] theorem Dir.ofCode_code (d : Dir) : Dir.ofCode d.code = d := by cases d <;> rfl
@[simp] theorem SReg.ofCode_code (r : SReg) : SReg.ofCode r.code = r := by cases r <;> rfl
@[simp] theorem sxBits_eq (b : Bool) : (sxBits b == 4#5) = b := by cases b <;> rfl
@[simp] theorem bits3_two (b2 b1 b0 : Bool) : (bits3 b2 b1 b0)[2] = b2 := by cases b2 <;> cases b1 <;> cases b0 <;> rfl
@[simp] theorem bits3_one (b2 b1 b0 : Bool) : (bits3 b2 b1 b0)[1] = b1 := by cases b2 <;> cases b1 <;> cases b0 <;> rfl
@[simp] theorem bits3_zero (b2 b1 b0 : Bool) : (bits3 b2 b1 b0)[0] = b0 := by cases b2 <;> cases b1 <;> cases b0 <;> rfl
@[simp] theorem rampOf_rampBits (b : Bool) : rampOf (rampBits b) = b := by cases b <;> rfl

/-- The low part of an appended pair of fields. -/
theorem extract_append_low {m n : Nat} (a : BitVec m) (b : BitVec n) : (a ++ b).extractLsb' 0 n = b := by
  ext i hi
  simp [BitVec.getLsbD_append, hi]

/-- The high part of an appended pair of fields. -/
theorem extract_append_high {m n : Nat} (a : BitVec m) (b : BitVec n) : (a ++ b).extractLsb' n m = a := by
  ext i hi
  simp [BitVec.getLsbD_append, BitVec.getLsbD_eq_getElem hi]

/-- A field lies within the low part of an appended pair. -/
theorem extract_append_within {m n : Nat} (a : BitVec m) (b : BitVec n) (s w : Nat) (h : s + w ≤ n) :
    (a ++ b).extractLsb' s w = b.extractLsb' s w := by
  ext i hi
  simp [BitVec.getLsbD_append, show s + i < n by omega]

/-- A field that lies above the low part of an appended pair. -/
theorem extract_append_above {m n : Nat} (a : BitVec m) (b : BitVec n) (s w : Nat) (h : n ≤ s) :
    (a ++ b).extractLsb' s w = a.extractLsb' (s - n) w := by
  ext i hi
  simp [BitVec.getLsbD_append, show ¬ s + i < n by omega, show s + i - n = s - n + i by omega]

/-- The whole of a bit vector as a field. -/
theorem extract_all {n : Nat} (a : BitVec n) : a.extractLsb' 0 n = a := by
  ext i hi
  simp

/-- A bit above the low part of an appended pair. -/
theorem bit_append_above {m n : Nat} (a : BitVec m) (b : BitVec n) (i : Nat) (h : n ≤ i) :
    (a ++ b).getLsbD i = a.getLsbD (i - n) := by
  simp [BitVec.getLsbD_append, show ¬ i < n by omega]

/-- A bit put before a field. -/
theorem top_append {n : Nat} (b : Bool) (v : BitVec n) : (BitVec.ofBool b ++ v).getLsbD n = b := by
  rw [BitVec.getLsbD_append, if_neg (Nat.lt_irrefl n), Nat.sub_self]
  cases b <;> rfl

/-- A bit put after a field. -/
theorem low_append {n : Nat} (v : BitVec n) (b : Bool) : (v ++ BitVec.ofBool b).getLsbD 0 = b := by
  rw [BitVec.getLsbD_append, if_pos Nat.one_pos]
  cases b <;> rfl

/-- A bit within the low part of an appended pair. -/
theorem bit_append_low {m n : Nat} (a : BitVec m) (b : BitVec n) (i : Nat) (h : i < n) : (a ++ b).getLsbD i = b.getLsbD i := by
  simp [BitVec.getLsbD_append, h]

@[simp] theorem VMask.ofBits_bits (v : VMask) : VMask.ofBits v.bits = v := by
  obtain ⟨z, gm⟩ := v
  have h : (BitVec.ofBool z ++ gm).getLsbD 3 = z := top_append z gm
  simp only [VMask.ofBits, VMask.bits]
  rw [extract_append_low, h]

@[simp] theorem gmOf_gmBits (m : BitVec 3) : gmOf (gmBits m) = m := extract_append_low _ _

@[simp] theorem Shuffle.ofBits_bits (s : Shuffle) : Shuffle.ofBits s.bits = s := by
  simp only [Shuffle.ofBits, Shuffle.bits]
  rw [extract_append_low, extract_append_high, Pat.ofCode_code]

@[simp] theorem ConvSel.ofBits_bits (c : ConvSel) : ConvSel.ofBits c.bits = c := by
  have h := extract_append_within 0#4 (c.part ++ c.src.code)
  simp only [ConvSel.ofBits, ConvSel.bits]
  rw [h 5 3 (by decide), h 0 5 (by decide), extract_append_low, extract_append_high, Ty.ofCode_code]

@[simp] theorem UnpackSel.ofBits_bits (c : UnpackSel) : UnpackSel.ofBits c.bits = c := by
  obtain ⟨half, part, src⟩ := c
  have h := extract_append_within 0#3 (BitVec.ofBool half ++ (part ++ src.code))
  have h' := extract_append_within (BitVec.ofBool half) (part ++ src.code)
  simp only [UnpackSel.ofBits, UnpackSel.bits]
  rw [h 5 3 (by decide), h 0 5 (by decide), h' 5 3 (by decide), h' 0 5 (by decide), extract_append_low,
    extract_append_high, Ty.ofCode_code]
  have e : (0#3 ++ (BitVec.ofBool half ++ (part ++ src.code))).getLsbD 8 = half :=
    (bit_append_low 0#3 _ 8 (by decide)).trans (top_append half (part ++ src.code))
  rw [e]

@[simp] theorem srcOf_srcBits (t : Ty) : srcOf (srcBits t) = t := by
  simp only [srcOf, srcBits]
  rw [extract_append_low, Ty.ofCode_code]

@[simp] theorem BitField.ofBits_bits (f : BitField) : BitField.ofBits f.bits = f := by
  have h := extract_append_within 0#4 (f.len1 ++ f.lsb)
  simp only [BitField.ofBits, BitField.bits]
  rw [h 6 6 (by decide), h 0 6 (by decide), extract_append_low, extract_append_high]

@[simp] theorem EntryBank.ofBits_bits (f : EntryBank) : EntryBank.ofBits f.bits = f := by
  have h := extract_append_within 0#5 (f.bank ++ f.entry)
  simp only [EntryBank.ofBits, EntryBank.bits]
  rw [h 5 6 (by decide), h 0 5 (by decide), extract_append_low, extract_append_high]

@[simp] theorem EntryPair.ofBits_bits (f : EntryPair) : EntryPair.ofBits f.bits = f := by
  have h := extract_append_within 0#6 (f.e2 ++ f.e)
  simp only [EntryPair.ofBits, EntryPair.bits]
  rw [h 5 5 (by decide), h 0 5 (by decide), extract_append_low, extract_append_high]

@[simp] theorem bankOf_bankBits (b : BitVec 6) : bankOf (bankBits b) = b := by
  have h := extract_append_within 0#5 (b ++ 0#5)
  simp only [bankOf, bankBits]
  rw [h 5 6 (by decide), extract_append_high]

/-- Packing the fields of a word loses none of them (R43). -/
theorem Raw.unpack_pack (r : Raw) : Raw.unpack r.pack = r := by
  obtain ⟨fmt, op, pg, pn, d, a, b, c, ty, rm, sat, x, imm⟩ := r
  simp only [Raw.unpack, Raw.pack, Raw.mk.injEq]
  refine ⟨?_, ?_, ?_, ?_, ?_, ?_, ?_, ?_, ?_, ?_, ?_, ?_, ?_⟩ <;>
    (try simp (disch := omega) only [extract_append_above, bit_append_above]) <;>
    first | exact extract_append_low _ _ | exact extract_all _ | exact low_append _ _

section
variable (fmt : BitVec 3) (op : BitVec 8) (pg : BitVec 3) (pn : Bool) (d a b c : BitVec 6) (ty : BitVec 5) (rm : BitVec 3)
  (sat : Bool) (x : BitVec 16) (imm : BitVec 32) (hi : BitVec 12) (lo : BitVec 4)

@[simp] theorem Raw.guard_eq : Raw.guard ⟨fmt, op, pg, pn, d, a, b, c, ty, rm, sat, x, imm⟩ = ⟨pg, pn⟩ := rfl

@[simp] theorem Raw.var9_eq : Raw.var9 ⟨fmt, op, pg, pn, d, a, b, c, ty, rm, sat, x, imm⟩
    = ty.toNat * 16 + rm.toNat * 2 + sat.toNat := rfl

@[simp] theorem memOf_eq (m : MemOp) :
    memOf ⟨fmt, op, pg, pn, d, m.idx, b, m.sg.setWidth 6, ty, rm, sat, x, m.disp⟩ = m := by
  obtain ⟨sg, idx, disp⟩ := m
  simp only [memOf, MemOp.mk.injEq, and_true]
  simp

@[simp] theorem xHi_xOf : xHi ⟨fmt, op, pg, pn, d, a, b, c, ty, rm, sat, xOf hi lo, imm⟩ = hi :=
  extract_append_high _ _

@[simp] theorem xLo_xOf : xLo ⟨fmt, op, pg, pn, d, a, b, c, ty, rm, sat, xOf hi lo, imm⟩ = lo :=
  extract_append_low _ _

end

end Sys2Proof
end

