-- ==== Sys2Proof/Laws/PerInstr.lean ====
section
/-! SUPPORT. Instruction by instruction: the fields the encoder writes are read back as the instruction they came from. -/

namespace Sys2Proof.Laws.Encoding

-- theorems one after the other: a thread for each would need more memory than the check has
set_option Elab.async false

/-- The fields of a well-formed instruction name that instruction. -/
def Statement (i : Instr) : Prop := i.wf = true → ∀ r, i.raw = some r → candidate r = some i


theorem add (g : Guard) (ty : Ty) (sat : Bool) (d : BitVec 6) (a : BitVec 6) (b : BitVec 6) : Statement (.add g ty sat d a b) := by
  rintro - _ ⟨⟩
  simp [candidate, candidateR, Raw.of]

theorem addi (g : Guard) (ty : Ty) (sat : Bool) (d : BitVec 6) (a : BitVec 6) (imm : BitVec 32) : Statement (.addi g ty sat d a imm) := by
  rintro - _ ⟨⟩
  simp [candidate, candidateI, Raw.of]

theorem sub (g : Guard) (ty : Ty) (sat : Bool) (d : BitVec 6) (a : BitVec 6) (b : BitVec 6) : Statement (.sub g ty sat d a b) := by
  rintro - _ ⟨⟩
  simp [candidate, candidateR, Raw.of]

theorem mul (g : Guard) (ty : Ty) (sat : Bool) (d : BitVec 6) (a : BitVec 6) (b : BitVec 6) : Statement (.mul g ty sat d a b) := by
  rintro - _ ⟨⟩
  simp [candidate, candidateR, Raw.of]

theorem mulImm (g : Guard) (ty : Ty) (sat : Bool) (d : BitVec 6) (a : BitVec 6) (imm : BitVec 32) : Statement (.mulImm g ty sat d a imm) := by
  rintro - _ ⟨⟩
  simp [candidate, candidateI, Raw.of]

theorem mulh (g : Guard) (d : BitVec 6) (a : BitVec 6) (b : BitVec 6) : Statement (.mulh g d a b) := by
  rintro - _ ⟨⟩
  simp [candidate, candidateR, Raw.of]

theorem mulhn (g : Guard) (d : BitVec 6) (a : BitVec 6) (b : BitVec 6) : Statement (.mulhn g d a b) := by
  rintro - _ ⟨⟩
  simp [candidate, candidateR, Raw.of]

theorem and (g : Guard) (d : BitVec 6) (a : BitVec 6) (b : BitVec 6) : Statement (.and g d a b) := by
  rintro - _ ⟨⟩
  simp [candidate, candidateR, Raw.of]

theorem andImm (g : Guard) (d : BitVec 6) (a : BitVec 6) (imm : BitVec 32) : Statement (.andImm g d a imm) := by
  rintro - _ ⟨⟩
  simp [candidate, candidateI, Raw.of]

theorem or (g : Guard) (d : BitVec 6) (a : BitVec 6) (b : BitVec 6) : Statement (.or g d a b) := by
  rintro - _ ⟨⟩
  simp [candidate, candidateR, Raw.of]

theorem orImm (g : Guard) (d : BitVec 6) (a : BitVec 6) (imm : BitVec 32) : Statement (.orImm g d a imm) := by
  rintro - _ ⟨⟩
  simp [candidate, candidateI, Raw.of]

theorem xor (g : Guard) (d : BitVec 6) (a : BitVec 6) (b : BitVec 6) : Statement (.xor g d a b) := by
  rintro - _ ⟨⟩
  simp [candidate, candidateR, Raw.of]

theorem xorImm (g : Guard) (d : BitVec 6) (a : BitVec 6) (imm : BitVec 32) : Statement (.xorImm g d a imm) := by
  rintro - _ ⟨⟩
  simp [candidate, candidateI, Raw.of]

theorem andn (g : Guard) (d : BitVec 6) (a : BitVec 6) (b : BitVec 6) : Statement (.andn g d a b) := by
  rintro - _ ⟨⟩
  simp [candidate, candidateR, Raw.of]

theorem andnImm (g : Guard) (d : BitVec 6) (a : BitVec 6) (imm : BitVec 32) : Statement (.andnImm g d a imm) := by
  rintro - _ ⟨⟩
  simp [candidate, candidateI, Raw.of]

theorem shl (g : Guard) (d : BitVec 6) (a : BitVec 6) (b : BitVec 6) : Statement (.shl g d a b) := by
  rintro - _ ⟨⟩
  simp [candidate, candidateR, Raw.of]

theorem shlImm (g : Guard) (d : BitVec 6) (a : BitVec 6) (imm : BitVec 32) : Statement (.shlImm g d a imm) := by
  rintro - _ ⟨⟩
  simp [candidate, candidateI, Raw.of]

theorem shr (g : Guard) (d : BitVec 6) (a : BitVec 6) (b : BitVec 6) : Statement (.shr g d a b) := by
  rintro - _ ⟨⟩
  simp [candidate, candidateR, Raw.of]

theorem shrImm (g : Guard) (d : BitVec 6) (a : BitVec 6) (imm : BitVec 32) : Statement (.shrImm g d a imm) := by
  rintro - _ ⟨⟩
  simp [candidate, candidateI, Raw.of]

theorem sar (g : Guard) (d : BitVec 6) (a : BitVec 6) (b : BitVec 6) : Statement (.sar g d a b) := by
  rintro - _ ⟨⟩
  simp [candidate, candidateR, Raw.of]

theorem sarImm (g : Guard) (d : BitVec 6) (a : BitVec 6) (imm : BitVec 32) : Statement (.sarImm g d a imm) := by
  rintro - _ ⟨⟩
  simp [candidate, candidateI, Raw.of]

theorem rol (g : Guard) (d : BitVec 6) (a : BitVec 6) (b : BitVec 6) : Statement (.rol g d a b) := by
  rintro - _ ⟨⟩
  simp [candidate, candidateR, Raw.of]

theorem rolImm (g : Guard) (d : BitVec 6) (a : BitVec 6) (imm : BitVec 32) : Statement (.rolImm g d a imm) := by
  rintro - _ ⟨⟩
  simp [candidate, candidateI, Raw.of]

theorem min (g : Guard) (d : BitVec 6) (a : BitVec 6) (b : BitVec 6) : Statement (.min g d a b) := by
  rintro - _ ⟨⟩
  simp [candidate, candidateR, Raw.of]

theorem minImm (g : Guard) (d : BitVec 6) (a : BitVec 6) (imm : BitVec 32) : Statement (.minImm g d a imm) := by
  rintro - _ ⟨⟩
  simp [candidate, candidateI, Raw.of]

theorem max (g : Guard) (d : BitVec 6) (a : BitVec 6) (b : BitVec 6) : Statement (.max g d a b) := by
  rintro - _ ⟨⟩
  simp [candidate, candidateR, Raw.of]

theorem maxImm (g : Guard) (d : BitVec 6) (a : BitVec 6) (imm : BitVec 32) : Statement (.maxImm g d a imm) := by
  rintro - _ ⟨⟩
  simp [candidate, candidateI, Raw.of]

theorem minn (g : Guard) (d : BitVec 6) (a : BitVec 6) (b : BitVec 6) : Statement (.minn g d a b) := by
  rintro - _ ⟨⟩
  simp [candidate, candidateR, Raw.of]

theorem minnImm (g : Guard) (d : BitVec 6) (a : BitVec 6) (imm : BitVec 32) : Statement (.minnImm g d a imm) := by
  rintro - _ ⟨⟩
  simp [candidate, candidateI, Raw.of]

theorem maxn (g : Guard) (d : BitVec 6) (a : BitVec 6) (b : BitVec 6) : Statement (.maxn g d a b) := by
  rintro - _ ⟨⟩
  simp [candidate, candidateR, Raw.of]

theorem maxnImm (g : Guard) (d : BitVec 6) (a : BitVec 6) (imm : BitVec 32) : Statement (.maxnImm g d a imm) := by
  rintro - _ ⟨⟩
  simp [candidate, candidateI, Raw.of]

theorem cmp (g : Guard) (ty : Ty) (cond : Cond) (d : BitVec 3) (a : BitVec 6) (b : BitVec 6) : Statement (.cmp g ty cond d a b) := by
  rintro - _ ⟨⟩
  simp [candidate, candidateR, Raw.of]

theorem cmpImm (g : Guard) (ty : Ty) (cond : Cond) (d : BitVec 3) (a : BitVec 6) (imm : BitVec 32) : Statement (.cmpImm g ty cond d a imm) := by
  rintro - _ ⟨⟩
  simp [candidate, candidateI, Raw.of]

theorem sel (g : Guard) (d : BitVec 6) (a : BitVec 6) (b : BitVec 6) (c : BitVec 3) : Statement (.sel g d a b c) := by
  rintro - _ ⟨⟩
  simp [candidate, candidateR, Raw.of]

theorem mov (g : Guard) (d : BitVec 6) (a : BitVec 6) : Statement (.mov g d a) := by
  rintro - _ ⟨⟩
  simp [candidate, candidateR, Raw.of]

theorem movi (g : Guard) (d : BitVec 6) (imm : BitVec 32) : Statement (.movi g d imm) := by
  rintro - _ ⟨⟩
  simp [candidate, candidateI, Raw.of]

theorem movh (g : Guard) (d : BitVec 6) (imm : BitVec 32) : Statement (.movh g d imm) := by
  rintro - _ ⟨⟩
  simp [candidate, candidateI, Raw.of]

theorem lea (g : Guard) (d : BitVec 6) (mem : MemOp) : Statement (.lea g d mem) := by
  rintro - _ ⟨⟩
  simp [candidate, candidateI, Raw.of]

theorem clz (g : Guard) (d : BitVec 6) (a : BitVec 6) : Statement (.clz g d a) := by
  rintro - _ ⟨⟩
  simp [candidate, candidateR, Raw.of]

theorem ctz (g : Guard) (d : BitVec 6) (a : BitVec 6) : Statement (.ctz g d a) := by
  rintro - _ ⟨⟩
  simp [candidate, candidateR, Raw.of]

theorem popc (g : Guard) (d : BitVec 6) (a : BitVec 6) : Statement (.popc g d a) := by
  rintro - _ ⟨⟩
  simp [candidate, candidateR, Raw.of]

theorem bfx (g : Guard) (sx : Bool) (d : BitVec 6) (a : BitVec 6) (bf : BitField) : Statement (.bfx g sx d a bf) := by
  rintro - _ ⟨⟩
  simp [candidate, candidateR, Raw.of]

theorem bfi (g : Guard) (d : BitVec 6) (a : BitVec 6) (bf : BitField) : Statement (.bfi g d a bf) := by
  rintro - _ ⟨⟩
  simp [candidate, candidateR, Raw.of]

theorem sext (g : Guard) (ty : Ty) (d : BitVec 6) (a : BitVec 6) : Statement (.sext g ty d a) := by
  rintro - _ ⟨⟩
  simp [candidate, candidateR, Raw.of]

theorem zext (g : Guard) (ty : Ty) (d : BitVec 6) (a : BitVec 6) : Statement (.zext g ty d a) := by
  rintro - _ ⟨⟩
  simp [candidate, candidateR, Raw.of]

theorem divstep (g : Guard) (q : Bool) (d : BitVec 6) (a : BitVec 6) (b : BitVec 6) (c : BitVec 6) (j : BitVec 3) : Statement (.divstep g q d a b c j) := by
  rintro - _ ⟨⟩
  simp [candidate, candidateR, Raw.of]

theorem pset (g : Guard) (d : BitVec 3) (a : BitVec 6) : Statement (.pset g d a) := by
  rintro - _ ⟨⟩
  simp [candidate, candidateR, Raw.of]

theorem pand (g : Guard) (d : BitVec 3) (a : BitVec 3) (b : BitVec 3) : Statement (.pand g d a b) := by
  rintro - _ ⟨⟩
  simp [candidate, candidateR, Raw.of]

theorem por (g : Guard) (d : BitVec 3) (a : BitVec 3) (b : BitVec 3) : Statement (.por g d a b) := by
  rintro - _ ⟨⟩
  simp [candidate, candidateR, Raw.of]

theorem pxor (g : Guard) (d : BitVec 3) (a : BitVec 3) (b : BitVec 3) : Statement (.pxor g d a b) := by
  rintro - _ ⟨⟩
  simp [candidate, candidateR, Raw.of]

theorem pnot (g : Guard) (d : BitVec 3) (a : BitVec 3) : Statement (.pnot g d a) := by
  rintro - _ ⟨⟩
  simp [candidate, candidateR, Raw.of]

theorem mfs (g : Guard) (d : BitVec 6) (sr : SReg) : Statement (.mfs g d sr) := by
  rintro - _ ⟨⟩
  simp [candidate, candidateR, Raw.of]

theorem mts (g : Guard) (sr : SReg) (a : BitVec 6) : Statement (.mts g sr a) := by
  rintro - _ ⟨⟩
  simp [candidate, candidateR, Raw.of]

theorem vadd (g : Guard) (ty : Ty) (rm : Rm) (sat : Bool) (vm : VMask) (d : BitVec 6) (a : BitVec 6) (b : BitVec 6) : Statement (.vadd g ty rm sat vm d a b) := by
  rintro - _ ⟨⟩
  simp [candidate, candidateR, Raw.of]

theorem vsub (g : Guard) (ty : Ty) (rm : Rm) (sat : Bool) (vm : VMask) (d : BitVec 6) (a : BitVec 6) (b : BitVec 6) : Statement (.vsub g ty rm sat vm d a b) := by
  rintro - _ ⟨⟩
  simp [candidate, candidateR, Raw.of]

theorem vmul (g : Guard) (ty : Ty) (rm : Rm) (sat : Bool) (vm : VMask) (d : BitVec 6) (a : BitVec 6) (b : BitVec 6) : Statement (.vmul g ty rm sat vm d a b) := by
  rintro - _ ⟨⟩
  simp [candidate, candidateR, Raw.of]

theorem vfma (g : Guard) (ty : Ty) (rm : Rm) (sat : Bool) (vm : VMask) (d : BitVec 6) (a : BitVec 6) (b : BitVec 6) (c : BitVec 6) : Statement (.vfma g ty rm sat vm d a b c) := by
  rintro - _ ⟨⟩
  simp [candidate, candidateR, Raw.of]

theorem vfms (g : Guard) (ty : Ty) (rm : Rm) (sat : Bool) (vm : VMask) (d : BitVec 6) (a : BitVec 6) (b : BitVec 6) (c : BitVec 6) : Statement (.vfms g ty rm sat vm d a b c) := by
  rintro - _ ⟨⟩
  simp [candidate, candidateR, Raw.of]

theorem vmin (g : Guard) (ty : Ty) (vm : VMask) (d : BitVec 6) (a : BitVec 6) (b : BitVec 6) : Statement (.vmin g ty vm d a b) := by
  rintro - _ ⟨⟩
  simp [candidate, candidateR, Raw.of]

theorem vmax (g : Guard) (ty : Ty) (vm : VMask) (d : BitVec 6) (a : BitVec 6) (b : BitVec 6) : Statement (.vmax g ty vm d a b) := by
  rintro - _ ⟨⟩
  simp [candidate, candidateR, Raw.of]

theorem vabs (g : Guard) (ty : Ty) (sat : Bool) (vm : VMask) (d : BitVec 6) (a : BitVec 6) : Statement (.vabs g ty sat vm d a) := by
  rintro - _ ⟨⟩
  simp [candidate, candidateR, Raw.of]

theorem vneg (g : Guard) (ty : Ty) (sat : Bool) (vm : VMask) (d : BitVec 6) (a : BitVec 6) : Statement (.vneg g ty sat vm d a) := by
  rintro - _ ⟨⟩
  simp [candidate, candidateR, Raw.of]

theorem vcmp (g : Guard) (ty : Ty) (cond : Cond) (vm : VMask) (d : BitVec 3) (a : BitVec 6) (b : BitVec 6) : Statement (.vcmp g ty cond vm d a b) := by
  rintro - _ ⟨⟩
  simp [candidate, candidateR, Raw.of]

theorem vsel (g : Guard) (vm : VMask) (d : BitVec 6) (a : BitVec 6) (b : BitVec 6) (c : BitVec 3) : Statement (.vsel g vm d a b c) := by
  rintro - _ ⟨⟩
  simp [candidate, candidateR, Raw.of]

theorem vmulh (g : Guard) (ty : Ty) (vm : VMask) (d : BitVec 6) (a : BitVec 6) (b : BitVec 6) : Statement (.vmulh g ty vm d a b) := by
  rintro - _ ⟨⟩
  simp [candidate, candidateR, Raw.of]

theorem vclz (g : Guard) (ty : Ty) (vm : VMask) (d : BitVec 6) (a : BitVec 6) : Statement (.vclz g ty vm d a) := by
  rintro - _ ⟨⟩
  simp [candidate, candidateR, Raw.of]

theorem vpopc (g : Guard) (ty : Ty) (vm : VMask) (d : BitVec 6) (a : BitVec 6) : Statement (.vpopc g ty vm d a) := by
  rintro - _ ⟨⟩
  simp [candidate, candidateR, Raw.of]

theorem vavg (g : Guard) (ty : Ty) (vm : VMask) (d : BitVec 6) (a : BitVec 6) (b : BitVec 6) : Statement (.vavg g ty vm d a b) := by
  rintro - _ ⟨⟩
  simp [candidate, candidateR, Raw.of]

theorem vshl (g : Guard) (ty : Ty) (vm : VMask) (d : BitVec 6) (a : BitVec 6) (b : BitVec 6) : Statement (.vshl g ty vm d a b) := by
  rintro - _ ⟨⟩
  simp [candidate, candidateR, Raw.of]

theorem vshr (g : Guard) (ty : Ty) (vm : VMask) (d : BitVec 6) (a : BitVec 6) (b : BitVec 6) : Statement (.vshr g ty vm d a b) := by
  rintro - _ ⟨⟩
  simp [candidate, candidateR, Raw.of]

theorem vsar (g : Guard) (ty : Ty) (vm : VMask) (d : BitVec 6) (a : BitVec 6) (b : BitVec 6) : Statement (.vsar g ty vm d a b) := by
  rintro - _ ⟨⟩
  simp [candidate, candidateR, Raw.of]

theorem vand (g : Guard) (vm : VMask) (d : BitVec 6) (a : BitVec 6) (b : BitVec 6) : Statement (.vand g vm d a b) := by
  rintro - _ ⟨⟩
  simp [candidate, candidateR, Raw.of]

theorem vor (g : Guard) (vm : VMask) (d : BitVec 6) (a : BitVec 6) (b : BitVec 6) : Statement (.vor g vm d a b) := by
  rintro - _ ⟨⟩
  simp [candidate, candidateR, Raw.of]

theorem vxor (g : Guard) (vm : VMask) (d : BitVec 6) (a : BitVec 6) (b : BitVec 6) : Statement (.vxor g vm d a b) := by
  rintro - _ ⟨⟩
  simp [candidate, candidateR, Raw.of]

theorem vperm (g : Guard) (ty : Ty) (vm : VMask) (d : BitVec 6) (a : BitVec 6) (b : BitVec 6) (c : BitVec 6) : Statement (.vperm g ty vm d a b c) := by
  rintro - _ ⟨⟩
  simp [candidate, candidateR, Raw.of]

theorem vbcast (g : Guard) (ty : Ty) (ramp : Bool) (vm : VMask) (d : BitVec 6) (b : BitVec 6) : Statement (.vbcast g ty ramp vm d b) := by
  rintro - _ ⟨⟩
  simp [candidate, candidateR, Raw.of]

theorem vbcastImm (g : Guard) (ty : Ty) (ramp : Bool) (vm : VMask) (d : BitVec 6) (imm : BitVec 32) : Statement (.vbcastImm g ty ramp vm d imm) := by
  rintro - _ ⟨⟩
  simp [candidate, candidateI, Raw.of]

theorem vshuf (g : Guard) (ty : Ty) (sh : Shuffle) (vm : VMask) (d : BitVec 6) (a : BitVec 6) (b : BitVec 6) : Statement (.vshuf g ty sh vm d a b) := by
  rintro - _ ⟨⟩
  simp [candidate, candidateR, Raw.of]

theorem vred (g : Guard) (ty : Ty) (rm : Rm) (sat : Bool) (op : RedOp) (mk : BitVec 3) (d : BitVec 6) (a : BitVec 6) : Statement (.vred g ty rm sat op mk d a) := by
  rintro - _ ⟨⟩
  simp [candidate, candidateR, Raw.of]

theorem vdot (g : Guard) (ty : Ty) (rm : Rm) (mk : BitVec 3) (d : BitVec 6) (a : BitVec 6) (b : BitVec 6) (c : BitVec 6) : Statement (.vdot g ty rm mk d a b c) := by
  rintro - _ ⟨⟩
  simp [candidate, candidateR, Raw.of]

theorem vcvt (g : Guard) (ty : Ty) (rm : Rm) (sat : Bool) (cv : ConvSel) (vm : VMask) (d : BitVec 6) (a : BitVec 6) : Statement (.vcvt g ty rm sat cv vm d a) := by
  rintro - _ ⟨⟩
  simp [candidate, candidateR, Raw.of]

theorem vsrnd (g : Guard) (ty : Ty) (sat : Bool) (cv : ConvSel) (vm : VMask) (d : BitVec 6) (a : BitVec 6) (c : BitVec 6) (k : BitVec 5) : Statement (.vsrnd g ty sat cv vm d a c k) := by
  rintro - _ ⟨⟩
  simp [candidate, candidateR, Raw.of]

theorem vpack (g : Guard) (ty : Ty) (rm : Rm) (sat : Bool) (cv : ConvSel) (d : BitVec 6) (a : BitVec 6) (b : BitVec 6) (c : BitVec 6) : Statement (.vpack g ty rm sat cv d a b c) := by
  rintro - _ ⟨⟩
  simp [candidate, candidateR, Raw.of]

theorem vunpk (g : Guard) (ty : Ty) (rm : Rm) (sat : Bool) (cv : UnpackSel) (d : BitVec 6) (a : BitVec 6) (b : BitVec 6) : Statement (.vunpk g ty rm sat cv d a b) := by
  rintro - _ ⟨⟩
  simp [candidate, candidateR, Raw.of]

theorem vscale (g : Guard) (ty : Ty) (src : Ty) (d : BitVec 6) (a : BitVec 6) (c : BitVec 6) : Statement (.vscale g ty src d a c) := by
  rintro - _ ⟨⟩
  simp [candidate, candidateR, Raw.of]

theorem vrcp (g : Guard) (ty : Ty) (vm : VMask) (d : BitVec 6) (a : BitVec 6) : Statement (.vrcp g ty vm d a) := by
  rintro - _ ⟨⟩
  simp [candidate, candidateR, Raw.of]

theorem vrsq (g : Guard) (ty : Ty) (vm : VMask) (d : BitVec 6) (a : BitVec 6) : Statement (.vrsq g ty vm d a) := by
  rintro - _ ⟨⟩
  simp [candidate, candidateR, Raw.of]

theorem vexp2 (g : Guard) (ty : Ty) (vm : VMask) (d : BitVec 6) (a : BitVec 6) : Statement (.vexp2 g ty vm d a) := by
  rintro - _ ⟨⟩
  simp [candidate, candidateR, Raw.of]

theorem vlog2 (g : Guard) (ty : Ty) (vm : VMask) (d : BitVec 6) (a : BitVec 6) : Statement (.vlog2 g ty vm d a) := by
  rintro - _ ⟨⟩
  simp [candidate, candidateR, Raw.of]

theorem vstep (g : Guard) (ty : Ty) (rm : Rm) (sat : Bool) (kind : StepKind) (vm : VMask) (d : BitVec 6) (a : BitVec 6) (b : BitVec 6) (c : BitVec 6) : Statement (.vstep g ty rm sat kind vm d a b c) := by
  rintro - _ ⟨⟩
  simp [candidate, candidateR, Raw.of]

theorem vrng (g : Guard) (vm : VMask) (d : BitVec 6) (a : BitVec 6) (b : BitVec 6) : Statement (.vrng g vm d a b) := by
  rintro - _ ⟨⟩
  simp [candidate, candidateR, Raw.of]

theorem mand (g : Guard) (d : BitVec 3) (a : BitVec 3) (b : BitVec 3) : Statement (.mand g d a b) := by
  rintro - _ ⟨⟩
  simp [candidate, candidateR, Raw.of]

theorem mor (g : Guard) (d : BitVec 3) (a : BitVec 3) (b : BitVec 3) : Statement (.mor g d a b) := by
  rintro - _ ⟨⟩
  simp [candidate, candidateR, Raw.of]

theorem mnot (g : Guard) (d : BitVec 3) (a : BitVec 3) : Statement (.mnot g d a) := by
  rintro - _ ⟨⟩
  simp [candidate, candidateR, Raw.of]

theorem ld (g : Guard) (ty : Ty) (d : BitVec 6) (mem : MemOp) : Statement (.ld g ty d mem) := by
  rintro - _ ⟨⟩
  simp [candidate, candidateM, Raw.of]

theorem st (g : Guard) (ty : Ty) (b : BitVec 6) (mem : MemOp) : Statement (.st g ty b mem) := by
  rintro - _ ⟨⟩
  simp [candidate, candidateM, Raw.of]

theorem ldv (g : Guard) (d : BitVec 6) (mem : MemOp) : Statement (.ldv g d mem) := by
  rintro - _ ⟨⟩
  simp [candidate, candidateM, Raw.of]

theorem stv (g : Guard) (b : BitVec 6) (mk : BitVec 3) (mem : MemOp) : Statement (.stv g b mk mem) := by
  rintro - _ ⟨⟩
  simp [candidate, candidateM, Raw.of]

theorem ldg (g : Guard) (ty : Ty) (d : BitVec 6) (mem : MemOp) : Statement (.ldg g ty d mem) := by
  rintro - _ ⟨⟩
  simp [candidate, candidateM, Raw.of]

theorem ldgV (g : Guard) (d : BitVec 6) (mem : MemOp) : Statement (.ldgV g d mem) := by
  rintro - _ ⟨⟩
  simp [candidate, candidateM, Raw.of]

theorem sts (g : Guard) (ty : Ty) (b : BitVec 6) (mem : MemOp) : Statement (.sts g ty b mem) := by
  rintro - _ ⟨⟩
  simp [candidate, candidateM, Raw.of]

theorem stsV (g : Guard) (b : BitVec 6) (mk : BitVec 3) (mem : MemOp) : Statement (.stsV g b mk mem) := by
  rintro - _ ⟨⟩
  simp [candidate, candidateM, Raw.of]

theorem stmask (g : Guard) (b : BitVec 3) (mem : MemOp) : Statement (.stmask g b mem) := by
  rintro - _ ⟨⟩
  simp [candidate, candidateM, Raw.of]

theorem stmaskP (g : Guard) (mem : MemOp) : Statement (.stmaskP g mem) := by
  rintro - _ ⟨⟩
  simp [candidate, candidateM, Raw.of]

theorem sig (g : Guard) (b : BitVec 6) (mem : MemOp) : Statement (.sig g b mem) := by
  rintro - _ ⟨⟩
  simp [candidate, candidateM, Raw.of]

theorem watch (g : Guard) (d : BitVec 6) (mem : MemOp) : Statement (.watch g d mem) := by
  rintro - _ ⟨⟩
  simp [candidate, candidateM, Raw.of]

theorem unwatch (g : Guard) (mem : MemOp) : Statement (.unwatch g mem) := by
  rintro - _ ⟨⟩
  simp [candidate, candidateM, Raw.of]

theorem unwatchAll (g : Guard) : Statement (.unwatchAll g) := by
  rintro - _ ⟨⟩
  simp [candidate, candidateM, Raw.of]

theorem give (g : Guard) (d : BitVec 6) (a : BitVec 6) (e : BitVec 5) : Statement (.give g d a e) := by
  rintro - _ ⟨⟩
  simp [candidate, candidateM, Raw.of]

theorem giveNb (g : Guard) (d : BitVec 6) (a : BitVec 6) (e : BitVec 5) : Statement (.giveNb g d a e) := by
  rintro - _ ⟨⟩
  simp [candidate, candidateM, Raw.of]

theorem reclaim (g : Guard) (d : BitVec 6) (eb : EntryBank) : Statement (.reclaim g d eb) := by
  rintro - _ ⟨⟩
  simp [candidate, candidateM, Raw.of]

theorem reclaimNb (g : Guard) (d : BitVec 6) (eb : EntryBank) : Statement (.reclaimNb g d eb) := by
  rintro - _ ⟨⟩
  simp [candidate, candidateM, Raw.of]

theorem bmapRead (g : Guard) (d : BitVec 6) (e : BitVec 5) : Statement (.bmapRead g d e) := by
  rintro - _ ⟨⟩
  simp [candidate, candidateM, Raw.of]

theorem bmapSwap (g : Guard) (ee : EntryPair) : Statement (.bmapSwap g ee) := by
  rintro - _ ⟨⟩
  simp [candidate, candidateM, Raw.of]

theorem bmapSet (g : Guard) (a : BitVec 6) (e : BitVec 5) : Statement (.bmapSet g a e) := by
  rintro - _ ⟨⟩
  simp [candidate, candidateM, Raw.of]

theorem bmapBank (g : Guard) (d : BitVec 6) (b : BitVec 6) : Statement (.bmapBank g d b) := by
  rintro - _ ⟨⟩
  simp [candidate, candidateM, Raw.of]

theorem drain (g : Guard) : Statement (.drain g) := by
  rintro - _ ⟨⟩
  simp [candidate, candidateM, Raw.of]

theorem drainBank (g : Guard) (e : BitVec 5) : Statement (.drainBank g e) := by
  rintro - _ ⟨⟩
  simp [candidate, candidateM, Raw.of]

theorem phase (g : Guard) (d : BitVec 6) : Statement (.phase g d) := by
  rintro - _ ⟨⟩
  simp [candidate, candidateM, Raw.of]

theorem phaseT (g : Guard) (imm : BitVec 32) : Statement (.phaseT g imm) := by
  rintro - _ ⟨⟩
  simp [candidate, candidateM, Raw.of]

theorem fence (g : Guard) (sc : Scope) : Statement (.fence g sc) := by
  rintro - _ ⟨⟩
  simp [candidate, candidateM, Raw.of]

theorem amo (g : Guard) (ty : Ty) (op : AmoOp) (d : BitVec 6) (b : BitVec 6) (mem : MemOp) : Statement (.amo g ty op d b mem) := by
  rintro - _ ⟨⟩
  simp [candidate, candidateM, Raw.of]

theorem red (g : Guard) (ty : Ty) (op : AmoOp) (b : BitVec 6) (mem : MemOp) : Statement (.red g ty op b mem) := by
  rintro - _ ⟨⟩
  simp [candidate, candidateM, Raw.of]

theorem lrw (g : Guard) (d : BitVec 6) (pd : BitVec 3) (mem : MemOp) : Statement (.lrw g d pd mem) := by
  rintro - _ ⟨⟩
  simp [candidate, candidateM, Raw.of]

theorem sch (g : Guard) (b : BitVec 6) (mem : MemOp) : Statement (.sch g b mem) := by
  rintro - _ ⟨⟩
  simp [candidate, candidateM, Raw.of]

theorem relq (g : Guard) (mem : MemOp) : Statement (.relq g mem) := by
  rintro - _ ⟨⟩
  simp [candidate, candidateM, Raw.of]

theorem nop (g : Guard) : Statement (.nop g) := by
  rintro - _ ⟨⟩
  simp [candidate, candidateB, Raw.of]

theorem br (g : Guard) (nul : Nul) (imm : BitVec 32) : Statement (.br g nul imm) := by
  rintro - _ ⟨⟩
  simp [candidate, candidateB, Raw.of]

theorem bra (g : Guard) (nul : Nul) (imm : BitVec 32) : Statement (.bra g nul imm) := by
  rintro - _ ⟨⟩
  simp [candidate, candidateB, Raw.of]

theorem brx (g : Guard) (nul : Nul) (a : BitVec 6) (imm : BitVec 32) : Statement (.brx g nul a imm) := by
  rintro - _ ⟨⟩
  simp [candidate, candidateB, Raw.of]

theorem call (g : Guard) (nul : Nul) (imm : BitVec 32) : Statement (.call g nul imm) := by
  rintro - _ ⟨⟩
  simp [candidate, candidateB, Raw.of]

theorem callR (g : Guard) (nul : Nul) (a : BitVec 6) (imm : BitVec 32) : Statement (.callR g nul a imm) := by
  rintro - _ ⟨⟩
  simp [candidate, candidateB, Raw.of]

theorem ret (g : Guard) (nul : Nul) (a : BitVec 6) : Statement (.ret g nul a) := by
  rintro - _ ⟨⟩
  simp [candidate, candidateB, Raw.of]

theorem brk (g : Guard) (x : BitVec 16) : Statement (.brk g x) := by
  rintro - _ ⟨⟩
  simp [candidate, candidateB, Raw.of]

theorem mma (g : Guard) (ty : Ty) (z : Bool) (sat : Bool) (d : BitVec 4) (a : BitVec 6) (b : BitVec 6) (c : BitVec 6) : Statement (.mma g ty z sat d a b c) := by
  rintro - _ ⟨⟩
  simp [candidate, candidateX, Raw.of]

theorem mmat (g : Guard) (ty : Ty) (z : Bool) (sat : Bool) (d : BitVec 4) (a : BitVec 6) (b : BitVec 6) (c : BitVec 6) (x : BitVec 16) (imm : BitVec 32) : Statement (.mmat g ty z sat d a b c x imm) := by
  rintro - _ ⟨⟩
  simp [candidate, candidateX, Raw.of]

theorem mzero (g : Guard) (ty : Ty) (d : BitVec 4) : Statement (.mzero g ty d) := by
  rintro - _ ⟨⟩
  simp [candidate, candidateX, Raw.of]

theorem mldc (g : Guard) (ty : Ty) (d : BitVec 4) (a : BitVec 6) : Statement (.mldc g ty d a) := by
  rintro - _ ⟨⟩
  simp [candidate, candidateX, Raw.of]

theorem mstc (g : Guard) (ty : Ty) (rm : Rm) (sat : Bool) (d : BitVec 6) (a : BitVec 4) : Statement (.mstc g ty rm sat d a) := by
  rintro - _ ⟨⟩
  simp [candidate, candidateX, Raw.of]

theorem lnpush (g : Guard) (dir : Dir) (a : BitVec 6) : Statement (.lnpush g dir a) := by
  rintro - _ ⟨⟩
  simp [candidate, candidateX, Raw.of]

theorem lnpushT (g : Guard) (dir : Dir) (a : BitVec 6) (imm : BitVec 32) : Statement (.lnpushT g dir a imm) := by
  rintro - _ ⟨⟩
  simp [candidate, candidateX, Raw.of]

theorem lncfg (g : Guard) (d : BitVec 6) : Statement (.lncfg g d) := by
  rintro - _ ⟨⟩
  simp [candidate, candidateX, Raw.of]

theorem lncfgSet (g : Guard) (d : BitVec 6) (a : BitVec 6) : Statement (.lncfgSet g d a) := by
  rintro - _ ⟨⟩
  simp [candidate, candidateX, Raw.of]

theorem tdef (g : Guard) (d : BitVec 6) (mem : MemOp) : Statement (.tdef g d mem) := by
  rintro - _ ⟨⟩
  simp [candidate, candidateX, Raw.of]

theorem tget (g : Guard) (d : BitVec 6) (a : BitVec 6) (w : BitVec 3) : Statement (.tget g d a w) := by
  rintro - _ ⟨⟩
  simp [candidate, candidateX, Raw.of]

theorem tseq (g : Guard) (d : BitVec 6) (a : BitVec 6) (imm : BitVec 32) : Statement (.tseq g d a imm) := by
  rintro - _ ⟨⟩
  simp [candidate, candidateX, Raw.of]

theorem tseqAdd (g : Guard) (d : BitVec 6) (a : BitVec 6) (imm : BitVec 32) : Statement (.tseqAdd g d a imm) := by
  rintro - _ ⟨⟩
  simp [candidate, candidateX, Raw.of]

theorem tseqBar (g : Guard) (d : BitVec 6) (a : BitVec 6) (imm : BitVec 32) : Statement (.tseqBar g d a imm) := by
  rintro - _ ⟨⟩
  simp [candidate, candidateX, Raw.of]

theorem copy (g : Guard) (edge : Bool) (out : Bool) (tm : Bool) (d : BitVec 6) (a : BitVec 6) (b : BitVec 6) (c : BitVec 6) (x : BitVec 16) (imm : BitVec 32) : Statement (.copy g edge out tm d a b c x imm) := by
  rintro - _ ⟨⟩
  simp [candidate, candidateA, Raw.of]

theorem gath (g : Guard) (edge : Bool) (tm : Bool) (d : BitVec 6) (a : BitVec 6) (b : BitVec 6) (c : BitVec 6) (x : BitVec 16) (imm : BitVec 32) : Statement (.gath g edge tm d a b c x imm) := by
  rintro - _ ⟨⟩
  simp [candidate, candidateA, Raw.of]

theorem scat (g : Guard) (edge : Bool) (tm : Bool) (d : BitVec 6) (a : BitVec 6) (b : BitVec 6) (c : BitVec 6) (x : BitVec 16) (imm : BitVec 32) : Statement (.scat g edge tm d a b c x imm) := by
  rintro - _ ⟨⟩
  simp [candidate, candidateA, Raw.of]

theorem publ (g : Guard) (tm : Bool) (a : BitVec 6) (b : BitVec 6) (c : BitVec 6) (x : BitVec 16) (imm : BitVec 32) : Statement (.publ g tm a b c x imm) := by
  rintro - _ ⟨⟩
  simp [candidate, candidateA, Raw.of]

theorem bari (g : Guard) (b : BitVec 6) (mem : MemOp) : Statement (.bari g b mem) := by
  rintro - _ ⟨⟩
  simp [candidate, candidateA, Raw.of]

theorem barw (g : Guard) (d : BitVec 6) (b : BitVec 6) (mem : MemOp) : Statement (.barw g d b mem) := by
  rintro - _ ⟨⟩
  simp [candidate, candidateA, Raw.of]

theorem barwNf (g : Guard) (d : BitVec 6) (b : BitVec 6) (mem : MemOp) : Statement (.barwNf g d b mem) := by
  rintro - _ ⟨⟩
  simp [candidate, candidateA, Raw.of]

theorem barq (g : Guard) (d : BitVec 6) (mem : MemOp) : Statement (.barq g d mem) := by
  rintro - _ ⟨⟩
  simp [candidate, candidateA, Raw.of]

theorem send (g : Guard) (tm : Bool) (a : BitVec 6) (b : BitVec 6) (c : BitVec 6) (len : BitVec 13) (imm : BitVec 32) : Statement (.send g tm a b c len imm) := by
  rintro - _ ⟨⟩
  simp [candidate, candidateA, Raw.of]

theorem sendSig (g : Guard) (tm : Bool) (a : BitVec 6) (b : BitVec 6) (c : BitVec 6) (imm : BitVec 32) : Statement (.sendSig g tm a b c imm) := by
  rintro - _ ⟨⟩
  simp [candidate, candidateA, Raw.of]

theorem sends (g : Guard) (tm : Bool) (d : BitVec 6) (a : BitVec 6) (b : BitVec 6) (c : BitVec 6) (x : BitVec 16) (imm : BitVec 32) : Statement (.sends g tm d a b c x imm) := by
  rintro - _ ⟨⟩
  simp [candidate, candidateA, Raw.of]

theorem mcast (g : Guard) (tm : Bool) (d : BitVec 6) (a : BitVec 6) (b : BitVec 6) (c : BitVec 6) (len : BitVec 13) (imm : BitVec 32) : Statement (.mcast g tm d a b c len imm) := by
  rintro - _ ⟨⟩
  simp [candidate, candidateA, Raw.of]

theorem ibpop (g : Guard) (d : BitVec 6) (ibx : BitVec 4) : Statement (.ibpop g d ibx) := by
  rintro - _ ⟨⟩
  simp [candidate, candidateA, Raw.of]

theorem ibpopNw (g : Guard) (d : BitVec 6) (ibx : BitVec 4) : Statement (.ibpopNw g d ibx) := by
  rintro - _ ⟨⟩
  simp [candidate, candidateA, Raw.of]

theorem ibpopFree (g : Guard) (a : BitVec 6) (ibx : BitVec 4) : Statement (.ibpopFree g a ibx) := by
  rintro - _ ⟨⟩
  simp [candidate, candidateA, Raw.of]

theorem hop (g : Guard) (np : Bool) (a : BitVec 6) (core : BitVec 3) : Statement (.hop g np a core) := by
  rintro - _ ⟨⟩
  simp [candidate, candidateA, Raw.of]

theorem chanOpen (g : Guard) (d : BitVec 6) (a : BitVec 6) (ch : BitVec 6) : Statement (.chanOpen g d a ch) := by
  rintro - _ ⟨⟩
  simp [candidate, candidateA, Raw.of]

theorem chanIbx (g : Guard) (d : BitVec 6) (a : BitVec 6) (ibx : BitVec 4) : Statement (.chanIbx g d a ibx) := by
  rintro - _ ⟨⟩
  simp [candidate, candidateA, Raw.of]

theorem chanQch (g : Guard) (d : BitVec 6) (ch : BitVec 6) : Statement (.chanQch g d ch) := by
  rintro - _ ⟨⟩
  simp [candidate, candidateA, Raw.of]

theorem chanQib (g : Guard) (d : BitVec 6) (ibx : BitVec 4) : Statement (.chanQib g d ibx) := by
  rintro - _ ⟨⟩
  simp [candidate, candidateA, Raw.of]

theorem rtwrRb (g : Guard) (a : BitVec 6) (b : BitVec 6) (c : BitVec 6) : Statement (.rtwrRb g a b c) := by
  rintro - _ ⟨⟩
  simp [candidate, candidateA, Raw.of]

theorem rtwrDt (g : Guard) (a : BitVec 6) (b : BitVec 6) (c : BitVec 6) : Statement (.rtwrDt g a b c) := by
  rintro - _ ⟨⟩
  simp [candidate, candidateA, Raw.of]

theorem rtwrSr (g : Guard) (a : BitVec 6) (b : BitVec 6) (c : BitVec 6) : Statement (.rtwrSr g a b c) := by
  rintro - _ ⟨⟩
  simp [candidate, candidateA, Raw.of]

theorem spawn (g : Guard) (d : BitVec 6) (a : BitVec 6) (b : BitVec 6) (imm : BitVec 32) : Statement (.spawn g d a b imm) := by
  rintro - _ ⟨⟩
  simp [candidate, candidateS, Raw.of]

theorem reap (g : Guard) (d : BitVec 6) (a : BitVec 6) (pd : BitVec 3) : Statement (.reap g d a pd) := by
  rintro - _ ⟨⟩
  simp [candidate, candidateS, Raw.of]

theorem reapNb (g : Guard) (d : BitVec 6) (a : BitVec 6) (pd : BitVec 3) : Statement (.reapNb g d a pd) := by
  rintro - _ ⟨⟩
  simp [candidate, candidateS, Raw.of]

theorem reapKill (g : Guard) (d : BitVec 6) (a : BitVec 6) (pd : BitVec 3) : Statement (.reapKill g d a pd) := by
  rintro - _ ⟨⟩
  simp [candidate, candidateS, Raw.of]

theorem yield (g : Guard) : Statement (.yield g) := by
  rintro - _ ⟨⟩
  simp [candidate, candidateS, Raw.of]

theorem sleep (g : Guard) (d : BitVec 6) (a : BitVec 6) : Statement (.sleep g d a) := by
  rintro - _ ⟨⟩
  simp [candidate, candidateS, Raw.of]

theorem wake (g : Guard) (a : BitVec 6) : Statement (.wake g a) := by
  rintro - _ ⟨⟩
  simp [candidate, candidateS, Raw.of]

theorem wakeAll (g : Guard) : Statement (.wakeAll g) := by
  rintro - _ ⟨⟩
  simp [candidate, candidateS, Raw.of]

theorem rfork (g : Guard) (d : BitVec 6) (a : BitVec 6) (b : BitVec 6) (c : BitVec 3) (imm : BitVec 32) : Statement (.rfork g d a b c imm) := by
  rintro - _ ⟨⟩
  simp [candidate, candidateS, Raw.of]

theorem join (g : Guard) (a : BitVec 6) (c : BitVec 3) (imm : BitVec 32) : Statement (.join g a c imm) := by
  rintro - _ ⟨⟩
  simp [candidate, candidateS, Raw.of]

theorem knotSet (g : Guard) (b : BitVec 6) (mem : MemOp) : Statement (.knotSet g b mem) := by
  rintro - _ ⟨⟩
  simp [candidate, candidateS, Raw.of]

theorem knotAdd (g : Guard) (b : BitVec 6) (mem : MemOp) : Statement (.knotAdd g b mem) := by
  rintro - _ ⟨⟩
  simp [candidate, candidateS, Raw.of]

theorem knotHold (g : Guard) (b : BitVec 6) (mem : MemOp) : Statement (.knotHold g b mem) := by
  rintro - _ ⟨⟩
  simp [candidate, candidateS, Raw.of]

theorem knotRd (g : Guard) (d : BitVec 6) (mem : MemOp) : Statement (.knotRd g d mem) := by
  rintro - _ ⟨⟩
  simp [candidate, candidateS, Raw.of]

theorem knotWait (g : Guard) (d : BitVec 6) (mem : MemOp) : Statement (.knotWait g d mem) := by
  rintro - _ ⟨⟩
  simp [candidate, candidateS, Raw.of]

theorem launch (g : Guard) (d : BitVec 6) (mem : MemOp) : Statement (.launch g d mem) := by
  rintro - _ ⟨⟩
  simp [candidate, candidateS, Raw.of]

theorem launchNb (g : Guard) (d : BitVec 6) (mem : MemOp) : Statement (.launchNb g d mem) := by
  rintro - _ ⟨⟩
  simp [candidate, candidateS, Raw.of]

theorem taskend (g : Guard) (a : BitVec 6) : Statement (.taskend g a) := by
  rintro - _ ⟨⟩
  simp [candidate, candidateS, Raw.of]

theorem vstage (g : Guard) (d : BitVec 6) : Statement (.vstage g d) := by
  rintro - _ ⟨⟩
  simp [candidate, candidateS, Raw.of]

theorem vpub (g : Guard) (d : BitVec 6) (a : BitVec 6) : Statement (.vpub g d a) := by
  rintro - _ ⟨⟩
  simp [candidate, candidateS, Raw.of]

theorem vdiscard (g : Guard) (d : BitVec 6) (a : BitVec 6) : Statement (.vdiscard g d a) := by
  rintro - _ ⟨⟩
  simp [candidate, candidateS, Raw.of]

theorem vretire (g : Guard) (d : BitVec 6) (a : BitVec 6) : Statement (.vretire g d a) := by
  rintro - _ ⟨⟩
  simp [candidate, candidateS, Raw.of]

theorem vadopt (g : Guard) (imm : BitVec 32) : Statement (.vadopt g imm) := by
  rintro - _ ⟨⟩
  simp [candidate, candidateS, Raw.of]

theorem vqry (g : Guard) (d : BitVec 6) (a : BitVec 6) : Statement (.vqry g d a) := by
  rintro - _ ⟨⟩
  simp [candidate, candidateS, Raw.of]

theorem vqrySet (g : Guard) (d : BitVec 6) : Statement (.vqrySet g d) := by
  rintro - _ ⟨⟩
  simp [candidate, candidateS, Raw.of]

theorem sample (g : Guard) (d : BitVec 6) (b : BitVec 6) (e : BitVec 6) (mem : MemOp) : Statement (.sample g d b e mem) := by
  rintro - _ ⟨⟩
  simp [candidate, candidateS, Raw.of]

theorem trap (g : Guard) (x : BitVec 16) : Statement (.trap g x) := by
  rintro - _ ⟨⟩
  simp [candidate, candidateS, Raw.of]

theorem eret (g : Guard) : Statement (.eret g) := by
  rintro - _ ⟨⟩
  simp [candidate, candidateS, Raw.of]

theorem eretKill (g : Guard) (a : BitVec 6) : Statement (.eretKill g a) := by
  rintro - _ ⟨⟩
  simp [candidate, candidateS, Raw.of]

theorem resume (g : Guard) : Statement (.resume g) := by
  rintro - _ ⟨⟩
  simp [candidate, candidateS, Raw.of]

theorem swpo (g : Guard) (d : BitVec 6) (a : BitVec 6) : Statement (.swpo g d a) := by
  rintro - _ ⟨⟩
  simp [candidate, candidateS, Raw.of]

theorem swpoFar (g : Guard) (d : BitVec 6) (a : BitVec 6) (b : BitVec 6) : Statement (.swpoFar g d a b) := by
  rintro - _ ⟨⟩
  simp [candidate, candidateS, Raw.of]

theorem swpi (g : Guard) (d : BitVec 6) (a : BitVec 6) (b : BitVec 6) : Statement (.swpi g d a b) := by
  rintro - _ ⟨⟩
  simp [candidate, candidateS, Raw.of]

theorem swpiQ (g : Guard) (d : BitVec 6) (a : BitVec 6) (b : BitVec 6) : Statement (.swpiQ g d a b) := by
  rintro - _ ⟨⟩
  simp [candidate, candidateS, Raw.of]

theorem swpiFar (g : Guard) (q : Bool) (d : BitVec 6) (a : BitVec 6) (b : BitVec 6) : Statement (.swpiFar g q d a b) := by
  rintro - _ ⟨⟩
  simp [candidate, candidateS, Raw.of] <;> omega

theorem stopCrew (g : Guard) (d : BitVec 6) (a : BitVec 6) : Statement (.stopCrew g d a) := by
  rintro - _ ⟨⟩
  simp [candidate, candidateS, Raw.of]

theorem stopPart (g : Guard) (d : BitVec 6) (a : BitVec 6) : Statement (.stopPart g d a) := by
  rintro - _ ⟨⟩
  simp [candidate, candidateS, Raw.of]

theorem stopGo (g : Guard) (d : BitVec 6) (a : BitVec 6) : Statement (.stopGo g d a) := by
  rintro - _ ⟨⟩
  simp [candidate, candidateS, Raw.of]

theorem rdrec (g : Guard) (d : BitVec 6) (a : BitVec 6) (w : BitVec 2) : Statement (.rdrec g d a w) := by
  rintro - _ ⟨⟩
  simp [candidate, candidateS, Raw.of]

theorem twin (g : Guard) (d : BitVec 6) : Statement (.twin g d) := by
  rintro - _ ⟨⟩
  simp [candidate, candidateS, Raw.of]

theorem twinNw (g : Guard) (d : BitVec 6) : Statement (.twinNw g d) := by
  rintro - _ ⟨⟩
  simp [candidate, candidateS, Raw.of]

theorem segld (g : Guard) (d : BitVec 3) (a : BitVec 6) (imm : BitVec 32) : Statement (.segld g d a imm) := by
  rintro - _ ⟨⟩
  simp [candidate, candidateS, Raw.of]

theorem segldRd (g : Guard) (d : BitVec 6) (a : BitVec 3) (w : BitVec 2) : Statement (.segldRd g d a w) := by
  rintro - _ ⟨⟩
  simp [candidate, candidateS, Raw.of]

theorem segst (g : Guard) (d : BitVec 3) (a : BitVec 6) (b : BitVec 6) (c : BitVec 6) : Statement (.segst g d a b c) := by
  rintro - _ ⟨⟩
  simp [candidate, candidateS, Raw.of]

theorem blay (g : Guard) (d : BitVec 6) : Statement (.blay g d) := by
  rintro - _ ⟨⟩
  simp [candidate, candidateS, Raw.of]

theorem blayW (g : Guard) (d : BitVec 6) : Statement (.blayW g d) := by
  rintro - _ ⟨⟩
  simp [candidate, candidateS, Raw.of]

theorem blayDeep (g : Guard) (d : BitVec 6) : Statement (.blayDeep g d) := by
  rintro - _ ⟨⟩
  simp [candidate, candidateS, Raw.of]

theorem blq (g : Guard) (d : BitVec 6) (which : BitVec 3) : Statement (.blq g d which) := by
  rintro - _ ⟨⟩
  simp [candidate, candidateS, Raw.of]

theorem issueTurn (core : Nat) : Statement (.issueTurn core) := by
  rintro - _ ⟨⟩

theorem lineFetch (core : Nat) (addr : Word) : Statement (.lineFetch core addr) := by
  rintro - _ ⟨⟩

theorem schedulerDecision (core : Nat) : Statement (.schedulerDecision core) := by
  rintro - _ ⟨⟩

theorem swapComplete (core : Nat) : Statement (.swapComplete core) := by
  rintro - _ ⟨⟩

theorem trapRecordArrival (n : Nat) : Statement (.trapRecordArrival n) := by
  rintro - _ ⟨⟩

theorem vccTick (tile : Nat) : Statement (.vccTick tile) := by
  rintro - _ ⟨⟩

theorem vccOverflow (crew : Nat) : Statement (.vccOverflow crew) := by
  rintro - _ ⟨⟩

theorem siteCounterTick (site : Nat) : Statement (.siteCounterTick site) := by
  rintro - _ ⟨⟩

theorem sleepDeadline (ctx : Nat) : Statement (.sleepDeadline ctx) := by
  rintro - _ ⟨⟩

theorem timedCommandStart (core : Nat) (i : Nat) : Statement (.timedCommandStart core i) := by
  rintro - _ ⟨⟩

theorem untimedCommandStart (core : Nat) : Statement (.untimedCommandStart core) := by
  rintro - _ ⟨⟩

theorem engineLineMove (core : Nat) (i : Nat) : Statement (.engineLineMove core i) := by
  rintro - _ ⟨⟩

theorem barrierArrival (n : Nat) : Statement (.barrierArrival n) := by
  rintro - _ ⟨⟩

theorem engineOperationStart (core : Nat) : Statement (.engineOperationStart core) := by
  rintro - _ ⟨⟩

theorem matrixLineFetch (core : Nat) : Statement (.matrixLineFetch core) := by
  rintro - _ ⟨⟩

theorem matrixOperationComplete (core : Nat) : Statement (.matrixOperationComplete core) := by
  rintro - _ ⟨⟩

theorem linkWordArrival (core : Nat) (east : Bool) : Statement (.linkWordArrival core east) := by
  rintro - _ ⟨⟩

theorem linkCreditReturn (core : Nat) (east : Bool) : Statement (.linkCreditReturn core east) := by
  rintro - _ ⟨⟩

theorem vaultRequestArrival (n : Nat) : Statement (.vaultRequestArrival n) := by
  rintro - _ ⟨⟩

theorem vaultReplyArrival (n : Nat) : Statement (.vaultReplyArrival n) := by
  rintro - _ ⟨⟩

theorem immediateWriteLanding (n : Nat) : Statement (.immediateWriteLanding n) := by
  rintro - _ ⟨⟩

theorem reservationGrant (n : Nat) : Statement (.reservationGrant n) := by
  rintro - _ ⟨⟩

theorem eccScrub (site : Nat) (bank : Nat) (line : Nat) (found : EccFound) : Statement (.eccScrub site bank line found) := by
  rintro - _ ⟨⟩

theorem arrayEccUncorrectable (site : Nat) (bank : Nat) (line : Nat) : Statement (.arrayEccUncorrectable site bank line) := by
  rintro - _ ⟨⟩

theorem phaseClose (crew : Nat) : Statement (.phaseClose crew) := by
  rintro - _ ⟨⟩

theorem phaseLineApply (core : Nat) (i : Nat) : Statement (.phaseLineApply core i) := by
  rintro - _ ⟨⟩

theorem phaseCloseComplete (crew : Nat) : Statement (.phaseCloseComplete crew) := by
  rintro - _ ⟨⟩

theorem farRequestTranslate (n : Nat) : Statement (.farRequestTranslate n) := by
  rintro - _ ⟨⟩

theorem pageWalkComplete (field : Nat) (i : Nat) : Statement (.pageWalkComplete field i) := by
  rintro - _ ⟨⟩

theorem parkact (field : Nat) (v : Word) : Statement (.parkact field v) := by
  rintro - _ ⟨⟩

theorem parkingEnd (ctx : Nat) : Statement (.parkingEnd ctx) := by
  rintro - _ ⟨⟩

theorem gwinv (field : Nat) (v : Word) : Statement (.gwinv field v) := by
  rintro - _ ⟨⟩

theorem gwinvDone (field : Nat) : Statement (.gwinvDone field) := by
  rintro - _ ⟨⟩

theorem homeWrite (n : Nat) : Statement (.homeWrite n) := by
  rintro - _ ⟨⟩

theorem homeWriteRetry (home : Nat) (i : Nat) : Statement (.homeWriteRetry home i) := by
  rintro - _ ⟨⟩

theorem homePubl (n : Nat) : Statement (.homePubl n) := by
  rintro - _ ⟨⟩

theorem homeRead (n : Nat) : Statement (.homeRead n) := by
  rintro - _ ⟨⟩

theorem farAtomicAtHome (n : Nat) : Statement (.farAtomicAtHome n) := by
  rintro - _ ⟨⟩

theorem farReplyArrival (n : Nat) : Statement (.farReplyArrival n) := by
  rintro - _ ⟨⟩

theorem farMediaError (n : Nat) : Statement (.farMediaError n) := by
  rintro - _ ⟨⟩

theorem commitNoticeAtHome (n : Nat) : Statement (.commitNoticeAtHome n) := by
  rintro - _ ⟨⟩

theorem hotnessDecay (home : Nat) : Statement (.hotnessDecay home) := by
  rintro - _ ⟨⟩

theorem routerFlitForward (n : Nat) : Statement (.routerFlitForward n) := by
  rintro - _ ⟨⟩

theorem meshLinkDown (site : Nat) (port : Nat) : Statement (.meshLinkDown site port) := by
  rintro - _ ⟨⟩

theorem staticRouteFlitLanding (n : Nat) : Statement (.staticRouteFlitLanding n) := by
  rintro - _ ⟨⟩

theorem messageReceive (n : Nat) : Statement (.messageReceive n) := by
  rintro - _ ⟨⟩

theorem ackReceive (n : Nat) : Statement (.ackReceive n) := by
  rintro - _ ⟨⟩

theorem nackFullReceive (n : Nat) : Statement (.nackFullReceive n) := by
  rintro - _ ⟨⟩

theorem nackOrderReceive (n : Nat) : Statement (.nackOrderReceive n) := by
  rintro - _ ⟨⟩

theorem nackFencedReceive (n : Nat) : Statement (.nackFencedReceive n) := by
  rintro - _ ⟨⟩

theorem nackReplayReceive (n : Nat) : Statement (.nackReplayReceive n) := by
  rintro - _ ⟨⟩

theorem resendDelayExpiry (tile : Nat) (i : Nat) : Statement (.resendDelayExpiry tile i) := by
  rintro - _ ⟨⟩

theorem rebindChangeResend (tile : Nat) (i : Nat) : Statement (.rebindChangeResend tile i) := by
  rintro - _ ⟨⟩

theorem retransmitTimeout (tile : Nat) (i : Nat) : Statement (.retransmitTimeout tile i) := by
  rintro - _ ⟨⟩

theorem hopArrival (n : Nat) : Statement (.hopArrival n) := by
  rintro - _ ⟨⟩

theorem hopReply (n : Nat) : Statement (.hopReply n) := by
  rintro - _ ⟨⟩

theorem mcastReplicaLanding (n : Nat) : Statement (.mcastReplicaLanding n) := by
  rintro - _ ⟨⟩

theorem rebindFlood (site : Nat) (i : Nat) : Statement (.rebindFlood site i) := by
  rintro - _ ⟨⟩

theorem taskDispatch (part : Nat) : Statement (.taskDispatch part) := by
  rintro - _ ⟨⟩

theorem imageLoadComplete (crew : Nat) : Statement (.imageLoadComplete crew) := by
  rintro - _ ⟨⟩

theorem launchCut (crew : Nat) : Statement (.launchCut crew) := by
  rintro - _ ⟨⟩

theorem taskEnd (crew : Nat) : Statement (.taskEnd crew) := by
  rintro - _ ⟨⟩

theorem heldBlockPost (part : Nat) : Statement (.heldBlockPost part) := by
  rintro - _ ⟨⟩

theorem belayCut (crew : Nat) : Statement (.belayCut crew) := by
  rintro - _ ⟨⟩

theorem candidateAnswer (n : Nat) : Statement (.candidateAnswer n) := by
  rintro - _ ⟨⟩

theorem cutStreamLine (tile : Nat) : Statement (.cutStreamLine tile) := by
  rintro - _ ⟨⟩

theorem cutPrepared (tile : Nat) : Statement (.cutPrepared tile) := by
  rintro - _ ⟨⟩

theorem commitDecision (crew : Nat) : Statement (.commitDecision crew) := by
  rintro - _ ⟨⟩

theorem cutApply (tile : Nat) : Statement (.cutApply tile) := by
  rintro - _ ⟨⟩

theorem regularCutDue (crew : Nat) : Statement (.regularCutDue crew) := by
  rintro - _ ⟨⟩

theorem watchdogFire (tile : Nat) : Statement (.watchdogFire tile) := by
  rintro - _ ⟨⟩

theorem residueMismatch (site : Nat) (core : Nat) (unit : Nat) (sub : Nat) : Statement (.residueMismatch site core unit sub) := by
  rintro - _ ⟨⟩

theorem machineCheck (site : Nat) (cause : MCause) : Statement (.machineCheck site cause) := by
  rintro - _ ⟨⟩

theorem splice (site : Nat) : Statement (.splice site) := by
  rintro - _ ⟨⟩

theorem replayEnd (crew : Nat) : Statement (.replayEnd crew) := by
  rintro - _ ⟨⟩

theorem haltComplete (crew : Nat) : Statement (.haltComplete crew) := by
  rintro - _ ⟨⟩

theorem partitionReconfiguration (part : Nat) (base : Nat) (count : Nat) : Statement (.partitionReconfiguration part base count) := by
  rintro - _ ⟨⟩

theorem deepBelayImageWritten : Statement (.deepBelayImageWritten) := by
  rintro - _ ⟨⟩

theorem deepRestore : Statement (.deepRestore) := by
  rintro - _ ⟨⟩

theorem adoption (tile : Nat) : Statement (.adoption tile) := by
  rintro - _ ⟨⟩

theorem versionHomeRequest (n : Nat) : Statement (.versionHomeRequest n) := by
  rintro - _ ⟨⟩

theorem fieldPowerLoss (field : Nat) : Statement (.fieldPowerLoss field) := by
  rintro - _ ⟨⟩

theorem deviceReset : Statement (.deviceReset) := by
  rintro - _ ⟨⟩

theorem powerGood : Statement (.powerGood) := by
  rintro - _ ⟨⟩

theorem stageOneEntry (recovery : Bool) : Statement (.stageOneEntry recovery) := by
  rintro - _ ⟨⟩

theorem fieldJoin (field : Nat) (failed : List Nat) : Statement (.fieldJoin field failed) := by
  rintro - _ ⟨⟩

theorem fieldGivenUp (field : Nat) : Statement (.fieldGivenUp field) := by
  rintro - _ ⟨⟩

theorem thermalThrottle (field : Nat) : Statement (.thermalThrottle field) := by
  rintro - _ ⟨⟩

theorem thermalShutdown (field : Nat) : Statement (.thermalShutdown field) := by
  rintro - _ ⟨⟩

theorem droopStretch (field : Nat) (cycles : Nat) : Statement (.droopStretch field cycles) := by
  rintro - _ ⟨⟩

theorem marginReplan (field : Nat) (mv : BitVec 16) : Statement (.marginReplan field mv) := by
  rintro - _ ⟨⟩

theorem hbmRepairStart (stack : Nat) (channel : Nat) : Statement (.hbmRepairStart stack channel) := by
  rintro - _ ⟨⟩

theorem hbmRepairDone (stack : Nat) (channel : Nat) : Statement (.hbmRepairDone stack channel) := by
  rintro - _ ⟨⟩

theorem selfTestStart (site : Nat) : Statement (.selfTestStart site) := by
  rintro - _ ⟨⟩

theorem selfTestComplete (site : Nat) (outcome : TestOutcome) : Statement (.selfTestComplete site outcome) := by
  rintro - _ ⟨⟩

theorem cxlPortDown (port : Nat) : Statement (.cxlPortDown port) := by
  rintro - _ ⟨⟩

theorem cxlPortUp (port : Nat) (lanes : BitVec 8) (rate : BitVec 8) (gb : BitVec 16) : Statement (.cxlPortUp port lanes rate gb) := by
  rintro - _ ⟨⟩

theorem folvibelLinkTrain (port : Nat) (wafer : BitVec 8) (inc : BitVec 16) (pport : BitVec 5) : Statement (.folvibelLinkTrain port wafer inc pport) := by
  rintro - _ ⟨⟩

theorem folvibelLinkDown (port : Nat) : Statement (.folvibelLinkDown port) := by
  rintro - _ ⟨⟩

theorem hlaunch (fn : Nat) (addr : Word) : Statement (.hlaunch fn addr) := by
  rintro - _ ⟨⟩

theorem hpubn (fn : Nat) (len : Word) : Statement (.hpubn fn len) := by
  rintro - _ ⟨⟩

theorem herrClear (fn : Nat) : Statement (.herrClear fn) := by
  rintro - _ ⟨⟩

theorem hlresDropClear (fn : Nat) : Statement (.hlresDropClear fn) := by
  rintro - _ ⟨⟩

theorem hostFarRead (fn : Nat) (off : BitVec 36) (len : Nat) : Statement (.hostFarRead fn off len) := by
  rintro - _ ⟨⟩

theorem hostFarWrite (fn : Nat) (off : BitVec 36) (data : List Byte) : Statement (.hostFarWrite fn off data) := by
  rintro - _ ⟨⟩

theorem functionLevelReset (fn : Nat) : Statement (.functionLevelReset fn) := by
  rintro - _ ⟨⟩

theorem hirq (v : Word) : Statement (.hirq v) := by
  rintro - _ ⟨⟩

theorem devrst (v : Word) : Statement (.devrst v) := by
  rintro - _ ⟨⟩

theorem quiesce (v : Word) : Statement (.quiesce v) := by
  rintro - _ ⟨⟩

theorem quiesceDone (body : List Byte) : Statement (.quiesceDone body) := by
  rintro - _ ⟨⟩

theorem quiesceRelease (v : Word) : Statement (.quiesceRelease v) := by
  rintro - _ ⟨⟩

theorem qbootGo (v : Word) : Statement (.qbootGo v) := by
  rintro - _ ⟨⟩

theorem qbootCancel (v : Word) : Statement (.qbootCancel v) := by
  rintro - _ ⟨⟩

theorem hbeatWrite (site : Nat) : Statement (.hbeatWrite site) := by
  rintro - _ ⟨⟩

theorem verify : Statement (.verify) := by
  rintro - _ ⟨⟩

theorem measure : Statement (.measure) := by
  rintro - _ ⟨⟩

theorem commit : Statement (.commit) := by
  rintro - _ ⟨⟩

theorem revert : Statement (.revert) := by
  rintro - _ ⟨⟩

theorem crc32 : Statement (.crc32) := by
  rintro - _ ⟨⟩

theorem trustOperationDone : Statement (.trustOperationDone) := by
  rintro - _ ⟨⟩

theorem getVersion (fn : Nat) : Statement (.getVersion fn) := by
  rintro - _ ⟨⟩

theorem getCapabilities (fn : Nat) : Statement (.getCapabilities fn) := by
  rintro - _ ⟨⟩

theorem negotiateAlgorithms (fn : Nat) : Statement (.negotiateAlgorithms fn) := by
  rintro - _ ⟨⟩

theorem getDigests (fn : Nat) : Statement (.getDigests fn) := by
  rintro - _ ⟨⟩

theorem getCertificate (fn : Nat) : Statement (.getCertificate fn) := by
  rintro - _ ⟨⟩

theorem challenge (fn : Nat) (nonce : BitVec 256) : Statement (.challenge fn nonce) := by
  rintro - _ ⟨⟩

theorem getMeasurements (fn : Nat) (index : Nat) : Statement (.getMeasurements fn index) := by
  rintro - _ ⟨⟩

theorem registerWrite (addr : Word) (v : Word) (level : BitVec 2) (tile : Nat) : Statement (.registerWrite addr v level tile) := by
  rintro - _ ⟨⟩

theorem giveComplete (ctx : Nat) : Statement (.giveComplete ctx) := by
  rintro - _ ⟨⟩

theorem reclaimComplete (ctx : Nat) : Statement (.reclaimComplete ctx) := by
  rintro - _ ⟨⟩

theorem immediateWriteAcknowledgement (n : Nat) : Statement (.immediateWriteAcknowledgement n) := by
  rintro - _ ⟨⟩

theorem trapWindowAccessArrival (n : Nat) : Statement (.trapWindowAccessArrival n) := by
  rintro - _ ⟨⟩

theorem logReplicaAcknowledgement (n : Nat) : Statement (.logReplicaAcknowledgement n) := by
  rintro - _ ⟨⟩

theorem versionAnswer (n : Nat) : Statement (.versionAnswer n) := by
  rintro - _ ⟨⟩


end Sys2Proof.Laws.Encoding
end

