-- ==== Sys2Proof/Laws/Table.lean ====
section
/-! SUPPORT. Laws of tables and of memory: what a lookup gives after an update, and that every operation over memory keeps its one
canonical form. -/

namespace Sys2Proof.Machine

-- theorems one after the other: a thread for each would need more memory than the check has
set_option Elab.async false

namespace Tbl

variable {α : Type}

@[simp] theorem find_del_self (t : Tbl α) (k : Nat) : find (del t k) k = none := by
  induction t with
  | nil => rfl
  | cons e rest ih =>
    obtain ⟨k', v⟩ := e
    by_cases h : k' = k <;> simp [del, find, h, ih]

theorem find_del_ne (t : Tbl α) {k j : Nat} (h : j ≠ k) : find (del t k) j = find t j := by
  induction t with
  | nil => rfl
  | cons e rest ih =>
    obtain ⟨k', v⟩ := e
    by_cases hk : k' = k
    · simp only [del, find, hk, ih, if_true, if_neg (Ne.symm h)]
    · simp [del, find, hk, ih]

@[simp] theorem find_put_self (t : Tbl α) (k : Nat) (v : α) : find (put t k v) k = some v := by
  induction t with
  | nil => simp [put, find]
  | cons e rest ih =>
    obtain ⟨k', v'⟩ := e
    simp only [put]
    split
    · simp [find]
    · split <;> simp_all [find]

theorem find_put_ne (t : Tbl α) {k j : Nat} (v : α) (h : j ≠ k) : find (put t k v) j = find t j := by
  induction t with
  | nil => simp [put, find, Ne.symm h]
  | cons e rest ih =>
    obtain ⟨k', v'⟩ := e
    simp only [put]
    split
    · simp [find, Ne.symm h]
    · split
      · next hk => subst hk; simp [find, Ne.symm h]
      · simp [find, ih]

@[simp] theorem get_put_self (d : α) (t : Tbl α) (k : Nat) (v : α) : get d (put t k v) k = v := by simp [get]

theorem get_put_ne (d : α) (t : Tbl α) {k j : Nat} (v : α) (h : j ≠ k) : get d (put t k v) j = get d t j := by
  simp [get, find_put_ne t v h]

variable [DecidableEq α]

@[simp] theorem get_set_self (d : α) (t : Tbl α) (k : Nat) (v : α) : get d (set d t k v) k = v := by
  by_cases h : v = d <;> simp [set, get, h]

theorem get_set_ne (d : α) (t : Tbl α) {k j : Nat} (v : α) (h : j ≠ k) : get d (set d t k v) j = get d t j := by
  by_cases hv : v = d <;> simp [set, get, hv, find_del_ne t h, find_put_ne t v h]

theorem get_set (d : α) (t : Tbl α) (k j : Nat) (v : α) : get d (set d t k v) j = if j = k then v else get d t j := by
  split
  · next h => subst h; exact get_set_self d t _ v
  · next h => exact get_set_ne d t v h

/-- The keys of a well-formed table lie above a bound. -/
def Above (k : Nat) (t : Tbl α) : Prop := ∀ e ∈ t, k < e.1

theorem wf_cons {d : α} {k : Nat} {v : α} {t : Tbl α} : wf d ((k, v) :: t) = true ↔ v ≠ d ∧ Above k t ∧ wf d t = true := by
  constructor
  · intro h
    induction t generalizing k v with
    | nil => simp_all [wf, Above]
    | cons e rest ih =>
      obtain ⟨k', v'⟩ := e
      simp only [wf, Bool.and_eq_true, decide_eq_true_eq] at h
      obtain ⟨⟨hv, hk⟩, hr⟩ := h
      have hr' : wf d ((k', v') :: rest) = true := by simpa only [wf, Bool.and_eq_true, decide_eq_true_eq] using hr
      refine ⟨hv, ?_, hr'⟩
      intro e he
      rcases List.mem_cons.1 he with rfl | he
      · exact hk
      · exact Nat.lt_trans hk ((ih hr').2.1 e he)
  · rintro ⟨hv, ha, hw⟩
    cases t with
    | nil => simp [wf, hv]
    | cons e rest =>
      obtain ⟨k', v'⟩ := e
      have : k < k' := ha (k', v') (List.mem_cons_self ..)
      simp only [wf, Bool.and_eq_true, decide_eq_true_eq] at hw ⊢
      exact ⟨⟨hv, this⟩, hw⟩

theorem wf_filter {d : α} (p : Nat × α → Bool) : ∀ {t : Tbl α}, wf d t = true → wf d (t.filter p) = true
  | [], h => h
  | (k, v) :: rest, h => by
    obtain ⟨hv, ha, hw⟩ := wf_cons.1 h
    have ih := wf_filter p hw
    rw [List.filter_cons]
    split
    · exact wf_cons.2 ⟨hv, fun e he => ha e (List.mem_filter.1 he).1, ih⟩
    · exact ih

omit [DecidableEq α] in
theorem del_eq_filter (t : Tbl α) (k : Nat) : del t k = t.filter (fun e => e.1 != k) := by
  induction t with
  | nil => rfl
  | cons e rest ih =>
    obtain ⟨k', v⟩ := e
    by_cases h : k' = k <;> simp [del, h, ih]

theorem above_put {d : α} {j k : Nat} {v : α} : ∀ {t : Tbl α}, Above j t → j < k → wf d t = true → Above j (put t k v)
  | [], _, hk, _ => by simp [put, Above, hk]
  | (k', v') :: rest, ha, hk, hw => by
    obtain ⟨_, _, hw'⟩ := wf_cons.1 hw
    have h1 : j < k' := ha (k', v') (List.mem_cons_self ..)
    have h2 : Above j rest := fun e he => ha e (List.mem_cons_of_mem _ he)
    simp only [put]
    intro e he
    split at he
    · rcases List.mem_cons.1 he with rfl | he
      · exact hk
      · exact ha e he
    · split at he
      · rcases List.mem_cons.1 he with rfl | he
        · exact hk
        · exact h2 e he
      · rcases List.mem_cons.1 he with rfl | he
        · exact h1
        · exact above_put (d := d) h2 hk hw' e he

theorem wf_put {d : α} {k : Nat} {v : α} (hv : v ≠ d) : ∀ {t : Tbl α}, wf d t = true → wf d (put t k v) = true
  | [], _ => by simp [put, wf, hv]
  | (k', v') :: rest, h => by
    obtain ⟨hv', ha, hw⟩ := wf_cons.1 h
    simp only [put]
    split
    · next hk =>
      refine wf_cons.2 ⟨hv, ?_, h⟩
      intro e he
      rcases List.mem_cons.1 he with rfl | he
      · exact hk
      · exact Nat.lt_trans hk (ha e he)
    · split
      · next _ hk => exact wf_cons.2 ⟨hv, hk ▸ ha, hw⟩
      · next h1 h2 => exact wf_cons.2 ⟨hv', above_put (d := d) ha (by omega) hw, wf_put hv hw⟩

theorem wf_set {d : α} {k : Nat} {v : α} {t : Tbl α} (h : wf d t = true) : wf d (set d t k v) = true := by
  simp only [set]
  split
  · rw [del_eq_filter]; exact wf_filter _ h
  · next hv => exact wf_put hv h

end Tbl

@[simp] theorem memRead_memWrite (m : List Host.Cell) (a b : Nat) (x : Byte) :
    memRead (memWrite m a x) b = if b = a then x else memRead m b := Tbl.get_set _ _ _ _ _

theorem memWrite_wf {m : List Host.Cell} (a : Nat) (b : Byte) (h : Memory.wf m = true) : Memory.wf (memWrite m a b) = true :=
  Tbl.wf_set h

theorem memWriteN_wf (bs : List Byte) : ∀ {m : List Host.Cell} (a : Nat), Memory.wf m = true → Memory.wf (memWriteN m a bs) = true := by
  induction bs with
  | nil => exact fun _ h => h
  | cons b rest ih => exact fun a h => ih (a + 1) (memWrite_wf a b h)

theorem memFilter_wf {m : List Host.Cell} (p : Host.Cell → Bool) (h : Memory.wf m = true) : Memory.wf (m.filter p) = true :=
  Tbl.wf_filter p h

theorem memCopy_wf {m : List Host.Cell} (src dst n : Nat) (h : Memory.wf m = true) : Memory.wf (memCopy m src dst n) = true := by
  have step : ∀ (l : List Host.Cell) (k : List Host.Cell), Memory.wf k = true →
      Memory.wf (l.foldl (fun k e => memWrite k (e.1 - src + dst) e.2) k) = true := by
    intro l
    induction l with
    | nil => exact fun _ h => h
    | cons e rest ih => exact fun k hk => ih _ (memWrite_wf _ _ hk)
  exact step _ _ (memFilter_wf _ h)

/-- A write of a list of bytes, read back: the bytes in its range, the old ones outside. -/
theorem memRead_memWriteN (bs : List Byte) : ∀ (m : List Host.Cell) (a b : Nat),
    memRead (memWriteN m a bs) b = if a ≤ b ∧ b < a + bs.length then bs.getD (b - a) 0 else memRead m b := by
  induction bs with
  | nil => intro m a b; simp [memWriteN, show ¬(a ≤ b ∧ b < a) by omega]
  | cons x rest ih =>
    intro m a b
    rw [memWriteN, ih]
    by_cases h : b = a
    · subst h; simp [show ¬(b + 1 ≤ b) by omega]
    · simp only [memRead_memWrite, h, if_false, List.length_cons]
      by_cases h2 : a + 1 ≤ b ∧ b < a + 1 + rest.length
      · rw [if_pos h2, if_pos (by omega), show b - a = (b - (a + 1)) + 1 by omega, List.getD_cons_succ]
      · rw [if_neg h2, if_neg (by omega)]

/-- Memory lists nothing at reset, which is the canonical form. -/
theorem reset_mem_wf : Memory.wf State.reset.mem = true := rfl

end Sys2Proof.Machine
end

