-- ==== Sys2Proof/Laws/State.lean ====
section
/-! SUPPORT. One law for each field and each update of the state, so that no proof unfolds a record update; and what the accessors
read after an update. -/

-- theorems one after the other: a thread for each would need more memory than the check has
set_option Elab.async false

namespace Sys2Proof.Machine

section
variable (s : State) (k j : Nat)

@[simp] theorem State.setCtx_sched (x : Ctx) : (s.setCtx k x).sched = s.sched := rfl
@[simp] theorem State.setCtx_cur (x : Ctx) : (s.setCtx k x).cur = s.cur := rfl
@[simp] theorem State.setCtx_free (x : Ctx) : (s.setCtx k x).free = s.free := rfl
@[simp] theorem State.setCtx_nextId (x : Ctx) : (s.setCtx k x).nextId = s.nextId := rfl
@[simp] theorem State.setCtx_mem (x : Ctx) : (s.setCtx k x).mem = s.mem := rfl
@[simp] theorem State.setCtx_cores (x : Ctx) : (s.setCtx k x).cores = s.cores := rfl
@[simp] theorem State.setCtx_tiles (x : Ctx) : (s.setCtx k x).tiles = s.tiles := rfl
@[simp] theorem State.setCtx_sites (x : Ctx) : (s.setCtx k x).sites = s.sites := rfl
@[simp] theorem State.setCtx_crews (x : Ctx) : (s.setCtx k x).crews = s.crews := rfl
@[simp] theorem State.setCtx_parts (x : Ctx) : (s.setCtx k x).parts = s.parts := rfl
@[simp] theorem State.setCtx_gws (x : Ctx) : (s.setCtx k x).gws = s.gws := rfl
@[simp] theorem State.setCtx_homes (x : Ctx) : (s.setCtx k x).homes = s.homes := rfl
@[simp] theorem State.setCtx_vsets (x : Ctx) : (s.setCtx k x).vsets = s.vsets := rfl
@[simp] theorem State.setCtx_fields (x : Ctx) : (s.setCtx k x).fields = s.fields := rfl
@[simp] theorem State.setCtx_hosts (x : Ctx) : (s.setCtx k x).hosts = s.hosts := rfl
@[simp] theorem State.setCtx_rebind (x : Ctx) : (s.setCtx k x).rebind = s.rebind := rfl
@[simp] theorem State.setCtx_floods (x : Ctx) : (s.setCtx k x).floods = s.floods := rfl
@[simp] theorem State.setCtx_partner (x : Ctx) : (s.setCtx k x).partner = s.partner := rfl
@[simp] theorem State.setCtx_net (x : Ctx) : (s.setCtx k x).net = s.net := rfl
@[simp] theorem State.setCtx_hbm (x : Ctx) : (s.setCtx k x).hbm = s.hbm := rfl
@[simp] theorem State.setCtx_checks (x : Ctx) : (s.setCtx k x).checks = s.checks := rfl
@[simp] theorem State.setCtx_splices (x : Ctx) : (s.setCtx k x).splices = s.splices := rfl
@[simp] theorem State.setCtx_rollbacks (x : Ctx) : (s.setCtx k x).rollbacks = s.rollbacks := rfl
@[simp] theorem State.setCtx_peers (x : Ctx) : (s.setCtx k x).peers = s.peers := rfl
@[simp] theorem State.setCtx_images (x : Ctx) : (s.setCtx k x).images = s.images := rfl
@[simp] theorem State.setCtx_sys (x : Ctx) : (s.setCtx k x).sys = s.sys := rfl
@[simp] theorem State.setCtx_deep (x : Ctx) : (s.setCtx k x).deep = s.deep := rfl
@[simp] theorem State.ctx_setCtx (x : Ctx) : (s.setCtx k x).ctx k = x := Tbl.get_set_self _ _ _ _
theorem State.ctx_setCtx_ne (x : Ctx) (h : j ≠ k) : (s.setCtx k x).ctx j = s.ctx j := Tbl.get_set_ne _ _ _ h
theorem State.ctx_setCtx_eq (x : Ctx) : (s.setCtx k x).ctx j = if j = k then x else s.ctx j := Tbl.get_set _ _ _ _ _
@[simp] theorem State.core_setCtx (x : Ctx) : (s.setCtx k x).core j = s.core j := rfl
@[simp] theorem State.tile_setCtx (x : Ctx) : (s.setCtx k x).tile j = s.tile j := rfl
@[simp] theorem State.site_setCtx (x : Ctx) : (s.setCtx k x).site j = s.site j := rfl
@[simp] theorem State.crew_setCtx (x : Ctx) : (s.setCtx k x).crew j = s.crew j := rfl
@[simp] theorem State.part_setCtx (x : Ctx) : (s.setCtx k x).part j = s.part j := rfl
@[simp] theorem State.gw_setCtx (x : Ctx) : (s.setCtx k x).gw j = s.gw j := rfl
@[simp] theorem State.home_setCtx (x : Ctx) : (s.setCtx k x).home j = s.home j := rfl
@[simp] theorem State.vset_setCtx (x : Ctx) : (s.setCtx k x).vset j = s.vset j := rfl
@[simp] theorem State.field_setCtx (x : Ctx) : (s.setCtx k x).field j = s.field j := rfl
@[simp] theorem State.host_setCtx (x : Ctx) : (s.setCtx k x).host j = s.host j := rfl

@[simp] theorem State.setCore_sched (x : Core) : (s.setCore k x).sched = s.sched := rfl
@[simp] theorem State.setCore_cur (x : Core) : (s.setCore k x).cur = s.cur := rfl
@[simp] theorem State.setCore_free (x : Core) : (s.setCore k x).free = s.free := rfl
@[simp] theorem State.setCore_nextId (x : Core) : (s.setCore k x).nextId = s.nextId := rfl
@[simp] theorem State.setCore_mem (x : Core) : (s.setCore k x).mem = s.mem := rfl
@[simp] theorem State.setCore_ctxs (x : Core) : (s.setCore k x).ctxs = s.ctxs := rfl
@[simp] theorem State.setCore_tiles (x : Core) : (s.setCore k x).tiles = s.tiles := rfl
@[simp] theorem State.setCore_sites (x : Core) : (s.setCore k x).sites = s.sites := rfl
@[simp] theorem State.setCore_crews (x : Core) : (s.setCore k x).crews = s.crews := rfl
@[simp] theorem State.setCore_parts (x : Core) : (s.setCore k x).parts = s.parts := rfl
@[simp] theorem State.setCore_gws (x : Core) : (s.setCore k x).gws = s.gws := rfl
@[simp] theorem State.setCore_homes (x : Core) : (s.setCore k x).homes = s.homes := rfl
@[simp] theorem State.setCore_vsets (x : Core) : (s.setCore k x).vsets = s.vsets := rfl
@[simp] theorem State.setCore_fields (x : Core) : (s.setCore k x).fields = s.fields := rfl
@[simp] theorem State.setCore_hosts (x : Core) : (s.setCore k x).hosts = s.hosts := rfl
@[simp] theorem State.setCore_rebind (x : Core) : (s.setCore k x).rebind = s.rebind := rfl
@[simp] theorem State.setCore_floods (x : Core) : (s.setCore k x).floods = s.floods := rfl
@[simp] theorem State.setCore_partner (x : Core) : (s.setCore k x).partner = s.partner := rfl
@[simp] theorem State.setCore_net (x : Core) : (s.setCore k x).net = s.net := rfl
@[simp] theorem State.setCore_hbm (x : Core) : (s.setCore k x).hbm = s.hbm := rfl
@[simp] theorem State.setCore_checks (x : Core) : (s.setCore k x).checks = s.checks := rfl
@[simp] theorem State.setCore_splices (x : Core) : (s.setCore k x).splices = s.splices := rfl
@[simp] theorem State.setCore_rollbacks (x : Core) : (s.setCore k x).rollbacks = s.rollbacks := rfl
@[simp] theorem State.setCore_peers (x : Core) : (s.setCore k x).peers = s.peers := rfl
@[simp] theorem State.setCore_images (x : Core) : (s.setCore k x).images = s.images := rfl
@[simp] theorem State.setCore_sys (x : Core) : (s.setCore k x).sys = s.sys := rfl
@[simp] theorem State.setCore_deep (x : Core) : (s.setCore k x).deep = s.deep := rfl
@[simp] theorem State.core_setCore (x : Core) : (s.setCore k x).core k = x := Tbl.get_set_self _ _ _ _
theorem State.core_setCore_ne (x : Core) (h : j ≠ k) : (s.setCore k x).core j = s.core j := Tbl.get_set_ne _ _ _ h
theorem State.core_setCore_eq (x : Core) : (s.setCore k x).core j = if j = k then x else s.core j := Tbl.get_set _ _ _ _ _
@[simp] theorem State.ctx_setCore (x : Core) : (s.setCore k x).ctx j = s.ctx j := rfl
@[simp] theorem State.tile_setCore (x : Core) : (s.setCore k x).tile j = s.tile j := rfl
@[simp] theorem State.site_setCore (x : Core) : (s.setCore k x).site j = s.site j := rfl
@[simp] theorem State.crew_setCore (x : Core) : (s.setCore k x).crew j = s.crew j := rfl
@[simp] theorem State.part_setCore (x : Core) : (s.setCore k x).part j = s.part j := rfl
@[simp] theorem State.gw_setCore (x : Core) : (s.setCore k x).gw j = s.gw j := rfl
@[simp] theorem State.home_setCore (x : Core) : (s.setCore k x).home j = s.home j := rfl
@[simp] theorem State.vset_setCore (x : Core) : (s.setCore k x).vset j = s.vset j := rfl
@[simp] theorem State.field_setCore (x : Core) : (s.setCore k x).field j = s.field j := rfl
@[simp] theorem State.host_setCore (x : Core) : (s.setCore k x).host j = s.host j := rfl

@[simp] theorem State.setTile_sched (x : Tile) : (s.setTile k x).sched = s.sched := rfl
@[simp] theorem State.setTile_cur (x : Tile) : (s.setTile k x).cur = s.cur := rfl
@[simp] theorem State.setTile_free (x : Tile) : (s.setTile k x).free = s.free := rfl
@[simp] theorem State.setTile_nextId (x : Tile) : (s.setTile k x).nextId = s.nextId := rfl
@[simp] theorem State.setTile_mem (x : Tile) : (s.setTile k x).mem = s.mem := rfl
@[simp] theorem State.setTile_ctxs (x : Tile) : (s.setTile k x).ctxs = s.ctxs := rfl
@[simp] theorem State.setTile_cores (x : Tile) : (s.setTile k x).cores = s.cores := rfl
@[simp] theorem State.setTile_sites (x : Tile) : (s.setTile k x).sites = s.sites := rfl
@[simp] theorem State.setTile_crews (x : Tile) : (s.setTile k x).crews = s.crews := rfl
@[simp] theorem State.setTile_parts (x : Tile) : (s.setTile k x).parts = s.parts := rfl
@[simp] theorem State.setTile_gws (x : Tile) : (s.setTile k x).gws = s.gws := rfl
@[simp] theorem State.setTile_homes (x : Tile) : (s.setTile k x).homes = s.homes := rfl
@[simp] theorem State.setTile_vsets (x : Tile) : (s.setTile k x).vsets = s.vsets := rfl
@[simp] theorem State.setTile_fields (x : Tile) : (s.setTile k x).fields = s.fields := rfl
@[simp] theorem State.setTile_hosts (x : Tile) : (s.setTile k x).hosts = s.hosts := rfl
@[simp] theorem State.setTile_rebind (x : Tile) : (s.setTile k x).rebind = s.rebind := rfl
@[simp] theorem State.setTile_floods (x : Tile) : (s.setTile k x).floods = s.floods := rfl
@[simp] theorem State.setTile_partner (x : Tile) : (s.setTile k x).partner = s.partner := rfl
@[simp] theorem State.setTile_net (x : Tile) : (s.setTile k x).net = s.net := rfl
@[simp] theorem State.setTile_hbm (x : Tile) : (s.setTile k x).hbm = s.hbm := rfl
@[simp] theorem State.setTile_checks (x : Tile) : (s.setTile k x).checks = s.checks := rfl
@[simp] theorem State.setTile_splices (x : Tile) : (s.setTile k x).splices = s.splices := rfl
@[simp] theorem State.setTile_rollbacks (x : Tile) : (s.setTile k x).rollbacks = s.rollbacks := rfl
@[simp] theorem State.setTile_peers (x : Tile) : (s.setTile k x).peers = s.peers := rfl
@[simp] theorem State.setTile_images (x : Tile) : (s.setTile k x).images = s.images := rfl
@[simp] theorem State.setTile_sys (x : Tile) : (s.setTile k x).sys = s.sys := rfl
@[simp] theorem State.setTile_deep (x : Tile) : (s.setTile k x).deep = s.deep := rfl
@[simp] theorem State.tile_setTile (x : Tile) : (s.setTile k x).tile k = x := Tbl.get_set_self _ _ _ _
theorem State.tile_setTile_ne (x : Tile) (h : j ≠ k) : (s.setTile k x).tile j = s.tile j := Tbl.get_set_ne _ _ _ h
theorem State.tile_setTile_eq (x : Tile) : (s.setTile k x).tile j = if j = k then x else s.tile j := Tbl.get_set _ _ _ _ _
@[simp] theorem State.ctx_setTile (x : Tile) : (s.setTile k x).ctx j = s.ctx j := rfl
@[simp] theorem State.core_setTile (x : Tile) : (s.setTile k x).core j = s.core j := rfl
@[simp] theorem State.site_setTile (x : Tile) : (s.setTile k x).site j = s.site j := rfl
@[simp] theorem State.crew_setTile (x : Tile) : (s.setTile k x).crew j = s.crew j := rfl
@[simp] theorem State.part_setTile (x : Tile) : (s.setTile k x).part j = s.part j := rfl
@[simp] theorem State.gw_setTile (x : Tile) : (s.setTile k x).gw j = s.gw j := rfl
@[simp] theorem State.home_setTile (x : Tile) : (s.setTile k x).home j = s.home j := rfl
@[simp] theorem State.vset_setTile (x : Tile) : (s.setTile k x).vset j = s.vset j := rfl
@[simp] theorem State.field_setTile (x : Tile) : (s.setTile k x).field j = s.field j := rfl
@[simp] theorem State.host_setTile (x : Tile) : (s.setTile k x).host j = s.host j := rfl

@[simp] theorem State.setSite_sched (x : Site) : (s.setSite k x).sched = s.sched := rfl
@[simp] theorem State.setSite_cur (x : Site) : (s.setSite k x).cur = s.cur := rfl
@[simp] theorem State.setSite_free (x : Site) : (s.setSite k x).free = s.free := rfl
@[simp] theorem State.setSite_nextId (x : Site) : (s.setSite k x).nextId = s.nextId := rfl
@[simp] theorem State.setSite_mem (x : Site) : (s.setSite k x).mem = s.mem := rfl
@[simp] theorem State.setSite_ctxs (x : Site) : (s.setSite k x).ctxs = s.ctxs := rfl
@[simp] theorem State.setSite_cores (x : Site) : (s.setSite k x).cores = s.cores := rfl
@[simp] theorem State.setSite_tiles (x : Site) : (s.setSite k x).tiles = s.tiles := rfl
@[simp] theorem State.setSite_crews (x : Site) : (s.setSite k x).crews = s.crews := rfl
@[simp] theorem State.setSite_parts (x : Site) : (s.setSite k x).parts = s.parts := rfl
@[simp] theorem State.setSite_gws (x : Site) : (s.setSite k x).gws = s.gws := rfl
@[simp] theorem State.setSite_homes (x : Site) : (s.setSite k x).homes = s.homes := rfl
@[simp] theorem State.setSite_vsets (x : Site) : (s.setSite k x).vsets = s.vsets := rfl
@[simp] theorem State.setSite_fields (x : Site) : (s.setSite k x).fields = s.fields := rfl
@[simp] theorem State.setSite_hosts (x : Site) : (s.setSite k x).hosts = s.hosts := rfl
@[simp] theorem State.setSite_rebind (x : Site) : (s.setSite k x).rebind = s.rebind := rfl
@[simp] theorem State.setSite_floods (x : Site) : (s.setSite k x).floods = s.floods := rfl
@[simp] theorem State.setSite_partner (x : Site) : (s.setSite k x).partner = s.partner := rfl
@[simp] theorem State.setSite_net (x : Site) : (s.setSite k x).net = s.net := rfl
@[simp] theorem State.setSite_hbm (x : Site) : (s.setSite k x).hbm = s.hbm := rfl
@[simp] theorem State.setSite_checks (x : Site) : (s.setSite k x).checks = s.checks := rfl
@[simp] theorem State.setSite_splices (x : Site) : (s.setSite k x).splices = s.splices := rfl
@[simp] theorem State.setSite_rollbacks (x : Site) : (s.setSite k x).rollbacks = s.rollbacks := rfl
@[simp] theorem State.setSite_peers (x : Site) : (s.setSite k x).peers = s.peers := rfl
@[simp] theorem State.setSite_images (x : Site) : (s.setSite k x).images = s.images := rfl
@[simp] theorem State.setSite_sys (x : Site) : (s.setSite k x).sys = s.sys := rfl
@[simp] theorem State.setSite_deep (x : Site) : (s.setSite k x).deep = s.deep := rfl
@[simp] theorem State.site_setSite (x : Site) : (s.setSite k x).site k = x := Tbl.get_set_self _ _ _ _
theorem State.site_setSite_ne (x : Site) (h : j ≠ k) : (s.setSite k x).site j = s.site j := Tbl.get_set_ne _ _ _ h
theorem State.site_setSite_eq (x : Site) : (s.setSite k x).site j = if j = k then x else s.site j := Tbl.get_set _ _ _ _ _
@[simp] theorem State.ctx_setSite (x : Site) : (s.setSite k x).ctx j = s.ctx j := rfl
@[simp] theorem State.core_setSite (x : Site) : (s.setSite k x).core j = s.core j := rfl
@[simp] theorem State.tile_setSite (x : Site) : (s.setSite k x).tile j = s.tile j := rfl
@[simp] theorem State.crew_setSite (x : Site) : (s.setSite k x).crew j = s.crew j := rfl
@[simp] theorem State.part_setSite (x : Site) : (s.setSite k x).part j = s.part j := rfl
@[simp] theorem State.gw_setSite (x : Site) : (s.setSite k x).gw j = s.gw j := rfl
@[simp] theorem State.home_setSite (x : Site) : (s.setSite k x).home j = s.home j := rfl
@[simp] theorem State.vset_setSite (x : Site) : (s.setSite k x).vset j = s.vset j := rfl
@[simp] theorem State.field_setSite (x : Site) : (s.setSite k x).field j = s.field j := rfl
@[simp] theorem State.host_setSite (x : Site) : (s.setSite k x).host j = s.host j := rfl

@[simp] theorem State.setCrew_sched (x : Crew) : (s.setCrew k x).sched = s.sched := rfl
@[simp] theorem State.setCrew_cur (x : Crew) : (s.setCrew k x).cur = s.cur := rfl
@[simp] theorem State.setCrew_free (x : Crew) : (s.setCrew k x).free = s.free := rfl
@[simp] theorem State.setCrew_nextId (x : Crew) : (s.setCrew k x).nextId = s.nextId := rfl
@[simp] theorem State.setCrew_mem (x : Crew) : (s.setCrew k x).mem = s.mem := rfl
@[simp] theorem State.setCrew_ctxs (x : Crew) : (s.setCrew k x).ctxs = s.ctxs := rfl
@[simp] theorem State.setCrew_cores (x : Crew) : (s.setCrew k x).cores = s.cores := rfl
@[simp] theorem State.setCrew_tiles (x : Crew) : (s.setCrew k x).tiles = s.tiles := rfl
@[simp] theorem State.setCrew_sites (x : Crew) : (s.setCrew k x).sites = s.sites := rfl
@[simp] theorem State.setCrew_parts (x : Crew) : (s.setCrew k x).parts = s.parts := rfl
@[simp] theorem State.setCrew_gws (x : Crew) : (s.setCrew k x).gws = s.gws := rfl
@[simp] theorem State.setCrew_homes (x : Crew) : (s.setCrew k x).homes = s.homes := rfl
@[simp] theorem State.setCrew_vsets (x : Crew) : (s.setCrew k x).vsets = s.vsets := rfl
@[simp] theorem State.setCrew_fields (x : Crew) : (s.setCrew k x).fields = s.fields := rfl
@[simp] theorem State.setCrew_hosts (x : Crew) : (s.setCrew k x).hosts = s.hosts := rfl
@[simp] theorem State.setCrew_rebind (x : Crew) : (s.setCrew k x).rebind = s.rebind := rfl
@[simp] theorem State.setCrew_floods (x : Crew) : (s.setCrew k x).floods = s.floods := rfl
@[simp] theorem State.setCrew_partner (x : Crew) : (s.setCrew k x).partner = s.partner := rfl
@[simp] theorem State.setCrew_net (x : Crew) : (s.setCrew k x).net = s.net := rfl
@[simp] theorem State.setCrew_hbm (x : Crew) : (s.setCrew k x).hbm = s.hbm := rfl
@[simp] theorem State.setCrew_checks (x : Crew) : (s.setCrew k x).checks = s.checks := rfl
@[simp] theorem State.setCrew_splices (x : Crew) : (s.setCrew k x).splices = s.splices := rfl
@[simp] theorem State.setCrew_rollbacks (x : Crew) : (s.setCrew k x).rollbacks = s.rollbacks := rfl
@[simp] theorem State.setCrew_peers (x : Crew) : (s.setCrew k x).peers = s.peers := rfl
@[simp] theorem State.setCrew_images (x : Crew) : (s.setCrew k x).images = s.images := rfl
@[simp] theorem State.setCrew_sys (x : Crew) : (s.setCrew k x).sys = s.sys := rfl
@[simp] theorem State.setCrew_deep (x : Crew) : (s.setCrew k x).deep = s.deep := rfl
@[simp] theorem State.crew_setCrew (x : Crew) : (s.setCrew k x).crew k = x := Tbl.get_set_self _ _ _ _
theorem State.crew_setCrew_ne (x : Crew) (h : j ≠ k) : (s.setCrew k x).crew j = s.crew j := Tbl.get_set_ne _ _ _ h
theorem State.crew_setCrew_eq (x : Crew) : (s.setCrew k x).crew j = if j = k then x else s.crew j := Tbl.get_set _ _ _ _ _
@[simp] theorem State.ctx_setCrew (x : Crew) : (s.setCrew k x).ctx j = s.ctx j := rfl
@[simp] theorem State.core_setCrew (x : Crew) : (s.setCrew k x).core j = s.core j := rfl
@[simp] theorem State.tile_setCrew (x : Crew) : (s.setCrew k x).tile j = s.tile j := rfl
@[simp] theorem State.site_setCrew (x : Crew) : (s.setCrew k x).site j = s.site j := rfl
@[simp] theorem State.part_setCrew (x : Crew) : (s.setCrew k x).part j = s.part j := rfl
@[simp] theorem State.gw_setCrew (x : Crew) : (s.setCrew k x).gw j = s.gw j := rfl
@[simp] theorem State.home_setCrew (x : Crew) : (s.setCrew k x).home j = s.home j := rfl
@[simp] theorem State.vset_setCrew (x : Crew) : (s.setCrew k x).vset j = s.vset j := rfl
@[simp] theorem State.field_setCrew (x : Crew) : (s.setCrew k x).field j = s.field j := rfl
@[simp] theorem State.host_setCrew (x : Crew) : (s.setCrew k x).host j = s.host j := rfl

@[simp] theorem State.setPart_sched (x : Part) : (s.setPart k x).sched = s.sched := rfl
@[simp] theorem State.setPart_cur (x : Part) : (s.setPart k x).cur = s.cur := rfl
@[simp] theorem State.setPart_free (x : Part) : (s.setPart k x).free = s.free := rfl
@[simp] theorem State.setPart_nextId (x : Part) : (s.setPart k x).nextId = s.nextId := rfl
@[simp] theorem State.setPart_mem (x : Part) : (s.setPart k x).mem = s.mem := rfl
@[simp] theorem State.setPart_ctxs (x : Part) : (s.setPart k x).ctxs = s.ctxs := rfl
@[simp] theorem State.setPart_cores (x : Part) : (s.setPart k x).cores = s.cores := rfl
@[simp] theorem State.setPart_tiles (x : Part) : (s.setPart k x).tiles = s.tiles := rfl
@[simp] theorem State.setPart_sites (x : Part) : (s.setPart k x).sites = s.sites := rfl
@[simp] theorem State.setPart_crews (x : Part) : (s.setPart k x).crews = s.crews := rfl
@[simp] theorem State.setPart_gws (x : Part) : (s.setPart k x).gws = s.gws := rfl
@[simp] theorem State.setPart_homes (x : Part) : (s.setPart k x).homes = s.homes := rfl
@[simp] theorem State.setPart_vsets (x : Part) : (s.setPart k x).vsets = s.vsets := rfl
@[simp] theorem State.setPart_fields (x : Part) : (s.setPart k x).fields = s.fields := rfl
@[simp] theorem State.setPart_hosts (x : Part) : (s.setPart k x).hosts = s.hosts := rfl
@[simp] theorem State.setPart_rebind (x : Part) : (s.setPart k x).rebind = s.rebind := rfl
@[simp] theorem State.setPart_floods (x : Part) : (s.setPart k x).floods = s.floods := rfl
@[simp] theorem State.setPart_partner (x : Part) : (s.setPart k x).partner = s.partner := rfl
@[simp] theorem State.setPart_net (x : Part) : (s.setPart k x).net = s.net := rfl
@[simp] theorem State.setPart_hbm (x : Part) : (s.setPart k x).hbm = s.hbm := rfl
@[simp] theorem State.setPart_checks (x : Part) : (s.setPart k x).checks = s.checks := rfl
@[simp] theorem State.setPart_splices (x : Part) : (s.setPart k x).splices = s.splices := rfl
@[simp] theorem State.setPart_rollbacks (x : Part) : (s.setPart k x).rollbacks = s.rollbacks := rfl
@[simp] theorem State.setPart_peers (x : Part) : (s.setPart k x).peers = s.peers := rfl
@[simp] theorem State.setPart_images (x : Part) : (s.setPart k x).images = s.images := rfl
@[simp] theorem State.setPart_sys (x : Part) : (s.setPart k x).sys = s.sys := rfl
@[simp] theorem State.setPart_deep (x : Part) : (s.setPart k x).deep = s.deep := rfl
@[simp] theorem State.part_setPart (x : Part) : (s.setPart k x).part k = x := Tbl.get_set_self _ _ _ _
theorem State.part_setPart_ne (x : Part) (h : j ≠ k) : (s.setPart k x).part j = s.part j := Tbl.get_set_ne _ _ _ h
theorem State.part_setPart_eq (x : Part) : (s.setPart k x).part j = if j = k then x else s.part j := Tbl.get_set _ _ _ _ _
@[simp] theorem State.ctx_setPart (x : Part) : (s.setPart k x).ctx j = s.ctx j := rfl
@[simp] theorem State.core_setPart (x : Part) : (s.setPart k x).core j = s.core j := rfl
@[simp] theorem State.tile_setPart (x : Part) : (s.setPart k x).tile j = s.tile j := rfl
@[simp] theorem State.site_setPart (x : Part) : (s.setPart k x).site j = s.site j := rfl
@[simp] theorem State.crew_setPart (x : Part) : (s.setPart k x).crew j = s.crew j := rfl
@[simp] theorem State.gw_setPart (x : Part) : (s.setPart k x).gw j = s.gw j := rfl
@[simp] theorem State.home_setPart (x : Part) : (s.setPart k x).home j = s.home j := rfl
@[simp] theorem State.vset_setPart (x : Part) : (s.setPart k x).vset j = s.vset j := rfl
@[simp] theorem State.field_setPart (x : Part) : (s.setPart k x).field j = s.field j := rfl
@[simp] theorem State.host_setPart (x : Part) : (s.setPart k x).host j = s.host j := rfl

@[simp] theorem State.setGw_sched (x : Gw) : (s.setGw k x).sched = s.sched := rfl
@[simp] theorem State.setGw_cur (x : Gw) : (s.setGw k x).cur = s.cur := rfl
@[simp] theorem State.setGw_free (x : Gw) : (s.setGw k x).free = s.free := rfl
@[simp] theorem State.setGw_nextId (x : Gw) : (s.setGw k x).nextId = s.nextId := rfl
@[simp] theorem State.setGw_mem (x : Gw) : (s.setGw k x).mem = s.mem := rfl
@[simp] theorem State.setGw_ctxs (x : Gw) : (s.setGw k x).ctxs = s.ctxs := rfl
@[simp] theorem State.setGw_cores (x : Gw) : (s.setGw k x).cores = s.cores := rfl
@[simp] theorem State.setGw_tiles (x : Gw) : (s.setGw k x).tiles = s.tiles := rfl
@[simp] theorem State.setGw_sites (x : Gw) : (s.setGw k x).sites = s.sites := rfl
@[simp] theorem State.setGw_crews (x : Gw) : (s.setGw k x).crews = s.crews := rfl
@[simp] theorem State.setGw_parts (x : Gw) : (s.setGw k x).parts = s.parts := rfl
@[simp] theorem State.setGw_homes (x : Gw) : (s.setGw k x).homes = s.homes := rfl
@[simp] theorem State.setGw_vsets (x : Gw) : (s.setGw k x).vsets = s.vsets := rfl
@[simp] theorem State.setGw_fields (x : Gw) : (s.setGw k x).fields = s.fields := rfl
@[simp] theorem State.setGw_hosts (x : Gw) : (s.setGw k x).hosts = s.hosts := rfl
@[simp] theorem State.setGw_rebind (x : Gw) : (s.setGw k x).rebind = s.rebind := rfl
@[simp] theorem State.setGw_floods (x : Gw) : (s.setGw k x).floods = s.floods := rfl
@[simp] theorem State.setGw_partner (x : Gw) : (s.setGw k x).partner = s.partner := rfl
@[simp] theorem State.setGw_net (x : Gw) : (s.setGw k x).net = s.net := rfl
@[simp] theorem State.setGw_hbm (x : Gw) : (s.setGw k x).hbm = s.hbm := rfl
@[simp] theorem State.setGw_checks (x : Gw) : (s.setGw k x).checks = s.checks := rfl
@[simp] theorem State.setGw_splices (x : Gw) : (s.setGw k x).splices = s.splices := rfl
@[simp] theorem State.setGw_rollbacks (x : Gw) : (s.setGw k x).rollbacks = s.rollbacks := rfl
@[simp] theorem State.setGw_peers (x : Gw) : (s.setGw k x).peers = s.peers := rfl
@[simp] theorem State.setGw_images (x : Gw) : (s.setGw k x).images = s.images := rfl
@[simp] theorem State.setGw_sys (x : Gw) : (s.setGw k x).sys = s.sys := rfl
@[simp] theorem State.setGw_deep (x : Gw) : (s.setGw k x).deep = s.deep := rfl
@[simp] theorem State.gw_setGw (x : Gw) : (s.setGw k x).gw k = x := Tbl.get_set_self _ _ _ _
theorem State.gw_setGw_ne (x : Gw) (h : j ≠ k) : (s.setGw k x).gw j = s.gw j := Tbl.get_set_ne _ _ _ h
theorem State.gw_setGw_eq (x : Gw) : (s.setGw k x).gw j = if j = k then x else s.gw j := Tbl.get_set _ _ _ _ _
@[simp] theorem State.ctx_setGw (x : Gw) : (s.setGw k x).ctx j = s.ctx j := rfl
@[simp] theorem State.core_setGw (x : Gw) : (s.setGw k x).core j = s.core j := rfl
@[simp] theorem State.tile_setGw (x : Gw) : (s.setGw k x).tile j = s.tile j := rfl
@[simp] theorem State.site_setGw (x : Gw) : (s.setGw k x).site j = s.site j := rfl
@[simp] theorem State.crew_setGw (x : Gw) : (s.setGw k x).crew j = s.crew j := rfl
@[simp] theorem State.part_setGw (x : Gw) : (s.setGw k x).part j = s.part j := rfl
@[simp] theorem State.home_setGw (x : Gw) : (s.setGw k x).home j = s.home j := rfl
@[simp] theorem State.vset_setGw (x : Gw) : (s.setGw k x).vset j = s.vset j := rfl
@[simp] theorem State.field_setGw (x : Gw) : (s.setGw k x).field j = s.field j := rfl
@[simp] theorem State.host_setGw (x : Gw) : (s.setGw k x).host j = s.host j := rfl

@[simp] theorem State.setHome_sched (x : Home) : (s.setHome k x).sched = s.sched := rfl
@[simp] theorem State.setHome_cur (x : Home) : (s.setHome k x).cur = s.cur := rfl
@[simp] theorem State.setHome_free (x : Home) : (s.setHome k x).free = s.free := rfl
@[simp] theorem State.setHome_nextId (x : Home) : (s.setHome k x).nextId = s.nextId := rfl
@[simp] theorem State.setHome_mem (x : Home) : (s.setHome k x).mem = s.mem := rfl
@[simp] theorem State.setHome_ctxs (x : Home) : (s.setHome k x).ctxs = s.ctxs := rfl
@[simp] theorem State.setHome_cores (x : Home) : (s.setHome k x).cores = s.cores := rfl
@[simp] theorem State.setHome_tiles (x : Home) : (s.setHome k x).tiles = s.tiles := rfl
@[simp] theorem State.setHome_sites (x : Home) : (s.setHome k x).sites = s.sites := rfl
@[simp] theorem State.setHome_crews (x : Home) : (s.setHome k x).crews = s.crews := rfl
@[simp] theorem State.setHome_parts (x : Home) : (s.setHome k x).parts = s.parts := rfl
@[simp] theorem State.setHome_gws (x : Home) : (s.setHome k x).gws = s.gws := rfl
@[simp] theorem State.setHome_vsets (x : Home) : (s.setHome k x).vsets = s.vsets := rfl
@[simp] theorem State.setHome_fields (x : Home) : (s.setHome k x).fields = s.fields := rfl
@[simp] theorem State.setHome_hosts (x : Home) : (s.setHome k x).hosts = s.hosts := rfl
@[simp] theorem State.setHome_rebind (x : Home) : (s.setHome k x).rebind = s.rebind := rfl
@[simp] theorem State.setHome_floods (x : Home) : (s.setHome k x).floods = s.floods := rfl
@[simp] theorem State.setHome_partner (x : Home) : (s.setHome k x).partner = s.partner := rfl
@[simp] theorem State.setHome_net (x : Home) : (s.setHome k x).net = s.net := rfl
@[simp] theorem State.setHome_hbm (x : Home) : (s.setHome k x).hbm = s.hbm := rfl
@[simp] theorem State.setHome_checks (x : Home) : (s.setHome k x).checks = s.checks := rfl
@[simp] theorem State.setHome_splices (x : Home) : (s.setHome k x).splices = s.splices := rfl
@[simp] theorem State.setHome_rollbacks (x : Home) : (s.setHome k x).rollbacks = s.rollbacks := rfl
@[simp] theorem State.setHome_peers (x : Home) : (s.setHome k x).peers = s.peers := rfl
@[simp] theorem State.setHome_images (x : Home) : (s.setHome k x).images = s.images := rfl
@[simp] theorem State.setHome_sys (x : Home) : (s.setHome k x).sys = s.sys := rfl
@[simp] theorem State.setHome_deep (x : Home) : (s.setHome k x).deep = s.deep := rfl
@[simp] theorem State.home_setHome (x : Home) : (s.setHome k x).home k = x := Tbl.get_set_self _ _ _ _
theorem State.home_setHome_ne (x : Home) (h : j ≠ k) : (s.setHome k x).home j = s.home j := Tbl.get_set_ne _ _ _ h
theorem State.home_setHome_eq (x : Home) : (s.setHome k x).home j = if j = k then x else s.home j := Tbl.get_set _ _ _ _ _
@[simp] theorem State.ctx_setHome (x : Home) : (s.setHome k x).ctx j = s.ctx j := rfl
@[simp] theorem State.core_setHome (x : Home) : (s.setHome k x).core j = s.core j := rfl
@[simp] theorem State.tile_setHome (x : Home) : (s.setHome k x).tile j = s.tile j := rfl
@[simp] theorem State.site_setHome (x : Home) : (s.setHome k x).site j = s.site j := rfl
@[simp] theorem State.crew_setHome (x : Home) : (s.setHome k x).crew j = s.crew j := rfl
@[simp] theorem State.part_setHome (x : Home) : (s.setHome k x).part j = s.part j := rfl
@[simp] theorem State.gw_setHome (x : Home) : (s.setHome k x).gw j = s.gw j := rfl
@[simp] theorem State.vset_setHome (x : Home) : (s.setHome k x).vset j = s.vset j := rfl
@[simp] theorem State.field_setHome (x : Home) : (s.setHome k x).field j = s.field j := rfl
@[simp] theorem State.host_setHome (x : Home) : (s.setHome k x).host j = s.host j := rfl

@[simp] theorem State.setVset_sched (x : VSet) : (s.setVset k x).sched = s.sched := rfl
@[simp] theorem State.setVset_cur (x : VSet) : (s.setVset k x).cur = s.cur := rfl
@[simp] theorem State.setVset_free (x : VSet) : (s.setVset k x).free = s.free := rfl
@[simp] theorem State.setVset_nextId (x : VSet) : (s.setVset k x).nextId = s.nextId := rfl
@[simp] theorem State.setVset_mem (x : VSet) : (s.setVset k x).mem = s.mem := rfl
@[simp] theorem State.setVset_ctxs (x : VSet) : (s.setVset k x).ctxs = s.ctxs := rfl
@[simp] theorem State.setVset_cores (x : VSet) : (s.setVset k x).cores = s.cores := rfl
@[simp] theorem State.setVset_tiles (x : VSet) : (s.setVset k x).tiles = s.tiles := rfl
@[simp] theorem State.setVset_sites (x : VSet) : (s.setVset k x).sites = s.sites := rfl
@[simp] theorem State.setVset_crews (x : VSet) : (s.setVset k x).crews = s.crews := rfl
@[simp] theorem State.setVset_parts (x : VSet) : (s.setVset k x).parts = s.parts := rfl
@[simp] theorem State.setVset_gws (x : VSet) : (s.setVset k x).gws = s.gws := rfl
@[simp] theorem State.setVset_homes (x : VSet) : (s.setVset k x).homes = s.homes := rfl
@[simp] theorem State.setVset_fields (x : VSet) : (s.setVset k x).fields = s.fields := rfl
@[simp] theorem State.setVset_hosts (x : VSet) : (s.setVset k x).hosts = s.hosts := rfl
@[simp] theorem State.setVset_rebind (x : VSet) : (s.setVset k x).rebind = s.rebind := rfl
@[simp] theorem State.setVset_floods (x : VSet) : (s.setVset k x).floods = s.floods := rfl
@[simp] theorem State.setVset_partner (x : VSet) : (s.setVset k x).partner = s.partner := rfl
@[simp] theorem State.setVset_net (x : VSet) : (s.setVset k x).net = s.net := rfl
@[simp] theorem State.setVset_hbm (x : VSet) : (s.setVset k x).hbm = s.hbm := rfl
@[simp] theorem State.setVset_checks (x : VSet) : (s.setVset k x).checks = s.checks := rfl
@[simp] theorem State.setVset_splices (x : VSet) : (s.setVset k x).splices = s.splices := rfl
@[simp] theorem State.setVset_rollbacks (x : VSet) : (s.setVset k x).rollbacks = s.rollbacks := rfl
@[simp] theorem State.setVset_peers (x : VSet) : (s.setVset k x).peers = s.peers := rfl
@[simp] theorem State.setVset_images (x : VSet) : (s.setVset k x).images = s.images := rfl
@[simp] theorem State.setVset_sys (x : VSet) : (s.setVset k x).sys = s.sys := rfl
@[simp] theorem State.setVset_deep (x : VSet) : (s.setVset k x).deep = s.deep := rfl
@[simp] theorem State.vset_setVset (x : VSet) : (s.setVset k x).vset k = x := Tbl.get_set_self _ _ _ _
theorem State.vset_setVset_ne (x : VSet) (h : j ≠ k) : (s.setVset k x).vset j = s.vset j := Tbl.get_set_ne _ _ _ h
theorem State.vset_setVset_eq (x : VSet) : (s.setVset k x).vset j = if j = k then x else s.vset j := Tbl.get_set _ _ _ _ _
@[simp] theorem State.ctx_setVset (x : VSet) : (s.setVset k x).ctx j = s.ctx j := rfl
@[simp] theorem State.core_setVset (x : VSet) : (s.setVset k x).core j = s.core j := rfl
@[simp] theorem State.tile_setVset (x : VSet) : (s.setVset k x).tile j = s.tile j := rfl
@[simp] theorem State.site_setVset (x : VSet) : (s.setVset k x).site j = s.site j := rfl
@[simp] theorem State.crew_setVset (x : VSet) : (s.setVset k x).crew j = s.crew j := rfl
@[simp] theorem State.part_setVset (x : VSet) : (s.setVset k x).part j = s.part j := rfl
@[simp] theorem State.gw_setVset (x : VSet) : (s.setVset k x).gw j = s.gw j := rfl
@[simp] theorem State.home_setVset (x : VSet) : (s.setVset k x).home j = s.home j := rfl
@[simp] theorem State.field_setVset (x : VSet) : (s.setVset k x).field j = s.field j := rfl
@[simp] theorem State.host_setVset (x : VSet) : (s.setVset k x).host j = s.host j := rfl

@[simp] theorem State.setField_sched (x : Fld) : (s.setField k x).sched = s.sched := rfl
@[simp] theorem State.setField_cur (x : Fld) : (s.setField k x).cur = s.cur := rfl
@[simp] theorem State.setField_free (x : Fld) : (s.setField k x).free = s.free := rfl
@[simp] theorem State.setField_nextId (x : Fld) : (s.setField k x).nextId = s.nextId := rfl
@[simp] theorem State.setField_mem (x : Fld) : (s.setField k x).mem = s.mem := rfl
@[simp] theorem State.setField_ctxs (x : Fld) : (s.setField k x).ctxs = s.ctxs := rfl
@[simp] theorem State.setField_cores (x : Fld) : (s.setField k x).cores = s.cores := rfl
@[simp] theorem State.setField_tiles (x : Fld) : (s.setField k x).tiles = s.tiles := rfl
@[simp] theorem State.setField_sites (x : Fld) : (s.setField k x).sites = s.sites := rfl
@[simp] theorem State.setField_crews (x : Fld) : (s.setField k x).crews = s.crews := rfl
@[simp] theorem State.setField_parts (x : Fld) : (s.setField k x).parts = s.parts := rfl
@[simp] theorem State.setField_gws (x : Fld) : (s.setField k x).gws = s.gws := rfl
@[simp] theorem State.setField_homes (x : Fld) : (s.setField k x).homes = s.homes := rfl
@[simp] theorem State.setField_vsets (x : Fld) : (s.setField k x).vsets = s.vsets := rfl
@[simp] theorem State.setField_hosts (x : Fld) : (s.setField k x).hosts = s.hosts := rfl
@[simp] theorem State.setField_rebind (x : Fld) : (s.setField k x).rebind = s.rebind := rfl
@[simp] theorem State.setField_floods (x : Fld) : (s.setField k x).floods = s.floods := rfl
@[simp] theorem State.setField_partner (x : Fld) : (s.setField k x).partner = s.partner := rfl
@[simp] theorem State.setField_net (x : Fld) : (s.setField k x).net = s.net := rfl
@[simp] theorem State.setField_hbm (x : Fld) : (s.setField k x).hbm = s.hbm := rfl
@[simp] theorem State.setField_checks (x : Fld) : (s.setField k x).checks = s.checks := rfl
@[simp] theorem State.setField_splices (x : Fld) : (s.setField k x).splices = s.splices := rfl
@[simp] theorem State.setField_rollbacks (x : Fld) : (s.setField k x).rollbacks = s.rollbacks := rfl
@[simp] theorem State.setField_peers (x : Fld) : (s.setField k x).peers = s.peers := rfl
@[simp] theorem State.setField_images (x : Fld) : (s.setField k x).images = s.images := rfl
@[simp] theorem State.setField_sys (x : Fld) : (s.setField k x).sys = s.sys := rfl
@[simp] theorem State.setField_deep (x : Fld) : (s.setField k x).deep = s.deep := rfl
@[simp] theorem State.field_setField (x : Fld) : (s.setField k x).field k = x := Tbl.get_set_self _ _ _ _
theorem State.field_setField_ne (x : Fld) (h : j ≠ k) : (s.setField k x).field j = s.field j := Tbl.get_set_ne _ _ _ h
theorem State.field_setField_eq (x : Fld) : (s.setField k x).field j = if j = k then x else s.field j := Tbl.get_set _ _ _ _ _
@[simp] theorem State.ctx_setField (x : Fld) : (s.setField k x).ctx j = s.ctx j := rfl
@[simp] theorem State.core_setField (x : Fld) : (s.setField k x).core j = s.core j := rfl
@[simp] theorem State.tile_setField (x : Fld) : (s.setField k x).tile j = s.tile j := rfl
@[simp] theorem State.site_setField (x : Fld) : (s.setField k x).site j = s.site j := rfl
@[simp] theorem State.crew_setField (x : Fld) : (s.setField k x).crew j = s.crew j := rfl
@[simp] theorem State.part_setField (x : Fld) : (s.setField k x).part j = s.part j := rfl
@[simp] theorem State.gw_setField (x : Fld) : (s.setField k x).gw j = s.gw j := rfl
@[simp] theorem State.home_setField (x : Fld) : (s.setField k x).home j = s.home j := rfl
@[simp] theorem State.vset_setField (x : Fld) : (s.setField k x).vset j = s.vset j := rfl
@[simp] theorem State.host_setField (x : Fld) : (s.setField k x).host j = s.host j := rfl

@[simp] theorem State.setHost_sched (x : HostFn) : (s.setHost k x).sched = s.sched := rfl
@[simp] theorem State.setHost_cur (x : HostFn) : (s.setHost k x).cur = s.cur := rfl
@[simp] theorem State.setHost_free (x : HostFn) : (s.setHost k x).free = s.free := rfl
@[simp] theorem State.setHost_nextId (x : HostFn) : (s.setHost k x).nextId = s.nextId := rfl
@[simp] theorem State.setHost_mem (x : HostFn) : (s.setHost k x).mem = s.mem := rfl
@[simp] theorem State.setHost_ctxs (x : HostFn) : (s.setHost k x).ctxs = s.ctxs := rfl
@[simp] theorem State.setHost_cores (x : HostFn) : (s.setHost k x).cores = s.cores := rfl
@[simp] theorem State.setHost_tiles (x : HostFn) : (s.setHost k x).tiles = s.tiles := rfl
@[simp] theorem State.setHost_sites (x : HostFn) : (s.setHost k x).sites = s.sites := rfl
@[simp] theorem State.setHost_crews (x : HostFn) : (s.setHost k x).crews = s.crews := rfl
@[simp] theorem State.setHost_parts (x : HostFn) : (s.setHost k x).parts = s.parts := rfl
@[simp] theorem State.setHost_gws (x : HostFn) : (s.setHost k x).gws = s.gws := rfl
@[simp] theorem State.setHost_homes (x : HostFn) : (s.setHost k x).homes = s.homes := rfl
@[simp] theorem State.setHost_vsets (x : HostFn) : (s.setHost k x).vsets = s.vsets := rfl
@[simp] theorem State.setHost_fields (x : HostFn) : (s.setHost k x).fields = s.fields := rfl
@[simp] theorem State.setHost_rebind (x : HostFn) : (s.setHost k x).rebind = s.rebind := rfl
@[simp] theorem State.setHost_floods (x : HostFn) : (s.setHost k x).floods = s.floods := rfl
@[simp] theorem State.setHost_partner (x : HostFn) : (s.setHost k x).partner = s.partner := rfl
@[simp] theorem State.setHost_net (x : HostFn) : (s.setHost k x).net = s.net := rfl
@[simp] theorem State.setHost_hbm (x : HostFn) : (s.setHost k x).hbm = s.hbm := rfl
@[simp] theorem State.setHost_checks (x : HostFn) : (s.setHost k x).checks = s.checks := rfl
@[simp] theorem State.setHost_splices (x : HostFn) : (s.setHost k x).splices = s.splices := rfl
@[simp] theorem State.setHost_rollbacks (x : HostFn) : (s.setHost k x).rollbacks = s.rollbacks := rfl
@[simp] theorem State.setHost_peers (x : HostFn) : (s.setHost k x).peers = s.peers := rfl
@[simp] theorem State.setHost_images (x : HostFn) : (s.setHost k x).images = s.images := rfl
@[simp] theorem State.setHost_sys (x : HostFn) : (s.setHost k x).sys = s.sys := rfl
@[simp] theorem State.setHost_deep (x : HostFn) : (s.setHost k x).deep = s.deep := rfl
@[simp] theorem State.host_setHost (x : HostFn) : (s.setHost k x).host k = x := Tbl.get_set_self _ _ _ _
theorem State.host_setHost_ne (x : HostFn) (h : j ≠ k) : (s.setHost k x).host j = s.host j := Tbl.get_set_ne _ _ _ h
theorem State.host_setHost_eq (x : HostFn) : (s.setHost k x).host j = if j = k then x else s.host j := Tbl.get_set _ _ _ _ _
@[simp] theorem State.ctx_setHost (x : HostFn) : (s.setHost k x).ctx j = s.ctx j := rfl
@[simp] theorem State.core_setHost (x : HostFn) : (s.setHost k x).core j = s.core j := rfl
@[simp] theorem State.tile_setHost (x : HostFn) : (s.setHost k x).tile j = s.tile j := rfl
@[simp] theorem State.site_setHost (x : HostFn) : (s.setHost k x).site j = s.site j := rfl
@[simp] theorem State.crew_setHost (x : HostFn) : (s.setHost k x).crew j = s.crew j := rfl
@[simp] theorem State.part_setHost (x : HostFn) : (s.setHost k x).part j = s.part j := rfl
@[simp] theorem State.gw_setHost (x : HostFn) : (s.setHost k x).gw j = s.gw j := rfl
@[simp] theorem State.home_setHost (x : HostFn) : (s.setHost k x).home j = s.home j := rfl
@[simp] theorem State.vset_setHost (x : HostFn) : (s.setHost k x).vset j = s.vset j := rfl
@[simp] theorem State.field_setHost (x : HostFn) : (s.setHost k x).field j = s.field j := rfl

@[simp] theorem State.modCtx_sched (f : Ctx → Ctx) : (s.modCtx k f).sched = s.sched := rfl
@[simp] theorem State.modCtx_cur (f : Ctx → Ctx) : (s.modCtx k f).cur = s.cur := rfl
@[simp] theorem State.modCtx_free (f : Ctx → Ctx) : (s.modCtx k f).free = s.free := rfl
@[simp] theorem State.modCtx_nextId (f : Ctx → Ctx) : (s.modCtx k f).nextId = s.nextId := rfl
@[simp] theorem State.modCtx_mem (f : Ctx → Ctx) : (s.modCtx k f).mem = s.mem := rfl
@[simp] theorem State.modCtx_cores (f : Ctx → Ctx) : (s.modCtx k f).cores = s.cores := rfl
@[simp] theorem State.modCtx_tiles (f : Ctx → Ctx) : (s.modCtx k f).tiles = s.tiles := rfl
@[simp] theorem State.modCtx_sites (f : Ctx → Ctx) : (s.modCtx k f).sites = s.sites := rfl
@[simp] theorem State.modCtx_crews (f : Ctx → Ctx) : (s.modCtx k f).crews = s.crews := rfl
@[simp] theorem State.modCtx_parts (f : Ctx → Ctx) : (s.modCtx k f).parts = s.parts := rfl
@[simp] theorem State.modCtx_gws (f : Ctx → Ctx) : (s.modCtx k f).gws = s.gws := rfl
@[simp] theorem State.modCtx_homes (f : Ctx → Ctx) : (s.modCtx k f).homes = s.homes := rfl
@[simp] theorem State.modCtx_vsets (f : Ctx → Ctx) : (s.modCtx k f).vsets = s.vsets := rfl
@[simp] theorem State.modCtx_fields (f : Ctx → Ctx) : (s.modCtx k f).fields = s.fields := rfl
@[simp] theorem State.modCtx_hosts (f : Ctx → Ctx) : (s.modCtx k f).hosts = s.hosts := rfl
@[simp] theorem State.modCtx_rebind (f : Ctx → Ctx) : (s.modCtx k f).rebind = s.rebind := rfl
@[simp] theorem State.modCtx_floods (f : Ctx → Ctx) : (s.modCtx k f).floods = s.floods := rfl
@[simp] theorem State.modCtx_partner (f : Ctx → Ctx) : (s.modCtx k f).partner = s.partner := rfl
@[simp] theorem State.modCtx_net (f : Ctx → Ctx) : (s.modCtx k f).net = s.net := rfl
@[simp] theorem State.modCtx_hbm (f : Ctx → Ctx) : (s.modCtx k f).hbm = s.hbm := rfl
@[simp] theorem State.modCtx_checks (f : Ctx → Ctx) : (s.modCtx k f).checks = s.checks := rfl
@[simp] theorem State.modCtx_splices (f : Ctx → Ctx) : (s.modCtx k f).splices = s.splices := rfl
@[simp] theorem State.modCtx_rollbacks (f : Ctx → Ctx) : (s.modCtx k f).rollbacks = s.rollbacks := rfl
@[simp] theorem State.modCtx_peers (f : Ctx → Ctx) : (s.modCtx k f).peers = s.peers := rfl
@[simp] theorem State.modCtx_images (f : Ctx → Ctx) : (s.modCtx k f).images = s.images := rfl
@[simp] theorem State.modCtx_sys (f : Ctx → Ctx) : (s.modCtx k f).sys = s.sys := rfl
@[simp] theorem State.modCtx_deep (f : Ctx → Ctx) : (s.modCtx k f).deep = s.deep := rfl
@[simp] theorem State.ctx_modCtx (f : Ctx → Ctx) : (s.modCtx k f).ctx k = f (s.ctx k) := Tbl.get_set_self _ _ _ _
theorem State.ctx_modCtx_ne (f : Ctx → Ctx) (h : j ≠ k) : (s.modCtx k f).ctx j = s.ctx j := Tbl.get_set_ne _ _ _ h
theorem State.ctx_modCtx_eq (f : Ctx → Ctx) : (s.modCtx k f).ctx j = if j = k then f (s.ctx k) else s.ctx j := Tbl.get_set _ _ _ _ _
@[simp] theorem State.core_modCtx (f : Ctx → Ctx) : (s.modCtx k f).core j = s.core j := rfl
@[simp] theorem State.tile_modCtx (f : Ctx → Ctx) : (s.modCtx k f).tile j = s.tile j := rfl
@[simp] theorem State.site_modCtx (f : Ctx → Ctx) : (s.modCtx k f).site j = s.site j := rfl
@[simp] theorem State.crew_modCtx (f : Ctx → Ctx) : (s.modCtx k f).crew j = s.crew j := rfl
@[simp] theorem State.part_modCtx (f : Ctx → Ctx) : (s.modCtx k f).part j = s.part j := rfl
@[simp] theorem State.gw_modCtx (f : Ctx → Ctx) : (s.modCtx k f).gw j = s.gw j := rfl
@[simp] theorem State.home_modCtx (f : Ctx → Ctx) : (s.modCtx k f).home j = s.home j := rfl
@[simp] theorem State.vset_modCtx (f : Ctx → Ctx) : (s.modCtx k f).vset j = s.vset j := rfl
@[simp] theorem State.field_modCtx (f : Ctx → Ctx) : (s.modCtx k f).field j = s.field j := rfl
@[simp] theorem State.host_modCtx (f : Ctx → Ctx) : (s.modCtx k f).host j = s.host j := rfl

@[simp] theorem State.modCore_sched (f : Core → Core) : (s.modCore k f).sched = s.sched := rfl
@[simp] theorem State.modCore_cur (f : Core → Core) : (s.modCore k f).cur = s.cur := rfl
@[simp] theorem State.modCore_free (f : Core → Core) : (s.modCore k f).free = s.free := rfl
@[simp] theorem State.modCore_nextId (f : Core → Core) : (s.modCore k f).nextId = s.nextId := rfl
@[simp] theorem State.modCore_mem (f : Core → Core) : (s.modCore k f).mem = s.mem := rfl
@[simp] theorem State.modCore_ctxs (f : Core → Core) : (s.modCore k f).ctxs = s.ctxs := rfl
@[simp] theorem State.modCore_tiles (f : Core → Core) : (s.modCore k f).tiles = s.tiles := rfl
@[simp] theorem State.modCore_sites (f : Core → Core) : (s.modCore k f).sites = s.sites := rfl
@[simp] theorem State.modCore_crews (f : Core → Core) : (s.modCore k f).crews = s.crews := rfl
@[simp] theorem State.modCore_parts (f : Core → Core) : (s.modCore k f).parts = s.parts := rfl
@[simp] theorem State.modCore_gws (f : Core → Core) : (s.modCore k f).gws = s.gws := rfl
@[simp] theorem State.modCore_homes (f : Core → Core) : (s.modCore k f).homes = s.homes := rfl
@[simp] theorem State.modCore_vsets (f : Core → Core) : (s.modCore k f).vsets = s.vsets := rfl
@[simp] theorem State.modCore_fields (f : Core → Core) : (s.modCore k f).fields = s.fields := rfl
@[simp] theorem State.modCore_hosts (f : Core → Core) : (s.modCore k f).hosts = s.hosts := rfl
@[simp] theorem State.modCore_rebind (f : Core → Core) : (s.modCore k f).rebind = s.rebind := rfl
@[simp] theorem State.modCore_floods (f : Core → Core) : (s.modCore k f).floods = s.floods := rfl
@[simp] theorem State.modCore_partner (f : Core → Core) : (s.modCore k f).partner = s.partner := rfl
@[simp] theorem State.modCore_net (f : Core → Core) : (s.modCore k f).net = s.net := rfl
@[simp] theorem State.modCore_hbm (f : Core → Core) : (s.modCore k f).hbm = s.hbm := rfl
@[simp] theorem State.modCore_checks (f : Core → Core) : (s.modCore k f).checks = s.checks := rfl
@[simp] theorem State.modCore_splices (f : Core → Core) : (s.modCore k f).splices = s.splices := rfl
@[simp] theorem State.modCore_rollbacks (f : Core → Core) : (s.modCore k f).rollbacks = s.rollbacks := rfl
@[simp] theorem State.modCore_peers (f : Core → Core) : (s.modCore k f).peers = s.peers := rfl
@[simp] theorem State.modCore_images (f : Core → Core) : (s.modCore k f).images = s.images := rfl
@[simp] theorem State.modCore_sys (f : Core → Core) : (s.modCore k f).sys = s.sys := rfl
@[simp] theorem State.modCore_deep (f : Core → Core) : (s.modCore k f).deep = s.deep := rfl
@[simp] theorem State.core_modCore (f : Core → Core) : (s.modCore k f).core k = f (s.core k) := Tbl.get_set_self _ _ _ _
theorem State.core_modCore_ne (f : Core → Core) (h : j ≠ k) : (s.modCore k f).core j = s.core j := Tbl.get_set_ne _ _ _ h
theorem State.core_modCore_eq (f : Core → Core) : (s.modCore k f).core j = if j = k then f (s.core k) else s.core j := Tbl.get_set _ _ _ _ _
@[simp] theorem State.ctx_modCore (f : Core → Core) : (s.modCore k f).ctx j = s.ctx j := rfl
@[simp] theorem State.tile_modCore (f : Core → Core) : (s.modCore k f).tile j = s.tile j := rfl
@[simp] theorem State.site_modCore (f : Core → Core) : (s.modCore k f).site j = s.site j := rfl
@[simp] theorem State.crew_modCore (f : Core → Core) : (s.modCore k f).crew j = s.crew j := rfl
@[simp] theorem State.part_modCore (f : Core → Core) : (s.modCore k f).part j = s.part j := rfl
@[simp] theorem State.gw_modCore (f : Core → Core) : (s.modCore k f).gw j = s.gw j := rfl
@[simp] theorem State.home_modCore (f : Core → Core) : (s.modCore k f).home j = s.home j := rfl
@[simp] theorem State.vset_modCore (f : Core → Core) : (s.modCore k f).vset j = s.vset j := rfl
@[simp] theorem State.field_modCore (f : Core → Core) : (s.modCore k f).field j = s.field j := rfl
@[simp] theorem State.host_modCore (f : Core → Core) : (s.modCore k f).host j = s.host j := rfl

@[simp] theorem State.modTile_sched (f : Tile → Tile) : (s.modTile k f).sched = s.sched := rfl
@[simp] theorem State.modTile_cur (f : Tile → Tile) : (s.modTile k f).cur = s.cur := rfl
@[simp] theorem State.modTile_free (f : Tile → Tile) : (s.modTile k f).free = s.free := rfl
@[simp] theorem State.modTile_nextId (f : Tile → Tile) : (s.modTile k f).nextId = s.nextId := rfl
@[simp] theorem State.modTile_mem (f : Tile → Tile) : (s.modTile k f).mem = s.mem := rfl
@[simp] theorem State.modTile_ctxs (f : Tile → Tile) : (s.modTile k f).ctxs = s.ctxs := rfl
@[simp] theorem State.modTile_cores (f : Tile → Tile) : (s.modTile k f).cores = s.cores := rfl
@[simp] theorem State.modTile_sites (f : Tile → Tile) : (s.modTile k f).sites = s.sites := rfl
@[simp] theorem State.modTile_crews (f : Tile → Tile) : (s.modTile k f).crews = s.crews := rfl
@[simp] theorem State.modTile_parts (f : Tile → Tile) : (s.modTile k f).parts = s.parts := rfl
@[simp] theorem State.modTile_gws (f : Tile → Tile) : (s.modTile k f).gws = s.gws := rfl
@[simp] theorem State.modTile_homes (f : Tile → Tile) : (s.modTile k f).homes = s.homes := rfl
@[simp] theorem State.modTile_vsets (f : Tile → Tile) : (s.modTile k f).vsets = s.vsets := rfl
@[simp] theorem State.modTile_fields (f : Tile → Tile) : (s.modTile k f).fields = s.fields := rfl
@[simp] theorem State.modTile_hosts (f : Tile → Tile) : (s.modTile k f).hosts = s.hosts := rfl
@[simp] theorem State.modTile_rebind (f : Tile → Tile) : (s.modTile k f).rebind = s.rebind := rfl
@[simp] theorem State.modTile_floods (f : Tile → Tile) : (s.modTile k f).floods = s.floods := rfl
@[simp] theorem State.modTile_partner (f : Tile → Tile) : (s.modTile k f).partner = s.partner := rfl
@[simp] theorem State.modTile_net (f : Tile → Tile) : (s.modTile k f).net = s.net := rfl
@[simp] theorem State.modTile_hbm (f : Tile → Tile) : (s.modTile k f).hbm = s.hbm := rfl
@[simp] theorem State.modTile_checks (f : Tile → Tile) : (s.modTile k f).checks = s.checks := rfl
@[simp] theorem State.modTile_splices (f : Tile → Tile) : (s.modTile k f).splices = s.splices := rfl
@[simp] theorem State.modTile_rollbacks (f : Tile → Tile) : (s.modTile k f).rollbacks = s.rollbacks := rfl
@[simp] theorem State.modTile_peers (f : Tile → Tile) : (s.modTile k f).peers = s.peers := rfl
@[simp] theorem State.modTile_images (f : Tile → Tile) : (s.modTile k f).images = s.images := rfl
@[simp] theorem State.modTile_sys (f : Tile → Tile) : (s.modTile k f).sys = s.sys := rfl
@[simp] theorem State.modTile_deep (f : Tile → Tile) : (s.modTile k f).deep = s.deep := rfl
@[simp] theorem State.tile_modTile (f : Tile → Tile) : (s.modTile k f).tile k = f (s.tile k) := Tbl.get_set_self _ _ _ _
theorem State.tile_modTile_ne (f : Tile → Tile) (h : j ≠ k) : (s.modTile k f).tile j = s.tile j := Tbl.get_set_ne _ _ _ h
theorem State.tile_modTile_eq (f : Tile → Tile) : (s.modTile k f).tile j = if j = k then f (s.tile k) else s.tile j := Tbl.get_set _ _ _ _ _
@[simp] theorem State.ctx_modTile (f : Tile → Tile) : (s.modTile k f).ctx j = s.ctx j := rfl
@[simp] theorem State.core_modTile (f : Tile → Tile) : (s.modTile k f).core j = s.core j := rfl
@[simp] theorem State.site_modTile (f : Tile → Tile) : (s.modTile k f).site j = s.site j := rfl
@[simp] theorem State.crew_modTile (f : Tile → Tile) : (s.modTile k f).crew j = s.crew j := rfl
@[simp] theorem State.part_modTile (f : Tile → Tile) : (s.modTile k f).part j = s.part j := rfl
@[simp] theorem State.gw_modTile (f : Tile → Tile) : (s.modTile k f).gw j = s.gw j := rfl
@[simp] theorem State.home_modTile (f : Tile → Tile) : (s.modTile k f).home j = s.home j := rfl
@[simp] theorem State.vset_modTile (f : Tile → Tile) : (s.modTile k f).vset j = s.vset j := rfl
@[simp] theorem State.field_modTile (f : Tile → Tile) : (s.modTile k f).field j = s.field j := rfl
@[simp] theorem State.host_modTile (f : Tile → Tile) : (s.modTile k f).host j = s.host j := rfl

@[simp] theorem State.modSite_sched (f : Site → Site) : (s.modSite k f).sched = s.sched := rfl
@[simp] theorem State.modSite_cur (f : Site → Site) : (s.modSite k f).cur = s.cur := rfl
@[simp] theorem State.modSite_free (f : Site → Site) : (s.modSite k f).free = s.free := rfl
@[simp] theorem State.modSite_nextId (f : Site → Site) : (s.modSite k f).nextId = s.nextId := rfl
@[simp] theorem State.modSite_mem (f : Site → Site) : (s.modSite k f).mem = s.mem := rfl
@[simp] theorem State.modSite_ctxs (f : Site → Site) : (s.modSite k f).ctxs = s.ctxs := rfl
@[simp] theorem State.modSite_cores (f : Site → Site) : (s.modSite k f).cores = s.cores := rfl
@[simp] theorem State.modSite_tiles (f : Site → Site) : (s.modSite k f).tiles = s.tiles := rfl
@[simp] theorem State.modSite_crews (f : Site → Site) : (s.modSite k f).crews = s.crews := rfl
@[simp] theorem State.modSite_parts (f : Site → Site) : (s.modSite k f).parts = s.parts := rfl
@[simp] theorem State.modSite_gws (f : Site → Site) : (s.modSite k f).gws = s.gws := rfl
@[simp] theorem State.modSite_homes (f : Site → Site) : (s.modSite k f).homes = s.homes := rfl
@[simp] theorem State.modSite_vsets (f : Site → Site) : (s.modSite k f).vsets = s.vsets := rfl
@[simp] theorem State.modSite_fields (f : Site → Site) : (s.modSite k f).fields = s.fields := rfl
@[simp] theorem State.modSite_hosts (f : Site → Site) : (s.modSite k f).hosts = s.hosts := rfl
@[simp] theorem State.modSite_rebind (f : Site → Site) : (s.modSite k f).rebind = s.rebind := rfl
@[simp] theorem State.modSite_floods (f : Site → Site) : (s.modSite k f).floods = s.floods := rfl
@[simp] theorem State.modSite_partner (f : Site → Site) : (s.modSite k f).partner = s.partner := rfl
@[simp] theorem State.modSite_net (f : Site → Site) : (s.modSite k f).net = s.net := rfl
@[simp] theorem State.modSite_hbm (f : Site → Site) : (s.modSite k f).hbm = s.hbm := rfl
@[simp] theorem State.modSite_checks (f : Site → Site) : (s.modSite k f).checks = s.checks := rfl
@[simp] theorem State.modSite_splices (f : Site → Site) : (s.modSite k f).splices = s.splices := rfl
@[simp] theorem State.modSite_rollbacks (f : Site → Site) : (s.modSite k f).rollbacks = s.rollbacks := rfl
@[simp] theorem State.modSite_peers (f : Site → Site) : (s.modSite k f).peers = s.peers := rfl
@[simp] theorem State.modSite_images (f : Site → Site) : (s.modSite k f).images = s.images := rfl
@[simp] theorem State.modSite_sys (f : Site → Site) : (s.modSite k f).sys = s.sys := rfl
@[simp] theorem State.modSite_deep (f : Site → Site) : (s.modSite k f).deep = s.deep := rfl
@[simp] theorem State.site_modSite (f : Site → Site) : (s.modSite k f).site k = f (s.site k) := Tbl.get_set_self _ _ _ _
theorem State.site_modSite_ne (f : Site → Site) (h : j ≠ k) : (s.modSite k f).site j = s.site j := Tbl.get_set_ne _ _ _ h
theorem State.site_modSite_eq (f : Site → Site) : (s.modSite k f).site j = if j = k then f (s.site k) else s.site j := Tbl.get_set _ _ _ _ _
@[simp] theorem State.ctx_modSite (f : Site → Site) : (s.modSite k f).ctx j = s.ctx j := rfl
@[simp] theorem State.core_modSite (f : Site → Site) : (s.modSite k f).core j = s.core j := rfl
@[simp] theorem State.tile_modSite (f : Site → Site) : (s.modSite k f).tile j = s.tile j := rfl
@[simp] theorem State.crew_modSite (f : Site → Site) : (s.modSite k f).crew j = s.crew j := rfl
@[simp] theorem State.part_modSite (f : Site → Site) : (s.modSite k f).part j = s.part j := rfl
@[simp] theorem State.gw_modSite (f : Site → Site) : (s.modSite k f).gw j = s.gw j := rfl
@[simp] theorem State.home_modSite (f : Site → Site) : (s.modSite k f).home j = s.home j := rfl
@[simp] theorem State.vset_modSite (f : Site → Site) : (s.modSite k f).vset j = s.vset j := rfl
@[simp] theorem State.field_modSite (f : Site → Site) : (s.modSite k f).field j = s.field j := rfl
@[simp] theorem State.host_modSite (f : Site → Site) : (s.modSite k f).host j = s.host j := rfl

@[simp] theorem State.modCrew_sched (f : Crew → Crew) : (s.modCrew k f).sched = s.sched := rfl
@[simp] theorem State.modCrew_cur (f : Crew → Crew) : (s.modCrew k f).cur = s.cur := rfl
@[simp] theorem State.modCrew_free (f : Crew → Crew) : (s.modCrew k f).free = s.free := rfl
@[simp] theorem State.modCrew_nextId (f : Crew → Crew) : (s.modCrew k f).nextId = s.nextId := rfl
@[simp] theorem State.modCrew_mem (f : Crew → Crew) : (s.modCrew k f).mem = s.mem := rfl
@[simp] theorem State.modCrew_ctxs (f : Crew → Crew) : (s.modCrew k f).ctxs = s.ctxs := rfl
@[simp] theorem State.modCrew_cores (f : Crew → Crew) : (s.modCrew k f).cores = s.cores := rfl
@[simp] theorem State.modCrew_tiles (f : Crew → Crew) : (s.modCrew k f).tiles = s.tiles := rfl
@[simp] theorem State.modCrew_sites (f : Crew → Crew) : (s.modCrew k f).sites = s.sites := rfl
@[simp] theorem State.modCrew_parts (f : Crew → Crew) : (s.modCrew k f).parts = s.parts := rfl
@[simp] theorem State.modCrew_gws (f : Crew → Crew) : (s.modCrew k f).gws = s.gws := rfl
@[simp] theorem State.modCrew_homes (f : Crew → Crew) : (s.modCrew k f).homes = s.homes := rfl
@[simp] theorem State.modCrew_vsets (f : Crew → Crew) : (s.modCrew k f).vsets = s.vsets := rfl
@[simp] theorem State.modCrew_fields (f : Crew → Crew) : (s.modCrew k f).fields = s.fields := rfl
@[simp] theorem State.modCrew_hosts (f : Crew → Crew) : (s.modCrew k f).hosts = s.hosts := rfl
@[simp] theorem State.modCrew_rebind (f : Crew → Crew) : (s.modCrew k f).rebind = s.rebind := rfl
@[simp] theorem State.modCrew_floods (f : Crew → Crew) : (s.modCrew k f).floods = s.floods := rfl
@[simp] theorem State.modCrew_partner (f : Crew → Crew) : (s.modCrew k f).partner = s.partner := rfl
@[simp] theorem State.modCrew_net (f : Crew → Crew) : (s.modCrew k f).net = s.net := rfl
@[simp] theorem State.modCrew_hbm (f : Crew → Crew) : (s.modCrew k f).hbm = s.hbm := rfl
@[simp] theorem State.modCrew_checks (f : Crew → Crew) : (s.modCrew k f).checks = s.checks := rfl
@[simp] theorem State.modCrew_splices (f : Crew → Crew) : (s.modCrew k f).splices = s.splices := rfl
@[simp] theorem State.modCrew_rollbacks (f : Crew → Crew) : (s.modCrew k f).rollbacks = s.rollbacks := rfl
@[simp] theorem State.modCrew_peers (f : Crew → Crew) : (s.modCrew k f).peers = s.peers := rfl
@[simp] theorem State.modCrew_images (f : Crew → Crew) : (s.modCrew k f).images = s.images := rfl
@[simp] theorem State.modCrew_sys (f : Crew → Crew) : (s.modCrew k f).sys = s.sys := rfl
@[simp] theorem State.modCrew_deep (f : Crew → Crew) : (s.modCrew k f).deep = s.deep := rfl
@[simp] theorem State.crew_modCrew (f : Crew → Crew) : (s.modCrew k f).crew k = f (s.crew k) := Tbl.get_set_self _ _ _ _
theorem State.crew_modCrew_ne (f : Crew → Crew) (h : j ≠ k) : (s.modCrew k f).crew j = s.crew j := Tbl.get_set_ne _ _ _ h
theorem State.crew_modCrew_eq (f : Crew → Crew) : (s.modCrew k f).crew j = if j = k then f (s.crew k) else s.crew j := Tbl.get_set _ _ _ _ _
@[simp] theorem State.ctx_modCrew (f : Crew → Crew) : (s.modCrew k f).ctx j = s.ctx j := rfl
@[simp] theorem State.core_modCrew (f : Crew → Crew) : (s.modCrew k f).core j = s.core j := rfl
@[simp] theorem State.tile_modCrew (f : Crew → Crew) : (s.modCrew k f).tile j = s.tile j := rfl
@[simp] theorem State.site_modCrew (f : Crew → Crew) : (s.modCrew k f).site j = s.site j := rfl
@[simp] theorem State.part_modCrew (f : Crew → Crew) : (s.modCrew k f).part j = s.part j := rfl
@[simp] theorem State.gw_modCrew (f : Crew → Crew) : (s.modCrew k f).gw j = s.gw j := rfl
@[simp] theorem State.home_modCrew (f : Crew → Crew) : (s.modCrew k f).home j = s.home j := rfl
@[simp] theorem State.vset_modCrew (f : Crew → Crew) : (s.modCrew k f).vset j = s.vset j := rfl
@[simp] theorem State.field_modCrew (f : Crew → Crew) : (s.modCrew k f).field j = s.field j := rfl
@[simp] theorem State.host_modCrew (f : Crew → Crew) : (s.modCrew k f).host j = s.host j := rfl

end

end Sys2Proof.Machine
end

