-- ==== Sys2Proof/Laws/Run.lean ====
section
/-! SUPPORT. Laws of the shared operations: how an instruction runs, what register writes, packets, waits, traps and log records leave
alone, and when a packet is taken. -/

namespace Sys2Proof.Machine

-- theorems one after the other: a thread for each would need more memory than the check has
set_option Elab.async false

section
variable {s t : State} {g : Guard} {f : State → Act} {n : Nat}

/-- An instruction that issues and has an effect answers it. -/
theorem run_ok (h : s.Issues g) (hf : f s = .ok t) : runThread g s f = .next t := by simp [runThread, h.1, h.2.1, hf]

theorem runPriv_ok (h : s.IssuesAt g n) (hf : f s = .ok t) : runPriv n g s f = .next t := by
  simp [runPriv, h.1.1, Nat.not_lt.mpr h.2, run_ok h.1 hf]

/-- A false guard leaves the state (R51). -/
theorem run_guard (h : s.me.used = true) (hg : s.guard g = false) : runThread g s f = .next s := by simp [runThread, h, hg]

/-- A failed check takes its trap (R389). -/
theorem run_trap {c : BitVec 8} {a : Word} (h : s.Issues g) (hf : f s = .error (.trap c a)) : runThread g s f = .next (s.raise c a) := by
  simp [runThread, h.1, h.2.1, hf]

theorem run_refuse (h : s.Issues g) (hf : f s = .error .refuse) : runThread g s f = .next (s.setRes .refused) := by
  simp [runThread, h.1, h.2.1, hf]

/-- A missing level takes privilege, whatever the guard (R41). -/
theorem runPriv_low (h : s.me.used = true) (hl : s.level < n) : runPriv n g s f = .next (s.raise cPrivilege 0) := by
  simp [runPriv, h, hl]

/-- A check that holds goes on; one that fails stops. -/
@[simp] theorem check_true (c : BitVec 8) (a : Word) : check true c a = .ok () := rfl

@[simp] theorem check_false (c : BitVec 8) (a : Word) : check false c a = .error (.trap c a) := rfl

/-- When a packet can be taken, an event of its kind takes it. -/
theorem arrived_of {p : Pkt} {u : State} {k : Nat} {q : Body → Bool} (h : s.Arrives k p u) (hq : q p.body = true) :
    s.arrived k q = some (p, u) := by
  obtain ⟨h1, h2, h0, h3, h4, h5, h6, h7, h8, h9, rfl⟩ := h
  have h10 : ((s.net.take k).all fun x => x.stream == 0 || x.stream != p.stream || !State.samePlace x p) = true := by
    rw [List.all_eq_true]
    intro x hx
    rcases h8 x hx with h | h | h <;> simp [h]
  have h11 : (s.net.all fun x => !s.outranks x p) = true := List.all_eq_true.mpr fun x hx => by simp [h9 x hx]
  simp only [State.arrived, h1, hq, h0, h3, h5, h6, h7, h10, h11]
  simp [h2, h2 ▸ h4]

end

/-- Folding updates that keep a part of the state keeps it. -/
theorem foldl_keeps {α β : Type} (p : State → β) (f : State → α → State) (h : ∀ s a, p (f s a) = p s) (l : List α) :
    ∀ s, p (l.foldl f s) = p s := by
  induction l with
  | nil => exact fun _ => rfl
  | cons a rest ih => exact fun s => (ih (f s a)).trans (h s a)

namespace State

variable (s : State) (k t : Nat)

@[simp] theorem modMe_mem (f : Ctx → Ctx) : (s.modMe f).mem = s.mem := rfl

@[simp] theorem modMe_net (f : Ctx → Ctx) : (s.modMe f).net = s.net := rfl

@[simp] theorem setRes_mem (r : Result) : (s.setRes r).mem = s.mem := rfl

@[simp] theorem raiseFlags_mem (f : BitVec 5) : (s.raiseFlags f).mem = s.mem := rfl

@[simp] theorem writeP_mem (p : BitVec 3) (v : Bool) : (s.writeP p v).mem = s.mem := by
  simp only [writeP]; split <;> simp

@[simp] theorem writeM_mem (m : BitVec 3) (v : BitVec 16) : (s.writeM m v).mem = s.mem := by
  simp only [writeM]; split <;> simp

@[simp] theorem putX_mem (rank : Nat) (r : BitVec 6) (v : Word) (lat : Nat) : (s.putX k rank r v lat).mem = s.mem := by
  simp only [putX]; (repeat' split) <;> rfl

@[simp] theorem writeX_mem (r : BitVec 6) (v : Word) (lat : Nat) : (s.writeX r v lat).mem = s.mem := putX_mem ..

@[simp] theorem sendTo_mem (a b c d e : Nat) (x : Body) : (s.sendTo a b c d e x).mem = s.mem := rfl

@[simp] theorem send_mem (a b c d e : Nat) (x : Body) : (s.send a b c d e x).mem = s.mem := rfl

@[simp] theorem addOut_mem (o : OutKind) (n : Nat) : (s.addOut k o n).2.mem = s.mem := rfl

@[simp] theorem ackOut_mem (n : Nat) : (s.ackOut k n).mem = s.mem := rfl

@[simp] theorem await_mem (w : Wait) : (s.await w).mem = s.mem := rfl

@[simp] theorem complete_mem : (s.complete k).mem = s.mem := rfl

@[simp] theorem reissue_mem : (s.reissue k).mem = s.mem := rfl

@[simp] theorem completeX_mem (d : BitVec 6) (v : Word) (lat : Nat) : (s.completeX k d v lat).mem = s.mem := by simp [completeX]

@[simp] theorem dropRedo_mem (p : LogEv → Bool) : (s.dropRedo k p).mem = s.mem := rfl

@[simp] theorem logEv_mem (e : LogEv) (n : Nat) : (s.logEv t e n).mem = s.mem := by
  simp only [logEv]; (repeat' split) <;> rfl

@[simp] theorem logWake_mem (code : BitVec 6) : (s.logWake k code).mem = s.mem := by
  simp only [logWake]; split <;> simp

@[simp] theorem wakeBit_mem : (s.wakeBit k).mem = s.mem := by
  delta wakeBit
  dsimp only
  split
  · rfl
  · generalize (s.ctx k).wait = w
    cases w <;> simp only [logWake_mem, completeX_mem] <;> rfl

@[simp] theorem takeTrap_mem (slot : Nat) (m a : Bool) (f : BitVec 5) (c : BitVec 8) (e : Word) :
    (s.takeTrap k slot m a f c e).mem = s.mem := by
  simp only [takeTrap]; split <;> simp

@[simp] theorem raise_mem (c : BitVec 8) (e : Word) : (s.raise c e).mem = s.mem := by simp [raise]

@[simp] theorem noteTrap_mem (a : Bool) (h : Option (Nat × Nat)) : (s.noteTrap a h).mem = s.mem := rfl

@[simp] theorem pendFault_mem (c : BitVec 8) (e : Word) (a : Bool) : (s.pendFault k c e a).mem = s.mem := by
  delta pendFault; dsimp only; split <;> rfl

@[simp] theorem landLate_mem : (s.landLate k).mem = s.mem := rfl

@[simp] theorem failWait_mem (c : BitVec 8) (e : Word) : (s.failWait k c e).mem = s.mem := rfl

@[simp] theorem modPkt_mem (f : Pkt → Pkt) : (s.modPkt k f).mem = s.mem := rfl

@[simp] theorem dropPkt_mem : (s.dropPkt k).mem = s.mem := rfl

@[simp] theorem crossLink_mem (p : Pkt) (port q : Nat) : (s.crossLink p port q).mem = s.mem := by
  simp [crossLink, useOut, useLink, countLink]

/-- A packet that enters the mesh stays where it is, and the memory too. -/
@[simp] theorem enterMesh_mem (p : Pkt) : (s.enterMesh p).mem = s.mem := by
  simp [enterMesh, useOut]

/-- A request that has a cycle of a bank takes the second or, kept from 128, the first of the rc, and changes nothing else (R155). -/
theorem useBankAs_some {cls t bank : Nat} {u : State} (h : s.useBankAs cls t bank = some u) :
    ∃ c, (c = bank ∨ c = bank + 128) ∧ u = s.modTile t (fun i => { i with bankUse := c :: i.bankUse }) := by
  simp only [useBankAs, Option.map_eq_some_iff] at h
  obtain ⟨c, hc, rfl⟩ := h
  refine ⟨c, ?_, rfl⟩
  simp only [cycleOf] at hc
  (repeat' split at hc) <;> cases hc <;> simp

/-- A thread access that has its cycle takes the second of the rc, and changes nothing else (R155, R156). -/
theorem takeBank_ok {bank : Nat} {u : State} (h : s.takeBank bank = .ok u) : u = s.grantBank s.cur.tile bank := by
  simp only [takeBank] at h
  split at h
  · cases h
  · exact (Except.ok.inj h).symm

/-- A write to a vault, byte by byte. -/
theorem memRead_writeLoc (l : Loc) (bs : List Byte) (a : Nat) :
    memRead (s.writeLoc l bs).mem a = if s.locKey l ≤ a ∧ a < s.locKey l + bs.length then bs.getD (a - s.locKey l) 0 else memRead s.mem a := by
  simp only [writeLoc]
  split <;> exact memRead_memWriteN bs s.mem _ a

theorem writeLoc_wf (l : Loc) (bs : List Byte) (h : Memory.wf s.mem = true) : Memory.wf (s.writeLoc l bs).mem = true := by
  simp only [writeLoc]
  split <;> exact memWriteN_wf bs _ h

theorem writePa_wf (a : Nat) (bs : List Byte) (h : Memory.wf s.mem = true) : Memory.wf (s.writePa a bs).mem = true :=
  memWriteN_wf bs _ h

/-- The bytes of a write with byte enables keep the form. -/
theorem writeEn_wf (l : Loc) (n : Nat) (en : BitVec 64) (v : BitVec 512) (h : Memory.wf s.mem = true) :
    Memory.wf (s.writeEn l n en v).mem = true := by
  have step : ∀ (is : List Nat) (u : State), Memory.wf u.mem = true →
      Memory.wf (is.foldl (fun s i => if en.getLsbD i then s.writeLoc { l with off := l.off + i } [byteOf v i] else s) u).mem = true := by
    intro is
    induction is with
    | nil => exact fun _ h => h
    | cons i rest ih =>
      intro u hu
      refine ih _ ?_
      dsimp only
      split
      · exact writeLoc_wf _ _ _ hu
      · exact hu
  exact step _ _ h

end State

end Sys2Proof.Machine
end

