-- ==== Sys2Proof/Tests/Slice0.lean ====
section
/-! SUPPORT. The package's own tests: ill-formed terms that WellFormed refuses, words of the spec's encodings that decode to
their instructions, single steps with results the spec gives, and for each obligation with hypotheses a state and operands
that meet them. -/

namespace Sys2Proof.Tests

-- one theorem after the other: a thread for each would need more memory than the check has
set_option Elab.async false

open Sys2Proof Sys2Proof.Machine

/-- The guard p0: always true. -/
def always : Guard := ⟨0, false⟩

def noMask : VMask := ⟨false, 0⟩

def refusesAll (l : List Instr) : Bool := l.all (fun i => !i.wf)

theorem test_wf_scalar : refusesAll
    [.add always .f32 false 1 2 3, .addi always .bf16 false 1 2 3, .sub always .f64 false 1 2 3, .mul always .i4 false 1 2 3,
     .mulImm always .f16 false 1 2 3, .cmp always .f16 .eq 1 2 3, .cmp always .i32 .un 1 2 3, .cmpImm always .f64 .eq 1 2 3,
     .cmpImm always .n8 .or 1 2 3, .bfx always false 1 2 ⟨32, 32⟩, .bfi always 1 2 ⟨63, 1⟩, .sext always .i64 1 2,
     .zext always .i8 1 2, .mts always .slot 1, .rdrec always 1 2 3, .segldRd always 1 2 3, .blq always 1 5] = true := by decide

theorem test_wf_vector : refusesAll
    [.vadd always .f32 .sr false noMask 1 2 3, .vadd always .i32 .rz false noMask 1 2 3, .vsub always .none .dyn false noMask 1 2 3,
     .vmul always .e4m3 .dyn false noMask 1 2 3, .vfma always .i32 .dyn false noMask 1 2 3 4, .vfms always .f32 .sr false noMask 1 2 3 4,
     .vmin always .none noMask 1 2 3, .vmax always .f4s noMask 1 2 3, .vabs always .n32 false noMask 1 2,
     .vneg always .f32 true noMask 1 2, .vcmp always .i8 .eq noMask 1 2 3, .vcmp always .i32 .or noMask 1 2 3,
     .vmulh always .f32 noMask 1 2 3, .vclz always .f32 noMask 1 2, .vpopc always .none noMask 1 2, .vavg always .f64 noMask 1 2 3,
     .vshl always .f32 noMask 1 2 3, .vshr always .f32 noMask 1 2 3, .vsar always .bf16 noMask 1 2 3,
     .vperm always .none noMask 1 2 3 4, .vbcast always .e5m2 false noMask 1 2, .vbcastImm always .none false noMask 1 2,
     .vshuf always .f32 ⟨16, .slide⟩ noMask 1 2 3, .vshuf always .f32 ⟨0, .rev⟩ noMask 1 2 3, .vshuf always .f32 ⟨1, .even⟩ noMask 1 2 3,
     .vshuf always .b1 ⟨0, .even⟩ noMask 1 2 3] = true := by decide

theorem test_wf_conversions : refusesAll
    [.vred always .f32 .dyn false .xor 0 1 2, .vred always .f32 .dyn true .add 0 1 2, .vred always .i32 .rz false .add 0 1 2,
     .vdot always .i32 .dyn 0 1 2 3 4, .vdot always .f32 .sr 0 1 2 3 4, .vcvt always .f32 .sr false ⟨0, .i32⟩ noMask 1 2,
     .vcvt always .i32 .dyn true ⟨0, .f32⟩ noMask 1 2, .vcvt always .i8 .dyn false ⟨4, .i32⟩ noMask 1 2,
     .vcvt always .f4s .dyn false ⟨0, .f32⟩ noMask 1 2, .vsrnd always .bf16 false ⟨0, .f32⟩ noMask 1 2 3 0,
     .vsrnd always .bf16 false ⟨0, .f32⟩ noMask 1 2 3 25, .vsrnd always .f32 false ⟨0, .f32⟩ noMask 1 2 3 1,
     .vpack always .f4s .dyn false ⟨3, .f32⟩ 1 2 3 4, .vpack always .i4 .dyn false ⟨0, .i32⟩ 1 2 3 4,
     .vpack always .e4m3 .dyn false ⟨0, .bf16⟩ 1 2 3 4, .vunpk always .f32 .dyn false ⟨false, 0, .f4s⟩ 1 2 3,
     .vunpk always .bf16 .dyn false ⟨true, 0, .e4m3⟩ 1 2 3, .vscale always .e4m3 .bf16 1 2 3, .vscale always .i4 .f32 1 2 3,
     .vrcp always .i32 noMask 1 2, .vrsq always .i32 noMask 1 2, .vexp2 always .n8 noMask 1 2, .vlog2 always .none noMask 1 2,
     .vstep always .f32 .sr false .div noMask 1 2 3 4] = true := by decide

theorem test_wf_memory_and_engines : refusesAll
    [.ld always .f32 1 ⟨1, 2, 0⟩, .st always .f64 1 ⟨1, 2, 0⟩, .ldg always .f32 1 ⟨1, 2, 0⟩, .sts always .bf16 1 ⟨1, 2, 0⟩,
     .amo always .i8 .add 1 2 ⟨1, 2, 0⟩, .amo always .f32 .xor 1 2 ⟨1, 2, 0⟩, .red always .i32 .swap 1 ⟨1, 2, 0⟩,
     .red always .i32 .cas 1 ⟨1, 2, 0⟩, .mma always .f64 false false 1 2 3 4, .mmat always .bf16 false false 2 2 3 4 0 0,
     .mzero always .f64 3, .mldc always .i32 2 3, .mstc always .i32 .dyn false 1 2, .mstc always .f32 .sr false 1 2,
     .mstc always .f64 .dyn false 1 3, .copy always false false false 1 2 3 4 0 1, .gath always false false 1 2 3 4 0 1,
     .scat always false false 1 2 3 4 0 1, .publ always false 1 2 3 0 1, .send always false 1 2 3 64 1, .send always false 1 2 3 4097 0,
     .sendSig always false 1 2 3 1, .sends always false 1 2 3 4 0 1, .mcast always false 1 2 3 4 64 1, .hop always false 1 5] = true := by
  decide

theorem test_wf_events_of_tiles : refusesAll
    [.issueTurn coreCount, .lineFetch coreCount 0, .schedulerDecision coreCount, .swapComplete coreCount, .vccTick tileCount,
     .siteCounterTick siteCount, .sleepDeadline (64 * coreCount), .timedCommandStart coreCount 0, .untimedCommandStart coreCount,
     .engineLineMove coreCount 0, .engineOperationStart coreCount, .matrixLineFetch coreCount, .matrixOperationComplete coreCount,
     .linkWordArrival coreCount true, .linkCreditReturn coreCount true, .eccScrub siteCount 0 0 .clean, .eccScrub 0 128 0 .clean,
     .eccScrub 0 0 2048 .clean, .arrayEccUncorrectable 0 128 0, .phaseLineApply coreCount 0, .parkingEnd (64 * coreCount),
     .meshLinkDown 0 4, .resendDelayExpiry tileCount 0, .rebindChangeResend tileCount 0, .retransmitTimeout tileCount 0,
     .rebindFlood siteCount 0, .cutStreamLine tileCount, .cutPrepared tileCount, .cutApply tileCount, .watchdogFire tileCount,
     .residueMismatch 0 coreCount 0 0, .machineCheck siteCount .other, .splice siteCount, .adoption tileCount, .hbeatWrite siteCount,
     .selfTestStart siteCount, .selfTestComplete siteCount .pass, .registerWrite 0 0 0 tileCount, .giveComplete (64 * coreCount),
     .reclaimComplete (64 * coreCount)] = true := by decide

theorem test_wf_events_of_the_device : refusesAll
    [.pageWalkComplete 64 0, .parkact 64 0, .gwinv 64 0, .gwinvDone 64, .homeWriteRetry 24 0, .hotnessDecay 24, .taskDispatch 16,
     .heldBlockPost 16, .partitionReconfiguration 16 0 0, .fieldPowerLoss 64, .fieldJoin 64 [], .fieldGivenUp 64, .thermalThrottle 64,
     .thermalShutdown 64, .droopStretch 64 0, .marginReplan 64 0, .hbmRepairStart 48 0, .hbmRepairDone 48 0, .cxlPortDown 24,
     .cxlPortUp 24 0 0 0, .folvibelLinkTrain 32 0 0 0, .folvibelLinkDown 32, .hlaunch 4 0, .hpubn 4 0, .herrClear 4, .hlresDropClear 4,
     .hostFarRead 4 0 0, .hostFarWrite 4 0 [], .functionLevelReset 4, .getVersion 4, .getCapabilities 4, .negotiateAlgorithms 4,
     .getDigests 4, .getCertificate 4, .challenge 4 0, .getMeasurements 4 0] = true := by decide

/-- R10, R43, R44, R54: words written from the spec's encoding tables. -/
theorem test_decode_scalar :
    decodeTableWord 96 0x200018600000000000000010 = some (.addi always .none false 3 3 0x10)
    ∧ decodeTableWord 96 0x026420600000000000000000 = some (.mov ⟨1, false⟩ 4 3)
    ∧ decodeTableWord 96 0x022009660032000000000000 = some (.cmp always .i32 .lt 1 11 12)
    ∧ decodeTableWord 96 0x600000000000000000000000 = some (.nop always)
    ∧ decodeTableWord 96 0x6024000000020000FFFFFFE8 = some (.br ⟨1, false⟩ .nn 0xFFFFFFE8) := by decide

theorem test_decode_vector :
    decodeTableWord 96 0x0B801842812000B000000000 = some (.vpack always .f4s .dyn false ⟨0, .bf16⟩ 3 2 5 0)
    ∧ decodeTableWord 96 0x0C8010008000000000000000 = some (.vrng always noMask 2 0 1)
    ∧ decodeTableWord 96 0x092008418072000000000000 = some (.vcmp always .n32 .lt noMask 1 2 3) := by decide

theorem test_decode_memory :
    decodeTableWord 96 0x40C001608400000000000000 = some (.stmask always 1 ⟨2, 11, 0⟩)
    ∧ decodeTableWord 96 0x414049000000000500000000 = some (.give always 9 8 5)
    ∧ decodeTableWord 96 0x424028830240000000000040 = some (.amo always .i64 .add 5 6 ⟨1, 4, 0x40⟩) := by decide

theorem test_decode_engines :
    decodeTableWord 96 0x802020418CA2000900000200 = some (.mmat always .f32 true false 4 2 3 6 9 0x200)
    ∧ decodeTableWord 96 0xA00010228C00000700000000 = some (.copy always false false false 2 1 5 6 7 0)
    ∧ decodeTableWord 96 0xA234698A1000000A00000000 = some (.sends ⟨5, false⟩ false 13 12 20 8 10 0)
    ∧ decodeTableWord 96 0xA26002600004000000000000 = some (.ibpopFree always 19 0) := by decide

theorem test_decode_system :
    decodeTableWord 96 0xC0A030E28400000000000034 = some (.rfork always 6 7 5 2 0x34)
    ∧ decodeTableWord 96 0xC46000000000000000204000 = some (.vadopt always 0x204000)
    ∧ decodeTableWord 96 0xC8E0A0000000000000000000 = some (.twin always 20)
    ∧ decodeTableWord 96 0xC96030000000000400000000 = some (.blq always 6 4) := by decide

/-- R47: a reserved field refuses its word. -/
theorem test_decode_reserved :
    decodeTableWord 96 0x600000000000000000000001 = none ∧ decodeTableWord 96 0xFFFFFFFFFFFFFFFFFFFFFFFF = none
    ∧ decodeTableWord 96 0x026420600000000000000001 = none := by decide

/-- R33: the line word of the spec's example: ADDI and the guarded MOV as a pair, three NOPs. -/
theorem test_line_parity :
    lineParity ((0x200018600000000000000010#512) ||| (0x026420600000000000000000#512 <<< 96) ||| (0x600000000000000000000000#512 <<< 192)
      ||| (0x600000000000000000000000#512 <<< 288) ||| (0x600000000000000000000000#512 <<< 384) ||| (0x0021#512 <<< 480)) = 0x7A55 := by
  decide +kernel

/-- R455: the checksum of the bytes 0x31 to 0x39. -/
theorem test_crc32 : crc32 [0x31, 0x32, 0x33, 0x34, 0x35, 0x36, 0x37, 0x38, 0x39] = 0xCBF43926 := by decide +kernel

/-- R193, R313, R332: ADDI runs as the first instruction after reset; R178: its destination holds the sum. -/
theorem test_first_step :
    (match step (State.reset.withFetchWord 96 0x200018600000000000000010) with
      | .next t => Tbl.get 0 (t.ctx (ctxKey (coreKey 0xC060 1) 0)).x 3
      | _ => 0) = 0x10 := by decide +kernel

/-- R194: the high halves of the products of -1 with -1. -/
theorem test_high_products :
    (BitVec.ofInt 128 ((-1#64).toInt * (-1#64).toInt)).extractLsb' 64 64 = 0#64
    ∧ ((-1#64).setWidth 128 * (-1#64).setWidth 128).extractLsb' 64 64 = 0xFFFFFFFFFFFFFFFE#64 := by decide

/-! What the witnesses are built from: tiles 5 and 6 of crew 3 with a thread in slot 0 of core 20, and small proof steps. -/

theorem ok_of {ε α : Type} {x : Except ε α} {a : α} (h : x.toOption = some a) : x = .ok a := by
  cases x <;> simp_all [Except.toOption]

theorem exists_ok {ε α : Type} {x : Except ε α} (p : α → Bool) (h : (x.toOption.any p) = true) : ∃ a, x = .ok a ∧ p a = true := by
  cases x <;> simp_all [Except.toOption]

theorem exists_next {a : Ans} (p : State → Bool) (h : (match a with | .next t => p t | _ => false) = true) :
    ∃ t, a = .next t ∧ p t = true := by
  cases a <;> simp_all

def labCtx : Ctx :=
  { used := true, uid := 1, crew := some 3, code := ⟨0x2000000000000000, 0xFFFF, 0x43⟩,
    s := ⟨0x2000000000000000, 0x200000000000000C, 0x2000000000000018, 0⟩, x := [(1, 7), (2, 9)],
    sg := [(1, ⟨0, 0x3FFFFF, 0xB1⟩), (2, ⟨0x1000000500000000, 0x1FFFFFFFF, 0xB2⟩), (3, ⟨0x2000000000000000, 0xFFFFFFFF, 0xB3⟩),
           (4, ⟨0x4000000500000000, 0xFFFFFFFF, 0xB5⟩), (5, ⟨0x5000000000000000, 0x1FFFFFFFFFFFF, 0xB6⟩)] }

/-- Map entry 0 names bank 0 of the tile, entry 1 bank 1 of its east neighbour. -/
def lab : State :=
  { cur := { tile := 5 }, nextId := 100, rebind := [(5, 300), (6, 301), (0x4005, 0x5005), (0x4006, 0x5006)],
    ctxs := [(1280, labCtx)], cores := [(20, { bmap := [(0, 0x8300), (1, 0xA301)], slots := [(0, 1)] })],
    tiles := [(5, { crew := some 3 }), (6, { crew := some 3, col := 1 })],
    crews := [(3, { live := true, part := 1, task := 77, blk := { cols := 2, rows := 1, slots := 1, belay := 10, prio := 3 },
                    t0 := 5, st := .running })],
    parts := [(1, { base := 0, count := 64 })], fields := [(1, { power := true, joined := true })], sys := { stage := 3 } }

def withX (s : State) (r : Nat) (v : Word) : State := s.modMe (fun c => { c with x := Tbl.set 0 c.x r v })

def atLevel (s : State) (l : BitVec 2) : State := s.modMe (fun c => { c with lvl := l })

/-- Every core of tile 5 has had its turn in this rc. -/
def withTurns (s : State) : State :=
  (List.range 4).foldl (fun s c => s.modCore (coreKey 5 c) (fun k => { k with turnAt := some (s.rcOf 5) })) s

theorem lab_issues : lab.Issues always := ⟨by decide, by decide, by decide⟩

theorem lab_memory_wf : Memory.wf lab.mem = true ∧ Tbl.wf {} lab.ctxs = true ∧ Tbl.wf {} lab.tiles = true ∧ Tbl.wf {} lab.cores = true := by
  decide +kernel

theorem witness_DecodeEncode : (Instr.addi always .none false 3 3 0x10).wf = true
    ∧ encode (.addi always .none false 3 3 0x10) = some 0x200018600000000000000010 := by decide

theorem witness_DecodeSound : decode 0x200018600000000000000010 = .ok (.addi always .none false 3 3 0x10) := ok_of (by decide +kernel)

def first : State := State.reset.withFetchWord 96 0x200018600000000000000010

def firstLine : FLine := putSlotWord (sealLine nopLine) 0 0x200018600000000000000010

/-- The threads' router cycle of rc 0 is cycle 1: core 1 goes first (R155). -/
def firstCore : Nat := coreKey 0xC060 1

def firstTurn : State := first.modCore firstCore (fun c => { c with turnAt := some 0 })

/-- Both halves of a step: an event of the agenda, well formed or not, and the word at the pc of the first thread. -/
theorem witness_StepRunsDecoded_agenda : ({ lab with sched := [.vccTick 5] } : State).sched = .vccTick 5 :: [] := rfl

theorem witness_StepRunsDecoded_turn :
    first.sched = [] ∧ first.turnCore first.cur.tile = some firstCore ∧ first.lineWanted firstCore = none
    ∧ first.timedPop firstCore = false ∧ firstTurn.turnOf firstCore = some (0, ctxKey firstCore 0)
    ∧ coreOfCtx (ctxKey firstCore 0) = firstCore ∧ ctxKey firstCore 0 < spillBase
    ∧ firstTurn.issueHeld (ctxKey firstCore 0) = false := by decide +kernel

theorem witness_StepRunsDecoded_thread :
    let c := firstTurn.ctx (ctxKey firstCore 0)
    c.killed = false ∧ c.pend = none ∧ c.fresh = false ∧ c.s.nul.getLsbD 0 = false ∧ c.s = ⟨0x2000000000000000, 0x200000000000000C, 0x2000000000000018, 0⟩
    ∧ (Instr.addi always .none false 3 3 0x10).minLevel ≤ c.lvl.toNat
    ∧ (codeCheck c.code 0x2000000000000000 0x2000000000000000).toOption = some () ∧ (firstTurn.held firstCore 0x2000000000000000).isSome = true
    ∧ (codeCheck c.code 0x200000000000000C 0x200000000000000C).toOption = some () ∧ (firstTurn.held firstCore 0x200000000000000C).isSome = true
    ∧ (codeCheck c.code 0x2000000000000018 0x2000000000000018).toOption = some ()
    ∧ (firstTurn.held firstCore 0x2000000000000018).isSome = true := by
  decide +kernel

theorem witness_StepRunsDecoded_line :
    (firstTurn.held firstCore 0x2000000000000000 == some firstLine) = true ∧ parityOk firstLine = true ∧ lineOk firstLine = true ∧ pairBit firstLine 0 = false
    ∧ slotAligned 0x2000000000000000 = true ∧ (decode (slotWord firstLine 0)).toOption = some (.addi always .none false 3 3 0x10) := by
  decide +kernel

theorem witness_StepRunsDecoded_done :
    ∃ one, exec (.addi always .none false 3 3 0x10)
        { firstTurn with cur := { tile := 0xC060, core := 1, slot := 0, num := 0, addr := 0x2000000000000000 } } = .next one
      ∧ (decide (one.cur.res = .done) && decide ((one.ctx (ctxKey firstCore 0)).uid = 0)) = true :=
  exists_next _ (by decide +kernel)

/-- A core that waits for a line, and a tile all of whose cores have had their turn. -/
theorem witness_StepRunsDecoded_line_and_tick :
    (let s := (withTurns (lab.modMe (fun c => { c with wait := .fetch 0x2000000000000000 }))).modCore 20 (fun c => { c with turnAt := none });
      s.sched = [] ∧ s.turnCore s.cur.tile = some 20 ∧ s.lineWanted 20 = some 0x2000000000000000)
    ∧ (withTurns lab).sched = [] ∧ (withTurns lab).turnCore 5 = none
    ∧ ∃ t, exec (.vccTick (withTurns lab).cur.tile) (withTurns lab) = .next t :=
  ⟨by decide +kernel, by decide +kernel, by decide +kernel,
    (exists_next (fun _ => true) (by decide +kernel)).imp fun _ h => h.1⟩

theorem witness_MemoryInvariant :
    let s : State := { lab with mem := [(3, 1)], deep := some { mem := [(4, 1)] }, sched := [.vccTick 5] }
    Memory.wf s.mem = true ∧ (∀ d, s.deep = some d → Memory.wf d.mem = true) ∧ ∃ t, s.Steps t :=
  ⟨by decide, fun _ h => by cases h; decide, (exists_next (fun _ => true) (by decide +kernel)).imp fun _ h => h.1⟩

theorem witness_ThreadInvariant : let s : State := { lab with sched := [.vccTick 5] }
    s.ThreadOk ∧ ∃ t, s.Steps t :=
  ⟨by decide, (exists_next (fun _ => true) (by decide +kernel)).imp fun _ h => h.1⟩

theorem witness_ResetValues : (0x7FFF : Nat) < 0x8000 := by decide

/-- An instruction whose guard is false, and one below its level. -/
theorem witness_GuardAndPrivilege :
    lab.me.used = true ∧ (Instr.addi ⟨1, false⟩ .none false 3 3 0x10).raw.isSome = true
    ∧ (Instr.addi ⟨1, false⟩ .none false 3 3 0x10).minLevel ≤ lab.level ∧ lab.guard ⟨1, false⟩ = false
    ∧ (Instr.eret always).raw.isSome = true ∧ lab.level < (Instr.eret always).minLevel
    ∧ lab.level < (Instr.mts always .epc 1).minLevel ∧ (atLevel lab 1).level < (Instr.rtwrRb always 1 2 3).minLevel := by decide +kernel

/-- Format class 0 but MFS and MTS, and class 1. -/
theorem witness_RegisterFrame :
    (∃ r t, (Instr.vand always noMask 1 2 3).raw = some r ∧ (r.fmt = 0 ∧ r.op ≠ 0x22) ∧ exec (.vand always noMask 1 2 3) lab = .next t)
    ∧ ∃ r t, (Instr.addi always .none false 3 1 1).raw = some r ∧ r.fmt = 1 ∧ exec (.addi always .none false 3 1 1) lab = .next t := by
  obtain ⟨t, h, -⟩ := exists_next (a := exec (.addi always .none false 3 1 1) lab) (fun _ => true) (by decide +kernel)
  obtain ⟨u, k, -⟩ := exists_next (a := exec (.vand always noMask 1 2 3) lab) (fun _ => true) (by decide +kernel)
  exact ⟨⟨_, u, rfl, by decide, k⟩, _, t, rfl, by decide, h⟩

/-- A private register, a shared one and a link, at both ends of their ranges. -/
theorem witness_MemoryWrites : ∀ r ∈ [0, 31, 32, 61, 62], ∃ t, lab.writeV r 5 1 = .ok t := by
  intro r h
  have p : ∀ r ∈ [0, 31, 32, 61, 62], ((lab.writeV r 5 1).toOption.any fun _ => true) = true := by decide +kernel
  exact (exists_ok _ (p r h)).imp fun _ h => h.1

theorem witness_ScalarArithmetic : lab.Issues always ∧ ∀ ty ∈ [Ty.none, .i8, .i16, .i32, .i64, .n8, .n16, .n32, .n64], ty.isWidth = true :=
  ⟨lab_issues, by decide⟩

theorem witness_HighProductsAndDivision : lab.Issues always := lab_issues

theorem witness_LogicAndBits : lab.Issues always ∧ ∀ bf ∈ [(⟨0, 0⟩ : BitField), ⟨63, 0⟩, ⟨0, 63⟩], bf.ok = true := ⟨lab_issues, by decide⟩

/-- The types and conditions of CMP at their ends; LEA at the limit, past it, and with no segment. -/
theorem witness_CompareAndMove :
    lab.Issues always ∧ (Instr.cmp always .none .ge 1 2 3).wf = true ∧ (Instr.cmp always .f64 .un 1 2 3).wf = true
    ∧ (Instr.cmpImm always .f32 .or 1 2 3).wf = true ∧ (lab.readSg 1).attr.extractLsb' 0 3 ≠ 0
    ∧ (lab.readX 0 + (0x3FFFFF#32).signExtend 64).toNat ≤ (lab.readSg 1).limit.toNat
    ∧ ¬(lab.readX 0 + (0x400000#32).signExtend 64).toNat ≤ (lab.readSg 1).limit.toNat
    ∧ (lab.readSg 7).attr.extractLsb' 0 3 = 0 := ⟨lab_issues, by decide, by decide, by decide, by decide +kernel⟩

theorem witness_ScalarRegisters :
    lab.ThreadOk ∧ lab.cur.old = none ∧ (0 < (1 : BitVec 6).toNat ∧ (31 : BitVec 6).toNat < 32 ∧ 32 ≤ (32 : BitVec 6).toNat)
    ∧ (atLevel lab 1).IssuesAt always SReg.site.readLevel
    ∧ (atLevel lab 1).IssuesAt always SReg.epc.writeLevel ∧ SReg.epc.writable = true ∧ (atLevel lab 1).claimed (atLevel lab 1).myCtx = none :=
  ⟨by decide, rfl, by decide, ⟨⟨by decide, by decide, by decide⟩, by decide⟩, ⟨⟨by decide, by decide, by decide⟩, by decide⟩, rfl, rfl⟩

/-- A core with a word in the FIFO of its east link. -/
def linked : State := lab.modCore 20 (fun c => { c with le := [5] })

/-- Vector operands: private, shared and link sources, and each kind of destination. -/
theorem lab_vector : linked.Issues always ∧ ∃ x s1 y s2 z s3, linked.readV 31 = .ok (x, s1) ∧ s1.readV 32 = .ok (y, s2)
    ∧ s2.readV 62 = .ok (z, s3) ∧ s3.CanWriteV 0 ∧ s3.CanWriteV 61 ∧ s3.CanWriteV 62 := by
  obtain ⟨⟨z, s3⟩, h, k⟩ := exists_ok (x := linked.readV 62)
    (fun r => (r.2.linkCore r.2.myCore true).isSome && r.2.hasCredit r.2.myCore true) (by decide +kernel)
  simp only [Bool.and_eq_true] at k
  exact ⟨⟨by decide, by decide, by decide⟩, _, _, _, _, z, s3, rfl, rfl, h, Or.inl (by decide), Or.inl (by decide), Or.inr k⟩

theorem witness_VectorElements : (∃ x s1 y s2, linked.Issues always ∧ linked.readV 31 = .ok (x, s1) ∧ s1.CanWriteV 61
    ∧ s1.readV 32 = .ok (y, s2) ∧ s2.CanWriteV 61) ∧ Ty.i8.isI = true ∧ Ty.n64.isI = true ∧ Ty.i64.isS = true ∧ Ty.f64.isF = true
    ∧ Ty.f16.isF = true :=
  ⟨⟨_, _, _, _, ⟨by decide, by decide, by decide⟩, rfl, Or.inl (by decide), rfl, Or.inl (by decide)⟩, by decide⟩

theorem witness_VectorFloats : Ty.bf16.isF = true ∧ linked.Issues always ∧ ∃ x s1 y s2 z s3, linked.readV 31 = .ok (x, s1)
    ∧ s1.readV 32 = .ok (y, s2) ∧ s2.CanWriteV 0 ∧ s2.readV 62 = .ok (z, s3) ∧ s3.CanWriteV 62 := by
  obtain ⟨i, x, s1, y, s2, z, s3, h1, h2, h3, -, -, h4⟩ := lab_vector
  exact ⟨by decide, i, x, s1, y, s2, z, s3, h1, h2, Or.inl (by decide), h3, h4⟩

/-- Each pattern of VSHUF, slide at the last element. -/
theorem witness_VectorMoves : (∀ ty ∈ [Ty.i8, .n64, .f64, .f16], ty.isW = true) ∧ linked.Issues always ∧ linked.CanWriteV 61
    ∧ (∀ p ∈ [Pat.ziplo, .ziphi, .even, .odd], (⟨0, p⟩ : Shuffle).ok .f32 5 = true) ∧ (⟨15, .slide⟩ : Shuffle).ok .f32 5 = true
    ∧ (⟨0, .rev⟩ : Shuffle).ok .f32 0 = true ∧ ∃ x s1 y s2 z s3, linked.readV 31 = .ok (x, s1) ∧ s1.readV 32 = .ok (y, s2)
    ∧ s2.CanWriteV 0 ∧ s2.readV 62 = .ok (z, s3) ∧ s3.CanWriteV 62 := by
  obtain ⟨i, x, s1, y, s2, z, s3, h1, h2, h3, -, -, h4⟩ := lab_vector
  exact ⟨by decide, i, Or.inl (by decide), by decide, by decide, by decide, x, s1, y, s2, z, s3, h1, h2, Or.inl (by decide), h3, h4⟩

theorem witness_MasksAndReductions : (Instr.vcmp always .n64 .ge noMask 1 2 3).wf = true
    ∧ (Instr.vcmp always .f32 .or noMask 1 2 3).wf = true ∧ (Instr.vred always .f32 .rz false .add 0 1 2).wf = true
    ∧ (Instr.vred always .n8 .dyn true .xor 0 1 2).wf = true ∧ Ty.n16.isDotI = true ∧ Ty.bf16.isF = true
    ∧ ∃ x s1 y s2, linked.Issues always ∧ linked.readV 31 = .ok (x, s1) ∧ s1.readV 32 = .ok (y, s2) :=
  ⟨by decide, by decide, by decide, by decide, by decide, by decide, _, _, _, _, ⟨by decide, by decide, by decide⟩, rfl, rfl⟩

/-- Both directions of a conversion at the last PART; packs from 32 and from 16 bits, block formats and integers. -/
theorem witness_ConversionsAndBlocks : (Instr.vcvt always .i8 .dyn false ⟨3, .f32⟩ noMask 1 2).wf = true
    ∧ (Instr.vcvt always .f64 .rz true ⟨7, .n8⟩ noMask 1 2).wf = true
    ∧ (Instr.vsrnd always .e4m3 false ⟨3, .f32⟩ noMask 1 2 3 24).wf = true
    ∧ (Instr.vunpk always .f32 .dyn false ⟨true, 1, .e3m2⟩ 1 2 3).wf = true ∧ (Instr.vunpk always .i16 .dyn false ⟨false, 3, .n4⟩ 1 2 0).wf = true
    ∧ (Instr.vscale always .f4s .f32 1 2 3).wf = true ∧ (Instr.vscale always .e2m1 .bf16 1 2 0).wf = true
    ∧ (Instr.vpack always .e2m1 .rz false ⟨3, .f32⟩ 1 2 3 4).wf = true ∧ (Instr.vpack always .i4 .dyn false ⟨3, .i16⟩ 1 2 0 0).wf = true
    ∧ Ty.f32.bits = 32 ∧ Ty.bf16.bits ≠ 32 ∧ linked.Issues always ∧ ∃ x s1 y s2 z s3, linked.readV 31 = .ok (x, s1)
    ∧ s1.CanWriteV 61 ∧ s1.readV 32 = .ok (y, s2) ∧ s2.CanWriteV 61 ∧ s2.readV 62 = .ok (z, s3) ∧ s3.CanWriteV 62 := by
  obtain ⟨i, x, s1, y, s2, z, s3, h1, h2, h3, -, -, h4⟩ := lab_vector
  exact ⟨by decide, by decide, by decide, by decide, by decide, by decide, by decide, by decide, by decide, rfl, by decide, i,
    x, s1, y, s2, z, s3, h1, Or.inl (by decide), h2, Or.inl (by decide), h3, h4⟩

/-- A reply has come for the thread of a state. -/
def replied (s : State) : State := s.modMe (fun c => { c with reply := some 7 })

/-- Through the bank switch, to a neighbour once its reply has come, by a global address, and at the edges of the window. -/
theorem witness_LoadsAndStores_loads :
    lab.Issues always ∧ lab.vaultEA ⟨1, 0, 0⟩ 8 [1] 4 false = .ok (0, ⟨5, 0, 0⟩) ∧ (∃ bs t, lab.LoadReady 0 ⟨5, 0, 0⟩ 8 bs t)
    ∧ lab.vaultEA ⟨1, 0, 0x1FFC0⟩ 64 [1] 4 false = .ok (0x1FFC0, ⟨5, 0, 0x1FFC0⟩)
    ∧ (∃ bs t u, lab.LoadReady 0x1FFC0 ⟨5, 0, 0x1FFC0⟩ 64 bs t ∧ t.writeV 1 (BitVec.ofNat 512 (leNat bs)) 8 = .ok u)
    ∧ lab.vaultEA ⟨1, 0, 0x20000⟩ 1 [1] 4 false = .ok (0x20000, ⟨6, 1, 0⟩) ∧ lab.closeHolds = false ∧ lab.isDirect 0x20000 = false
    ∧ lab.me.reply = none ∧ (∃ bs t, (replied lab).LoadReady 0x20000 ⟨6, 1, 0⟩ 1 bs t) :=
  ⟨lab_issues, ok_of (by decide +kernel), ⟨_, _, by decide +kernel, Or.inl ⟨by decide +kernel, ⟨by decide +kernel, by decide⟩, rfl, rfl⟩⟩,
    ok_of (by decide +kernel), ⟨_, _, _, ⟨by decide +kernel, Or.inl ⟨by decide +kernel, ⟨by decide +kernel, by decide⟩, rfl, rfl⟩⟩, rfl⟩,
    ok_of (by decide +kernel), by decide +kernel, by decide +kernel, by decide +kernel,
    ⟨_, _, by decide +kernel, Or.inr ⟨by decide +kernel, by decide +kernel, 7, by decide +kernel, rfl, rfl⟩⟩⟩

theorem witness_LoadsAndStores_global :
    lab.segEA ⟨2, 0, 8⟩ 8 [2, 5, 6] (some 4) = .ok 0x1000000500000008 ∧ lab.segEA ⟨2, 0, 8⟩ 8 [2, 5, 6] (some 5) = .ok 0x1000000500000008
    ∧ lab.segEA ⟨2, 0, 0⟩ 64 [2, 5, 6] (some 4) = .ok 0x1000000500000000 ∧ lab.segEA ⟨2, 0, 0⟩ 64 [2, 5, 6] (some 5) = .ok 0x1000000500000000
    ∧ spaceOf 0x1000000500000008 = 1 ∧ lab.vaultSpaceOk 0x1000000500000008 = true ∧ lab.vaultSpaceOk 0x1000000500000000 = true
    ∧ lab.resolve 0x1000000500000008 false = .ok ⟨5, 0, 8⟩ ∧ lab.resolve 0x1000000500000008 true = .ok ⟨5, 0, 8⟩
    ∧ lab.resolve 0x1000000500000000 false = .ok ⟨5, 0, 0⟩ ∧ lab.resolve 0x1000000500000000 true = .ok ⟨5, 0, 0⟩
    ∧ (∃ bs t, (replied lab).LoadReady 0x1000000500000008 ⟨5, 0, 8⟩ 8 bs t)
    ∧ ∃ bs t u, (replied lab).LoadReady 0x1000000500000000 ⟨5, 0, 0⟩ 64 bs t ∧ t.writeV 1 (BitVec.ofNat 512 (leNat bs)) 8 = .ok u :=
  ⟨ok_of (by decide +kernel), ok_of (by decide +kernel), ok_of (by decide +kernel), ok_of (by decide +kernel), by decide, by decide +kernel,
    by decide +kernel, ok_of (by decide +kernel), ok_of (by decide +kernel), ok_of (by decide +kernel), ok_of (by decide +kernel),
    ⟨_, _, by decide +kernel, Or.inr ⟨by decide +kernel, by decide +kernel, 7, by decide +kernel, rfl, rfl⟩⟩,
    ⟨_, _, _, ⟨by decide +kernel, Or.inr ⟨by decide +kernel, by decide +kernel, 7, by decide +kernel, rfl, rfl⟩⟩, rfl⟩⟩

theorem witness_LoadsAndStores_window :
    let s := replied (atLevel lab 1)
    s.Issues always ∧ s.segEA ⟨4, 0, 0⟩ 8 [2, 5, 6] (some 4) = .ok 0x4000000500000000
    ∧ s.segEA ⟨4, 0, 0⟩ 8 [2, 5, 6] (some 5) = .ok 0x4000000500000000 ∧ s.segEA ⟨4, 0, 0⟩ 64 [2, 5, 6] (some 4) = .ok 0x4000000500000000
    ∧ s.segEA ⟨4, 0, 0⟩ 64 [2, 5, 6] (some 5) = .ok 0x4000000500000000 ∧ spaceOf 0x4000000500000000 ≠ 1
    ∧ s.windowChecks 0x4000000500000000 8 false = .ok () ∧ s.windowChecks 0x4000000500000000 64 true = .ok () ∧ s.closeHolds = false
    ∧ s.me.reply = some 7
    ∧ ∃ u, (s.modMe (fun c => { c with reply := none, asked := none })).writeV 1 (BitVec.ofNat 512 (leNat (bytesOfVec 64 7))) 8 = .ok u :=
  ⟨⟨by decide, by decide, by decide⟩, ok_of (by decide +kernel), ok_of (by decide +kernel), ok_of (by decide +kernel), ok_of (by decide +kernel),
    by decide, ok_of (by decide +kernel), ok_of (by decide +kernel), by decide +kernel, by decide +kernel, _, rfl⟩

/-- A context of no crew with the banks of the lab. -/
def crewless : State := lab.modMe (fun c => { c with crew := none })

theorem lab_store (l : Loc) (n : Nat) (en : BitVec 64) (v : BitVec 512) (h : en ≠ 0) (a : Word) : ∃ t, lab.StoreTaken a l n en v t :=
  ⟨_, by decide +kernel, Or.inr (Or.inr ⟨by decide +kernel, h, Or.inr (by decide +kernel), rfl⟩)⟩

theorem witness_LoadsAndStores_stores :
    lab.vaultEA ⟨1, 0, 8⟩ 8 [1] 5 true = .ok (8, ⟨5, 0, 8⟩) ∧ lab.vaultEA ⟨1, 0, 0⟩ 64 [1] 5 true = .ok (0, ⟨5, 0, 0⟩)
    ∧ lab.vaultEA ⟨1, 0, 2⟩ 2 [1, 2] 5 true = .ok (2, ⟨5, 0, 2⟩) ∧ lab.vaultEA ⟨1, 0, 1⟩ 1 [1, 2] 5 true = .ok (1, ⟨5, 0, 1⟩)
    ∧ lab.vaultEA ⟨1, 0, 0⟩ 8 [1, 2] 5 true = .ok (0, ⟨5, 0, 0⟩) ∧ lab.vaultEA ⟨1, 0, 0x20000⟩ 8 [1, 2] 5 true = .ok (0x20000, ⟨6, 1, 0⟩)
    ∧ (∃ v, lab.readV 1 = .ok (v, lab)) ∧ (∃ t, lab.StoreTaken 8 ⟨5, 0, 8⟩ 8 0xFF 7 t) ∧ (∃ t, lab.StoreTaken 0 ⟨5, 0, 0⟩ 64 0xF 7 t)
    ∧ (∃ t, lab.StoreTaken 0 ⟨5, 0, 0⟩ 64 0 7 t) ∧ (∃ t, crewless.StoreTaken 8 ⟨5, 0, 8⟩ 8 0xFF 7 t)
    ∧ (∃ t, lab.ImmTaken 0 ⟨5, 0, 0⟩ 8 0xFF 7 t) ∧ ∃ t, lab.ImmTaken 0x20000 ⟨6, 1, 0⟩ 8 0xFF 7 t :=
  ⟨ok_of (by decide +kernel), ok_of (by decide +kernel), ok_of (by decide +kernel), ok_of (by decide +kernel), ok_of (by decide +kernel),
    ok_of (by decide +kernel), ⟨_, rfl⟩, lab_store _ _ _ _ (by decide) _, lab_store _ _ _ _ (by decide) _,
    ⟨_, by decide +kernel, Or.inr (Or.inl ⟨by decide +kernel, rfl, rfl⟩)⟩,
    ⟨_, by decide +kernel, Or.inl ⟨by decide +kernel, Or.inl ⟨by decide +kernel, by decide +kernel, ⟨by decide +kernel, by decide⟩, rfl⟩⟩⟩,
    ⟨_, Or.inl ⟨by decide +kernel, by decide +kernel, ⟨by decide +kernel, by decide⟩, rfl⟩⟩, ⟨_, Or.inr ⟨by decide +kernel, rfl⟩⟩⟩

/-- The lengths of a write at its ends; a word of the thread's tile that may be watched. -/
theorem witness_ImmediateWritesAndWatches : (0 ≤ 64 ∧ 64 ≤ 64) ∧ lab.Issues always
    ∧ lab.vaultEA ⟨1, 0, 8⟩ 8 [1, 2] 4 false = .ok (8, ⟨5, 0, 8⟩) ∧ (⟨5, 0, 8⟩ : Loc).tile = lab.cur.tile :=
  ⟨by decide, lab_issues, ok_of (by decide +kernel), rfl⟩

/-- GIVE with a neighbour on one side only, to a neighbour, to a tile that does not touch the bank; RECLAIM of an attached, a free
and a given bank. -/
theorem witness_BankOwnership_give :
    let s := withX lab 1 2
    let w := withX lab 1 1
    let east := lab.modCore 20 (fun c => { c with bmap := [(0, 0xC300), (1, 0xA301)] })
    (lab.mapEnt lab.myCore 0).getLsbD 15 = true ∧ ((lab.mapEnt lab.myCore 0).extractLsb' 0 6).toNat < 48 ∧ giveOk (s.readX 1) = true
    ∧ giveOk (w.readX 1) = true ∧ w.neighbour 5 1 = none ∧ s.neighbour 5 2 = some 6 ∧ s.neighbour 5 0 = some 5
    ∧ (s.mapEnt s.myCore 0).extractLsb' 12 3 = 0 ∧ s.dirTo 5 6 ≠ none ∧ east.neighbour 5 4 = none ∧ s.Issues always := by
  exact ⟨by decide, by decide, by decide, by decide, by decide, by decide, by decide, by decide, by decide, by decide, by decide, by decide⟩

theorem witness_BankOwnership_reclaim :
    let free := lab.modTile 5 (fun t => { t with rows := [] })
    ((0 : Nat) < 48 ∧ (47 : Nat) < 48) ∧ (bankRow free.myTile 3).extractLsb' 14 2 = 0 ∧ (free.mapEnt free.myCore 0).getLsbD 15 = true
    ∧ (free.mapEnt free.myCore 2).getLsbD 15 = false ∧ free.rowHolder 5 3 = none
    ∧ (lab.modTile 5 (fun t => { t with rows := [(3, mkRow 0 0 1 2)] })).rowHolder 5 3 = some (21, 2) := by decide +kernel

/-- In a crew of three tiles the middle one stands between a bank and a receiver that do not touch. -/
theorem witness_BankOwnership_apart :
    let s : State := { lab with cur := { tile := 6 }, tiles := [(5, { crew := some 3 }), (6, { crew := some 3, col := 1 }), (7, { crew := some 3, col := 2 })],
                                crews := [(3, { live := true, blk := { cols := 3, rows := 1 }, t0 := 5, st := .running })] }
    s.neighbour 6 4 = some 5 ∧ s.neighbour 6 2 = some 7 ∧ s.dirTo 5 7 = none := by decide +kernel

theorem witness_BankOwnership_map :
    (∀ e ∈ [0, 31], lab.entryHeld lab.myCore e = false) ∧ 1 ≤ (atLevel lab 1).level
    ∧ bmapSetOk (withX (atLevel lab 1) 1 0x8305) 0x8305 2 = true ∧ (lab.mapEnt lab.myCore 1).getLsbD 15 = true
    ∧ lab.neighbour 5 2 = some 6 := by decide +kernel

/-- A context of no crew that waits in GIVE for a quiet bank, with the receiver's entry free and taken, in RECLAIM and in DRAIN. -/
theorem witness_BankOwnership_waits :
    let w (x : Wait) : State := (lab.modMe (fun c => { c with crew := none, wait := x })).modTile 5 (fun t => { t with rows := [(0, mkRow 0 0 0 0)] })
    let s := w (.give 1 0 0x8300 2 false)
    (s.ctx 1280).crew = none ∧ s.replaying 5 = false ∧ (s.ctx 1280).wait = .give 1 0 0x8300 2 false ∧ s.neighbour 5 0 = some 5
    ∧ s.neighbour 5 2 = some 6 ∧ s.bankBusy 20 5 0 = false ∧ s.rowHolder 5 0 = some (20, 0)
    ∧ s.ctxs.all (fun q => q.2.wait == .give 1 0 0x8300 2 false) = true ∧ (s.mapEnt (coreKey 6 0) 0).getLsbD 15 = false
    ∧ ((s.setEnt (coreKey 6 0) 0 0x8000).mapEnt (coreKey 6 0) 0).getLsbD 15 = true
    ∧ ((w (.reclaim 1 0 3 21)).ctx 1280).wait = .reclaim 1 0 3 21 ∧ (w (.reclaim 1 0 3 21)).bankBusy 21 5 3 = false
    ∧ ((w (.drain [4])).ctx 1280).wait = .drain [4] ∧ ((w (.drain [4])).core 20).outs = []
    ∧ ((w (.drainBank 5 0)).ctx 1280).wait = .drainBank 5 0 ∧ (w (.drainBank 5 0)).bankBusy 20 5 0 = false := by decide +kernel

/-- An access by LDG or STS that has issued before, and one that first issues. -/
theorem witness_LoadsAndStores_going :
    lab.going = none ∧ (lab.setGoing ⟨0x1000000500000008, some ⟨5, 0, 8⟩, none⟩).going = some ⟨0x1000000500000008, some ⟨5, 0, 8⟩, none⟩
    ∧ lab.answered? = none ∧ (replied lab).answered? = some 7 ∧ lab.drainIds 1280 = []
    ∧ lab.mapEnt lab.myCore 0 = 0x8300 ∧ (lab.mapEnt lab.myCore 0).extractLsb' 0 6 = 0 := by decide +kernel

theorem lab_queues (s : State) (c : Cmd) (mine : List (Nat × Nat))
    (h : (if c.start.isSome then s.here.tq.length < 64 else s.here.uq.length < 16)) : ∃ t, s.Queues c mine t := ⟨_, h, rfl⟩

theorem witness_Atomics_local :
    Ty.f64.isAmo = true ∧ Ty.none.isAmo = true ∧ AmoOp.add.okFor .f32 = true ∧ AmoOp.xor.okFor .n32 = true ∧ lab.Issues always
    ∧ lab.amoEA ⟨1, 0, 8⟩ 8 = .ok (8, some ⟨5, 0, 8⟩) ∧ lab.isDirect 8 = true ∧ lab.linesHeld ⟨5, 0, 8⟩ 8 = false ∧ lab.BankFree 0 :=
  ⟨by decide, by decide, by decide, by decide, lab_issues, ok_of (by decide +kernel), by decide +kernel, by decide +kernel,
    by decide +kernel, by decide⟩

theorem witness_Atomics_away :
    lab.amoEA ⟨1, 0, 0x20000⟩ 4 = .ok (0x20000, some ⟨6, 1, 0⟩) ∧ lab.isDirect 0x20000 = false
    ∧ lab.amoEA ⟨3, 0, 0⟩ 8 = .ok (0x2000000000000000, none) ∧ lab.me.reply = none ∧ lab.me.asked = none ∧ (replied lab).me.reply = some 7 :=
  ⟨ok_of (by decide +kernel), by decide +kernel, ok_of (by decide +kernel), by decide +kernel, by decide +kernel, by decide +kernel⟩

/-- Tile 5 with the reservation queue of the word at bank 0, offset 8. -/
def queued (q : List Nat) : State := lab.modTile 5 (fun t => { t with resv := [⟨0, 8, q⟩] })

theorem witness_Atomics_reservations :
    lab.vaultEA ⟨1, 0, 8⟩ 8 [1, 2] 4 false = .ok (8, ⟨5, 0, 8⟩) ∧ lab.vaultEA ⟨1, 0, 8⟩ 8 [1, 2] 5 true = .ok (8, ⟨5, 0, 8⟩)
    ∧ lab.isDirect 8 = true ∧ lab.lrwOut ⟨5, 0, 8⟩ lab.myCtx = .joined true ∧ (queued [9]).lrwOut ⟨5, 0, 8⟩ 1280 = .joined false
    ∧ (queued [9, 10, 11, 12, 13, 14, 15, 16]).lrwOut ⟨5, 0, 8⟩ 1280 = .full ∧ (queued [1280, 9]).holds ⟨5, 0, 8⟩ 1280 = true
    ∧ lab.holds ⟨5, 0, 8⟩ lab.myCtx = false ∧ lab.linesHeld ⟨5, 0, 8⟩ 8 = false ∧ lab.BankFree 0
    ∧ (queued [1280, 9]).resvOf ⟨5, 0, 8⟩ = some ⟨0, 8, [1280, 9]⟩ ∧ 1280 ∉ [9] :=
  ⟨ok_of (by decide +kernel), ok_of (by decide +kernel), by decide +kernel, by decide +kernel, by decide +kernel, by decide +kernel,
    by decide +kernel, by decide +kernel, by decide +kernel, ⟨by decide +kernel, by decide⟩, by decide +kernel, by decide⟩

theorem witness_PhaseAndFence : lab.Issues always ∧ lab.view.crew = some 3 ∧ crewless.view.crew = none ∧ lab.timedCheck 1 = .ok 1
    ∧ ∃ t, lab.enqueue { lab.newCmd .phase none 0 [] with start := some 1 } [] = .ok t :=
  ⟨lab_issues, by decide +kernel, by decide +kernel, ok_of (by decide +kernel), _, rfl⟩

/-- A held line whose slots are targets. -/
def coded : State := lab.modCore 20 (fun c => { c with ic := [(0x80000000000000, sealLine nopLine)] })

/-- Each clause of the checks: a slot that is none, an address past the limit, no right, no target bit, and a target. -/
theorem witness_Transfers :
    coded.me.used = true ∧ coded.guard always = true ∧ coded.guard ⟨1, false⟩ = false ∧ coded.targetCheck 0x200000000000000C = .ok ()
    ∧ coded.held coded.myCore 0x200000000000000C = some (sealLine nopLine) ∧ coded.held coded.myCore 0x200000000000003F = some (sealLine nopLine)
    ∧ (0x2000000000000001#64).toNat % 64 % 12 ≠ 0 ∧ 60 ≤ (0x200000000000003C#64).toNat % 64
    ∧ (coded.modMe (fun c => { c with code := ⟨0x2000000000000000, 62, 0x43⟩ })).view.code.limit.toNat < 63
    ∧ (coded.modMe (fun c => { c with code := ⟨0x2000000000000000, 63, 3⟩ })).view.code.attr.getLsbD 6 = false
    ∧ (sealLine (nopLine &&& ~~~(1#512 <<< 481))).getLsbD 481 = false :=
  ⟨by decide, by decide, by decide, ok_of (by decide +kernel), by decide +kernel, by decide +kernel, by decide, by decide, by decide +kernel,
    by decide +kernel, by decide +kernel⟩

theorem witness_SoftwareTraps : lab.Issues always ∧ lab.retLogged lab.myCtx = false := ⟨lab_issues, by decide +kernel⟩

/-- A row of sixteen f32 elements at the start of bank 0, in table entries 0 (written) and 1. -/
def tensors : State := withX (lab.modCore 20 (fun c => { c with
  ts := [(0, { w1 := 0x000300000000000A, dims := 15 }), (1, { base := 0x40, w1 := 0x000100000000000A, dims := 15 })] })) 3 0x100

theorem witness_TensorsAndCommands_entries :
    let s : State := { lab with mem := memWriteN lab.mem (lab.locKey ⟨5, 0, 0⟩) (leBytes 24 0xF000000000000000A0000000000000040) }
    lab.Issues always ∧ s.vaultEA ⟨1, 0, 0⟩ 64 [1, 2] 4 false = .ok (0, ⟨5, 0, 0⟩) ∧ (∃ bs u, s.LoadReady 0 ⟨5, 0, 0⟩ 64 bs u)
    ∧ TsEnt.ofBytes (s.overlay ⟨5, 0, 0⟩ (s.readLoc ⟨5, 0, 0⟩ 64)) = { base := 0x40, w1 := 0xA, dims := 15 }
    ∧ descOk { base := 0x40, w1 := 0xA, dims := 15 } = true
    ∧ (∃ sg, lab.coverCheck 0x40 (tensorSpan { base := 0x40, w1 := 0xA, dims := 15 }).1 (tensorSpan { base := 0x40, w1 := 0xA, dims := 15 }).2 = .ok sg)
    ∧ ({ base := 0x40, w1 := 0xA, dims := 15 } : TsEnt).scl = 0 ∧ (tensors.ent 20 1).w1.getLsbD 48 = true
    ∧ (tensors.ent 20 2).w1.getLsbD 48 = false ∧ spaceOf (tensors.readX 3) ≤ 1 ∧ (tensors.readX 3).toNat % 16 = 0 ∧ tensors.readX 0 = 0 := by
  refine ⟨lab_issues, ok_of (by decide +kernel), ⟨_, _, by decide +kernel, Or.inl ⟨by decide +kernel, ⟨by decide +kernel, by decide⟩, rfl, rfl⟩⟩,
    by decide +kernel, by decide +kernel, ?_, by decide +kernel⟩
  exact (exists_ok (fun _ => true) (by decide +kernel)).imp fun _ h => h.1

/-- A scaled tensor whose scales lie under a segment too. -/
theorem witness_TensorsAndCommands_scaled :
    let e : TsEnt := { base := 0x40, w1 := 0x2D, dims := 31, sbase := 0x200 }
    descOk e = true ∧ e.scl ≠ 0 ∧ (∃ g, lab.coverCheck e.base (tensorSpan e).1 (tensorSpan e).2 = .ok g)
    ∧ ∃ g, lab.coverCheck e.sbase e.sbase.toNat (e.sbase.toNat + (e.dim 1 + 1) * (e.dim 2 + 1) * (e.dim 3 + 1) * e.rowScales - 1 : Nat)
        = .ok g := by
  refine ⟨by decide +kernel, by decide +kernel, ?_, ?_⟩ <;> exact (exists_ok (fun _ => true) (by decide +kernel)).imp fun _ h => h.1

/-- COPY and GATH, timed and not, from entry 1 to entry 0; PUBL. -/
theorem witness_TensorsAndCommands_commands :
    let ed : TsEnt := { w1 := 0x000300000000000A, dims := 15 }
    let ea : TsEnt := { base := 0x40, w1 := 0x000100000000000A, dims := 15 }
    tensors.Issues always ∧ tensors.named 0 false = .ok ed ∧ tensors.named 1 false = .ok ea ∧ ed.wr = true
    ∧ tensors.destTile ed.base = 5 ∧ tensors.barCheck (tensors.readX 3) 5 = .ok ⟨5, 0, 0x100⟩ ∧ tensors.entrySlot ea false = .ok none
    ∧ tensors.entrySlot ed true = .ok none ∧ tensors.lateChecks false 0 ea = .ok none ∧ tensors.lateChecks true 9 ea = .ok (some 9)
    ∧ tensors.attachedAll (panelSpans ed ++ windowSpans ed ea (tensors.readX 0)) = .ok () ∧ copyShape ed ea false (tensors.readX 0) = true
    ∧ tensors.attachedAll (panelSpans ed ++ panelSpans ea) = .ok () ∧ gathShape ed ea = true ∧ tensors.listCheck (tensors.readX 3) 4 = .ok ()
    ∧ tensors.attachedAll [(tensors.readX 3, 4)] = .ok () ∧ tensors.rsvConflict [] = none
    ∧ tensors.rsvConflict (copyRsv 9 (tensors.exactMoves { tensors.newCmd (.copy ed ea false false 0) none 0 [] with start := some 9 }
        ed ea false 0)) = none
    ∧ (∀ c mine, c.start = none → ∃ t, tensors.Queues c mine t) ∧ (∀ c mine, c.start = some 9 → ∃ t, tensors.Queues c mine t)
    ∧ tensors.timedCheck 9 = .ok 9 :=
  ⟨⟨by decide, by decide, by decide⟩, ok_of (by decide +kernel), ok_of (by decide +kernel), by decide +kernel, by decide +kernel, ok_of (by decide +kernel),
    ok_of (by decide +kernel), ok_of (by decide +kernel), ok_of (by decide +kernel), ok_of (by decide +kernel), ok_of (by decide +kernel),
    by decide +kernel, ok_of (by decide +kernel), by decide +kernel, ok_of (by decide +kernel), ok_of (by decide +kernel), rfl, by decide +kernel,
    fun c _ h => lab_queues _ c _ (by rw [h]; decide +kernel), fun c _ h => lab_queues _ c _ (by rw [h]; decide +kernel),
    ok_of (by decide +kernel)⟩

theorem witness_Barriers :
    let s := withX lab 1 1
    let t := withX lab 1 0x80000000
    s.Issues always ∧ s.vaultEA ⟨1, 0, 16⟩ 16 [1, 2] 5 true = .ok (16, ⟨5, 0, 16⟩) ∧ s.vaultEA ⟨1, 0, 16⟩ 16 [1, 2] 4 false = .ok (16, ⟨5, 0, 16⟩)
    ∧ (⟨5, 0, 16⟩ : Loc).tile = s.cur.tile ∧ 0 < (s.readX 1).toNat % 2 ^ 32 ∧ (t.readX 1).toNat % 2 ^ 32 ≤ 2 ^ 31 ∧ s.isDirect 16 = true
    ∧ s.linesHeld ⟨5, 0, 16⟩ 16 = false ∧ s.BankFree 0 ∧ (∃ bs u, s.ImmReady 16 ⟨5, 0, 16⟩ 16 bs u)
    ∧ (∃ bs u, (replied s).ImmReady 0x20010 ⟨6, 1, 16⟩ 16 bs u) ∧ (s.barrier ⟨5, 0, 16⟩).ph ≠ (s.readX 1).getLsbD 0
    ∧ (t.barrier ⟨5, 0, 16⟩).ph = (t.readX 1).getLsbD 0 ∧ (t.barrier ⟨5, 0, 16⟩).err = 0
    ∧ ((t.initBar ⟨5, 0, 16⟩ 1).arriveAt ⟨5, 0, 16⟩ 0 0 9 0 |>.barrier ⟨5, 0, 16⟩).err = 9 :=
  ⟨⟨by decide, by decide, by decide⟩, ok_of (by decide +kernel), ok_of (by decide +kernel), rfl, by decide +kernel, by decide +kernel, by decide +kernel,
    by decide +kernel, ⟨by decide +kernel, by decide⟩, ⟨_, _, Or.inl ⟨by decide +kernel, ⟨by decide +kernel, by decide⟩, rfl, rfl⟩⟩,
    ⟨_, _, Or.inr ⟨by decide +kernel, 7, by decide +kernel, rfl, rfl⟩⟩, by decide +kernel, by decide +kernel, by decide +kernel,
    by decide +kernel⟩

/-- Entries 0 and 1 as operands of a product of one row and one column; MLDC and MSTC of one row. -/
theorem witness_MatrixAndLinks_engine :
    let ed : TsEnt := { w1 := 0x000300000000000A, dims := 15 }
    let ea : TsEnt := { base := 0x40, w1 := 0x000100000000000A, dims := 15 }
    tensors.Issues always ∧ tensors.engineEntry 1 false = .ok ea ∧ tileEntryOk ea .f32 = true ∧ ea.scl = 0
    ∧ tensors.tagCheck ea = .ok () ∧ tensors.engineEntry 0 true = .ok ed ∧ tileEntryOk ed .f32 = true
    ∧ tensors.productEntries 0 1 = .ok (ed, ea) ∧ tensors.tagCheck ed = .ok () ∧ (productOf false ed ea 0).isSome = true
    ∧ tensors.barCheck (tensors.readX 3) tensors.cur.tile = .ok ⟨5, 0, 0x100⟩ ∧ ed.unf = false ∧ tensors.timedCheck 9 = .ok 9 :=
  ⟨⟨by decide, by decide, by decide⟩, ok_of (by decide +kernel), by decide +kernel, by decide +kernel, ok_of (by decide +kernel), ok_of (by decide +kernel),
    by decide +kernel, ok_of (by decide +kernel), ok_of (by decide +kernel), by decide +kernel, ok_of (by decide +kernel), by decide +kernel,
    ok_of (by decide +kernel)⟩

theorem witness_MatrixAndLinks_stages :
    let ed : TsEnt := { w1 := 0x000300000000000A, dims := 15 }
    let ea : TsEnt := { base := 0x40, w1 := 0x000100000000000A, dims := 15 }
    let stages := tensors.stagesOf tensors.myPlace ⟨ed, 0, 1, 16⟩ ⟨ea, 0, 1, 16⟩ 1
    let mine := (scheduleGo stages 18 9 9).1.map (fun l => (l.1.bank, l.2))
    stages = [([⟨5, 0, 0⟩, ⟨5, 0, 1⟩], 256)] ∧ mine = [(0, 18), (0, 19)] ∧ tensors.rsvConflict mine = none ∧ tensors.here.mtq = []
    ∧ tensors.here.tq.length < 64 := by decide +kernel

theorem witness_MatrixAndLinks_links :
    (∀ e ∈ [true], (linked.linkCore linked.myCore e).isSome = true ∧ linked.hasCredit linked.myCore e = true)
    ∧ (let inner : State := { lab with cur := { tile := 5, core := 1 } }
      ∀ e ∈ [true, false], (inner.linkCore inner.myCore e).isSome = true ∧ inner.hasCredit inner.myCore e = true)
    ∧ (∃ v s1, linked.readV 31 = .ok (v, s1)) ∧ linked.timedCheck 9 = .ok 9 ∧ (62 ≤ (62 : BitVec 6).toNat)
    ∧ ∃ t, linked.Queues { linked.newCmd (.lnpush .e none 0) none 0 [] with start := some 9 } [] t :=
  ⟨by decide +kernel, by decide +kernel, ⟨_, _, rfl⟩, ok_of (by decide +kernel), by decide, lab_queues _ _ _ (by decide +kernel)⟩

/-- An open channel of number 63, at most and least lengths of a message, and a static route. -/
def sending : State := withX (withX (lab.modCore 20 (fun c => { c with chans := [(63, { st := 1, tile := 6 })] })) 4 63) 5 0x40

theorem witness_MessagesAndRoutes_send :
    sending.Issues always ∧ (sending.readX 4).toNat < 64 ∧ (sending.chan sending.myCore 63).st = 1 ∧ (sending.chan sending.myCore 63).outn ≠ 8
    ∧ (∃ src, sending.sourceRange (sending.readX 5) 64 = .ok src) ∧ sending.barReg 0 = .ok none
    ∧ sending.retxUsed 5 + copySize 4096 ≤ 65536 ∧ sending.startOf false 0 = .ok none ∧ sending.startOf true 9 = .ok (some 9)
    ∧ (∀ c mine, c.start = none → ∃ t, (sending.addOut sending.myCtx (.msg 6 false) 1).2.Queues c mine t) :=
  ⟨⟨by decide, by decide, by decide⟩, by decide +kernel, by decide +kernel, by decide +kernel,
    (exists_ok (fun _ => true) (by decide +kernel)).imp fun _ h => h.1, rfl, by decide +kernel, rfl, ok_of (by decide +kernel),
    fun c _ h => lab_queues _ c _ (by rw [h]; decide +kernel)⟩

theorem witness_MessagesAndRoutes_routes :
    let s := (withX sending 6 0x10040).modTile 5 (fun t => { t with routes := [(1, 0x8000000600070000)] })
    let D := s.readX 6
    s.Issues always ∧ (∃ src, s.sourceRange (s.readX 5) 64 = .ok src) ∧ D.toNat % 2 ^ 13 = 64 ∧ D.extractLsb' 24 40 = 0
    ∧ D.extractLsb' 13 3 = 0 ∧ (s.readX 5).toNat % 64 = 0 ∧ (s.route 5 (D.extractLsb' 16 8).toNat).getLsbD 63 = true
    ∧ (s.readX 5).toNat < 48 * 2 ^ 17 ∧ (s.readX 5).toNat % 16 = 0 :=
  ⟨⟨by decide, by decide, by decide⟩, (exists_ok (fun _ => true) (by decide +kernel)).imp fun _ h => h.1, by decide +kernel, by decide +kernel,
    by decide +kernel, by decide +kernel, by decide +kernel, by decide +kernel, by decide +kernel⟩

/-- A rectangle that is the whole crew, and one with no barrier. -/
theorem witness_MessagesAndRoutes_mcast :
    let C : Word := 0x0000000100000000
    lab.view.crew = some 3 ∧ C.extractLsb' 48 16 = 0
    ∧ (C.extractLsb' 0 16).toNat + ((C.extractLsb' 32 8).toNat + 1) ≤ (lab.crew 3).blk.cols
    ∧ (C.extractLsb' 16 16).toNat + ((C.extractLsb' 40 8).toNat + 1) ≤ (lab.crew 3).blk.rows
    ∧ (sending.readX 5).toNat % 8 = 0 ∧ (sending.readX 5).toNat + 8 ≤ 48 * 2 ^ 17 ∧ (sending.readX 5).toNat % 16 = 0 := by decide +kernel

/-- An inbox of four entries of 64 bytes at the start of bank 2: empty, with one entry, and with a taken one. -/
def inboxed (tail take head : Nat) : State :=
  let s := lab.modTile 5 (fun t => { t with inbox := [(15, 0x8003600000040000)] })
  ((s.writeLoc ⟨5, 2, 0⟩ (leBytes 4 tail)).writeLoc ⟨5, 2, 4⟩ (leBytes 4 take)).writeLoc ⟨5, 2, 8⟩ (leBytes 4 head)

theorem witness_InboxesChannelsHop_inbox :
    let x := (inboxed 0 0 0).inbox 5 15
    x.getLsbD 63 = true ∧ ((inboxed 0 0 0).ibxCounts 5 x).take = ((inboxed 0 0 0).ibxCounts 5 x).tail
    ∧ ((inboxed 1 0 0).ibxCounts 5 x).take ≠ ((inboxed 1 0 0).ibxCounts 5 x).tail ∧ (inboxed 1 0 0).linesHeld (ibxCtl 5 x) 16 = false
    ∧ (inboxed 1 1 0).ibxCounts 5 x = ⟨1, 1, 0, 0⟩ ∧ globalAddr ⟨5, 2, 64⟩ = 0x1000000500040040 ∧ ibxOk x = true := by decide +kernel

theorem witness_InboxesChannelsHop_free :
    let s := withX (inboxed 1 1 0) 1 0x1000000500040040
    ((List.range 1).map (fun k => (0 + k) % 2 ^ 32 % 4)).find?
      (fun e => globalAddr ⟨5, 2, 64 + e * 64⟩ == s.readX 1 && !([] : List Nat).contains e) = some 0 := by decide +kernel

theorem witness_InboxesChannelsHop_open_hop :
    let s := withX lab 1 6
    s.Issues always ∧ (s.readX 1).extractLsb' 56 8 = 0 ∧ (s.readX 1).extractLsb' 20 27 = 0
    ∧ s.tileNamed (((s.readX 1).extractLsb' 0 16).setWidth 64) = true ∧ s.tileNamed (s.readX 1) = true ∧ s.inCrew 3 6 = true
    ∧ s.view.crew = some 3 ∧ (∀ e ∈ s.tiles, ∀ r ∈ e.2.resv, s.myCtx ∉ r.queue)
    ∧ (0x0001800000000006#64).getLsbD 47 = true ∧ (0x0001800000000006#64).extractLsb' 48 8 ≠ s.sys.wnum :=
  ⟨⟨by decide, by decide, by decide⟩, by decide +kernel, by decide +kernel, by decide +kernel, by decide +kernel, by decide +kernel, by decide +kernel,
    by decide +kernel, by decide, by decide +kernel⟩

theorem witness_MessagesAndRoutes_router :
    let s := withX (withX (withX (atLevel lab 2) 1 0x7FFF) 2 0xB7BF) 3 0xFFFF
    s.IssuesAt always 2 ∧ s.barReg 0 = .ok none ∧ (s.readX 1).toNat < 0x8000 ∧ isSite (s.readX 2).toNat = true ∧ s.readX 3 = 0xFFFF
    ∧ (s.readX 2).extractLsb' 20 44 = 0 ∧ (s.readX 3).extractLsb' 34 29 = 0 ∧ (s.readX 1).extractLsb' 24 40 = 0
    ∧ (s.readX 1).toNat % 2 ^ 16 < 0x8000 ∧ (s.readX 3).extractLsb' 48 14 = 0 :=
  ⟨⟨⟨by decide, by decide, by decide⟩, by decide⟩, rfl, by decide +kernel, by decide +kernel, by decide +kernel, by decide +kernel, by decide +kernel,
    by decide +kernel, by decide +kernel, by decide +kernel⟩

/-- A second context in slot 15, present or asleep. -/
def second (w : Wait) : State :=
  (coded.setCtx 1281 { labCtx with uid := 2, wait := w }).modCore 20 (fun c => { c with slots := [(0, 1), (15, 2)] })

theorem witness_ContextsOfACore :
    let s := withX coded 1 15
    s.Issues always ∧ s.cur.slot = 0 ∧ (s.readX 1).toNat ≤ 15 ∧ 1 ≤ (withX coded 1 1 |>.readX 1).toNat
    ∧ s.targetCheck (s.slotAddr + (0xFFFFFFF4#32).signExtend 64 + 24) = .ok () ∧ s.inSlot s.myCore 15 = none
    ∧ (second .none).inSlot 20 15 = some 1281 ∧ atBoundary ((second .none).ctx 1281) = true ∧ atBoundary ((second (.barw ⟨5, 0, 0⟩)).ctx 1281) = true
    ∧ atBoundary ((second .mma).ctx 1281) = false ∧ ((second .none).ctx 1281).used = true ∧ ((second .none).ctx 1281).wait = .none :=
  ⟨⟨by decide, by decide, by decide⟩, rfl, by decide +kernel, by decide +kernel, ok_of (by decide +kernel), by decide +kernel, by decide +kernel,
    by decide +kernel, by decide +kernel, by decide +kernel, by decide +kernel, by decide +kernel⟩

/-- The updates of a cell at the ends of each clause. -/
theorem witness_Knots :
    coded.Issues always ∧ coded.knotEA ⟨2, 0, 32⟩ = .ok (.vault ⟨5, 0, 32⟩) ∧ coded.knotEA ⟨3, 0, 32⟩ = .ok (.far 0x2000000000000020) ∧ (coded.readX 0).toNat % 256 = 0
    ∧ spaceOf ((withX coded 1 0x1000000500000100).readX 1) = 1 ∧ spaceOf ((withX coded 1 0x2000000000000100).readX 1) = 2
    ∧ coded.me.asked = none ∧ coded.targetCheck (coded.slotAddr + 12) = .ok () ∧ coded.cur.slot = 0 ∧ coded.view.crew ≠ none
    ∧ (0#32).toInt ≤ 0 ∧ (0xFFFFFFFF#32).toInt ≤ 0 ∧ 0 < (1#32).toInt ∧ 0 < (0x7FFFFFFF#32).toInt ∧ (0x7FFFFFFF#32 + 1).toInt ≤ 0 :=
  ⟨⟨by decide, by decide, by decide⟩, ok_of (by decide +kernel), ok_of (by decide +kernel), by decide +kernel, by decide +kernel, by decide +kernel,
    by decide +kernel, ok_of (by decide +kernel), rfl, by decide +kernel, by decide⟩

/-- A block that LAUNCH takes, in bank 0, with the queue free and with held blocks before it. -/
def launching : State := (lab.writeLoc ⟨5, 0, 32⟩ (leBytes 8 0x2000000000000020)).writeLoc ⟨5, 0, 40⟩ (leBytes 8 0x2000000000000040)

theorem witness_LaunchAndTaskEnd :
    launching.Issues always ∧ launching.view.crew ≠ none ∧ launching.vaultEA ⟨1, 0, 0⟩ 256 [1, 2] 4 false = .ok (0, ⟨5, 0, 0⟩)
    ∧ (∃ bs u, launching.LoadReady 0 ⟨5, 0, 0⟩ 256 bs u) ∧ launching.queueFull 1 = false
    ∧ blockPlaced (blockOf (launching.overlay ⟨5, 0, 0⟩ (launching.readLoc ⟨5, 0, 0⟩ 256))) = true
    ∧ (launching.setPart 1 { launching.part 1 with held := [[]] }).queueFull 1 = true ∧ launching.partOf 1280 = 1 :=
  ⟨⟨by decide, by decide, by decide⟩, by decide +kernel, ok_of (by decide +kernel),
    ⟨_, _, by decide +kernel, Or.inl ⟨by decide +kernel, ⟨by decide +kernel, by decide⟩, rfl, rfl⟩⟩, by decide +kernel, by decide +kernel,
    by decide +kernel, by decide +kernel⟩

theorem witness_VersionsAndSample_versions :
    let s := lab.modCrew 3 (fun c => { c with blk := { c.blk with vbind := 0x8005 } })
    s.Issues always ∧ s.view.crew = some 3 ∧ (s.crew 3).boundSet = some 5 ∧ (s.readX 1).toNat < 2 ^ 16 ∧ s.loggedAnswer s.myCtx = none ∧ s.myVcc + 128 ≤ s.startVc 128
    ∧ (s.crew 3).dyn.adopt = none ∧ s.myVcc + 128 > s.startVc 127 :=
  ⟨⟨by decide, by decide, by decide⟩, by decide +kernel⟩

theorem witness_VersionsAndSample_sample :
    let te : TsEnt := { base := 0x40, w1 := 0x000100000000000A, dims := 15 }
    tensors.ent tensors.myCore 1 = te ∧ sampleEntry tensors te = .ok () ∧ tensors.tagCheck te = .ok ()
    ∧ tensors.vaultEA ⟨1, 0, 8⟩ 8 [1, 2] 5 true = .ok (8, ⟨5, 0, 8⟩) ∧ ∀ v, ∃ t, tensors.StoreTaken 8 ⟨5, 0, 8⟩ 8 0xFF v t :=
  ⟨by decide +kernel, ok_of (by decide +kernel), ok_of (by decide +kernel), ok_of (by decide +kernel),
    fun _ => ⟨_, by decide +kernel, Or.inr (Or.inr ⟨by decide +kernel, by decide, Or.inr (by decide +kernel), rfl⟩)⟩⟩

/-- A core with a trap record of context 1281, not claimed and claimed. -/
def trapped (claim : Bool) : State :=
  let s := atLevel (second .none) 1
  (s.modCore 20 (fun c => { c with trapq := [{ ctx := 1281, asyn := false, ecause := 0, eaddr := 0, claimed := claim }] })).modMe
    (fun c => { c with rcv := claim })

theorem witness_TrapHandling :
    (trapped false).IssuesAt always 1 ∧ (trapped false).me.rcv = false
    ∧ ((trapped false).here.trapq.find? (fun r => !r.claimed)).isSome = true
    ∧ ((atLevel (second .none) 1).here.trapq.find? (fun r => !r.claimed)) = none
    ∧ ((trapped true).claimed (trapped true).myCtx).isSome = true
    ∧ (∀ i ∈ List.range 8, (Tbl.get {} ((trapped true).ctx 1281).sg i).wf = true)
    ∧ codeCheck ((trapped true).ctx 1281).code 0x2000000000000018 0x2000000000000018 = .ok ()
    ∧ ((trapped true).held (coreOfCtx 1281) 0x2000000000000018).isSome = true :=
  ⟨⟨⟨by decide, by decide, by decide⟩, by decide⟩, by decide +kernel, by decide +kernel, by decide +kernel, by decide +kernel, by decide +kernel,
    ok_of (by decide +kernel), by decide +kernel⟩

theorem witness_StewardInstructions :
    let s := withX (atLevel (second .none) 1) 1 0x400000050000F000
    s.IssuesAt always 1 ∧ s.swapArg (s.readX 1) false = .ok (20, 15) ∧ s.swapArg (s.readX 1) true = .ok (20, 15)
    ∧ s.swapArg 0x4000000500000000 false = .ok (20, 0) ∧ s.swapOut s.myCtx 20 0 none = none ∧ (s.swapOut s.myCtx 20 15 none).isSome = true
    ∧ (s.swapOut s.myCtx 20 15 (some 63)).isSome = true ∧ ((withX s 1 0xF0000004D).readX 1).extractLsb' 36 28 = 0 :=
  ⟨⟨⟨by decide, by decide, by decide⟩, by decide⟩, ok_of (by decide +kernel), ok_of (by decide +kernel), ok_of (by decide +kernel), rfl,
    by decide +kernel, by decide +kernel, by decide +kernel⟩

theorem witness_StewardInstructions_rdrec :
    let s := atLevel lab 1
    spaceOf (0x4000000500200000 : Word) = 4 ∧ s.windowOk s.level s.cur.tile 0x4000000500200000 = true ∧ winKind 0x4000000500200000 = 2
    ∧ winOff 0x4000000500200000 = 0 := by decide +kernel

theorem witness_SegmentsAndBelay :
    let s := atLevel lab 1
    s.IssuesAt always 1 ∧ (∀ n ∈ [0, 63], 0 ≤ (n : Int) ∧ (n : Int) < 64) ∧ s.BankFree 55 ∧ (segOfBytes (s.readLoc ⟨5, 55, 0x18000⟩ 32)).wf = true
    ∧ leNat ((s.readLoc ⟨5, 55, 0x18000⟩ 32).drop 24) = 0 ∧ ((withX s 1 64).readX 1).toInt + (0#32).toInt = 64
    ∧ (s.readX 0).toInt + (0xFFFFFFFF#32).toInt = -1 ∧ (⟨0, 0x3FFFFF, 0xB1⟩ : Seg).wf = true ∧ (⟨0, 0, 8⟩ : Seg).wf = false
    ∧ s.view.crew = some 3 ∧ (s.crew 3).redo = [] ∧ s.loggedAnswer s.myCtx = none :=
  ⟨⟨⟨by decide, by decide, by decide⟩, by decide⟩, by decide, ⟨by decide +kernel, by decide⟩, by decide +kernel, by decide +kernel, by decide +kernel,
    by decide +kernel, by decide +kernel, by decide +kernel, by decide +kernel, by decide +kernel, by decide +kernel⟩

/-! Packets: one that has arrived at the router of tile 5. -/

def pkt (b : Body) : Pkt := { id := 7, pos := 300, dst := 300, lane := 0, src := 6, ctx := 1280, stream := 0, body := b }

def withPkt (s : State) (b : Body) : State := { s with net := [pkt b] }

theorem pkt_arrives (s : State) (b : Body) (h : s.net = []) (f : (s.site 300).fence = []) (o : (s.site 300).hole = false)
    (d : s.detourAt 300 300 = none) : (withPkt s b).Arrives 0 (pkt b) s := by
  refine ⟨rfl, rfl, rfl, rfl, ?_, o, d, ?_, ?_, ?_, ?_⟩
  · show 300 ∉ (s.site 300).fence
    rw [f]; exact List.not_mem_nil
  · cases b <;> rfl
  · intro q hq
    cases hq
  · intro q hq
    cases List.mem_singleton.mp hq
    rfl
  · cases s
    simp only at h
    simp [withPkt, h]

theorem lab_arrives (b : Body) : (withPkt lab b).Arrives 0 (pkt b) lab := pkt_arrives lab b rfl rfl rfl (by decide +kernel)

theorem witness_CoreEvents_clock :
    isSite 300 = true ∧ isSite 0xB7BF = true ∧ 300 ≠ controlSite anchorField 0 ∧ (lab.field (fieldOf 300)).droop ≤ lab.sys.rtime.toNat
    ∧ lab.tileAt 300 = some 5 ∧ lab.tileAt 0 = none
    ∧ (let l : Landing := ⟨4, 0, false, 3, 9⟩
      let m : Landing := ⟨4, 1, false, 3, 8⟩
      l.isVec = false ∧ m.due ≤ 4 ∧ (l.due = m.due ∧ l.rank < m.rank) ∧ ¬l.due ≤ 3) := by decide +kernel

theorem witness_CoreEvents_sleep :
    let s := lab.modMe (fun c => { c with wait := .sleep 1 1, crew := none })
    (s.ctx 1280).wait = .sleep 1 1 ∧ (s.ctx 1280).used = true ∧ ((s.modSite 300 (fun n => { n with ctr := 1 })).vccOf 1280) = 1 := by
  decide +kernel

/-- A core whose context 1 waits in no slot. -/
def waiting : State := lab.setCtx 1281 { labCtx with uid := 2, prio := 3, since := 0 }

theorem witness_CoreEvents_scheduler :
    (waiting.core 20).decideAt ≠ some 0 ∧ waiting.rcOf 5 = 0 ∧ (waiting.tile 5).capture = 0 ∧ (waiting.tile 5).halted = false
    ∧ waiting.replaying 5 = false
    ∧ (let u := waiting.modCore 20 (fun c => { c with decideAt := some 0 })
      u.deliver 20 = none ∧ u.reload 20 = none ∧ u.parkOut 20 = none ∧ u.rescue 20 = none ∧ u.nextWaiting 20 u.ownMove = some 1281
      ∧ u.emptySlot 20 = some 1)
    ∧ (let u := waiting.modCore 20 (fun c =>
        { c with decideAt := some 0, slots := (List.range 16).map (fun i => (i, if i = 0 then 1 else i + 2)) })
      u.emptySlot 20 = none ∧ u.nextWaiting 20 u.ownMove = some 1281
      ∧ u.victimOf ((u.movable 20).filter (fun k => decide (u.classOf k < u.classOf 1281))) = some 1280 ∧ u.slotOf 1280 = some 0) := by
  decide +kernel

theorem witness_CoreEvents_delivery :
    let u := (trapped false).modCore 20 (fun c => { c with handler := some 1280 })
    (u.deliver 20).isSome = true ∧ (trapped false).deliver 20 = none
    ∧ ((waiting.modCore 20 (fun c => { c with displaced := [(0, 1)] })).reload 20).isSome = true := by decide +kernel

theorem witness_CoreEvents_swap_and_line :
    let s := lab.modCore 20 (fun c => { c with swaps := [⟨1, none, some 1281, 0, 0, 0⟩] })
    (s.core 20).swaps.find? (s.swapOver 20) = some ⟨1, none, some 1281, 0, 0, 0⟩ ∧ lab.linesHeld (State.frameLoc 1281) 0xA00 = false
    ∧ coreOfCtx 1281 = 20 ∧ 1281 < spillBase
    ∧ (let f := lab.modMe (fun c => { c with wait := .fetch (lineOf 0x2000000000000000) })
      (f.ctxsOf 20).find? (fun j => (f.ctx j).wait == .fetch (lineOf 0x2000000000000000) && !(f.ctx j).parked) = some 1280
      ∧ (f.readFar (f.gwOf (tileOfCore 20)) (f.partOf 1280) (f.ctx 1280).crew (lineOf 0x2000000000000000) 64 .fetch).1.toOption = none) := by
  decide +kernel

theorem witness_CoreEvents_record :
    (withPkt lab (.trap 20 { ctx := 1281, asyn := false, ecause := 0, eaddr := 0 })).Arrives 0
      (pkt (.trap 20 { ctx := 1281, asyn := false, ecause := 0, eaddr := 0 })) lab
    ∧ (List.range 32).find? (fun e => (lab.core 20).trapq.all (fun x => x.entry.toNat != e)) = some 0 :=
  ⟨lab_arrives _, by decide +kernel⟩

/-- The ticks of a VCC: halting, slacking, going on, and at its end. -/
theorem witness_CoreEvents_vcc :
    (lab.tile 5).crew = some 3 ∧ lab.replaying 5 = false ∧ mustHalt (lab.crew 3) 0 = false ∧ lab.slacks 5 = false ∧ lab.vcWork 5 = false
    ∧ mustHalt ((lab.modCrew 3 (fun c => { c with haltAt := some 0 })).crew 3) 0 = true
    ∧ (lab.modTile 5 (fun t => { t with capture := 1 })).slacks 5 = true
    ∧ (lab.crew 3).live = true ∧ (lab.crew 3).st = .running ∧ 5 ∈ lab.crewTiles 3
    ∧ 2 ^ 48 - 1 ≤ ((lab.modTile 5 (fun t => { t with vcc := 2 ^ 48 - 1 })).tile 5).vcc := by decide +kernel

/-- A timed command, a run of it and a running copy. -/
def timed : Cmd := { id := 3, kind := .phase, start := some 0, ctx := 1280, slot := 0, crew := some 3 }

theorem witness_EngineEvents_timed :
    let s := lab.modCore 20 (fun c => { c with tq := [timed] })
    (s.core 20).tq[0]? = some timed ∧ (s.tile (tileOfCore 20)).crew = some 3 ∧ timed.start.getD 0 ≤ (s.tile 5).vcc ∧ (s.crew 3).st = .running
    ∧ (s.tile 5).halted = false ∧ dueCut (s.crew 3) 0 = false ∧ (s.tile 5).capture = 0 ∧ mustHalt (s.crew 3) 0 = false
    ∧ atStop 0 (s.crew 3).replayTo = false ∧ s.firstTag 5 timed (timedSources timed (s.core 20).mtq) = none := by decide +kernel

/-- A timed copy whose source has a barrier that is open, passed, or in error. -/
def timedCopy (seq : BitVec 64) : Cmd :=
  let p : TsEnt := { w1 := 0x000300000000000A, dims := 15 }
  let t : TsEnt := { base := 0x40, w1 := 0x000100000000000A, dims := 15, w4 := seq, bar := 0x100 }
  { timed with kind := .copy p t false false 0, bar := some ⟨5, 0, 0x200⟩, map := [(0, 0x8300)] }

theorem witness_EngineEvents_timed_outcomes :
    let late := lab.writeLoc ⟨5, 0, 0x100⟩ (Barrier.bytes { (Barrier.ofBytes []) with ph := true, tag := 9, exp := 1, pend := 1 })
    (match lab.timedOut 20 (timedCopy 0x100000000) with | .missing => true | _ => false) = true
    ∧ (match late.timedOut 20 (timedCopy 0x100000000) with | .schedule _ => true | _ => false) = true
    ∧ (match lab.timedOut 20 (timedCopy 0) with | .start _ => true | _ => false) = true := by decide +kernel

/-- The gateway of field 1 with a table for partition 1: a plain leaf with every right and a buffer leaf. -/
def mapped : State :=
  (({ lab with gws := [(1, { tcbase := [(1, 0x8000000000001000)], tclim := [(1, 8)] })] } : State).writePa 0x1000
    (leBytes 8 0x80D0000020000000)).writePa 0x1008 (leBytes 8 0xC030000000000000)

theorem witness_CoreEvents_line :
    let s := mapped.modMe (fun c => { c with wait := .fetch (lineOf 0x2000000000000000) })
    (s.ctxsOf 20).find? (fun j => (s.ctx j).wait == .fetch (lineOf 0x2000000000000000) && !(s.ctx j).parked) = some 1280
    ∧ (s.readFar (s.gwOf (tileOfCore 20)) (s.partOf 1280) (s.ctx 1280).crew (lineOf 0x2000000000000000) 64 .fetch).1.toOption.isSome = true := by
  decide +kernel

/-- A running copy with a move to make, one that failed, one that has ended, and a publish. -/
def aRun : Run := { cmd := { timed with kind := .copy {} {} false false 0, start := none }, moves := [⟨[.const 1], [.vault ⟨5, 0, 0⟩], 1⟩], left := 1 }

theorem witness_EngineEvents_runs :
    let s := lab.modCore 20 (fun c => { c with runs := [aRun], uq := [aRun.cmd] })
    (s.core 20).uq = [aRun.cmd] ∧ s.nextUntimed (tileOfCore 20) = some 20 ∧ (s.tile 5).halted = false ∧ s.replaying 5 = false
    ∧ (s.core 20).runs[0]? = some aRun ∧ aRun.cmd.exact = false ∧ aRun.fail = none ∧ aRun.bufs = [] ∧ aRun.acks = []
    ∧ badOf ([.const 1] ++ [.vault ⟨5, 0, 0⟩]) = none ∧ badOf [.bad 3 9] = some (3, 9) ∧ s.dstHeld [.vault ⟨5, 0, 0⟩] = false
    ∧ ({ timedCopy 0 with bar := none }.exact) = true ∧ 2 * (timedCopy 0).start.getD 0 + 0 ≤ 2 * (s.tile 5).vcc + 1 := by decide +kernel

theorem witness_EngineEvents_arrival :
    (withPkt lab (.arrive ⟨5, 0, 16⟩ 1 0 0 0)).Arrives 0 (pkt (.arrive ⟨5, 0, 16⟩ 1 0 0 0)) lab ∧ lab.linesHeld ⟨5, 0, 16⟩ 16 = false
    ∧ (let b : Barrier := ⟨4, 2, 0, 0, false, false, 0⟩
      1 < b.pend ∧ 2 = b.pend ∧ b.pend < 3 ∧ b.err = 0) := ⟨lab_arrives _, by decide +kernel⟩

/-- An operation of the engine with two lines to fetch, timed and not, and one that is done. -/
def op : MOp := { id := 9, kind := .zero false, acc := 0, ctx := 1280, uid := 1, slot := 0, stages := [([⟨5, 0, 0⟩, ⟨5, 0, 1⟩], 256)] }

theorem witness_MatrixAndLinkEvents_engine :
    let s := lab.modCore 20 (fun c => { c with mq := [op] })
    let r := lab.modCore 20 (fun c => { c with mrun := some op })
    (s.core 20).mrun = none ∧ (s.core 20).mq = [op] ∧ (s.core 20).mtq = [] ∧ (s.tile 5).halted = false ∧ s.replaying 5 = false
    ∧ (r.core 20).mrun = some op ∧ op.start = none ∧ op.g ≤ 2 * r.tileVc 5 ∧ r.reservedNow 5 0 0 = false ∧ 0 + 128 ∉ (r.tile 5).bankUse
    ∧ ({ op with start := some 0 } : MOp).start ≠ none ∧ 2 * r.tileVc 5 + 1 < ({ op with g := 2 } : MOp).g
    ∧ ({ op with done := some 0 } : MOp).done = some 0 ∧ r.storeHeld { op with done := some 0 } = false
    ∧ ((r.ctx op.ctx).used = true ∧ (r.ctx op.ctx).uid = op.uid) ∧ ¬(r.ctx 1281).used = true := by decide +kernel

theorem witness_MatrixAndLinkEvents_links :
    let f : Flight := ⟨false, 0, 5, false⟩
    let s := lab.modCore 21 (fun c => { c with fly := [f] })
    s.linkCore 20 true = some 21 ∧ (s.core 21).fly.findIdx? (fun f => f.east == !true) = some 0 ∧ (s.core 21).fly[0]? = some f
    ∧ 0 ≤ s.rcOf (tileOfCore 20) ∧ (∀ k ∈ s.ctxsOf 20, s.replaying (tileOfCtx k) = false) := by decide +kernel

theorem lab_useBank : ∃ w, lab.useBank 5 0 = some w := by
  have h : (lab.useBank 5 0).isSome = true := by decide +kernel
  exact Option.isSome_iff_exists.mp h

/-- A packet of each kind reaches the tile, whose bank is free and whose lines may be written. -/
theorem witness_VaultEvents_packets :
    (∀ b, (withPkt lab b).Arrives 0 (pkt b) lab) ∧ (∃ w, lab.useBank 5 0 = some w) ∧ lab.linesHeld ⟨5, 0, 8⟩ 32 = false
    ∧ lab.linesHeld ⟨5, 0, 8⟩ 8 = false ∧ lab.reservedNow 5 0 0 = false ∧ 0 + 128 ∉ (lab.tile 5).bankUse :=
  ⟨lab_arrives, lab_useBank, by decide +kernel, by decide +kernel, by decide +kernel, by decide +kernel⟩

theorem witness_VaultEvents_waiters :
    let lrw := (queued [9]).modMe (fun c => { c with wait := .lrw ⟨5, 0, 8⟩ 1 1 })
    (lrw.ctx 1280).wait = .lrw ⟨5, 0, 8⟩ 1 1 ∧ lrw.lrwOut ⟨5, 0, 8⟩ 1280 = .joined false
    ∧ ((queued [1280]).modMe (fun c => { c with wait := .lrw ⟨5, 0, 8⟩ 1 1 })).holderOf ⟨5, 0, 8⟩ = some 1280
    ∧ (queued [1280]).wakeAhead 1280 = false
    ∧ ((lab.modMe (fun c => { c with wait := .load })).ctx 1280).asked = none
    ∧ ((lab.modMe (fun c => { c with asked := some .amo })).ctx 1280).asked = some .amo
    ∧ ((lab.modMe (fun c => { c with asked := some (.knotRd 1) })).ctx 1280).asked = some (.knotRd 1)
    ∧ ((lab.addOut 1280 .mcast 1).2.core 20).outs.all (fun o => decide (o.left ≤ 1)) = true := by decide +kernel

/-- GIVE with its bank busy, taken away, refused by the receiver's entry, and done; RECLAIM. -/
theorem witness_VaultEvents_give :
    let s := (lab.modMe (fun c => { c with wait := .give 1 0 0x8300 2 true })).modTile 5 (fun t => { t with rows := [(0, mkRow 0 0 0 0)] })
    (s.ctx 1280).wait = .give 1 0 0x8300 2 true ∧ s.replaying 5 = false ∧ s.neighbour 5 0 = some 5 ∧ s.neighbour 5 2 = some 6
    ∧ s.bankBusy 20 5 0 = false ∧ ((s.addOut 1280 (.vault 5 0 false) 1).2).bankBusy 20 5 0 = true
    ∧ s.rowHolder 5 0 = some (20, 0) ∧ (s.modTile 5 (fun t => { t with rows := [] })).rowHolder 5 0 ≠ some (20, 0)
    ∧ (s.mapEnt (coreKey 6 0) 0).getLsbD 15 = false ∧ ((s.setEnt (coreKey 6 0) 0 0x8000).mapEnt (coreKey 6 0) 0).getLsbD 15 = true
    ∧ s.ctxs.all (fun q => q.2.wait == .give 1 0 0x8300 2 true) = true
    ∧ ((lab.modMe (fun c => { c with wait := .reclaim 1 0 3 21 })).ctx 1280).wait = .reclaim 1 0 3 21 := by decide +kernel

theorem witness_PhaseAndScrubEvents :
    let closing := (lab.modCrew 3 (fun c => { c with closing := some 0 }))
    let p : PLine := ⟨5, 0, 0, 1, 7⟩
    let applying := (lab.modCrew 3 (fun c => { c with closing := some 0, closeOn := true })).modCore 20 (fun c => { c with pbuf := [p] })
    (55 < 56 ∧ 56 ≤ 56 ∧ lab.keptCrew 0 = none) ∧ lab.tileAt 302 = none ∧ lab.tileAt 300 = some 5 ∧ (lab.useBankAs 6 5 0).isSome = true
    ∧ closing.captureFirst 3 0 = false ∧ (closing.crew 3).closing = some 0 ∧ (closing.crew 3).closeOn = false
    ∧ (∀ t ∈ closing.crewTiles 3, (closing.tile t).vcc = 0) ∧ closing.crewReplays 3 = false
    ∧ (applying.tile (tileOfCore 20)).crew = some 3 ∧ (applying.core 20).pbuf[0]? = some p ∧ (applying.crew 3).closeOn = true
    ∧ (applying.crew 3).redo = [] ∧ applying.linesHeld ⟨5, 0, 0⟩ 64 = false ∧ (applying.useBankAs 2 5 0).isSome = true
    ∧ (∀ c ∈ closing.crewCores 3, (closing.core c).pbuf = []) := by decide +kernel

/-- A read of far address 0 for a line buffer, and a write. -/
def readReq : FarReq := { id := 1, ctx := 1280, core := 20, crew := some 3, part := 1, va := 0x2000000000000000, kind := .read 1 0 0, uid := 1 }

def fullLeaf : Leaf := { ctx := 1, va := 0, size := 2 ^ 29, buffer := false, x := true, a := true, w := false, r := true, addr := 0x20000000 }

/-- A request at a gateway with no walk of its core under way: out of range, for a peer, not cached, cached without the right, and
cached. -/
theorem witness_GatewayEvents_translate :
    (withPkt mapped (.far readReq)).Arrives 0 (pkt (.far readReq)) mapped ∧ (mapped.gw (fieldOf 300)).walks = []
    ∧ mapped.reqVa { readReq with va := 0x2010000000000000 } = .error 0x02 ∧ mapped.reqVa { readReq with va := 0x6010000000000000 } = .ok none
    ∧ mapped.reqVa readReq = .ok (some 0) ∧ mapped.cachedLeaf 1 1 0 = none ∧ (mapped.installLeaf 1 fullLeaf).cachedLeaf 1 1 0 ≠ none
    ∧ fullLeaf.permits (reqAcc readReq.kind) (State.isWeight readReq) = 0
    ∧ ({ fullLeaf with r := false } : Leaf).permits (reqAcc readReq.kind) (State.isWeight readReq) ≠ 0
    ∧ (((mapped.installLeaf 1 fullLeaf).installLeaf 1 fullLeaf).forward 1 readReq fullLeaf 0).isSome = true :=
  ⟨pkt_arrives _ _ rfl (by decide +kernel) (by decide +kernel) (by decide +kernel), by decide +kernel, rfl, rfl, rfl, by decide +kernel, by decide +kernel,
    by decide +kernel, by decide +kernel, by decide +kernel⟩

/-- A walk at an entry outside memory, and at one that is a leaf, a table, reserved or not present, at levels 1 and 3. -/
theorem witness_GatewayEvents_walk :
    let s := mapped.setGw 1 { mapped.gw 1 with walks := [⟨readReq, 1, 0x1000⟩] }
    (s.gw 1).walks[0]? = some ⟨readReq, 1, 0x1000⟩ ∧ s.paOk 0x1000 = true ∧ s.paOk (0x30 * 2 ^ 40) = false
    ∧ pteOut 1 1 0 (s.readPte 0x1000) = .leaf fullLeaf ∧ pteOut 1 1 0 0 = .err 0x01 ∧ pteOut 1 3 0 0x4000000000000000 = .err 0x05
    ∧ pteOut 1 1 0 0x4000000000000100 = .table 0x100
    ∧ ((0x4000000000000100#64).extractLsb' 62 2 = 1 ∧ (0x4000000000000100#64).extractLsb' 48 14 = 0
        ∧ (0x4000000000000100#64).extractLsb' 0 8 = 0 ∧ ((0x4000000000000100#64).extractLsb' 40 8).toNat < 0x30) := by decide +kernel

theorem witness_GatewayEvents_park :
    let s := mapped.setGw 1 { mapped.gw 1 with park := [(255, readReq)] }
    (List.range 256).find? (fun e => (Tbl.find (mapped.gw 1).park e).isNone) = some 0 ∧ (0xFF#64).getLsbD 63 = false
    ∧ (0x80000000000000FF#64).getLsbD 63 = true ∧ Tbl.find (s.gw 1).park ((0x80000000000000FF#64).extractLsb' 0 8).toNat = some readReq
    ∧ s.reqRun readReq = none
    ∧ (mapped.ctx 1280).used = true ∧ ((mapped.modMe (fun c => { c with wait := .parkedBarw ⟨5, 0, 0⟩ })).ctx 1280).wait = .parkedBarw ⟨5, 0, 0⟩
    ∧ ((mapped.modMe (fun c => { c with wait := .parkedAmo })).ctx 1280).wait = .parkedAmo ∧ (∀ g ∈ mapped.gws, g.2.park = [])
    ∧ (let f := mapped.modMe (fun c => { c with wait := .fetch 0, parked := true })
      (f.ctx 1280).wait = .fetch 0 ∧ (f.ctx 1280).parked = true)
    ∧ (let g := mapped.setGw 1 { mapped.gw 1 with gwinv := 0x8100000000000000 }
      (g.gw 1).gwinv.getLsbD 63 = true ∧ g.inFlightOf 1 ((g.gw 1).gwinv.extractLsb' 56 4).toNat = false) := by decide +kernel

def writeReq : FarReq := { readReq with kind := .write [5] 0 }

/-- Home 0 with a buffer map of two copies in partition 1. -/
def homed : State :=
  let b : BufMap := ⟨0, 0, false, false, 0, 1, 3, 3, [0x40000, 0x50000, 0, 0], [0, 0, 0, 0]⟩
  let s := mapped.setGw (fieldOfHome 0) { mapped.gw (fieldOfHome 0) with tcbmb := [(1, 0x8000)] }
  (s.writePa 0x8000 (leBytes 8 b.word.toNat)).writePa 0x8008 (leBytes 8 0x40000 ++ leBytes 8 0x50000)

theorem witness_HomeEvents_writes :
    (withPkt homed (.home writeReq 0 0x60000 0)).Arrives 0 (pkt (.home writeReq 0 0x60000 0)) homed ∧ homed.chanHeld 0x60000 = false
    ∧ homed.waitsFor 0 1 1 = false ∧ (∃ r, homed.bufWrite 0 writeReq 1 0 [5] = some r) ∧ (homed.bufMap 0 1 0).wf = true
    ∧ ((homed.writePa 0x8004 [0x30]).bufMap 0 1 0).freeCopy = none ∧ ((homed.writePa 0x8004 [0x30]).bufWrite 0 writeReq 1 0 [5]).isNone = true
    ∧ State.hostOf writeReq = none
    ∧ (let w := homed.setHome 0 { homed.home 0 with waiting := [(writeReq, 1, 0)] }
      (w.home 0).waiting = [(writeReq, 1, 0)] ∧ (w.bufWrite 0 writeReq 1 0 [5]).isSome = true) :=
  ⟨pkt_arrives _ _ rfl (by decide +kernel) (by decide +kernel) (by decide +kernel), by decide +kernel, by decide +kernel,
    Option.isSome_iff_exists.mp (by decide +kernel), by decide +kernel, by decide +kernel, by decide +kernel, by decide +kernel,
    by decide +kernel⟩

theorem witness_HomeEvents_reads :
    homed.readAtHome 0 readReq 0 0x60000 1 = .ok 0x60000 ∧ homed.chanHeld 0x60000 = false ∧ readReq.crew = some 3
    ∧ 0x60000 / 64 ∉ (homed.home 0).media ∧ isSeq (.knot .rd (some 0)) = true ∧ isSeq (.amo .add .i64 1 0 false (some 0)) = true
    ∧ (([] : List (Nat × Nat)).find? (fun e => e.1 == seqOf (.knot .rd (some 0)))) = none ∧ (Tbl.get [] (homed.home 0).seen 20).length < 64
    ∧ (([(0, 9)] : List (Nat × Nat)).find? (fun e => e.1 == seqOf (.knot .rd (some 0)))) = some (0, 9)
    ∧ ((homed.home 0).rows.filter (fun e => e.1 == 0)).length ≤ 256
    ∧ Tbl.find ({ homed.home 0 with crews := [(3, (0, 0))] } : Home).crews 3 = some (0, 0) :=
  ⟨rfl, by decide +kernel⟩

theorem witness_MeshEvents_flits :
    let p : Pkt := { pkt (.ack 0) with dst := 302 }
    let s : State := { lab with net := [p] }
    s.net[0]? = some p ∧ p.dst ∉ (s.site p.pos).fence ∧ p.pos ≠ p.dst ∧ nextSite 300 (s.outPort 300 302) = some 301
    ∧ s.outPort 300 302 ∉ (s.site 300).down ∧ 302 ∈ ((s.fenceSite 302).site 301).fence
    ∧ (∀ i ∈ List.range 16, detourHit (Tbl.get 0 (s.site 300).detour i) 302 = false)
    ∧ detourHit 0x800000020101FF00 302 = true ∧ isSite 300 = true ∧ isSite 302 = true ∧ 300 ≠ 302 ∧ 1 ∉ (s.site 300).down := by
  decide +kernel

theorem witness_MeshEvents_landings :
    (withPkt lab (.route [(⟨5, 0, 64⟩, 7)] (some ⟨5, 0, 16⟩) 1 0 1)).Arrives 0 (pkt (.route [(⟨5, 0, 64⟩, 7)] (some ⟨5, 0, 16⟩) 1 0 1)) lab
    ∧ (withPkt lab (.mcast [(⟨5, 0, 64⟩, 7)] none 1 0)).Arrives 0 (pkt (.mcast [(⟨5, 0, 64⟩, 7)] none 1 0)) lab
    ∧ 1 ≤ 2 * lab.tileVc 5 + 1 ∧ lab.linesHeld ⟨5, 0, 64⟩ 1 = false ∧ lab.linesHeld ⟨5, 0, 16⟩ 16 = false ∧ (∃ w, lab.useBank 5 0 = some w) :=
  ⟨lab_arrives _, lab_arrives _, by decide +kernel, by decide +kernel, by decide +kernel, lab_useBank⟩

/-- A flood that still has a working router to reach: that of site 300; one over a device with none. -/
theorem witness_MeshEvents_flood :
    let s : State := { lab with floods := [⟨5, 0xFFFF, [], none⟩] }
    s.floods[0]? = some ⟨5, 0xFFFF, [], none⟩ ∧ isSite 301 = true ∧ 301 ∉ ([] : List Nat) ∧ s.routerWorks 300 = true
    ∧ 300 < 184 * 256 ∧ 300 ∉ [301] := by decide +kernel

/-- A flood over a device none of whose fields has power. -/
theorem witness_MeshEvents_flood_over (applied : List Nat) : ({} : State).floodOver ⟨5, 0, applied, none⟩ = true := by
  have off : ∀ r, ({} : State).siteUp r = false := fun _ => rfl
  have h : ∀ r, ({} : State).routerWorks r = false := fun r => by rw [State.routerWorks, off, Bool.and_false]
  rw [State.floodOver, List.all_eq_true]
  intro r _
  rw [h, Bool.not_false, Bool.true_or]

/-- The first message of a channel of tile 6 to inbox 15 of tile 5. -/
def hdrOf (len : Nat) (seq : BitVec 32) : MsgHdr :=
  { cls := 0, retx := false, ibx := 15, len, seq, stile := 6, score := 0, schan := 63, swaf := 0, dtile := 5, dwaf := 0, part := 1, val := 0, stask := 77 }

def entOf (exp : BitVec 32) : RecvEnt := { waf := 0, tile := 6, core := 0, chan := 63, task := 77, part := 1, ibx := 15, exp }

def receiving (tail : Nat) (exp : BitVec 32) : State := (inboxed tail 0 0).modTile 5 (fun t => { t with recv := [entOf exp] })

/-- The ways in which a message is dropped or turned away, and its two ends of the order. -/
theorem witness_MessageEvents_dropped :
    (withPkt lab (.msg (hdrOf 32 0) [] (hdrOf 32 0).hcrc)).Arrives 0 (pkt (.msg (hdrOf 32 0) [] (hdrOf 32 0).hcrc)) lab
    ∧ (hdrOf 32 0).dwaf = lab.sys.wnum.toNat ∧ ({ hdrOf 32 0 with dwaf := 255 } : MsgHdr).dwaf ≠ lab.sys.wnum.toNat
    ∧ (hdrOf 32 0).hcrc ≠ (hdrOf 32 0).hcrc + 1 ∧ lab.tileAt 300 = some 5 ∧ lab.tileAt 301 ≠ some 5
    ∧ (lab.tile 5).crew = some 3 ∧ (lab.crew 3).part = (hdrOf 32 0).part ∧ (lab.crew 3).part ≠ ({ hdrOf 32 0 with part := 2 } : MsgHdr).part
    ∧ ((lab.modTile 5 (fun t => { t with crew := none })).tile 5).crew = none
    ∧ ibxEn (lab.inbox 5 15) = false ∧ ibxEn ((inboxed 0 0 0).inbox 5 15) = true ∧ ibxSize ((inboxed 0 0 0).inbox 5 15) = 32 + 32
    ∧ ibxSize ((inboxed 0 0 0).inbox 5 15) < 32 + 33 ∧ lab.replaying 5 = false
    ∧ ((inboxed 0 0 0).tile 5).recv.find? (fun e => e.isFor (hdrOf 32 0)) = none
    ∧ ((receiving 0 5).tile 5).recv.find? (fun e => e.isFor (hdrOf 32 5)) = some (entOf 5)
    ∧ 2 ^ 31 ≤ ((4 : BitVec 32) - 5).toNat ∧ 2 ^ 31 ≤ (0x80000005#32 - 5).toNat
    ∧ (0 < ((6 : BitVec 32) - 5).toNat ∧ (0x80000004#32 - 5).toNat < 2 ^ 31) :=
  ⟨pkt_arrives _ _ rfl rfl rfl (by decide +kernel), by decide +kernel⟩

/-- A message that lands with room for its record, and one that finds the inbox full; a first message that makes its entry, and one
that finds 1024. -/
theorem witness_MessageEvents_landed :
    let go (s : State) : Bool :=
      let x := s.inbox 5 15
      let c := s.ibxCounts 5 x
      decide ((c.tail + 2 ^ 32 - c.head) % 2 ^ 32 ≠ ibxRing x) && decide (s.replaying 5 = false) && decide (s.ropeFill 5 + 16 + 0 ≤ 2 ^ 21)
      && !s.linesHeld (ibxEntry 5 x (c.tail % ibxRing x)) (32 + 32) && !s.linesHeld (ibxCtl 5 x) 16 && !s.fromOutside 3 (hdrOf 32 5)
    go (receiving 0 5) = true ∧ go (inboxed 0 0 0) = true
    ∧ (((receiving 4 5).ibxCounts 5 ((receiving 4 5).inbox 5 15)).tail + 2 ^ 32 - 0) % 2 ^ 32 = ibxRing ((receiving 4 5).inbox 5 15)
    ∧ ((inboxed 0 0 0).tile 5).recv.length < 1024
    ∧ 1024 ≤ (((inboxed 0 0 0).modTile 5 (fun t => { t with recv := List.replicate 1024 (entOf 0) })).tile 5).recv.length := by decide +kernel

/-- The sender's copy, which has been sent, waits, or waits for the tile to be bound to another site. -/
theorem witness_MessageEvents_sender :
    let r : Retx := ⟨hdrOf 32 5, [], none, 0, .sent, 0, 64⟩
    let s := lab.modTile 6 (fun t => { t with retx := [r] })
    (withPkt s (.msgAck (hdrOf 32 5))).Arrives 0 (pkt (.msgAck (hdrOf 32 5))) s
    ∧ (s.tile 6).retx.find? (fun r => r.hdr.same (hdrOf 32 5)) = some r
    ∧ (s.tile 6).retx.filter (fun q => q.hdr.sameChan r.hdr && !s.earlierQueued 6 q.hdr) = [r] ∧ (s.tile 6).retx[0]? = some r
    ∧ (s.tile 6).halted = false ∧ s.earlierQueued 6 r.hdr = false ∧ r.at_ + 65536 ≤ (s.modSite 301 (fun n => { n with ctr := 65536 })).rcOf 6
    ∧ 0 ≤ s.rcOf 6 ∧ s.boundAt (s.siteOf 6) 5 ≠ 0xFFFF :=
  ⟨pkt_arrives _ _ rfl rfl rfl (by decide +kernel), by decide +kernel⟩

/-- A light context from tile 6: for a site without a tile, for another crew, with a free slot, with none, and with no number. -/
theorem witness_HopEvents_arrival :
    (withPkt lab (.hop (hdrOf 688 4) labCtx false (hdrOf 688 4).hcrc)).Arrives 0 (pkt (.hop (hdrOf 688 4) labCtx false (hdrOf 688 4).hcrc)) lab
    ∧ (hdrOf 688 4).hcrc ≠ (hdrOf 688 4).hcrc + 1 ∧ lab.tileAt 300 = some 5 ∧ lab.tileAt 0 = none
    ∧ labCtx.crew = some 3 ∧ (lab.tile 5).crew = some 3 ∧ ({ labCtx with crew := some 4 } : Ctx).crew ≠ (lab.tile 5).crew ∧ lab.replaying 5 = false
    ∧ lab.hopCore 5 4 = 21 ∧ lab.hopCore 5 0 = 20 ∧ lab.hopPlace 21 false = some (some 0, 0)
    ∧ (let full := lab.modCore 20 (fun c => { c with slots := (List.range 16).map (fun i => (i, if i = 0 then 1 else i + 2)) })
      full.hopPlace 20 true = none ∧ (full.hopPlace 20 false).isSome = true) :=
  ⟨lab_arrives _, by decide +kernel⟩

theorem witness_HopEvents_reply :
    let s := lab.modMe (fun c => { c with wait := .hop 6 0 false true, crew := none })
    (withPkt s (.hopAck false (s.ctx 1280))).Arrives 0 (pkt (.hopAck false (s.ctx 1280))) s
    ∧ (s.ctx 1280).wait = .hop 6 0 false true ∧ (s.ctx 1280).uid = (s.ctx 1280).uid ∧ (s.ctx 1280).crew = none :=
  ⟨pkt_arrives _ _ rfl rfl rfl (by decide +kernel), by decide +kernel⟩

/-- A block with every field at a bound of its range. -/
def blk : Block := { cols := 1, rows := 1, slots := 16, flags := 1, belay := 16, units := 2 ^ 24, grain := 2 ^ 24, entry := 0x2000000000000000 }

theorem witness_TaskEvents_dispatch :
    let q (b : Block) : State := lab.setPart 1 { lab.part 1 with queue := [⟨78, b, 0⟩] }
    lab.quiesced = false ∧ (State.queueOrder ((q blk).part 1).queue).isEmpty = false ∧ (q blk).staleTask ((q blk).part 1).queue = none
    ∧ blk.fieldsOk = true ∧ { blk with slots := 1, belay := 28, grain := 1, nroutes := 256 }.fieldsOk = true ∧ { blk with slots := 17 }.fieldsOk = false
    ∧ 2 ^ 24 < { blk with units := 2 ^ 24 + 1 }.units ∧ blk.units ≠ 0 ∧ { blk with units := 0 }.fieldsOk = true
    ∧ lab.fits 1 { blk with cols := 65 } = [] ∧ lab.fits 1 { blk with cols := 64 } = [0]
    ∧ (match (q { blk with units := 0 }).considered 1 { blk with units := 0 } with | (.zero, _) => true | _ => false) = true
    ∧ (match (q { blk with slots := 0 }).considered 1 { blk with slots := 0 } with | (.refuse r, _) => r == 2 | _ => false) = true := by decide +kernel

/-- A partition whose first tile is bound, in a field that has joined, with an entry line whose first slot is a target. -/
def placing : State :=
  let s : State := { mapped with rebind := [(5, 300), (0x4005, 0x5005)], tiles := [], crews := [], fields := (mapped.fields ++ [(fieldOf 0x5005, { power := true, joined := true })]), parts := [(1, { base := 5, count := 1 })] }
  (s.writeLoc (setEntryLoc 5 0 0) (leBytes 8 0x2000000000000000 ++ leBytes 8 0xFFFFFFFF ++ leBytes 8 0x43)).writePa 0x20000000 (leBytes 64 (firstLine.toNat))

theorem witness_TaskEvents_place :
    (match placing.considered 1 blk with | (.place t0 l, _) => t0 == 5 && l.isEmpty | _ => false) = true := by decide +kernel

/-- A crew whose record and knot lie in a plain far page. -/
def ending (st : CrewPhase) (step : Nat) : State :=
  let s := mapped.setPart 1 { base := 5, count := 2 }
  s.modCrew 3 (fun w => { w with st, endStep := step, blk := { w.blk with record := 0x2000000000000040, knot := 0x2000000000000100 } })

theorem witness_TaskEvents_load_and_cut :
    ((lab.modCrew 3 (fun w => { w with st := .loading })).crew 3).st = .loading
    ∧ (let s := lab.modCrew 3 (fun w => { w with st := .launchCut });
      (s.crew 3).st = .launchCut ∧ (s.crew 3).cut = none ∧ s.allAt 3 (s.crew 3).tstart = true) := by decide +kernel

/-- The writes of an end, and an end whose task is over and quiet. -/
theorem witness_TaskEvents_end :
    ((ending .ended 2).crew 3).live = true ∧ ((ending .ended 2).crew 3).st = .ended ∧ ((ending .ended 2).crew 3).endStep = 2
    ∧ (∃ pa u, (ending .ended 2).endWrite 3 ((ending .ended 2).crew 3).blk.record 64 = .done pa u
        ∧ ∃ pk x, ((u.writePa pa (u.recordBytes 3)).modCrew 3 (fun w => { w with endStep := 3 })).endWrite 3
          ((ending .ended 2).crew 3).blk.knot 32 = .done pk x)
    ∧ ((ending .ending 0).crew 3).st = .ending
    ∧ (let s := ({ ending .running 1 with ctxs := [] } : State)
      s.taskOver 3 = true ∧ s.quiet 3 = true ∧ (s.crew 3).closing = none ∧ (s.crew 3).replayTo = none) :=
  ⟨by decide +kernel, by decide +kernel, by decide +kernel, ⟨_, _, rfl, _, _, rfl⟩, by decide +kernel, by decide +kernel⟩

/-- Held blocks, their bytes at hand or to be read, at an address that can be read and at one that cannot. -/
theorem witness_TaskEvents_held :
    let s (a : Word) := lab.setPart 1 { lab.part 1 with heldAddr := [(a, true, .far 0)] };
    ((lab.setPart 1 { lab.part 1 with held := [[]] }).part 1).held = [[]] ∧ (lab.part 1).queue.length < 1024
    ∧ ((s 0).part 1).held = [] ∧ ((s 0).part 1).heldAddr = [(0, true, .far 0)]
    ∧ ((s 0).readAny ((s 0).partField 1) 1 0 256).1 = none
    ∧ ((s 0x1000000500000100).readAny ((s 0).partField 1) 1 0x1000000500000100 256).1.isSome = true := by decide +kernel

/-- A crew with a cut under way at vc 0. -/
def cutting (c : Cut) : State :=
  (((lab.modCrew 3 (fun w => { w with cut := some c })).modSite 300 (fun n => { n with cutset := [0] })).modSite 301 (fun n => { n with cutCap := true }))

def aCut : Cut := { vc := 0 }

theorem witness_CutEvents :
    (let s := lab.modCrew 3 (fun w => { w with cuts := [0] });
      (s.crew 3).live = true ∧ (s.crew 3).st = .running ∧ (s.crew 3).cut = none ∧ s.checked 3 = false ∧ s.reachedCut 3 = some 0)
    ∧ ((cutting aCut).site 300).cutset = [0] ∧ ((cutting aCut).streamCut 5).isSome = true ∧ ((cutting aCut).streamCut 6).isSome = true
    ∧ ((cutting aCut).site 301).cutset = [] ∧ ((cutting aCut).site 301).cutCap = true ∧ ((cutting aCut).useBank 5 0).isSome = true
    ∧ (let s := (cutting aCut).modSite 300 (fun n => { n with cutset := [] });
      (s.site 300).cutset = [] ∧ (s.site 300).cutCap = false ∧ s.siteOf (s.partnerOf 5) ≠ 300)
    ∧ (cutting aCut).nextLine 5 = some 0 ∧ ((cutting aCut).site 300).streamAt ≤ 2 * ((cutting aCut).site 300).ctr + 1
    ∧ (let s := (cutting aCut).modSite 300 (fun n => { n with cutset := [0, 5], wanted := [5], streamAt := 9 });
      s.nextLine 5 = some 5 ∧ 2 * (s.site 300).ctr + 1 < (s.site 300).streamAt)
    ∧ (cutting aCut).publishMarked 3 0 = false ∧ ((cutting aCut).useBankAs 5 5 0).isSome = true
    ∧ (let c := { aCut with prepared := [5, 6] };
      ((cutting c).crew 3).cut = some c ∧ c.decided = false ∧ (cutting c).checked 3 = false ∧ (∀ t ∈ (cutting c).crewTiles 3, t ∈ c.prepared))
    ∧ (let c := { aCut with decided := true };
      ((cutting c).tile 5).crew = some 3 ∧ ((cutting c).crew 3).cut = some c ∧ c.decided = true ∧ 5 ∉ c.applied)
    ∧ (let s := lab.modTile 5 (fun t => { t with vcc := 2 ^ 48 - 1 })
      ∃ t ∈ s.crewTiles 3, nextRegular (s.crew 3) 0 ≤ (s.tile t).vcc) := by decide +kernel

/-- Version set 5, enabled: its slots free, one open, and all taken. -/
def versions (a b : VSlot) : State :=
  { lab with vsets := [(5, { en := true, newest := 0xFFFF, last := 0xFFFF, slots := [(0, a), (1, b), (2, b), (3, b)] })] }

theorem witness_VersionEvents_home :
    (withPkt lab (.version 5 3 .stage)).Arrives 0 (pkt (.version 5 3 .stage)) lab
    ∧ (lab.vset 5).en = false ∧ ((versions {} {}).vset 5).en = true
    ∧ (Tbl.get {} ((versions { st := 1 } {}).vset 5).slots 0).st = 1 ∧ (Tbl.get {} ((versions { st := 1 } {}).vset 5).slots 0).pnd = 0
    ∧ (∀ i, i < 4 → (Tbl.get {} ((versions { st := 2 } { st := 3 }).vset 5).slots i).st ≠ 0
        ∧ ¬((Tbl.get {} ((versions { st := 2 } { st := 3 }).vset 5).slots i).st = 1
          ∧ (Tbl.get {} ((versions { st := 2 } { st := 3 }).vset 5).slots i).pnd = 0))
    ∧ (let e := (versions { st := 1, pnd := 1 } {}).vset 5;
      (∀ i, i < 4 → ¬((Tbl.get {} e.slots i).st = 1 ∧ (Tbl.get {} e.slots i).pnd = 0)) ∧ (Tbl.get {} e.slots 1).st = 0
      ∧ (∀ j, j < 1 → (Tbl.get {} e.slots j).st ≠ 0)) :=
  ⟨lab_arrives _, by decide +kernel⟩

theorem witness_VersionEvents_answers :
    (let s := cutting aCut;
      (withPkt s (.answer 3 none (.candidate 0) 7 true)).Arrives 0 (pkt (.answer 3 none (.candidate 0) 7 true)) s
      ∧ (s.crew 3).live = true ∧ (s.crew 3).cut = some aCut ∧ aCut.vc = 0 ∧ aCut.cand = none)
    ∧ (let s := lab.modMe (fun c => { c with wait := .version 9 });
      (withPkt s (.answer 3 (some 1280) .stage 7 false)).Arrives 0 (pkt (.answer 3 (some 1280) .stage 7 false)) s
      ∧ ((s.refreshView 3).ctx 1280).wait = .version 9 ∧ (s.refreshView 3).replaying (tileOfCtx 1280) = false)
    ∧ (let s := (lab.modCrew 3 (fun w => { w with blk := { w.blk with vbind := 0x8005 }, dyn := { w.dyn with cand := some 9 } })).modTile 5
        (fun t => { t with adoptAt := some 0 });
      (s.tile 5).crew = some 3 ∧ (s.tile 5).adoptAt = some 0 ∧ dueCut (s.crew 3) (s.tile 5).vcc = false ∧ adoptable (s.crew 3) 0 = some 9
      ∧ (s.crew 3).boundSet = some 5) :=
  ⟨⟨pkt_arrives _ _ rfl rfl rfl (by decide +kernel), by decide +kernel⟩, ⟨pkt_arrives _ _ rfl rfl rfl (by decide +kernel), by decide +kernel⟩, by decide +kernel⟩

theorem witness_SpliceEvents_checks :
    (let s := lab.modTile 5 (fun t => { t with wd := 2 ^ 26 });
      (s.tile 5).crew = some 3 ∧ (s.crew 3).st = .running ∧ s.watchLimit 3 ≤ (s.tile 5).wd ∧ (s.crew 3).wdSeen = none)
    ∧ isSite 300 = true
    ∧ (let s (c : MCause) : State := { lab with checks := [(300, c)] };
      (300, .pipeline) ∈ (s .pipeline).checks ∧ (s .other).quiesced = false ∧ ((s .pipeline).site 300).perr = none
      ∧ (s .pipeline).tileAt 300 = some 5 ∧ ((s .pipeline).tile 5).crew = some 3 ∧ State.restorable ((s .pipeline).crew 3) = true
      ∧ MCause.other ≠ .arrayEcc ∧ MCause.other ≠ .pipeline ∧ ({ lab with sys := { lab.sys with qsc := 1 } } : State).quiesced = true)
    ∧ ((lab.modSite 300 (fun n => { n with perr := some 0, ctr := 2 ^ 40 })).site 300).perr = some 0
    ∧ 0 + 2 ^ 40 ≤ ((lab.modSite 300 (fun n => { n with perr := some 0, ctr := 2 ^ 40 })).site 300).ctr := by decide +kernel

/-- A failed site: one with no tile; that of tile 5 with no spare anywhere. -/
theorem witness_SpliceEvents_splice :
    let s : State := { lab with splices := [300, 301, 0], fields := [] }
    300 ∈ s.splices ∧ s.quiesced = false ∧ (s.fenceSite 0).tileAt 0 = none ∧ (s.fenceSite 300).tileAt 300 = some 5 ∧ isControlTile 5 = false
    ∧ ((s.fenceSite 300).tile 5).crew = some 3 ∧ State.restorable (((s.fenceSite 300).spliceRecords 300 [2]).crew 3) = true
    ∧ (((s.fenceSite 300).spliceRecords 300 [2]).tile 5).crew = some 3 := by decide +kernel

theorem foldl_some {α β : Type} (f : Option β → α → Option β) (h : ∀ b a, (f (some b) a).isSome = true) (l : List α) (b : β) :
    (l.foldl f (some b)).isSome = true := by
  induction l generalizing b with
  | nil => rfl
  | cons a l ih =>
    obtain ⟨c, hc⟩ := Option.isSome_iff_exists.mp (h b a)
    rw [List.foldl_cons, hc]
    exact ih c

/-- There is a spare to choose as soon as one stands outside the partner's field. -/
theorem exists_spare (s : State) (site partner n : Nat) (hn : n < 184 * 256) (h : s.isSpare n = true) (f : fieldOf n ≠ fieldOf partner) :
    (s.spareFor site partner).isSome = true := by
  have hm : n ∈ s.spares.filter (fun n => fieldOf n != fieldOf partner) := by
    rw [List.mem_filter, State.spares, List.mem_filter, List.mem_range]
    exact ⟨⟨hn, h⟩, bne_iff_ne.mpr f⟩
  unfold State.spareFor
  dsimp only
  cases hl : s.spares.filter (fun n => fieldOf n != fieldOf partner) with
  | nil => rw [hl] at hm; cases hm
  | cons a l =>
    rw [List.foldl_cons]
    exact foldl_some _ (fun b a => by dsimp only; split <;> rfl) l a

theorem witness_SpliceEvents_spare :
    let w := ({ lab with splices := [300] } : State).fenceSite 300;
    ((w.spareFor 300 (w.siteOf (w.partnerOf 5))).isSome = true)
    ∧ ({ lab with fields := [] } : State).spareFor 300 0x5005 = none := by
  refine ⟨exists_spare _ _ _ 302 (by decide) (by decide +kernel) (by decide +kernel), ?_⟩
  have off : ∀ r, ({ lab with fields := [] } : State).siteUp r = false := fun _ => rfl
  have none : ({ lab with fields := [] } : State).spares = [] := by
    rw [State.spares, List.filter_eq_nil_iff]
    intro r _
    simp only [State.isSpare, off, Bool.and_false, Bool.false_and, Bool.false_eq_true, not_false_iff]
  unfold State.spareFor
  rw [none]
  rfl

theorem witness_CrewEvents :
    (let s := lab.modCrew 3 (fun w => { w with replayTo := some 0 });
      (s.crew 3).replayTo = some 0 ∧ (s.crew 3).live = true ∧ (∀ t ∈ s.crewTiles 3, 0 ≤ (s.tile t).vcc))
    ∧ (let s := ((lab.modCrew 3 (fun w => { w with haltAt := some 0 })).modTile 5 (fun t => { t with halted := true })).modSite 301
        (fun n => { n with fenced := true });
      (s.crew 3).haltAt = some 0 ∧ (s.crew 3).live = true ∧ (s.crew 3).haltDone = false ∧ s.settled 3 = true
      ∧ ∀ t ∈ s.crewTiles 3, (s.site (s.siteOf t)).fenced = true ∨ (s.tile t).halted = true)
    ∧ (15 < 16 ∧ 0x7FFF + 1 ≤ 0x8000 ∧ 5 + 2 ≤ 0x8000) ∧ (∀ e ∈ lab.crews, 5 ≤ e.2.t0 ∧ e.2.t0 + e.2.blk.cols * e.2.blk.rows ≤ 5 + 2)
    ∧ (∀ p, p < 16 → p ≠ 1 → (lab.part p).base + (lab.part p).count ≤ 5)
    ∧ (let s : State := { lab with sys := { lab.sys with deepReq := some 1280 } };
      s.sys.deepReq = some 1280 ∧ s.deepReady = true ∧ s.sys.held = []) := by decide +kernel

theorem witness_CrewEvents_restore :
    let s : State := { lab with deep := some {}, crews := [], fields := [(anchorField, { power := true, joined := true })] }
    s.deep = some {} ∧ (∀ e ∈ s.crews, e.2.live = false) ∧ (s.field anchorField).joined = true := by decide +kernel

/-- Power, the ends of the staged start, and a field whose turn to join has come. -/
theorem witness_StartEvents :
    (lab.field 1).power = true ∧ (1 : Nat) ≠ anchorField ∧ (1#64).getLsbD 0 = true ∧ Tbl.wf {} lab.fields = true ∧ Tbl.wf {} lab.sites = true
    ∧ ({} : State).sys.stage = 0 ∧ (({} : State).field anchorField).power = false
    ∧ ((({} : State).setField anchorField { power := true }).field anchorField).power = true
    ∧ (({ sys := { stage := 1 } } : State).joinTurn anchorField = true)
    ∧ ({ sys := { stage := 2 }, fields := (List.range 64).filterMap (fun f => if f = 0 then none else some (f, { given := true })) } :
      State).joinTurn 0 = true := by decide +kernel

theorem witness_ServiceEvents :
    (lab.field 1).power = true ∧ (lab.field 1).throttled = false ∧ (lab.field 1).throttleAt = [] ∧ lab.strictCrews 1 = [3]
    ∧ (lab.modCrew 3 (fun w => { w with el := true })).strictCrews 1 = []
    ∧ (let s := lab.setField 1 { lab.field 1 with throttleAt := [(3, 0)] };
      (s.field 1).throttleAt ≠ [] ∧ (∀ x ∈ (s.field 1).throttleAt, ∀ t ∈ s.crewTiles x.1, x.2 ≤ (s.tile t).vcc))
    ∧ (lab.field 1).joined = true ∧ (63 < 64 ∧ lab.sys.deepReq = none ∧ 64 * 47 + 63 ∉ lab.sys.held)
    ∧ (let s : State := { lab with sys := { lab.sys with held := [64 * 47 + 63] } }; 64 * 47 + 63 ∈ s.sys.held)
    ∧ (isSite 300 = true ∧ (lab.site 300).testing = false ∧ lab.siteUp 300 = true ∧ lab.tileAt 302 = none ∧ lab.siteUp 302 = true)
    ∧ (let s : State := lab.modTile 5 (fun t => { t with crew := none });
      s.tileAt 300 = some 5 ∧ isControlTile 5 = false ∧ (s.tile 5).crew = none ∧ s.testRoom 5 = true ∧ (s.tile (s.partnerOf 5)).crew = none)
    ∧ ((lab.modSite 300 (fun n => { n with testing := true })).site 300).testing = true := by decide +kernel

/-- Folvibel port 31, up, with a route to wafer 255. -/
def folvibel : State :=
  { lab with sys := { lab.sys with fv := [(31, 0x80FF000100000000)], fvroute := [(255, 0x80000000)] } }

theorem witness_LinkEvents :
    (255 : BitVec 8) ≠ lab.sys.wnum ∧ lab.sys.fv.any (fun e => e.2.extractLsb' 48 8 == 255 && e.2.extractLsb' 32 16 != 1 && e.2 != 0) = false
    ∧ folvibel.sys.fv.any (fun e => e.2.extractLsb' 48 8 == 255 && e.2.extractLsb' 32 16 != 2 && e.2 != 0) = true
    ∧ folvibel.portUp 31 = true ∧ 31 ∈ folvibel.peerPorts 255 ∧ ({ folvibel with peers := [(255, readReq)] } : State).peers = [(255, readReq)] := by
  decide +kernel

/-- No other wafer is routed over port 31; with no routes, none is. -/
theorem witness_LinkEvents_routes :
    (∀ v, v < 256 → v ≠ 255 → 31 ∉ folvibel.peerPorts v)
    ∧ ∀ w, w < 256 → 31 ∉ ({ folvibel with sys := { folvibel.sys with fvroute := [] } } : State).peerPorts w := by
  constructor
  · intro v hv hne h
    have : Tbl.get 0 folvibel.sys.fvroute v = 0 := by
      have h' : ¬255 = v := fun e => hne e.symm
      simp [Tbl.get, Tbl.find, folvibel, h']
    have h := (List.mem_filter.mp h).2
    rw [this] at h
    exact absurd h (by decide)
  · intro w _
    simp [State.peerPorts, Tbl.get, Tbl.find]

/-- A launch of the host at each stage, quiesced or not, of a block that can be read and one that cannot, with the queue full or
not. -/
def hosting : State :=
  { mapped with sys := { mapped.sys with stage := 2 }, hosts := [(0, { busy := true, hlaunch := 0x2000000000000100, hfn := 0x11, apt := [(0, 0xE000000000000000), (1, 0x8000000000000000)] })] }

/-- The table and the leaf of partition 1 at the gateway of the anchor field, and a block with its knot and record. -/
def hostMapped (knot record : Nat) : State :=
  ((hosting.setGw anchorField { hosting.gw 1 with leaves := [fullLeaf] }).writePa 0x20000120 (leBytes 8 knot)).writePa 0x20000128
    (leBytes 8 record)

theorem witness_HostEvents_launch :
    (hosting.host 0).busy = true ∧ (hosting.host 1).busy = false ∧ hosting.hostWaits 0 = false ∧ (hosting.host 0).pubq = []
    ∧ 2 ≤ hosting.sys.stage.toNat ∧ hosting.sys.stage ≠ 0 ∧ hosting.quiesced = false
    ∧ (hosting.hostRead 0 (hosting.host 0).hlaunch 256).1.toOption = none
    ∧ ((hostMapped 0 0x2000000000000040).hostRead 0 0x2000000000000100 256).1.toOption.any (fun x => !blockPlaced (blockOf x)) = true
    ∧ ((hostMapped 0x2000000000000020 0x2000000000000040).hostRead 0 0x2000000000000100 256).1.toOption.any
        (fun x => blockPlaced (blockOf x) && !(hostMapped 0x2000000000000020 0x2000000000000040).queueFull 1) = true
    ∧ ((hostMapped 0x2000000000000020 0x2000000000000040).setPart 1 { held := [[]] }).queueFull 1 = true := by decide +kernel

theorem witness_HostEvents_apertures :
    (hosting.hostBytes 0 (2 ^ 31) 1).isNone = true
    ∧ (hosting.hostBytes 0 (2 ^ 30) 1).any (fun r => r.1.toOption.isNone) = true
    ∧ (hosting.hostBytes 0 0 4).any (fun r => r.1.toOption.isSome) = true
    ∧ (hosting.hostPlace 0 (2 ^ 31)).isNone = true ∧ ((hosting.hostPlace 0 (2 ^ 30)).isSome && !hosting.hostMayWrite 0 (2 ^ 30)) = true
    ∧ (match hosting.hostPlace 0 (2 ^ 30 - 64) with | some (.phys pa) => pa == 2 ^ 30 - 64 && hosting.rangeOk pa 64 | _ => false) = true
    ∧ hosting.hostMayWrite 0 (2 ^ 30 - 64) = true ∧ 4095 + 1 ≤ 4096 := by
  refine ⟨?_, ?_, ?_, ?_, ?_, ?_, ?_, by decide⟩ <;> decide +kernel

/-- A message for wafer 255 away from the port of its channel (R449). -/
theorem witness_MessageEvents_passed : folvibel.chanPort 255 6 63 = some 31 ∧ portSite 31 ≠ 300 := by decide +kernel

theorem witness_HostEvents_registers :
    spaceOf 0x5000000500000208 = 5 ∧ isPhysWindow 0x5000000500000208 = false ∧ (0x3FF8#64).toNat < 2 ^ 20 ∧ (0x028#64).toNat < 2 ^ 20 := by
  decide +kernel

/-- Windows on a context that runs and on one that is frozen; physical addresses in memory and outside it. -/
theorem witness_HostEvents_windows :
    let s := second .none
    let f := s.modCtx 1281 (fun c => { c with frz := true })
    (withPkt lab (.window 0x400000050000F000 0 0 false 8 1)).Arrives 0 (pkt (.window 0x400000050000F000 0 0 false 8 1)) lab
    ∧ spaceOf 0x400000050000F000 = 4 ∧ s.winRefused 0x400000050000F000 = true ∧ f.winRefused 0x400000050000F000 = false ∧ (f.ctx 1280).used = true
    ∧ spaceOf 0x5001000020000000 ≠ 4 ∧ isPhysWindow 0x5001000020000000 = true ∧ s.rangeOk (physOf 0x5001000020000000) 8 = true
    ∧ s.rangeOk (physOf 0x5001300000000000) 8 = false ∧ s.chanHeld (physOf 0x5001000020000000) = false :=
  ⟨lab_arrives _, by decide +kernel⟩

theorem witness_UpdateEvents_quiesce :
    (let pa := ((0x000000001FFFFFC1#64).extractLsb' 6 42).toNat * 64;
      (0x000000001FFFFFC1#64).getLsbD 0 = true ∧ paUnit pa < 0x30 ∧ lab.paOk pa = true)
    ∧ (0x40#64).getLsbD 0 = false
    ∧ (let s : State := { lab with sys := { lab.sys with qsc := 0x20000001 } };
      s.quiesced = true ∧ s.sys.qdone = false ∧ (∀ f, f < 4 → (s.host f).busy = false)
      ∧ s.rangeOk ((s.sys.qsc.extractLsb' 6 42).toNat * 64 + 64) [1, 2, 3].length = true)
    ∧ ((0x8000000000000000#64).getLsbD 63 = true ∧ (0x8000000000000000#64).getLsbD 62 = false ∧ lab.sys.rcvy = false)
    ∧ (0x4000000000000000#64).getLsbD 62 = true := by decide +kernel

/-- A handover structure with an empty body, of a layout version, at QBOOT.HPA. -/
def handing (layout : Nat) : State :=
  ({ lab with sys := { lab.sys with qboot := 0x20000000, upd := true, standbySites := [300] } } : State).writePa 0x20000000
    (leBytes 4 0x51484F56 ++ leBytes 2 layout)

theorem witness_UpdateEvents_heartbeat :
    (handing 3).handoverOk = true ∧ (handing 3).sys.upd = true ∧ 300 ∈ (handing 3).sys.standbySites
    ∧ (handing 3).sys.hbeat.getLsbD 63 = false ∧ (handing 2).handoverOk = false := by decide +kernel

/-- A trust block with an operation under way, one that waits for a commit, and one that has its outcome. -/
def trusted (op : BitVec 8) (a b : Word) : State := lab.modTrust (fun t => { t with op := some (op, a, b), pending := some (1, {}) })

theorem error_of {ε α : Type} {x : Except ε α} {e : ε} [DecidableEq ε] (h : (match x with | .error f => decide (f = e) | _ => false) = true) :
    x = .error e := by
  cases x <;> simp_all

theorem witness_UpdateEvents_trust :
    (0x8000000000000001#64 = 0x8000000000000000 ||| (1#8).setWidth 64 ∧ 0x8000000000000005#64 = 0x8000000000000000 ||| (5#8).setWidth 64
      ∧ lab.sys.trust.busy = false)
    ∧ (trusted 1 0x20000000 0).trustArgs 1 = some (0x20000000, 0) ∧ (trusted 1 0x20000000 0).verifyImage 0x20000000 = .error 1
    ∧ (trusted 1 0x30000000000000 0).verifyImage 0x30000000000000 = .error 5
    ∧ (trusted 2 0 2).trustArgs 2 = some (0, 2) ∧ 1 < (2#64).toNat ∧ (0#64).extractLsb' 0 1 = lab.sys.act ∧ (1#64).extractLsb' 0 1 ≠ lab.sys.act
    ∧ (trusted 3 0 1).trustArgs 3 = some (0, 1) ∧ (1#64).toNat ≤ 1 ∧ (trusted 3 0 1).sys.trust.pending = some (1, {})
    ∧ (0#64).extractLsb' 0 1 ≠ (1#1) ∧ (1#64).extractLsb' 0 1 = (1#1) ∧ (trusted 4 0 0).trustArgs 4 = some (0, 0)
    ∧ (trusted 5 0x20000000 4).trustArgs 5 = some (0x20000000, 4) ∧ (trusted 5 0x20000000 4).rangeOk 0x20000000 4 = true
    ∧ (lab.trustOut 6 0).sys.trust.out = some (6, 0) ∧ lab.sys.stage ≠ 0 := by
  exact ⟨by decide, by decide +kernel, error_of (by decide +kernel), error_of (by decide +kernel), by decide +kernel⟩

/-- SHA-256 of the empty text and of "abc", from its standard (R453). -/
theorem test_sha256 :
    sha256 [] = 0xe3b0c44298fc1c149afbf4c8996fb92427ae41e4649b934ca495991b7852b855
    ∧ sha256 [0x61, 0x62, 0x63] = 0xba7816bf8f01cfea414140de5dae2223b00361a396177a9cb410ff61f20015ad := by decide +kernel

/-! More clauses: each hypothesis of a statement at a state that meets it. -/

/-- Tile 6 with the reservation queue of the word at bank 1, offset 0, which map entry 1 of core 20 names. -/
def queuedAway (q : List Nat) : State := lab.modTile 6 (fun t => { t with resv := [⟨1, 0, q⟩] })

theorem witness_Atomics_more :
    lab.answered? = none ∧ (replied lab).answered? = some 7 ∧ lab.farRoom 0x2000000000000000 = .ok () ∧ lab.isDirect 0x20000 = false
    ∧ lab.vaultEA ⟨1, 0, 0x20000⟩ 8 [1, 2] 4 false = .ok (0x20000, ⟨6, 1, 0⟩)
    ∧ lab.vaultEA ⟨1, 0, 0x20000⟩ 8 [1, 2] 5 true = .ok (0x20000, ⟨6, 1, 0⟩) ∧ (queuedAway [1280]).holds ⟨6, 1, 0⟩ 1280 = true :=
  ⟨by decide +kernel, by decide +kernel, ok_of (by decide +kernel), by decide +kernel, ok_of (by decide +kernel), ok_of (by decide +kernel),
    by decide +kernel⟩

theorem witness_Transfers_checks : coded.held coded.myCore 0x200000000000000C = some (sealLine nopLine) ∧ parityOk (sealLine nopLine) = true
    ∧ parityOk (sealLine (nopLine &&& ~~~(1#512 <<< 481))) = true ∧ (0x6000000000000000#64).toNat / 2 ^ 52 ≠ 0x200 := by decide +kernel

theorem witness_MessagesAndRoutes_more :
    let s := (withX sending 6 0x10040).modTile 5 (fun t => { t with routes := [(1, 0x8000000600070000)] })
    let r := withX (withX (atLevel lab 2) 1 0x70005) 2 0x8000000600070000
    let d := withX (withX (atLevel lab 2) 1 0xF012C) 2 0x8000000000000001
    s.tileNamed (((s.route 5 1).extractLsb' 32 16).setWidth 64) = true ∧ (s.readX 5).toNat % 64 = 0 ∧ s.startOf false 0 = .ok none
    ∧ (∃ src, s.sourceRange (s.readX 5) 8 = .ok src)
    ∧ (r.readX 1).extractLsb' 24 40 = 0 ∧ (r.readX 1).toNat % 2 ^ 16 < 0x8000 ∧ (r.readX 2).extractLsb' 48 14 = 0
    ∧ r.tileNamed (((r.readX 1).extractLsb' 0 16).setWidth 64) = true ∧ r.tileNamed (((r.readX 2).extractLsb' 32 16).setWidth 64) = true
    ∧ (d.readX 1).extractLsb' 20 44 = 0 ∧ isSite ((d.readX 1).toNat % 2 ^ 16) = true ∧ (d.readX 2).extractLsb' 34 29 = 0 :=
  ⟨by decide +kernel, by decide +kernel, rfl, (exists_ok (fun _ => true) (by decide +kernel)).imp fun _ h => h.1, by decide +kernel⟩

theorem witness_InboxesChannelsHop_more :
    let x := (inboxed 1 0 0).inbox 5 15
    (inboxed 1 0 0).BankFree (ibxCtl 5 x).bank ∧ isReservedTile (0x0001800000000006#64 |>.extractLsb' 0 16).toNat = false
    ∧ (let w := lab.modMe (fun c => { c with wait := .hop 6 0 false false }); (w.ctx 1280).wait = .hop 6 0 false false ∧ w.drainIds 1280 = []) :=
  ⟨⟨by decide +kernel, by decide, by decide +kernel⟩, by decide +kernel, by decide +kernel⟩

/-- Tile 5 in a replay whose log holds these records. -/
def replay (l : List LogEv) : State := lab.modCrew 3 (fun c => { c with replayTo := some 100, redo := l.map (fun e => { vc := 0, tile := 5, ev := e }) })

/-- A replay with a logged YIELD, and with no record of one; with a logged launch. -/
theorem witness_ContextsOfACore_replay :
    let y := replay [.swap 20 0 (some 1281) .yield]
    lab.view.crew ≠ none ∧ lab.replaying 5 = false ∧ y.replaying y.cur.tile = true ∧ y.view.crew ≠ none
    ∧ (y.swapRecord 20 (fun j how => j == 0 && how == .yield)).isSome = true
    ∧ (replay []).swapRecord 20 (fun j how => j == 0 && how == .yield) = none ∧ (replay []).replaying 5 = true
    ∧ (replay [.launch 1280 7]).launchRecord 1280 = some (0, 7) ∧ lab.launchRecord 1280 = none := by decide +kernel

theorem witness_Knots_more :
    let b := withX coded 4 32
    b.knotEA ⟨2, 4, 0⟩ = .ok (.vault ⟨5, 0, 32⟩) ∧ b.targetCheck (b.slotAddr + (12#32).signExtend 64) = .ok () ∧ b.cur.slot = 0
    ∧ b.view.crew ≠ none ∧ b.me.asked = none ∧ b.drainIds 1280 = [] ∧ (b.addOut 1280 (.vault 5 0 true) 1).2.drainIds 1280 ≠ [] :=
  ⟨ok_of (by decide +kernel), ok_of (by decide +kernel), rfl, by decide +kernel, by decide +kernel, by decide +kernel, by decide +kernel⟩

theorem witness_VersionsAndSample_weights :
    let te : TsEnt := { base := 0x40, w1 := 0x000100000000000A, dims := 15 }
    (List.range (4 * (te.dim 0 + 1))).all (fun i => (tensors.resolve (te.addr (0, 0, 0) i) false).toOption.isSome) = true := by decide +kernel

/-- A tile whose rc is over: all four cores have had their turn and its vc has passed. -/
theorem witness_CoreEvents_rc :
    let s := (withTurns lab).modTile 5 (fun t => { t with vccAt := some 0 })
    s.rcOver 300 = true ∧ s.rcOver 0 = true ∧ lab.turnsOver 5 = false ∧ (withTurns lab).turnsOver 5 = true ∧ (withTurns lab).slacks 5 = false
    ∧ (withTurns lab).vcWork 5 = false ∧ ((withTurns lab).tile 5).vccAt ≠ some ((withTurns lab).rcOf 5)
    ∧ (let f := lab.modMe (fun c => { c with wait := .fetch (lineOf 0x2000000000000000) })
      (match f.readFar (f.gwOf 5) (f.partOf 1280) (f.ctx 1280).crew (lineOf 0x2000000000000000) 64 .fetch with
        | (.error e, u) => e != 0x01 && (u.ctx 1280).wait == .fetch (lineOf 0x2000000000000000)
        | _ => false) = true) := by decide +kernel

/-- A due command at a tile that nothing holds; the outcomes of an error, of a push to a side with no neighbour, and of MMAT with the engine
free and busy. -/
theorem witness_EngineEvents_due :
    atStop 0 (lab.crew 3).closing = false ∧ lab.mayClose 3 0 = false
    ∧ (let bad := lab.writeLoc ⟨5, 0, 0x100⟩ (Barrier.bytes { (Barrier.ofBytes []) with ph := true, tag := 1, exp := 1, pend := 1, err := 9 })
      (match bad.timedOut 20 (timedCopy 0x100000000) with | .err code _ => code == 9 | _ => false) = true)
    ∧ (match lab.timedOut 20 { timed with kind := .lnpush .w (some false) 0 } with | .format => true | _ => false) = true
    ∧ (let m : Cmd := { timed with kind := .mmat 9 }
      let r := lab.modCore 20 (fun c => { c with mrun := some op })
      lab.firstTag 5 m (timedSources m (lab.core 20).mtq) = none ∧ (lab.core 20).mrun = none ∧ (r.core 20).mrun ≠ none
      ∧ r.firstTag 5 m (timedSources m (r.core 20).mtq) = none) := by decide +kernel

/-- An exact COPY with a line to move, before and in its router cycle; a run that failed, one that is over, one with a line to land, and
one with a move to issue. -/
theorem witness_EngineEvents_moves :
    let x : Run := { aRun with cmd := timedCopy 0 }
    let e := lab.modCore 20 (fun c => { c with runs := [x] })
    let late := e.modTile 5 (fun t => { t with vcc := 9 })
    x.cmd.exact = true ∧ State.exactLeft x = true
    ∧ 2 * (e.tile 5).vcc + 2 ≤ 2 * ({ timedCopy 0 with start := some 9 } : Cmd).start.getD 0 + x.made
    ∧ 2 * x.cmd.start.getD 0 + x.made < 2 * (late.tile 5).vcc + (if late.slacks 5 = true then 0 else 2)
    ∧ late.dstHeld (x.bufs.flatMap LineBuf.dst) = false ∧ (∀ d ∈ late.pendingWrites 20 x 0, d ∉ x.bufs.flatMap LineBuf.dst)
    ∧ (((late.exactMove 20 x).core 20).runs[0]?).isSome = true
    ∧ (let f : Run := { aRun with fail := some (3, 9), moves := [] }
      f.fail = some (3, 9) ∧ f.moves = [] ∧ f.bufs = [] ∧ f.acks = [])
    ∧ (let b : LineBuf := { id := 4, n := 1, data := [some 1], dst := [.vault ⟨5, 0, 0⟩] }
      let r : Run := { aRun with moves := [], bufs := [b] }
      let s := lab.modCore 20 (fun c => { c with runs := [r] })
      s.landable 20 r = some b ∧ s.dstHeld b.dst = false ∧ (s.useLines 5 (State.vaultBanks b.dst)).isSome = true
      ∧ s.lineRoom 5 = true ∧ (s.modSite 300 (fun n => { n with moved := 8 * n.ctr + 8 })).lineRoom 5 = false)
    ∧ (lab.useLines 5 (State.vaultBanks [.const 1])).isSome = true ∧ lab.orderTurn 1280 ⟨5, 0, 16⟩ = true
    ∧ (crewless.ctx 1280).crew = none := by decide +kernel

/-- A line fetched in a free cycle; a word that crosses the mesh. -/
theorem witness_MatrixAndLinkEvents_more :
    let r := lab.modCore 20 (fun c => { c with mrun := some op })
    let f : Flight := ⟨false, 0, 5, true⟩
    let p : Pkt := { pkt (.link 5 false) with stream := State.streamOf 3 21 }
    let s : State := { lab.modCore 21 (fun c => { c with fly := [f] }) with net := [p] }
    (r.cycleOf 5 5 0 (decide (2 * 0 < op.g))).isSome = true ∧ r.cycleOf 3 5 0 true = some 0
    ∧ f.mesh = true ∧ p ∈ s.net ∧ p.pos = p.dst ∧ p.body = .link f.word f.east ∧ f.due ≤ s.rcOf 5 := by decide +kernel

/-- A queue of reservations for each answer to LRW; banks free in both cycles, in the second, and in none; what waits for its turn. -/
theorem witness_VaultEvents_banks :
    let w (q : List Nat) : State := (queued q).modMe (fun c => { c with wait := .lrw ⟨5, 0, 8⟩ 1 0 })
    let use (l : List Nat) : State := lab.modTile 5 (fun i => { i with bankUse := l })
    (∀ q ∈ [[], [9], [9, 10, 11, 12, 13, 14, 15, 16]], (w q).orderTurn 1280 ⟨5, 0, 8⟩ = true)
    ∧ (w []).lrwOut ⟨5, 0, 8⟩ 1280 = .joined true ∧ (w [9]).lrwOut ⟨5, 0, 8⟩ 1280 = .joined false
    ∧ (w [9, 10, 11, 12, 13, 14, 15, 16]).lrwOut ⟨5, 0, 8⟩ 1280 = .full
    ∧ lab.closeLinesAt 5 0 = 0 ∧ lab.firstFree 5 0 = true ∧ (use [128]).firstFree 5 0 = false ∧ (use [128]).secondFree 5 0 = true
    ∧ (use [0, 128]).firstFree 5 0 = false ∧ (use [0, 128]).secondFree 5 0 = false
    ∧ (let c := (lab.modCrew 3 (fun c => { c with closing := some 0, closeOn := true })).modCore 20 (fun c => { c with pbuf := [⟨5, 0, 0, 1, 7⟩] })
      0 < c.closeLinesAt 5 0)
    ∧ (lab.modMe (fun c => { c with asked := some (.knotRd 1) })).knotHeld 1280 7 = false ∧ lab.wakeAhead 1280 = false := by decide +kernel

/-- A request that leaves by its Folvibel port, one for a wafer that is reached, and a parked request that is posted. -/
theorem witness_GatewayEvents_more :
    ({ readReq with port := some 3 } : FarReq).port = some 3 ∧ (mapped.toPeer 1 { readReq with va := 0x6010000000000000 }).isSome = true
    ∧ (let p := mapped.setGw 1 { mapped.gw 1 with park := [(255, readReq)], posted := [255] }
      readReq.bar = none ∧ (p.reqVa readReq).toOption = some (some 0) ∧ Tbl.find (p.gw 1).park 255 = some readReq ∧ 255 ∈ (p.gw 1).posted)
    ∧ State.gwHit 0x8100000000000000 fullLeaf = true ∧ State.gwHit 0x8100000000000000 { fullLeaf with ctx := 2 } = false
    ∧ mapped.wakeAhead 1280 = false := by decide +kernel

/-- A publish with its page in range and one above it; an uncorrectable line met again in a replay, and by a context of no crew. -/
theorem witness_HomeEvents_more :
    (homed.bufMap 0 1 0).admits 0 = 0 ∧ (homed.bufMap 0 1 0).admits 2 ≠ 0 ∧ homed.waitsFor 0 1 1 = false
    ∧ (let m := (homed.setHome 0 { homed.home 0 with media := [0x60000 / 64] }).modCrew 3 (fun c => { c with replayTo := some 9 })
      0x60000 / 64 ∈ (m.home 0).media ∧ m.replaying (tileOfCore readReq.core) = true)
    ∧ ({ readReq with crew := none } : FarReq).crew = none
    ∧ homed.readAtHome 0 { readReq with crew := none } 0 0x60000 1 = .ok 0x60000 :=
  ⟨by decide +kernel, by decide +kernel, by decide +kernel, by decide +kernel, rfl, rfl⟩

/-- A flit at a hole, one that comes home by a detour, a link that is taken; replicas of two lines and of one; a late flit. -/
theorem witness_MeshEvents_more :
    let p : Pkt := { pkt (.ack 0) with dst := 302 }
    let s : State := { lab with net := [p] }
    let taken := s.modSite 300 (fun n => { n with outLow := (List.range 4).map (fun i => (i, 1000)), out3 := (List.range 4).map (fun i => (i, 1000)) })
    ((s.modSite 300 (fun n => { n with hole := true })).site 300).hole = true ∧ lab.outPort 300 300 = 4
    ∧ ({ pkt (.ack 0) with back := some 305 } : Pkt).back = some 305 ∧ (s.site 301).hole = false
    ∧ s.mayCross p (s.outPort 300 302) = true ∧ taken.mayCross p (taken.outPort 300 302) = false
    ∧ (let e : Pkt := { pkt (.ack 0) with dst := 302, inj := false }
      let w : State := { lab with net := [e] }
      w.mayInject e = true ∧ (w.modSite 300 (fun n => { n with outLow := [(4, 9)] })).mayInject e = false)
    ∧ (let mc : List (Loc × Byte) := [(⟨5, 0, 60⟩, 7), (⟨5, 0, 64⟩, 8)]
      mc.drop (mc.takeWhile (fun x => x.1.off / 64 == 60 / 64)).length ≠ []
      ∧ [((⟨5, 0, 60⟩ : Loc), (7 : Byte))].drop ([((⟨5, 0, 60⟩ : Loc), (7 : Byte))].takeWhile (fun x => x.1.off / 64 == 60 / 64)).length = [])
    ∧ ((withPkt lab (.mcast [(⟨5, 0, 60⟩, 7), (⟨5, 0, 64⟩, 8)] none 1 9)).useBank 5 0).isSome = true
    ∧ lab.orderTurn 1280 ⟨5, 0, 64⟩ = true ∧ (0 : Nat) < 2 * (lab.modTile 5 (fun t => { t with vcc := 3 })).tileVc 5 := by decide +kernel

/-- A message whose first line is to land, and one whose lines have landed. -/
theorem witness_MessageEvents_lines :
    let r := receiving 0 5
    let h := hdrOf 32 5
    let x := r.inbox 5 15
    r.msgWaits 5 3 h = false ∧ 64 * 0 < (h.bytes ++ ([] : List Byte)).length ∧ (h.bytes ++ ([] : List Byte)).length ≤ 64 * 1
    ∧ r.linesHeld (ibxEntry 5 x 0) 16 = false ∧ r.linesHeld (ibxCtl 5 x) 16 = false ∧ (r.useBank 5 (ibxEntry 5 x 0).bank).isSome = true
    ∧ ((withPkt r (.msg h [] h.hcrc)).useBank 5 (ibxEntry 5 x 0).bank).isSome = true := by decide +kernel

/-- Each state of a copy that is to be sent again. -/
theorem witness_MessageEvents_resend :
    let r (st : SendState) : Retx := ⟨hdrOf 32 5, [], none, 0, st, 0, 64⟩
    let s (st : SendState) : State := lab.modTile 6 (fun t => { t with retx := [r st] })
    let f := { s (.fenced 300) with rebind := [(5, 302), (6, 301), (0x4005, 0x5005), (0x4006, 0x5006)] }
    (∀ st ∈ [.sent, .delay 0 64, .fenced 300], ((s st).tile 6).retx[0]? = some (r st) ∧ (s st).earlierHeld 6 (hdrOf 32 5) = false)
    ∧ f.boundAt (f.siteOf 6) 5 ≠ 300 := by decide +kernel

/-- A wafer that is lost, all its ports or one; the lines of a task's image. -/
theorem witness_LinkEvents_lost : ({ readReq with port := some 31 } : FarReq).port = some 31 := rfl

theorem witness_TaskEvents_image : (47 : Nat) < 48 ∧ 131071 < 2 ^ 17 := by decide

/-- The manual's worked element 0 of a dropout mask: layer 5, seed 0x5_0000_0000, threshold 0xE000_0000 (R472, R473). -/
theorem test_dropout_mask :
    kmix 0x0000000500000000 0x0000000500000000 = 0x7972468E ∧ dropKeep 5 0 0x500000000 0xE0000000 = true
    ∧ dropKeep 5 0 0x500000000 0x70000000 = false ∧ (dropByte 5 0x500000000 0xE0000000 0).getLsbD 0 = true := by decide +kernel

/-- Records of one router cycle stand in site order, those of another behind them (R466). -/
theorem test_black_box_order :
    let r (time : BitVec 64) (site : Nat) : ErrRec := ⟨time, 0, 0, site, 0, 0, 0, 0, 0, 0⟩
    let box := State.boxPut 4095 (State.boxPut 4095 (State.boxPut 4095 [] 0 (r 1 9)) 1 (r 2 7)) 2 (r 2 3)
    box.map (fun e => (e.1, e.2.site)) = [(0, 9), (1, 3), (2, 7)] := by decide +kernel

end Sys2Proof.Tests
end

section
/-! The frame of the scalar and vector families: what each writer of a register changes, and what an instruction of format class 0
or 1 leaves as it was (R8, R40, R48). -/

namespace Sys2Proof.Machine

namespace State

variable {s t u : State} {k : Nat}

@[simp] theorem me_modMe (f : Ctx → Ctx) : (s.modMe f).me = f s.me := ctx_modCtx s s.myCtx f

theorem ctx_of_ctxs (h : t.ctxs = s.ctxs) (k : Nat) : t.ctx k = s.ctx k := by
  rw [ctx, ctx, h]

/-- Shared registers, links, packets and what the group in issue gathers may differ; the rest of what a register instruction could
reach does not. -/
structure SameRegs (s t : State) : Prop where
  my : t.myCtx = s.myCtx
  mem : t.mem = s.mem
  ctxs : t.ctxs = s.ctxs
  tiles : t.tiles = s.tiles
  crews : t.crews = s.crews
  sys : t.sys = s.sys

theorem SameRegs.refl : SameRegs s s := ⟨rfl, rfl, rfl, rfl, rfl, rfl⟩

theorem SameRegs.trans (h : SameRegs s t) (h' : SameRegs t u) : SameRegs s u :=
  ⟨h'.my.trans h.my, h'.mem.trans h.mem, h'.ctxs.trans h.ctxs, h'.tiles.trans h.tiles, h'.crews.trans h.crews, h'.sys.trans h.sys⟩

theorem SameRegs.ite {c : Prop} [Decidable c] (ht : SameRegs s t) (hu : SameRegs s u) : SameRegs s (if c then t else u) := by
  split <;> assumption

theorem modCore_sameRegs (f : Core → Core) : SameRegs s (s.modCore k f) := ⟨rfl, rfl, rfl, rfl, rfl, rfl⟩

theorem send_sameRegs (a b c d e : Nat) (x : Body) : SameRegs s (s.send a b c d e x) := ⟨rfl, rfl, rfl, rfl, rfl, rfl⟩

theorem raiseFlags_sameRegs (f : BitVec 5) : SameRegs s (s.raiseFlags f) := ⟨rfl, rfl, rfl, rfl, rfl, rfl⟩

theorem pushWord_sameRegs (core : Nat) (east : Bool) (w : Vec) : SameRegs s (s.pushWord core east w) := by
  simp only [pushWord]
  split
  · exact .refl
  · exact .ite (modCore_sameRegs _) ((modCore_sameRegs _).trans (send_sameRegs ..))

end State

/-- An effect sends no request of its own to wait for, and what it leaves, if it is not stopped, satisfies `P`. -/
def Keeps {α : Type} (P : α → Prop) (r : Except Stop α) : Prop :=
  match r with
  | .ok a => P a
  | .error (.again _) => False
  | .error _ => True

section
variable {α β : Type} {P : α → Prop} {Q : β → Prop}

theorem Keeps.of_ok {r : Except Stop α} {a : α} (h : Keeps P r) (hr : r = .ok a) : P a := by subst hr; exact h

theorem Keeps.imp {r : Except Stop α} {P' : α → Prop} (h : Keeps P r) (hp : ∀ a, P a → P' a) : Keeps P' r := by
  match r with
  | .ok a => exact hp a h
  | .error (.again _) => exact h
  | .error (.trap ..) | .error (.note ..) | .error .refuse | .error (.held _) | .error (.sleep _) => trivial

theorem Keeps.bind {r : Except Stop α} {f : α → Except Stop β} (h : Keeps P r) (hf : ∀ a, P a → Keeps Q (f a)) :
    Keeps Q (r >>= f) := by
  match r with
  | .ok a => exact hf a h
  | .error (.again _) => exact h.elim
  | .error (.trap ..) | .error (.note ..) | .error .refuse | .error (.held _) | .error (.sleep _) => trivial

theorem Keeps.ok {a : α} (h : P a) : Keeps P (.ok a) := h

theorem Keeps.ite {c : Prop} [Decidable c] {a b : Except Stop α} (ha : Keeps P a) (hb : Keeps P b) : Keeps P (if c then a else b) := by
  split <;> assumption

theorem check_keeps (ok : Bool) (c : BitVec 8) (a : Word) : Keeps (fun _ => True) (check ok c a) := by cases ok <;> trivial

end

namespace State

variable {s t u : State}

theorem checkPush_keeps (core : Nat) (east : Bool) : Keeps (fun _ => True) (s.checkPush core east) := by
  refine (check_keeps ..).bind fun _ _ => ?_
  split <;> trivial

theorem popWord_keeps (core : Nat) (east : Bool) : Keeps (fun r => SameRegs s r.2) (s.popWord core east) := by
  refine (check_keeps ..).bind fun _ _ => (check_keeps ..).bind fun _ _ => ?_
  split
  · trivial
  · refine .ite (.ok ?_) (.ite trivial (.ok ((modCore_sameRegs _).trans (pushWord_sameRegs ..))))
    dsimp only
    exact modCore_sameRegs _

theorem readV_keeps (r : BitVec 6) : Keeps (fun q => SameRegs s q.2) (s.readV r) := by
  simp only [readV]
  split
  · exact SameRegs.refl
  · split
    · exact SameRegs.refl
    · exact popWord_keeps ..

end State

/-- Of two states of a thread's registers only the registers listed, by kind and number, differ (R8, R48). -/
structure CtxFrame (ds : List (Nat × Nat)) (c d : Ctx) : Prop where
  x : ∀ n, (0, n) ∉ ds → Tbl.get 0 d.x n = Tbl.get 0 c.x n
  v : ∀ n, (1, n) ∉ ds → Tbl.get 0 d.v n = Tbl.get 0 c.v n
  p : ∀ n, n < 8 → (2, n) ∉ ds → d.p.getLsbD n = c.p.getLsbD n
  m : ∀ n, (3, n) ∉ ds → Tbl.get 0 d.m n = Tbl.get 0 c.m n
  fst : d.fst = c.fst
  mxc : d.mxc = c.mxc
  lvl : d.lvl = c.lvl
  s : d.s = c.s
  sg : d.sg = c.sg

theorem CtxFrame.refl {ds : List (Nat × Nat)} {c : Ctx} : CtxFrame ds c c :=
  ⟨fun _ _ => rfl, fun _ _ => rfl, fun _ _ _ => rfl, fun _ _ => rfl, rfl, rfl, rfl, rfl, rfl⟩

theorem CtxFrame.trans {ds : List (Nat × Nat)} {c d e : Ctx} (h : CtxFrame ds c d) (h' : CtxFrame ds d e) : CtxFrame ds c e where
  x n hn := (h'.x n hn).trans (h.x n hn)
  v n hn := (h'.v n hn).trans (h.v n hn)
  p n hn hm := (h'.p n hn hm).trans (h.p n hn hm)
  m n hn := (h'.m n hn).trans (h.m n hn)
  fst := h'.fst.trans h.fst
  mxc := h'.mxc.trans h.mxc
  lvl := h'.lvl.trans h.lvl
  s := h'.s.trans h.s
  sg := h'.sg.trans h.sg

/-- What an instruction that writes the listed registers leaves as it was. -/
structure RegFrame (ds : List (Nat × Nat)) (s t : State) : Prop where
  my : t.myCtx = s.myCtx
  mem : t.mem = s.mem
  others : ∀ k, k ≠ s.myCtx → t.ctx k = s.ctx k
  tiles : t.tiles = s.tiles
  crews : t.crews = s.crews
  sys : t.sys = s.sys
  regs : CtxFrame ds s.me t.me

section
variable {ds : List (Nat × Nat)} {s t u : State}

theorem RegFrame.trans (h : RegFrame ds s t) (h' : RegFrame ds t u) : RegFrame ds s u where
  my := h'.my.trans h.my
  mem := h'.mem.trans h.mem
  others k hk := (h'.others k (h.my ▸ hk)).trans (h.others k hk)
  tiles := h'.tiles.trans h.tiles
  crews := h'.crews.trans h.crews
  sys := h'.sys.trans h.sys
  regs := h.regs.trans h'.regs

theorem State.SameRegs.frame (h : State.SameRegs s t) : RegFrame ds s t where
  my := h.my
  mem := h.mem
  others k _ := State.ctx_of_ctxs h.ctxs k
  tiles := h.tiles
  crews := h.crews
  sys := h.sys
  regs := by
    have : t.me = s.me := by rw [State.me, State.me, h.my, State.ctx_of_ctxs h.ctxs]
    exact this ▸ .refl

theorem RegFrame.refl : RegFrame ds s s := State.SameRegs.refl.frame

/-- A change of the issuing thread's own context that keeps its other registers. -/
theorem RegFrame.modMe {f : Ctx → Ctx} (h : CtxFrame ds s.me (f s.me)) : RegFrame ds s (s.modMe f) where
  my := rfl
  mem := rfl
  others k hk := s.ctx_modCtx_ne _ k f hk
  tiles := rfl
  crews := rfl
  sys := rfl
  regs := by rw [State.me_modMe]; exact h

theorem RegFrame.setRes (h : RegFrame ds s t) (r : Result) : RegFrame ds s (t.setRes r) :=
  h.trans (State.SameRegs.frame ⟨rfl, rfl, rfl, rfl, rfl, rfl⟩)

/-- A trap changes none of the thread's registers (R389). -/
theorem takeTrap_frame (slot : Nat) (m a : Bool) (f : BitVec 5) (c : BitVec 8) (e : Word) :
    RegFrame ds s (s.takeTrap s.myCtx slot m a f c e) := by
  have own (f : Ctx → Ctx) (h : CtxFrame ds s.me (f s.me)) : RegFrame ds s (s.modCtx s.myCtx f) := .modMe h
  simp only [State.takeTrap]
  split
  · exact own _ ⟨fun _ _ => rfl, fun _ _ => rfl, fun _ _ _ => rfl, fun _ _ => rfl, rfl, rfl, rfl, rfl, rfl⟩
  · exact (own _ ⟨fun _ _ => rfl, fun _ _ => rfl, fun _ _ _ => rfl, fun _ _ => rfl, rfl, rfl, rfl, rfl, rfl⟩).trans
      (State.send_sameRegs ..).frame

theorem raise_frame (c : BitVec 8) (e : Word) : RegFrame ds s (s.raise c e) := by
  have asked : RegFrame ds s (s.modMe Ctx.noAsk) :=
    .modMe ⟨fun _ _ => rfl, fun _ _ => rfl, fun _ _ _ => rfl, fun _ _ => rfl, rfl, rfl, rfl, rfl, rfl⟩
  exact (asked.trans (takeTrap_frame ..)).trans (State.SameRegs.frame ⟨rfl, rfl, rfl, rfl, rfl, rfl⟩)

theorem noteTrap_frame (a : Bool) (h : Option (Nat × Nat)) : RegFrame ds s (s.noteTrap a h) :=
  State.SameRegs.frame ⟨rfl, rfl, rfl, rfl, rfl, rfl⟩

theorem writeX_frame (d : BitVec 6) (v : Word) (lat : Nat) : RegFrame [(0, d.toNat)] s (s.writeX d v lat) := by
  simp only [State.writeX, State.putX]
  split
  · exact .refl
  · split
    · refine RegFrame.modMe ⟨fun n hn => ?_, fun _ _ => rfl, fun _ _ _ => rfl, fun _ _ => rfl, rfl, rfl, rfl, rfl, rfl⟩
      exact Tbl.get_set_ne _ _ _ (by simpa using hn)
    · exact (State.modCore_sameRegs _).frame

theorem getLsbD_putBit (p : BitVec 8) (d : BitVec 3) (v : Bool) (n : Nat) (hn : n < 8) (h : n ≠ d.toNat) :
    ((p &&& ~~~(1#8 <<< d.toNat)) ||| (BitVec.ofBool v).setWidth 8 <<< d.toNat).getLsbD n = p.getLsbD n := by
  rcases Nat.lt_or_gt_of_ne h with hlt | hgt
  · simp [hn, hlt]
  · have : n - d.toNat ≠ 0 := by omega
    simp [hn, Nat.not_lt_of_gt hgt, this]

theorem writeP_frame (d : BitVec 3) (v : Bool) : RegFrame [(2, d.toNat)] s (s.writeP d v) := by
  simp only [State.writeP]
  split
  · exact .refl
  · refine RegFrame.modMe ⟨fun _ _ => rfl, fun _ _ => rfl, fun n hn hd => ?_, fun _ _ => rfl, rfl, rfl, rfl, rfl, rfl⟩
    exact getLsbD_putBit _ _ _ _ hn (by simpa using hd)

theorem writeM_frame (d : BitVec 3) (v : BitVec 16) : RegFrame [(3, d.toNat)] s (s.writeM d v) := by
  simp only [State.writeM]
  split
  · exact .refl
  · refine RegFrame.modMe ⟨fun _ _ => rfl, fun _ _ => rfl, fun _ _ _ => rfl, fun n hn => ?_, rfl, rfl, rfl, rfl, rfl⟩
    exact Tbl.get_set_ne _ _ _ (by simpa using hn)

theorem writeV_keeps (d : BitVec 6) (v : Vec) (lat : Nat) : Keeps (RegFrame [(1, d.toNat)] s) (s.writeV d v lat) := by
  simp only [State.writeV]
  split
  · refine RegFrame.modMe ⟨fun _ _ => rfl, fun n hn => ?_, fun _ _ _ => rfl, fun _ _ => rfl, rfl, rfl, rfl, rfl, rfl⟩
    exact Tbl.get_set_ne _ _ _ (by simpa using hn)
  · split
    · exact (State.modCore_sameRegs _).frame
    · exact (State.checkPush_keeps ..).bind fun _ _ => (State.pushWord_sameRegs ..).frame

theorem want_frame (l : Option Nat) : RegFrame ds s { s with cur := { s.cur with want := l } } :=
  State.SameRegs.frame ⟨rfl, rfl, rfl, rfl, rfl, rfl⟩

theorem wait_frame (w : Wait) : RegFrame ds s (s.modMe (fun c => { c with wait := w })) :=
  .modMe ⟨fun _ _ => rfl, fun _ _ => rfl, fun _ _ _ => rfl, fun _ _ => rfl, rfl, rfl, rfl, rfl, rfl⟩

/-- What an instruction answers keeps the frame of its effect, also where its guard is false or its group stops. -/
theorem runThread_frame {g : Guard} {f : State → Act} (h : runThread g s f = .next t) (hf : Keeps (RegFrame ds s) (f s)) :
    RegFrame ds s t := by
  simp only [runThread] at h
  split at h
  · cases h
  · split at h
    · cases h; exact .refl
    · split at h <;> cases h
      · next hr => exact hf.of_ok hr
      · exact raise_frame ..
      · next a h _ => exact (noteTrap_frame a h).trans (raise_frame ..)
      · exact RegFrame.refl.setRes _
      · exact (want_frame _).setRes _
      · exact (wait_frame _).setRes _
      · next hr => rw [hr] at hf; exact hf.elim

/-- Reading a vector register first, which pops a link at most, adds nothing to the frame of what follows. -/
theorem readV_then {s₁ : State} (h : State.SameRegs s s₁) {r : BitVec 6} {f : Vec × State → Act}
    (hf : ∀ v s₂, State.SameRegs s s₂ → Keeps (RegFrame ds s) (f (v, s₂))) : Keeps (RegFrame ds s) (s₁.readV r >>= f) :=
  (State.readV_keeps r).bind fun q hq => hf q.1 q.2 (h.trans hq)

section
variable {g : Guard} {w : Nat} {vm : VMask} {d a b c : BitVec 6} {lat : State → Nat}

theorem writeV_after {s₁ : State} (h : State.SameRegs s s₁) (v : Vec) (l : Nat) :
    Keeps (RegFrame [(1, d.toNat)] s) (s₁.writeV d v l) :=
  (writeV_keeps ..).imp fun _ => h.frame.trans

theorem putV_after {s₁ : State} (h : State.SameRegs s s₁) (l : Nat) (f : Nat → Rd) :
    Keeps (RegFrame [(1, d.toNat)] s) (putV s₁ w vm d l f) :=
  writeV_after (h.trans (State.raiseFlags_sameRegs _)) ..

theorem writeX_after {s₁ : State} (h : State.SameRegs s s₁) (v : Word) (l : Nat) : RegFrame [(0, d.toNat)] s (s₁.writeX d v l) :=
  h.frame.trans (writeX_frame ..)

theorem setX_frame {l : Nat} {f : State → Word} (h : setX g d l s f = .next t) : RegFrame [(0, d.toNat)] s t :=
  runThread_frame h (.ok (writeX_frame ..))

theorem setP_frame {d : BitVec 3} {f : State → Bool} (h : setP g d s f = .next t) : RegFrame [(2, d.toNat)] s t :=
  runThread_frame h (.ok (writeP_frame ..))

theorem setM_frame {d : BitVec 3} {f : State → BitVec 16} (h : setM g d s f = .next t) : RegFrame [(3, d.toNat)] s t :=
  runThread_frame h (.ok (writeM_frame ..))

theorem vec1_frame {f : State → Nat → Rd} (h : vec1 g w vm d a s lat f = .next t) : RegFrame [(1, d.toNat)] s t :=
  runThread_frame h (readV_then .refl fun _ _ h₁ => putV_after h₁ ..)

theorem vec2_frame {f : State → Nat → Nat → Rd} (h : vec2 g w vm d a b s lat f = .next t) : RegFrame [(1, d.toNat)] s t :=
  runThread_frame h (readV_then .refl fun _ _ h₁ => readV_then h₁ fun _ _ h₂ => putV_after h₂ ..)

theorem vec3_frame {f : State → Nat → Nat → Nat → Rd} (h : vec3 g w vm d a b c s lat f = .next t) : RegFrame [(1, d.toNat)] s t :=
  runThread_frame h (readV_then .refl fun _ _ h₁ => readV_then h₁ fun _ _ h₂ => readV_then h₂ fun _ _ h₃ => putV_after h₃ ..)

theorem execLea_frame {mem : MemOp} (h : execLea g d mem s = .next t) : RegFrame [(0, d.toNat)] s t :=
  runThread_frame h ((check_keeps ..).bind fun _ _ => .ok (writeX_frame ..))

theorem execMfs_frame {sr : SReg} (h : execMfs g d sr s = .next t) : RegFrame [(0, d.toNat)] s t := by
  simp only [execMfs, runPriv] at h
  split at h
  · cases h
  · split at h
    · cases h; exact raise_frame ..
    · exact runThread_frame h (.ok (writeX_frame ..))

theorem execVcmp_frame {ty : Ty} {cond : Cond} {d : BitVec 3} (h : execVcmp g ty cond vm d a b s = .next t) :
    RegFrame [(3, d.toNat)] s t :=
  runThread_frame h (readV_then .refl fun _ _ h₁ => readV_then h₁ fun _ _ h₂ => .ok (h₂.frame.trans (writeM_frame ..)))

theorem execVsel_frame {c : BitVec 3} (h : execVsel g vm d a b c s = .next t) : RegFrame [(1, d.toNat)] s t :=
  runThread_frame h (readV_then .refl fun _ _ h₁ => readV_then h₁ fun _ _ h₂ => putV_after h₂ ..)

theorem execVperm_frame {ty : Ty} (h : execVperm g ty vm d a b c s = .next t) : RegFrame [(1, d.toNat)] s t :=
  runThread_frame h (readV_then .refl fun _ _ h₁ => readV_then h₁ fun _ _ h₂ => readV_then h₂ fun _ _ h₃ => putV_after h₃ ..)

theorem execVbcast_frame {ty : Ty} {ramp : Bool} (h : execVbcast g ty ramp vm d b s = .next t) : RegFrame [(1, d.toNat)] s t :=
  runThread_frame h (putV_after .refl ..)

theorem execVbcastImm_frame {ty : Ty} {ramp : Bool} {imm : BitVec 32} (h : execVbcastImm g ty ramp vm d imm s = .next t) :
    RegFrame [(1, d.toNat)] s t :=
  runThread_frame h (putV_after .refl ..)

theorem execVshuf_frame {ty : Ty} {sh : Shuffle} (h : execVshuf g ty sh vm d a b s = .next t) : RegFrame [(1, d.toNat)] s t :=
  runThread_frame h (readV_then .refl fun _ _ h₁ => readV_then h₁ fun _ _ h₂ => putV_after h₂ ..)

theorem execVred_frame {ty : Ty} {rm : Rm} {sat : Bool} {op : RedOp} {mk : BitVec 3} (h : execVred g ty rm sat op mk d a s = .next t) :
    RegFrame [(0, d.toNat)] s t :=
  runThread_frame h (readV_then .refl fun _ _ h₁ => .ok (writeX_after (h₁.trans (State.raiseFlags_sameRegs _)) ..))

theorem execVdot_frame {ty : Ty} {rm : Rm} {mk : BitVec 3} (h : execVdot g ty rm mk d a b c s = .next t) : RegFrame [(0, d.toNat)] s t :=
  runThread_frame h (readV_then .refl fun _ _ h₁ => readV_then h₁ fun _ _ h₂ =>
    .ite (.ok (writeX_after (h₂.trans (State.raiseFlags_sameRegs _)) ..)) (.ok (writeX_after h₂ ..)))

theorem execVcvt_frame {ty : Ty} {rm : Rm} {sat : Bool} {cv : ConvSel} (h : execVcvt g ty rm sat cv vm d a s = .next t) :
    RegFrame [(1, d.toNat)] s t :=
  runThread_frame h (readV_then .refl fun _ _ h₁ => writeV_after (h₁.trans (State.raiseFlags_sameRegs _)) ..)

theorem execVsrnd_frame {ty : Ty} {sat : Bool} {cv : ConvSel} {k : BitVec 5} (h : execVsrnd g ty sat cv vm d a c k s = .next t) :
    RegFrame [(1, d.toNat)] s t :=
  runThread_frame h (readV_then .refl fun _ _ h₁ => readV_then h₁ fun _ _ h₂ =>
    writeV_after (h₂.trans (State.raiseFlags_sameRegs _)) ..)

theorem execVpack_frame {ty : Ty} {rm : Rm} {sat : Bool} {cv : ConvSel} (h : execVpack g ty rm sat cv d a b c s = .next t) :
    RegFrame [(1, d.toNat)] s t := by
  refine runThread_frame h (readV_then .refl fun _ s₁ h₁ => ?_)
  refine .ite (readV_then h₁ fun _ _ h₂ => ?_) ?_
  · exact writeV_after (h₂.trans (State.raiseFlags_sameRegs _)) ..
  · exact writeV_after (h₁.trans (State.raiseFlags_sameRegs _)) ..

theorem execVunpk_frame {ty : Ty} {rm : Rm} {sat : Bool} {cv : UnpackSel} (h : execVunpk g ty rm sat cv d a b s = .next t) :
    RegFrame [(1, d.toNat)] s t :=
  runThread_frame h (readV_then .refl fun _ _ h₁ => writeV_after (h₁.trans (State.raiseFlags_sameRegs _)) ..)

theorem execVscale_frame {ty src : Ty} (h : execVscale g ty src d a c s = .next t) : RegFrame [(0, d.toNat)] s t := by
  refine runThread_frame h (readV_then .refl fun _ s₁ h₁ => ?_)
  exact .ite (readV_then h₁ fun _ _ h₂ => .ok (writeX_after h₂ ..)) (.ok (writeX_after h₁ ..))

theorem execVstep_frame {ty : Ty} {rm : Rm} {sat : Bool} {kind : StepKind} (h : execVstep g ty rm sat kind vm d a b c s = .next t) :
    RegFrame [(1, d.toNat)] s t :=
  runThread_frame h (readV_then .refl fun _ _ h₁ => readV_then h₁ fun _ _ h₂ => readV_then h₂ fun _ _ h₃ => putV_after h₃ ..)

end
end

/-- Every instruction of the scalar and vector families keeps its frame; the other constructors have another format class. -/
theorem exec_frame {i : Instr} {r : Raw} {s t : State} (hr : i.raw = some r) (hc : r.fmt = 0 ∧ r.op ≠ 0x22 ∨ r.fmt = 1)
    (h : exec i s = .next t) : RegFrame (destsOf i) s t := by
  cases i
  case add | sub | addi | mul | mulImm | mulh | mulhn | and | andImm | or | orImm | xor | xorImm | andn | andnImm | shl | shlImm
    | shr | shrImm | sar | sarImm | rol | rolImm | min | minImm | max | maxImm | minn | minnImm | maxn | maxnImm | sel | mov | movi
    | movh | clz | ctz | popc | bfx | bfi | sext | zext | divstep => simp only [exec] at h; exact setX_frame h
  case cmp | cmpImm | pset | pand | por | pxor | pnot => simp only [exec] at h; exact setP_frame h
  case mand | mor | mnot => simp only [exec] at h; exact setM_frame h
  case lea => simp only [exec] at h; exact execLea_frame h
  case mfs => simp only [exec] at h; exact execMfs_frame h
  case vabs | vneg | vclz | vpopc | vrcp | vrsq | vexp2 | vlog2 => simp only [exec] at h; exact vec1_frame h
  case vadd | vsub | vmul | vmin | vmax | vmulh | vavg | vshl | vshr | vsar | vand | vor | vxor | vrng =>
    simp only [exec] at h; exact vec2_frame h
  case vfma | vfms => simp only [exec] at h; exact vec3_frame h
  case vcmp => simp only [exec] at h; exact execVcmp_frame h
  case vsel => simp only [exec] at h; exact execVsel_frame h
  case vperm => simp only [exec] at h; exact execVperm_frame h
  case vbcast => simp only [exec] at h; exact execVbcast_frame h
  case vbcastImm => simp only [exec] at h; exact execVbcastImm_frame h
  case vshuf => simp only [exec] at h; exact execVshuf_frame h
  case vred => simp only [exec] at h; exact execVred_frame h
  case vdot => simp only [exec] at h; exact execVdot_frame h
  case vcvt => simp only [exec] at h; exact execVcvt_frame h
  case vsrnd => simp only [exec] at h; exact execVsrnd_frame h
  case vpack => simp only [exec] at h; exact execVpack_frame h
  case vunpk => simp only [exec] at h; exact execVunpk_frame h
  case vscale => simp only [exec] at h; exact execVscale_frame h
  case vstep => simp only [exec] at h; exact execVstep_frame h
  all_goals cases hr <;> rcases hc with ⟨hf, ho⟩ | hf
  case mts.refl.inl => exact absurd rfl ho
  all_goals cases hf

/-- Settles O9: what one writer of a register may change (`RegFrame`), instruction by instruction. -/
theorem registerFrame : Obligations.RegisterFrame := by
  intro i r s t hr hc h
  obtain ⟨-, hmem, others, tiles, crews, sys, x, v, p, m, fst, mxc, lvl, seg, sg⟩ := exec_frame hr hc h
  exact ⟨fun a => by rw [hmem], others, tiles, crews, sys, x, v, p, m, fst, mxc, lvl, seg, sg⟩

end Sys2Proof.Machine
end

section
/-! The writes of the machine: memory byte by byte, a vector register by its kind, a trap (R26, R176, R178, R389); and the words
of the encodings. -/

namespace Sys2Proof.Machine

namespace State

variable {s t : State} {r : BitVec 6} {x : Vec} {lat : Nat}

theorem modMe_congr {f g : Ctx → Ctx} (h : f s.me = g s.me) : s.modMe f = s.modMe g :=
  congrArg (fun c => { s with ctxs := Tbl.set {} s.ctxs s.myCtx c }) h

/-- A write of a vector register of the thread: that register alone (R8). -/
theorem writeV_own (hr : r.toNat < 32) (h : s.writeV r x lat = .ok t) :
    t = s.modMe (fun c => { c with v := Tbl.set 0 c.v r.toNat x }) := by
  simp only [writeV, if_pos hr] at h
  exact (Except.ok.inj h).symm

/-- A write of a shared vector register is on its way until its landing (R178). -/
theorem writeV_shared (hr : ¬r.toNat < 32) (hr' : r.toNat < 62) (h : s.writeV r x lat = .ok t) :
    t = s.modCore s.myCore (fun c => { c with pend := c.pend ++ [⟨s.rc + lat, s.cur.slot, true, r.toNat - 32, x⟩] }) := by
  simp only [writeV, if_neg hr, if_pos hr'] at h
  exact (Except.ok.inj h).symm

/-- A write of a register that is not the thread's own keeps every thread's registers. -/
theorem writeV_sameRegs (hr : ¬r.toNat < 32) (h : s.writeV r x lat = .ok t) : SameRegs s t := by
  by_cases hr' : r.toNat < 62
  · exact writeV_shared hr hr' h ▸ modCore_sameRegs _
  · simp only [writeV, if_neg hr, if_neg hr'] at h
    refine Keeps.of_ok ((checkPush_keeps ..).bind fun _ _ => ?_) h
    exact pushWord_sameRegs ..

theorem takeTrap_own (k slot : Nat) (m a : Bool) (f : BitVec 5) (c : BitVec 8) (e : Word) :
    ((s.takeTrap k slot m a f c e).ctx k).frz = true ∧ ((s.takeTrap k slot m a f c e).ctx k).x = (s.ctx k).x
    ∧ ((s.takeTrap k slot m a f c e).ctx k).s = (s.ctx k).s := by
  have own (f : Ctx → Ctx) : (s.modCtx k f).ctx k = f (s.ctx k) := ctx_modCtx s k f
  simp only [takeTrap]
  split
  · simp only [own, and_self]
  · simp only [ctx_of_ctxs (send_sameRegs ..).ctxs, own, and_self]

@[simp] theorem takeTrap_cores (k slot : Nat) (m a : Bool) (f : BitVec 5) (c : BitVec 8) (e : Word) :
    (s.takeTrap k slot m a f c e).cores = s.cores := by
  simp only [takeTrap]; split <;> rfl

/-- A trap freezes its thread and keeps its scalar and segment registers (R389). -/
theorem raise_own (c : BitVec 8) (e : Word) :
    ((s.raise c e).ctx s.myCtx).frz = true ∧ ((s.raise c e).ctx s.myCtx).x = (s.ctx s.myCtx).x
    ∧ ((s.raise c e).ctx s.myCtx).s = (s.ctx s.myCtx).s := by
  obtain ⟨frz, x, seg⟩ := takeTrap_own (s := s.modMe Ctx.noAsk) s.myCtx s.cur.slot s.cur.memb s.cur.asyn
    (if c == cFp then s.cur.flags else 0) c e
  have hme : (s.modMe Ctx.noAsk).ctx s.myCtx = (s.ctx s.myCtx).noAsk := me_modMe Ctx.noAsk
  rw [hme] at x seg
  exact ⟨frz, x, seg⟩

@[simp] theorem raise_cores (c : BitVec 8) (e : Word) : (s.raise c e).cores = s.cores := takeTrap_cores ..

end State

/-- Settles O10: the bytes of a write by `memRead_memWriteN`, a register write by the kind of its register, a trap by what
`takeTrap` changes. -/
theorem memoryWrites : Obligations.MemoryWrites := by
  intro s l pa a bs
  refine ⟨s.memRead_writeLoc l bs a, memRead_memWriteN bs s.mem pa a, fun _ _ _ => s.writeX_mem .., fun r x lat t h => ?_,
    fun cause e => ?_⟩
  · by_cases hr : r.toNat < 32
    · have ht := State.writeV_own hr h
      have hv : t.me.v = Tbl.set 0 s.me.v r.toNat x := by rw [ht, State.me_modMe]
      refine ⟨by rw [ht, State.modMe_mem], fun h' => by omega, fun _ => ⟨?_, fun q hq => ?_, ?_⟩, fun h' => by omega⟩
      · rw [hv, Tbl.get_set_self]
      · rw [hv, Tbl.get_set_ne _ _ _ hq]
      · rw [hv]
        exact ht.trans (State.modMe_congr rfl)
    · have same := State.writeV_sameRegs hr h
      exact ⟨same.mem, fun _ => same.ctxs, fun h' => absurd h' hr, fun _ hr' => State.writeV_shared hr hr' h⟩
  · obtain ⟨frz, x, seg⟩ := State.raise_own (s := s) cause e
    exact ⟨s.raise_mem .., frz, x, seg, (raise_frame (ds := []) cause e).others, State.raise_cores ..⟩

/-- Settles O3: the decoder runs on each word. -/
theorem decodeWords : Obligations.DecodeWords := by
  unfold Obligations.DecodeWords
  decide

end Sys2Proof.Machine
end

section
/-! The host functions and the registers in control space, operation by operation (R10, R394, R395, R440, R442-R446). -/

namespace Sys2Proof.Machine

namespace State

variable {s : State} {fn : Nat}

@[simp] theorem host_modHost (f : HostFn → HostFn) : (s.modHost fn f).host fn = f (s.host fn) := s.host_setHost fn _

theorem host_modHost_ne {j : Nat} (f : HostFn → HostFn) (h : j ≠ fn) : (s.modHost fn f).host j = s.host j :=
  State.host_setHost_ne (h := h) ..

/-- Nothing waits and nothing is to be published: a launch under way runs (R445). -/
theorem hostSettle_launch (hw : s.hostWaits fn = false) (hq : (s.host fn).pubq = []) :
    s.hostSettle fn = if (s.host fn).busy then s.hostLaunch fn else s := by
  simp [hostSettle, hw, hq, hostPublishes]

section launch
variable {u : State} {e : BitVec 8} {bs : List Byte}

theorem hostLaunch_early (h : s.sys.stage.toNat < 2) : s.hostLaunch fn = s.hostResult fn 2 0 0 := by
  rw [hostLaunch, if_pos h]

theorem hostLaunch_quiesced (h : 2 ≤ s.sys.stage.toNat) (hq : s.quiesced = true) : s.hostLaunch fn = s.hostResult fn 3 0 0 := by
  rw [hostLaunch, if_neg (Nat.not_lt.mpr h), if_pos hq]

/-- A started device that is not quiesced reads the block before anything else. -/
theorem hostLaunch_unread (h : 2 ≤ s.sys.stage.toNat) (hq : s.quiesced = false)
    (hr : s.hostRead fn (s.host fn).hlaunch 256 = (.error e, u)) : s.hostLaunch fn = u.hostResult fn 4 e 0 := by
  simp [hostLaunch, Nat.not_lt.mpr h, hq, hr]

theorem hostLaunch_read (h : 2 ≤ s.sys.stage.toNat) (hq : s.quiesced = false)
    (hr : s.hostRead fn (s.host fn).hlaunch 256 = (.ok bs, u)) :
    s.hostLaunch fn = if blockPlaced (blockOf bs) = false then u.hostResult fn 5 0 0
      else if u.queueFull (s.pctx fn) = true then u.hostResult fn 1 0 0
      else (u.post (s.pctx fn) (blockOf bs)).2.hostResult fn 0 0 (u.post (s.pctx fn) (blockOf bs)).1 := by
  simp [hostLaunch, Nat.not_lt.mpr h, hq, hr]

end launch

section aperture
variable {off : Nat} {data : List Byte}

theorem hostPiece_disabled (h : s.hostPlace fn off = none) : s.hostPiece fn off data = s := by
  simp [hostPiece, h]

theorem hostPiece_readOnly {x : HostAt} (h : s.hostPlace fn off = some x) (hw : s.hostMayWrite fn off = false) :
    s.hostPiece fn off data = s.hostErr fn 0x03 (off % 2 ^ 30) := by
  simp [hostPiece, h, hw, eRights]

theorem hostPiece_phys {pa : Nat} (h : s.hostPlace fn off = some (.phys pa)) (hw : s.hostMayWrite fn off = true)
    (hr : s.rangeOk pa data.length = true) : s.hostPiece fn off data = s.writePa pa data := by
  simp [hostPiece, h, hw, hr]

end aperture

section bar
variable {v : Word}

theorem barRead_hpuba (h : s.sys.stage ≠ 0) : (s.barWrite fn 0x010 v).barRead fn 0x010 = v := by
  rw [barWrite, if_neg h]
  simp [barRead]

theorem barRead_aperture {n : Nat} (h : s.sys.stage ≠ 0) (hn : n < 64) :
    (s.barWrite fn (0x1000 + 8 * n) v).barRead fn (0x1000 + 8 * n) = v &&& 0xE00FFFFFC0000000 := by
  have aligned : (0x1000 + 8 * n) % 8 = 0 := by omega
  have table : 0x1000 ≤ 0x1000 + 8 * n ∧ 0x1000 + 8 * n < 0x1200 := by omega
  have index : (0x1000 + 8 * n - 0x1000) / 8 = n := by omega
  have other (k : Nat) (hk : k < 0x1000) : ¬0x1000 + 8 * n = k := by omega
  rw [barWrite, if_neg h]
  simp [barRead, aligned, table, other, Tbl.get_set_self]

theorem barRead_herr (h : s.sys.stage ≠ 0) :
    (s.barWrite fn 0x030 v).barRead fn 0x030 = if v.getLsbD 63 then 0 else (s.host fn).herr := by
  rw [barWrite, if_neg h]
  cases v.getLsbD 63 <;> simp [barRead]

theorem barRead_ident : s.barRead fn 0x80000 = s.sys.ident := by
  simp [barRead, readSys]

theorem barRead_hlres : s.barRead fn 0x008 = hlres (s.host fn) := by
  simp [barRead]

end bar

end State

/-- The fields of HLRES (R442). -/
theorem hlres_fields (h : HostFn) : (State.hlres h).getLsbD 63 = h.busy ∧ (State.hlres h).getLsbD 62 = h.drop
    ∧ (State.hlres h).extractLsb' 48 8 = h.seq ∧ (State.hlres h).extractLsb' 40 8 = h.stat
    ∧ (State.hlres h).extractLsb' 32 8 = h.err ∧ (State.hlres h).extractLsb' 0 32 = h.task := by
  refine ⟨?_, ?_, ?_, ?_, ?_, ?_⟩
  · simp (disch := omega) only [State.hlres, bit_append_above, Nat.reduceSub]
    cases h.busy <;> rfl
  · simp (disch := omega) only [State.hlres, bit_append_above, Nat.reduceSub]
    exact low_append ..
  · simp (disch := omega) only [State.hlres, extract_append_above, Nat.reduceSub, extract_append_low]
  · simp (disch := omega) only [State.hlres, extract_append_above, Nat.reduceSub, extract_append_low]
  · simp (disch := omega) only [State.hlres, extract_append_above, Nat.reduceSub, extract_append_low]
  · exact extract_append_low ..

section
variable {s : State} {fn : Nat}

theorem execHostFarWrite_page {off : BitVec 36} {data : List Byte} (h : s.sys.stage ≠ 0) (hd : data ≠ [])
    (hp : off.toNat % 4096 + data.length ≤ 4096) : execHostFarWrite fn off data s = .next (s.hostPiece fn off.toNat data) := by
  have len : 0 < data.length := List.length_pos_iff.mpr hd
  have pages : (off.toNat + data.length + 4095) / 4096 - off.toNat / 4096 = 1 := by omega
  have low : max off.toNat (off.toNat / 4096 * 4096) = off.toNat := by omega
  have all : data.take ((off.toNat / 4096 + 1) * 4096 - off.toNat) = data := List.take_of_length_le (by omega)
  have room : (off.toNat / 4096 + 1) * 4096 - off.toNat ≠ 0 := by omega
  rw [execHostFarWrite, if_neg h]
  simp [pages, low, all, hd, room]

/-- What a write of HIRQ changes: the vector's sent or pending bit (R446). -/
theorem raiseIrq_bits (v : Word) :
    let h := s.host (v.extractLsb' 8 2).toNat
    let u := (s.raiseIrq v).host (v.extractLsb' 8 2).toNat
    let i := (v.extractLsb' 0 5).toNat
    if h.msixMask.getLsbD i then u.msixPend.getLsbD i = true ∧ u.msixSent = h.msixSent
    else u.msixSent.getLsbD i = true ∧ u.msixPend = h.msixPend := by
  intro h u i
  have hi : i < 32 := (v.extractLsb' 0 5).isLt
  have masked (m : BitVec 32) : m &&& 1#32 <<< i = 0 ↔ m.getLsbD i = false := by
    have bit : BitVec.twoPow 32 i ≠ 0#32 := fun h => by simpa [hi] using congrArg (·.getLsbD i) h
    rw [← BitVec.twoPow_eq, BitVec.and_twoPow]
    cases m.getLsbD i <;> simp [bit]
  have set (m : BitVec 32) : (m ||| 1#32 <<< i).getLsbD i = true := by simp [hi]
  have hu : u = if h.msixMask &&& 1#32 <<< i = 0 then { h with msixSent := h.msixSent ||| 1#32 <<< i }
      else { h with msixPend := h.msixPend ||| 1#32 <<< i } := State.host_modHost _
  rw [hu]
  simp only [masked]
  cases hm : h.msixMask.getLsbD i <;> simp [set]

section read
variable {off : BitVec 36} {len : Nat} {u : State}

theorem hostFarRead_goes (h : s.sys.stage ≠ 0) (hw : s.hostWaits fn = false) : ¬(s.sys.stage = 0 || s.hostWaits fn) = true := by
  rw [hw, Bool.or_false, decide_eq_true_eq]
  exact h

theorem execHostFarRead_disabled (h : s.sys.stage ≠ 0) (hw : s.hostWaits fn = false) (hb : s.hostBytes fn off.toNat len = none) :
    execHostFarRead fn off len s = .next (s.modHost fn (fun h => { h with readOut := some .unsupportedRequest })) := by
  rw [execHostFarRead, if_neg (hostFarRead_goes h hw), hb]

theorem execHostFarRead_error {e : BitVec 8} (h : s.sys.stage ≠ 0) (hw : s.hostWaits fn = false)
    (hb : s.hostBytes fn off.toNat len = some (.error e, u)) : execHostFarRead fn off len s
      = .next ((u.hostErr fn e (off.toNat % 2 ^ 30)).modHost fn (fun h => { h with readOut := some .completerAbort })) := by
  rw [execHostFarRead, if_neg (hostFarRead_goes h hw), hb]

theorem execHostFarRead_data {bs : List Byte} (h : s.sys.stage ≠ 0) (hw : s.hostWaits fn = false)
    (hb : s.hostBytes fn off.toNat len = some (.ok bs, u)) :
    execHostFarRead fn off len s = .next (u.modHost fn (fun h => { h with readOut := some (.data bs) })) := by
  rw [execHostFarRead, if_neg (hostFarRead_goes h hw), hb]

end read

/-- Control space lies above every offset in BAR0. -/
theorem control_above_bar {a : Word} (h : spaceOf a = 5) : ¬a.toNat < 2 ^ 20 := by
  simp only [spaceOf, BitVec.extractLsb'_toNat, Nat.shiftRight_eq_div_pow] at h
  omega

theorem execRegisterWrite_control {a v : Word} {level : BitVec 2} {tile : Nat} (h : spaceOf a = 5) (hp : isPhysWindow a = false) :
    execRegisterWrite a v level tile s = .next (s.ctrlWrite a v level (s.siteOf tile)) := by
  rw [execRegisterWrite, if_neg (control_above_bar h), if_pos (by simp [h, hp])]

theorem execRegisterWrite_bar {a v : Word} {tile : Nat} (h : a.toNat < 2 ^ 20) :
    execRegisterWrite a v 3 tile s = .next (s.barWrite (tile % 4) a.toNat v) := by
  rw [execRegisterWrite, if_pos h, if_pos rfl]

/-- Firmware writes HFN (R442). -/
theorem execRegisterWrite_hfn {v : Word} {tile : Nat} :
    execRegisterWrite 0x028 v 2 tile s = .next (s.modHost (tile % 4) (fun h => { h with hfn := v &&& 0x1F })) := rfl

section system
variable {level : BitVec 2} {v : Word} {site : Nat}

theorem ctrlWrite_task (a : Word) : s.ctrlWrite a v 0 site = s := rfl

/-- The offsets 0 to 0xFFFFFFFF of the system block in control space (R10). -/
theorem ctrlRead_sys (off : BitVec 32) :
    s.ctrlRead (0x50000005#32 ++ off) level = s.readSys off.toNat (level == 2) := by
  have low : (0x50000005#32 ++ off).extractLsb' 0 32 = off := extract_append_low ..
  have block : (0x50000005#32 ++ off).extractLsb' 32 28 = 5#28 := by
    rw [extract_append_above _ _ _ _ (Nat.le_refl _)]; rfl
  simp only [State.ctrlRead, low, block]
  rfl

theorem ctrlRead_public : s.ctrlRead 0x5000000500000000 level = s.sys.ident ∧ s.ctrlRead 0x5000000500000010 level = s.sys.start
    ∧ s.ctrlRead 0x5000000500000018 level = s.sys.fjoin ∧ s.ctrlRead 0x5000000500000020 level = s.sys.rtime :=
  ⟨ctrlRead_sys 0x00, ctrlRead_sys 0x10, ctrlRead_sys 0x18, ctrlRead_sys 0x20⟩

/-- Only firmware writes and reads TBARG0, and nobody writes IDENT (R10, R439). -/
theorem ctrlWrite_firmware : (s.ctrlWrite 0x5000000500000208 v 2 site).ctrlRead 0x5000000500000208 2 = v
    ∧ (s.ctrlWrite 0x5000000500000208 v 2 site).ctrlRead 0x5000000500000208 1 = 0
    ∧ s.ctrlWrite 0x5000000500000208 v 1 site = s ∧ s.ctrlWrite 0x5000000500000000 v 2 site = s :=
  ⟨rfl, rfl, rfl, rfl⟩

end system

section window
variable {n : Nat} {p : Pkt} {u : State} {a : Word} {en : BitVec 64} {v : BitVec 512} {wr : Bool} {len : Nat} {level : BitVec 2}

theorem execTrapWindowAccessArrival_trap (h : s.Arrives n p u) (hb : p.body = .window a en v wr len level) (ha : spaceOf a = 4) :
    execTrapWindowAccessArrival n s = .next (
      if u.winRefused a then u.failWait p.ctx 0x0C a
      else
        let w := if wr then u.winStore a en v level else u
        if (w.ctx p.ctx).used then w.answer p (globalTile a) (.data (if wr then 0 else vecOfBytes (u.winRead a len)) none) else w) := by
  rw [execTrapWindowAccessArrival, arrived_of h]
  rotate_left
  · rw [hb]
  cases hr : u.winRefused a <;> cases wr <;> simp [hb, ha, hr, cFormat]

/-- A window access to control space, but for the physical window, reads or writes a register where it arrives (R440). -/
theorem execTrapWindowAccessArrival_control (h : s.Arrives n p u) (hb : p.body = .window a en v wr len level) (ha : spaceOf a ≠ 4)
    (hp : isPhysWindow a = false) :
    execTrapWindowAccessArrival n s = .next (
      let w := if wr then u.ctrlWrite a (v.setWidth 64) level (u.siteOf p.src) else u
      if (w.ctx p.ctx).used then
        w.answer p (ctrlTile a) (.data (if wr then 0 else (u.ctrlRead a level).setWidth 512) none) else w) := by
  rw [execTrapWindowAccessArrival, arrived_of h]
  rotate_left
  · rw [hb]
  cases wr <;> simp [hb, ha, hp]

theorem execTrapWindowAccessArrival_outside (h : s.Arrives n p u) (hb : p.body = .window a en v wr len level) (ha : spaceOf a ≠ 4)
    (hp : isPhysWindow a = true) (hr : u.rangeOk (physOf a) len = false) :
    execTrapWindowAccessArrival n s = .next (u.failWait p.ctx 0x14 a) := by
  rw [execTrapWindowAccessArrival, arrived_of h]
  rotate_left
  · rw [hb]
  simp [hb, ha, hp, hr, cCopy]

theorem execTrapWindowAccessArrival_physRead (h : s.Arrives n p u) (hb : p.body = .window a en v false len level) (ha : spaceOf a ≠ 4)
    (hp : isPhysWindow a = true) (hr : u.rangeOk (physOf a) len = true) (hc : u.chanHeld (physOf a) = false) :
    execTrapWindowAccessArrival n s = .next (if (u.ctx p.ctx).used then
      u.answer p (ctrlTile a) (.data (vecOfBytes (u.readPa (physOf a) len)) none) else u) := by
  rw [execTrapWindowAccessArrival, arrived_of h]
  rotate_left
  · rw [hb]
  simp [hb, ha, hp, hr, hc]

end window
/-- What the host asks of a device that has started (R442-R445). -/
theorem host_accesses (h : s.sys.stage ≠ 0) :
    (∀ a, (s.host fn).busy = true → exec (.hlaunch fn a) s = .next (s.modHost fn (fun h => { h with drop := true })))
    ∧ (∀ a, (s.host fn).busy = false →
      exec (.hlaunch fn a) s = .next ((s.modHost fn (fun h => { h with busy := true, hlaunch := a })).hostSettle fn))
    ∧ (∀ len, exec (.hpubn fn len) s = .next ((s.modHost fn (fun h =>
        { h with hpubn := len, hpubs := 1, pubq := h.pubq ++ [(h.hpuba, len)] })).hostSettle fn))
    ∧ exec (.herrClear fn) s = .next (s.modHost fn (fun h => { h with herr := 0 }))
    ∧ exec (.hlresDropClear fn) s = .next (s.modHost fn (fun h => { h with drop := false })) := by
  refine ⟨fun a hb => ?_, fun a hb => ?_, fun len => ?_, ?_, ?_⟩
  · exact (if_neg h).trans (if_pos hb)
  · exact (if_neg h).trans (if_neg (by simp [hb]))
  · exact if_neg h
  · exact if_neg h
  · exact if_neg h

/-- A function-level reset clears the function and nothing else (R446). -/
theorem functionLevelReset_clears : ∃ t, exec (.functionLevelReset fn) s = .next t ∧ (t.host fn).apt = [] ∧ (t.host fn).herr = 0
    ∧ (t.host fn).hpubs = 0 ∧ (t.host fn).drop = false ∧ (t.host fn).seq = 0 ∧ (t.host fn).stat = 0
    ∧ (t.host fn).discard = (s.host fn).busy ∧ (∀ j, j ≠ fn → t.host j = s.host j) ∧ t = { s with hosts := t.hosts } := by
  refine ⟨_, rfl, ?_, ?_, ?_, ?_, ?_, ?_, ?_, fun j hj => State.host_modHost_ne _ hj, rfl⟩
  all_goals rw [State.host_modHost]

end

/-- Settles O59, operation by operation: the host's accesses, its launches, the apertures, BAR0, the system block and the windows. -/
theorem hostEvents : Obligations.HostEvents := by
  refine ⟨fun s fn => ⟨fun h => ?_, State.hostSettle_launch, ?_, fun off data => ?_, fun h => ?_, State.barRead_ident, ?_,
    functionLevelReset_clears, fun v => ⟨_, rfl, rfl, rfl, raiseIrq_bits v⟩⟩, fun s => ⟨fun a v tile level => ?_,
    fun a v site => ctrlWrite_task a, fun level => ctrlRead_public, fun v site => ctrlWrite_firmware,
    fun n p u a en v wr len level h hb => ?_⟩⟩
  · obtain ⟨busy, idle, publish, herr, drop⟩ := host_accesses (s := s) (fn := fn) h
    exact ⟨busy, idle, publish, herr, drop,
      fun off len hw => ⟨execHostFarRead_disabled h hw, fun e u => execHostFarRead_error h hw, fun bs u => execHostFarRead_data h hw⟩,
      fun off data hd hp => execHostFarWrite_page h hd hp⟩
  · refine ⟨State.hostLaunch_early, State.hostLaunch_quiesced, fun h hq =>
      ⟨fun e u => State.hostLaunch_unread h hq, fun bs u hr => ?_⟩⟩
    rw [State.hostLaunch_read h hq hr]
    exact ⟨fun hb => if_pos hb, fun hb hf => by rw [if_neg (by simp [hb]), if_pos hf], fun hb hf => by simp [hb, hf]⟩
  · exact ⟨State.hostPiece_disabled, fun x => State.hostPiece_readOnly, fun pa => State.hostPiece_phys⟩
  · exact ⟨fun v => State.barRead_hpuba h, fun n v hn => State.barRead_aperture h hn, fun v => State.barRead_herr h⟩
  · rw [State.barRead_hlres]
    exact hlres_fields _
  · refine ⟨execRegisterWrite_control, fun ha hl => ?_, fun ha hl => ?_⟩
    · subst hl
      exact execRegisterWrite_bar ha
    · subst ha hl
      exact execRegisterWrite_hfn
  · dsimp only
    refine ⟨fun ha hr => ?_, fun ha hr hw hu => ?_, fun ha hr hw => ?_, execTrapWindowAccessArrival_outside h hb,
      fun ha hp hr hc hw hu => ?_, fun ha hp hw hu => ?_, fun ha hp hw => ?_⟩
    · refine (execTrapWindowAccessArrival_trap h hb ha).trans ?_
      rw [if_pos hr]
    · subst hw
      refine (execTrapWindowAccessArrival_trap h hb ha).trans ?_
      simp [hr, hu]
    · subst hw
      refine (execTrapWindowAccessArrival_trap h hb ha).trans ?_
      simp [hr]
    · subst hw
      refine (execTrapWindowAccessArrival_physRead h hb ha hp hr hc).trans ?_
      rw [if_pos hu]
    · subst hw
      refine (execTrapWindowAccessArrival_control h hb ha hp).trans ?_
      simp [hu]
    · subst hw
      exact execTrapWindowAccessArrival_control h hb ha hp

end Sys2Proof.Machine
end

section
/-! The site counter: what an rc does to the tile of a site, core by core (R155, R178, R179, R338, R385, R416, R481). -/

namespace Sys2Proof.Machine

namespace State

variable {s t u : State}

/-- What the clock of a tile leaves as it is while it gives out the cycles of its banks and looks at its versions. -/
structure BankFrame (s t : State) : Prop where
  mem : t.mem = s.mem
  sys : t.sys = s.sys
  sites : t.sites = s.sites
  cores : t.cores = s.cores
  capture : ∀ i, (t.tile i).capture = (s.tile i).capture

theorem BankFrame.refl : BankFrame s s := ⟨rfl, rfl, rfl, rfl, fun _ => rfl⟩

theorem BankFrame.trans (h : BankFrame s t) (h' : BankFrame t u) : BankFrame s u :=
  ⟨h'.mem.trans h.mem, h'.sys.trans h.sys, h'.sites.trans h.sites, h'.cores.trans h.cores, fun i => (h'.capture i).trans (h.capture i)⟩

theorem modTile_bankFrame (k : Nat) {f : Tile → Tile} (h : ∀ x, (f x).capture = x.capture) : BankFrame s (s.modTile k f) where
  mem := rfl
  sys := rfl
  sites := rfl
  cores := rfl
  capture i := by
    rw [tile_modTile_eq]
    split
    · next hi => rw [h, hi]
    · rfl

theorem updateRefs_bankFrame (crew : Nat) : BankFrame s (s.updateRefs crew) := by
  simp only [updateRefs]
  split
  · exact ⟨rfl, rfl, rfl, rfl, fun _ => rfl⟩
  · exact .refl

theorem lookTile_bankFrame (k : Nat) : BankFrame s (s.lookTile k) := by
  rw [lookTile]
  exact modTile_bankFrame k (by intro; rfl)

theorem landPvr_bankFrame (k rc : Nat) : BankFrame s (s.landPvr k rc) := by
  have landed (n : BitVec 16) : BankFrame s ((s.modTile k (fun i =>
      { i with pvr := n, pvrPend := i.pvrPend.filter (fun l => decide (rc < l.1)) })).lookTile k) :=
    (modTile_bankFrame k (by intro; rfl)).trans (lookTile_bankFrame k)
  simp only [landPvr]
  split
  · exact .refl
  · split
    · exact (landed _).trans (updateRefs_bankFrame _)
    · exact landed _

theorem updateRefs_tile (crew i : Nat) : (s.updateRefs crew).tile i = s.tile i := by
  simp only [updateRefs]
  split <;> rfl

theorem landPvr_bankUse (k rc : Nat) : ((s.landPvr k rc).tile k).bankUse = (s.tile k).bankUse := by
  simp only [landPvr]
  split
  · rfl
  · split <;> simp [updateRefs_tile, lookTile]

theorem grantBank_bankFrame (k bank : Nat) : BankFrame s (s.grantBank k bank) := modTile_bankFrame k (by intro; rfl)

theorem swapLine_bankFrame (k : Option Nat) (n : Nat) : BankFrame s (s.swapLine k n).2 := by
  cases k with
  | none => exact .refl
  | some k =>
    simp only [swapLine]
    split
    · exact .refl
    · split
      · next h =>
        simp only [swapCycle] at h
        (repeat' split at h) <;> cases h <;> exact grantBank_bankFrame ..
      · exact .refl

theorem moveSwap_bankFrame (w : Swap) : BankFrame s (s.moveSwap w).2 := by
  simp only [moveSwap]
  split
  · exact .refl
  · exact (swapLine_bankFrame ..).trans (swapLine_bankFrame ..)

/-- The lines of a core's swaps take cycles of banks alone (R338). -/
theorem moveSwapLines_bankFrame (ws : List Swap) : ∀ (done : List Swap) (s : State), BankFrame s
    (ws.foldl (fun (a : List Swap × State) w => let (w, s) := a.2.moveSwap w; (a.1 ++ [w], s)) (done, s)).2 := by
  induction ws with
  | nil => exact fun _ _ => .refl
  | cons w rest ih => exact fun done s => (moveSwap_bankFrame w).trans (ih ..)

/-- What a core does at an rc for itself: of the other cores nothing changes. -/
structure CoreFrame (core : Nat) (s t : State) : Prop where
  mem : t.mem = s.mem
  sys : t.sys = s.sys
  sites : t.sites = s.sites
  capture : ∀ i, (t.tile i).capture = (s.tile i).capture
  k : (t.core core).k = (s.core core).k
  w : (t.core core).w = (s.core core).w
  other : ∀ j, j ≠ core → t.core j = s.core j

variable {core : Nat}

theorem BankFrame.toCore (h : BankFrame s t) : CoreFrame core s t :=
  have same (j : Nat) : t.core j = s.core j := by rw [State.core, State.core, h.cores]
  ⟨h.mem, h.sys, h.sites, h.capture, by rw [same], by rw [same], fun j _ => same j⟩

theorem CoreFrame.trans (h : CoreFrame core s t) (h' : CoreFrame core t u) : CoreFrame core s u :=
  ⟨h'.mem.trans h.mem, h'.sys.trans h.sys, h'.sites.trans h.sites, fun i => (h'.capture i).trans (h.capture i), h'.k.trans h.k,
    h'.w.trans h.w, fun j hj => (h'.other j hj).trans (h.other j hj)⟩

theorem modCore_coreFrame {f : Core → Core} (hk : ∀ c, (f c).k = c.k) (hw : ∀ c, (f c).w = c.w) :
    CoreFrame core s (s.modCore core f) where
  mem := rfl
  sys := rfl
  sites := rfl
  capture _ := rfl
  k := by rw [core_modCore, hk]
  w := by rw [core_modCore, hw]
  other j hj := core_modCore_ne (h := hj) ..

theorem modCtx_coreFrame (k : Nat) (f : Ctx → Ctx) : CoreFrame core s (s.modCtx k f) :=
  ⟨rfl, rfl, rfl, fun _ => rfl, rfl, rfl, fun _ _ => rfl⟩

theorem moveSwaps_coreFrame (core : Nat) : CoreFrame core s (s.moveSwaps core) := by
  have lines := (moveSwapLines_bankFrame (s.core core).swaps [] s).toCore (core := core)
  simp only [moveSwaps]
  split
  · exact BankFrame.refl.toCore
  · exact lines.trans (modCore_coreFrame (fun _ => rfl) fun _ => rfl)

theorem moveSwaps_none (h : (s.core core).swaps = []) : s.moveSwaps core = s := by simp [moveSwaps, h]

/-- A result reaches a context of a core: of the core its landings alone change. -/
structure ResultFrame (core : Nat) (s t : State) : Prop where
  frame : CoreFrame core s t
  tiles : t.tiles = s.tiles
  swaps : (t.core core).swaps = (s.core core).swaps

theorem ResultFrame.refl : ResultFrame core s s := ⟨BankFrame.refl.toCore, rfl, rfl⟩

theorem ResultFrame.trans (h : ResultFrame core s t) (h' : ResultFrame core t u) : ResultFrame core s u :=
  ⟨h.frame.trans h'.frame, h'.tiles.trans h.tiles, h'.swaps.trans h.swaps⟩

theorem modCtx_resultFrame (k : Nat) (f : Ctx → Ctx) : ResultFrame core s (s.modCtx k f) := ⟨modCtx_coreFrame k f, rfl, rfl⟩

theorem land_resultFrame (core : Nat) (ls : List Landing) :
    ResultFrame core s (s.modCore core (fun c => { c with pend := c.pend ++ ls })) :=
  ⟨modCore_coreFrame (fun _ => rfl) fun _ => rfl, rfl, by rw [core_modCore]⟩

theorem putX_resultFrame (k rank : Nat) (r : BitVec 6) (v : Word) (lat : Nat) : ResultFrame (coreOfCtx k) s (s.putX k rank r v lat) := by
  simp only [putX]
  split
  · exact .refl
  · split
    · exact modCtx_resultFrame ..
    · exact land_resultFrame ..

theorem complete_resultFrame (k : Nat) : ResultFrame (coreOfCtx k) s (s.complete k) :=
  ((land_resultFrame ..).trans (modCtx_resultFrame ..)).trans (modCtx_resultFrame ..)

theorem completeX_resultFrame (k : Nat) (d : BitVec 6) (v : Word) (lat : Nat) :
    ResultFrame (coreOfCtx k) s (s.completeX k d v lat) :=
  (putX_resultFrame ..).trans (complete_resultFrame _)

theorem coreOfCtx_ctxKey {n : Nat} (hc : core < 2 ^ 34) (hn : n < 64) : coreOfCtx (ctxKey core n) = core := by
  simp only [coreOfCtx, ctxKey, spillBase]
  omega

theorem coreOfCtx_of_mem (hc : core < 2 ^ 34) {k : Nat} (h : k ∈ s.ctxsOf core) : coreOfCtx k = core := by
  simp only [ctxsOf, List.mem_filter, List.mem_map, List.mem_range] at h
  obtain ⟨⟨n, hn, rfl⟩, -⟩ := h
  exact coreOfCtx_ctxKey hc hn

theorem endSamples_resultFrame (hc : core < 2 ^ 34) : ResultFrame core s (s.endSamples core) := by
  have ended (ks : List Nat) : (∀ k ∈ ks, coreOfCtx k = core) → ∀ s : State, ResultFrame core s
      (ks.foldl (fun s k => match (s.ctx k).wait with
        | .sample d tok due => if due ≤ s.rcOf (tileOfCore core) then s.completeX k d tok 1 else s
        | _ => s) s) := by
    induction ks with
    | nil => exact fun _ _ => .refl
    | cons k rest ih =>
      intro h s
      obtain ⟨rfl, hrest⟩ := List.forall_mem_cons.mp h
      refine ResultFrame.trans ?_ (ih hrest _)
      dsimp only
      split
      · split
        · exact completeX_resultFrame ..
        · exact .refl
      · exact .refl
  exact ended _ (fun k => coreOfCtx_of_mem hc) s

end State

section
variable (stall : Option Nat) (c : Core)

@[simp] theorem slipOp_k : (State.slipOp stall c).k = c.k := by simp only [State.slipOp]; split <;> rfl

@[simp] theorem slipOp_w : (State.slipOp stall c).w = c.w := by simp only [State.slipOp]; split <;> rfl

@[simp] theorem slipOp_swaps : (State.slipOp stall c).swaps = c.swaps := by simp only [State.slipOp]; split <;> rfl

@[simp] theorem landShared_swaps (rc : Nat) : (landShared c rc).swaps = c.swaps := rfl

end

namespace State

variable {s t u : State} {i rc : Nat}

/-- An rc at one core of a tile. -/
def tickCore (s : State) (i rc c : Nat) : State :=
  ((s.modCore (coreKey i c) (fun k => slipOp (s.tile i).stall (landShared k rc))).endSamples (coreKey i c)).moveSwaps (coreKey i c)

/-- What an rc does at some cores of a tile: landings reach their shared registers; banks are used for swaps alone. -/
structure CoresTick (i rc : Nat) (cs : List Nat) (s t : State) : Prop where
  capture : (t.tile i).capture = (s.tile i).capture
  bankUse : (∀ c ∈ cs, (s.core (coreKey i c)).swaps = []) → (t.tile i).bankUse = (s.tile i).bankUse
  k : ∀ c ∈ cs, (t.core (coreKey i c)).k = (landShared (s.core (coreKey i c)) rc).k
  w : ∀ c ∈ cs, (t.core (coreKey i c)).w = (landShared (s.core (coreKey i c)) rc).w
  other : ∀ c ∉ cs, t.core (coreKey i c) = s.core (coreKey i c)

theorem tickCore_ticks (hi : i < 2 ^ 16) {c : Nat} (hc : c < 4) : CoresTick i rc [c] s (s.tickCore i rc c) := by
  have small : coreKey i c < 2 ^ 34 := by simp only [coreKey]; omega
  let landed := s.modCore (coreKey i c) (fun k => slipOp (s.tile i).stall (landShared k rc))
  have ended : ResultFrame (coreKey i c) landed (landed.endSamples (coreKey i c)) := endSamples_resultFrame small
  have moved := ended.frame.trans (moveSwaps_coreFrame (coreKey i c))
  have here : landed.core (coreKey i c) = slipOp (s.tile i).stall (landShared (s.core (coreKey i c)) rc) := core_modCore ..
  refine ⟨moved.capture i, fun h => ?_, fun c' hc' => ?_, fun c' hc' => ?_, fun c' hc' => ?_⟩
  · have none : ((landed.endSamples (coreKey i c)).core (coreKey i c)).swaps = [] := by
      rw [ended.swaps, here, slipOp_swaps, landShared_swaps, h c (List.mem_singleton_self c)]
    rw [tickCore, moveSwaps_none none, tile, ended.tiles]
    rfl
  · rw [List.mem_singleton.mp hc']
    exact moved.k.trans (by rw [here, slipOp_k])
  · rw [List.mem_singleton.mp hc']
    exact moved.w.trans (by rw [here, slipOp_w])
  · have : coreKey i c' ≠ coreKey i c := by simpa [coreKey] using hc'
    exact (moved.other _ this).trans (core_modCore_ne (h := this) ..)

theorem CoresTick.cons {c : Nat} {cs : List Nat} (hc : c ∉ cs) (h : CoresTick i rc [c] s t) (h' : CoresTick i rc cs t u) :
    CoresTick i rc (c :: cs) s u where
  capture := h'.capture.trans h.capture
  bankUse hs := by
    obtain ⟨head, rest⟩ := List.forall_mem_cons.mp hs
    refine (h'.bankUse fun c' hc' => ?_).trans (h.bankUse (by simpa using head))
    rw [h.other c' (by rintro h; cases List.mem_singleton.mp h; exact hc hc')]
    exact rest c' hc'
  k := List.forall_mem_cons.mpr ⟨by rw [h'.other c hc, h.k c (List.mem_singleton_self c)], fun c' hc' => by
    rw [h'.k c' hc', h.other c' (by rintro h; cases List.mem_singleton.mp h; exact hc hc')]⟩
  w := List.forall_mem_cons.mpr ⟨by rw [h'.other c hc, h.w c (List.mem_singleton_self c)], fun c' hc' => by
    rw [h'.w c' hc', h.other c' (by rintro h; cases List.mem_singleton.mp h; exact hc hc')]⟩
  other c' hc' := by
    obtain ⟨hne, hmem⟩ : ¬c' = c ∧ c' ∉ cs := by simpa only [List.mem_cons, not_or] using hc'
    rw [h'.other c' hmem, h.other c' (by simpa using hne)]

theorem tickCores_ticks (hi : i < 2 ^ 16) (cs : List Nat) : cs.Nodup → (∀ c ∈ cs, c < 4) → ∀ s : State,
    CoresTick i rc cs s (cs.foldl (fun s c => s.tickCore i rc c) s) := by
  induction cs with
  | nil => exact fun _ _ _ => ⟨rfl, fun _ => rfl, nofun, nofun, fun _ _ => rfl⟩
  | cons c rest ih =>
    intro hn hc s
    obtain ⟨hnot, hrest⟩ := List.nodup_cons.mp hn
    obtain ⟨hlt, hcs⟩ := List.forall_mem_cons.mp hc
    exact (tickCore_ticks hi hlt).cons hnot (ih hrest hcs _)

/-- What an rc does to the tile of a site (R155, R178, R416). -/
structure TileTick (i rc : Nat) (s t : State) : Prop where
  capture : (t.tile i).capture = (s.tile i).capture - 1
  bankUse : (∀ c, c < 4 → (s.core (coreKey i c)).swaps = []) → (t.tile i).bankUse = []
  k : ∀ c, c < 4 → (t.core (coreKey i c)).k = (landShared (s.core (coreKey i c)) rc).k
  w : ∀ c, c < 4 → (t.core (coreKey i c)).w = (landShared (s.core (coreKey i c)) rc).w

theorem tickTile_ticks (hi : i < 2 ^ 16) : TileTick i rc s (s.tickTile i rc) := by
  let counted := s.modTile i (fun x => { x with
    bankUse := [], capture := x.capture - 1
    wd := if (match (s.tile i).crew with | some c => (s.crew c).live && (s.crew c).st == .running | none => false)
      && x.capture == 0 && !x.halted then x.wd + 1 else x.wd })
  have looked : BankFrame counted (counted.landPvr i rc) := landPvr_bankFrame i rc
  have same (j : Nat) : (counted.landPvr i rc).core j = s.core j := by rw [core, core, looked.cores]; rfl
  have here : counted.tile i = _ := tile_modTile ..
  have ticks : CoresTick i rc (List.range 4) (counted.landPvr i rc) (s.tickTile i rc) :=
    tickCores_ticks hi _ List.nodup_range (fun c => List.mem_range.mp) _
  refine ⟨?_, fun h => ?_, fun c hc => ?_, fun c hc => ?_⟩
  · rw [ticks.capture, looked.capture, here]
  · rw [ticks.bankUse fun c hc => (same _).symm ▸ h c (List.mem_range.mp hc), landPvr_bankUse, here]
  · rw [ticks.k c (List.mem_range.mpr hc), same]
  · rw [ticks.w c (List.mem_range.mpr hc), same]

/-- Memory, the system block and the sites, of which no core's rc changes anything. -/
def outside (s : State) : List Host.Cell × Sys × Tbl Site := (s.mem, s.sys, s.sites)

theorem CoreFrame.outside {core : Nat} (h : CoreFrame core s t) : t.outside = s.outside := by
  rw [State.outside, State.outside, h.mem, h.sys, h.sites]

theorem outside_eq : t.outside = s.outside ↔ t.mem = s.mem ∧ t.sys = s.sys ∧ t.sites = s.sites := by
  rw [outside, outside, Prod.mk.injEq, Prod.mk.injEq]

theorem endSamples_outside (core : Nat) : (s.endSamples core).outside = s.outside := by
  refine foldl_keeps outside _ (fun s k => ?_) _ s
  split
  · split
    · exact (completeX_resultFrame ..).frame.outside
    · rfl
  · rfl

theorem tickTile_outside (i rc : Nat) : (s.tickTile i rc).outside = s.outside := by
  refine (foldl_keeps outside (fun s c => s.tickCore i rc c) (fun s c => ?_) _ _).trans ?_
  · exact (moveSwaps_coreFrame _).outside.trans (endSamples_outside _)
  · exact ((landPvr_bankFrame i rc).toCore (core := 0)).outside

theorem clockWraps_site (site n : Nat) : (s.clockWraps site).site n
    = (s.modSite site (fun x => { x with out3 := [], outLow := [], streamAt := 0, moved := 0 })).site n := rfl

theorem clockWraps_ctr (site : Nat) : ((s.clockWraps site).site site).ctr = (s.site site).ctr := by
  rw [clockWraps_site, site_modSite]

theorem clockWraps_site_ne {site n : Nat} (h : n ≠ site) : (s.clockWraps site).site n = s.site n := by
  rw [clockWraps_site, site_modSite_ne (h := h)]

/-- The state in which a site's counter stands at its next rc (R481). -/
def clockOn (s : State) (site : Nat) : State :=
  let s := s.modSite site (fun t => { t with ctr := (t.ctr + 1) % 2 ^ 48 })
  if (s.site site).ctr = 0 then s.clockWraps site else s

/-- The counter itself is all that moves beside what it dates (R481). -/
theorem clockWraps_keeps (site : Nat) : (s.clockWraps site).mem = s.mem ∧ (s.clockWraps site).sys = s.sys
    ∧ (s.clockWraps site).rebind = s.rebind ∧ (s.clockWraps site).tiles = s.tiles ∧ (s.clockWraps site).cores = s.cores :=
  ⟨rfl, rfl, rfl, rfl, rfl⟩

theorem clockOn_keeps (site : Nat) : (s.clockOn site).mem = s.mem ∧ (s.clockOn site).sys = s.sys
    ∧ (s.clockOn site).rebind = s.rebind ∧ (s.clockOn site).tiles = s.tiles ∧ (s.clockOn site).cores = s.cores := by
  simp only [clockOn]
  split
  · exact clockWraps_keeps ..
  · simp only [modSite_mem, modSite_sys, modSite_rebind, modSite_tiles, modSite_cores, and_self]

theorem clockOn_tileAt (site n : Nat) : (s.clockOn site).tileAt n = s.tileAt n := by
  obtain ⟨-, -, bound, -, -⟩ := s.clockOn_keeps site
  rw [tileAt, tileAt, bound]

theorem clockOn_ctr (site : Nat) : ((s.clockOn site).site site).ctr = ((s.site site).ctr + 1) % 2 ^ 48 := by
  simp only [clockOn]
  split
  · rw [clockWraps_ctr, site_modSite]
  · rw [site_modSite]

theorem clockOn_site_ne {site n : Nat} (h : n ≠ site) : (s.clockOn site).site n = s.site n := by
  simp only [clockOn]
  split
  · rw [clockWraps_site_ne h, site_modSite_ne (h := h)]
  · rw [site_modSite_ne (h := h)]

end State

section
variable {s : State} {site : Nat} (hs : isSite site = true) (ha : site ≠ controlSite anchorField 0)
  (hd : (s.field (fieldOf site)).droop ≤ s.sys.rtime.toNat) (ho : s.rcOver site = true)
include hs ha hd ho

/-- The counter of a site but the anchor's moves once its rc is over, unless the field's droop keeps it (R416, R481). -/
theorem execSiteCounterTick_goes : execSiteCounterTick site s = .next (((s.tileAt site).map
    (fun i => (s.clockOn site).tickTile i (((s.site site).ctr + 1) % 2 ^ 48))).getD (s.clockOn site)) := by
  have anchor : (site == controlSite anchorField 0) = false := by simpa using ha
  have goes : ¬(!isSite site || !false && decide (s.sys.rtime.toNat < (s.field (fieldOf site)).droop) || !s.rcOver site) = true := by
    simp [hs, ho, hd]
  have tile := s.clockOn_tileAt site site
  cases h : s.tileAt site <;> rw [h] at tile
  all_goals
    simp only [State.clockOn, State.site_modSite] at tile
    simp only [execSiteCounterTick, anchor]
    rw [if_neg goes]
    simp only [Bool.false_eq_true, if_false, State.site_modSite, tile, State.clockOn, Option.map_none, Option.map_some,
      Option.getD_none, Option.getD_some]

/-- What a site's counter brings (R155, R178, R416, R481). -/
theorem siteCounterTick_brings : ∃ t, exec (.siteCounterTick site) s = .next t ∧ (t.site site).ctr = ((s.site site).ctr + 1) % 2 ^ 48
    ∧ (∀ n, n ≠ site → t.site n = s.site n) ∧ t.mem = s.mem ∧ t.sys = s.sys
    ∧ ∀ i, s.tileAt site = some i → i < 2 ^ 16 → (t.tile i).capture = (s.tile i).capture - 1
      ∧ ((∀ c, c < 4 → (s.core (coreKey i c)).swaps = []) → (t.tile i).bankUse = [])
      ∧ ∀ c, c < 4 → (t.core (coreKey i c)).k = (landShared (s.core (coreKey i c)) (t.site site).ctr).k
        ∧ (t.core (coreKey i c)).w = (landShared (s.core (coreKey i c)) (t.site site).ctr).w := by
  have ctr := s.clockOn_ctr site
  obtain ⟨mem, sys, -, tiles, cores⟩ := s.clockOn_keeps site
  rw [show exec (.siteCounterTick site) s = _ from execSiteCounterTick_goes hs ha hd ho]
  cases h : s.tileAt site with
  | none => exact ⟨_, rfl, ctr, fun n => State.clockOn_site_ne, mem, sys, nofun⟩
  | some i =>
    obtain ⟨mem', sys', sites'⟩ := State.outside_eq.mp ((s.clockOn site).tickTile_outside i (((s.site site).ctr + 1) % 2 ^ 48))
    have tick (hi : i < 2 ^ 16) := (s.clockOn site).tickTile_ticks (rc := ((s.site site).ctr + 1) % 2 ^ 48) hi
    have other (n : Nat) (hn : n ≠ site) := s.clockOn_site_ne hn
    rw [Option.map_some, Option.getD_some]
    generalize (s.clockOn site).tickTile i (((s.site site).ctr + 1) % 2 ^ 48) = t at *
    generalize s.clockOn site = u at *
    have site' (n : Nat) : t.site n = u.site n := congrArg (Tbl.get _ · n) sites'
    have core (j : Nat) : u.core j = s.core j := congrArg (Tbl.get _ · j) cores
    have tile (j : Nat) : u.tile j = s.tile j := congrArg (Tbl.get _ · j) tiles
    refine ⟨t, rfl, by rw [site', ctr], fun n hn => by rw [site', other n hn], mem'.trans mem, sys'.trans sys, fun j hj hi => ?_⟩
    cases hj
    obtain ⟨capture, bankUse, k, w⟩ := tick hi
    simp only [core, tile] at capture bankUse k w
    rw [site', ctr]
    exact ⟨capture, bankUse, fun c hc => ⟨k c hc, w c hc⟩⟩
end

end Sys2Proof.Machine
end

section
/-! The events of a core: landings, decisions, swaps, instruction lines, trap records and the VCC (R178, R179, R317, R336-R344, R362,
R392, R393, R430). -/

namespace Sys2Proof.Machine

section landing
variable {c : Core} {a b l : Landing} {rc : Nat}

/-- One landing that is due reaches its register, and one that is not stays (R178). -/
theorem landShared_one (h : c.pend = [l]) (hv : l.isVec = false) :
    Tbl.get 0 (landShared c rc).k l.reg = if l.due ≤ rc then l.val.setWidth 64 else Tbl.get 0 c.k l.reg := by
  by_cases hl : l.due ≤ rc
  · simp [landShared, h, hl, insLanding, hv, Tbl.get_set_self]
  · simp [landShared, h, hl]

/-- Two landings enter in the order of their due rc, then of their ranks, however they stand (R179). -/
theorem insLanding_two (hlt : a.due < b.due ∨ a.due = b.due ∧ a.rank < b.rank) :
    insLanding b [a] = [a, b] ∧ insLanding a [b] = [a, b] := by
  have later : ¬(b.due < a.due ∨ b.due = a.due ∧ b.rank < a.rank) := by omega
  exact ⟨by simp only [insLanding, if_neg later], by simp only [insLanding, if_pos hlt]⟩

theorem landShared_two (h : c.pend = [a, b] ∨ c.pend = [b, a]) (ha : a.isVec = false) (hb : b.isVec = false) (hb' : b.due ≤ rc)
    (hlt : a.due < b.due ∨ a.due = b.due ∧ a.rank < b.rank) :
    Tbl.get 0 (landShared c rc).k b.reg = b.val.setWidth 64 := by
  have ha' : a.due ≤ rc := by omega
  obtain ⟨ab, ba⟩ := insLanding_two hlt
  have due : (c.pend.filter (fun l => decide (l.due ≤ rc))).foldl (fun acc l => insLanding l acc) [] = [a, b] := by
    rcases h with h | h <;> simp [h, ha', hb', ab, ba, show ∀ x : Landing, insLanding x [] = [x] from fun _ => rfl]
  simp only [landShared, due, List.foldl, ha, hb, Bool.false_eq_true, if_false, Tbl.get_set_self]

end landing

section
variable {s u : State} {core : Nat}

theorem execSleepDeadline_reached {k : Nat} {d : BitVec 6} {x : Word} (h : (s.ctx k).wait = .sleep d x) (hu : (s.ctx k).used = true)
    (hx : x ≠ 0) (hd : x.toNat ≤ s.vccOf k) : execSleepDeadline k s = .next (s.completeX k d 0 2) := by
  simp only [execSleepDeadline, h]
  rw [if_pos (by simp only [hu, hd, decide_true, Bool.and_true, bne_iff_ne]; exact hx)]

/-- The scheduler decides once in an rc, by the first that applies (R337, R393). -/
theorem execSchedulerDecision_eq (core : Nat) :
    let u := s.modCore core (fun c => { c with decideAt := some (s.rcOf (tileOfCore core)) })
    if (s.core core).decideAt = some (s.rcOf (tileOfCore core)) then execSchedulerDecision core s = .next s
    else execSchedulerDecision core s = .next (((u.deliver core).or ((u.reload core).or ((u.parkOut core).or
        ((u.loggedSwap core).or ((u.rescue core).or (u.rowDecision core)))))).getD u) := by
  intro u
  split
  · next h => rw [execSchedulerDecision, if_pos (by simpa using h)]
  · next h => rw [execSchedulerDecision, if_neg (by simpa using h)]

namespace State

/-- The first row: the waiting context enters an empty slot (R337). -/
theorem rowDecision_empty {w j : Nat} (h : s.nextWaiting core s.ownMove = some w) (hj : s.emptySlot core = some j) :
    s.rowDecision core = some (s.decideSwap core j (some w) .rows) := by
  simp only [rowDecision, h, hj]

/-- The second row: it takes the place of a resident of a lower class (R337). -/
theorem rowDecision_lower {w k j : Nat} (h : s.nextWaiting core s.ownMove = some w) (he : s.emptySlot core = none)
    (hk : s.victimOf ((s.movable core).filter (fun k => decide (s.classOf k < s.classOf w))) = some k) (hj : s.slotOf k = some j) :
    s.rowDecision core = some (s.decideSwap core j (some w) .rows) := by
  simp only [rowDecision, h, he, hk, Option.bind_some, hj, Option.map_some, Option.some_or]

/-- The context put into a slot stands there (R334, R338). -/
theorem inSlot_putSlot {slot k : Nat} (hc : coreOfCtx k = core) (hk : k < spillBase) :
    (s.putSlot core slot k).inSlot core slot = some k := by
  have number : ctxKey core (k % 64) = k := by
    simp only [← hc, ctxKey, coreOfCtx, Nat.mod_eq_of_lt hk]
    omega
  simp [putSlot, inSlot, Tbl.get_set_self, number]

end State

theorem execSwapComplete_over {w : Swap} (h : (s.core core).swaps.find? (s.swapOver core) = some w) :
    let l := if s.crewed w.out || s.crewed w.inn then s.logEv (tileOfCore core) (.swap core w.slot none .done) 0 else s
    let u := l.modCore core (fun c => { c with swaps := c.swaps.erase w })
    let v := match w.out with | some o => u.saveFrame o | none => u
    execSwapComplete core s = .next (match w.inn with | some i => (v.loadFrame i).putSlot core w.slot i | none => v) := by
  obtain ⟨slot, out, inn, wr, rd, tail⟩ := w
  rw [execSwapComplete, h]
  cases inn <;> rfl

theorem execTrapRecordArrival_queued {n e : Nat} {p : Pkt} {r : TrapRec} (h : s.Arrives n p u) (hb : p.body = .trap core r)
    (he : (List.range 32).find? (fun e => (u.core core).trapq.all (fun x => x.entry.toNat != e)) = some e) :
    ∃ t, execTrapRecordArrival n s = .next t ∧ t.mem = s.mem
      ∧ (t.core core).trapq = (u.core core).trapq ++ [{ r with ctx := p.ctx, entry := BitVec.ofNat 5 e }] := by
  have mem : u.mem = s.mem := by
    obtain ⟨-, -, -, -, -, -, -, -, -, -, rfl⟩ := h
    rfl
  have counted (t : State) : (t.countCore core 32 1).mem = t.mem ∧ (t.countCore core 32 1).core core = t.core core := ⟨rfl, rfl⟩
  rw [execTrapRecordArrival, arrived_of h]
  rotate_left
  · rw [hb]
  simp only [hb, he]
  refine ⟨_, rfl, ?_, ?_⟩
  · split
    · rw [(counted _).1, State.modCore_mem, mem]
    · rw [State.modCore_mem, mem]
  · split
    · rw [(counted _).2, State.core_modCore]
    · rw [State.core_modCore]

namespace State

/-- A thread waits for a line: the address its group asked for (R317). -/
def wantsLine (s : State) (a : Word) (k : Nat) : Option Word :=
  match (s.ctx k).wait with
  | .fetch x => if lineOf x == a then some x else none
  | _ => none

theorem wantsLine_of_fetch {a x : Word} {k : Nat} (h : (s.ctx k).wait = .fetch x) (hx : lineOf x = a) : s.wantsLine a k = some x := by
  simp [wantsLine, h, hx]

theorem wantsLine_isSome {a : Word} (k : Nat) :
    (s.wantsLine a k).isSome = (match (s.ctx k).wait with | .fetch x => lineOf x == a | _ => false) := by
  cases h : (s.ctx k).wait
  case fetch x => cases hx : lineOf x == a <;> simp [wantsLine, h, hx]
  all_goals simp [wantsLine, h]

/-- A thread that waits for a line that has come goes on (R317). -/
def giveLine (s : State) (a : Word) (k : Nat) : State :=
  if (s.wantsLine a k).isSome then
    s.modCtx k (fun c => { c with wait := .none, parked := false, got := a.toNat / 64 :: c.got })
  else s

theorem giveLine_core (a : Word) (k j : Nat) : (s.giveLine a k).core j = s.core j := by
  simp only [giveLine]
  split <;> rfl

theorem giveLine_mem (a : Word) (k : Nat) : (s.giveLine a k).mem = s.mem := by
  simp only [giveLine]
  split <;> rfl

theorem giveLine_ctx_ne {a : Word} {j k : Nat} (h : j ≠ k) : (s.giveLine a k).ctx j = s.ctx j := by
  simp only [giveLine]
  split
  · exact ctx_modCtx_ne (h := h) ..
  · rfl

/-- A context that waits for nothing and is not parked. -/
def Runs (s : State) (j : Nat) : Prop := (s.ctx j).wait = .none ∧ (s.ctx j).parked = false

theorem giveLine_given {a x : Word} {j : Nat} (h : (s.ctx j).wait = .fetch x) (hx : lineOf x = a) : (s.giveLine a j).Runs j := by
  rw [giveLine, if_pos (by rw [wantsLine_of_fetch h hx]; rfl), Runs, ctx_modCtx]
  exact ⟨rfl, rfl⟩

theorem giveLine_runs {a : Word} {j : Nat} (k : Nat) (h : s.Runs j) : (s.giveLine a k).Runs j := by
  by_cases hk : j = k
  · subst hk
    have : s.wantsLine a j = none := by rw [wantsLine, h.1]
    rw [giveLine, if_neg (by rw [this]; exact Bool.false_ne_true)]
    exact h
  · rw [Runs, giveLine_ctx_ne hk]
    exact h

theorem giveLines_run {a : Word} {j : Nat} (ks : List Nat) : ∀ s : State,
    s.Runs j → (ks.foldl (fun s k => s.giveLine a k) s).Runs j := by
  induction ks with
  | nil => exact fun _ h => h
  | cons k rest ih => exact fun s h => ih _ (giveLine_runs k h)

/-- Every thread of a list that waits for the line goes on (R317). -/
theorem giveLines_given {a x : Word} {j : Nat} (hx : lineOf x = a) (ks : List Nat) : ∀ s : State,
    j ∈ ks → (s.ctx j).wait = .fetch x →
    (ks.foldl (fun s k => s.giveLine a k) s).Runs j := by
  induction ks with
  | nil => exact fun _ h => nomatch h
  | cons k rest ih =>
    intro s hj h
    by_cases hk : j = k
    · subst hk
      exact giveLines_run rest _ (giveLine_given h hx)
    · refine ih _ ((List.mem_cons.mp hj).resolve_left hk) ?_
      rw [giveLine_ctx_ne hk, h]

/-- A line that enters an instruction cache is found there (R35). -/
theorem fillLine_found (line : Nat) (l : FLine) : Tbl.find ((s.fillLine core line l).core core).ic line = some l := by
  simp only [fillLine]
  split <;> rw [core_modCore] <;> exact Tbl.find_put_self ..

theorem fillLine_keeps (line : Nat) (l : FLine) : (s.fillLine core line l).mem = s.mem ∧ (s.fillLine core line l).ctxs = s.ctxs := by
  simp only [fillLine]
  split <;> exact ⟨rfl, rfl⟩

end State

section fetch
variable {a : Word} {k : Nat}
  (hk : (s.ctxsOf core).find? (fun j => (s.wantsLine (lineOf a) j).isSome && !(s.ctx j).parked) = some k)
include hk

theorem execLineFetch_line {bs : List Byte}
    (h : s.readFar (s.gwOf (tileOfCore core)) (s.partOf k) (s.ctx k).crew (lineOf a) 64 .fetch = (.ok bs, u)) :
    execLineFetch core a s = .next (((u.fillLine core ((lineOf a).toNat / 64) (BitVec.ofNat 512 (leNat bs))).ctxsOf core).foldl
      (fun s k => s.giveLine (lineOf a) k) (u.fillLine core ((lineOf a).toNat / 64) (BitVec.ofNat 512 (leNat bs)))) := by
  simp only [execLineFetch]
  split
  · next hn => exact absurd (hk.symm.trans hn) (by simp)
  · next j hj =>
    cases hk.symm.trans hj
    rw [h]
    rfl

theorem execLineFetch_error {e : BitVec 8} {x : Word} (he : e ≠ 0x01)
    (h : s.readFar (s.gwOf (tileOfCore core)) (s.partOf k) (s.ctx k).crew (lineOf a) 64 .fetch = (.error e, u))
    (hw : (u.ctx k).wait = .fetch x) (hx : lineOf x = lineOf a) : execLineFetch core a s = .next (u.failWait k 0x14 x) := by
  simp only [execLineFetch]
  split
  · next hn => exact absurd (hk.symm.trans hn) (by simp)
  · next j hj =>
    cases hk.symm.trans hj
    rw [h]
    dsimp only
    rw [if_neg (by simpa [eNotPresent] using he)]
    simp [hw, hx, cCopy]

/-- A line that comes is in the cache, and every thread of the core that waits for it goes on (R35, R317). -/
theorem lineFetch_brings {bs : List Byte}
    (h : s.readFar (s.gwOf (tileOfCore core)) (s.partOf k) (s.ctx k).crew (lineOf a) 64 .fetch = (.ok bs, u)) :
    ∃ t, execLineFetch core a s = .next t
      ∧ Tbl.find (t.core core).ic ((lineOf a).toNat / 64) = some (BitVec.ofNat 512 (leNat bs)) ∧ t.mem = u.mem
      ∧ ∀ j ∈ u.ctxsOf core, ∀ x, (u.ctx j).wait = .fetch x → lineOf x = lineOf a →
        (t.ctx j).wait = .none ∧ (t.ctx j).parked = false := by
  refine ⟨_, execLineFetch_line hk h, ?_, ?_, fun j hj x hw hx => ?_⟩
  · have kept := foldl_keeps (fun s => s.core core) (fun s k => s.giveLine (lineOf a) k) (fun s k => s.giveLine_core _ k core)
    rw [kept]
    exact State.fillLine_found ..
  · have kept := foldl_keeps State.mem (fun s k => s.giveLine (lineOf a) k) (fun s k => s.giveLine_mem _ k)
    rw [kept]
    exact (State.fillLine_keeps ..).1
  · have filled := (u.fillLine_keeps (core := core) ((lineOf a).toNat / 64) (BitVec.ofNat 512 (leNat bs))).2
    refine State.giveLines_given hx _ _ ?_ ?_
    · simpa only [State.ctxsOf, State.ctx_of_ctxs filled] using hj
    · rw [State.ctx_of_ctxs filled, hw]

end fetch

end

section vcc
variable {s : State} {tile c : Nat}

namespace State

/-- A tile that does not replay applies nothing of its log and waits for nothing of it (R430). -/
theorem replayTile_of_not (h : s.replaying tile = false) : s.replayTile tile = s := by
  rw [replayTile]
  split
  · rfl
  · rw [if_neg (by simp [h])]

theorem redoWaits_of_not (h : s.replaying tile = false) : s.redoWaits tile = false := by rw [redoWaits, h, Bool.false_and]

/-- A replay ends at a vc, and does not begin again at a later one (R431). -/
theorem replaying_modTile {f : Tile → Tile} (hw : (f (s.tile tile)).crew = (s.tile tile).crew)
    (hv : (s.tile tile).vcc ≤ (f (s.tile tile)).vcc) (h : s.replaying tile = false) : (s.modTile tile f).replaying tile = false := by
  revert h
  simp only [replaying, tile_modTile, hw, crew_modTile]
  cases (s.tile tile).crew with
  | none => exact id
  | some w =>
    dsimp only
    cases (s.crew w).replayTo with
    | none => exact id
    | some n =>
      simp only [decide_eq_false_iff_not, Nat.not_lt]
      omega

/-- A cut that is asked for early enters the schedule and the log of a crew (R415, R423). -/
theorem earlyBelay_keeps (c : Nat) : ((s.earlyBelay c).tiles, (s.earlyBelay c).mem) = (s.tiles, s.mem) := by
  simp only [earlyBelay]
  split
  · rfl
  · simp only [scheduleCut]
    split
    · rfl
    · simp only [logCut, enterCut, modSite_tiles, modSite_mem, modCrew_tiles, modCrew_mem]

theorem earlyCheck_keeps : (s.earlyCheck tile).tiles = s.tiles ∧ (s.earlyCheck tile).mem = s.mem := by
  rw [← Prod.mk.injEq, earlyCheck]
  dsimp only
  split
  · rfl
  · refine foldl_keeps (fun s => (s.tiles, s.mem)) _ (fun s c => ?_) _ s
    split
    · exact earlyBelay_keeps c
    · rfl

end State

section
variable (hc : (s.tile tile).crew = some c) (hr : s.replaying tile = false)
include hc hr

theorem execVccTick_halts (hm : mustHalt (s.crew c) (s.tile tile).vcc = true) : execVccTick tile s
    = .next (s.modTile tile (fun i => { i with halted := i.halted || (s.crew c).st == .running })) := by
  simp only [execVccTick, hc, State.replayTile_of_not hr, hm, if_true]

theorem execVccTick_stands (hm : mustHalt (s.crew c) (s.tile tile).vcc = false)
    (h : s.slacks tile = true ∨ s.vcWork tile = true ∨ s.turnsOver tile = false ∨ (s.tile tile).vccAt = some (s.rcOf tile)) :
    execVccTick tile s = .next s := by
  have held : (s.slacks tile || s.vcWork tile || s.redoWaits tile || !s.turnsOver tile
      || (s.tile tile).vccAt == some (s.rcOf tile)) = true := by
    rcases h with h | h | h | h <;> simp [h]
  simp only [execVccTick, hc, State.replayTile_of_not hr, hm, Bool.false_eq_true, if_false, held, if_true]

theorem vccTick_advances (hm : mustHalt (s.crew c) (s.tile tile).vcc = false) (hs : s.slacks tile = false)
    (hw : s.vcWork tile = false) (ho : s.turnsOver tile = true) (ha : (s.tile tile).vccAt ≠ some (s.rcOf tile)) :
    ∃ t, execVccTick tile s = .next t ∧ (t.tile tile).vcc = (s.tile tile).vcc + 1 ∧ (∀ j, j ≠ tile → t.tile j = s.tile j)
      ∧ t.mem = s.mem := by
  have goes : ¬(s.slacks tile || s.vcWork tile || s.redoWaits tile || !s.turnsOver tile
      || (s.tile tile).vccAt == some (s.rcOf tile)) = true := by
    simp [hs, hw, ho, ha, State.redoWaits_of_not hr]
  simp only [execVccTick, hc, State.replayTile_of_not hr, hm, Bool.false_eq_true, if_false]
  rw [if_neg goes, State.replayTile_of_not (State.replaying_modTile ?_ ?_ hr)]
  rotate_left
  · rfl
  · exact Nat.le_succ _
  refine ⟨_, rfl, ?_, fun j hj => ?_, ?_⟩
  · rw [State.tile, State.earlyCheck_keeps.1, ← State.tile, State.tile_modTile]
  · rw [State.tile, State.earlyCheck_keeps.1]
    exact State.tile_modTile_ne (h := hj) ..
  · exact State.earlyCheck_keeps.2

end

/-- A task whose VCC would overflow ends with a fault: the first is kept (R344, R349). -/
theorem vccOverflow_faults (hl : (s.crew c).live = true) (hs : (s.crew c).st = .running) (ht : tile ∈ s.crewTiles c)
    (hv : 2 ^ 48 - 1 ≤ (s.tile tile).vcc) :
    ∃ u, execVccOverflow c s = .next u ∧ (u.crew c).st = .ending ∧ (u.crew c).dyn.flt.n = (s.crew c).dyn.flt.n + 1
      ∧ ((s.crew c).dyn.flt.n = 0 → (u.crew c).dyn.flt.cause = 0x0B) := by
  have overflows : (s.crewTiles c).any (fun t => decide (2 ^ 48 - 1 ≤ (s.tile t).vcc)) = true :=
    List.any_eq_true.mpr ⟨tile, ht, decide_eq_true hv⟩
  refine ⟨s.failCrew c cTiming 0 0, ?_, ?_⟩
  · rw [execVccOverflow, if_pos (by rw [hl, hs, overflows]; rfl)]
  · rw [State.failCrew, State.crew_modCrew, State.taskFault, State.crew_modCrew]
    by_cases hn : (s.crew c).dyn.flt.n = 0
    · simp [hn, cTiming]
    · simp [hn]

end vcc

/-- Settles O41, event by event. -/
theorem coreEvents : Obligations.CoreEvents := by
  intro s
  refine ⟨fun site => siteCounterTick_brings, fun c l rc => landShared_one, fun c a b rc h ha hb _ => landShared_two h ha hb,
    fun k d x => execSleepDeadline_reached, execSchedulerDecision_eq, fun core w h => ⟨fun j => State.rowDecision_empty h,
      fun he k j => State.rowDecision_lower h he⟩, fun core w => execSwapComplete_over, fun core slot k => State.inSlot_putSlot,
    fun core a k hk => ?_, fun n p u core r e => execTrapRecordArrival_queued, fun tile c hc hr =>
      ⟨execVccTick_halts hc hr, execVccTick_stands hc hr, vccTick_advances hc hr⟩, fun c t => vccOverflow_faults⟩
  have wants : (s.ctxsOf core).find? (fun j => (s.wantsLine (lineOf a) j).isSome && !(s.ctx j).parked) = some k := by
    simp only [State.wantsLine_isSome]
    exact hk
  exact ⟨fun bs u => lineFetch_brings wants, fun e u x h he => execLineFetch_error wants he h⟩

end Sys2Proof.Machine
end

section
/-! What touches no memory. The invariant of memory (R26) speaks of a state's store: its memory, and the memory of a deep-belay image
(R434). One rule for each operation that leaves the store as it is; an operation with an option for its answer has the rule for the state
it answers. A proof `(rfl)` stands in parentheses so that `simp` takes the rule as a rewriting rule like the others. -/

namespace Sys2Proof.Machine

/-- What the invariant of memory speaks of: memory, and the deep-belay image where there is one. -/
def State.store (s : State) : List Host.Cell × Option Deep := (s.mem, s.deep)
@[simp] theorem State.store_ite (c : Prop) [Decidable c] (s t : State) :
    (if c then s else t).store = if c then s.store else t.store := by split <;> rfl
@[simp] theorem State.foldl_store {α : Type} (f : State → α → State) (h : ∀ s a, (f s a).store = s.store) (l : List α)
    (s : State) : (l.foldl f s).store = s.store := foldl_keeps State.store f h l s
@[simp] theorem State.store_with (a b c d m e f g h i j k l n o p q r t u v w x y z aa bb cc) :
    State.store ⟨a, b, c, d, m, e, f, g, h, i, j, k, l, n, o, p, q, r, t, u, v, w, x, y, z, aa, bb, cc⟩ = (m, cc) := (rfl)
@[simp] theorem State.store_fold (s : State) : (s.mem, s.deep) = s.store := (rfl)
@[simp] theorem State.setCore_store (s : State) (k : Nat) (c : Core) : (s.setCore k c).store = s.store := (rfl)
@[simp] theorem State.modCore_store (s : State) (k : Nat) (f : Core → Core) : (s.modCore k f).store = s.store := (rfl)
@[simp] theorem State.setCtx_store (s : State) (k : Nat) (c : Ctx) : (s.setCtx k c).store = s.store := (rfl)
@[simp] theorem State.modCtx_store (s : State) (k : Nat) (f : Ctx → Ctx) : (s.modCtx k f).store = s.store := (rfl)
@[simp] theorem State.failWait_store (s : State) (k : Nat) (cause : BitVec 8) (eaddr : Word) :
    (s.failWait k cause eaddr).store = s.store := (rfl)
@[simp] theorem State.putX_store (s : State) (k rank : Nat) (r : BitVec 6) (v : Word) (lat : Nat) :
    (s.putX k rank r v lat).store = s.store := by simp [State.putX]
@[simp] theorem State.landLate_store (s : State) (k : Nat) : (s.landLate k).store = s.store := (rfl)
@[simp] theorem State.complete_store (s : State) (k : Nat) : (s.complete k).store = s.store := (rfl)
@[simp] theorem State.completeX_store (s : State) (k : Nat) (d : BitVec 6) (v : Word) (lat : Nat) :
    (s.completeX k d v lat).store = s.store := by simp [State.completeX]
@[simp] theorem State.setSite_store (s : State) (k : Nat) (t : Site) : (s.setSite k t).store = s.store := (rfl)
@[simp] theorem State.modSite_store (s : State) (k : Nat) (f : Site → Site) : (s.modSite k f).store = s.store := (rfl)
@[simp] theorem State.setCrew_store (s : State) (k : Nat) (c : Crew) : (s.setCrew k c).store = s.store := (rfl)
@[simp] theorem State.modCrew_store (s : State) (k : Nat) (f : Crew → Crew) : (s.modCrew k f).store = s.store := (rfl)

@[simp] theorem State.logEv_store (s : State) (tile : Nat) (ev : LogEv) (bytes : Nat) :
    (s.logEv tile ev bytes).store = s.store := by
  simp only [State.logEv]
  (repeat' split) <;> simp

@[simp] theorem State.setTile_store (s : State) (k : Nat) (t : Tile) : (s.setTile k t).store = s.store := (rfl)
@[simp] theorem State.modTile_store (s : State) (k : Nat) (f : Tile → Tile) : (s.modTile k f).store = s.store := (rfl)
@[simp] theorem State.modTiles_store (s : State) (crew : Nat) (f : Tile → Tile) : (s.modTiles crew f).store = s.store := by
  simp [State.modTiles]

@[simp] theorem State.refreshView_store (s : State) (crew : Nat) : (s.refreshView crew).store = s.store := by
  simp only [State.refreshView]
  split <;> simp

theorem State.arrived_store (s : State) (n : Nat) (p : Body → Bool) {r} (h : s.arrived n p = some r) :
    r.2.store = s.store := by
  simp only [State.arrived] at h
  split at h
  · cases h
  · split at h
    · cases h; simp
    · cases h

@[simp] theorem State.sendTo_store (s : State) (srcTile dstSite lane ctx stream : Nat) (body : Body) :
    (s.sendTo srcTile dstSite lane ctx stream body).store = s.store := (rfl)
@[simp] theorem State.send_store (s : State) (srcTile dstTile lane ctx stream : Nat) (body : Body) :
    (s.send srcTile dstTile lane ctx stream body).store = s.store := (rfl)
@[simp] theorem State.replyTo_store (s : State) (t : Nat) (h : MsgHdr) (b : Body) : (s.replyTo t h b).store = s.store := by
  simp [State.replyTo]
@[simp] theorem State.setField_store (s : State) (k : Nat) (f : Fld) : (s.setField k f).store = s.store := (rfl)

@[simp] theorem State.gradeSite_store (s : State) (site : Nat) (c : BitVec 2) : (s.gradeSite site c).store = s.store := by
  simp only [State.gradeSite]
  (repeat' split) <;> simp

@[simp] theorem State.writeService_store (s : State) (site off : Nat) (v : Word) :
    (s.writeService site off v).store = s.store := by simp [State.writeService]
@[simp] theorem State.modSys_store (s : State) (f : Sys → Sys) : (s.modSys f).store = s.store := (rfl)
@[simp] theorem State.goBoot_store (s : State) : s.goBoot.store = s.store := (rfl)
@[simp] theorem State.cancelBoot_store (s : State) : s.cancelBoot.store = s.store := (rfl)
@[simp] theorem State.setSlot_store (s : State) (i : BitVec 1) (x : Slot) : (s.setSlot i x).store = s.store := (rfl)

@[simp] theorem State.recoverBoot_store (s : State) (v : Word) : (s.recoverBoot v).store = s.store := by
  simp only [State.recoverBoot]
  split <;> simp

@[simp] theorem State.writeQboot_store (s : State) (v : Word) : (s.writeQboot v).store = s.store := by
  simp [State.writeQboot]
@[simp] theorem State.modTrust_store (s : State) (f : Trust → Trust) : (s.modTrust f).store = s.store := (rfl)
@[simp] theorem State.trustStart_store (s : State) (v : Word) : (s.trustStart v).store = s.store := by
  simp [State.trustStart]
@[simp] theorem State.setPart_store (s : State) (k : Nat) (p : Part) : (s.setPart k p).store = s.store := (rfl)
@[simp] theorem State.post_store (s : State) (part : Nat) (b : Block) : (s.post part b).2.store = s.store := (rfl)

@[simp] theorem State.recordIn_store (s : State) (f : Nat) (kind cause : BitVec 8) (site : Nat) (core unit : BitVec 8)
    (sub : Nat) (detail : Word) :
    (s.recordIn f kind cause site core unit sub detail).store = s.store := (rfl)

@[simp] theorem State.errorRecord_store (s : State) (kind cause : BitVec 8) (site : Nat) (core unit : BitVec 8) (sub : Nat)
    (detail : Word) :
    (s.errorRecord kind cause site core unit sub detail).store = s.store := (rfl)

@[simp] theorem State.setHome_store (s : State) (k : Nat) (h : Home) : (s.setHome k h).store = s.store := (rfl)
@[simp] theorem State.countRow_store (s : State) (h pa : Nat) : (s.countRow h pa).store = s.store := (rfl)

@[simp] theorem State.heat_store (s : State) (h pa n field : Nat) : (s.heat h pa n field).store = s.store := by
  simp only [State.heat]
  split <;> simp

@[simp] theorem State.setGw_store (s : State) (k : Nat) (g : Gw) : (s.setGw k g).store = s.store := (rfl)
@[simp] theorem State.installLeaf_store (s : State) (field : Nat) (l : Leaf) : (s.installLeaf field l).store = s.store :=
  (rfl)
@[simp] theorem State.tryLeaf_store (s : State) (field : Nat) (l : Leaf) (acc : Acc) (weight : Bool) :
    (s.tryLeaf field l acc weight).2.store = s.store := (rfl)

@[simp] theorem State.translate_store (s : State) (field part va : Nat) (acc : Acc) (weight : Bool) :
    (s.translate field part va acc weight).2.store = s.store := by
  simp only [State.translate]
  (repeat' split) <;> simp

@[simp] theorem State.setHost_store (s : State) (k : Nat) (h : HostFn) : (s.setHost k h).store = s.store := (rfl)
@[simp] theorem State.modHost_store (s : State) (fn : Nat) (f : HostFn → HostFn) : (s.modHost fn f).store = s.store := (rfl)
@[simp] theorem State.hostResult_store (s : State) (fn : Nat) (stat err : BitVec 8) (task : BitVec 32) :
    (s.hostResult fn stat err task).store = s.store := (rfl)

@[simp] theorem State.walkPeer_store (s : State) (fuel part va level : Nat) :
    (s.walkPeer fuel part va level).2.store = s.store := by
  induction fuel generalizing s level with
  | zero => simp [State.walkPeer]
  | succ fuel ih => simp only [State.walkPeer]; split <;> simp [ih]

@[simp] theorem State.translatePeer_store (s : State) (field part wafer va : Nat) (acc : Acc) :
    (s.translatePeer field part wafer va acc).2.store = s.store := by
  grind [State.translatePeer, State.walkPeer_store, State.tryLeaf_store]

@[simp] theorem State.publLeaf_store (s : State) (field part : Nat) (a : Word) :
    (s.publLeaf field part a).2.store = s.store := by
  simp only [State.publLeaf]
  (repeat' split) <;> simp

@[simp] theorem State.writeHbeat_store (s : State) (site : Nat) : (s.writeHbeat site).store = s.store := by
  simp [State.writeHbeat]
@[simp] theorem State.raiseIrq_store (s : State) (v : Word) : (s.raiseIrq v).store = s.store := (rfl)
@[simp] theorem State.writeBelay_store (s : State) (off : Nat) (v : Word) (fw : Bool) :
    (s.writeBelay off v fw).store = s.store := by simp [State.writeBelay]
@[simp] theorem State.writeTrapBlk_store (s : State) (t off : Nat) (v : Word) :
    (s.writeTrapBlk t off v).store = s.store := by simp [State.writeTrapBlk]
@[simp] theorem State.modSetTiles_store (s : State) (v : Nat) (f : Tile → Tile) : (s.modSetTiles v f).store = s.store := by
  simp [State.modSetTiles]
@[simp] theorem State.setVset_store (s : State) (k : Nat) (v : VSet) : (s.setVset k v).store = s.store := (rfl)
@[simp] theorem State.writeVer_store (s : State) (v w : Nat) (x : Word) : (s.writeVer v w x).store = s.store := by
  simp [State.writeVer]
@[simp] theorem State.markDirty_store (s : State) (site bank off n : Nat) : (s.markDirty site bank off n).store = s.store :=
  (rfl)

@[simp] theorem State.farAnswer_store (s : State) (site : Nat) (r : FarReq) (err : BitVec 8) (data : List Byte)
    (logged : Bool) :
    (s.farAnswer site r err data logged).store = s.store := (rfl)

@[simp] theorem State.modPkt_store (s : State) (id : Nat) (f : Pkt → Pkt) : (s.modPkt id f).store = s.store := (rfl)
@[simp] theorem State.movePkt_store (s : State) (id site : Nat) : (s.movePkt id site).store = s.store := (rfl)

@[simp] theorem State.drawSeq_store (s : State) (r : FarReq) (key : Nat) : (s.drawSeq r key).2.store = s.store := by
  simp only [State.drawSeq]
  (repeat' split) <;> simp

@[simp] theorem State.sendFar_store (s : State) (k : Nat) (a : Word) (kind : FarKind) (outId : Option Nat) :
    (s.sendFar k a kind outId).store = s.store := by simp [State.sendFar]
@[simp] theorem State.addOut_store (s : State) (k : Nat) (kind : OutKind) (left : Nat) :
    (s.addOut k kind left).2.store = s.store := (rfl)

@[simp] theorem State.sendKnot_store (s : State) (k : Nat) (p : Place) (op : KnotOp) :
    (s.sendKnot k p op).store = s.store := by
  simp only [State.sendKnot]
  split <;> simp

@[simp] theorem State.waitKnot_store (s : State) (k : Nat) (w : Wait) : (s.waitKnot k w).store = s.store := (rfl)
@[simp] theorem State.putSlot_store (s : State) (core slot k : Nat) : (s.putSlot core slot k).store = s.store := (rfl)

@[simp] theorem State.addCtx_store (s : State) (core num : Nat) (slot : Option Nat) (c : Ctx) :
    (s.addCtx core num slot c).store = s.store := by
  simp only [State.addCtx]
  split <;> simp

@[simp] theorem State.settleClose_store (s : State) (crew : Nat) : (s.settleClose crew).store = s.store := by
  simp only [State.settleClose]
  (repeat' split) <;> simp

@[simp] theorem State.arriveCore_store (s : State) (crew core vc : Nat) (timed : Bool) :
    (s.arriveCore crew core vc timed).store = s.store := by simp [State.arriveCore]
@[simp] theorem State.modDyn_store (s : State) (crew : Nat) (f : CrewDyn → CrewDyn) : (s.modDyn crew f).store = s.store :=
  (rfl)

@[simp] theorem State.deal_store (s : State) (crew q slot : Nat) : (s.deal crew q slot).store = s.store := by
  simp only [State.deal]
  (repeat' split) <;> simp

@[simp] theorem State.dealFrom_store (s : State) (crew : Nat) (x : Nat × Nat) : (s.dealFrom crew x).store = s.store := by
  simp [State.dealFrom]

@[simp] theorem State.dealWaiting_store (s : State) (core : Nat) : (s.dealWaiting core).store = s.store := by
  simp only [State.dealWaiting]
  (repeat' split) <;> simp

@[simp] theorem State.putP_store (s : State) (k : Nat) (p : BitVec 3) (v : Bool) : (s.putP k p v).store = s.store := by
  simp [State.putP]
@[simp] theorem State.takeExit_store (s : State) (k core slot : Nat) (d : BitVec 6) (p : BitVec 3) :
    (s.takeExit k core slot d p).store = s.store := by simp [State.takeExit]

@[simp] theorem State.wakeReap_store (s : State) (core slot : Nat) : (s.wakeReap core slot).store = s.store := by
  simp only [State.wakeReap]
  (repeat' split) <;> simp

@[simp] theorem State.clearSlot_store (s : State) (core slot : Nat) : (s.clearSlot core slot).store = s.store := (rfl)
@[simp] theorem State.setExit_store (s : State) (core slot : Nat) (v : Word) : (s.setExit core slot v).store = s.store :=
  (rfl)
@[simp] theorem State.dropWatches_store (s : State) (k : Nat) : (s.dropWatches k).store = s.store := (rfl)

@[simp] theorem State.leaveResv_store (s : State) (l : Loc) (k : Nat) : (s.leaveResv l k).store = s.store := by
  simp only [State.leaveResv]
  (repeat' split) <;> simp

@[simp] theorem State.leaveAll_store (s : State) (k : Nat) : (s.leaveAll k).store = s.store := by simp [State.leaveAll]
@[simp] theorem State.countCore_store (s : State) (core lo k : Nat) : (s.countCore core lo k).store = s.store := by
  simp [State.countCore]

@[simp] theorem State.retire_store (s : State) (k : Nat) (exit : Word) : (s.retire k exit).store = s.store := by
  simp only [State.retire]
  (repeat' split) <;> simp

@[simp] theorem State.knotFault_store (s : State) (k : Nat) (cause : BitVec 8) (a : Word) :
    (s.knotFault k cause a).store = s.store := (rfl)
@[simp] theorem State.reissue_store (s : State) (k : Nat) : (s.reissue k).store = s.store := (rfl)
@[simp] theorem State.dropParked_store (s : State) (k : Nat) : (s.dropParked k).store = s.store := (rfl)

@[simp] theorem State.pendFault_store (s : State) (k : Nat) (cause : BitVec 8) (eaddr : Word) (asyn : Bool) :
    (s.pendFault k cause eaddr asyn).store = s.store :=
  (State.modCtx_store ..).trans (by split <;> simp)

@[simp] theorem State.taskFault_store (s : State) (crew : Nat) (cause err : BitVec 8) (addr : Word) (core slot : Nat)
    (unit : BitVec 24) :
    (s.taskFault crew cause err addr core slot unit).store = s.store := (rfl)

@[simp] theorem State.looseError_store (s : State) (r : FarReq) (err : BitVec 8) : (s.looseError r err).store = s.store := by
  simp only [State.looseError]
  split <;> simp

@[simp] theorem State.modRun_store (s : State) (core id : Nat) (f : Run → Run) : (s.modRun core id f).store = s.store :=
  (rfl)

@[simp] theorem State.sendArrive_store (s : State) (srcTile ctx : Nat) (bar : Bar) (n : Nat) (tag : BitVec 16)
    (err : BitVec 8) (a : Word) :
    (s.sendArrive srcTile ctx bar n tag err a).store = s.store := by
  simp only [State.sendArrive]
  split <;> simp

@[simp] theorem State.cmdArrive_store (s : State) (c : Cmd) (n : Nat) (err : BitVec 8) (a : Word) :
    (s.cmdArrive c n err a).store = s.store := by simp [State.cmdArrive]

@[simp] theorem State.delivered_store (s : State) (core id n : Nat) : (s.delivered core id n).store = s.store := by
  simp only [State.delivered]
  split <;> simp

@[simp] theorem State.failRun_store (s : State) (core id : Nat) (err : BitVec 8) (a : Word) :
    (s.failRun core id err a).store = s.store := (rfl)
@[simp] theorem State.dropRedo_store (s : State) (crew : Nat) (p : LogEv → Bool) : (s.dropRedo crew p).store = s.store :=
  (rfl)

@[simp] theorem State.loggedData_store (s : State) (r : FarReq) (data : List Byte) (logged : Bool) :
    (s.loggedData r data logged).2.store = s.store := by
  simp only [State.loggedData]
  (repeat' split) <;> simp

@[simp] theorem State.ackOut_store (s : State) (core id : Nat) : (s.ackOut core id).store = s.store := (rfl)
@[simp] theorem State.gwInv_store (s : State) (field : Nat) (v : Word) : (s.gwInv field v).store = s.store := (rfl)
@[simp] theorem State.answer_store (s : State) (p : Pkt) (t : Nat) (b : Body) : (s.answer p t b).store = s.store := (rfl)
@[simp] theorem State.renumber_store (s : State) (k k' : Nat) : (s.renumber k k').store = s.store := (rfl)
@[simp] theorem State.hopLeave_store (s : State) (k target core : Nat) (np : Bool) :
    (s.hopLeave k target core np).store = s.store := (rfl)
@[simp] theorem State.logWake_store (s : State) (k : Nat) (code : BitVec 6) : (s.logWake k code).store = s.store := by
  simp [State.logWake]
@[simp] theorem State.setEnt_store (s : State) (core e : Nat) (m : BitVec 16) : (s.setEnt core e m).store = s.store := (rfl)

@[simp] theorem State.leaveEntry_store (s : State) (t b : Nat) : (s.leaveEntry t b).store = s.store := by
  simp only [State.leaveEntry]
  split <;> simp

@[simp] theorem State.setRow_store (s : State) (t b : Nat) (r : BitVec 16) : (s.setRow t b r).store = s.store := (rfl)
@[simp] theorem State.clearHolder_store (s : State) (t b : Nat) : (s.clearHolder t b).store = s.store := by
  simp [State.clearHolder]

@[simp] theorem State.freeEntryOf_store (s : State) (core e : Nat) : (s.freeEntryOf core e).store = s.store := by
  simp only [State.freeEntryOf]
  split <;> simp

@[simp] theorem State.setHolder_store (s : State) (t b holder ent : Nat) : (s.setHolder t b holder ent).store = s.store := by
  simp [State.setHolder]
@[simp] theorem State.attachHome_store (s : State) (core e b : Nat) : (s.attachHome core e b).store = s.store := by
  simp [State.attachHome]
@[simp] theorem State.barWrite_store (s : State) (fn off : Nat) (v : Word) : (s.barWrite fn off v).store = s.store := by
  simp [State.barWrite]
@[simp] theorem State.spdmAnswer_store (s : State) (fn need next : Nat) (ans : SpdmAns) :
    (s.spdmAnswer fn need next ans).store = s.store := by simp [State.spdmAnswer]
@[simp] theorem State.trustOut_store (s : State) (res : BitVec 8) (val : BitVec 32) : (s.trustOut res val).store = s.store :=
  (rfl)
@[simp] theorem State.hostErr_store (s : State) (fn : Nat) (err : BitVec 8) (off : Nat) :
    (s.hostErr fn err off).store = s.store := (rfl)
@[simp] theorem State.setChan_store (s : State) (core c : Nat) (f : Chan → Chan) : (s.setChan core c f).store = s.store :=
  (rfl)
@[simp] theorem State.endSend_store (s : State) (t : Nat) (r : Retx) (err : BitVec 8) :
    (s.endSend t r err).store = s.store := by simp [State.endSend]
@[simp] theorem State.unfence_store (s : State) (site : Nat) : (s.unfence site).store = s.store := by
  simp [State.unfence]
@[simp] theorem State.setRefs_store (s : State) (crew v : Nat) (slots : List Nat) :
    (s.setRefs crew v slots).store = s.store := (rfl)

@[simp] theorem State.updateRefs_store (s : State) (crew : Nat) : (s.updateRefs crew).store = s.store := by
  simp only [State.updateRefs]
  split <;> simp

@[simp] theorem State.dropStaging_store (s : State) (t : Nat) : (s.dropStaging t).store = s.store := (rfl)
@[simp] theorem State.failCut_store (s : State) (crew : Nat) : (s.failCut crew).store = s.store := by
  simp [State.failCut]
@[simp] theorem State.bindTile_store (s : State) (t site : Nat) : (s.bindTile t site).store = s.store := (rfl)

@[simp] theorem State.bindSpare_store (s : State) (t : Nat) : (s.bindSpare t).store = s.store := by
  delta State.bindSpare
  dsimp only
  (repeat' split) <;> simp

@[simp] theorem State.stageNow_store (s : State) : s.stageNow.store = s.store := (rfl)
@[simp] theorem State.startTest_store (s : State) (f : Nat) (failed : List Nat) :
    (s.startTest f failed).store = s.store := by simp [State.startTest]

@[simp] theorem State.markAt_store (s : State) (v crew : Nat) (pnd : BitVec 2) (n : BitVec 16) (vc : Nat) :
    (s.markAt v crew pnd n vc).2.store = s.store := by
  simp only [State.markAt]
  (repeat' split) <;> simp

@[simp] theorem State.lookTile_store (s : State) (t : Nat) : (s.lookTile t).store = s.store := (rfl)
@[simp] theorem State.lookSet_store (s : State) (v : Nat) : (s.lookSet v).store = s.store := by simp [State.lookSet]
@[simp] theorem State.applyMarks_store (s : State) (crew v before : Nat) : (s.applyMarks crew v before).store = s.store := by
  simp [State.applyMarks]

@[simp] theorem State.homeReply_store (s : State) (p : Pkt) (crew : Nat) (ctx : Option Nat) (op : VerOp) (v : Word)
    (ok : Bool) :
    (s.homeReply p crew ctx op v ok).store = s.store := (rfl)

@[simp] theorem State.setLogShare_store (s : State) (crew t : Nat) : (s.setLogShare crew t).store = s.store := (rfl)
@[simp] theorem State.deepCrew_store (s : State) (d : Deep) (crew : Nat) (w : Crew) :
    (s.deepCrew d crew w).store = s.store := by simp [State.deepCrew]
@[simp] theorem State.unhalt_store (s : State) (crew : Nat) : (s.unhalt crew).store = s.store := by simp [State.unhalt]

@[simp] theorem State.pairUp_store (s : State) (fuel : Nat) (ts : List Nat) : (s.pairUp fuel ts).store = s.store := by
  induction fuel generalizing s ts with
  | zero => simp [State.pairUp]
  | succ fuel ih =>
    cases ts with
    | nil => simp [State.pairUp]
    | cons t rest => simp only [State.pairUp]; split <;> simp [ih]

@[simp] theorem State.endBlay_store (s : State) (crew lo v : Nat) : (s.endBlay crew lo v).store = s.store := by
  refine State.foldl_store _ (fun s k => ?_) ..
  split
  · simp
  · rfl

@[simp] theorem State.switchElastic_store (s : State) (crew : Nat) : (s.switchElastic crew).store = s.store := by
  simp [State.switchElastic]
@[simp] theorem State.arriveEmpty_store (s : State) (crew : Nat) : (s.arriveEmpty crew).store = s.store := by
  simp [State.arriveEmpty]
@[simp] theorem State.clearMarks_store (s : State) (crew v since : Nat) : (s.clearMarks crew v since).store = s.store :=
  (rfl)

@[simp] theorem State.restoreRecords_store (s : State) (t : Nat) : (s.restoreRecords t).store = s.store := by
  simp only [State.restoreRecords]
  split <;> simp

@[simp] theorem State.withdraw_store (s : State) (crew : Nat) : (s.withdraw crew).store = s.store := (rfl)
@[simp] theorem State.loseCrew_store (s : State) (crew : Nat) (cause : BitVec 8) (tile : Nat) :
    (s.loseCrew crew cause tile).store = s.store := (rfl)

@[simp] theorem State.stripCrew_store (s : State) (crew : Nat) : (s.stripCrew crew).store = s.store := by
  simp only [State.stripCrew, State.modCrew_store, State.store_with, State.store_fold, State.modTiles_store]
  rw [State.foldl_store _ fun s c => by simp]
  refine State.foldl_store _ (fun s k => ?_) ..
  split <;> simp

@[simp] theorem State.commitNotices_store (s : State) (crew : Nat) (cut : Cut) :
    (s.commitNotices crew cut).store = s.store := by
  simp only [State.commitNotices]
  split <;> simp

@[simp] theorem State.finishCut_store (s : State) (crew : Nat) (cut : Cut) : (s.finishCut crew cut).store = s.store := by
  simp [State.finishCut]
@[simp] theorem State.moveTile_store (s : State) (t spare : Nat) : (s.moveTile t spare).store = s.store := (rfl)
@[simp] theorem State.markRetire_store (s : State) : s.markRetire.store = s.store := (rfl)
@[simp] theorem State.spliceRecords_store (s : State) (site : Nat) (steps : List Nat) :
    (s.spliceRecords site steps).store = s.store := by simp [State.spliceRecords]
@[simp] theorem State.fenceSite_store (s : State) (site : Nat) : (s.fenceSite site).store = s.store := by
  simp [State.fenceSite]

@[simp] theorem State.freezeCrew_store (s : State) (crew : Option Nat) : (s.freezeCrew crew).store = s.store := by
  simp only [State.freezeCrew]
  split <;> simp

@[simp] theorem State.raiseCheck_store (s : State) (site : Nat) (cause : MCause) :
    (s.raiseCheck site cause).store = s.store := by simp [State.raiseCheck]
@[simp] theorem State.enterCut_store (s : State) (crew c : Nat) : (s.enterCut crew c).store = s.store := (rfl)
@[simp] theorem State.logCut_store (s : State) (crew c : Nat) (by_ : Option (Nat × Nat)) :
    (s.logCut crew c by_).store = s.store := (rfl)
@[simp] theorem State.scheduleCut_store (s : State) (crew c : Nat) : (s.scheduleCut crew c).store = s.store := by
  simp [State.scheduleCut]
@[simp] theorem State.earlyBelay_store (s : State) (crew : Nat) : (s.earlyBelay crew).store = s.store := by
  simp [State.earlyBelay]
@[simp] theorem State.earlyCheck_store (s : State) (t : Nat) : (s.earlyCheck t).store = s.store := by
  simp [State.earlyCheck]

theorem State.useBankAs_store (s : State) (cls t bank : Nat) {r : State} (h : s.useBankAs cls t bank = some r) :
    r.store = s.store := by
  simp only [State.useBankAs, Option.map_eq_some_iff] at h
  obtain ⟨c, -, rfl⟩ := h
  simp

@[simp] theorem State.setCandidate_store (s : State) (crew vc : Nat) (v : BitVec 16) :
    (s.setCandidate crew vc v).store = s.store := by simp [State.setCandidate]

@[simp] theorem State.askCandidate_store (s : State) (crew vc : Nat) : (s.askCandidate crew vc).store = s.store := by
  simp only [State.askCandidate]
  (repeat' split) <;> simp

@[simp] theorem State.countPart_store (s : State) (part lo : Nat) : (s.countPart part lo).store = s.store := (rfl)

@[simp] theorem State.postLaunch_store (s : State) (k : Nat) (b : Block) : (s.postLaunch k b).2.store = s.store := by
  simp only [State.postLaunch]
  (repeat' split) <;> simp

@[simp] theorem State.feedLaunch_store (s : State) (part : Nat) : (s.feedLaunch part).store = s.store := by
  refine State.foldl_store _ (fun s k => ?_) ..
  split
  · simp
  · rfl

@[simp] theorem State.endVersions_store (s : State) (crew : Nat) : (s.endVersions crew).store = s.store := by
  simp only [State.endVersions]
  split <;> simp

@[simp] theorem State.countPart2_store (s : State) (part lo : Nat) : (s.countPart2 part lo).store = s.store := (rfl)
@[simp] theorem State.dealAll_store (s : State) (crew : Nat) : (s.dealAll crew).store = s.store := by
  simp [State.dealAll]
@[simp] theorem State.placeCrew_store (s : State) (p : Nat) (e : QEnt) (t0 : Nat) (routes : List RouteEnt) :
    (s.placeCrew p e t0 routes).store = s.store := by simp [State.placeCrew]
@[simp] theorem State.dequeue_store (s : State) (p : Nat) (e : QEnt) : (s.dequeue p e).store = s.store := (rfl)
@[simp] theorem State.endUnrun_store (s : State) (p : Nat) (e : QEnt) (reason : BitVec 8) :
    (s.endUnrun p e reason).store = s.store := (rfl)
@[simp] theorem State.wakeBar_store (s : State) (l : Loc) : (s.wakeBar l).store = s.store := by simp [State.wakeBar]
@[simp] theorem State.logOrder_store (s : State) (k : Nat) (l : Loc) : (s.logOrder k l).store = s.store := by
  simp [State.logOrder]
theorem State.useBank_store (s : State) (t bank : Nat) {r : State} (h : s.useBank t bank = some r) : r.store = s.store :=
  State.useBankAs_store _ _ _ _ h
@[simp] theorem State.countMsg_store (s : State) (site : Nat) : (s.countMsg site).store = s.store := (rfl)
@[simp] theorem State.sendFrom_store (s : State) (site tile ctx : Nat) (b : Body) :
    (s.sendFrom site tile ctx b).store = s.store := (rfl)
@[simp] theorem State.modRetx_store (s : State) (t : Nat) (h : MsgHdr) (f : Retx → Retx) :
    (s.modRetx t h f).store = s.store := (rfl)

@[simp] theorem State.sendMsg_store (s : State) (t ctx : Nat) (hdr : MsgHdr) (data : List Byte) :
    (s.sendMsg t ctx hdr data).store = s.store := by
  simp only [State.sendMsg]
  (repeat' split) <;> simp

@[simp] theorem State.resend_store (s : State) (t : Nat) (r : Retx) : (s.resend t r).store = s.store := by
  simp [State.resend]

@[simp] theorem State.replyGone_store (s : State) (n : Nat) (hdrOf : Body → Option MsgHdr) :
    (s.replyGone n hdrOf).store = s.store := by
  simp only [State.replyGone]
  split
  · rfl
  · next h => exact State.arrived_store _ _ _ h

theorem State.repliedCopy_store (s : State) (n : Nat) (hdrOf : Body → Option MsgHdr) {r} (h : s.repliedCopy n hdrOf = some r) :
    r.2.2.2.store = s.store := by
  simp only [State.repliedCopy] at h
  split at h
  · simp only [Option.map_eq_some_iff] at h
    obtain ⟨_, -, rfl⟩ := h
    rfl
  · split at h
    · cases h
    · next ha => (repeat' split at h) <;> cases h; exact State.arrived_store _ _ _ ha

@[simp] theorem State.withRecv_store (s : State) (t : Nat) (h : MsgHdr) : (s.withRecv t h).store = s.store := by
  simp [State.withRecv]
@[simp] theorem State.wakePop_store (s : State) (t ibx : Nat) : (s.wakePop t ibx).store = s.store := by
  simp [State.wakePop]
@[simp] theorem State.expNext_store (s : State) (t : Nat) (h : MsgHdr) : (s.expNext t h).store = s.store := (rfl)
@[simp] theorem State.crossPort_store (s : State) (q : Nat) : (s.crossPort q).store = s.store := (rfl)

@[simp] theorem State.passOn_store (s : State) (p : Pkt) (h : MsgHdr) : (s.passOn p h).store = s.store := by
  simp only [State.passOn]
  split <;> simp

@[simp] theorem State.countLink_store (s : State) (site port lo bits n : Nat) :
    (s.countLink site port lo bits n).store = s.store := (rfl)
@[simp] theorem State.recordRepeats_store (s : State) (site port n : Nat) :
    (s.recordRepeats site port n).store = s.store := by simp [State.recordRepeats]
@[simp] theorem State.useLink_store (s : State) (p : Pkt) (port : Nat) : (s.useLink p port).store = s.store := (rfl)
@[simp] theorem State.useOut_store (s : State) (site c : Nat) (p : Pkt) : (s.useOut site c p).store = s.store := (rfl)

@[simp] theorem State.crossLink_store (s : State) (p : Pkt) (port q : Nat) : (s.crossLink p port q).store = s.store := by
  have moved (u : State) (id f n w) (h : u.store = s.store) :
      ({ u.modPkt id f with free := n, fields := w } : State).store = s.store := h
  exact moved _ _ _ _ _ (by simp)

@[simp] theorem State.enterAgain_store (s : State) (p : Pkt) (old : Nat) : (s.enterAgain p old).store = s.store := by
  simp only [State.enterAgain]
  split <;> simp

@[simp] theorem State.dropPkt_store (s : State) (id : Nat) : (s.dropPkt id).store = s.store := (rfl)

@[simp] theorem State.fenceFlit_store (s : State) (p : Pkt) : (s.fenceFlit p).store = s.store := by
  simp only [State.fenceFlit]
  split <;> simp

@[simp] theorem State.enterMesh_store (s : State) (p : Pkt) : (s.enterMesh p).store = s.store := (rfl)

@[simp] theorem State.mediaMet_store (s : State) (h pa : Nat) (crew : Option Nat) (core from_ : Nat) (unit : BitVec 24) :
    (s.mediaMet h pa crew core from_ unit).2.store = s.store := by
  simp only [State.mediaMet]
  (repeat' split) <;> simp

@[simp] theorem State.homeAnswer_store (s : State) (p : Pkt) (r : FarReq) (err : BitVec 8) (data : List Byte) (logged : Bool) :
    (s.homeAnswer p r err data logged).store = s.store := (rfl)

@[simp] theorem State.timedFault_store (s : State) (c : Cmd) (cause err : BitVec 8) (a : Word) :
    (s.timedFault c cause err a).store = s.store := by
  simp only [State.timedFault]
  (repeat' split) <;> simp

@[simp] theorem State.endRun_store (s : State) (core id : Nat) : (s.endRun core id).store = s.store := (rfl)

@[simp] theorem State.holdWrite_store (s : State) (h : Nat) (r : FarReq) (leaf off : Nat) :
    (s.holdWrite h r leaf off).store = s.store := by
  simp only [State.holdWrite]
  split <;> simp

@[simp] theorem State.unpark_store (s : State) (k : Nat) : (s.unpark k).store = s.store := (rfl)
@[simp] theorem State.leavePort_store (s : State) (q : Nat) (r : FarReq) : (s.leavePort q r).store = s.store := by
  simp [State.leavePort]

@[simp] theorem State.phaseWake_store (s : State) (crew : Nat) (ph : BitVec 32) : (s.phaseWake crew ph).store = s.store := by
  refine State.foldl_store _ (fun s k => ?_) ..
  split
  · split <;> simp
  · rfl

@[simp] theorem State.endPhase_store (s : State) (crew : Nat) : (s.endPhase crew).store = s.store := by
  simp [State.endPhase]
@[simp] theorem State.traceEntry_store (s : State) (site core bank line : Nat) (phase : BitVec 32) :
    (s.traceEntry site core bank line phase).store = s.store := (rfl)
@[simp] theorem State.adoptAtHome_store (s : State) (crew h : Nat) : (s.adoptAtHome crew h).store = s.store := by
  simp [State.adoptAtHome]
@[simp] theorem State.countBank_store (s : State) (site bank : Nat) (corrected : Bool) :
    (s.countBank site bank corrected).store = s.store := (rfl)

@[simp] theorem State.arrayError_store (s : State) (site bank line : Nat) :
    (s.arrayError site bank line).store = s.store := by
  simp only [State.arrayError]
  (repeat' split) <;> simp

@[simp] theorem State.scrubbed_store (s : State) (site bank line : Nat) (found : EccFound) :
    (s.scrubbed site bank line found).store = s.store := by
  simp only [State.scrubbed]
  split <;> simp

@[simp] theorem State.lrwDone_store (s : State) (l : Loc) (k : Nat) (d : BitVec 6) (p : BitVec 3) :
    (s.lrwDone l k d p).store = s.store := by simp [State.lrwDone]
@[simp] theorem State.meetLine_store (s : State) (l : Loc) (src : Nat) : (s.meetLine l src).store = s.store := by
  simp [State.meetLine]

@[simp] theorem State.askRescue_store (s : State) (l : Loc) (k : Nat) : (s.askRescue l k).store = s.store := by
  simp only [State.askRescue]
  split <;> simp

@[simp] theorem State.joinResv_store (s : State) (l : Loc) (k : Nat) : (s.joinResv l k).store = s.store := by
  simp [State.joinResv]

@[simp] theorem State.lrwAtBank_store (s : State) (p : Pkt) (l : Loc) : (s.lrwAtBank p l).store = s.store := by
  simp only [State.lrwAtBank]
  (repeat' split) <;> simp

theorem State.replayStart_store (s : State) (core : Nat) (matrix : Bool) {r : State} (h : s.replayStart core matrix = some r) :
    r.store = s.store := by grind [State.replayStart, State.logEv_store, State.dropRedo_store]
@[simp] theorem State.cmdFar_store (s : State) (c : Cmd) (va : Word) (kind : FarKind) (slot : Option Nat) :
    (s.cmdFar c va kind slot).store = s.store := (rfl)
@[simp] theorem State.issueMove_store (s : State) (core : Nat) (r : Run) (m : Move) :
    (s.issueMove core r m).store = s.store := by simp [State.issueMove]
@[simp] theorem State.stopRun_store (s : State) (core id : Nat) (err : BitVec 8) (a : Word) :
    (s.stopRun core id err a).store = s.store := (rfl)
@[simp] theorem State.takeLine_store (s : State) (t : Nat) : (s.takeLine t).store = s.store := (rfl)

theorem State.useLines_store (s : State) (own : Nat) (banks : List (Nat × Nat)) {r : State}
    (h : s.useLines own banks = some r) :
    r.store = s.store := by
  induction banks generalizing s with
  | nil => cases h; rfl
  | cons b rest ih =>
    simp only [State.useLines, List.foldlM_cons, Option.bind_eq_bind, Option.bind_eq_some_iff] at h
    obtain ⟨u, hu, hr⟩ := h
    exact (ih u hr).trans (State.useBankAs_store _ _ _ _ hu)

@[simp] theorem State.publSend_store (s : State) (core : Nat) (r : Run) (va : Word) (part : Nat)
    (x : Nat × Option Nat × Nat × Nat) :
    (s.publSend core r va part x).store = s.store := by
  simp only [State.publSend]
  split <;> simp

@[simp] theorem State.startMcast_store (s : State) (c : Cmd) (src : List Loc) (tiles : List Nat) (data : Nat)
    (bar : Option Nat) (outId : Nat) :
    (s.startMcast c src tiles data bar outId).store = s.store := by simp [State.startMcast]

@[simp] theorem State.startSends_store (s : State) (c : Cmd) (src : List Loc) (dst plat data : Nat) (bar : Option Nat) :
    (s.startSends c src dst plat data bar).store = s.store := by simp [State.startSends]
@[simp] theorem State.startSend_store (s : State) (c : Cmd) (lost : Bool) (hdr : MsgHdr) (src : List Loc) (outId : Nat) :
    (s.startSend c lost hdr src outId).store = s.store := by simp [State.startSend]
@[simp] theorem State.beginRun_store (s : State) (core : Nat) (c : Cmd) : (s.beginRun core c).store = s.store := (rfl)

@[simp] theorem State.startCmd_store (s : State) (core : Nat) (c : Cmd) : (s.startCmd core c).store = s.store := by
  simp only [State.startCmd]
  (repeat' split) <;> simp

@[simp] theorem State.dropCmd_store (s : State) (core : Nat) (c : Cmd) : (s.dropCmd core c).store = s.store := (rfl)

@[simp] theorem State.pushWord_store (s : State) (core : Nat) (east : Bool) (w : Vec) :
    (s.pushWord core east w).store = s.store := by
  simp only [State.pushWord]
  split <;> simp

@[simp] theorem State.endSamples_store (s : State) (core : Nat) : (s.endSamples core).store = s.store := by
  refine State.foldl_store _ (fun s k => ?_) ..
  split
  · split <;> simp
  · rfl

@[simp] theorem State.grantBank_store (s : State) (t bank : Nat) : (s.grantBank t bank).store = s.store := (rfl)
theorem State.swapCycle_store (s : State) (t bank : Nat) {r : State} (h : s.swapCycle t bank = some r) :
    r.store = s.store := by grind [State.swapCycle, State.grantBank_store]

@[simp] theorem State.swapLine_store (s : State) (k : Option Nat) (n : Nat) : (s.swapLine k n).2.store = s.store := by
  simp only [State.swapLine]
  split
  · rfl
  · split
    · rfl
    · split
      · next h => exact State.swapCycle_store _ _ _ h
      · rfl

@[simp] theorem State.moveSwap_store (s : State) (w : Swap) : (s.moveSwap w).2.store = s.store := by
  simp only [State.moveSwap]
  split <;> simp

@[simp] theorem State.landPvr_store (s : State) (t rc : Nat) : (s.landPvr t rc).store = s.store := by
  simp only [State.landPvr]
  (repeat' split) <;> simp

@[simp] theorem State.clockWraps_store (s : State) (site : Nat) : (s.clockWraps site).store = s.store := (rfl)
@[simp] theorem State.failCrew_store (s : State) (crew : Nat) (cause err : BitVec 8) (a : Word) :
    (s.failCrew crew cause err a).store = s.store := (rfl)

@[simp] theorem State.countLaunch_store (s : State) (k : Nat) (v : Word) : (s.countLaunch k v).store = s.store := by
  simp only [State.countLaunch]
  split <;> simp

@[simp] theorem State.returnTo_store (s : State) (k : Nat) (f : Resume) : (s.returnTo k f).store = s.store := (rfl)
@[simp] theorem State.returnLogged_store (s : State) (k form : Nat) (v : Word) :
    (s.returnLogged k form v).store = s.store := by simp [State.returnLogged]
@[simp] theorem State.loadBytesInto_store (s : State) (k : Nat) (stored : List Byte) :
    (s.loadBytesInto k stored).store = s.store := by simp [State.loadBytesInto]
@[simp] theorem State.loadFrame_store (s : State) (k : Nat) : (s.loadFrame k).store = s.store := by
  simp [State.loadFrame]

@[simp] theorem State.beginSwap_store (s : State) (core slot : Nat) (inn : Option Nat) :
    (s.beginSwap core slot inn).store = s.store := by
  simp only [State.beginSwap]
  split <;> simp

@[simp] theorem State.decideSwap_store (s : State) (core slot : Nat) (inn : Option Nat) (how : SwapHow) :
    (s.decideSwap core slot inn how).store = s.store := by simp [State.decideSwap]

@[simp] theorem State.displace_store (s : State) (core slot : Nat) : (s.displace core slot).store = s.store := by
  simp only [State.displace]
  split <;> simp

@[simp] theorem State.takeSwap_store (s : State) (core slot : Nat) (inn : Option Nat) (how : SwapHow) :
    (s.takeSwap core slot inn how).store = s.store := by
  simp only [State.takeSwap]
  split <;> simp

theorem State.loggedSwap_store (s : State) (core : Nat) {r : State} (h : s.loggedSwap core = some r) :
    r.store = s.store := by
  grind [State.loggedSwap, State.displace_store, State.modCore_store, State.modCtx_store, State.takeSwap_store]

@[simp] theorem State.fillLine_store (s : State) (core line : Nat) (l : FLine) :
    (s.fillLine core line l).store = s.store := by simp [State.fillLine]
@[simp] theorem State.noteTrap_store (s : State) (asyn : Bool) (holder : Option (Nat × Nat)) :
    (s.noteTrap asyn holder).store = s.store := (rfl)

@[simp] theorem State.takeTrap_store (s : State) (k slot : Nat) (memb asyn : Bool) (flags : BitVec 5) (cause : BitVec 8)
    (eaddr : Word) :
    (s.takeTrap k slot memb asyn flags cause eaddr).store = s.store := by simp [State.takeTrap]

@[simp] theorem State.modMe_store (s : State) (f : Ctx → Ctx) : (s.modMe f).store = s.store := (rfl)
@[simp] theorem State.raise_store (s : State) (cause : BitVec 8) (eaddr : Word) : (s.raise cause eaddr).store = s.store :=
  (State.takeTrap_store ..).trans (State.modMe_store ..)
@[simp] theorem State.writeX_store (s : State) (r : BitVec 6) (v : Word) (lat : Nat) :
    (s.writeX r v lat).store = s.store := by simp [State.writeX]
@[simp] theorem State.setRes_store (s : State) (r : Result) : (s.setRes r).store = s.store := (rfl)
@[simp] theorem State.deepStart_store (s : State) (k : Nat) : (s.deepStart k).store = s.store := by
  simp [State.deepStart]
@[simp] theorem State.await_store (s : State) (w : Wait) : (s.await w).store = s.store := (rfl)

@[simp] theorem State.blaySchedule_store (s : State) (crew : Nat) : (s.blaySchedule crew).2.store = s.store := by
  simp only [State.blaySchedule]
  split <;> simp

@[simp] theorem State.writeSg_store (s : State) (d : BitVec 3) (e : Seg) (src : BitVec 8) :
    (s.writeSg d e src).store = s.store := (rfl)
@[simp] theorem State.stopGo_store (s : State) (crew : Nat) : (s.stopGo crew).store = s.store := by simp [State.stopGo]
@[simp] theorem State.stopHorizon_store (s : State) (crew : Nat) : (s.stopHorizon crew).store = s.store := (rfl)
@[simp] theorem State.stopCrews_store (s : State) (d : BitVec 6) (part : Nat) (task : Option Nat) :
    (s.stopCrews d part task).store = s.store := by simp [State.stopCrews]

@[simp] theorem State.swapIn_store (s : State) (core slot num : Nat) (q : Bool) :
    (s.swapIn core slot num q).2.store = s.store := by
  simp only [State.swapIn]
  (repeat' split) <;> simp

@[simp] theorem State.swapInFar_store (s : State) (core slot e : Nat) (q : Bool) :
    (s.swapInFar core slot e q).2.store = s.store := by
  simp only [State.swapInFar]
  (repeat' split) <;> simp

@[simp] theorem State.endClaim_store (s : State) : s.endClaim.store = s.store := (rfl)
@[simp] theorem State.askHome_store (s : State) (c v : Nat) (op : VerOp) (d : BitVec 6) :
    (s.askHome c v op d).store = s.store := (rfl)
@[simp] theorem State.tookReply_store (s : State) : s.tookReply.store = s.store := (rfl)
@[simp] theorem State.setGoing_store (s : State) (g : Going) : (s.setGoing g).store = s.store := (rfl)
@[simp] theorem State.sendRead_store (s : State) (a : Word) (l : Loc) (n : Nat) (phase : Option (BitVec 32)) :
    (s.sendRead a l n phase).store = s.store := (rfl)

theorem State.takeReply_store (s : State) {r} (h : s.takeReply = some r) : r.2.store = s.store := by
  simp only [State.takeReply, Option.map_eq_some_iff] at h
  obtain ⟨_, -, rfl⟩ := h
  simp

@[simp] theorem State.refetch_store (s : State) (k : Nat) (a : Word) : (s.refetch k a).store = s.store := (rfl)
@[simp] theorem State.writeP_store (s : State) (p : BitVec 3) (v : Bool) : (s.writeP p v).store = s.store := by
  simp [State.writeP]
@[simp] theorem reapEmpty_store (d : BitVec 6) (pd : BitVec 3) (slot : Nat) (s : State) :
    (reapEmpty d pd slot s).store = s.store := by simp [reapEmpty]
@[simp] theorem State.setEntry_store (s : State) (core : Nat) (r : BitVec 6) (e : TsEnt) :
    (s.setEntry core r e).store = s.store := (rfl)
@[simp] theorem State.queueOp_store (s : State) (o : MOp) (w : Wait) : (s.queueOp o w).store = s.store := (rfl)
@[simp] theorem State.transfer_store (s : State) (target : Option Word) (d : Bool) : (s.transfer target d).store = s.store :=
  (rfl)
@[simp] theorem State.endRescue_store (s : State) (l : Loc) (k : Nat) : (s.endRescue l k).store = s.store := (rfl)

@[simp] theorem State.moveRow_store (s : State) (core : Nat) (m : BitVec 16) (e : Nat) :
    (s.moveRow core m e).store = s.store := by
  simp only [State.moveRow]
  (repeat' split) <;> simp

@[simp] theorem State.writeM_store (s : State) (m : BitVec 3) (v : BitVec 16) : (s.writeM m v).store = s.store := by
  simp [State.writeM]
@[simp] theorem State.raiseFlags_store (s : State) (f : BitVec 5) : (s.raiseFlags f).store = s.store := (rfl)

@[simp] theorem State.modRecord_store (s : State) (f : TrapRec → TrapRec) (g : Resume → Resume) :
    (s.modRecord f g).store = s.store := by
  simp only [State.modRecord]
  split <;> simp

@[simp] theorem State.writeTrap_store (s : State) (own : Ctx → Ctx) (f : TrapRec → TrapRec) (g : Resume → Resume) :
    (s.writeTrap own f g).store = s.store := by simp [State.writeTrap]
@[simp] theorem State.sendPvr_store (s : State) (crew : Nat) (n : BitVec 16) : (s.sendPvr crew n).store = s.store := by
  simp [State.sendPvr]

@[simp] theorem State.writeS_store (s : State) (sr : SReg) (v : Word) : (s.writeS sr v).store = s.store := by
  simp only [State.writeS]
  (repeat' split) <;> simp

@[simp] theorem State.holdLate_store (found t : State) : (State.holdLate found t).store = t.store := (rfl)
@[simp] theorem State.formNpc_store (s : State) (k : Nat) (l : FLine) : (s.formNpc k l).store = s.store := by
  simp [State.formNpc]
@[simp] theorem State.raisePending_store (s : State) (core slot k : Nat) (cause : BitVec 8) (a : Word) (asyn : Bool) :
    (s.raisePending core slot k cause a asyn).store = s.store := by simp [State.raisePending]

@[simp] theorem State.publLeaves_store (s : State) (fuel field part : Nat) (a : Word) (left : Nat) :
    (s.publLeaves fuel field part a left).2.store = s.store := by
  induction fuel generalizing s a left with
  | zero => rfl
  | succ fuel ih =>
    have leaf := s.publLeaf_store field part a
    simp only [State.publLeaves]
    split
    · rfl
    · split
      · next h => simpa only [h] using leaf
      · next l u h =>
        rw [h] at leaf
        split
        · exact leaf
        · have rest := ih u (a + BitVec.ofNat 64 (l.va + l.size - a.toNat % 2 ^ 52)) (left - (l.va + l.size - a.toNat % 2 ^ 52))
          split <;> next hr => rw [hr] at rest; exact rest.trans leaf

@[simp] theorem State.forkDecide_store (s : State) (k : Nat) (d : BitVec 6) (n : Word) (p : Place) (t idx : Word) :
    (s.forkDecide k d n p t idx).store = s.store := by
  simp only [State.forkDecide]
  split
  · rfl
  · simp only [State.waitKnot_store, State.sendKnot_store]
    refine (State.foldl_store _ (fun s c => ?_) ..).trans (State.logEv_store ..)
    split <;> simp

@[simp] theorem State.knotAnswer_store (s : State) (k answer : Nat) : (s.knotAnswer k answer).store = s.store := by
  simp only [State.knotAnswer]
  (repeat' split) <;> simp

@[simp] theorem State.farDone_store (s : State) (r : FarReq) (err : BitVec 8) (data : List Byte) (logged : Bool) :
    (s.farDone r err data logged).store = s.store := by
  simp only [State.farDone]
  (repeat' split) <;> simp

@[simp] theorem State.losePeers_store (s : State) (wafer : Nat) (port : Option Nat) :
    (s.losePeers wafer port).store = s.store := by
  simp [State.losePeers]

@[simp] theorem State.loseChannels_store (s : State) (wafer : Nat) (only : Option Nat) :
    (s.loseChannels wafer only).store = s.store := by
  simp only [State.loseChannels, State.store_with, State.store_fold]
  refine (State.foldl_store _ (fun s e => State.foldl_store _ (fun s q => ?_) ..) ..).trans (by simp)
  split
  · split <;> simp
  · rfl

@[simp] theorem State.restoreCtxs_store (s : State) (crew t : Nat) (im : Tbl Ctx) :
    (s.restoreCtxs crew t im).store = s.store := by
  simp only [State.restoreCtxs]
  refine (State.foldl_store _ (fun s e => ?_) ..).trans (by simp)
  split <;> simp

@[simp] theorem State.wakeBit_store (s : State) (k : Nat) : (s.wakeBit k).store = s.store := by
  delta wakeBit
  dsimp only
  split
  · rfl
  · generalize (s.ctx k).wait = w
    cases w <;> simp

@[simp] theorem State.knotEffects_store (s : State) (part : Nat) (p : Place) (o : KnotOut) :
    (s.knotEffects part p o).store = s.store := by
  simp only [State.knotEffects]
  split <;> simp

@[simp] theorem State.watchHit_store (s : State) (tile : Nat) (hit : Watch → Bool) :
    (s.watchHit tile hit).store = s.store := by
  simp [State.watchHit]

@[simp] theorem State.watchWake_store (s : State) (l : Loc) (n : Nat) (en : BitVec 64) :
    (s.watchWake l n en).store = s.store := by
  simp [State.watchWake]

@[simp] theorem State.moveSwaps_store (s : State) (core : Nat) : (s.moveSwaps core).store = s.store := by
  have moved (l : List Swap) : ∀ a : List Swap × State, (l.foldl (fun (a : List Swap × State) w =>
      let (w, s) := a.2.moveSwap w
      (a.1 ++ [w], s)) a).2.store = a.2.store := by
    induction l with
    | nil => exact fun _ => rfl
    | cons w rest ih => exact fun a => (ih _).trans (State.moveSwap_store ..)
  simp only [State.moveSwaps]
  split
  · rfl
  · exact moved _ ([], s)

@[simp] theorem State.tickTile_store (s : State) (t rc : Nat) : (s.tickTile t rc).store = s.store := by
  simp only [State.tickTile]
  simp

theorem State.wakeLogged_store (s : State) (k : Nat) (code : BitVec 6) {r : State} (h : s.wakeLogged k code = some r) :
    r.store = s.store := by
  delta State.wakeLogged at h
  split at h
  · cases h
  · generalize (s.ctx k).wait = w at h
    cases w with
    | drain _ | drainBank _ _ | parkedBarw _ | parkedAmo | fetch _ =>
      obtain ⟨-, h⟩ := Option.ite_none_right_eq_some.mp h
      cases h
      simp
    | sleep _ _ | knotWait | ibpop _ | link _ => cases h; simp
    | _ => cases h

theorem State.parkOut_store (s : State) (core : Nat) {r : State} (h : s.parkOut core = some r) : r.store = s.store := by
  simp only [State.parkOut, Option.ite_none_left_eq_some] at h
  obtain ⟨j, -, hj⟩ := List.exists_of_findSome?_eq_some h.2
  (repeat' split at hj) <;> cases hj
  simp

theorem State.reload_store (s : State) (core : Nat) {r : State} (h : s.reload core = some r) : r.store = s.store := by
  obtain ⟨e, -, he⟩ := List.exists_of_findSome?_eq_some h
  dsimp only at he
  (repeat' split at he) <;> cases he <;> simp

theorem State.deliver_store (s : State) (core : Nat) {r : State} (h : s.deliver core = some r) : r.store = s.store := by
  simp only [State.deliver] at h
  (repeat' split at h) <;> simp only [reduceCtorEq, Option.some.injEq, Option.map_eq_some_iff] at h
  · subst h; simp
  · subst h; simp
  · obtain ⟨j, -, rfl⟩ := h; simp

theorem State.rowDecision_store (s : State) (core : Nat) {r : State} (h : s.rowDecision core = some r) :
    r.store = s.store := by
  simp only [State.rowDecision] at h
  split at h
  · cases h
  · split at h
    · cases h; simp
    · simp only [Option.or_eq_some_iff, Option.ite_none_right_eq_some, Option.map_eq_some_iff] at h
      grind [State.decideSwap_store]

theorem State.rescue_store (s : State) (core : Nat) {r : State} (h : s.rescue core = some r) : r.store = s.store := by
  simp only [State.rescue] at h
  split at h
  · cases h
  · simp only [Option.map_eq_some_iff] at h
    obtain ⟨j, -, rfl⟩ := h; simp

@[simp] theorem State.trapOn_store (found t : State) : (State.trapOn found t).store = found.store := by
  simp [State.trapOn]
@[simp] theorem State.trapFlags_store (found one two : State) : (State.trapFlags found one two).store = found.store := by
  simp [State.trapFlags]

@[simp] theorem State.fallAsleep_store (found t : State) (memb : Bool) :
    (State.fallAsleep found t memb).store = found.store := by
  simp [State.fallAsleep]

@[simp] theorem State.refusedBy_store (found t : State) : (State.refusedBy found t).store = found.store := by
  simp only [State.refusedBy, State.setRes_store]
  split <;> simp

end Sys2Proof.Machine
end

section
/-! What writes memory. A store in canonical form stays so: one rule for each operation that writes memory or calls one that does. -/

namespace Sys2Proof.Machine

/-- Memory and a deep image's memory are in canonical form. -/
structure StoreOk (m : List Host.Cell × Option Deep) : Prop where
  mem : Memory.wf m.1 = true
  deep : ∀ d, m.2 = some d → Memory.wf d.mem = true

section
variable {m : List Host.Cell} {d : Option Deep}

theorem StoreOk.writeN (h : StoreOk (m, d)) (a : Nat) (bs : List Byte) : StoreOk (memWriteN m a bs, d) :=
  ⟨memWriteN_wf bs a h.mem, h.deep⟩
theorem StoreOk.copy (h : StoreOk (m, d)) (src dst n : Nat) : StoreOk (memCopy m src dst n, d) :=
  ⟨memCopy_wf src dst n h.mem, h.deep⟩
theorem StoreOk.filter (h : StoreOk (m, d)) (p : Host.Cell → Bool) : StoreOk (m.filter p, d) :=
  ⟨memFilter_wf p h.mem, h.deep⟩

end

@[simp] theorem storeOk_ite (c : Prop) [Decidable c] (a b : List Host.Cell × Option Deep) :
    StoreOk (if c then a else b) ↔ if c then StoreOk a else StoreOk b := by split <;> rfl

theorem State.foldl_storeOk {α : Type} {f : State → α → State} (hf : ∀ s a, StoreOk s.store → StoreOk (f s a).store) :
    ∀ (l : List α) {s : State}, StoreOk s.store → StoreOk (l.foldl f s).store
  | [], _, ok => ok
  | a :: l, s, ok => State.foldl_storeOk hf l (hf s a ok)

theorem StoreOk.snd {α : Type} {p : α × State} {a : α} {t : State} (ok : StoreOk p.2.store) (h : p = (a, t)) :
    StoreOk t.store := by
  rw [h] at ok
  exact ok

theorem StoreOk.of_eq {s t : State} (ok : StoreOk s.store) (h : t.store = s.store) : StoreOk t.store := h ▸ ok
theorem State.ite_storeOk {c : Prop} [Decidable c] {s t : State} (hs : StoreOk s.store) (ht : StoreOk t.store) :
    StoreOk (if c then s else t).store := by split <;> assumption
@[simp] theorem State.writePa_storeOk {s : State} (pa : Nat) (bs : List Byte) (ok : StoreOk s.store) :
    StoreOk (s.writePa pa bs).store := ok.writeN ..
@[simp] theorem State.setBufMap_storeOk {s : State} (h part entry : Nat) (b : BufMap) (ok : StoreOk s.store) :
    StoreOk (s.setBufMap h part entry b).store := by simp [State.setBufMap, ok]

@[simp] theorem State.freeEntryCopies_storeOk {s : State} (h part entry : Nat) (ok : StoreOk s.store) :
    StoreOk (s.freeEntryCopies h part entry).store := by
  simp only [State.freeEntryCopies]
  split <;> simp [ok]

@[simp] theorem State.touchBuf_storeOk {s : State} (h part entry : Nat) (ok : StoreOk s.store) :
    StoreOk (s.touchBuf h part entry).store := by simp [State.touchBuf, ok]

@[simp] theorem State.placeServed_storeOk {s : State} (field part : Nat) (crew : Option Nat) (l : Leaf) (va n : Nat)
    (ok : StoreOk s.store) :
    StoreOk (s.placeServed field part crew l va n).2.store := by
  simp only [State.placeServed]
  split <;> simp [ok]

@[simp] theorem State.farPlace_storeOk {s : State} (field part : Nat) (crew : Option Nat) (a : Word) (n : Nat) (acc : Acc)
    (ok : StoreOk s.store) :
    StoreOk (s.farPlace field part crew a n acc).2.store := by
  grind [State.farPlace, State.translate_store, State.placeServed_storeOk]

@[simp] theorem State.readFar_storeOk {s : State} (field part : Nat) (crew : Option Nat) (a : Word) (n : Nat) (acc : Acc)
    (ok : StoreOk s.store) :
    StoreOk (s.readFar field part crew a n acc).2.store := by
  grind [State.readFar, State.farPlace_storeOk, State.countRow_store]

@[simp] theorem State.readLines_storeOk {s : State} (field part : Nat) (crew : Option Nat) (ps : List (Word × Nat))
    (ok : StoreOk s.store) :
    StoreOk (s.readLines field part crew ps).2.store := by
  induction ps generalizing s with
  | nil => exact ok
  | cons p rest ih =>
    have read := State.readFar_storeOk field part crew p.1 p.2 .read ok
    simp only [State.readLines]
    split
    · next h => rw [h] at read; exact read
    · next h =>
      rw [h] at read
      have more := ih read
      split <;> next hr => rw [hr] at more; exact more

@[simp] theorem State.hostRead_storeOk {s : State} (fn : Nat) (a : Word) (n : Nat) (ok : StoreOk s.store) :
    StoreOk (s.hostRead fn a n).2.store := by simp [State.hostRead, ok]

@[simp] theorem State.hostLaunch_storeOk {s : State} (fn : Nat) (ok : StoreOk s.store) :
    StoreOk (s.hostLaunch fn).store := by
  grind [State.hostLaunch, State.hostResult_store, State.hostRead_storeOk, State.post_store]

@[simp] theorem State.freeCopies_storeOk {s : State} (h : Nat) (ok : StoreOk s.store) : StoreOk (s.freeCopies h).store :=
  State.foldl_storeOk (fun _ e ok => State.freeEntryCopies_storeOk h e.1 e.2 ok) _ ok
@[simp] theorem State.publishAt_storeOk {s : State} (h part entry : Nat) (ok : StoreOk s.store) :
    StoreOk (s.publishAt h part entry).store := by simp [State.publishAt, ok]
@[simp] theorem State.resetDevice_storeOk {s : State} (powerOn : Bool) (ok : StoreOk s.store) :
    StoreOk (s.resetDevice powerOn).store := by simp [State.resetDevice, ok]

@[simp] theorem State.writeLoc_storeOk {s : State} (l : Loc) (bs : List Byte) (ok : StoreOk s.store) :
    StoreOk (s.writeLoc l bs).store := by
  simp only [State.writeLoc]
  split
  · exact ok.writeN ..
  · exact ok.writeN ..

@[simp] theorem State.setBarrier_storeOk {s : State} (l : Loc) (b : Barrier) (ok : StoreOk s.store) :
    StoreOk (s.setBarrier l b).store := by simp [State.setBarrier, ok]

@[simp] theorem State.setPrk_storeOk {s : State} (bar : Bar) (v : Bool) (ok : StoreOk s.store) :
    StoreOk (s.setPrk bar v).store := by
  simp only [State.setPrk]
  split <;> simp [ok]

@[simp] theorem State.unparkBar_storeOk {s : State} (bar : Bar) (ok : StoreOk s.store) :
    StoreOk (s.unparkBar bar).store := by
  simp only [State.unparkBar]
  split <;> simp [ok]

theorem State.parkReq_storeOk {s : State} (field : Nat) (r : FarReq) (ok : StoreOk s.store) {w}
    (hw : s.parkReq field r = .ok w) :
    StoreOk w.store := by grind [State.parkReq, State.setGw_store, State.modCtx_store, State.setPrk_storeOk]

@[simp] theorem State.transError_storeOk {s : State} (field : Nat) (r : FarReq) (err : BitVec 8) (ok : StoreOk s.store) :
    StoreOk (s.transError field r err).store := by
  grind [State.transError, State.parkReq_storeOk, State.farAnswer_store]

theorem State.forwardPeer_storeOk {s : State} (field : Nat) (r : FarReq) (l : Leaf) (wafer va : Nat) (ok : StoreOk s.store)
    {w} (hw : s.forwardPeer field r l wafer va = some w) :
    StoreOk w.store := by
  grind [State.forwardPeer, State.transError_storeOk, State.farAnswer_store, State.drawSeq_store, State.movePkt_store,
    State.sendTo_store]

theorem State.toPeer_storeOk {s : State} (field : Nat) (r : FarReq) (ok : StoreOk s.store) {w}
    (hw : s.toPeer field r = some w) :
    StoreOk w.store := by
  grind [State.toPeer, State.translatePeer_store, State.transError_storeOk, State.forwardPeer_storeOk]

@[simp] theorem State.beginWalk_storeOk {s : State} (field : Nat) (r : FarReq) (va : Nat) (ok : StoreOk s.store) :
    StoreOk (s.beginWalk field r va).store := by
  simp only [State.beginWalk]
  split <;> simp [ok]

@[simp] theorem State.saveFrame_storeOk {s : State} (k : Nat) (ok : StoreOk s.store) : StoreOk (s.saveFrame k).store := by
  simp [State.saveFrame, ok]

@[simp] theorem State.winWrite_storeOk {s : State} (a : Word) (en : BitVec 64) (v : BitVec 512) (level : BitVec 2)
    (ok : StoreOk s.store) :
    StoreOk (s.winWrite a en v level).store := by
  simp only [State.winWrite]
  (repeat' split) <;> simp [ok]

@[simp] theorem State.winStore_storeOk {s : State} (a : Word) (en : BitVec 64) (v : BitVec 512) (level : BitVec 2)
    (ok : StoreOk s.store) :
    StoreOk (s.winStore a en v level).store := by simp [State.winStore, ok]

theorem State.swapOut_storeOk {s : State} (by_ core slot : Nat) (spill : Option Nat) (ok : StoreOk s.store) {w}
    (hw : s.swapOut by_ core slot spill = some w) :
    StoreOk w.2.store := by
  grind [State.swapOut, State.modCtx_store, State.saveFrame_storeOk, State.clearSlot_store, State.renumber_store,
    State.writePa_storeOk, State.dealWaiting_store]

@[simp] theorem State.openShadow_storeOk {s : State} (h part entry : Nat) (b : BufMap) (c : Nat) (ok : StoreOk s.store) :
    StoreOk (s.openShadow h part entry b c).store := by
  have hs := State.setBufMap_storeOk h part entry { b with shd := c, sopen := true, free := b.free &&& ~~~(1#4 <<< c) } ok
  simp only [State.openShadow]
  split
  · exact hs.copy ..
  · exact hs.writeN ..

theorem State.bufWrite_storeOk {s : State} (h : Nat) (r : FarReq) (leaf off : Nat) (data : List Byte) (ok : StoreOk s.store)
    {w} (hw : s.bufWrite h r leaf off data = some w) :
    StoreOk w.2.store := by
  grind [State.bufWrite, State.touchBuf_storeOk, State.heat_store, State.writePa_storeOk, State.openShadow_storeOk]

@[simp] theorem State.fieldLoss_storeOk {s : State} (f : Nat) (ok : StoreOk s.store) : StoreOk (s.fieldLoss f).store := by
  simp only [State.fieldLoss]
  split
  · exact State.resetDevice_storeOk _ (by simpa using ok)
  · simp only [State.store_with, State.store_fold]
    refine State.foldl_storeOk (fun s c ok => ?_) _ (by simpa using ok)
    split
    · split <;> simp [ok]
    · exact ok

@[simp] theorem State.restoreTraffic_storeOk {s : State} (crew t old new : Nat) (ok : StoreOk s.store) :
    StoreOk (s.restoreTraffic crew t old new).store := by
  simp only [State.restoreTraffic]
  split
  · exact ok
  · exact State.foldl_storeOk (fun _ r ok => State.unparkBar_storeOk _ (by simpa using ok)) _ ok

@[simp] theorem State.restoreTile_storeOk {s : State} (crew t : Nat) (ok : StoreOk s.store) :
    StoreOk (s.restoreTile crew t).store := by
  simp only [State.restoreTile]
  split
  · exact ok
  · simp only [State.modTile_store]
    rw [State.foldl_store _ fun s c => by simp]
    refine State.foldl_storeOk (fun s e ok => ?_) _ (by simpa using ok.copy ..)
    split
    · exact State.writeLoc_storeOk _ _ ok
    · exact ok

@[simp] theorem State.rollBack_storeOk {s : State} (crew H old new : Nat) (ok : StoreOk s.store) :
    StoreOk (s.rollBack crew H old new).store := by
  simp only [State.rollBack]
  split
  · next dyn c _ _ =>
    simp only [State.settleClose_store, State.arriveEmpty_store]
    have tiles {u : State} (ok : StoreOk u.store) :
        StoreOk ((u.crewTiles crew).foldl (fun s t => s.restoreTile crew t) u).store :=
      State.foldl_storeOk (fun _ t ok => State.restoreTile_storeOk crew t ok) _ ok
    have traffic {u : State} (ok : StoreOk u.store) :
        StoreOk ((u.crewTiles crew).foldl (fun s t => (s.restoreTraffic crew t old new).restoreRecords t) u).store :=
      State.foldl_storeOk (fun _ t ok => by simpa using State.restoreTraffic_storeOk crew t old new ok) _ ok
    split <;> simp [traffic, tiles, ok]
  · exact ok

@[simp] theorem State.freeCrew_storeOk {s : State} (crew : Nat) (ok : StoreOk s.store) :
    StoreOk (s.freeCrew crew).store := by
  simp only [State.freeCrew, State.setCrew_store, State.setPart_store]
  refine State.foldl_storeOk (fun s h ok => State.freeCopies_storeOk h (by simpa using ok)) _ (by simpa using ok)

@[simp] theorem State.requeue_storeOk {s : State} (crew : Nat) (ok : StoreOk s.store) : StoreOk (s.requeue crew).store := by
  simp only [State.requeue]
  split <;> simp [ok]

@[simp] theorem State.applyTile_storeOk {s : State} (crew t c : Nat) (ok : StoreOk s.store) :
    StoreOk (s.applyTile crew t c).store := by
  have lines (l : List (Nat × BitVec 512)) (a : Nat → Nat) : ∀ m, Memory.wf m = true →
      Memory.wf (l.foldl (fun m x => memWriteN m (a x.1) (bytesOfVec 64 x.2)) m) = true := by
    induction l with
    | nil => exact fun _ h => h
    | cons x rest ih => exact fun m h => ih _ (memWriteN_wf _ _ h)
  simp only [State.applyTile, State.setLogShare_store, State.modCrew_store, State.modSite_store, State.store_with]
  exact ⟨lines _ _ _ ok.mem, ok.deep⟩

@[simp] theorem State.closeCut_storeOk {s : State} (crew : Nat) (ok : StoreOk s.store) :
    StoreOk (s.closeCut crew).store := by
  simp only [State.closeCut]
  split
  · exact ok
  · split
    · simp only [State.finishCut_store]
      exact State.foldl_storeOk (fun _ t ok => State.applyTile_storeOk _ t _ ok) _ ok
    · simpa using ok

@[simp] theorem State.moveKeep_storeOk {s : State} (t site spare : Nat) (ok : StoreOk s.store) :
    StoreOk (s.moveKeep t site spare).store := by
  simp only [State.moveKeep, State.modSite_store]
  split
  · exact ok.copy ..
  · simp only [State.modSite_store]
    split
    · split
      · exact ok
      · exact State.closeCut_storeOk _ ok
    · exact ok

@[simp] theorem State.spliceTo_storeOk {s : State} (t site spare : Nat) (ok : StoreOk s.store) :
    StoreOk (s.spliceTo t site spare).store := by
  grind [State.spliceTo, State.moveTile_store, State.moveKeep_storeOk, State.closeCut_storeOk, State.requeue_storeOk,
    State.modCrew_store, State.loseCrew_store, State.rollBack_storeOk]

@[simp] theorem State.rollBackInPlace_storeOk {s : State} (crew site : Nat) (ok : StoreOk s.store) :
    StoreOk (s.rollBackInPlace crew site).store := by simp [State.rollBackInPlace, ok]

@[simp] theorem State.saveResidents_storeOk {s : State} (t : Nat) (ok : StoreOk s.store) :
    StoreOk (s.saveResidents t).store := by
  refine State.foldl_storeOk (fun s c ok => State.foldl_storeOk (fun s j ok => ?_) _ ok) _ ok
  split
  · exact State.saveFrame_storeOk _ ok
  · exact ok

@[simp] theorem State.captureTile_storeOk {s : State} (t v : Nat) (ok : StoreOk s.store) :
    StoreOk (s.captureTile t v).store := by simp [State.captureTile, ok]

@[simp] theorem State.captureCrew_storeOk {s : State} (crew v : Nat) (launch : Bool) (ok : StoreOk s.store) :
    StoreOk (s.captureCrew crew v launch).store := by
  have tiles : StoreOk ((s.crewTiles crew).foldl (fun s t => s.captureTile t v) s).store :=
    State.foldl_storeOk (fun _ t ok => State.captureTile_storeOk t v ok) _ ok
  simp only [State.captureCrew]
  split <;> simpa using tiles

@[simp] theorem State.plainPlace_storeOk {s : State} (field part : Nat) (a : Word) (n : Nat) (ok : StoreOk s.store) :
    StoreOk (s.plainPlace field part a n).2.store := by
  simp [State.plainPlace, ok]

theorem State.readAny_storeOk {s : State} (field part : Nat) (a : Word) (n : Nat) (ok : StoreOk s.store) :
    StoreOk (s.readAny field part a n).2.store := by grind [State.readAny, State.readLines_storeOk]
@[simp] theorem State.loadTile_storeOk {s : State} (t : Nat) (im : List (Nat × Nat × List Byte)) (ok : StoreOk s.store) :
    StoreOk (s.loadTile t im).store := State.foldl_storeOk (fun _ _ ok => State.writeLoc_storeOk _ _ ok) _ (ok.filter _)
@[simp] theorem State.entryReason_storeOk {s : State} (p : Nat) (b : Block) (t0 : Nat) (ok : StoreOk s.store) :
    StoreOk (s.entryReason p b t0).2.store := by grind [State.entryReason, State.readFar_storeOk]
theorem State.routeList_storeOk {s : State} (p : Nat) (b : Block) (ok : StoreOk s.store) :
    StoreOk (s.routeList p b).2.store := by grind [State.routeList, State.readAny_storeOk]

@[simp] theorem State.arriveAt_storeOk {s : State} (l : Loc) (n : Nat) (tag : BitVec 16) (err : BitVec 8) (addr : BitVec 32)
    (ok : StoreOk s.store) :
    StoreOk (s.arriveAt l n tag err addr).store := by simp [State.arriveAt, ok]

@[simp] theorem State.rtwrDone_storeOk {s : State} (bar : Bar) (ok : StoreOk s.store) : StoreOk (s.rtwrDone bar).store := by
  simp only [State.rtwrDone]
  split <;> simp [ok]

@[simp] theorem State.setIbxWord_storeOk {s : State} (t : Nat) (x : Word) (at_ v : Nat) (ok : StoreOk s.store) :
    StoreOk (s.setIbxWord t x at_ v).store := by simp [State.setIbxWord, ok]
@[simp] theorem State.landMsg_storeOk {s : State} (t : Nat) (x : Word) (h : MsgHdr) (ok : StoreOk s.store) :
    StoreOk (s.landMsg t x h).store := by simp [State.landMsg, ok]

@[simp] theorem State.acceptMsg_storeOk {s : State} (t crew : Nat) (x : Word) (h : MsgHdr) (data : List Byte)
    (ok : StoreOk s.store) :
    StoreOk (s.acceptMsg t crew x h data).store := by simp [State.acceptMsg, ok]

@[simp] theorem State.dropMsg_storeOk {s : State} (t : Nat) (x : Word) (ok : StoreOk s.store) :
    StoreOk (s.dropMsg t x).store := by simp [State.dropMsg, ok]
@[simp] theorem State.fetchMedia_storeOk {s : State} (k : Nat) (ok : StoreOk s.store) : StoreOk (s.fetchMedia k).store := by
  grind [State.fetchMedia, State.farPlace_storeOk, State.mediaMet_store, State.failWait_store]

@[simp] theorem State.linkBlock_storeOk {s : State} (k : Nat) (b next : Word) (ok : StoreOk s.store) :
    StoreOk (s.linkBlock k b next).store := by
  grind [State.linkBlock, State.writeLoc_storeOk, State.plainPlace_storeOk, State.writePa_storeOk]

@[simp] theorem State.applyAtomic_storeOk {s : State} (r : FarReq) (pa : Nat) (ok : StoreOk s.store) :
    StoreOk (s.applyAtomic r pa).2.store := by
  simp only [State.applyAtomic]
  (repeat' split) <;> simp [ok]

theorem State.forward_storeOk {s : State} (field : Nat) (r : FarReq) (l : Leaf) (va : Nat) (ok : StoreOk s.store) {w}
    (hw : s.forward field r l va = some w) :
    StoreOk w.store := by
  grind [State.forward, State.transError_storeOk, State.farAnswer_store, State.drawSeq_store, State.movePkt_store,
    State.sendTo_store]

@[simp] theorem State.writeEn_storeOk {s : State} (l : Loc) (n : Nat) (en : BitVec 64) (v : BitVec 512) (ok : StoreOk s.store) :
    StoreOk (s.writeEn l n en v).store := by
  refine State.foldl_storeOk (fun s i ok => ?_) _ ok
  split
  · exact State.writeLoc_storeOk _ _ ok
  · exact ok

@[simp] theorem State.knotAtBank_storeOk {s : State} (p : Pkt) (l : Loc) (op : KnotOp) (outId : Nat) (ok : StoreOk s.store) :
    StoreOk (s.knotAtBank p l op outId).store := by
  simp only [State.knotAtBank]
  (repeat' split) <;> simp [ok]

@[simp] theorem State.landImm_storeOk {s : State} (ctx : Nat) (l : Loc) (n : Nat) (en : BitVec 64) (v : BitVec 512)
    (ok : StoreOk s.store) :
    StoreOk (s.landImm ctx l n en v).store := by simp [State.landImm, ok]

@[simp] theorem State.amoAt_storeOk {s : State} (ctx : Nat) (l : Loc) (op : AmoOp) (ty : Ty) (b cmp : Word)
    (ok : StoreOk s.store) :
    StoreOk (s.amoAt ctx l op ty b cmp).2.store := by simp [State.amoAt, ok]

@[simp] theorem State.initBar_storeOk {s : State} (l : Loc) (n : Nat) (ok : StoreOk s.store) :
    StoreOk (s.initBar l n).store := by simp [State.initBar, ok]

@[simp] theorem State.landBuf_storeOk {s : State} (core : Nat) (r : Run) (b : LineBuf) (ok : StoreOk s.store) :
    StoreOk (s.landBuf core r b).store := by
  simp only [State.landBuf]
  split
  · simp only [State.delivered_store]
    refine State.foldl_storeOk (fun s x ok => ?_) _ (by simpa using ok)
    split
    · exact State.writeLoc_storeOk _ _ ok
    · exact ok
  · rw [State.foldl_store _ fun s x => by simp]
    simpa using ok

@[simp] theorem State.landLogged_storeOk {s : State} (t : Nat) (h : MsgHdr) (data : List Byte) (ok : StoreOk s.store) :
    StoreOk (s.landLogged t h data).store := by simp [State.landLogged, ok]

theorem State.applyLogged_storeOk {s : State} (crew : Nat) (r : LogRec) (ok : StoreOk s.store) {w}
    (hw : s.applyLogged crew r = some w) :
    StoreOk w.store := by
  grind [State.applyLogged, State.landLogged_storeOk, State.watchWake_store, State.writeEn_storeOk, State.winWrite_storeOk,
    State.returnLogged_store, State.wakeLogged_store, State.refreshView_store, State.completeX_store, State.dealFrom_store,
    State.countLaunch_store]

@[simp] theorem State.replayDue_storeOk {s : State} (fuel t crew : Nat) (ok : StoreOk s.store) :
    StoreOk (s.replayDue fuel t crew).store := by
  induction fuel generalizing s with
  | zero => exact ok
  | succ fuel ih =>
    simp only [State.replayDue]
    split
    · exact ok
    · split
      · next h => exact ih (State.applyLogged_storeOk _ _ (by simpa using ok) h)
      · exact ok

@[simp] theorem State.replayTile_storeOk {s : State} (t : Nat) (ok : StoreOk s.store) : StoreOk (s.replayTile t).store := by
  simp only [State.replayTile]
  split <;> simp [ok]

theorem State.hostPublish_storeOk {s : State} (fn : Nat) (a len : Word) (ok : StoreOk s.store) {w}
    (hw : s.hostPublish fn a len = some w) :
    StoreOk w.2.store := by
  have told (part : Nat) (l : List (Nat × Option Nat × Nat × Nat)) : ∀ r : BitVec 8 × State, StoreOk r.2.store →
      StoreOk (l.foldl (fun (r : BitVec 8 × State) x =>
        let code := (r.2.bufMap x.1 part x.2.2.1).admits x.2.2.2
        if code = 0 then (r.1, r.2.publishAt x.1 part x.2.2.1) else (if r.1 = 0 then code else r.1, r.2)) r).2.store := by
    induction l with
    | nil => exact fun _ ok => ok
    | cons x rest ih =>
      intro r ok
      refine ih _ ?_
      dsimp only
      split
      · exact State.publishAt_storeOk _ _ _ ok
      · exact ok
  have leaves := ok.of_eq (s.publLeaves_store (len.toNat / 2 ^ 16 + 2) anchorField (s.pctx fn) a len.toNat)
  simp only [State.hostPublish] at hw
  split at hw
  · cases hw; exact ok
  · split at hw
    · next h => cases hw; exact leaves.snd h
    · next h =>
      split at hw <;> cases hw
      exact told (s.pctx fn) (publTargets _) (0, _) (leaves.snd h)

theorem State.hostPublishes_storeOk {s : State} (fuel fn : Nat) (ok : StoreOk s.store) :
    StoreOk (s.hostPublishes fuel fn).store := by
  induction fuel generalizing s with
  | zero => exact ok
  | succ fuel ih =>
    unfold State.hostPublishes
    cases hq : (s.host fn).pubq with
    | nil => exact ok
    | cons p rest =>
      dsimp only
      split
      · exact ok
      · split
        · exact ok
        · next h => exact ih ((State.hostPublish_storeOk _ _ _ ok h).of_eq (State.modHost_store ..))

@[simp] theorem State.hostSettle_storeOk {s : State} (fn : Nat) (ok : StoreOk s.store) :
    StoreOk (s.hostSettle fn).store := by
  have held := State.hostPublishes_storeOk (s.host fn).pubq.length fn ok
  simp only [State.hostSettle]
  split
  · exact ok
  · split
    · exact State.hostLaunch_storeOk _ held
    · exact held

@[simp] theorem State.writeQsc_storeOk {s : State} (v : Word) (ok : StoreOk s.store) : StoreOk (s.writeQsc v).store := by
  simp only [State.writeQsc]
  split
  · split <;> simp [ok]
  · exact State.foldl_storeOk (fun _ fn ok => State.hostSettle_storeOk fn ok) _ (by simpa using ok)

@[simp] theorem State.writeSys_storeOk {s : State} (off : Nat) (v : Word) (fw : Bool) (site : Nat) (ok : StoreOk s.store) :
    StoreOk (s.writeSys off v fw site).store := by
  simp [State.writeSys, ok]

@[simp] theorem State.parkAct_storeOk {s : State} (field : Nat) (v : Word) (ok : StoreOk s.store) :
    StoreOk (s.parkAct field v).store := by
  simp only [State.parkAct]
  split
  · simpa using ok
  · split
    · simpa using ok
    · next r _ =>
      refine State.unparkBar_storeOk _ ?_
      generalize hs : State.setGw (State.setGw s _ _) _ _ = s1
      have ok1 : StoreOk s1.store := by rw [← hs]; simpa using ok
      split
      · (repeat' split) <;> simp [ok1]
      · refine State.ite_storeOk ok1 ?_
        split
        · exact State.beginWalk_storeOk _ _ _ ok1
        · generalize hu : s1.toPeer field r = u
          cases u with
          | none => simpa using ok1
          | some u => exact State.toPeer_storeOk _ _ ok1 hu
        · exact State.transError_storeOk _ _ _ ok1

@[simp] theorem State.writeGw_storeOk {s : State} (field off : Nat) (v : Word) (fw : Bool) (ok : StoreOk s.store) :
    StoreOk (s.writeGw field off v fw).store := by
  simp only [State.writeGw]
  (repeat' split) <;> simp [ok]

@[simp] theorem State.ctrlWrite_storeOk {s : State} (a v : Word) (level : BitVec 2) (site : Nat) (ok : StoreOk s.store) :
    StoreOk (s.ctrlWrite a v level site).store := by
  simp only [State.ctrlWrite]
  (repeat' split) <;> simp [ok]

@[simp] theorem State.settleCtx_storeOk {s : State} (k : Nat) (ok : StoreOk s.store) : StoreOk (s.settleCtx k).store := by
  delta State.settleCtx
  dsimp only
  generalize (s.ctx k).wait = w
  cases w with
  | drain _ | drainBank _ _ | fence _ | taskend _ => dsimp only; split <;> simp [ok]
  | join p t asked | hop target c np asked =>
    cases asked
    · dsimp only; split <;> simp [ok]
    · exact ok
  | swap d c slot spill =>
    dsimp only
    split
    · next h => simpa using State.swapOut_storeOk _ _ _ _ ok h
    · exact ok
  | _ => exact ok

@[simp] theorem State.settle_storeOk {s : State} (ok : StoreOk s.store) : StoreOk s.settle.store :=
  State.foldl_storeOk (fun _ e ok => State.settleCtx_storeOk e.1 ok) _ ok

@[simp] theorem State.hostPiece_storeOk {s : State} (fn off : Nat) (data : List Byte) (ok : StoreOk s.store) :
    StoreOk (s.hostPiece fn off data).store := by
  simp only [State.hostPiece]
  split
  · exact ok
  · split
    · simpa using ok
    · split
      · split <;> simp [ok]
      · next a _ =>
        have walked := ok.of_eq (s.translate_store anchorField (s.pctx fn) (a.toNat % 2 ^ 52) .write false)
        split
        · next h => simpa using walked.snd h
        · next h =>
          have okt := walked.snd h
          split
          · simpa using okt
          · split
            · simpa using okt
            · next hb =>
              have okb := State.bufWrite_storeOk _ _ _ _ _ (by simpa using okt) hb
              split
              · exact okb
              · simpa using okb

theorem State.hostPieces_storeOk {s : State} (fn : Nat) (ps : List (Word × Nat)) (ok : StoreOk s.store) {w}
    (hw : s.hostPieces fn ps = some w) :
    StoreOk w.2.store := by
  induction ps generalizing s w with
  | nil => cases hw; exact ok
  | cons p rest ih =>
    simp only [State.hostPieces] at hw
    split at hw
    · cases hw
    · next x _ =>
      have read : StoreOk (match x with
          | .phys pa => ((if s.rangeOk pa p.2 then .ok (s.readPa pa p.2) else .error ePa : Except (BitVec 8) (List Byte)), s)
          | .virt a => s.hostRead fn a p.2).2.store := by
        split
        · exact ok
        · exact State.hostRead_storeOk _ _ _ ok
      split at hw
      · cases hw; exact read
      · simp only [Option.map_eq_some_iff] at hw
        obtain ⟨q, hq, rfl⟩ := hw
        exact ih (w := q) read hq

theorem State.hostBytes_storeOk {s : State} (fn off len : Nat) (ok : StoreOk s.store) {w}
    (hw : s.hostBytes fn off len = some w) :
    StoreOk w.2.store :=
  State.hostPieces_storeOk _ _ ok hw

@[simp] theorem State.undefPages_storeOk {s : State} (fuel field part va : Nat) (ok : StoreOk s.store) :
    StoreOk (s.undefPages fuel field part va).store := by
  induction fuel generalizing s va with
  | zero => exact ok
  | succ fuel ih =>
    have walked := ok.of_eq (s.translate_store field part va .read true)
    refine ih _ ?_
    split
    · next h =>
      have okt := walked.snd h
      dsimp only
      split
      · exact okt
      · simpa only [State.store_with, State.store_fold] using State.writePa_storeOk _ _ okt
    · next h => exact walked.snd h

@[simp] theorem State.stageAt_storeOk {s : State} (v crew : Nat) (ok : StoreOk s.store) :
    StoreOk (s.stageAt v crew).2.store := by
  simp only [State.stageAt]
  (repeat' split) <;> simp [ok]

@[simp] theorem State.lostBlock_storeOk {s : State} (part : Nat) (p : Place) (ok : StoreOk s.store) :
    StoreOk (s.lostBlock part p).store := by
  simp only [State.lostBlock, State.countPart_store]
  split
  · exact State.writeLoc_storeOk _ _ ok
  · next va =>
    have place := State.plainPlace_storeOk (s.partField part) part va 32 ok
    split
    · next h => exact State.writePa_storeOk _ _ (place.snd h)
    · next h => exact place.snd h

@[simp] theorem State.considered_storeOk {s : State} (p : Nat) (b : Block) (ok : StoreOk s.store) :
    StoreOk (s.considered p b).2.store := by
  have read {u : State} (ok : StoreOk u.store) (t0 : Nat) := State.entryReason_storeOk p b t0 ok
  have list := State.routeList_storeOk p b ok
  unfold State.considered
  split
  · exact ok
  · split
    · exact ok
    · split
      · exact ok
      · split
        · exact ok
        · generalize s.routeList p b = r at list
          obtain ⟨l, u⟩ := r
          have reason := read list
          dsimp only
          generalize ((l.bind _).or _).getD _ = t0
          have okr := reason t0
          generalize u.entryReason p b t0 = q at okr
          (repeat' split) <;> exact okr

@[simp] theorem State.dispatchOne_storeOk {s : State} (p : Nat) (e : QEnt) (mayPlace : Bool) (ok : StoreOk s.store) :
    StoreOk (s.dispatchOne p e mayPlace).2.store := by
  have seen := State.considered_storeOk p e.blk ok
  simp only [State.dispatchOne]
  split <;> next h =>
    have oks := seen.snd h
    (repeat' split) <;> simpa using oks

@[simp] theorem State.dispatchFrom_storeOk {s : State} (p : Nat) (q : List QEnt) (stale : Option QEnt) (ok : StoreOk s.store) :
    StoreOk (s.dispatchFrom p q stale).2.store := by
  induction q generalizing s with
  | nil => exact ok
  | cons e rest ih =>
    have one (may : Bool) := State.dispatchOne_storeOk p e may ok
    simp only [State.dispatchFrom]
    split
    · next h => exact (one _).snd h
    · next h => exact ih ((one _).snd h)

theorem State.refuseMsg_storeOk {s : State} (t : Nat) (h : MsgHdr) (ok : StoreOk s.store) {w} (hw : s.refuseMsg t h = some w) :
    StoreOk w.store := by
  simp only [State.refuseMsg] at hw
  (repeat' split at hw) <;> cases hw <;> simp [ok]

@[simp] theorem State.hostWritten_storeOk {s : State} (fn : Nat) (r : FarReq) (err : BitVec 8) (ok : StoreOk s.store) :
    StoreOk (s.hostWritten fn r err).store := by
  refine State.hostSettle_storeOk _ ?_
  split <;> simp [ok]

@[simp] theorem State.storeAcc_storeOk {s : State} (core : Nat) (o : MOp) (ty : Ty) (rm : Rm) (sat : Bool) (e : TsEnt)
    (ok : StoreOk s.store) :
    StoreOk (s.storeAcc core o ty rm sat e).1.store := by
  have put (a : Nat → Word) (l : List (Byte × Nat)) {u : State} (ok : StoreOk u.store) :
      StoreOk (l.foldl (fun s b => match s.opPlace o (a b.2) with
        | .ok l => s.writeLoc l [b.1]
        | .error _ => s) u).store := by
    refine State.foldl_storeOk (fun s b ok => ?_) _ ok
    split
    · exact State.writeLoc_storeOk _ _ ok
    · exact ok
  have rows (l : List Nat) (f : State × MxCount → Nat → State × MxCount)
      (hf : ∀ r i, StoreOk r.1.store → StoreOk (f r i).1.store) :
      ∀ r, StoreOk r.1.store → StoreOk (l.foldl f r).1.store := by
    induction l with
    | nil => exact fun _ ok => ok
    | cons i rest ih => exact fun r ok => ih _ (hf r i ok)
  exact rows _ _ (fun r i ok => put _ _ (put _ _ ok)) _ ok

@[simp] theorem State.finishOp_storeOk {s : State} (core : Nat) (o : MOp) (ok : StoreOk s.store) :
    StoreOk (s.finishOp core o).1.store := by
  simp only [State.finishOp]
  (repeat' split) <;> simp [ok]

@[simp] theorem State.publMove_storeOk {s : State} (core : Nat) (r : Run) (va len : Word) (ok : StoreOk s.store) :
    StoreOk (s.publMove core r va len).store := by
  have leaves (fuel field part : Nat) := ok.of_eq (s.publLeaves_store fuel field part va len.toNat)
  simp only [State.publMove]
  split
  · exact ok
  · split
    · simpa using ok
    · split
      · next h =>
        have okt := (leaves _ _ _).snd h
        split
        · split
          · next hp =>
            have := State.parkReq_storeOk _ _ (okt.of_eq (by simp)) hp
            simpa using this
          · simpa using okt
        · simpa using okt
      · next h => simpa using (leaves _ _ _).snd h

@[simp] theorem State.runMove_storeOk {s : State} (core : Nat) (r : Run) (ok : StoreOk s.store) :
    StoreOk (s.runMove core r).store := by
  simp only [State.runMove]
  split
  · exact State.publMove_storeOk _ _ _ _ ok
  · split
    · split
      · exact ok
      · split
        · next h => exact State.landBuf_storeOk _ _ _ (by simpa [State.useLines_store _ _ _ h] using ok)
        · exact ok
    · split
      · split
        · simpa using ok
        · split
          · next h => simpa [State.useLines_store _ _ _ h] using ok
          · exact ok
      · split
        · exact ok
        · split <;> simpa using ok

@[simp] theorem State.exactMove_storeOk {s : State} (core : Nat) (r : Run) (ok : StoreOk s.store) :
    StoreOk (s.exactMove core r).store := by
  have written (l : List (Src × Option Byte)) {u : State} (ok : StoreOk u.store) :
      StoreOk (l.foldl (fun (s : State) (x : Src × Option Byte) => match x.1 with
        | .vault l => s.writeLoc l [x.2.getD 0]
        | _ => s) u).store := by
    refine State.foldl_storeOk (fun s x ok => ?_) _ ok
    split
    · exact State.writeLoc_storeOk _ _ ok
    · exact ok
  simp only [State.exactMove]
  split <;> simp only [State.stopRun_store, State.modRun_store] <;> split
  · refine written _ ?_
    simp only [State.takeLine_store]
    split <;> simp [ok]
  · split <;> simp [ok]
  · refine written _ ?_
    simp only [State.takeLine_store]
    split <;> simp [ok]
  · split <;> simp [ok]

end Sys2Proof.Machine
end

section
/-! The invariant of memory through the effects of instructions: what an effect leaves when it is not stopped, what the stop of a group
keeps, and the checks, which read the state and change nothing. -/

namespace Sys2Proof.Machine

/-- The state of a request that a group waits for keeps the form. -/
def Stop.Ok : Stop → Prop
  | .again t => StoreOk t.store
  | _ => True

/-- An effect that is not stopped leaves what satisfies `P`; one that sends a request first keeps the form. -/
def Leaves {α : Type} (P : α → Prop) : Except Stop α → Prop
  | .ok a => P a
  | .error e => e.Ok

/-- What an instruction answers keeps the form. -/
def Answers : Ans → Prop
  | .next t => StoreOk t.store
  | _ => True

section
variable {α β : Type} {P : α → Prop} {Q : β → Prop} {a : α} {s t : State}

@[simp] theorem stop_trap_ok (c : BitVec 8) (a : Word) : (Stop.trap c a).Ok := trivial
@[simp] theorem stop_note_ok (c : BitVec 8) (a : Word) (b : Bool) (h : Option (Nat × Nat)) : (Stop.note c a b h).Ok :=
  trivial
@[simp] theorem stop_refuse_ok : Stop.refuse.Ok := trivial
@[simp] theorem stop_held_ok (l : Nat) : (Stop.held l).Ok := trivial
@[simp] theorem stop_sleep_ok (w : Wait) : (Stop.sleep w).Ok := trivial
@[simp] theorem stop_again_ok : (Stop.again t).Ok ↔ StoreOk t.store := .rfl
@[simp] theorem leaves_ok : Leaves P (.ok a) ↔ P a := .rfl
@[simp] theorem leaves_pure : Leaves P (pure a) ↔ P a := .rfl
@[simp] theorem leaves_error (e : Stop) : Leaves P (.error e) ↔ e.Ok := .rfl
@[simp] theorem leaves_ite (c : Prop) [Decidable c] (x y : Except Stop α) :
    Leaves P (if c then x else y) ↔ if c then Leaves P x else Leaves P y := by split <;> rfl
@[simp] theorem leaves_bind (r : Except Stop α) (f : α → Except Stop β) :
    Leaves Q (r >>= f) ↔ Leaves (fun a => Leaves Q (f a)) r := by cases r <;> rfl
@[simp] theorem leaves_functor_map (r : Except Stop α) (f : α → β) : Leaves Q (f <$> r) ↔ Leaves (fun a => Q (f a)) r := by
  cases r <;> rfl
@[simp] theorem leaves_map (r : Except Stop α) (f : α → β) : Leaves Q (r.map f) ↔ Leaves (fun a => Q (f a)) r := by
  cases r <;> rfl

theorem Leaves.imp {r : Except Stop α} {P' : α → Prop} (h : Leaves P r) (hp : ∀ a, P a → P' a) : Leaves P' r := by
  cases r with
  | ok a => exact hp a h
  | error e => exact h

/-- A check of the state, which leaves nothing of its own. -/
theorem leaves_iff {r : Except Stop α} (h : Leaves (fun _ => True) r) : Leaves P r ↔ ∀ out, r = .ok out → P out := by
  cases r with
  | ok a => simp
  | error e => simpa using h

theorem leaves_mapM {γ : Type} {f : γ → Except Stop α} (h : ∀ x, Leaves (fun _ => True) (f x)) (l : List γ) :
    Leaves (fun _ => True) (l.mapM f) := by
  induction l with
  | nil => simp
  | cons x rest ih => simp [leaves_iff (h x), leaves_iff ih]

@[simp] theorem answers_next : Answers (.next t) ↔ StoreOk t.store := .rfl
@[simp] theorem answers_fault (r : Fault) : Answers (.fault r) := trivial

@[simp] theorem answers_ite (c : Prop) [Decidable c] (x y : Ans) :
    Answers (if c then x else y) ↔ if c then Answers x else Answers y := by
  split <;> rfl

theorem runThread_answers {g : Guard} {f : State → Act} (ok : StoreOk s.store) (hf : Leaves (fun t => StoreOk t.store) (f s)) :
    Answers (runThread g s f) := by
  simp only [runThread]
  split
  · trivial
  · split
    · exact ok
    · split <;> next h => simp only [h, leaves_ok, leaves_error, stop_again_ok] at hf; simp [ok, hf]

theorem runPriv_answers {n : Nat} {g : Guard} {f : State → Act} (ok : StoreOk s.store)
    (hf : Leaves (fun t => StoreOk t.store) (f s)) :
    Answers (runPriv n g s f) := by
  simp only [runPriv]
  split
  · trivial
  · split
    · simpa using ok
    · exact runThread_answers ok hf

@[simp] theorem leaves_check (ok : Bool) (c : BitVec 8) (a : Word) {P : Unit → Prop} :
    Leaves P (check ok c a) ↔ (ok = true → P ()) := by
  cases ok <;> simp [check]

end

theorem State.stopGroup_storeOk {s : State} {memb : Bool} {e : Stop} (ok : StoreOk s.store) (he : e.Ok) :
    StoreOk (s.stopGroup memb e).store := by
  cases e with
  | again t => exact he
  | _ => simp only [State.stopGroup]; simp [ok]

section
variable {s : State} {P : Unit → Prop}

@[simp] theorem codeCheck_leaves (g : Seg) (a e : Word) :
    Leaves P (codeCheck g a e) ↔ ∀ out, codeCheck g a e = .ok out → P out :=
  leaves_iff (by simp [codeCheck])

@[simp] theorem State.checkPush_leaves (core : Nat) (east : Bool) :
    Leaves P (s.checkPush core east) ↔ ∀ out, s.checkPush core east = .ok out → P out :=
  leaves_iff (by simp [State.checkPush])

@[simp] theorem State.tagCheck_leaves (e : TsEnt) : Leaves P (s.tagCheck e) ↔ ∀ out, s.tagCheck e = .ok out → P out :=
  leaves_iff (by simp only [State.tagCheck]; split <;> simp)

@[simp] theorem State.attachedAll_leaves (rs : List (Word × Nat)) :
    Leaves P (s.attachedAll rs) ↔ ∀ out, s.attachedAll rs = .ok out → P out :=
  leaves_iff (by simp only [State.attachedAll]; split <;> simp)

@[simp] theorem sampleEntry_leaves (e : TsEnt) : Leaves P (sampleEntry s e) ↔ ∀ out, sampleEntry s e = .ok out → P out :=
  leaves_iff (by simp [sampleEntry])

@[simp] theorem State.listCheck_leaves (a : Word) (n : Nat) :
    Leaves P (s.listCheck a n) ↔ ∀ out, s.listCheck a n = .ok out → P out :=
  leaves_iff (by simp [State.listCheck])

@[simp] theorem State.rsvCheck_leaves (l : List (Nat × Nat)) :
    Leaves P (s.rsvCheck l) ↔ ∀ out, s.rsvCheck l = .ok out → P out :=
  leaves_iff (by simp only [State.rsvCheck]; split <;> simp)

@[simp] theorem State.engineWindows_leaves (es : List TsEnt) (w : Bool) :
    Leaves P (s.engineWindows es w) ↔ ∀ out, s.engineWindows es w = .ok out → P out :=
  leaves_iff (by simp only [State.engineWindows]; split <;> simp)

@[simp] theorem State.farRoom_leaves (a : Word) : Leaves P (s.farRoom a) ↔ ∀ out, s.farRoom a = .ok out → P out :=
  leaves_iff (by simp only [State.farRoom]; split <;> simp)
@[simp] theorem slotZero_leaves : Leaves P (slotZero s) ↔ ∀ out, slotZero s = .ok out → P out :=
  leaves_iff (by simp [slotZero])

@[simp] theorem State.windowChecks_leaves (a : Word) (n : Nat) (v : Bool) :
    Leaves P (s.windowChecks a n v) ↔ ∀ out, s.windowChecks a n v = .ok out → P out :=
  leaves_iff (by simp [State.windowChecks])

theorem State.targetCheck_leaves (ok : StoreOk s.store) (t : Word) : Leaves (fun _ => True) (s.targetCheck t) := by
  simp only [State.targetCheck]
  simp
  intros
  split <;> simp [ok]

end

section
variable {s : State} {α : Type}

@[simp] theorem stopArg_leaves {P : Nat × Nat → Prop} (x : Word) (p : Bool) :
    Leaves P (State.stopArg x p) ↔ ∀ out, State.stopArg x p = .ok out → P out :=
  leaves_iff (by simp [State.stopArg])

@[simp] theorem State.swapArg_leaves {P : Nat × Nat → Prop} (x : Word) (p : Bool) :
    Leaves P (s.swapArg x p) ↔ ∀ out, s.swapArg x p = .ok out → P out :=
  leaves_iff (by simp [State.swapArg])

@[simp] theorem State.returnCheck_leaves {P : TrapRec → Prop} :
    Leaves P (s.returnCheck) ↔ ∀ out, s.returnCheck = .ok out → P out :=
  leaves_iff (by simp only [State.returnCheck]; split <;> simp)

@[simp] theorem State.resolve_leaves {P : Loc → Prop} (a : Word) (w : Bool) :
    Leaves P (s.resolve a w) ↔ ∀ out, s.resolve a w = .ok out → P out :=
  leaves_iff (by simp only [State.resolve]; (repeat' split) <;> simp)

@[simp] theorem State.segEA_leaves {P : Word → Prop} (m : MemOp) (n : Nat) (k : List Nat) (r : Option Nat) :
    Leaves P (s.segEA m n k r) ↔ ∀ out, s.segEA m n k r = .ok out → P out :=
  leaves_iff (by simp only [State.segEA]; split <;> simp)

@[simp] theorem State.vaultEA_leaves {P : Word × Loc → Prop} (m : MemOp) (n : Nat) (k : List Nat) (r : Nat) (w : Bool) :
    Leaves P (s.vaultEA m n k r w) ↔ ∀ out, s.vaultEA m n k r w = .ok out → P out :=
  leaves_iff (by simp only [State.vaultEA]; split <;> simp)

@[simp] theorem State.weightBytes_leaves {P : List Byte → Prop} (e : TsEnt) (n : Nat) :
    Leaves P (s.weightBytes e n) ↔ ∀ out, s.weightBytes e n = .ok out → P out :=
  leaves_iff (leaves_mapM (fun _ => by simp) _)

@[simp] theorem State.bindOf_leaves {P : Nat × Nat → Prop} : Leaves P s.bindOf ↔ ∀ out, s.bindOf = .ok out → P out :=
  leaves_iff (by simp only [State.bindOf]; (repeat' split) <;> simp)

@[simp] theorem State.versionArg_leaves {P : BitVec 16 → Prop} (a : BitVec 6) :
    Leaves P (s.versionArg a) ↔ ∀ out, s.versionArg a = .ok out → P out :=
  leaves_iff (by simp [State.versionArg])

@[simp] theorem State.knotEA_leaves {P : Place → Prop} (m : MemOp) :
    Leaves P (s.knotEA m) ↔ ∀ out, s.knotEA m = .ok out → P out :=
  leaves_iff (by simp [State.knotEA])

@[simp] theorem reapSlot_leaves {P : Nat → Prop} (a : BitVec 6) :
    Leaves P (reapSlot a s) ↔ ∀ out, reapSlot a s = .ok out → P out :=
  leaves_iff (by simp [reapSlot])

@[simp] theorem State.barCheck_leaves {P : Loc → Prop} (a : Word) (t : Nat) :
    Leaves P (s.barCheck a t) ↔ ∀ out, s.barCheck a t = .ok out → P out :=
  leaves_iff (by simp [State.barCheck])

@[simp] theorem State.barReg_leaves {P : Bar → Prop} (c : BitVec 6) :
    Leaves P (s.barReg c) ↔ ∀ out, s.barReg c = .ok out → P out :=
  leaves_iff (by simp [State.barReg])

@[simp] theorem State.timedCheck_leaves {P : Nat → Prop} (c : BitVec 32) :
    Leaves P (s.timedCheck c) ↔ ∀ out, s.timedCheck c = .ok out → P out :=
  leaves_iff (by simp [State.timedCheck])

@[simp] theorem State.startOf_leaves {P : Option Nat → Prop} (b : Bool) (c : BitVec 32) :
    Leaves P (s.startOf b c) ↔ ∀ out, s.startOf b c = .ok out → P out :=
  leaves_iff (by simp [State.startOf])

@[simp] theorem State.coverCheck_leaves {P : Seg → Prop} (a : Word) (x y : Int) :
    Leaves P (s.coverCheck a x y) ↔ ∀ out, s.coverCheck a x y = .ok out → P out :=
  leaves_iff (by simp only [State.coverCheck]; split <;> simp)

@[simp] theorem State.sourceRange_leaves {P : List Loc → Prop} (a : Word) (x : Nat) :
    Leaves P (s.sourceRange a x) ↔ ∀ out, s.sourceRange a x = .ok out → P out := by
  have all (l : List Word) : Leaves (fun _ => True) (l.mapM (fun w => s.resolve w false)) := leaves_mapM (fun _ => by simp) _
  exact leaves_iff (by simp [State.sourceRange, leaves_iff (all _)])

@[simp] theorem State.lateChecks_leaves {P : Option Nat → Prop} (b : Bool) (c : BitVec 32) (e : TsEnt) :
    Leaves P (s.lateChecks b c e) ↔ ∀ out, s.lateChecks b c e = .ok out → P out :=
  leaves_iff (by simp [State.lateChecks])

@[simp] theorem State.weightSlot_leaves {P : Option Nat → Prop} (b : Word) (c : Bool) :
    Leaves P (s.weightSlot b c) ↔ ∀ out, s.weightSlot b c = .ok out → P out :=
  leaves_iff (by simp [State.weightSlot])

@[simp] theorem State.entrySlot_leaves {P : Option Nat → Prop} (b : TsEnt) (c : Bool) :
    Leaves P (s.entrySlot b c) ↔ ∀ out, s.entrySlot b c = .ok out → P out :=
  leaves_iff (by simp [State.entrySlot])

@[simp] theorem State.named_leaves {P : TsEnt → Prop} (b : BitVec 6) (c : Bool) :
    Leaves P (s.named b c) ↔ ∀ out, s.named b c = .ok out → P out :=
  leaves_iff (by simp [State.named])

@[simp] theorem State.engineEntry_leaves {P : TsEnt → Prop} (b : BitVec 6) (c : Bool) :
    Leaves P (s.engineEntry b c) ↔ ∀ out, s.engineEntry b c = .ok out → P out :=
  leaves_iff (by simp [State.engineEntry])

@[simp] theorem State.productEntries_leaves {P : TsEnt × TsEnt → Prop} (a b : BitVec 6) :
    Leaves P (s.productEntries a b) ↔ ∀ out, s.productEntries a b = .ok out → P out :=
  leaves_iff (by simp [State.productEntries])

@[simp] theorem State.resvEA_leaves {P : Word × Loc → Prop} (m : MemOp) (b : Bool) :
    Leaves P (s.resvEA m b) ↔ ∀ out, s.resvEA m b = .ok out → P out :=
  leaves_iff (by simp [State.resvEA])

@[simp] theorem State.amoEA_leaves {P : Word × Option Loc → Prop} (m : MemOp) (b : Nat) :
    Leaves P (s.amoEA m b) ↔ ∀ out, s.amoEA m b = .ok out → P out :=
  leaves_iff (by simp only [State.amoEA]; split <;> simp)

@[simp] theorem globalEA_leaves {P : Word × Option Loc → Prop} (m : MemOp) (b : Nat) (x y : Bool) :
    Leaves P (globalEA s m b x y) ↔ ∀ out, globalEA s m b x y = .ok out → P out :=
  leaves_iff (by simp only [globalEA]; split <;> simp)

@[simp] theorem State.legal_leaves {P : Instr → Prop} (m : Nat) (b : BitVec 96) :
    Leaves P (State.legal m b) ↔ ∀ out, State.legal m b = .ok out → P out :=
  leaves_iff (by simp only [State.legal]; split <;> simp)

end

end Sys2Proof.Machine
end

section
/-! The effects of thread instructions that change the state: reads and writes of link FIFOs, banks, windows, queues and knots. -/

namespace Sys2Proof.Machine

section
variable {s : State}

@[simp] theorem State.takeBank_leaves (ok : StoreOk s.store) (b : Nat) :
    Leaves (fun t => StoreOk t.store) (s.takeBank b) := by
  simp [State.takeBank, ok]

@[simp] theorem State.takeWrite_leaves (ok : StoreOk s.store) (l : Loc) (n : Nat) :
    Leaves (fun t => StoreOk t.store) (s.takeWrite l n) := by
  simp only [State.takeWrite]
  split
  · split <;> trivial
  · exact State.takeBank_leaves ok _

theorem State.popWord_leaves (ok : StoreOk s.store) (c : Nat) (e : Bool) :
    Leaves (fun q => StoreOk q.2.store) (s.popWord c e) := by
  simp only [State.popWord, leaves_bind, leaves_check]
  intros
  split
  · trivial
  · simp [ok]

@[simp] theorem State.pushAll_leaves (ok : StoreOk s.store) (c : Nat) (l : List Bool) (v : Vec) :
    Leaves (fun t => StoreOk t.store) (s.pushAll c l v) := by
  have may : Leaves (fun _ => True) (l.mapM (fun side => s.checkPush c side)) := leaves_mapM (fun _ => by simp) l
  simp [State.pushAll, leaves_iff may, ok]

@[simp] theorem State.timedPush_leaves (ok : StoreOk s.store) (c : Nat) (d : Dir) (l : Option Bool) (v : Vec) :
    Leaves (fun t => StoreOk t.store) (s.timedPush c d l v) := by
  simp only [State.timedPush, leaves_bind]
  cases l with
  | none => exact State.pushAll_leaves ok ..
  | some east => exact (State.popWord_leaves ok ..).imp fun q hq => State.pushAll_leaves hq ..

@[simp] theorem State.immWrite_leaves (ok : StoreOk s.store) (a : Word) (l : Loc) (n : Nat) (en : BitVec 64) (v : BitVec 512) :
    Leaves (fun t => StoreOk t.store) (s.immWrite a l n en v) := by
  simp only [State.immWrite]
  split
  · exact (leaves_bind ..).mpr ((State.takeWrite_leaves ok l n).imp fun t ht => State.landImm_storeOk _ _ _ _ _ ht)
  · simp [ok]

@[simp] theorem State.bufferStore_leaves (ok : StoreOk s.store) (a : Word) (l : Loc) (n : Nat) (en : BitVec 64) (v : BitVec 512) :
    Leaves (fun t => StoreOk t.store) (s.bufferStore a l n en v) := by
  simp only [State.bufferStore]
  split
  · trivial
  · split
    · exact State.immWrite_leaves ok ..
    · simp [ok]

theorem State.loadBytes_leaves (ok : StoreOk s.store) (a : Word) (l : Loc) (n : Nat) :
    Leaves (fun q => StoreOk q.2.store) (s.loadBytes a l n) := by
  simp only [State.loadBytes]
  split
  · trivial
  · split
    · exact (leaves_bind ..).mpr (State.takeBank_leaves ok l.bank)
    · split
      · next h =>
        split at h
        · exact ok.of_eq (State.takeReply_store _ h)
        · cases h
      · simp [ok]

theorem State.immRead_leaves (ok : StoreOk s.store) (a : Word) (l : Loc) (n : Nat) :
    Leaves (fun q => StoreOk q.2.store) (s.immRead a l n) := by
  simp only [State.immRead]
  split
  · exact (leaves_bind ..).mpr (State.takeBank_leaves ok l.bank)
  · split
    · next h => exact ok.of_eq (State.takeReply_store _ h)
    · simp [ok]

theorem State.windowAccess_leaves (ok : StoreOk s.store) (a : Word) (n : Nat) (en : BitVec 64) (v : BitVec 512) (w : Bool) :
    Leaves (fun q => StoreOk q.2.store) (s.windowAccess a n en v w) := by
  simp only [State.windowAccess]
  split
  · next h => exact ok.of_eq (State.takeReply_store _ h)
  · simp [ok]

theorem State.readV_leaves (ok : StoreOk s.store) (r : BitVec 6) : Leaves (fun q => StoreOk q.2.store) (s.readV r) := by
  simp only [State.readV]
  split
  · exact ok
  · split
    · exact ok
    · exact State.popWord_leaves ok ..

@[simp] theorem State.writeV_leaves (ok : StoreOk s.store) (r : BitVec 6) (v : Vec) (l : Nat) :
    Leaves (fun t => StoreOk t.store) (s.writeV r v l) := by
  simp [State.writeV, ok]

@[simp] theorem putV_leaves (ok : StoreOk s.store) (w : Nat) (vm : VMask) (d : BitVec 6) (l : Nat) (f : Nat → Rd) :
    Leaves (fun t => StoreOk t.store) (putV s w vm d l f) :=
  State.writeV_leaves (by simpa using ok) ..

@[simp] theorem State.enqueue_leaves (ok : StoreOk s.store) (c : Cmd) (m : List (Nat × Nat)) :
    Leaves (fun t => StoreOk t.store) (s.enqueue c m) := by
  simp [State.enqueue, ok]

@[simp] theorem State.askKnot_leaves (ok : StoreOk s.store) (p : Place) (op : KnotOp) (w : Wait) :
    Leaves (fun t => StoreOk t.store) (s.askKnot p op w) := by
  simp only [State.askKnot]
  split <;> simp [ok]

@[simp] theorem State.markVersion_leaves (ok : StoreOk s.store) (p : BitVec 2) (d a : BitVec 6) :
    Leaves (fun t => StoreOk t.store) (s.markVersion p d a) := by
  simp [State.markVersion, ok]

@[simp] theorem knotSend_leaves (ok : StoreOk s.store) (m : MemOp) (op : KnotOp) :
    Leaves (fun t => StoreOk t.store) (knotSend m op s) := by
  simp [knotSend, ok]

@[simp] theorem twin_leaves (ok : StoreOk s.store) (nw : Bool) (d : BitVec 6) :
    Leaves (fun t => StoreOk t.store) (twin nw d s) := by
  simp only [twin, leaves_bind, leaves_check]
  intros
  split <;> simp [ok]

@[simp] theorem swpi_leaves (ok : StoreOk s.store) (far q : Bool) (d a b : BitVec 6) :
    Leaves (fun t => StoreOk t.store) (swpi far q d a b s) := by
  simp only [swpi, leaves_bind, State.swapArg_leaves]
  rintro ⟨core, slot⟩ -
  cases far <;> simp [ok]

@[simp] theorem swpo_leaves (ok : StoreOk s.store) (far : Bool) (d a b : BitVec 6) :
    Leaves (fun t => StoreOk t.store) (swpo far d a b s) := by
  simp only [swpo, leaves_bind, State.swapArg_leaves]
  rintro ⟨core, slot⟩ -
  dsimp only
  split
  · next h => simpa using State.swapOut_storeOk _ _ _ _ ok h
  · simp [ok]

@[simp] theorem launch_leaves (ok : StoreOk s.store) (nb : Bool) (d : BitVec 6) (m : MemOp) :
    Leaves (fun t => StoreOk t.store) (launch nb d m s) := by
  simp only [launch, leaves_bind, leaves_check, State.vaultEA_leaves]
  rintro - ⟨a, l⟩ -
  refine (State.loadBytes_leaves ok a l 256).imp fun q hq => ?_
  dsimp only
  intro
  split <;> simp [hq]

@[simp] theorem ibpopTake_leaves (ok : StoreOk s.store) (nw : Bool) (d : BitVec 6) (i : BitVec 4) :
    Leaves (fun t => StoreOk t.store) (ibpopTake nw d i s) := by
  simp only [ibpopTake, leaves_bind, leaves_check]
  intro
  split
  · simp [ok]
  · exact (leaves_bind ..).mpr ((State.takeWrite_leaves ok _ 16).imp fun t ht => by simp [ht])

@[simp] theorem barw_leaves (ok : StoreOk s.store) (nf : Bool) (d b : BitVec 6) (m : MemOp) :
    Leaves (fun t => StoreOk t.store) (barw nf d b m s) := by
  simp only [barw, leaves_bind, leaves_check, State.vaultEA_leaves]
  rintro ⟨a, l⟩ - -
  refine (State.immRead_leaves ok a l 16).imp fun q hq => ?_
  simp [hq]

@[simp] theorem sendIssue_leaves (ok : StoreOk s.store) (sig tm : Bool) (a b c : BitVec 6) (len : Nat) (imm : BitVec 32) :
    Leaves (fun t => StoreOk t.store) (sendIssue sig tm a b c len imm s) := by
  simp only [sendIssue, leaves_bind]
  refine (leaves_iff (by simp)).mpr fun src _ => ?_
  simp only [State.barReg_leaves, leaves_check, State.startOf_leaves]
  intros
  split
  · trivial
  · refine (leaves_bind ..).mpr ((State.enqueue_leaves ?_ _ _).imp fun t ht => ?_)
    · split <;> simp [ok]
    · simp [ht]

@[simp] theorem gathIssue_leaves (ok : StoreOk s.store) (edge out tm : Bool) (d a b c : BitVec 6) (x : BitVec 16) (imm : BitVec 32) :
    Leaves (fun t => StoreOk t.store) (gathIssue edge out tm d a b c x imm s) := by
  simp [gathIssue, State.enqueue_leaves ok]

@[simp] theorem give_leaves (ok : StoreOk s.store) (nb : Bool) (d a : BitVec 6) (e : Nat) :
    Leaves (fun t => StoreOk t.store) (give nb d a e s) := by
  simp only [give, leaves_bind, leaves_check]
  intros
  split <;> simp [ok]

@[simp] theorem reclaim_leaves (ok : StoreOk s.store) (nb : Bool) (d : BitVec 6) (e b : Nat) :
    Leaves (fun t => StoreOk t.store) (reclaim nb d e b s) := by
  simp only [reclaim, leaves_bind, leaves_check]
  intro
  split
  · simp [ok]
  · split <;> simp [ok]

@[simp] theorem stsStore_leaves (ok : StoreOk s.store) (a : Word) (l : Option Loc) (n : Nat) (en : BitVec 64) (v : BitVec 512) :
    Leaves (fun t => StoreOk t.store) (stsStore s a l n en v) := by
  cases l with
  | some l => exact State.bufferStore_leaves ok ..
  | none =>
    simp only [stsStore]
    split
    · trivial
    · exact (leaves_bind ..).mpr (State.windowAccess_leaves ok ..)

theorem ldgBytes_leaves (ok : StoreOk s.store) (m : MemOp) (n : Nat) (v : Bool) :
    Leaves (fun q => StoreOk q.2.store) (ldgBytes s m n v) := by
  simp only [ldgBytes, leaves_bind, globalEA_leaves]
  rintro ⟨a, l⟩ -
  cases l with
  | some l => exact State.loadBytes_leaves ok ..
  | none =>
    dsimp only
    split
    · trivial
    · exact (leaves_bind ..).mpr (State.windowAccess_leaves ok ..)

theorem State.needLine_leaves (ok : StoreOk s.store) (k : Nat) (a : Word) : Leaves (fun _ => True) (s.needLine k a) := by
  simp only [State.needLine]
  split
  · next h => simpa [h] using (codeCheck_leaves (P := fun _ => True) (s.ctx k).code a a).mpr fun _ _ => trivial
  · split <;> simp [ok]

theorem State.pcLine_leaves (ok : StoreOk s.store) (k : Nat) : Leaves (fun _ => True) (s.pcLine k) := by
  simp [State.pcLine, leaves_iff (State.needLine_leaves ok _ _)]

@[simp] theorem State.formNnpc_leaves (ok : StoreOk s.store) (k : Nat) :
    Leaves (fun t => StoreOk t.store) (s.formNnpc k) := by
  simp [State.formNnpc, leaves_iff (State.needLine_leaves ok _ _), ok]

end

end Sys2Proof.Machine
end

section
/-! Thread instructions keep the canonical form of memory: the families first, then the instructions with effects of their own. -/

namespace Sys2Proof.Machine

section
variable {s : State} (ok : StoreOk s.store) (g : Guard)
include ok

theorem State.readV_bind {β : Type} {Q : β → Prop} {f : Vec × State → Except Stop β} (a : BitVec 6)
    (hf : ∀ p, StoreOk p.2.store → Leaves Q (f p)) : Leaves Q (s.readV a >>= f) :=
  (leaves_bind ..).mpr <| (State.readV_leaves ok a).imp hf

theorem vec1_answers (w : Nat) (vm : VMask) (d a : BitVec 6) (lat : State → Nat) (f : State → Nat → Rd) :
    Answers (vec1 g w vm d a s lat f) :=
  runThread_answers ok <| State.readV_bind ok a fun _ hp => putV_leaves hp ..

theorem vec2_answers (w : Nat) (vm : VMask) (d a b : BitVec 6) (lat : State → Nat) (f : State → Nat → Nat → Rd) :
    Answers (vec2 g w vm d a b s lat f) :=
  runThread_answers ok <| State.readV_bind ok a fun _ hp => State.readV_bind hp b fun _ hq => putV_leaves hq ..

theorem vec3_answers (w : Nat) (vm : VMask) (d a b c : BitVec 6) (lat : State → Nat) (f : State → Nat → Nat → Nat → Rd) :
    Answers (vec3 g w vm d a b c s lat f) :=
  runThread_answers ok <| State.readV_bind ok a fun _ hp => State.readV_bind hp b fun _ hq =>
    State.readV_bind hq c fun _ hr => putV_leaves hr ..

theorem runTransfer_answers (nul : Nul) (link : Bool) (target : State → Word) :
    Answers (runTransfer g nul link s target) := by
  simp only [runTransfer, answers_ite]
  split
  · simp [ok]
  · refine runThread_answers ok <| (leaves_bind ..).mpr <| (State.targetCheck_leaves ok _).imp fun _ _ => ?_
    cases link <;> simp [ok]

theorem tseqWith_answers (d : BitVec 6) (test : State → Bool) (f : State → TsEnt → TsEnt) :
    Answers (tseqWith g d s test f) :=
  runThread_answers ok (by simp [ok])

end

section
variable {s : State} (ok : StoreOk s.store) (g : Guard)
include ok

theorem setX_answers (d : BitVec 6) (lat : Nat) (f : State → Word) : Answers (setX g d lat s f) :=
  runThread_answers ok (by simp [ok])
theorem setP_answers (d : BitVec 3) (f : State → Bool) : Answers (setP g d s f) := runThread_answers ok (by simp [ok])
theorem setM_answers (d : BitVec 3) (f : State → BitVec 16) : Answers (setM g d s f) := runThread_answers ok (by simp [ok])

end

section
variable {s : State} (ok : StoreOk s.store) (g : Guard)
include ok

theorem execBlq_answers (d : BitVec 6) (w : BitVec 3) : Answers (execBlq g d w s) := by
  refine runThread_answers ok ?_
  simp only [leaves_bind, leaves_check]
  intro _
  split <;> simp [ok]

theorem execBlayW_answers (d : BitVec 6) : Answers (execBlayW g d s) := by
  refine runThread_answers ok ?_
  split <;> simp [ok]

theorem execBlay_answers (d : BitVec 6) : Answers (execBlay g d s) := by
  refine runThread_answers ok ?_
  split <;> simp [ok]

theorem execSegld_answers (d : BitVec 3) (a : BitVec 6) (imm : BitVec 32) : Answers (execSegld g d a imm s) := by
  refine runThread_answers ok ?_
  simp only [leaves_bind, leaves_check]
  exact fun _ => (State.takeBank_leaves ok 55).imp fun t ht _ => by simp [ht]

theorem execEret_answers : Answers (execEret g s) := by
  refine runPriv_answers ok ?_
  simp only [leaves_bind, State.returnCheck_leaves, codeCheck_leaves]
  intro r _ _ _
  split
  · simp
  · simp [ok]

theorem execJoin_answers (a : BitVec 6) (c : BitVec 3) (imm : BitVec 32) : Answers (execJoin g a c imm s) := by
  refine runThread_answers ok ?_
  simp only [leaves_bind, State.knotEA_leaves]
  refine fun p _ => (State.targetCheck_leaves ok _).imp fun _ _ => ?_
  split
  · exact State.askKnot_leaves ok ..
  · simp [ok]

theorem execRfork_answers (d a b : BitVec 6) (c : BitVec 3) (imm : BitVec 32) : Answers (execRfork g d a b c imm s) := by
  refine runThread_answers ok ?_
  simp only [leaves_bind, leaves_check, slotZero_leaves, State.knotEA_leaves]
  exact fun _ _ _ p _ => (State.targetCheck_leaves ok _).imp fun _ _ => State.askKnot_leaves ok ..

theorem execWake_answers (a : BitVec 6) : Answers (execWake g a s) := by
  refine runThread_answers ok ?_
  simp only [leaves_bind, leaves_check]
  intro _
  split <;> simp [ok]

theorem execYield_answers : Answers (execYield g s) := by
  refine runThread_answers ok ?_
  (repeat' split) <;> simp [ok]

theorem execReapKill_answers (d a : BitVec 6) (pd : BitVec 3) : Answers (execReapKill g d a pd s) := by
  refine runThread_answers ok ?_
  simp only [leaves_bind, reapSlot_leaves]
  intro n _
  (repeat' split) <;> simp [ok]

theorem execSpawn_answers (d a b : BitVec 6) (imm : BitVec 32) : Answers (execSpawn g d a b imm s) := by
  refine runThread_answers ok ?_
  simp only [leaves_bind, leaves_check, slotZero_leaves]
  refine fun _ _ _ => (State.targetCheck_leaves ok _).imp fun _ _ => ?_
  (repeat' split) <;> simp [ok]

theorem execIbpopFree_answers (a : BitVec 6) (ibx : BitVec 4) : Answers (execIbpopFree g a ibx s) := by
  refine runThread_answers ok ((leaves_bind ..).mpr ((leaves_check ..).mpr fun _ => (leaves_bind ..).mpr ?_))
  refine (State.takeWrite_leaves ok _ 16).imp fun t ht => ?_
  -- simp would write 2 ^ 32 out, and the kernel cannot add that number to a variable
  extract_lets
  split
  · trivial
  · refine leaves_ok.mpr (State.ite_storeOk ?_ (State.setIbxWord_storeOk _ _ _ _ ?_)) <;> rw [State.modTile_store] <;> exact ht

theorem execMcast_answers (tm : Bool) (d a b c : BitVec 6) (len : BitVec 13) (imm : BitVec 32) :
    Answers (execMcast g tm d a b c len imm s) := by
  refine runThread_answers ok ?_
  simp only [leaves_bind, leaves_check, State.sourceRange_leaves]
  intro src _ _
  split
  · simp
  · simp only [leaves_bind, leaves_check, State.startOf_leaves]
    exact fun _ _ _ => State.enqueue_leaves (by simpa using ok) ..

theorem execBarq_answers (d : BitVec 6) (mem : MemOp) : Answers (execBarq g d mem s) := by
  refine runThread_answers ok ?_
  simp only [leaves_bind, State.vaultEA_leaves]
  exact fun p _ => (State.immRead_leaves ok p.1 p.2 16).imp fun q hq => by simp [hq]

theorem execBari_answers (b : BitVec 6) (mem : MemOp) : Answers (execBari g b mem s) := by
  refine runThread_answers ok ?_
  simp only [leaves_bind, leaves_check, State.vaultEA_leaves]
  intro p _ _ _
  split
  · exact (leaves_bind ..).mpr ((State.takeWrite_leaves ok p.2 16).imp fun t ht => by simp [ht])
  · simp [ok]

theorem execTdef_answers (d : BitVec 6) (mem : MemOp) : Answers (execTdef g d mem s) := by
  refine runThread_answers ok ?_
  simp only [leaves_bind, leaves_check, State.vaultEA_leaves]
  refine fun p _ => (State.loadBytes_leaves ok p.1 p.2 64).imp fun q hq => ?_
  simp [hq]

omit ok in
/-- The neighbours that LNPUSH asks for. -/
theorem check_sides_leaves (dir : Dir) :
    Leaves (fun _ => True) ((dirSides dir).mapM fun side => check (s.linkCore s.myCore side).isSome cFormat 0) :=
  leaves_mapM (fun side => by simp) _

theorem execLnpushT_answers (dir : Dir) (a : BitVec 6) (imm : BitVec 32) : Answers (execLnpushT g dir a imm s) := by
  refine runThread_answers ok ?_
  have sides := check_sides_leaves (s := s) dir
  simp only [leaves_bind, leaves_check, State.timedCheck_leaves]
  exact sides.imp fun _ _ _ v _ => State.enqueue_leaves ok ..

theorem execLnpush_answers (dir : Dir) (a : BitVec 6) : Answers (execLnpush g dir a s) := by
  refine runThread_answers ok ?_
  have sides := check_sides_leaves (s := s) dir
  simp only [leaves_bind]
  exact sides.imp fun _ _ => (State.readV_leaves ok a).imp fun p hp => State.pushAll_leaves hp ..

theorem execMmat_answers (ty : Ty) (z sat : Bool) (d : BitVec 4) (a b c : BitVec 6) (x : BitVec 16) (imm : BitVec 32) :
    Answers (execMmat g ty z sat d a b c x imm s) := by
  refine runThread_answers ok ?_
  simp only [leaves_bind, leaves_check, State.productEntries_leaves, State.barCheck_leaves]
  intro e _ bar _ _
  split
  · simp
  · simp only [leaves_bind, leaves_check, State.timedCheck_leaves, State.rsvCheck_leaves]
    exact fun _ _ start _ _ _ _ => (State.enqueue_leaves ok ..).imp fun t ht => by simp [ht]

theorem execMma_answers (ty : Ty) (z sat : Bool) (d : BitVec 4) (a b c : BitVec 6) :
    Answers (execMma g ty z sat d a b c s) := by
  refine runThread_answers ok ?_
  simp only [leaves_bind, State.productEntries_leaves]
  intro e _
  split <;> simp [ok]

theorem execSch_answers (b : BitVec 6) (mem : MemOp) : Answers (execSch g b mem s) := by
  refine runThread_answers ok ?_
  simp only [leaves_bind, leaves_check, State.resvEA_leaves]
  intro p _ _
  split
  · exact (leaves_bind ..).mpr ((State.takeWrite_leaves ok p.2 8).imp fun t ht => by simp [ht])
  · simp [ok]

theorem execLrw_answers (d : BitVec 6) (pd : BitVec 3) (mem : MemOp) : Answers (execLrw g d pd mem s) := by
  refine runThread_answers ok ?_
  simp only [leaves_bind, State.resvEA_leaves]
  intro p _
  split
  · split
    · simp
    · split <;> simp [ok]
    · split
      · exact (leaves_map ..).mpr ((State.takeBank_leaves ok _).imp fun t ht => by simp [ht])
      · simp [ok]
  · simp [ok]

theorem execRed_answers (ty : Ty) (op : AmoOp) (b : BitVec 6) (mem : MemOp) : Answers (execRed g ty op b mem s) := by
  refine runThread_answers ok ?_
  simp only [leaves_bind, State.amoEA_leaves]
  intro p _
  split
  · split
    · exact (leaves_bind ..).mpr ((State.takeWrite_leaves ok _ _).imp fun t ht => by simp [ht])
    · simp [ok]
  · simp [ok]

theorem execAmo_answers (ty : Ty) (op : AmoOp) (d b : BitVec 6) (mem : MemOp) : Answers (execAmo g ty op d b mem s) := by
  refine runThread_answers ok ?_
  simp only [leaves_bind, State.amoEA_leaves]
  intro p _
  split
  · split
    · exact (leaves_bind ..).mpr ((State.takeWrite_leaves ok _ _).imp fun t ht => by simp [ht])
    · split
      · next h => simp [ok.of_eq (State.takeReply_store _ h)]
      · simp [State.ask, ok]
  · split
    · next h => simp [ok.of_eq (State.takeReply_store _ h)]
    · split
      · simp
      · simp [State.ask, ok]

theorem execFence_answers (sc : Scope) : Answers (execFence g sc s) := by
  refine runThread_answers ok ?_
  split <;> simp [ok]

theorem execPhase_answers (d : BitVec 6) : Answers (execPhase g d s) := by
  refine runThread_answers ok ?_
  split <;> simp [ok]

theorem execDrainBank_answers (e : BitVec 5) : Answers (execDrainBank g e s) := by
  refine runThread_answers ok ?_
  simp only [leaves_bind, leaves_check]
  intro _
  (repeat' split) <;> simp [ok]

theorem execDrain_answers : Answers (execDrain g s) := by
  refine runThread_answers ok ?_
  split <;> simp [ok]

theorem execBmapSet_answers (a : BitVec 6) (e : BitVec 5) : Answers (execBmapSet g a e s) := by
  refine runPriv_answers ok ?_
  dsimp only
  split
  · simp
  · simp only [leaves_bind, leaves_check]
    intro _
    (repeat' split) <;> simp [ok]

theorem execStsV_answers (b : BitVec 6) (mk : BitVec 3) (mem : MemOp) : Answers (execStsV g b mk mem s) := by
  refine runThread_answers ok ?_
  simp only [leaves_bind, globalEA_leaves]
  exact fun p _ => (State.readV_leaves ok b).imp fun q hq => stsStore_leaves hq ..

theorem execLdgV_answers (d : BitVec 6) (mem : MemOp) : Answers (execLdgV g d mem s) :=
  runThread_answers ok <| (leaves_bind ..).mpr <| (ldgBytes_leaves ok mem 64 true).imp fun _ hq => State.writeV_leaves hq ..
theorem execLdg_answers (ty : Ty) (d : BitVec 6) (mem : MemOp) : Answers (execLdg g ty d mem s) :=
  runThread_answers ok <| (leaves_bind ..).mpr <| (ldgBytes_leaves ok mem _ false).imp fun _ hq => by simp [hq]

theorem execStv_answers (b : BitVec 6) (mk : BitVec 3) (mem : MemOp) : Answers (execStv g b mk mem s) := by
  refine runThread_answers ok ?_
  simp only [leaves_bind, State.vaultEA_leaves]
  exact fun p _ => (State.readV_leaves ok b).imp fun q hq => State.bufferStore_leaves hq ..

theorem execLdv_answers (d : BitVec 6) (mem : MemOp) : Answers (execLdv g d mem s) := by
  refine runThread_answers ok ?_
  simp only [leaves_bind, State.vaultEA_leaves]
  exact fun p _ => (State.loadBytes_leaves ok p.1 p.2 64).imp fun q hq => State.writeV_leaves hq ..

theorem execLd_answers (ty : Ty) (d : BitVec 6) (mem : MemOp) : Answers (execLd g ty d mem s) := by
  refine runThread_answers ok ?_
  simp only [leaves_bind, State.vaultEA_leaves]
  exact fun p _ => (State.loadBytes_leaves ok p.1 p.2 (tyBytes ty)).imp fun q hq => by simp [hq]

theorem execVscale_answers (ty src : Ty) (d a c : BitVec 6) : Answers (execVscale g ty src d a c s) := by
  refine runThread_answers ok <| (leaves_bind ..).mpr <| (State.readV_leaves ok a).imp fun p hp => ?_
  dsimp only
  split
  · exact (leaves_bind ..).mpr <| (State.readV_leaves hp c).imp fun q hq => by simp [hq]
  · simp [hp]

theorem execVpack_answers (ty : Ty) (rm : Rm) (sat : Bool) (cv : ConvSel) (d a b c : BitVec 6) :
    Answers (execVpack g ty rm sat cv d a b c s) := by
  refine runThread_answers ok <| (leaves_bind ..).mpr <| (State.readV_leaves ok a).imp fun p hp => ?_
  dsimp only
  split
  · exact (leaves_bind ..).mpr <| (State.readV_leaves hp c).imp fun q hq => State.writeV_leaves (by simpa using hq) ..
  · simp only [leaves_bind, leaves_pure]
    exact State.writeV_leaves (by simpa using hp) ..

end

end Sys2Proof.Machine
end

section
/-! Events that a packet's arrival brings keep the canonical form of memory. -/

namespace Sys2Proof.Machine

theorem State.arrived_storeOk {s t : State} {n : Nat} {f : Body → Bool} {p : Pkt} (ok : StoreOk s.store)
    (h : s.arrived n f = some (p, t)) : StoreOk t.store := ok.of_eq (State.arrived_store _ _ _ h)

theorem State.useBank_storeOk {s t : State} {n b : Nat} (ok : StoreOk s.store) (h : s.useBank n b = some t) :
    StoreOk t.store :=
  ok.of_eq (State.useBank_store _ _ _ h)

theorem Answers.ite {c : Prop} [Decidable c] {x y : Ans} (hx : Answers x) (hy : Answers y) :
    Answers (if c then x else y) := by
  split
  · exact hx
  · exact hy

/-- Bytes that land one after another at their places in the vaults. -/
@[simp] theorem State.foldl_writeLoc_storeOk {s : State} (l : List (Loc × Byte)) (ok : StoreOk s.store) :
    StoreOk (l.foldl (fun s x => s.writeLoc x.1 [x.2]) s).store :=
  State.foldl_storeOk (fun _ _ ok => State.writeLoc_storeOk _ _ ok) _ ok

/-- The enabled bytes of a far write, one after another. -/
@[simp] theorem State.foldl_writePa_storeOk {s : State} (l : List Nat) (en : Nat → Bool) (pa : Nat) (bs : Nat → List Byte)
    (ok : StoreOk s.store) :
    StoreOk (l.foldl (fun s i => if en i = true then s.writePa (pa + i) (bs i) else s) s).store :=
  State.foldl_storeOk (fun _ _ ok => State.ite_storeOk (State.writePa_storeOk _ _ ok) ok) _ ok

/-- Bank cycles taken one after another touch no memory. -/
theorem State.foldlM_useBank_storeOk {t : Nat} : ∀ (l : List Nat) {s u : State}, StoreOk s.store →
    l.foldlM (fun s b => s.useBank t b) s = some u → StoreOk u.store
  | [], _, _, ok, h => by cases h; exact ok
  | b :: l, s, u, ok, h => by
    obtain ⟨v, hv, hu⟩ := Option.bind_eq_some_iff.mp h
    exact foldlM_useBank_storeOk l (State.useBank_storeOk ok hv) hu

theorem execVersionAnswer_answers (n : Nat) {s : State} (ok : StoreOk s.store) : Answers (execVersionAnswer n s) := by
  simp only [execVersionAnswer]
  split
  · simpa using ok
  · next h => have okt := State.arrived_storeOk ok h; (repeat' split) <;> simp [okt]

theorem execLogReplicaAcknowledgement_answers (n : Nat) {s : State} (ok : StoreOk s.store) :
    Answers (execLogReplicaAcknowledgement n s) := by
  simp only [execLogReplicaAcknowledgement]
  split
  · simpa using ok
  · next h => have okt := State.arrived_storeOk ok h; (repeat' split) <;> simp [okt]

theorem execImmediateWriteAcknowledgement_answers (n : Nat) {s : State} (ok : StoreOk s.store) :
    Answers (execImmediateWriteAcknowledgement n s) := by
  simp only [execImmediateWriteAcknowledgement]
  split
  · simpa using ok
  · next h => have okt := State.arrived_storeOk ok h; (repeat' split) <;> simp [okt]

theorem execVersionHomeRequest_answers (n : Nat) {s : State} (ok : StoreOk s.store) :
    Answers (execVersionHomeRequest n s) := by
  simp only [execVersionHomeRequest]
  split
  · simpa using ok
  · next h => have okt := State.arrived_storeOk ok h; (repeat' split) <;> simp [okt]

theorem execCandidateAnswer_answers (n : Nat) {s : State} (ok : StoreOk s.store) : Answers (execCandidateAnswer n s) := by
  simp only [execCandidateAnswer]
  split
  · simpa using ok
  · next h => have okt := State.arrived_storeOk ok h; (repeat' split) <;> simp [okt]

theorem execHopReply_answers (n : Nat) {s : State} (ok : StoreOk s.store) : Answers (execHopReply n s) := by
  simp only [execHopReply]
  split
  · simpa using ok
  · next h => have okt := State.arrived_storeOk ok h; (repeat' split) <;> simp [okt]

theorem execHopArrival_answers (n : Nat) {s : State} (ok : StoreOk s.store) : Answers (execHopArrival n s) := by
  simp only [execHopArrival]
  split
  · simpa using ok
  · next h => have okt := State.arrived_storeOk ok h; (repeat' split) <;> simp [ok, okt]

theorem execCommitNoticeAtHome_answers (n : Nat) {s : State} (ok : StoreOk s.store) :
    Answers (execCommitNoticeAtHome n s) := by
  simp only [execCommitNoticeAtHome]
  split
  · simpa using ok
  · next h => have okt := State.arrived_storeOk ok h; (repeat' split) <;> simp [okt]

theorem execFarAtomicAtHome_answers (n : Nat) {s : State} (ok : StoreOk s.store) : Answers (execFarAtomicAtHome n s) := by
  simp only [execFarAtomicAtHome]
  split
  · simpa using ok
  · next h => have okt := State.arrived_storeOk ok h; (repeat' split) <;> simp [ok, okt]

theorem execHomeRead_answers (n : Nat) {s : State} (ok : StoreOk s.store) : Answers (execHomeRead n s) := by
  simp only [execHomeRead]
  split
  · simpa using ok
  · next h => have okt := State.arrived_storeOk ok h; (repeat' split) <;> simp [ok, okt]

theorem execHomePubl_answers (n : Nat) {s : State} (ok : StoreOk s.store) : Answers (execHomePubl n s) := by
  simp only [execHomePubl]
  split
  · simpa using ok
  · next h => have okt := State.arrived_storeOk ok h; (repeat' split) <;> simp [ok, okt]

theorem execBarrierArrival_answers (n : Nat) {s : State} (ok : StoreOk s.store) : Answers (execBarrierArrival n s) := by
  simp only [execBarrierArrival]
  split
  · simpa using ok
  · next h => have okt := State.arrived_storeOk ok h; (repeat' split) <;> simp [ok, okt]

theorem execTrapRecordArrival_answers (n : Nat) {s : State} (ok : StoreOk s.store) :
    Answers (execTrapRecordArrival n s) := by
  simp only [execTrapRecordArrival]
  split
  · simpa using ok
  · next h => have okt := State.arrived_storeOk ok h; (repeat' split) <;> simp [ok, okt]

theorem execTrapWindowAccessArrival_answers (n : Nat) {s : State} (ok : StoreOk s.store) :
    Answers (execTrapWindowAccessArrival n s) := by
  simp only [execTrapWindowAccessArrival]
  split
  · simpa using ok
  · next p t h =>
    have okt := State.arrived_storeOk ok h
    (repeat' split) <;> simp [ok, okt]

theorem execMcastReplicaLanding_answers (n : Nat) {s : State} (ok : StoreOk s.store) :
    Answers (execMcastReplicaLanding n s) := by
  simp only [execMcastReplicaLanding]
  split
  · simpa using ok
  · next p t h =>
    have okt := State.arrived_storeOk ok h
    split
    · split
      · simpa using okt
      · refine Answers.ite ok ?_
        generalize hb : State.useBank _ _ _ = bank
        cases bank with
        | none => simpa using ok
        | some u =>
          have okb := State.useBank_storeOk (State.ite_storeOk okt ok) hb
          dsimp only
          split
          · split
            · simp only [answers_next, State.send_store]
              exact State.arriveAt_storeOk _ _ _ _ _ (by simp [okb])
            · simp [okb]
          · simp [okb]
    · simpa using ok

theorem execMessageReceive_answers (n : Nat) {s : State} (ok : StoreOk s.store) : Answers (execMessageReceive n s) := by
  simp only [execMessageReceive]
  split
  · simpa using ok
  · next p t h =>
    have okt := State.arrived_storeOk ok h
    split
    · refine Answers.ite (by simp [okt]) (Answers.ite (by simp [okt]) (Answers.ite (by simp [okt]) ?_))
      split
      · next hr => simpa using State.refuseMsg_storeOk _ _ okt hr
      · simp [ok]
      · refine Answers.ite (by simp [ok]) ?_
        generalize hb : State.useBank _ _ _ = bank
        cases bank with
        | none => simp [ok]
        | some u =>
          have okb := State.useBank_storeOk (State.ite_storeOk ok okt) hb
          dsimp only
          split <;> simp [okb]
    · simpa using ok

theorem execStaticRouteFlitLanding_answers (n : Nat) {s : State} (ok : StoreOk s.store) :
    Answers (execStaticRouteFlitLanding n s) := by
  simp only [execStaticRouteFlitLanding]
  split
  · simpa using ok
  · next p t h =>
    have okt := State.arrived_storeOk ok h
    split
    · refine (answers_ite ..).mpr ?_
      split
      · simp [ok]
      · split
        · simp [ok]
        · next hb =>
          have okb := State.foldlM_useBank_storeOk _ okt hb
          (repeat' split) <;> simp [okb]
    · simpa using ok

theorem execFarReplyArrival_answers (n : Nat) {s : State} (ok : StoreOk s.store) : Answers (execFarReplyArrival n s) := by
  simp only [execFarReplyArrival]
  split
  · split <;> simp [ok]
  · split
    · simpa using ok
    · next p t h =>
      have okt := State.arrived_storeOk ok h
      (repeat' split) <;> simp [ok, okt]

theorem execHomeWrite_answers (n : Nat) {s : State} (ok : StoreOk s.store) : Answers (execHomeWrite n s) := by
  simp only [execHomeWrite]
  split
  · simpa using ok
  · next p t h =>
    have okt := State.arrived_storeOk ok h
    split
    · (repeat' split) <;> try simp [ok, okt]
      next hw => exact State.bufWrite_storeOk _ _ _ _ _ okt hw
    · simpa using ok

theorem execFarRequestTranslate_answers (n : Nat) {s : State} (ok : StoreOk s.store) :
    Answers (execFarRequestTranslate n s) := by
  simp only [execFarRequestTranslate]
  split
  · simpa using ok
  · next p t h =>
    have okt := State.arrived_storeOk ok h
    (repeat' split) <;> try simp [ok, okt]
    · next h => exact State.toPeer_storeOk _ _ okt h
    · next h => exact State.forward_storeOk _ _ _ _ (by simpa using okt) h

theorem execReservationGrant_answers (n : Nat) {s : State} (ok : StoreOk s.store) : Answers (execReservationGrant n s) := by
  simp only [execReservationGrant]
  split
  · simpa using ok
  · next p t h =>
    have okt := State.arrived_storeOk ok h
    (repeat' split) <;> simp [ok, okt]

theorem execImmediateWriteLanding_answers (n : Nat) {s : State} (ok : StoreOk s.store) :
    Answers (execImmediateWriteLanding n s) := by
  simp only [execImmediateWriteLanding]
  split
  · simpa using ok
  · next p t h =>
    have okt := State.arrived_storeOk ok h
    (repeat' split) <;> try simp [ok]
    all_goals next hb => have okb := State.useBank_storeOk okt hb; simp [okb]

theorem execVaultReplyArrival_answers (n : Nat) {s : State} (ok : StoreOk s.store) :
    Answers (execVaultReplyArrival n s) := by
  simp only [execVaultReplyArrival]
  split
  · simpa using ok
  · next p t h =>
    have okt := State.arrived_storeOk ok h
    (repeat' split) <;> simp [ok, okt]

theorem execVaultRequestArrival_answers (n : Nat) {s : State} (ok : StoreOk s.store) :
    Answers (execVaultRequestArrival n s) := by
  simp only [execVaultRequestArrival]
  split
  · simpa using ok
  · next p t h =>
    have okt := State.arrived_storeOk ok h
    split
    · split
      · next hb => have okb := State.useBank_storeOk okt hb; simp [okb]
      · simpa using ok
    · split
      · next hb =>
        have okb := State.useBank_storeOk okt (Option.ite_none_left_eq_some.mp hb).2
        simp [okb]
      · simpa using ok
    all_goals (repeat' split) <;> simp [ok, okt]

end Sys2Proof.Machine
end

section
/-! Events of tiles, homes, the host, cuts and the wafer keep the canonical form of memory. -/

namespace Sys2Proof.Machine

theorem State.useBankAs_storeOk {s t : State} {c n b : Nat} (ok : StoreOk s.store) (h : s.useBankAs c n b = some t) :
    StoreOk t.store :=
  ok.of_eq (State.useBankAs_store _ _ _ _ h)

theorem State.repliedCopy_storeOk {s t : State} {n k site : Nat} {q : Retx} {f : Body → Option MsgHdr} (ok : StoreOk s.store)
    (h : s.repliedCopy n f = some (k, q, site, t)) : StoreOk t.store := ok.of_eq (State.repliedCopy_store _ _ _ h)

theorem execHostFarWrite_answers (fn : Nat) (off : BitVec 36) (data : List Byte) {s : State} (ok : StoreOk s.store) :
    Answers (execHostFarWrite fn off data s) := by
  simp only [execHostFarWrite]
  refine Answers.ite ok (State.foldl_storeOk (fun s i ok => ?_) _ ok)
  split <;> simp [ok]

theorem execHostFarRead_answers (fn : Nat) (off : BitVec 36) (len : Nat) {s : State} (ok : StoreOk s.store) :
    Answers (execHostFarRead fn off len s) := by
  simp only [execHostFarRead]
  refine Answers.ite ok ?_
  split
  · simp [ok]
  · next h => simpa using State.hostBytes_storeOk _ _ _ ok h
  · next h => simpa using State.hostBytes_storeOk _ _ _ ok h

theorem execCxlPortDown_answers (port : Nat) {s : State} (ok : StoreOk s.store) : Answers (execCxlPortDown port s) := by
  simp only [execCxlPortDown, answers_next]
  refine ok.of_eq ((State.foldl_store _ (fun s p => ?_) ..).trans rfl)
  split <;> simp

theorem execPowerGood_answers {s : State} (ok : StoreOk s.store) : Answers (execPowerGood s) := by
  simp only [execPowerGood]
  refine Answers.ite ok ?_
  simpa using ok.filter _

theorem Tbl.wf_append {α : Type} [DecidableEq α] {d : α} {t u : Tbl α} (ht : Tbl.wf d t = true) (hu : Tbl.wf d u = true)
    (h : ∀ e ∈ t, ∀ f ∈ u, e.1 < f.1) : Tbl.wf d (t ++ u) = true := by
  induction t with
  | nil => exact hu
  | cons e rest ih =>
    obtain ⟨hv, above, hrest⟩ := Tbl.wf_cons.1 ht
    refine Tbl.wf_cons.2 ⟨hv, fun f hf => ?_, ih hrest fun e he => h e (List.mem_cons_of_mem _ he)⟩
    obtain hf | hf := List.mem_append.1 hf
    · exact above f hf
    · exact h e (List.mem_cons_self ..) f hf

/-- The memory of an image outside the second tier with that tier of the memory there is. -/
theorem deepMem_wf {old now : List Host.Cell} (hold : Memory.wf old = true) (hnow : Memory.wf now = true) :
    Memory.wf (((old.filter fun e => !secondTier e.1).filter fun e => decide (e.1 < 2 ^ 48)) ++ (now.filter fun e => secondTier e.1)
      ++ ((old.filter fun e => !secondTier e.1).filter fun e => decide (2 ^ 48 ≤ e.1))) = true := by
  have hold' := memFilter_wf (fun e => !secondTier e.1) hold
  refine Tbl.wf_append (Tbl.wf_append (memFilter_wf _ hold') (memFilter_wf _ hnow) ?_) (memFilter_wf _ hold') ?_
  · intro e he f hf
    simp only [List.mem_filter, secondTier, decide_eq_true_eq, Bool.and_eq_true, Bool.not_eq_true', Bool.and_eq_false_iff,
      decide_eq_false_iff_not] at he hf
    omega
  · intro e he f hf
    simp only [List.mem_append, List.mem_filter, secondTier, decide_eq_true_eq, Bool.and_eq_true] at he hf
    omega

theorem execDeepRestore_answers {s : State} (ok : StoreOk s.store) : Answers (execDeepRestore s) := by
  simp only [execDeepRestore]
  split
  · exact ok
  · next d hd =>
    refine Answers.ite ok ?_
    refine State.foldl_storeOk (fun s e ok => by simp [ok]) _ ?_
    exact ⟨deepMem_wf (ok.deep d hd) ok.mem, ok.deep⟩

theorem execDeepBelayImageWritten_answers {s : State} (ok : StoreOk s.store) : Answers (execDeepBelayImageWritten s) := by
  simp only [execDeepBelayImageWritten]
  split
  · exact ok
  · refine Answers.ite ok ?_
    simp only [answers_next]
    split
    · rw [State.completeX_store, State.foldl_store _ fun s c => by simp]
      exact ⟨ok.mem, fun d' h => by cases h; exact ok.mem⟩
    · rw [State.foldl_store _ fun s c => by simp]
      exact ⟨ok.mem, fun d' h => by cases h; exact ok.mem⟩

theorem execPartitionReconfiguration_answers (part base count : Nat) {s : State} (ok : StoreOk s.store) :
    Answers (execPartitionReconfiguration part base count s) := by
  simp only [execPartitionReconfiguration]
  refine Answers.ite ok (Answers.ite ok ?_)
  simp [ok]

theorem execHaltComplete_answers (crew : Nat) {s : State} (ok : StoreOk s.store) : Answers (execHaltComplete crew s) := by
  simp only [execHaltComplete]
  split
  · exact ok
  · refine Answers.ite ok ?_
    simp only [answers_next]
    refine ok.of_eq ((State.foldl_store _ (fun s k => ?_) ..).trans ((State.modCrew_store ..).trans
      (State.foldl_store _ (fun s t => State.foldl_store _ (fun s c => by simp) ..) ..)))
    (repeat' split) <;> simp

theorem execMachineCheck_answers (site : Nat) (cause : MCause) {s : State} (ok : StoreOk s.store) :
    Answers (execMachineCheck site cause s) := by
  simp only [execMachineCheck]
  refine Answers.ite ok (Answers.ite ?_ ?_)
  · split <;> simp [ok]
  · (repeat' split) <;> simp [ok]

theorem execCutStreamLine_answers (tile : Nat) {s : State} (ok : StoreOk s.store) : Answers (execCutStreamLine tile s) := by
  simp only [execCutStreamLine]
  split
  · exact ok
  · split
    · refine Answers.ite ok ?_
      split
      · exact ok
      · next hb =>
        have okb := State.useBankAs_storeOk ok hb
        simp only [answers_next, State.earlyCheck_store]
        split
        · simp [okb]
        · exact StoreOk.writeN (by simpa using okb) ..
    · split <;> simp [ok]

theorem execImageLoadComplete_answers (crew : Nat) {s : State} (ok : StoreOk s.store) :
    Answers (execImageLoadComplete crew s) := by
  simp only [execImageLoadComplete]
  refine Answers.ite ok ?_
  simp only [answers_next, State.logEv_store]
  rw [State.foldl_store _ fun s c => by simp, State.modCrew_store]
  exact State.foldl_storeOk (fun _ t ok => State.loadTile_storeOk _ _ ok) _ ok

theorem execAckReceive_answers (n : Nat) {s : State} (ok : StoreOk s.store) : Answers (execAckReceive n s) := by
  simp only [execAckReceive]
  split
  · simp [ok]
  · next h => have okt := State.repliedCopy_storeOk ok h; simp [okt]

theorem execNackReplayReceive_answers (n : Nat) {s : State} (ok : StoreOk s.store) :
    Answers (execNackReplayReceive n s) := by
  simp only [execNackReplayReceive]
  split
  · simp [ok]
  · next h => have okt := State.repliedCopy_storeOk ok h; simp [okt]

theorem execNackFencedReceive_answers (n : Nat) {s : State} (ok : StoreOk s.store) :
    Answers (execNackFencedReceive n s) := by
  simp only [execNackFencedReceive]
  split
  · simp [ok]
  · next h => have okt := State.repliedCopy_storeOk ok h; simp [okt]

theorem execNackOrderReceive_answers (n : Nat) {s : State} (ok : StoreOk s.store) : Answers (execNackOrderReceive n s) := by
  simp only [execNackOrderReceive]
  split
  · simp [ok]
  · next h => have okt := State.repliedCopy_storeOk ok h; simp [okt]

theorem execNackFullReceive_answers (n : Nat) {s : State} (ok : StoreOk s.store) : Answers (execNackFullReceive n s) := by
  simp only [execNackFullReceive]
  split
  · simp [ok]
  · next h => have okt := State.repliedCopy_storeOk ok h; simp [okt]

theorem execFarMediaError_answers (n : Nat) {s : State} (ok : StoreOk s.store) : Answers (execFarMediaError n s) := by
  simp only [execFarMediaError]
  refine Answers.ite ?_ ?_
  · split <;> simp [ok]
  · split
    · exact ok
    · next h =>
      have okt := State.arrived_storeOk ok h
      split
      · split
        · simp [okt]
        · have met (h a c k f u) := okt.of_eq (State.mediaMet_store _ h a c k f u)
          split
          · next hm => simpa using (met ..).snd hm
          · next hm => simpa using (met ..).snd hm
      · exact ok

theorem execHomeWriteRetry_answers (h i : Nat) {s : State} (ok : StoreOk s.store) : Answers (execHomeWriteRetry h i s) := by
  simp only [execHomeWriteRetry]
  split
  · exact ok
  · refine Answers.ite ok ?_
    split
    · exact ok
    · next hw =>
      have okw := State.bufWrite_storeOk _ _ _ _ _ ok hw
      (repeat' split) <;> simp [okw]

theorem execPageWalkComplete_answers (field i : Nat) {s : State} (ok : StoreOk s.store) :
    Answers (execPageWalkComplete field i s) := by
  simp only [execPageWalkComplete]
  (repeat' split) <;> try simp [ok]
  next h => exact State.forward_storeOk _ _ _ _ (by simpa using ok) h

theorem execPhaseLineApply_answers (core i : Nat) {s : State} (ok : StoreOk s.store) :
    Answers (execPhaseLineApply core i s) := by
  simp only [execPhaseLineApply]
  split
  · refine Answers.ite ok ?_
    split
    · exact ok
    · next hb =>
      have okb := State.useBankAs_storeOk ok hb
      split <;> simp [okb]
  · exact ok

theorem execLinkWordArrival_answers (core : Nat) (east : Bool) {s : State} (ok : StoreOk s.store) :
    Answers (execLinkWordArrival core east s) := by
  simp only [execLinkWordArrival]
  split
  · exact ok
  · split
    · exact ok
    · split
      · exact ok
      · refine Answers.ite ok ?_
        simp only [answers_next]
        refine ok.of_eq ((State.foldl_store _ (fun s k => ?_) ..).trans ?_)
        · (repeat' split) <;> simp
        · simp only [State.modCore_store]
          split <;> simp

theorem execMatrixLineFetch_answers (core : Nat) {s : State} (ok : StoreOk s.store) :
    Answers (execMatrixLineFetch core s) := by
  simp only [execMatrixLineFetch]
  split
  · exact ok
  · split
    · exact ok
    · simp [ok]
    · split
      · exact ok
      · next c u h =>
        have oku : StoreOk u.store := by
          split at h
          · cases h
          · split at h
            · cases h
              exact ok
            · obtain ⟨_, _, h⟩ := Option.map_eq_some_iff.mp h
              cases h
              simpa using ok
        simp [oku]

theorem State.timedOut_storeOk {s t : State} {core : Nat} {c : Cmd} (ok : StoreOk s.store) (h : s.timedOut core c = .start t) :
    StoreOk t.store := by
  simp only [State.timedOut] at h
  split at h <;> try cases h
  split at h
  · next dir link v _ =>
    have pushed := State.timedPush_leaves ok core dir link v
    split at h <;> cases h
    next hp => simpa [hp] using pushed
  · split at h <;> cases h
    simp [ok]
  · cases h
    simp [ok]

theorem execTimedCommandStart_answers (core i : Nat) {s : State} (ok : StoreOk s.store) :
    Answers (execTimedCommandStart core i s) := by
  simp only [execTimedCommandStart]
  split
  · refine Answers.ite ok ?_
    split
    · next h =>
      have okt := State.timedOut_storeOk ok h
      simp only [answers_next, State.modTile_store]
      split <;> simp [okt]
    · split <;> simp [ok]
    · simp [ok]
    · simp [ok]
    · simp [ok]
  · exact ok

theorem execSchedulerDecision_answers (core : Nat) {s : State} (ok : StoreOk s.store) :
    Answers (execSchedulerDecision core s) := by
  simp only [execSchedulerDecision]
  refine Answers.ite ok ?_
  have chosen {o : Option State} {t : State} (ok : StoreOk t.store) (ho : ∀ u, o = some u → u.store = t.store) :
      StoreOk (o.getD t).store := by
    cases o with
    | none => exact ok
    | some u => exact ok.of_eq (ho u rfl)
  refine chosen (by simpa using ok) fun u hu => ?_
  simp only [Option.or_eq_some_iff] at hu
  obtain hu | ⟨-, hu | ⟨-, hu | ⟨-, hu | ⟨-, hu | ⟨-, hu⟩⟩⟩⟩⟩ := hu
  · exact State.deliver_store _ _ hu
  · exact State.reload_store _ _ hu
  · exact State.parkOut_store _ _ hu
  · exact State.loggedSwap_store _ _ hu
  · exact State.rescue_store _ _ hu
  · exact State.rowDecision_store _ _ hu

theorem execLineFetch_answers (core : Nat) (a : Word) {s : State} (ok : StoreOk s.store) :
    Answers (execLineFetch core a s) := by
  simp only [execLineFetch]
  split
  · exact ok
  · next k _ =>
    have read := State.readFar_storeOk (s.gwOf (tileOfCore core)) (s.partOf k) (s.ctx k).crew (lineOf a) 64 .fetch ok
    split
    · next h =>
      have okt := read.snd h
      simp only [answers_next]
      refine okt.of_eq ((State.foldl_store _ (fun s k => ?_) ..).trans (State.fillLine_store ..))
      split <;> simp
    · next h =>
      have okt := read.snd h
      refine Answers.ite ?_ (by simp [okt])
      split
      · next hp => exact State.parkReq_storeOk _ _ (by simpa using okt) hp
      · simp [okt]

/-- The state that a completion write leaves. -/
def State.EndWrite.after : State.EndWrite → State
  | .done _ t => t
  | .skip t => t
  | .wait t => t

theorem State.endWrite_storeOk {s : State} {crew n : Nat} {a : Word} {e : State.EndWrite} (ok : StoreOk s.store)
    (h : s.endWrite crew a n = e) : StoreOk e.after.store := by
  subst h
  simp only [State.endWrite]
  have placed (f p) := State.plainPlace_storeOk f p a n ok
  split
  · simpa [State.EndWrite.after] using ok
  · split
    · exact ok
    · split
      · next h => exact (placed ..).snd h
      · next h =>
        have okt := (placed ..).snd h
        split
        · split
          · next hp => exact State.parkReq_storeOk _ _ (by simpa using okt) hp
          · exact okt
        · exact okt

theorem State.endTask_storeOk {s : State} (crew : Nat) (ok : StoreOk s.store) : StoreOk (s.endTask crew).store := by
  simp only [State.endTask]
  generalize hf : (ite ((s.crew crew).endStep ≠ 2) _ _ : Bool × State) = first
  have okf : StoreOk first.2.store := by
    subst hf
    split
    · exact ok
    · split
      · next h =>
        have okt := State.endWrite_storeOk ok h
        simp only [State.modCrew_store]
        exact State.writePa_storeOk _ _ okt
      · next h =>
        have okt := State.endWrite_storeOk ok h
        exact okt.of_eq (by simp [State.EndWrite.after])
      · next h => exact State.endWrite_storeOk ok h
  split
  · exact okf
  · split
    · next h => exact State.endWrite_storeOk okf h
    · next h =>
      have okt := State.endWrite_storeOk okf h
      exact State.freeCrew_storeOk _ (okt.of_eq (by simp [State.EndWrite.after]))
    · next h =>
      have okt := State.endWrite_storeOk okf h
      refine State.freeCrew_storeOk _ ?_
      simp only [State.knotEffects_store]
      exact State.writePa_storeOk _ _ okt

theorem execTaskEnd_answers (crew : Nat) {s : State} (ok : StoreOk s.store) : Answers (execTaskEnd crew s) := by
  simp only [execTaskEnd]
  refine Answers.ite ok ?_
  split
  · exact State.endTask_storeOk crew ok
  · exact State.endTask_storeOk crew (by simp [ok])
  · exact Answers.ite (State.endTask_storeOk crew (by simp [ok])) ok
  · exact ok

end Sys2Proof.Machine
end

section
/-! Groups, every instruction and every event, and the step of the device keep the canonical form of memory (O5). -/

namespace Sys2Proof.Machine

section
variable {s : State} (ok : StoreOk s.store)
include ok

theorem execVccTick_answers (tile : Nat) : Answers (execVccTick tile s) := by
  simp only [execVccTick]
  split <;> simp [ok]

theorem execSleepDeadline_answers (k : Nat) : Answers (execSleepDeadline k s) := by
  simp only [execSleepDeadline]
  split <;> simp [ok]

theorem execPhaseClose_answers (crew : Nat) : Answers (execPhaseClose crew s) := by
  simp only [execPhaseClose]
  split <;> simp [ok]

theorem execMeshLinkDown_answers (site port : Nat) : Answers (execMeshLinkDown site port s) := by
  simp only [execMeshLinkDown]
  split <;> simp [ok]

theorem execRebindFlood_answers (site i : Nat) : Answers (execRebindFlood site i s) := by
  simp only [execRebindFlood]
  split <;> simp [ok]

theorem execCutPrepared_answers (tile : Nat) : Answers (execCutPrepared tile s) := by
  simp only [execCutPrepared]
  split <;> simp [ok]

theorem execCommitDecision_answers (crew : Nat) : Answers (execCommitDecision crew s) := by
  simp only [execCommitDecision]
  split <;> simp [ok]

theorem execReplayEnd_answers (crew : Nat) : Answers (execReplayEnd crew s) := by
  simp only [execReplayEnd]
  split <;> simp [ok]

theorem execRevert_answers : Answers (execRevert s) := by
  simp only [execRevert]
  split <;> simp [ok]

theorem execCrc32_answers : Answers (execCrc32 s) := by
  simp only [execCrc32]
  split <;> simp [ok]

theorem execTrustOperationDone_answers : Answers (execTrustOperationDone s) := by
  simp only [execTrustOperationDone]
  split <;> simp [ok]

theorem execReclaimComplete_answers (k : Nat) : Answers (execReclaimComplete k s) := by
  simp only [execReclaimComplete]
  split <;> simp [ok]

theorem execSwapComplete_answers (core : Nat) : Answers (execSwapComplete core s) := by
  simp only [execSwapComplete]
  (repeat' split) <;> simp [ok]

theorem execSiteCounterTick_answers (site : Nat) : Answers (execSiteCounterTick site s) := by
  simp only [execSiteCounterTick]
  (repeat' split) <;> simp [ok]

theorem execEngineLineMove_answers (core i : Nat) : Answers (execEngineLineMove core i s) := by
  simp only [execEngineLineMove]
  (repeat' split) <;> simp [ok]

theorem execMatrixOperationComplete_answers (core : Nat) : Answers (execMatrixOperationComplete core s) := by
  simp only [execMatrixOperationComplete]
  (repeat' split) <;> simp [ok]

theorem execRouterFlitForward_answers (n : Nat) : Answers (execRouterFlitForward n s) := by
  simp only [execRouterFlitForward]
  (repeat' split) <;> simp [ok]

theorem execResendDelayExpiry_answers (tile i : Nat) : Answers (execResendDelayExpiry tile i s) := by
  simp only [execResendDelayExpiry]
  (repeat' split) <;> simp [ok]

theorem execRebindChangeResend_answers (tile i : Nat) : Answers (execRebindChangeResend tile i s) := by
  simp only [execRebindChangeResend]
  (repeat' split) <;> simp [ok]

theorem execRetransmitTimeout_answers (tile i : Nat) : Answers (execRetransmitTimeout tile i s) := by
  simp only [execRetransmitTimeout]
  (repeat' split) <;> simp [ok]

theorem execBelayCut_answers (crew : Nat) : Answers (execBelayCut crew s) := by
  simp only [execBelayCut]
  (repeat' split) <;> simp [ok]

theorem execCutApply_answers (tile : Nat) : Answers (execCutApply tile s) := by
  simp only [execCutApply]
  (repeat' split) <;> simp [ok]

theorem execWatchdogFire_answers (tile : Nat) : Answers (execWatchdogFire tile s) := by
  simp only [execWatchdogFire]
  (repeat' split) <;> simp [ok]

theorem execSplice_answers (site : Nat) : Answers (execSplice site s) := by
  simp only [execSplice]
  (repeat' split) <;> simp [ok]

theorem execAdoption_answers (tile : Nat) : Answers (execAdoption tile s) := by
  simp only [execAdoption]
  (repeat' split) <;> simp [ok]

theorem execSelfTestStart_answers (site : Nat) : Answers (execSelfTestStart site s) := by
  simp only [execSelfTestStart]
  (repeat' split) <;> simp [ok]

theorem execSelfTestComplete_answers (site : Nat) (outcome : TestOutcome) :
    Answers (execSelfTestComplete site outcome s) := by
  simp only [execSelfTestComplete]
  (repeat' split) <;> simp [ok]

theorem execVerify_answers : Answers (execVerify s) := by
  simp only [execVerify]
  (repeat' split) <;> simp [ok]

theorem execMeasure_answers : Answers (execMeasure s) := by
  simp only [execMeasure]
  (repeat' split) <;> simp [ok]

theorem execCommit_answers : Answers (execCommit s) := by
  simp only [execCommit]
  (repeat' split) <;> simp [ok]

theorem execGiveComplete_answers (k : Nat) : Answers (execGiveComplete k s) := by
  simp only [execGiveComplete]
  (repeat' split) <;> simp [ok]

theorem execUntimedCommandStart_answers (core : Nat) : Answers (execUntimedCommandStart core s) := by
  simp only [execUntimedCommandStart]
  refine Answers.ite ok ?_
  split
  · exact ok
  · split
    · exact ok
    · next h => simp [ok.of_eq (State.replayStart_store _ _ _ h)]

theorem execEngineOperationStart_answers (core : Nat) : Answers (execEngineOperationStart core s) := by
  simp only [execEngineOperationStart]
  split
  · refine Answers.ite ok ?_
    split
    · exact ok
    · next h => simp [ok.of_eq (State.replayStart_store _ _ _ h)]
  · exact ok

theorem execEccScrub_answers (site bank line : Nat) (found : EccFound) : Answers (execEccScrub site bank line found s) := by
  simp only [execEccScrub]
  split
  · simp [ok]
  · split
    · next h => simp [State.useBankAs_storeOk ok h]
    · exact ok

theorem execTaskDispatch_answers (part : Nat) : Answers (execTaskDispatch part s) := by
  simp only [execTaskDispatch]
  refine Answers.ite ok ?_
  have sent (q e) := State.dispatchFrom_storeOk part q e ok
  split
  · next h => simp [(sent ..).snd h]
  · next h => exact (sent ..).snd h

theorem execHeldBlockPost_answers (part : Nat) : Answers (execHeldBlockPost part s) := by
  simp only [execHeldBlockPost]
  split
  · exact Answers.ite ok (by simp [ok])
  · split
    · simp [ok]
    · next a _ _ _ _ =>
      have read := State.readAny_storeOk (s.partField part) part a 256 ok
      split
      · next h => simp [read.snd h]
      · next h => exact Answers.ite (by simp [read.snd h]) (by simp [read.snd h])

end

/-- The effect of a member of a group keeps the form; events are no members. -/
@[simp] theorem runMember_answers {s : State} (i : Instr) (ok : StoreOk s.store) : Answers (runMember i s) := by
  cases i
  case add | addi | sub | mul | mulImm | mulh | mulhn | and | andImm | or | orImm | xor | xorImm | andn | andnImm | shl | shlImm |
    shr | shrImm | sar | sarImm | rol | rolImm | min | minImm | max | maxImm | minn | minnImm | maxn | maxnImm | sel | mov |
    movi | movh | clz | ctz | popc | bfx | bfi | sext | zext | divstep | bmapRead | lncfg | tget | chanQch | chanQib | segldRd =>
    simp only [runMember]
    exact setX_answers ok ..
  case cmp | cmpImm | pset | pand | por | pxor | pnot =>
    simp only [runMember]
    exact setP_answers ok ..
  case mand | mor | mnot =>
    simp only [runMember]
    exact setM_answers ok ..
  case vabs | vneg | vclz | vpopc | vrcp | vrsq | vexp2 | vlog2 =>
    simp only [runMember]
    exact vec1_answers ok ..
  case vadd | vsub | vmul | vmin | vmax | vmulh | vavg | vshl | vshr | vsar | vand | vor | vxor | vrng =>
    simp only [runMember]
    exact vec2_answers ok ..
  case vfma | vfms =>
    simp only [runMember]
    exact vec3_answers ok ..
  case vred | vcvt | vunpk =>
    simp only [runMember]
    exact runThread_answers ok <| State.readV_bind ok _ fun _ hp => by simp [hp]
  case vcmp | vsel | vshuf | vdot | vsrnd =>
    simp only [runMember]
    exact runThread_answers ok <| State.readV_bind ok _ fun _ hp => State.readV_bind hp _ fun _ hq => by simp [hq]
  case vperm | vstep =>
    simp only [runMember]
    exact runThread_answers ok <| State.readV_bind ok _ fun _ hp => State.readV_bind hp _ fun _ hq =>
      State.readV_bind hq _ fun _ hr => by simp [hr]
  case lea | vbcast | vbcastImm | st | sts | stmask | stmaskP | sig | watch | unwatch | unwatchAll | give | giveNb | reclaim |
    reclaimNb | bmapSwap | bmapBank | phaseT | relq | nop | brk | mzero | mldc | mstc | lncfgSet | copy | gath | scat | publ |
    barw | barwNf | send | sendSig | sends | ibpop | ibpopNw | hop | chanOpen | chanIbx | reap | reapNb | sleep | wakeAll |
    knotSet | knotAdd | knotHold | knotRd | knotWait | launch | launchNb | taskend | vstage | vpub | vdiscard | vretire | vadopt |
    vqry | vqrySet | sample | trap =>
    simp only [runMember]
    exact runThread_answers ok (by simp [ok])
  case mfs | mts | rtwrRb | rtwrDt | rtwrSr | eretKill | resume | swpo | swpoFar | swpi | swpiQ | swpiFar | stopCrew | stopPart |
    stopGo | rdrec | twin | twinNw | segst | blayDeep =>
    simp only [runMember]
    exact runPriv_answers ok (by simp [ok])
  case br | bra | brx | call | callR | ret =>
    simp only [runMember]
    exact runTransfer_answers ok ..
  case tseq | tseqAdd | tseqBar =>
    simp only [runMember]
    exact tseqWith_answers ok ..
  case vpack => exact execVpack_answers (ok := ok) ..
  case vscale => exact execVscale_answers (ok := ok) ..
  case ld => exact execLd_answers (ok := ok) ..
  case ldv => exact execLdv_answers (ok := ok) ..
  case stv => exact execStv_answers (ok := ok) ..
  case ldg => exact execLdg_answers (ok := ok) ..
  case ldgV => exact execLdgV_answers (ok := ok) ..
  case stsV => exact execStsV_answers (ok := ok) ..
  case bmapSet => exact execBmapSet_answers (ok := ok) ..
  case drain => exact execDrain_answers (ok := ok) ..
  case drainBank => exact execDrainBank_answers (ok := ok) ..
  case phase => exact execPhase_answers (ok := ok) ..
  case fence => exact execFence_answers (ok := ok) ..
  case amo => exact execAmo_answers (ok := ok) ..
  case red => exact execRed_answers (ok := ok) ..
  case lrw => exact execLrw_answers (ok := ok) ..
  case sch => exact execSch_answers (ok := ok) ..
  case mma => exact execMma_answers (ok := ok) ..
  case mmat => exact execMmat_answers (ok := ok) ..
  case lnpush => exact execLnpush_answers (ok := ok) ..
  case lnpushT => exact execLnpushT_answers (ok := ok) ..
  case tdef => exact execTdef_answers (ok := ok) ..
  case bari => exact execBari_answers (ok := ok) ..
  case barq => exact execBarq_answers (ok := ok) ..
  case mcast => exact execMcast_answers (ok := ok) ..
  case ibpopFree => exact execIbpopFree_answers (ok := ok) ..
  case spawn => exact execSpawn_answers (ok := ok) ..
  case reapKill => exact execReapKill_answers (ok := ok) ..
  case yield => exact execYield_answers (ok := ok) ..
  case wake => exact execWake_answers (ok := ok) ..
  case rfork => exact execRfork_answers (ok := ok) ..
  case join => exact execJoin_answers (ok := ok) ..
  case eret => exact execEret_answers (ok := ok) ..
  case segld => exact execSegld_answers (ok := ok) ..
  case blay => exact execBlay_answers (ok := ok) ..
  case blayW => exact execBlayW_answers (ok := ok) ..
  case blq => exact execBlq_answers (ok := ok) ..
  all_goals exact ok

section
variable {s : State}

@[simp] theorem State.answered_storeOk {a : Ans} (ok : StoreOk s.store) (ha : Answers a) : StoreOk (s.answered a).store := by
  cases a with
  | next t => exact ha
  | _ => exact ok

theorem State.runFirst_storeOk {found : State} (i : Instr) (okf : StoreOk found.store) (ok : StoreOk s.store) :
    StoreOk (found.answered (runMember i s)).store := State.answered_storeOk okf (runMember_answers i ok)

@[simp] theorem State.runSecond_storeOk (found : State) (i : Instr) (ok : StoreOk s.store) :
    StoreOk (State.runSecond found s i).store :=
  State.answered_storeOk ok (runMember_answers i ok)

theorem State.runGroup_storeOk (g : Group) (ok : StoreOk s.store) : StoreOk (s.runGroup g).store := by
  have one := State.runFirst_storeOk g.first ok ok
  simp only [State.runGroup]
  (repeat' split) <;> try simp [ok, one]
  exact State.runFirst_storeOk g.first (State.runSecond_storeOk s _ ok) (State.runSecond_storeOk s _ ok)

theorem State.endGroup_storeOk {t : State} (g : Group) (ok : StoreOk s.store) (okt : StoreOk t.store) :
    StoreOk (s.endGroup t g).store := by
  simp only [State.endGroup]
  (repeat' split) <;> simp [ok, okt]

theorem State.runFetched_storeOk (k : Nat) (g : Group) (ok : StoreOk s.store) : StoreOk (s.runFetched k g).store := by
  have ok' (c : Cur) : StoreOk ({ s with cur := c } : State).store := ok
  simp only [State.runFetched]
  refine State.ite_storeOk ?_ (State.ite_storeOk ?_ ?_)
  · simp [ok]
  · simp [ok]
  · have ran := State.runGroup_storeOk g (ok' { s.cur with size := if g.second.isSome then 2 else 1 })
    split
    · exact State.endGroup_storeOk g (ok' _) ran
    · exact State.endGroup_storeOk g (ok' _) ran
    · simpa using ran
    · exact ran

/-- A stop of a member is its own, or comes later. -/
theorem memberStop_ok {α β : Type} {x : Except Stop α} {f : α → Except (Bool × Stop) β} {which memb : Bool} {e : Stop}
    (hx : Leaves (fun _ => True) x) (h : (x.mapError (fun e => (which, e)) >>= f) = .error (memb, e)) :
    e.Ok ∨ ∃ a, f a = .error (memb, e) := by
  cases x with
  | ok a => exact .inr ⟨a, h⟩
  | error e' =>
    cases h
    exact .inl hx

theorem State.groupOf_ok (ok : StoreOk s.store) {k : Nat} {l : FLine} {memb : Bool} {e : Stop}
    (h : s.groupOf k l = .error (memb, e)) : e.Ok := by
  have line (a) := State.needLine_leaves ok k a
  have legal (n w) : Leaves (fun _ => True) (State.legal n w) := (State.legal_leaves ..).mpr fun _ _ => trivial
  simp only [State.groupOf] at h
  obtain h | ⟨_, h⟩ := memberStop_ok (line _) h
  · exact h
  obtain h | ⟨_, h⟩ := memberStop_ok (line _) h
  · exact h
  obtain h | ⟨_, h⟩ := memberStop_ok (legal ..) h
  · exact h
  split at h
  · obtain h | ⟨_, h⟩ := memberStop_ok ((leaves_map ..).mpr (legal ..)) h
    · exact h
    · cases h
  · cases h

theorem State.issueGroup_storeOk (core slot k : Nat) (ok : StoreOk s.store) : StoreOk (s.issueGroup core slot k).store := by
  have ok' (c : Cur) : StoreOk ({ s with cur := c } : State).store := ok
  simp only [State.issueGroup]
  split
  · next e h =>
    have fetched := State.pcLine_leaves
      (ok' { tile := tileOfCore core, core := core % 4, slot, num := k % 64, addr := (s.ctx k).s.pc }) k
    rw [h] at fetched
    exact State.stopGroup_storeOk (ok' _) fetched
  · next l h =>
    have formed := State.formNnpc_leaves (s := State.formNpc { s with cur :=
      { tile := tileOfCore core, core := core % 4, slot, num := k % 64, addr := (s.ctx k).s.pc } } k l) (by simpa using ok) k
    split
    · next h =>
      rw [h] at formed
      exact State.stopGroup_storeOk (by simpa using ok) formed
    · next h =>
      rw [h] at formed
      split
      · next h => exact State.stopGroup_storeOk formed (State.groupOf_ok formed h)
      · exact State.runFetched_storeOk _ _ formed

theorem execIssueTurn_answers (core : Nat) (ok : StoreOk s.store) : Answers (execIssueTurn core s) := by
  simp only [execIssueTurn]
  refine Answers.ite ok ?_
  split
  · simpa using ok
  · next slot k _ =>
    have ok' : StoreOk (s.modCore core fun c => { c with turnAt := some (s.rcOf (tileOfCore core)) }).store := by simpa using ok
    have issued := State.issueGroup_storeOk core slot k ok'
    refine Answers.ite ok' (Answers.ite (by simpa using ok) (State.settle_storeOk ?_))
    simp only [State.store_with, State.store_fold]
    split
    · exact State.ite_storeOk (by simpa using ok') issued
    · exact issued

end

/-- A thread instruction does by itself what it does in a group. -/
theorem exec_eq_runMember {s : State} {i : Instr} (hi : i.raw.isSome = true) : exec i s = runMember i s := by
  cases i <;> cases hi <;> rfl

/-- Every instruction and every event keeps the form. -/
theorem exec_answers {s : State} (i : Instr) (ok : StoreOk s.store) : Answers (exec i s) := by
  by_cases hi : i.raw.isSome = true
  · rw [exec_eq_runMember hi]
    exact runMember_answers i ok
  cases i
  case issueTurn => exact execIssueTurn_answers (ok := ok) ..
  case lineFetch => exact execLineFetch_answers (ok := ok) ..
  case schedulerDecision => exact execSchedulerDecision_answers (ok := ok) ..
  case swapComplete => exact execSwapComplete_answers (ok := ok) ..
  case trapRecordArrival => exact execTrapRecordArrival_answers (ok := ok) ..
  case vccTick => exact execVccTick_answers (ok := ok) ..
  case siteCounterTick => exact execSiteCounterTick_answers (ok := ok) ..
  case sleepDeadline => exact execSleepDeadline_answers (ok := ok) ..
  case timedCommandStart => exact execTimedCommandStart_answers (ok := ok) ..
  case untimedCommandStart => exact execUntimedCommandStart_answers (ok := ok) ..
  case engineLineMove => exact execEngineLineMove_answers (ok := ok) ..
  case barrierArrival => exact execBarrierArrival_answers (ok := ok) ..
  case engineOperationStart => exact execEngineOperationStart_answers (ok := ok) ..
  case matrixLineFetch => exact execMatrixLineFetch_answers (ok := ok) ..
  case matrixOperationComplete => exact execMatrixOperationComplete_answers (ok := ok) ..
  case linkWordArrival => exact execLinkWordArrival_answers (ok := ok) ..
  case vaultRequestArrival => exact execVaultRequestArrival_answers (ok := ok) ..
  case vaultReplyArrival => exact execVaultReplyArrival_answers (ok := ok) ..
  case immediateWriteLanding => exact execImmediateWriteLanding_answers (ok := ok) ..
  case reservationGrant => exact execReservationGrant_answers (ok := ok) ..
  case eccScrub => exact execEccScrub_answers (ok := ok) ..
  case phaseClose => exact execPhaseClose_answers (ok := ok) ..
  case phaseLineApply => exact execPhaseLineApply_answers (ok := ok) ..
  case farRequestTranslate => exact execFarRequestTranslate_answers (ok := ok) ..
  case pageWalkComplete => exact execPageWalkComplete_answers (ok := ok) ..
  case homeWrite => exact execHomeWrite_answers (ok := ok) ..
  case homeWriteRetry => exact execHomeWriteRetry_answers (ok := ok) ..
  case homePubl => exact execHomePubl_answers (ok := ok) ..
  case homeRead => exact execHomeRead_answers (ok := ok) ..
  case farAtomicAtHome => exact execFarAtomicAtHome_answers (ok := ok) ..
  case farReplyArrival => exact execFarReplyArrival_answers (ok := ok) ..
  case farMediaError => exact execFarMediaError_answers (ok := ok) ..
  case commitNoticeAtHome => exact execCommitNoticeAtHome_answers (ok := ok) ..
  case routerFlitForward => exact execRouterFlitForward_answers (ok := ok) ..
  case meshLinkDown => exact execMeshLinkDown_answers (ok := ok) ..
  case staticRouteFlitLanding => exact execStaticRouteFlitLanding_answers (ok := ok) ..
  case messageReceive => exact execMessageReceive_answers (ok := ok) ..
  case ackReceive => exact execAckReceive_answers (ok := ok) ..
  case nackFullReceive => exact execNackFullReceive_answers (ok := ok) ..
  case nackOrderReceive => exact execNackOrderReceive_answers (ok := ok) ..
  case nackFencedReceive => exact execNackFencedReceive_answers (ok := ok) ..
  case nackReplayReceive => exact execNackReplayReceive_answers (ok := ok) ..
  case resendDelayExpiry => exact execResendDelayExpiry_answers (ok := ok) ..
  case rebindChangeResend => exact execRebindChangeResend_answers (ok := ok) ..
  case retransmitTimeout => exact execRetransmitTimeout_answers (ok := ok) ..
  case hopArrival => exact execHopArrival_answers (ok := ok) ..
  case hopReply => exact execHopReply_answers (ok := ok) ..
  case mcastReplicaLanding => exact execMcastReplicaLanding_answers (ok := ok) ..
  case rebindFlood => exact execRebindFlood_answers (ok := ok) ..
  case taskDispatch => exact execTaskDispatch_answers (ok := ok) ..
  case imageLoadComplete => exact execImageLoadComplete_answers (ok := ok) ..
  case taskEnd => exact execTaskEnd_answers (ok := ok) ..
  case heldBlockPost => exact execHeldBlockPost_answers (ok := ok) ..
  case belayCut => exact execBelayCut_answers (ok := ok) ..
  case candidateAnswer => exact execCandidateAnswer_answers (ok := ok) ..
  case cutStreamLine => exact execCutStreamLine_answers (ok := ok) ..
  case cutPrepared => exact execCutPrepared_answers (ok := ok) ..
  case commitDecision => exact execCommitDecision_answers (ok := ok) ..
  case cutApply => exact execCutApply_answers (ok := ok) ..
  case watchdogFire => exact execWatchdogFire_answers (ok := ok) ..
  case machineCheck => exact execMachineCheck_answers (ok := ok) ..
  case splice => exact execSplice_answers (ok := ok) ..
  case replayEnd => exact execReplayEnd_answers (ok := ok) ..
  case haltComplete => exact execHaltComplete_answers (ok := ok) ..
  case partitionReconfiguration => exact execPartitionReconfiguration_answers (ok := ok) ..
  case deepBelayImageWritten => exact execDeepBelayImageWritten_answers (ok := ok) ..
  case deepRestore => exact execDeepRestore_answers (ok := ok) ..
  case adoption => exact execAdoption_answers (ok := ok) ..
  case versionHomeRequest => exact execVersionHomeRequest_answers (ok := ok) ..
  case powerGood => exact execPowerGood_answers (ok := ok) ..
  case selfTestStart => exact execSelfTestStart_answers (ok := ok) ..
  case selfTestComplete => exact execSelfTestComplete_answers (ok := ok) ..
  case cxlPortDown => exact execCxlPortDown_answers (ok := ok) ..
  case hostFarRead => exact execHostFarRead_answers (ok := ok) ..
  case hostFarWrite => exact execHostFarWrite_answers (ok := ok) ..
  case verify => exact execVerify_answers (ok := ok) ..
  case measure => exact execMeasure_answers (ok := ok) ..
  case commit => exact execCommit_answers (ok := ok) ..
  case revert => exact execRevert_answers (ok := ok) ..
  case crc32 => exact execCrc32_answers (ok := ok) ..
  case trustOperationDone => exact execTrustOperationDone_answers (ok := ok) ..
  case giveComplete => exact execGiveComplete_answers (ok := ok) ..
  case reclaimComplete => exact execReclaimComplete_answers (ok := ok) ..
  case immediateWriteAcknowledgement => exact execImmediateWriteAcknowledgement_answers (ok := ok) ..
  case trapWindowAccessArrival => exact execTrapWindowAccessArrival_answers (ok := ok) ..
  case logReplicaAcknowledgement => exact execLogReplicaAcknowledgement_answers (ok := ok) ..
  case versionAnswer => exact execVersionAnswer_answers (ok := ok) ..
  case vccOverflow | linkCreditReturn | arrayEccUncorrectable | phaseCloseComplete | parkact | parkingEnd | gwinv | gwinvDone |
    hotnessDecay | launchCut | regularCutDue | residueMismatch | fieldPowerLoss | deviceReset | stageOneEntry | fieldJoin |
    fieldGivenUp | thermalThrottle | thermalShutdown | droopStretch | marginReplan | hbmRepairStart | hbmRepairDone | cxlPortUp |
    folvibelLinkTrain | folvibelLinkDown | hlaunch | hpubn | herrClear | hlresDropClear | functionLevelReset | hirq | devrst |
    quiesce | quiesceDone | quiesceRelease | qbootGo | qbootCancel | hbeatWrite | getVersion | getCapabilities |
    negotiateAlgorithms | getDigests | getCertificate | challenge | getMeasurements | registerWrite =>
    simp [exec, execVccOverflow, execLinkCreditReturn, execArrayEccUncorrectable, execPhaseCloseComplete, execParkact,
      execParkingEnd, execGwinv, execGwinvDone, execHotnessDecay, execLaunchCut, execRegularCutDue, execResidueMismatch,
      execFieldPowerLoss, execDeviceReset, execStageOneEntry, execFieldJoin, execFieldGivenUp, execThermalThrottle,
      execThermalShutdown, execDroopStretch, execMarginReplan, execHbmRepairStart, execHbmRepairDone, execCxlPortUp,
      execFolvibelLinkTrain, execFolvibelLinkDown, execHlaunch, execHpubn, execHerrClear, execHlresDropClear,
      execFunctionLevelReset, execHirq, execDevrst, execQuiesce, execQuiesceDone, execQuiesceRelease, execQbootGo,
      execQbootCancel, execHbeatWrite, execGetVersion, execGetCapabilities, execNegotiateAlgorithms, execGetDigests,
      execGetCertificate, execChallenge, execGetMeasurements, execRegisterWrite, ok]
  all_goals exact absurd rfl hi

theorem coreStep_answers {s : State} (ok : StoreOk s.store) : Answers (coreStep s) := by
  simp only [coreStep]
  split
  · split
    · exact execLineFetch_answers _ _ ok
    · exact execIssueTurn_answers _ ok
  · have tick := exec_answers (.vccTick s.cur.tile) ok
    simp only [exec] at tick
    split
    · next t h =>
      rw [h] at tick
      exact exec_answers (.siteCounterTick _) tick
    · exact tick

theorem step_answers {s : State} (ok : StoreOk s.store) : Answers (step s) := by
  simp only [step]
  split
  · exact coreStep_answers ok
  · exact Answers.ite (exec_answers _ ok) ok

/-- Settles O5: what a step answers keeps the canonical form of memory and of a deep image's memory, instruction by instruction and
event by event. -/
theorem memoryInvariant : Obligations.MemoryInvariant := by
  intro s t hmem hdeep h
  have after := step_answers ⟨hmem, hdeep⟩
  rw [show step s = .next t from h] at after
  exact ⟨after.mem, after.deep⟩

end Sys2Proof.Machine
end

section
/-! The machine after power-on reset (O7): a table that lists nothing reads as its default everywhere. -/

namespace Sys2Proof.Machine

/-- No tile is bound: no number below 0x8000 is a control tile, and the binding table is empty. -/
theorem State.tileBound_reset {t : Nat} (h : t < 0x8000) : State.reset.tileBound t = false := by
  have notControl : isControlTile t = false := by simp [isControlTile]; omega
  have unbound : State.reset.bound t = 0xFFFF := rfl
  simp [State.tileBound, notControl, unbound]

/-- Settles O7: each value is a field of the initial state; what is asked of a table holds of its default. -/
theorem resetValues : Obligations.ResetValues :=
  ⟨rfl, rfl, rfl, rfl, rfl, rfl, rfl, rfl, rfl, rfl, rfl, rfl, fun _ => State.tileBound_reset, fun _ => ⟨rfl, rfl⟩,
    fun _ => ⟨rfl, rfl⟩, fun _ => rfl, fun _ => ⟨rfl, rfl, rfl⟩, fun _ => rfl, fun _ => rfl, rfl, rfl, rfl, rfl⟩

end Sys2Proof.Machine
end

section
/-! The close of a phase and error correction (O45): what the log, a home's adoption, an early cut and the end of a phase leave
unchanged. -/

namespace Sys2Proof.Machine

namespace State

variable {s t : State} {crew h : Nat}

theorem mem_of_store (h : t.store = s.store) : t.mem = s.mem := congrArg Prod.fst h

/-- A log record changes a crew's log and what is left to replay of it (R421). -/
theorem crew_logEv (tile : Nat) (e : LogEv) (n k : Nat) :
    ∃ log redo, (s.logEv tile e n).crew k = { s.crew k with log, redo } := by
  simp only [logEv]
  split
  · exact ⟨_, _, rfl⟩
  · next c _ =>
    split <;> simp only [crew_modSite, crew_modCrew_eq] <;> split
    · next hk => exact hk ▸ ⟨_, _, rfl⟩
    · exact ⟨_, _, rfl⟩
    · next hk => exact hk ▸ ⟨_, _, rfl⟩
    · exact ⟨_, _, rfl⟩

theorem logEv_tiles (tile : Nat) (e : LogEv) (n : Nat) : (s.logEv tile e n).tiles = s.tiles := by
  simp only [logEv]
  split
  · rfl
  · split <;> rfl

theorem logEv_homes (tile : Nat) (e : LogEv) (n : Nat) : (s.logEv tile e n).homes = s.homes := by
  simp only [logEv]
  split
  · rfl
  · split <;> rfl

/-- An early cut is a change of crews and of the sites' counts of log bytes (R417). -/
theorem earlyBelay_threads (c : Nat) :
    (s.earlyBelay c).ctxs = s.ctxs ∧ (s.earlyBelay c).cores = s.cores ∧ (s.earlyBelay c).checks = s.checks := by
  simp only [earlyBelay, scheduleCut]
  split
  · exact ⟨rfl, rfl, rfl⟩
  · split
    · exact ⟨rfl, rfl, rfl⟩
    · simp [logCut, enterCut]

theorem raiseCheck_raised (site : Nat) (cause : MCause) : (site, cause) ∈ (s.raiseCheck site cause).checks := by
  simp only [raiseCheck]
  split
  · next h => exact List.contains_iff_mem.mp h
  · simp

theorem raiseCheck_keeps (site : Nat) (cause : MCause) : (s.raiseCheck site cause).ctxs = s.ctxs
    ∧ (s.raiseCheck site cause).cores = s.cores ∧ (s.raiseCheck site cause).crews = s.crews := by
  simp only [raiseCheck]
  split <;> exact ⟨rfl, rfl, rfl⟩

/-- An uncorrectable word in the bank of a vault raises a machine check (R146). -/
theorem arrayError_vault {site bank line : Nat} (hb : bank < 56) :
    (s.arrayError site bank line).ctxs = s.ctxs ∧ (s.arrayError site bank line).cores = s.cores
    ∧ (site, .arrayEcc) ∈ (s.arrayError site bank line).checks ∧ (s.arrayError site bank line).crews = s.crews := by
  simp only [arrayError, if_pos hb]
  obtain ⟨hctx, hcore, hcrew⟩ := raiseCheck_keeps (s := (s.countBank site bank false).errorRecord 1 0x1C site 0xFF 0x08 bank
    ((s.countBank site bank false).siteVc site)) site .arrayEcc
  exact ⟨hctx, hcore, raiseCheck_raised .., hcrew⟩

/-- One in a keep raises none; the crew whose keep it is makes a cut early (R146). -/
theorem arrayError_keep {site bank line : Nat} (hb : 56 ≤ bank) :
    (s.arrayError site bank line).ctxs = s.ctxs ∧ (s.arrayError site bank line).cores = s.cores
    ∧ (s.arrayError site bank line).checks = s.checks
    ∧ (s.keptCrew site = none → (s.arrayError site bank line).crews = s.crews) := by
  have kept : ((s.countBank site bank false).errorRecord 0 0 site 0xFF 0x08 bank (BitVec.ofNat 64 line)).keptCrew site
    = s.keptCrew site := rfl
  simp only [arrayError, if_neg (Nat.not_lt.mpr hb), kept]
  split
  · next c hc =>
    obtain ⟨hctx, hcore, hcheck⟩ := earlyBelay_threads (s := (s.countBank site bank false).errorRecord 0 0 site 0xFF 0x08 bank
      (BitVec.ofNat 64 line)) c
    exact ⟨hctx, hcore, hcheck, fun hn => by simp [hn] at hc⟩
  · exact ⟨rfl, rfl, rfl, fun _ => rfl⟩

/-- What the close of a phase reads while the homes adopt: the tiles, of a crew its first tile, its replay and whether it closes, and
the homes' PSNs. -/
def closeView (s : State) : Tbl Tile × (Nat → Nat × Option Nat × Bool) × (Nat → Nat) :=
  (s.tiles, fun c => ((s.crew c).t0, (s.crew c).replayTo, (s.crew c).closeOn), fun h => (s.home h).psn)

theorem closeView_eq (htile : t.tiles = s.tiles)
    (hcrew : ∀ c, ((t.crew c).t0, (t.crew c).replayTo, (t.crew c).closeOn) = ((s.crew c).t0, (s.crew c).replayTo, (s.crew c).closeOn))
    (hhome : ∀ h, (t.home h).psn = (s.home h).psn) : t.closeView = s.closeView := by
  simp only [closeView, htile, hcrew, hhome]

/-- Whether a crew replays is read from its first tile, that tile and the crew it belongs to (R427). -/
theorem crewReplays_congr (htile : t.tiles = s.tiles) (first : (t.crew crew).t0 = (s.crew crew).t0)
    (redo : ∀ c, (t.crew c).replayTo = (s.crew c).replayTo) : t.crewReplays crew = s.crewReplays crew := by
  simp only [crewReplays, replaying, tile, htile, first, redo]
  rfl

theorem crewReplays_of_closeView (hv : t.closeView = s.closeView) : t.crewReplays crew = s.crewReplays crew := by
  simp only [closeView, Prod.mk.injEq] at hv
  obtain ⟨htile, hcrew, -⟩ := hv
  exact crewReplays_congr htile (congrArg Prod.fst (congrFun hcrew crew)) fun c => congrArg (fun p => p.2.1) (congrFun hcrew c)

theorem modCrew_closeView (k : Nat) {f : Crew → Crew}
    (hf : ∀ w, ((f w).t0, (f w).replayTo, (f w).closeOn) = (w.t0, w.replayTo, w.closeOn)) :
    (s.modCrew k f).closeView = s.closeView := by
  refine closeView_eq rfl (fun c => ?_) fun _ => rfl
  rw [crew_modCrew_eq]
  split
  · next hc => exact hc ▸ hf _
  · rfl

theorem logEv_closeView (tile : Nat) (e : LogEv) (n : Nat) : (s.logEv tile e n).closeView = s.closeView := by
  refine closeView_eq (logEv_tiles ..) (fun c => ?_) fun h => by simp only [home, logEv_homes]
  obtain ⟨log, redo, hc⟩ := crew_logEv (s := s) tile e n c
  rw [hc]

theorem adoptAtHome_closeView (s : State) (crew h : Nat) : (s.adoptAtHome crew h).closeView = s.closeView := by
  simp only [adoptAtHome]
  generalize ite (s.crewReplays crew) _ _ = psn
  generalize hu : State.setHome _ _ _ = u
  have hv : u.closeView = s.closeView := by
    rw [← hu, ← modCrew_closeView (s := s) crew
      (f := fun w => { w with dyn := { w.dyn with adopted := Tbl.set 0 w.dyn.adopted h psn } }) fun _ => rfl]
    refine closeView_eq rfl (fun _ => rfl) fun j => ?_
    rw [home_setHome_eq]
    split
    · next hj => exact hj ▸ rfl
    · rfl
  split
  · exact hv
  · split
    · refine (modCrew_closeView (s := u) crew fun w => ?_).trans hv
      rfl
    · exact (logEv_closeView ..).trans hv

/-- A home that adopts for a crew that does not replay: it adopts its PSN, and the other homes' stay (R101). -/
theorem adopted_adoptAtHome (hr : s.crewReplays crew = false) (j : Nat) :
    Tbl.get 0 ((s.adoptAtHome crew h).crew crew).dyn.adopted j
      = if j = h then (s.home h).psn else Tbl.get 0 (s.crew crew).dyn.adopted j := by
  have dyn (u : State) (n tile : Nat) (e : LogEv) : ((u.logEv tile e n).crew crew).dyn = (u.crew crew).dyn := by
    obtain ⟨log, redo, hc⟩ := crew_logEv (s := u) tile e n crew
    rw [hc]
  have read (u : State) (x : Home) : (u.setHome h x).crewReplays crew = u.crewReplays crew := rfl
  simp only [adoptAtHome, hr, if_neg Bool.false_ne_true, read]
  have kept : (s.modDyn crew fun d => { d with adopted := Tbl.set 0 d.adopted h (s.home h).psn }).crewReplays crew = false := by
    refine (crewReplays_of_closeView (modCrew_closeView (s := s) crew fun w => ?_)).trans hr
    rfl
  rw [kept]
  simp only [if_neg Bool.false_ne_true]
  split
  · simp [modDyn, Tbl.get_set]
  · simp [dyn, modDyn, Tbl.get_set]

theorem closeOn_foldl_adoptAtHome (l : List Nat) :
    ((l.foldl (fun s h => s.adoptAtHome crew h) s).crew crew).closeOn = (s.crew crew).closeOn :=
  congrArg (fun v => (v.2.1 crew).2.2) (foldl_keeps closeView _ (fun s h => adoptAtHome_closeView s crew h) l s)

theorem adopted_foldl_adoptAtHome (hr : s.crewReplays crew = false) (l : List Nat) (j : Nat) :
    Tbl.get 0 ((l.foldl (fun s h => s.adoptAtHome crew h) s).crew crew).dyn.adopted j
      = if j ∈ l then (s.home j).psn else Tbl.get 0 (s.crew crew).dyn.adopted j := by
  induction l generalizing s with
  | nil => simp
  | cons h rest ih =>
    have view := adoptAtHome_closeView s crew h
    have psn : ((s.adoptAtHome crew h).home j).psn = (s.home j).psn := congrFun (congrArg (fun v => v.2.2) view) j
    rw [List.foldl_cons, ih ((crewReplays_of_closeView view).trans hr), psn, adopted_adoptAtHome hr]
    by_cases hj : j = h <;> by_cases hm : j ∈ rest <;> simp [hj, hm]

/-- What the end of a phase has set of a crew: that it closes no more, and the phase. -/
def phaseView (s : State) (crew : Nat) : Bool × BitVec 32 := ((s.crew crew).closeOn, (s.crew crew).dyn.phase)

theorem phaseView_of_crews (h : t.crews = s.crews) : t.phaseView crew = s.phaseView crew := by
  simp only [phaseView, State.crew, h]

theorem modCrew_phaseView {f : Crew → Crew} (hf : ∀ w, ((f w).closeOn, (f w).dyn.phase) = (w.closeOn, w.dyn.phase)) :
    (s.modCrew crew f).phaseView crew = s.phaseView crew := by
  simp only [phaseView, crew_modCrew, hf]

theorem logEv_phaseView (tile : Nat) (e : LogEv) (n : Nat) : (s.logEv tile e n).phaseView crew = s.phaseView crew := by
  obtain ⟨log, redo, hc⟩ := crew_logEv (s := s) tile e n crew
  simp only [phaseView, hc]

theorem modTiles_phaseView (c : Nat) (f : Tile → Tile) : (s.modTiles c f).phaseView crew = s.phaseView crew := by
  refine foldl_keeps (fun s => s.phaseView crew) _ (fun s t => ?_) _ s
  rfl

theorem settleClose_phaseView : (s.settleClose crew).phaseView crew = s.phaseView crew := by
  simp only [settleClose]
  split
  · rfl
  · split
    · rw [logEv_phaseView]
      exact modCrew_phaseView fun _ => rfl
    · exact modCrew_phaseView fun _ => rfl
    · rfl

theorem arriveCore_phaseView (core vc : Nat) (timed : Bool) : (s.arriveCore crew core vc timed).phaseView crew = s.phaseView crew := by
  simp only [arriveCore]
  split
  · rfl
  · exact settleClose_phaseView

theorem arriveEmpty_phaseView : (s.arriveEmpty crew).phaseView crew = s.phaseView crew := by
  simp only [arriveEmpty]
  split
  · rfl
  · refine foldl_keeps (fun s => s.phaseView crew) _ (fun s t => foldl_keeps (fun s => s.phaseView crew) _ (fun s c => ?_) _ s) _ s
    split
    · exact arriveCore_phaseView ..
    · rfl

theorem completeX_crews (k : Nat) (d : BitVec 6) (v : Word) (lat : Nat) : (s.completeX k d v lat).crews = s.crews := by
  simp only [completeX, putX]
  split
  · rfl
  · split <;> rfl

theorem phaseWake_phaseView (ph : BitVec 32) : (s.phaseWake crew ph).phaseView crew = s.phaseView crew := by
  refine foldl_keeps (fun s => s.phaseView crew) _ (fun s k => ?_) _ s
  split
  · split
    · exact phaseView_of_crews (completeX_crews ..)
    · rfl
  · rfl

/-- The end of a phase raises the crew's phase number, and the crew closes no more (R296). -/
theorem endPhase_phaseView : (s.endPhase crew).phaseView crew = (false, (s.crew crew).dyn.phase + 1) := by
  have raised : (((s.modCrew crew fun w => { w with closing := none, closeOn := false, closeLines := [] }).modDyn crew fun d =>
      { d with phase := (s.crew crew).dyn.phase + 1 }).phaseView crew) = (false, (s.crew crew).dyn.phase + 1) := by
    simp [phaseView, modDyn]
  simp only [endPhase]
  split
  · refine (modCrew_phaseView fun w => ?_).trans ?_
    · rfl
    · rw [phaseWake_phaseView, modTiles_phaseView, raised]
  · rw [settleClose_phaseView, arriveEmpty_phaseView, phaseWake_phaseView, modTiles_phaseView, raised]

end State

/-- The machine check of R146, or the early cut of the crew whose keep it is. -/
theorem execArrayEccUncorrectable_marks (s : State) (site bank line : Nat) :
    ∃ t, s.scrubbed site bank line .uncorrectable = t ∧ exec (.arrayEccUncorrectable site bank line) s = .next t
      ∧ t.mem = s.mem ∧ t.ctxs = s.ctxs ∧ t.cores = s.cores
      ∧ (bank < 56 → (site, .arrayEcc) ∈ t.checks ∧ t.crews = s.crews)
      ∧ (56 ≤ bank → t.checks = s.checks ∧ (s.keptCrew site = none → t.crews = s.crews)) := by
  refine ⟨_, rfl, rfl, State.mem_of_store (State.arrayError_store ..), ?_⟩
  obtain hb | hb := Nat.lt_or_ge bank 56
  · obtain ⟨hctx, hcore, hcheck, hcrew⟩ := State.arrayError_vault (s := s) (site := site) (line := line) hb
    exact ⟨hctx, hcore, fun _ => ⟨hcheck, hcrew⟩, fun h => absurd hb (Nat.not_lt.mpr h)⟩
  · obtain ⟨hctx, hcore, hcheck, hcrew⟩ := State.arrayError_keep (s := s) (site := site) (line := line) hb
    exact ⟨hctx, hcore, fun h => absurd h (Nat.not_lt.mpr hb), fun _ => ⟨hcheck, hcrew⟩⟩

/-- The close of a phase begins: every home sets the crew's adopted PSN (R101, R296). -/
theorem execPhaseClose_begins {s : State} {crew v : Nat} (hv : (s.crew crew).closing = some v) (hon : (s.crew crew).closeOn = false)
    (hall : ∀ t ∈ s.crewTiles crew, (s.tile t).vcc = v) (hcap : s.captureFirst crew v = false) (hrep : s.crewReplays crew = false) :
    ∃ t, exec (.phaseClose crew) s = .next t ∧ (t.crew crew).closeOn = true ∧ t.mem = s.mem
      ∧ ∀ h, h < 24 → Tbl.get 0 (t.crew crew).dyn.adopted h = (s.home h).psn := by
  have all : s.allAt crew v = true := by simpa [State.allAt] using hall
  let u := s.modCrew crew fun w => { w with closeOn := true }
  have stays : u.crewReplays crew = false := by
    rw [← hrep]
    refine State.crewReplays_congr rfl (by simp [u]) fun c => ?_
    simp only [u, State.crew_modCrew_eq]
    split
    · next hc => rw [hc]
    · rfl
  refine ⟨(List.range 24).foldl (fun s h => s.adoptAtHome crew h) u, ?_, ?_, ?_, fun h hh => ?_⟩
  · simp only [exec, execPhaseClose, hv, hon, all, hcap]
    rfl
  · rw [State.closeOn_foldl_adoptAtHome]
    simp [u]
  · exact State.mem_of_store ((State.foldl_store _ (fun _ _ => State.adoptAtHome_store ..) ..).trans (State.modCrew_store ..))
  · have home : u.home h = s.home h := rfl
    rw [State.adopted_foldl_adoptAtHome stays, if_pos (List.mem_range.mpr hh), home]

/-- A line of a phase buffer reaches its bank (R299); over another core's bytes it leaves a trace entry and log records (R300). -/
theorem execPhaseLineApply_applies {s u : State} {core i crew : Nat} {p : PLine} (hcrew : (s.tile (tileOfCore core)).crew = some crew)
    (hp : (s.core core).pbuf[i]? = some p) (hon : (s.crew crew).closeOn = true) (hredo : (s.crew crew).redo = [])
    (hheld : s.linesHeld ⟨p.tile, p.bank, p.line * 64⟩ 64 = false) (hu : s.useBankAs 2 p.tile p.bank = some u) :
    let earlier := (s.crew crew).closeLines.filter (fun q =>
      q.2.tile == p.tile && q.2.bank == p.bank && q.2.line == p.line && q.2.en &&& p.en != 0)
    let v := ((u.writeEn ⟨p.tile, p.bank, p.line * 64⟩ 64 p.en p.data).modCore core (fun c => { c with pbuf := c.pbuf.eraseIdx i })).modCrew
      crew (fun w => { w with closeLines := w.closeLines ++ [(core, p)] })
    exec (.phaseLineApply core i) s = .next (if earlier = [] then v
      else earlier.foldl (fun (x : State) q => x.logEv p.tile (.close q.1 core p.bank p.line) 16)
        (v.traceEntry (v.siteOf p.tile) core p.bank p.line (s.crew crew).dyn.phase)) := by
  intro earlier v
  simp only [exec, execPhaseLineApply, hcrew, hp, hon, hredo, hheld, hu]
  simp only [List.any_nil, Bool.not_true, Bool.or_self, if_neg Bool.false_ne_true, List.isEmpty_iff]
  split <;> rfl

/-- Settles O45: the scrub and the machine checks from what `arrayError` changes, the close from what the homes adopt, and its end
from what `endPhase` leaves of a crew. -/
theorem phaseAndScrubEvents : Obligations.PhaseAndScrubEvents := by
  intro s site bank line crew
  refine ⟨fun found hs => ?_, fun found tile u hs hu => ?_, rfl, rfl, execArrayEccUncorrectable_marks ..,
    fun v => execPhaseClose_begins, fun core i p u => execPhaseLineApply_applies, fun hon hempty => ?_⟩
  · simp [exec, execEccScrub, hs]
  · simp [exec, execEccScrub, hs, hu]
  · have view := State.endPhase_phaseView (s := s) (crew := crew)
    simp only [State.phaseView, Prod.mk.injEq] at view
    obtain ⟨closed, raised⟩ := view
    refine ⟨?_, raised, closed⟩
    have drained : ((s.crewCores crew).all fun c => (s.core c).pbuf.isEmpty) = true := by simpa using hempty
    simp only [exec, execPhaseCloseComplete, hon, drained, Bool.and_self, if_true]

end Sys2Proof.Machine
end

section
/-! Power, the device reset and the staged start (O56): what a reset keeps of a table, what the loss of a field leaves, and how a
joining field binds its tiles. -/

namespace Sys2Proof.Machine

namespace Tbl

variable {α : Type}

theorem find_filter_key (p : Nat → Bool) (t : Tbl α) (k : Nat) :
    find (t.filter fun e => p e.1) k = if p k = true then find t k else none := by
  induction t with
  | nil => simp [find]
  | cons e rest ih =>
    obtain ⟨k', v⟩ := e
    obtain rfl | hk := eq_or_ne k' k
    · by_cases hp : p k' = true <;> simp [find, hp, ih]
    · by_cases hp : p k' = true <;> simp [find, hp, hk, ih]

theorem get_filter_key (d : α) (p : Nat → Bool) (t : Tbl α) (k : Nat) :
    get d (t.filter fun e => p e.1) k = if p k = true then get d t k else d := by
  simp only [get, find_filter_key]
  split <;> rfl

theorem find_of_above {t : Tbl α} {k : Nat} (h : Above k t) : find t k = none := by
  induction t with
  | nil => rfl
  | cons e rest ih =>
    obtain ⟨k', v⟩ := e
    have hk : k < k' := h (k', v) (List.mem_cons_self ..)
    simp [find, Nat.ne_of_gt hk, ih fun e he => h e (List.mem_cons_of_mem _ he)]

variable [DecidableEq α]

/-- A table with a part kept of every value: what it lists no more is a value of which only the default is kept. -/
theorem get_filterMap {d : α} {t : Tbl α} (g : α → α) (hg : g d = d) (hw : wf d t = true) (k : Nat) :
    get d (t.filterMap fun e => if g e.2 = d then none else some (e.1, g e.2)) k = g (get d t k) := by
  induction t with
  | nil => exact hg.symm
  | cons e rest ih =>
    obtain ⟨k', v⟩ := e
    obtain ⟨-, above, hrest⟩ := wf_cons.1 hw
    have ih := ih hrest
    simp only [get] at ih ⊢
    obtain rfl | hk := eq_or_ne k' k
    · rw [find_of_above above, Option.getD_none, hg] at ih
      by_cases hv : g v = d
      · simp [find, hv, ih]
      · simp [find, hv]
    · by_cases hv : g v = d <;> simp [find, hv, hk, ih]

end Tbl

namespace State

variable {s : State}

theorem updateRefs_fields (crew : Nat) :
    ((s.updateRefs crew).fields, (s.updateRefs crew).rebind) = (s.fields, s.rebind) := by
  simp only [updateRefs]
  split <;> rfl

/-- A cut that fails leaves the fields and the tiles' places. -/
theorem failCut_fields (crew : Nat) : ((s.failCut crew).fields, (s.failCut crew).rebind) = (s.fields, s.rebind) := by
  simp only [failCut, updateRefs_fields, modCrew_fields, modCrew_rebind]
  refine foldl_keeps (fun s => (s.fields, s.rebind)) _ (fun s t => ?_) _ s
  rfl

/-- What the error records of a field's black box do not touch. -/
def joinState (s : State) (f : Nat) : Bool × Bool × Bool := ((s.field f).power, (s.field f).joined, (s.field f).given)

theorem errorRecord_joinState (kind cause : BitVec 8) (site : Nat) (core unit : BitVec 8) (sub : Nat) (detail : Word) (f : Nat) :
    (s.errorRecord kind cause site core unit sub detail).joinState f = s.joinState f := by
  simp only [joinState, errorRecord, recordIn, field_setField_eq]
  split
  · next h => rw [h]
  · rfl

/-- The cuts in progress of the crews of a field that is lost fail. -/
theorem foldl_failCut_keeps (l : List Nat) {t : State}
    (h : l.foldl (fun s c => match (s.crew c).cut with
      | some x => if x.decided then s else s.failCut c
      | none => s) s = t) :
    t.store = s.store ∧ (t.fields, t.rebind) = (s.fields, s.rebind) := by
  subst h
  refine ⟨foldl_store _ (fun s c => ?_) .., foldl_keeps (fun s => (s.fields, s.rebind)) _ (fun s c => ?_) l s⟩
  · split
    · split <;> simp
    · rfl
  · split
    · split
      · rfl
      · exact failCut_fields c
    · rfl

/-- A tile's site is read from the binding table alone. -/
theorem siteOf_congr {t : State} (h : t.rebind = s.rebind) (tile : Nat) : t.siteOf tile = s.siteOf tile := by
  simp only [siteOf, bound, h]

end State

/-- A field other than the anchor field loses its power: memory stays, and its tiles' sites are to be spliced (R30). -/
theorem fieldLoss_of_ne {s : State} {field : Nat} (hf : field ≠ anchorField) :
    ((s.fieldLoss field).field field).power = false ∧ (s.fieldLoss field).mem = s.mem
      ∧ ∀ t ∈ s.fieldTiles field, s.siteOf t ∈ (s.fieldLoss field).splices := by
  simp only [State.fieldLoss, if_neg hf]
  generalize hu : State.recordIn _ _ _ _ _ _ _ _ _ = u
  generalize ht : List.foldl _ u _ = v
  obtain ⟨hstore, hplaces⟩ := State.foldl_failCut_keeps _ ht
  obtain ⟨hfields, hrebind⟩ := Prod.mk.inj hplaces
  subst hu
  refine ⟨?_, State.mem_of_store (hstore.trans (State.recordIn_store ..)), fun t hm => ?_⟩
  · simp only [State.field, hfields]
    simp [State.recordIn, State.setField, Tbl.get_set, hf]
  · have place : s.siteOf t ∈ ((s.fieldTiles field).map v.siteOf) :=
      List.mem_map.mpr ⟨t, hm, State.siteOf_congr hrebind t⟩
    by_cases hs : s.siteOf t ∈ v.splices
    · exact List.mem_append_left _ hs
    · exact List.mem_append_right _ (List.mem_filter.mpr ⟨place, by simpa using hs⟩)

/-- A device reset keeps memory, the deep image, the trust block's slots and floor, the black boxes and the sites'
grades; RTIME too, but for the reset by power. -/
theorem resetDevice_keeps {s t : State} {on : Bool} (ht : s.resetDevice on = t) :
    (on = true → exec .deviceReset s = .next t) ∧ (on = false → ∀ v : Word, v.getLsbD 0 = true → exec (.devrst v) s = .next t)
      ∧ t.mem = s.mem ∧ t.deep = s.deep ∧ t.ctxs = [] ∧ t.cores = [] ∧ t.tiles = [] ∧ t.crews = [] ∧ t.net = [] ∧ t.rebind = []
      ∧ t.sys.stage = 0 ∧ t.sys.fjoin = 0 ∧ t.sys.inc = s.sys.inc + 1 ∧ t.sys.rtime = (if on then 0 else s.sys.rtime)
      ∧ t.sys.trust.slotA = s.sys.trust.slotA ∧ t.sys.trust.slotB = s.sys.trust.slotB ∧ t.sys.trust.floor = s.sys.trust.floor
      ∧ (Tbl.wf {} s.fields = true → ∀ n, (t.field n).box = (s.field n).box)
      ∧ (Tbl.wf {} s.sites = true → ∀ n, (t.site n).cls = (s.site n).cls ∧ (t.site n).hole = (s.site n).hole) := by
  subst ht
  refine ⟨fun h => ?_, fun h v hv => ?_, rfl, rfl, rfl, rfl, rfl, rfl, rfl, rfl, rfl, rfl, rfl, rfl, rfl, rfl, rfl, fun hw n => ?_,
    fun hw n => ?_⟩
  · subst h
    rfl
  · subst h
    simp [exec, execDevrst, hv]
  · have kept : (s.resetDevice on).field n = { box := (s.field n).box, boxn := (s.field n).boxn } :=
      Tbl.get_filterMap (fun f : Fld => { box := f.box, boxn := f.boxn }) rfl hw n
    rw [kept]
  · have kept : (s.resetDevice on).site n = State.keptSite (s.site n) := Tbl.get_filterMap State.keptSite rfl hw n
    rw [kept]
    exact ⟨rfl, rfl⟩

/-- An address in a vault of the anchor field's control sites. -/
def inControlVault (a : Nat) : Bool :=
  ((List.range 4).map (controlSite anchorField)).any fun n => decide (vaultKey n 0 0 ≤ a) && decide (a < vaultKey n 128 0)

/-- Which of several ranges an address is in; of any bounds, so that no bound of a vault is computed. -/
theorem any_map_range_iff (l : List Nat) (f low high : Nat → Nat) (a : Nat) :
    ((l.map f).any fun n => decide (low n ≤ a) && decide (a < high n)) = true ↔ ∃ i ∈ l, low (f i) ≤ a ∧ a < high (f i) := by
  simp

theorem inControlVault_iff {a : Nat} : inControlVault a = true ↔
    ∃ i ∈ List.range 4, vaultKey (controlSite anchorField i) 0 0 ≤ a ∧ a < vaultKey (controlSite anchorField i) 128 0 :=
  any_map_range_iff _ _ (vaultKey · 0 0) (vaultKey · 128 0) a

/-- Memory as POWER_GOOD leaves it: without those vaults (R451). -/
def State.vaultsCleared (s : State) : State := { s with mem := s.mem.filter fun e => !inControlVault e.1 }

theorem State.memRead_vaultsCleared (s : State) (a : Nat) :
    memRead s.vaultsCleared.mem a = if inControlVault a = true then 0 else memRead s.mem a := by
  have kept := Tbl.get_filter_key unlistedByte (fun k => !inControlVault k) s.mem a
  rw [memRead, memRead, vaultsCleared, kept]
  cases inControlVault a <;> simp [unlistedByte]

/-- POWER_GOOD: the anchor field has power, and the vaults of its control sites are cleared. -/
theorem execPowerGood_clears {s : State} (hstage : s.sys.stage = 0) (hpower : (s.field anchorField).power = false) :
    ∃ t, exec .powerGood s = .next t ∧ (t.field anchorField).power = true
      ∧ ∀ a, memRead t.mem a =
        if ∃ i ∈ List.range 4, vaultKey (controlSite anchorField i) 0 0 ≤ a ∧ a < vaultKey (controlSite anchorField i) 128 0
          then 0 else memRead s.mem a := by
  let u := s.vaultsCleared.setField anchorField { s.vaultsCleared.field anchorField with power := true }
  have told := State.errorRecord_joinState (s := u) 6 0 (controlSite anchorField 0) 0xFF 0x10 0 0 anchorField
  simp only [State.joinState, Prod.mk.injEq] at told
  obtain ⟨power, -, -⟩ := told
  refine ⟨u.errorRecord 6 0 (controlSite anchorField 0) 0xFF 0x10 0 0, if_neg (by simp [hstage, hpower]), power.trans ?_,
    fun a => ?_⟩
  · simp [u]
  · simp only [← inControlVault_iff]
    exact s.memRead_vaultsCleared a

/-- The two bytes of a version, joined again. -/
theorem version_halves (v : BitVec 16) : v.extractLsb' 8 8 ++ v.extractLsb' 0 8 = v := by
  ext i hi
  rw [BitVec.getElem_append]
  split
  · simp [BitVec.getLsbD_eq_getElem hi]
  · simp [Nat.add_sub_cancel' (Nat.not_lt.mp ‹_›), BitVec.getLsbD_eq_getElem hi]

/-- STAGE_ONE_ENTRY starts the image of the slot that verifies (R439, R451). -/
theorem execStageOneEntry_starts {s : State} (recovery : Bool) (hstage : s.sys.stage = 0) (hpower : (s.field anchorField).power = true) :
    ∃ t, exec (.stageOneEntry recovery) s = .next t ∧ t.sys.stage = 1 ∧ t.sys.rcvy = recovery ∧ t.mem = s.mem
      ∧ t.sys.qmaj ++ t.sys.qmin = (s.slotImage s.startSlot).version ∧ t.sys.act = s.startSlot :=
  ⟨_, if_neg (by simp [hstage, hpower]), rfl, rfl, rfl, version_halves _, rfl⟩

namespace State

variable {s : State}

/-- The first step of a join: a field that is without power gets it (R451). -/
def powered (s : State) (f : Nat) : State :=
  if (s.field f).power then s else
    (s.setField f { s.field f with power := true }).errorRecord 6 0 (controlSite f 0) 0xFF 0x10 0 0

theorem powered_power (f : Nat) : ((s.powered f).field f).power = true := by
  simp only [powered]
  split
  · next h => exact h
  · exact (congrArg Prod.fst (errorRecord_joinState ..)).trans (by simp [joinState])

theorem powered_keeps (f : Nat) : ((s.powered f).rebind, (s.powered f).sys, (s.powered f).ctxs, (s.powered f).sites)
    = (s.rebind, s.sys, s.ctxs, s.sites) := by
  simp only [powered]
  split <;> rfl

theorem powered_store (f : Nat) : (s.powered f).store = s.store := by
  simp only [powered]
  split <;> rfl

theorem startTest_keeps (f : Nat) (failed : List Nat) : ((s.startTest f failed).rebind, (s.startTest f failed).sys,
    (s.startTest f failed).ctxs) = (s.rebind, s.sys, s.ctxs) := by
  refine foldl_keeps (fun s => (s.rebind, s.sys, s.ctxs)) _ (fun s n => ?_) _ s
  split <;> rfl

theorem startTest_joinState (f : Nat) (failed : List Nat) (g : Nat) : (s.startTest f failed).joinState g = s.joinState g := by
  refine foldl_keeps (fun s => s.joinState g) _ (fun s n => ?_) _ s
  split
  · exact errorRecord_joinState ..
  · rfl

/-- Of a site, what a field's test leaves as it is unless the site fails. -/
def testState (s : State) (n : Nat) : BitVec 2 × Bool × Bool := ((s.site n).cls, (s.site n).hole, (s.site n).unusable)

theorem errorRecord_testState (kind cause : BitVec 8) (site : Nat) (core unit : BitVec 8) (sub : Nat) (detail : Word) (m : Nat) :
    (s.errorRecord kind cause site core unit sub detail).testState m = s.testState m := rfl

theorem modSite_testState_ne (s : State) {m n : Nat} (f : Site → Site) (h : m ≠ n) :
    (s.modSite n f).testState m = s.testState m := by
  simp only [testState, site_modSite_ne _ _ _ _ h]

theorem startTest_testState {failed : List Nat} {m : Nat} (f : Nat) (hm : m ∉ failed) :
    (s.startTest f failed).testState m = s.testState m := by
  refine foldl_keeps (fun s => s.testState m) _ (fun s n => ?_) _ s
  split
  · next hn =>
    have hne : m ≠ n := fun h => hm (h ▸ List.contains_iff_mem.mp hn)
    rw [errorRecord_testState, modSite_testState_ne _ _ hne]
    rfl
  · simp only [testState, site_modSite_eq]
    split
    · next h => rw [h]
    · rfl

theorem bound_bindTile (t n l : Nat) : (s.bindTile t n).bound l = if l = t then n % 2 ^ 16 else s.bound l := by
  simp only [bound, bindTile, Tbl.get_set]
  split <;> simp

/-- A spare is bound to the tile, or there is none and one tile less can be sold (R452). -/
theorem bindSpare_cases (t : Nat) :
    (∃ n, s.bindSpare t = s.bindTile t n) ∨ s.bindSpare t = s.modSys (fun y => { y with sell := y.sell - 1 }) := by
  unfold bindSpare
  dsimp only
  split
  · next n _ => exact .inl ⟨n, rfl⟩
  · exact .inr rfl

theorem bound_bindSpare {t l : Nat} (h : l ≠ t) : (s.bindSpare t).bound l = s.bound l := by
  obtain ⟨n, ht⟩ | ht := bindSpare_cases (s := s) t
  · rw [ht, bound_bindTile, if_neg h]
  · rw [ht]
    rfl

theorem bindSpare_keeps (t : Nat) : ((s.bindSpare t).fields, (s.bindSpare t).ctxs, (s.bindSpare t).sys.fjoin)
    = (s.fields, s.ctxs, s.sys.fjoin) := by
  obtain ⟨n, ht⟩ | ht := bindSpare_cases (s := s) t <;> rw [ht] <;> rfl

theorem foldl_bindSpare_keeps (l : List Nat) :
    ((l.foldl bindSpare s).fields, (l.foldl bindSpare s).ctxs, (l.foldl bindSpare s).sys.fjoin)
    = (s.fields, s.ctxs, s.sys.fjoin) :=
  foldl_keeps (fun s => (s.fields, s.ctxs, s.sys.fjoin)) _ (fun _ t => bindSpare_keeps t) l s

theorem foldl_bindSpare_bound {l : List Nat} {k : Nat} (h : k ∉ l) : (l.foldl bindSpare s).bound k = s.bound k := by
  induction l generalizing s with
  | nil => rfl
  | cons t rest ih =>
    obtain ⟨hne, hrest⟩ := not_or.mp (List.mem_cons.not.mp h)
    rw [List.foldl_cons, ih hrest, bound_bindSpare hne]

/-- Tiles bound to the sites of the binding map, one after another. -/
def bindToMap (s : State) (l : List Nat) : State := l.foldl (fun s t => s.bindTile t (s.bindSite t)) s

theorem bindToMap_keeps (l : List Nat) : ((s.bindToMap l).fields, (s.bindToMap l).ctxs, (s.bindToMap l).sys)
    = (s.fields, s.ctxs, s.sys) := by
  refine foldl_keeps (fun s => (s.fields, s.ctxs, s.sys)) _ (fun s t => ?_) l s
  rfl

theorem bound_bindToMap (l : List Nat) (k : Nat) :
    (s.bindToMap l).bound k = if k ∈ l then s.bindSite k % 2 ^ 16 else s.bound k := by
  induction l generalizing s with
  | nil => simp [bindToMap]
  | cons t rest ih =>
    have map : (s.bindTile t (s.bindSite t)).bindSite k = s.bindSite k := rfl
    refine (ih (s := s.bindTile t (s.bindSite t))).trans ?_
    rw [map, bound_bindTile]
    by_cases hk : k = t <;> by_cases hr : k ∈ rest <;> simp [hk, hr]

theorem bindToMap_store (l : List Nat) : (s.bindToMap l).store = s.store := foldl_store _ (fun _ _ => bindTile_store ..) l s

/-- Whether a tile keeps the site of the binding map when its field joins. -/
def mapGood (s : State) (t : Nat) : Bool :=
  let n := s.site (s.bindSite t)
  n.cls == 0 && !n.hole && !n.unusable

/-- A joining field binds its tiles: to the sites of the binding map those whose sites are good, to spares the others (R452). -/
def bindField (s : State) (f : Nat) : State :=
  ((s.boundIn f).filter fun t => !s.mapGood t).foldl bindSpare (s.bindToMap ((s.boundIn f).filter s.mapGood))

theorem bindField_keeps (f : Nat) : ((s.bindField f).fields, (s.bindField f).ctxs, (s.bindField f).sys.fjoin)
    = (s.fields, s.ctxs, s.sys.fjoin) := by
  rw [bindField]
  refine (foldl_bindSpare_keeps _).trans ?_
  have h := bindToMap_keeps (s := s) ((s.boundIn f).filter s.mapGood)
  simp only [Prod.mk.injEq] at h ⊢
  obtain ⟨hfields, hctxs, hsys⟩ := h
  exact ⟨hfields, hctxs, congrArg Sys.fjoin hsys⟩

theorem bindField_store (f : Nat) : (s.bindField f).store = s.store :=
  (foldl_store _ (fun _ _ => bindSpare_store ..) ..).trans (bindToMap_store _)

theorem bindField_bound {f l : Nat} (hl : l ∈ s.boundIn f) (hgood : s.mapGood l = true) (hn : s.bindSite l < 2 ^ 16) :
    (s.bindField f).bound l = s.bindSite l := by
  have noSpare : l ∉ (s.boundIn f).filter fun t => !s.mapGood t := by simp [hgood]
  rw [bindField, foldl_bindSpare_bound noSpare, bound_bindToMap, if_pos (List.mem_filter.mpr ⟨hl, hgood⟩), Nat.mod_eq_of_lt hn]

theorem boundIn_congr {t : State} (h : t.sys = s.sys) (f : Nat) : t.boundIn f = s.boundIn f := by
  simp only [boundIn, bindSite, h]

theorem bindSite_congr {t : State} (h : t.sys = s.sys) (l : Nat) : t.bindSite l = s.bindSite l := by
  simp only [bindSite, h]

/-- A field that joins is powered, tested and marked before its tiles are bound. -/
def joinedField (s : State) (f : Nat) (failed : List Nat) : State :=
  let u := (s.powered f).startTest f failed
  u.setField f { u.field f with joined := true }

theorem joinedField_keeps (f : Nat) (failed : List Nat) : ((s.joinedField f failed).rebind, (s.joinedField f failed).sys,
    (s.joinedField f failed).ctxs) = (s.rebind, s.sys, s.ctxs) := by
  simp only [joinedField, setField_rebind, setField_sys, setField_ctxs]
  rw [startTest_keeps]
  have h := powered_keeps (s := s) f
  simp only [Prod.mk.injEq] at h ⊢
  obtain ⟨hrebind, hsys, hctxs, -⟩ := h
  exact ⟨hrebind, hsys, hctxs⟩

theorem joinedField_store (f : Nat) (failed : List Nat) : (s.joinedField f failed).store = s.store :=
  (setField_store ..).trans ((startTest_store ..).trans (powered_store f))

theorem joinedField_field (f : Nat) (failed : List Nat) :
    ((s.joinedField f failed).field f).joined = true ∧ ((s.joinedField f failed).field f).power = true := by
  simp only [joinedField, field_setField, true_and]
  have test := startTest_joinState (s := s.powered f) f failed f
  simp only [joinState, Prod.mk.injEq] at test
  obtain ⟨power, -, -⟩ := test
  exact power.trans (powered_power f)

theorem joinedField_testState {failed : List Nat} {m : Nat} (f : Nat) (hm : m ∉ failed) :
    (s.joinedField f failed).testState m = s.testState m := by
  have test : (s.joinedField f failed).testState m = ((s.powered f).startTest f failed).testState m := by
    simp only [joinedField, testState, site_setField]
  rw [test, startTest_testState f hm]
  have h := powered_keeps (s := s) f
  simp only [Prod.mk.injEq] at h
  obtain ⟨-, -, -, hsites⟩ := h
  simp only [testState, site, hsites]

end State

/-- FIELD_JOIN in turn: the field is powered, joined and in FJOIN, and its good tiles stand at the sites of the binding map. -/
theorem execFieldJoin_joins {s : State} {field : Nat} (failed : List Nat) (hturn : s.joinTurn field = true) :
    ∃ t, exec (.fieldJoin field failed) s = .next t ∧ (t.field field).joined = true ∧ (t.field field).power = true
      ∧ t.sys.fjoin = s.sys.fjoin ||| 1#64 <<< field ∧ t.mem = s.mem ∧ t.ctxs = s.ctxs
      ∧ ∀ l ∈ s.boundIn field, s.bindSite l < 2 ^ 16 → s.bindSite l ∉ failed → (s.site (s.bindSite l)).cls = 0 →
        (s.site (s.bindSite l)).hole = false → (s.site (s.bindSite l)).unusable = false → t.bound l = s.bindSite l := by
  have run : exec (.fieldJoin field failed) s = .next ((((s.joinedField field failed).bindField field).modSys fun y =>
      { y with fjoin := y.fjoin ||| 1#64 <<< field }).stageNow) := if_neg (by simp [hturn])
  have before := State.joinedField_keeps (s := s) field failed
  have bind := State.bindField_keeps (s := s.joinedField field failed) field
  have store := (State.bindField_store field).trans (State.joinedField_store (s := s) field failed)
  have tests (m : Nat) (h : m ∉ failed) := State.joinedField_testState (s := s) field h
  have bound (l : Nat) := State.bindField_bound (s := s.joinedField field failed) (f := field) (l := l)
  obtain ⟨joined, power⟩ := State.joinedField_field (s := s) field failed
  generalize s.joinedField field failed = u at *
  generalize u.bindField field = v at *
  simp only [Prod.mk.injEq] at before bind
  obtain ⟨-, hsys, hctxs⟩ := before
  obtain ⟨hfields, hctxs', hfjoin⟩ := bind
  have kept : v.field field = u.field field := by simp only [State.field, hfields]
  rw [← kept] at joined power
  refine ⟨_, run, joined, power, congrArg (· ||| 1#64 <<< field) (hfjoin.trans (congrArg Sys.fjoin hsys)), State.mem_of_store store,
    hctxs'.trans hctxs, fun l hl hn hfail hcls hhole hunus => ?_⟩
  have place := State.bindSite_congr hsys l
  have good : u.mapGood l = true := by
    have test := tests _ hfail
    simp only [State.testState, Prod.mk.injEq] at test
    obtain ⟨cls, hole, unus⟩ := test
    simp [State.mapGood, place, cls, hole, unus, hcls, hhole, hunus]
  rw [← State.boundIn_congr hsys] at hl
  rw [← place] at hn
  have spot : v.bound l = u.bindSite l := bound l hl good hn
  exact spot.trans place

/-- FIELD_GIVEN_UP in turn: the field is given up, and FJOIN and memory stay. -/
theorem execFieldGivenUp_gives {s : State} {field : Nat} (hturn : s.joinTurn field = true) (hf : field ≠ anchorField) :
    ∃ t, exec (.fieldGivenUp field) s = .next t ∧ (t.field field).given = true ∧ t.sys.fjoin = s.sys.fjoin ∧ t.mem = s.mem := by
  let u := s.setField field { s.field field with given := true }
  have run : exec (.fieldGivenUp field) s = .next ((((u.boundIn field).foldl State.bindSpare u).stageNow).errorRecord 6 0
      (controlSite field 0) 0xFF 0x10 0 0) := if_neg (by simp [hturn, hf])
  have spare := State.foldl_bindSpare_keeps (s := u) (u.boundIn field)
  have store : ((u.boundIn field).foldl State.bindSpare u).store = u.store :=
    State.foldl_store _ (fun _ _ => State.bindSpare_store ..) ..
  generalize (u.boundIn field).foldl State.bindSpare u = v at *
  simp only [Prod.mk.injEq] at spare
  obtain ⟨hfields, -, hfjoin⟩ := spare
  have given : (v.field field).given = true := by simp [State.field, hfields, u, State.setField]
  have told := State.errorRecord_joinState (s := v.stageNow) 6 0 (controlSite field 0) 0xFF 0x10 0 0 field
  have stays : v.stageNow.field field = v.field field := rfl
  simp only [State.joinState, Prod.mk.injEq, stays] at told
  obtain ⟨-, -, same⟩ := told
  exact ⟨_, run, same.trans given, hfjoin, State.mem_of_store store⟩

/-- Settles O56: one lemma for each event, from what each part of it keeps. -/
theorem startEvents : Obligations.StartEvents := by
  intro s field
  refine ⟨fun h => ⟨if_pos h, if_pos h⟩, fieldLoss_of_ne, fun on t => resetDevice_keeps, execPowerGood_clears,
    execStageOneEntry_starts, execFieldJoin_joins, execFieldGivenUp_gives⟩

end Sys2Proof.Machine
end

section
/-! The instruction word: the decoder reads back what the encoder writes, and it accepts no other word (R43-R47, R52). -/

namespace Sys2Proof.Laws.Encoding

/-- The fields that the encoder gives a well-formed instruction name that instruction: a thread instruction by its own lemma, and
an event has no fields. -/
theorem candidate_of_raw (i : Instr) : Statement i := by
  by_cases hi : i.raw.isSome = true
  · cases i <;> cases hi <;> simp only [add, addi, sub, mul, mulImm, mulh, mulhn, and, andImm, or, orImm, xor, xorImm, andn,
      andnImm, shl, shlImm, shr, shrImm, sar, sarImm, rol, rolImm, min, minImm, max, maxImm, minn, minnImm, maxn, maxnImm, cmp,
      cmpImm, sel, mov, movi, movh, lea, clz, ctz, popc, bfx, bfi, sext, zext, divstep, pset, pand, por, pxor, pnot, mfs, mts,
      vadd, vsub, vmul, vfma, vfms, vmin, vmax, vabs, vneg, vcmp, vsel, vmulh, vclz, vpopc, vavg, vshl, vshr, vsar, vand, vor,
      vxor, vperm, vbcast, vbcastImm, vshuf, vred, vdot, vcvt, vsrnd, vpack, vunpk, vscale, vrcp, vrsq, vexp2, vlog2, vstep,
      vrng, mand, mor, mnot, ld, st, ldv, stv, ldg, ldgV, sts, stsV, stmask, stmaskP, sig, watch, unwatch, unwatchAll, give,
      giveNb, reclaim, reclaimNb, bmapRead, bmapSwap, bmapSet, bmapBank, drain, drainBank, phase, phaseT, fence, amo, red, lrw,
      sch, relq, nop, br, bra, brx, call, callR, ret, brk, mma, mmat, mzero, mldc, mstc, lnpush, lnpushT, lncfg, lncfgSet, tdef,
      tget, tseq, tseqAdd, tseqBar, copy, gath, scat, publ, bari, barw, barwNf, barq, send, sendSig, sends, mcast, ibpop,
      ibpopNw, ibpopFree, hop, chanOpen, chanIbx, chanQch, chanQib, rtwrRb, rtwrDt, rtwrSr, spawn, reap, reapNb, reapKill,
      yield, sleep, wake, wakeAll, rfork, join, knotSet, knotAdd, knotHold, knotRd, knotWait, launch, launchNb, taskend, vstage,
      vpub, vdiscard, vretire, vadopt, vqry, vqrySet, sample, trap, eret, eretKill, resume, swpo, swpoFar, swpi, swpiQ, swpiFar,
      stopCrew, stopPart, stopGo, rdrec, twin, twinNw, segld, segldRd, segst, blay, blayW, blayDeep, blq]
  · intro _ r hr
    simp [hr] at hi

end Sys2Proof.Laws.Encoding

namespace Sys2Proof

/-- A single bit as a field. -/
theorem bit_field (w : BitVec 96) (i : Nat) : BitVec.ofBool (w.getLsbD i) = w.extractLsb' i 1 := by
  ext j hj
  obtain rfl : j = 0 := by omega
  simp

/-- Unpacking a word and packing its fields gives it back (R43). -/
theorem Raw.pack_unpack (w : BitVec 96) : (Raw.unpack w).pack = w := by
  have join (a m n b : Nat) (h : b = a + n) : w.extractLsb' b m ++ w.extractLsb' a n = w.extractLsb' a (m + n) :=
    BitVec.extractLsb'_append_extractLsb'_eq_extractLsb' h
  simp only [Raw.pack, Raw.unpack, bit_field]
  simp (disch := rfl) only [join]
  exact extract_all w

/-- The decoder accepts the words of well-formed instructions and no others (R47, R52). -/
theorem decode_ok_iff {w : BitVec 96} {i : Instr} : decode w = .ok i ↔ i.wf = true ∧ encode i = some w := by
  have fields : encode i = some w ↔ i.raw = some (Raw.unpack w) := by
    refine Option.map_eq_some_iff.trans ⟨fun ⟨r, hr, hw⟩ => ?_, fun h => ⟨_, h, Raw.pack_unpack w⟩⟩
    rw [hr, ← hw, Raw.unpack_pack]
  rw [fields]
  simp only [decode, decodeRaw]
  constructor
  · intro h
    split at h
    · cases h
    · split at h
      · next ok => cases h; simpa using ok
      · cases h
  · rintro ⟨hwf, hraw⟩
    rw [Laws.Encoding.candidate_of_raw i hwf _ hraw]
    simp [hwf, hraw]

/-- Settles O1: the fields of a well-formed instruction name it, and packing loses none of them. -/
theorem decodeEncode : Obligations.DecodeEncode := fun _ _ hwf henc => decode_ok_iff.mpr ⟨hwf, henc⟩

/-- Settles O2: another instruction that has the word would be what the decoder reads there. -/
theorem decodeSound : Obligations.DecodeSound := by
  intro w i h
  obtain ⟨hwf, henc⟩ := decode_ok_iff.mp h
  refine ⟨hwf, henc, fun j hj hw => ?_⟩
  have other : decode w = .ok j := decode_ok_iff.mpr ⟨hj, hw⟩
  exact Except.ok.inj (other.symm.trans h)

end Sys2Proof
end

section
/-! Guards and privilege: every thread instruction but a transfer and NOP is its effect under its guard, and those that need a level
check it first (R41, R51, R55). -/

namespace Sys2Proof.Machine

section
variable {i : Instr} {r : Raw} {g : Guard} {s : State}

/-- With the level it needs, an instruction whose guard is false leaves the state (R41, R51). -/
theorem runPriv_guard {f : State → Act} {n : Nat} (hu : s.me.used = true) (hl : n ≤ s.level) (hg : s.guard g = false) :
    runPriv n g s f = .next s := by
  simp [runPriv, hu, Nat.not_lt.mpr hl, run_guard hu hg]

/-- NOP has no effect, whatever its guard (R51). -/
theorem execNop_next (g : Guard) (hu : s.me.used = true) : execNop g s = .next s := by
  cases hg : s.guard ⟨0, false⟩
  · exact run_guard hu hg
  · simp [execNop, runThread, hu]

section
variable (hu : s.me.used = true) (hg : s.guard g = false)
include hu hg

theorem setX_guard {d : BitVec 6} {lat : Nat} {f : State → Word} : setX g d lat s f = .next s := run_guard hu hg

theorem setP_guard {d : BitVec 3} {f : State → Bool} : setP g d s f = .next s := run_guard hu hg

theorem setM_guard {d : BitVec 3} {f : State → BitVec 16} : setM g d s f = .next s := run_guard hu hg

theorem tseqWith_guard {d : BitVec 6} {ok : State → Bool} {f : State → TsEnt → TsEnt} : tseqWith g d s ok f = .next s :=
  run_guard hu hg

variable {w : Nat} {vm : VMask} {d a b c : BitVec 6} {lat : State → Nat}

theorem vec1_guard {f : State → Nat → Rd} : vec1 g w vm d a s lat f = .next s := run_guard hu hg

theorem vec2_guard {f : State → Nat → Nat → Rd} : vec2 g w vm d a b s lat f = .next s := run_guard hu hg

theorem vec3_guard {f : State → Nat → Nat → Nat → Rd} : vec3 g w vm d a b c s lat f = .next s := run_guard hu hg

end

/-- Guarded off, every instruction but a transfer leaves the state (R51). -/
theorem exec_guarded_off (hi : match i with | .br .. | .bra .. | .brx .. | .call .. | .callR .. | .ret .. => False | _ => True)
    (hr : i.raw = some r) (hu : s.me.used = true) (hl : i.minLevel ≤ s.level) (hg : s.guard r.guard = false) :
    exec i s = .next s := by
  cases i <;> cases hr
  case br | bra | brx | call | callR | ret => exact hi.elim
  all_goals simp only [exec]
  case nop => exact execNop_next _ hu
  case rtwrRb | rtwrDt | rtwrSr | eret | eretKill | resume | swpo | swpoFar | swpi | swpiQ | swpiFar | stopCrew | stopPart |
    stopGo | rdrec | twin | twinNw | segst | bmapSet | blayDeep | mfs | mts => exact runPriv_guard hu hl hg
  case add | addi | sub | mul | mulImm | mulh | mulhn | and | andImm | or | orImm | xor | xorImm | andn | andnImm | shl | shlImm |
    shr | shrImm | sar | sarImm | rol | rolImm | min | minImm | max | maxImm | minn | minnImm | maxn | maxnImm | sel | mov | movi |
    movh | clz | ctz | popc | bfx | bfi | sext | zext | divstep | lncfg | segldRd => exact setX_guard hu hg
  case cmp | cmpImm | pset | pand | por | pxor | pnot => exact setP_guard hu hg
  case mand | mor | mnot => exact setM_guard hu hg
  case vabs | vneg | vclz | vpopc | vrcp | vrsq | vexp2 | vlog2 => exact vec1_guard hu hg
  case vadd | vsub | vmul | vmin | vmax | vmulh | vavg | vshl | vshr | vsar | vand | vor | vxor | vrng => exact vec2_guard hu hg
  case vfma | vfms => exact vec3_guard hu hg
  case tseq | tseqAdd | tseqBar => exact tseqWith_guard hu hg
  all_goals exact run_guard hu hg

/-- Below its level an instruction takes privilege; one that is not listed needs none (R55, R186). -/
theorem exec_below_level (hu : s.me.used = true) (hl : s.level < i.minLevel) : exec i s = .next (s.raise cPrivilege 0) := by
  cases i
  case rtwrRb | rtwrDt | rtwrSr | eret | eretKill | resume | swpo | swpoFar | swpi | swpiQ | swpiFar | stopCrew | stopPart |
    stopGo | rdrec | twin | twinNw | segst | bmapSet | blayDeep | mfs | mts => exact runPriv_low hu hl
  all_goals exact absurd hl (Nat.not_lt_zero _)

end

/-- Settles O8: what runs under the guard does nothing, and the level is checked before the guard. -/
theorem guardAndPrivilege : Obligations.GuardAndPrivilege := fun _ _ _ hr hu =>
  ⟨fun hi hl hg => exec_guarded_off hi hr hu hl hg, exec_below_level hu⟩

end Sys2Proof.Machine
end

section
/-! A step of the device (R40, R41, R155, R313, R314, R332): the agenda, the turn of a core, and a group of one instruction from its
lines to the advance of S. -/

namespace Sys2Proof.Machine

/-- The core whose turn comes next is one of the tile's (R155). -/
theorem State.tileOfCore_of_turnCore {s : State} {t core : Nat} (h : s.turnCore t = some core) : tileOfCore core = t := by
  have mem := List.mem_of_find?_eq_some h
  simp only [State.coreOrder, coreKey, List.mem_map] at mem
  obtain ⟨j, -, rfl⟩ := mem
  simp only [tileOfCore]
  omega

/-- A context number splits into tile, core and number within the core (R334). -/
theorem ctxKey_parts {core k : Nat} (hc : coreOfCtx k = core) (hk : k < spillBase) :
    ctxKey (coreKey (tileOfCore core) (core % 4)) (k % 64) = k := by
  simp only [coreOfCtx, Nat.mod_eq_of_lt hk] at hc
  simp only [ctxKey, coreKey, tileOfCore]
  omega

/-- An instruction that the decoder accepts is a thread instruction: no event has a word. -/
theorem raw_isSome_of_decode {w : BitVec 96} {i : Instr} (h : decode w = .ok i) : i.raw.isSome = true := by
  obtain ⟨-, henc⟩ := decode_ok_iff.mp h
  obtain ⟨r, hr, -⟩ := Option.map_eq_some_iff.mp henc
  simp [hr]

namespace State

variable {s one : State} {k : Nat} {a : Word} {l l₂ l₃ : FLine} {i : Instr} {g : Group}

/-- A line that is allowed, held and read well is there for the group (R35, R317). -/
theorem needLine_of_held (hc : codeCheck (s.ctx k).code a a = .ok ()) (hl : s.held (coreOfCtx k) a = some l)
    (hp : parityOk l = true) : s.needLine k a = .ok l := by
  simp [needLine, hc, hl, hp]

/-- The line at pc passes step 1 of R41 when the slot at pc starts a group of one instruction. -/
theorem pcLine_single (hl : s.needLine k (s.ctx k).s.pc = .ok l) (hok : lineOk l = true)
    (hal : slotAligned (s.ctx k).s.pc = true) (hp : pairBit l (slotIndex (s.ctx k).s.pc) = false)
    (hprev : slotIndex (s.ctx k).s.pc = 0 ∨ pairBit l (slotIndex (s.ctx k).s.pc - 1) = false) : s.pcLine k = .ok l := by
  have start : (slotIndex (s.ctx k).s.pc = 0 || !pairBit l (slotIndex (s.ctx k).s.pc - 1)) = true := by simpa using hprev
  simp only [pcLine, hl, bind, Except.bind, hok, hal, start, hp, Bool.not_false, Bool.true_or, check_true]
  rfl

/-- A word that decodes and whose level is met passes step 2 of R41. -/
theorem legal_of_decode {n : Nat} {w : BitVec 96} (hd : decode w = .ok i) (hl : i.minLevel ≤ n) : legal n w = .ok i := by
  simp [legal, hd, Nat.not_lt.mpr hl]

/-- The group of one instruction in a slot of a line, when the lines at npc and nnpc are there (R40, R317). -/
theorem groupOf_single (h₂ : s.needLine k (s.ctx k).s.npc = .ok l₂) (h₃ : s.needLine k (s.ctx k).s.nnpc = .ok l₃)
    (hp : pairBit l (slotIndex (s.ctx k).s.pc) = false)
    (hi : legal (s.ctx k).lvl.toNat (slotWord l (slotIndex (s.ctx k).s.pc)) = .ok i) :
    ∃ g, s.groupOf k l = .ok g ∧ g.first = i ∧ g.second = none
      ∧ g.nextSize = if pairBit l₃ (slotIndex (s.ctx k).s.nnpc) then 2 else 1 := by
  simp only [groupOf, h₂, h₃, hp, hi]
  exact ⟨_, rfl, rfl, rfl, rfl⟩

/-- A group of one instruction that ends is what its instruction answers. -/
theorem runGroup_single (hg : g.second = none) (hrun : runMember g.first s = .next one) (hdone : one.cur.res = .done) :
    s.runGroup g = one := by
  simp only [runGroup, hg, hrun, answered, hdone]

/-- A group of one instruction meets a second member in the multiply array only if it needs the array (R207). -/
theorem arrayTaken_single (hg : g.second = none) (h : usesArray g.first = true → s.here.vmul ≠ some s.rc) :
    s.arrayTaken g = false := by
  cases hu : usesArray g.first
  · simp [arrayTaken, hg, hu]
  · simp [arrayTaken, h hu]

/-- A group that is done raises its flags and moves S on, unless a flag traps or its context is another's by now (R81, R314). -/
theorem endGroup_done (hk : s.myCtx = k) (hdone : one.cur.res = .done) (huid : (one.ctx k).uid = (s.ctx k).uid)
    (hfp : fpTraps (s.ctx k).fst one.cur.flags = false) :
    s.endGroup one g = one.modCtx k (fun c => { c.noAsk with
      fst := orFst c.fst one.cur.flags, s := advanceS (s.ctx k).s one.cur.target one.cur.nullify g.nextSize, got := [] }) := by
  simp [endGroup, hk, hfp, huid, hdone]

/-- A group of one instruction whose effect is done: the effect, then the end of the group (R41, R314). -/
theorem runFetched_single (hg : g.second = none) (hnul : (s.ctx k).s.nul.getLsbD 0 = false) (hsize : s.cur.size = 1)
    (harr : usesArray g.first = true → s.here.vmul ≠ some s.rc) (hrun : runMember g.first s = .next one)
    (hdone : one.cur.res = .done) : s.runFetched k g = s.endGroup one g := by
  have sized : ({ s with cur := { s.cur with size := if g.second.isSome then 2 else 1 } } : State) = s := by
    rw [show (if g.second.isSome then 2 else 1) = s.cur.size by simp [hg, hsize]]
  simp only [runFetched, sized, hnul, arrayTaken_single hg harr, runGroup_single hg hrun hdone, hdone]
  rfl

/-- The state in which a group of thread k of a core issues from a slot: it names the thread and the address of its group. -/
def inIssue (s : State) (core slot k : Nat) : State :=
  { s with cur := { tile := tileOfCore core, core := core % 4, slot, num := k % 64, addr := (s.ctx k).s.pc } }

/-- A group of a stream under way whose lines pass the checks of R41 runs. -/
theorem issueGroup_runs {core slot : Nat} (hfresh : (s.ctx k).fresh = false) (hl : (s.inIssue core slot k).pcLine k = .ok l)
    (hg : (s.inIssue core slot k).groupOf k l = .ok g) :
    s.issueGroup core slot k = (s.inIssue core slot k).runFetched k g := by
  have fresh : ((s.inIssue core slot k).ctx k).fresh = false := hfresh
  have npc : (s.inIssue core slot k).formNpc k l = s.inIssue core slot k := by simp [formNpc, fresh]
  have nnpc : (s.inIssue core slot k).formNnpc k = .ok (s.inIssue core slot k) := by simp [formNnpc, fresh]
  simp only [inIssue] at hl hg npc nnpc ⊢
  simp only [issueGroup, hl, npc, nnpc, hg]

end State

section
variable {s : State} {core : Nat}

/-- Behind the cores that come before it and its timed pops, a core gives its turn to the thread of the slot, which issues a group
if nothing holds it (R155, R253, R332). -/
theorem execIssueTurn_issues {u : State} {slot k : Nat} (hturn : s.turnCore (tileOfCore core) = some core)
    (hpop : s.timedPop core = false) (hu : s.modCore core (fun c => { c with turnAt := some (s.rcOf (tileOfCore core)) }) = u)
    (hof : u.turnOf core = some (slot, k)) (hheld : u.issueHeld k = false) (hkilled : (u.ctx k).killed = false)
    (hpend : (u.ctx k).pend = none) :
    let t := u.issueGroup core slot k
    execIssueTurn core s = .next ({ t with cur := { t.cur with old := none } } : State).settle := by
  simp only [execIssueTurn, hturn, hpop, hu, hof, hheld, hkilled, hpend]
  simp

/-- The event at the head of the agenda comes first, if it is well formed. -/
theorem step_event {e : Instr} {rest : List Instr} (hs : s.sched = e :: rest) :
    step s = if e.wf then exec e { s with sched := rest } else .next { s with sched := rest } := by
  simp only [step, hs]

/-- When every core of the tile has had its turn, the vc and the site's clock advance (R340, R481). -/
theorem step_ticks {t : State} (hs : s.sched = []) (hturn : s.turnCore s.cur.tile = none)
    (hvc : exec (.vccTick s.cur.tile) s = .next t) : step s = exec (.siteCounterTick (t.siteOf s.cur.tile)) t := by
  have vc : execVccTick s.cur.tile s = .next t := hvc
  simp only [step, hs, coreStep, hturn, vc]
  rfl

/-- The core whose turn it is gets a line that it waits for (R317). -/
theorem step_line_wanted {a : Word} (hs : s.sched = []) (hturn : s.turnCore s.cur.tile = some core)
    (hline : s.lineWanted core = some a) : step s = exec (.lineFetch core a) s := by
  simp only [step, hs, coreStep, hturn, hline]
  rfl

/-- A core that waits for no line takes its issue turn (R155, R332). -/
theorem step_issue_turn (hs : s.sched = []) (hturn : s.turnCore s.cur.tile = some core) (hline : s.lineWanted core = none) :
    step s = exec (.issueTurn core) s := by
  simp only [step, hs, coreStep, hturn, hline]
  rfl

end

/-- Settles O4: the agenda and the turns by what `step` looks at, the issue of a single instruction from its fetch, its effect and
the end of its group. -/
theorem stepRunsDecoded : Obligations.StepRunsDecoded := by
  intro s
  refine ⟨fun _ _ => step_event, fun hs hturn _ => step_ticks hs hturn, fun core hs hturn =>
    ⟨fun _ => step_line_wanted hs hturn, step_issue_turn hs hturn⟩, ?_⟩
  intro core slot k l i one u c pc hs hturn hline hpop hof hcore hk hheld hkilled hpend hfresh hnul hlines hl hok hal hpair hprev
    hdec hlevel v harr hrun hdone huid hfp n w t
  have key : v.myCtx = k := ctxKey_parts hcore hk
  have fetched (a : Word) (ha : a ∈ [pc, c.s.npc, c.s.nnpc]) : ∃ h, u.held core a = some h ∧ v.needLine k a = .ok h := by
    obtain ⟨code, h, held, parity⟩ := hlines a ha
    subst hcore
    exact ⟨h, held, State.needLine_of_held code held parity⟩
  obtain ⟨l₁, held₁, first⟩ := fetched pc (by simp)
  obtain ⟨l₂, -, second⟩ := fetched c.s.npc (by simp)
  obtain ⟨l₃, held₃, third⟩ := fetched c.s.nnpc (by simp)
  obtain rfl : l₁ = l := Option.some.inj (held₁.symm.trans hl)
  obtain ⟨g, group, rfl, alone, size⟩ := State.groupOf_single second third hpair (State.legal_of_decode hdec hlevel)
  have member : runMember g.first v = .next one := (exec_eq_runMember (raw_isSome_of_decode hdec)).symm.trans hrun
  have counted : g.nextSize = n := by simp only [n, held₃]; exact size
  have issued : u.issueGroup core slot k = w := by
    calc u.issueGroup core slot k
        = v.runFetched k g := State.issueGroup_runs hfresh (State.pcLine_single first hok hal hpair hprev) group
      _ = v.endGroup one g := State.runFetched_single alone hnul rfl harr member hdone
      _ = w := by rw [State.endGroup_done key hdone huid hfp, counted]; rfl
  have turn : exec (.issueTurn core) s = .next t := by
    have own : s.turnCore (tileOfCore core) = some core := by rw [State.tileOfCore_of_turnCore hturn, hturn]
    have run := execIssueTurn_issues own hpop rfl hof hheld hkilled hpend
    rw [issued] at run
    exact run
  exact ⟨(step_issue_turn hs hturn hline).trans turn, turn⟩

end Sys2Proof.Machine
end

section
/-! Comparisons, lane masks, reductions and dot products (O19): what reading a vector register leaves of the thread's registers, a
condition between two codes by their numbers or values, a mask lane by lane, and the sum of products modulo 2^64 (R84, R198, R215,
R217, R221, R222). -/

namespace Sys2Proof.Machine

namespace State

variable {s t : State}

@[simp] theorem pushWord_cur (core : Nat) (east : Bool) (w : Vec) : (s.pushWord core east w).cur = s.cur := by
  simp only [pushWord]
  split
  · rfl
  · exact (apply_ite State.cur ..).trans (ite_self s.cur)

theorem popWord_keeps_cur (core : Nat) (east : Bool) : Keeps (fun r => r.2.cur = s.cur) (s.popWord core east) := by
  refine (check_keeps ..).bind fun _ _ => (check_keeps ..).bind fun _ _ => ?_
  split
  · trivial
  · exact .ite (.ok rfl) (.ite trivial (.ok (pushWord_cur ..)))

/-- A link's pop changes no register that the group in issue reads (R8, R48). -/
theorem readV_view {r : BitVec 6} {x : Vec} (h : s.readV r = .ok (x, t)) : t.view = s.view := by
  have regs : SameRegs s t := (readV_keeps r).of_ok h
  have cur : t.cur = s.cur := by
    simp only [readV] at h
    split at h
    · cases h; rfl
    · split at h
      · cases h; rfl
      · exact (popWord_keeps_cur ..).of_ok h
  have me : t.me = s.me := by rw [me, me, regs.my, ctx_of_ctxs regs.ctxs]
  rw [view, view, cur, me]

/-- What follows a read that succeeds goes on with the vector and the state after it. -/
theorem bind_of_readV {α : Type} {r : BitVec 6} {x : Vec} (h : s.readV r = .ok (x, t)) (f : Vec × State → Except Stop α) :
    (s.readV r >>= f) = f (x, t) := by
  rw [h]
  rfl

theorem readV_readM {r : BitVec 6} {x : Vec} (h : s.readV r = .ok (x, t)) (m : BitVec 3) : t.readM m = s.readM m := by
  simp only [readM, readV_view h]

theorem readV_mode {r : BitVec 6} {x : Vec} (h : s.readV r = .ok (x, t)) (rm : Rm) : t.mode rm = modeOf rm s.view.fst := by
  simp only [mode, readV_view h]

end State

@[simp] theorem elem_mod (w buf i : Nat) : elem w buf i % 2 ^ w = elem w buf i := Nat.mod_mod ..

/-- The number a condition or an integer instruction reads in a word is that of the word's low code (R71, R193). -/
theorem intVal_ofNat {ty : Ty} (h : ty.isWidth = true) (x : Nat) : intVal ty (BitVec.ofNat 64 x) = intOf ty x := by
  have code : ((BitVec.ofNat 64 x).setWidth ty.bits).toNat = x % 2 ^ ty.bits := by
    rw [BitVec.toNat_setWidth, BitVec.toNat_ofNat]
    exact Nat.mod_mod_of_dvd x (Nat.pow_dvd_pow 2 (by cases ty <;> decide))
  have half : 2 ^ ty.bits = 2 * 2 ^ (ty.bits - 1) := by cases ty <;> decide
  have no_nibble : (ty == .i4) = false := by revert h; cases ty <;> decide
  simp only [intVal, intOf, BitVec.toInt_eq_toNat_cond, code, no_nibble, Bool.or_false]
  cases ty.isS
  · simp
  · simp only [Bool.true_and, decide_eq_true_eq, if_true]
    split <;> split <;> omega

@[simp] theorem valInt_isNan (p : Int) : (valInt p).isNan = false := rfl

theorem valInt_count (p : Int) : (valInt p).count 0 = p := by
  have shift : p.natAbs <<< ((0 : Int) - 0).toNat = p.natAbs := Nat.shiftLeft_zero
  simp only [valInt, Val.count, shift, decide_eq_true_eq, Int.ofNat_eq_natCast]
  split <;> omega

theorem valInt_cmp (p q : Int) : (valInt p).cmp (valInt q) = if p < q then -1 else if p = q then 0 else 1 := by
  have unfolded : (valInt p).cmp (valInt q) = if (valInt p).count 0 < (valInt q).count 0 then -1
      else if (valInt p).count 0 = (valInt q).count 0 then 0 else 1 := rfl
  rw [unfolded, valInt_count, valInt_count]

theorem Val.cmp_cases (p q : Val) : p.cmp q = -1 ∨ p.cmp q = 0 ∨ p.cmp q = 1 := by
  simp only [Val.cmp]
  repeat' split
  all_goals simp

/-- Two values compare by the sign of `Val.cmp`, and a NaN as the condition says (R198). -/
theorem compares_float {ty : Ty} (h : ty = .f32 ∨ ty = .f64) (c : Cond) (x y : Nat) :
    compares ty c x y = condHolds c (valueF (fmtOf ty) (x % 2 ^ ty.bits)) (valueF (fmtOf ty) (y % 2 ^ ty.bits)) := by
  simp only [compares, if_pos h, condHolds, Val.isNan]
  generalize valueF (fmtOf ty) (x % 2 ^ ty.bits) = p
  generalize valueF (fmtOf ty) (y % 2 ^ ty.bits) = q
  rcases Val.cmp_cases p q with e | e | e
  · cases c <;> simp [e]
  · cases c <;> simp [e]
  · cases c <;> simp [e]

/-- Two numbers compare by their order (R198). -/
theorem compares_int {ty : Ty} (h : ty.isWidth = true) (c : Cond) (x y : Nat) :
    compares ty c x y = condHolds c (valInt (intOf ty x)) (valInt (intOf ty y)) := by
  have not_float : ¬(ty = .f32 ∨ ty = .f64) := by rintro (rfl | rfl) <;> cases h
  simp only [compares, if_neg not_float, intVal_ofNat h, condHolds, valInt_isNan, valInt_cmp]
  rcases lt_trichotomy (intOf ty x) (intOf ty y) with o | o | o
  · cases c <;> simp [o, o.ne, o.le, o.not_gt, o.not_ge]
  · cases c <;> simp [o]
  · cases c <;> simp [o, o.ne', o.le, o.not_gt, o.not_ge]

/-- The condition that CMP and VCMP test on the values of two codes is the one between the codes (R198, R215). -/
theorem condHolds_valueOf {ty : Ty} (h : ty.isCmp = true) (c : Cond) (x y : Nat) :
    condHolds c (valueOf ty (x % 2 ^ ty.bits)) (valueOf ty (y % 2 ^ ty.bits)) = compares ty c x y := by
  by_cases hw : ty.isWidth = true
  · have number (n : Nat) : valueOf ty (n % 2 ^ ty.bits) = valInt (intOf ty n) := by
      have int : isIntTy ty = true := by revert hw; cases ty <;> decide
      simp only [valueOf, int, if_true, intOf, Nat.mod_mod]
    rw [number, number, compares_int hw]
  · have float : ty = .f32 ∨ ty = .f64 := by
      simpa [Ty.isCmp, hw, or_comm] using h
    have value (n : Nat) : valueOf ty n = valueF (fmtOf ty) n := by rcases float with rfl | rfl <;> rfl
    rw [value, value, compares_float float]

/-- A mask gathered lane by lane: bit k is what was found for lane k. -/
theorem getLsbD_gatherBits (b : Nat → Bool) (n : Nat) {k : Nat} (hk : k < 16) :
    ((List.range n).foldl (fun (m : BitVec 16) j => if b j then m ||| 1#16 <<< j else m) 0).getLsbD k
      = (decide (k < n) && b k) := by
  induction n with
  | zero => simp
  | succ n ih =>
    have lane : (1#16 <<< n).getLsbD k = decide (n = k) := by
      rw [← BitVec.twoPow_eq, BitVec.getLsbD_twoPow]
      by_cases e : n = k <;> simp [e, hk]
    have bit (m : BitVec 16) : (if b n then m ||| 1#16 <<< n else m).getLsbD k = (m.getLsbD k || decide (n = k) && b n) := by
      cases hb : b n <;> simp [lane]
    rw [List.range_succ, List.foldl_append, List.foldl_cons, List.foldl_nil, bit, ih]
    by_cases e : n = k
    · simp [e]
    · have below : k < n + 1 ↔ k < n := by omega
      simp [e, below]

/-- A sum of words over the chosen elements is the sum of the numbers, modulo 2^64. -/
theorem foldl_add_ofInt (p : Nat → Bool) (f : Nat → Int) (l : List Nat) (c : Word) :
    l.foldl (fun acc i => if p i then acc + BitVec.ofInt 64 (f i) else acc) c
      = BitVec.ofInt 64 (c.toInt + (l.map (fun i => if p i then f i else 0)).sum) := by
  induction l generalizing c with
  | nil => simp
  | cons i rest ih =>
    rw [List.foldl_cons, ih, List.map_cons, List.sum_cons]
    simp only [BitVec.ofInt_add, BitVec.ofInt_toInt]
    cases p i
    · simp
    · simp [BitVec.add_assoc]

section
variable {s s1 s2 : State} {g : Guard} {a b : BitVec 6} {x y : Vec}

theorem exec_maskOps (h : s.Issues g) (d p q : BitVec 3) :
    exec (.mand g d p q) s = .next (s.writeM d (s.readM p &&& s.readM q))
      ∧ exec (.mor g d p q) s = .next (s.writeM d (s.readM p ||| s.readM q))
      ∧ exec (.mnot g d p) s = .next (s.writeM d (~~~s.readM p)) := by
  simp only [exec, execMand, execMor, execMnot, setM]
  exact ⟨run_ok h rfl, run_ok h rfl, run_ok h rfl⟩

theorem exec_vcmp (h : s.Issues g) (ha : s.readV a = .ok (x, s1)) (hb : s1.readV b = .ok (y, s2)) (ty : Ty) (c : Cond) (vm : VMask)
    (d : BitVec 3) : exec (.vcmp g ty c vm d a b) s
      = .next (s2.writeM d (cmpMask ty c (s.readM vm.gm) (s.readM d) vm.z x.toNat y.toNat)) := by
  simp only [exec]
  refine run_ok h ?_
  simp only [State.bind_of_readV ha, State.bind_of_readV hb, State.readV_readM ha, State.readV_readM hb]

/-- Lane j of a comparison's mask (R215). -/
theorem cmpMask_lane {ty : Ty} (h : ty.isCmp = true) (c : Cond) (mask old : BitVec 16) (z : Bool) (x y : Nat)
    {j : Nat} (hj : j < 16) :
    (cmpMask ty c mask old z x y).getLsbD j = if active mask ty.bits (j * 32 / ty.bits) then
        compares ty c (elem ty.bits x (j * 32 / ty.bits)) (elem ty.bits y (j * 32 / ty.bits))
      else !z && old.getLsbD j := by
  rw [cmpMask, getLsbD_gatherBits _ 16 hj, ← condHolds_valueOf h, elem_mod, elem_mod]
  simp [hj]

theorem exec_vred (h : s.Issues g) (ha : s.readV a = .ok (x, s1)) (ty : Ty) (rm : Rm) (sat : Bool) (op : RedOp) (mk : BitVec 3)
    (d : BitVec 6) :
    let leaves := (List.range (512 / ty.bits)).map
      (fun i => if active (s.readM mk) ty.bits i then elem ty.bits x.toNat i else redIdentity ty op)
    let r := ptree (redNode ty op (modeOf rm s.view.fst) sat) (treeDepth ty.bits) leaves
    exec (.vred g ty rm sat op mk d a) s
      = .next ((s1.raiseFlags r.fl).writeX d (if ty.isF then BitVec.ofNat 64 r.code else extend ty r.code) 6) := by
  intro leaves r
  simp only [exec]
  refine run_ok h ?_
  simp only [State.bind_of_readV ha, State.readV_readM ha, State.readV_mode ha, leaves, r]

theorem exec_vdot (h : s.Issues g) (ha : s.readV a = .ok (x, s1)) (hb : s1.readV b = .ok (y, s2)) (ty : Ty) (rm : Rm)
    (mk : BitVec 3) (d c : BitVec 6) :
    let r := dotF ty (modeOf rm s.view.fst) (s.readM mk) x.toNat y.toNat (s2.readX c)
    exec (.vdot g ty rm mk d a b c) s = .next (if ty.isF then (s2.raiseFlags r.fl).writeX d (BitVec.ofNat 64 r.code) (mulLat s2 6)
      else s2.writeX d (dotI ty (s.readM mk) x.toNat y.toNat (s2.readX c)) (mulLat s2 6)) := by
  intro r
  have mode : s2.mode rm = modeOf rm s.view.fst := by rw [State.readV_mode hb, State.readV_view ha]
  simp only [exec]
  refine run_ok h ?_
  simp only [State.bind_of_readV ha, State.bind_of_readV hb, State.readV_readM ha, State.readV_readM hb, mode]
  split <;> rfl

end

/-- Settles O19: the masks lane by lane, the reduction as the tree over its leaves, and the dot products by their sums. -/
theorem masksAndReductions : Obligations.MasksAndReductions := by
  refine ⟨fun s g d p q h => ?_, fun s s1 g ty rm mk d a b c x h ha =>
    ⟨fun sat op _ => exec_vred h ha .., fun s2 y hb => ⟨fun hty => ?_, fun hty => ?_⟩⟩⟩
  · obtain ⟨hand, hor, hnot⟩ := exec_maskOps h d p q
    refine ⟨hand, hor, hnot, rfl, fun _ => rfl, fun ty cond vm a b x y s1 s2 hwf ha hb => ?_⟩
    obtain ⟨vtype, -⟩ := Bool.and_eq_true_iff.mp hwf
    have comparable : ty.isCmp = true := by revert vtype; cases ty <;> decide
    exact ⟨_, exec_vcmp h ha hb ty cond vm d, fun j hj => cmpMask_lane comparable cond _ _ vm.z _ _ hj⟩
  · have not_float : ty.isF = false := by revert hty; cases ty <;> decide
    exact ⟨_, (exec_vdot h ha hb ty .dyn mk d c).trans (by rw [not_float]; rfl), foldl_add_ofInt ..⟩
  · exact (exec_vdot h ha hb ty rm mk d c).trans (by rw [hty]; rfl)

end Sys2Proof.Machine
end

section
/-! Transfers of control (O27): what a transfer answers when it is taken and when it is not, and its target's checks in their order
(R86, R183, R316, R319, R323). -/

namespace Sys2Proof.Machine

section
variable {s : State} {g : Guard} {nul : Nul} {link : Bool} {target : State → Word}

theorem runTransfer_taken (hu : s.me.used = true) (hg : s.guard g = true) (ht : s.targetCheck (target s) = .ok ()) :
    runTransfer g nul link s target
      = .next ((if link then s.writeX 31 s.returnPoint 1 else s).transfer (some (target s)) (nul == .nt)) := by
  simp [runTransfer, runThread, hu, hg, ht, Bind.bind, Except.bind]

theorem runTransfer_not_taken (hu : s.me.used = true) (hg : s.guard g = false) :
    runTransfer g nul link s target = .next (s.transfer none (nul == .nn)) := by
  simp [runTransfer, hu, hg]

end

/-- A check before others: when it fails, its trap is what they answer. -/
theorem check_then {α : Type} (ok : Bool) (c : BitVec 8) (a : Word) (f : Unit → Except Stop α) :
    (check ok c a >>= f) = if ok = false then .error (.trap c a) else f () := by
  cases ok <;> rfl

theorem check_eq (ok : Bool) (c : BitVec 8) (a : Word) : check ok c a = if ok = false then .error (.trap c a) else .ok () := by
  cases ok <;> rfl

/-- A line starts at the multiple of 64 at or below the address. -/
theorem lineOf_toNat (a : Word) : (lineOf a).toNat = a.toNat - a.toNat % 64 := by
  have parts : (a &&& 63) + lineOf a = a := by
    rw [lineOf, BitVec.add_eq_or_of_and_eq_zero]
    · rw [← BitVec.and_or_distrib_left, BitVec.or_not_self]
      exact BitVec.and_allOnes
    · rw [BitVec.and_assoc, ← BitVec.and_assoc 63, BitVec.and_comm 63, BitVec.and_assoc, BitVec.and_not_self]
      simp
  have low : (a &&& 63).toNat = a.toNat % 64 := by
    rw [BitVec.toNat_and]
    exact Nat.and_two_pow_sub_one_eq_mod a.toNat 6
  have := congrArg BitVec.toNat parts
  bv_omega

theorem offset_toNat (a : Word) : (a.extractLsb' 0 6).toNat = a.toNat % 64 := by simp [BitVec.extractLsb'_toNat]

theorem slotAligned_eq_false (a : Word) : slotAligned a = false ↔ a.toNat % 64 % 12 ≠ 0 ∨ 60 ≤ a.toNat % 64 := by
  rw [slotAligned, offset_toNat]
  simp only [beq_iff_eq, Bool.and_eq_false_iff, decide_eq_false_iff_not]
  omega

/-- The checks of R183 in their order: space and segment, then the right. -/
theorem codeCheck_eq (e : Seg) (t : Word) : codeCheck e t t =
    if t.toNat / 2 ^ 52 ≠ 0x200 ∨ e.attr.extractLsb' 0 3 = 0 ∨ t.toNat - t.toNat % 64 < e.base.toNat
        ∨ e.base.toNat + e.limit.toNat < t.toNat - t.toNat % 64 + 63 then .error (.trap cLimit t)
    else if e.attr.getLsbD rX = false then .error (.trap cRights t) else .ok () := by
  have space : (lineOf t).extractLsb' 52 12 = 0x200 ↔ t.toNat / 2 ^ 52 = 0x200 := by
    rw [← BitVec.toNat_inj, BitVec.extractLsb'_toNat, lineOf_toNat, Nat.shiftRight_eq_div_pow]
    simp
    omega
  have kind : e.kind = 0 ↔ e.attr.extractLsb' 0 3 = 0 := by rw [Seg.kind, ← BitVec.toNat_inj]; rfl
  have segment : (e.kind != 0 && decide (e.base.toNat ≤ (lineOf t).toNat)
      && decide ((lineOf t).toNat + 63 ≤ e.base.toNat + e.limit.toNat)) = false
        ↔ e.attr.extractLsb' 0 3 = 0 ∨ t.toNat - t.toNat % 64 < e.base.toNat
          ∨ e.base.toNat + e.limit.toNat < t.toNat - t.toNat % 64 + 63 := by
    simp only [Bool.and_eq_false_iff, bne_eq_false_iff_eq, kind, decide_eq_false_iff_not, lineOf_toNat, not_le, or_assoc]
  rw [codeCheck, check_then, check_then, check_eq, Seg.has]
  simp only [beq_eq_false_iff_ne, ne_eq, space, segment]
  by_cases h : t.toNat / 2 ^ 52 = 0x200
  · simp only [h, not_true_eq_false, if_false, false_or]
  · simp only [h, not_false_eq_true, if_true, true_or]

theorem tgtBit_slot {t : Word} (h : ¬(t.toNat % 64 % 12 ≠ 0 ∨ 60 ≤ t.toNat % 64)) (l : FLine) :
    tgtBit l (slotIndex t) = l.getLsbD (480 + t.toNat % 64 / 12) := by
  have slot : t.toNat % 64 / 12 < 5 := by omega
  have word : t.toNat % 64 / 12 < 32 := by omega
  simp [tgtBit, slotIndex, lineWord, slot, word]

/-- The checks of a target whose line is held and reads well (R35, R319). -/
theorem targetCheck_held {s : State} {t : Word} {l : FLine} (hl : s.held s.myCore t = some l) (hp : parityOk l = true) :
    s.targetCheck t = if t.toNat % 64 % 12 ≠ 0 ∨ 60 ≤ t.toNat % 64 then .error (.trap cTarget t)
      else (codeCheck s.view.code t t >>= fun _ => check (l.getLsbD (480 + t.toNat % 64 / 12)) cTarget t) := by
  simp only [State.targetCheck, check_then, slotAligned_eq_false, hl, hp, Bool.not_true, Bool.false_and]
  by_cases h : t.toNat % 64 % 12 ≠ 0 ∨ 60 ≤ t.toNat % 64
  · simp only [if_pos h]
  · simp only [if_neg h, tgtBit_slot h]
    rfl

/-- Settles O27: a transfer by its guard, and the checks of its target one after the other. -/
theorem transfers : Obligations.Transfers := by
  refine ⟨fun s g nul a imm hu => ?_, fun s t l hl hp => ?_⟩
  · intro here taken notTaken goes
    have transfer {i : Instr} {link : Bool} {target : State → Word} (hi : exec i s = runTransfer g nul link s target) :
        goes i link (target s) :=
      ⟨fun hg ht => hi.trans ((runTransfer_taken hu hg ht).trans (by cases nul <;> rfl)),
        fun hg => hi.trans ((runTransfer_not_taken hu hg).trans (by cases nul <;> rfl))⟩
    refine ⟨transfer (target := fun s => s.slotAddr + imm.signExtend 64) ?_,
      transfer (target := fun s => s.view.code.base + imm.setWidth 64) ?_,
      transfer (target := fun s => s.readX a + imm.signExtend 64) ?_, transfer (target := fun s => s.slotAddr + imm.signExtend 64) ?_,
      transfer (target := fun s => s.readX a + imm.signExtend 64) ?_, transfer (target := fun s => s.readX a) ?_, ?_⟩
    case refine_7 => simp only [exec, execNop_next g hu]
    all_goals simp only [exec]; rfl
  · intro off first e
    rw [targetCheck_held hl hp, codeCheck_eq, check_eq]
    by_cases aligned : off % 12 ≠ 0 ∨ 60 ≤ off
    · rw [if_pos aligned, if_pos aligned]; rfl
    · rw [if_neg aligned, if_neg aligned]
      split
      · rfl
      · cases right : s.view.code.attr.getLsbD 6 <;> simp only [right, rX] <;> rfl

end Sys2Proof.Machine
end

section
/-! Failed sites (O54): the watchdog, the residue checkers, machine checks and the splice with its choice of a spare (R106, R425-R429,
R457, R459). -/

namespace Sys2Proof.Machine

namespace State

variable {s : State}

/-- A cut that fails leaves the tiles and the checks that wait. -/
theorem failCut_tiles (crew : Nat) : ((s.failCut crew).tiles, (s.failCut crew).checks) = (s.tiles, s.checks) := by
  have refs (u : State) : ((u.updateRefs crew).tiles, (u.updateRefs crew).checks) = (u.tiles, u.checks) := by
    simp only [updateRefs]
    split <;> rfl
  simp only [failCut, refs, modCrew_tiles, modCrew_checks]
  refine foldl_keeps (fun s => (s.tiles, s.checks)) _ (fun s t => ?_) _ s
  rfl

/-- A cut in progress fails unless it has been decided (R419). -/
def failOpenCut (s : State) (crew : Nat) : State :=
  match (s.crew crew).cut with
  | some c => if c.decided then s else s.failCut crew
  | none => s

theorem failOpenCut_keeps (crew : Nat) : ((s.failOpenCut crew).tiles, (s.failOpenCut crew).checks) = (s.tiles, s.checks)
    ∧ (s.failOpenCut crew).mem = s.mem := by
  simp only [failOpenCut]
  split
  · split
    · exact ⟨rfl, rfl⟩
    · exact ⟨failCut_tiles crew, mem_of_store (failCut_store s crew)⟩
  · exact ⟨rfl, rfl⟩

/-- A machine check raised changes the list of checks alone (R426). -/
theorem raiseCheck_frame (site : Nat) (cause : MCause) :
    ∃ checks, s.raiseCheck site cause = { s with checks } ∧ (site, cause) ∈ checks := by
  refine ⟨(s.raiseCheck site cause).checks, ?_, raiseCheck_raised site cause⟩
  simp only [raiseCheck]
  split <;> rfl

end State

/-- A tile that has not come to its next check vc raises a machine check for it, once (R425). -/
theorem execWatchdogFire_raises {s : State} {tile crew : Nat} (hc : (s.tile tile).crew = some crew)
    (hrun : (s.crew crew).st = .running) (hlim : s.watchLimit crew ≤ (s.tile tile).wd)
    (hseen : (s.crew crew).wdSeen ≠ some (tile, State.nextCheckVc (s.crew crew) (s.tile tile).vcc)) :
    ∃ t, execWatchdogFire tile s = .next t ∧ (s.siteOf tile, .watchdog) ∈ t.checks
      ∧ (t.crew crew).wdSeen = some (tile, State.nextCheckVc (s.crew crew) (s.tile tile).vcc) ∧ (t.tile tile).wd = 0 ∧ t.mem = s.mem := by
  let k := State.nextCheckVc (s.crew crew) (s.tile tile).vcc
  let told := (s.errorRecord 1 0x1A (s.siteOf tile) 0xFF 0 0 (BitVec.ofNat 64 k)).modTile tile (fun i => { i with wd := 0 })
  let seen := (told.failOpenCut crew).modCrew crew (fun w => { w with wdSeen := some (tile, k) })
  have answer : execWatchdogFire tile s = .next (seen.raiseCheck (s.siteOf tile) .watchdog) := by
    simp only [execWatchdogFire, hc, hrun, bne_self_eq_false, Bool.false_or, decide_eq_true_eq, Nat.not_lt.mpr hlim, if_false,
      beq_eq_false_iff_ne.mpr hseen, Bool.false_eq_true]
    rfl
  obtain ⟨kept, hmem⟩ := State.failOpenCut_keeps (s := told) crew
  obtain ⟨htiles, -⟩ := Prod.mk.inj kept
  obtain ⟨checks, raised, hin⟩ := State.raiseCheck_frame (s := seen) (s.siteOf tile) .watchdog
  have reset : (told.tile tile).wd = 0 := congrArg Tile.wd (State.tile_modTile ..)
  have noted : (seen.crew crew).wdSeen = some (tile, k) := congrArg Crew.wdSeen (State.crew_modCrew ..)
  exact ⟨_, answer.trans (congrArg _ raised), hin, noted, (congrArg (fun t => (Tbl.get {} t tile).wd) htiles).trans reset, hmem⟩

/-- A wrong result at a unit is a pipeline error of its tile, with a record in the black box of its field (R459). -/
theorem execResidueMismatch_raises (s : State) {site : Nat} (core unit sub : Nat) (hsite : isSite site = true) :
    ∃ t, execResidueMismatch site core unit sub s = .next t ∧ (site, .pipeline) ∈ t.checks
      ∧ (t.field (fieldOf site)).boxn = (s.field (fieldOf site)).boxn + 1 ∧ t.mem = s.mem ∧ t.ctxs = s.ctxs := by
  let told := s.errorRecord 1 0x1B site (BitVec.ofNat 8 core) (BitVec.ofNat 8 unit) sub (s.siteVc site)
  obtain ⟨checks, raised, hin⟩ := State.raiseCheck_frame (s := told) site .pipeline
  have answer : execResidueMismatch site core unit sub s = .next (told.raiseCheck site .pipeline) := by
    simp only [execResidueMismatch, hsite, Bool.not_true, Bool.false_eq_true, if_false]
    rfl
  exact ⟨_, answer.trans (congrArg _ raised), hin, congrArg Fld.boxn (State.field_setField ..), rfl, rfl⟩

/-- The crew of the tile that a site serves. -/
def State.crewAt (s : State) (site : Nat) : Option Nat := (s.tileAt site).bind (fun t => (s.tile t).crew)

/-- An uncorrectable far line for which the crew of a site is to go back (R106). -/
def State.farCheck (s : State) (site : Nat) (cause : MCause) : Bool :=
  cause == .arrayEcc && (match s.crewAt site with | some c => s.rollbacks.contains c | none => false)

/-- No pipeline error of a site in the last 2^40 rc (R426). -/
def State.firstError (s : State) (site : Nat) : Bool :=
  match (s.site site).perr with
  | some rc => decide (rc + 2 ^ 40 ≤ (s.site site).ctr)
  | none => true

theorem State.farCheck_iff {s : State} {site : Nat} {cause : MCause} :
    s.farCheck site cause = true ↔ cause = .arrayEcc ∧ ∃ c, s.crewAt site = some c ∧ c ∈ s.rollbacks := by
  simp only [farCheck, Bool.and_eq_true, beq_iff_eq]
  cases s.crewAt site <;> simp

theorem State.firstError_iff {s : State} {site : Nat} :
    s.firstError site = true ↔ (s.site site).perr = none ∨ ∃ rc, (s.site site).perr = some rc ∧ rc + 2 ^ 40 ≤ (s.site site).ctr := by
  simp only [firstError]
  cases (s.site site).perr <;> simp

/-- A check that is taken: it waits no longer, and neither does the rollback it asked for; a pipeline error is noted (R426). -/
def State.checkTaken (s : State) (site : Nat) (cause : MCause) : State :=
  let crew := s.crewAt site
  let s : State := { s with checks := s.checks.filter (fun c => c != (site, cause)) }
  let s := if cause == .pipeline then s.modSite site (fun n => { n with perr := some n.ctr }) else s
  { s with rollbacks := s.rollbacks.filter (fun c => some c != crew || cause != .arrayEcc) }

theorem State.checkTaken_keeps (s : State) (site : Nat) (cause : MCause) :
    (site, cause) ∉ (s.checkTaken site cause).checks ∧ (s.checkTaken site cause).mem = s.mem := by
  simp only [checkTaken]
  split <;> simp

section
variable {s : State} {site : Nat} {cause : MCause} (hin : (site, cause) ∈ s.checks)
include hin

/-- While the device is quiesced the site is fenced and its crew stands still (R457). -/
theorem execMachineCheck_quiesced (hq : s.quiesced = true) (hfar : s.farCheck site cause = false)
    (hpipe : (cause == .pipeline && s.firstError site) = false) :
    execMachineCheck site cause s = .next ((s.fenceSite site).freezeCrew (s.crewAt site)) := by
  have answer : execMachineCheck site cause s
      = .next ((if s.farCheck site cause || cause == .pipeline && s.firstError site then s else s.fenceSite site).freezeCrew
          (s.crewAt site)) := by
    simp only [execMachineCheck, List.contains_iff_mem.mpr hin, Bool.not_true, Bool.false_eq_true, if_false, hq, if_true]
    rfl
  rw [answer, hfar, hpipe]
  rfl

/-- Else the cut in progress fails, and the site is to be spliced (R419, R426). -/
theorem execMachineCheck_spliced (hq : s.quiesced = false) (hfar : s.farCheck site cause = false)
    (hpipe : (cause == .pipeline && s.firstError site) = false) :
    ∃ t, execMachineCheck site cause s = .next t ∧ site ∈ t.splices ∧ (site, cause) ∉ t.checks ∧ t.mem = s.mem := by
  let failed : State := match s.crewAt site with
    | some c => (s.checkTaken site cause).failOpenCut c
    | none => s.checkTaken site cause
  have waits : ¬(!s.checks.contains (site, cause)) = true := by simp [hin]
  have not_back : ¬(s.farCheck site cause || cause == .pipeline && s.firstError site) = true := by simp [hfar, hpipe]
  have answer : execMachineCheck site cause s
      = .next { failed with splices := if failed.splices.contains site then failed.splices else failed.splices ++ [site] } :=
    (if_neg waits).trans ((if_neg (by simp [hq])).trans (if_neg not_back))
  have kept : failed.checks = (s.checkTaken site cause).checks ∧ failed.mem = (s.checkTaken site cause).mem := by
    simp only [failed]
    split
    · next c _ =>
      obtain ⟨hchecks, hmem⟩ := State.failOpenCut_keeps (s := s.checkTaken site cause) c
      exact ⟨(Prod.mk.inj hchecks).2, hmem⟩
    · exact ⟨rfl, rfl⟩
  obtain ⟨gone, hmem⟩ := s.checkTaken_keeps site cause
  refine ⟨_, answer, ?_, by rw [kept.1]; exact gone, kept.2.trans hmem⟩
  dsimp only
  split
  · next h => exact List.contains_iff_mem.mp h
  · simp

/-- A first pipeline error at the site of a crew that can be restored rolls it back in place (R426). -/
theorem execMachineCheck_back {c : Nat} (hq : s.quiesced = false) (hcause : cause = .pipeline) (hfirst : s.firstError site = true)
    (hc : s.crewAt site = some c) (hlive : State.restorable (s.crew c) = true) :
    execMachineCheck site cause s
      = .next ((({ s with checks := s.checks.filter (fun c => c != (site, cause)) } : State).modSite site
          (fun n => { n with perr := some n.ctr })).rollBackInPlace c site) := by
  subst hcause
  have waits : ¬(!s.checks.contains (site, .pipeline)) = true := by simp [hin]
  have back : (s.farCheck site .pipeline || MCause.pipeline == .pipeline && s.firstError site) = true := by simp [hfirst]
  have answer : execMachineCheck site .pipeline s = match s.crewAt site with
      | some c => if State.restorable ((s.checkTaken site .pipeline).crew c)
          then .next ((s.checkTaken site .pipeline).rollBackInPlace c site) else .next (s.checkTaken site .pipeline)
      | none => .next (s.checkTaken site .pipeline) :=
    (if_neg waits).trans ((if_neg (by simp [hq])).trans (if_pos back))
  have taken : s.checkTaken site .pipeline
      = ({ s with checks := s.checks.filter (fun c => c != (site, .pipeline)) } : State).modSite site
          (fun n => { n with perr := some n.ctr }) := by
    have stay : s.rollbacks.filter (fun c => some c != s.crewAt site || MCause.pipeline != .arrayEcc) = s.rollbacks :=
      List.filter_eq_self.mpr (by simp)
    simp only [State.checkTaken, beq_self_eq_true, if_true, State.modSite_rollbacks, stay]
    rfl
  have live : State.restorable ((s.checkTaken site .pipeline).crew c) = true := by rw [taken]; exact hlive
  rw [answer, hc]
  exact (if_pos live).trans (by rw [taken])

end

/-! The fence (R264). -/

/-- A router's fence bit for a site. -/
def State.markFence (site : Nat) (s : State) (at_ : Nat) : State :=
  s.modSite at_ (fun n => if n.fence.contains site then n else { n with fence := n.fence ++ [site] })

theorem State.markFence_fence (s : State) (site at_ : Nat) : site ∈ ((s.markFence site at_).site at_).fence := by
  simp only [markFence, site_modSite]
  split
  · next h => exact List.contains_iff_mem.mp h
  · simp

theorem State.markFence_mono {s : State} {site n : Nat} (at_ : Nat) (h : site ∈ (s.site n).fence) :
    site ∈ ((s.markFence site at_).site n).fence := by
  by_cases hn : n = at_
  · exact hn ▸ markFence_fence s site n
  · rw [markFence, site_modSite_ne _ _ _ _ hn]
    exact h

theorem State.foldl_markFence {site n : Nat} (l : List Nat) : ∀ s : State, n ∈ l ∨ site ∈ (s.site n).fence →
    site ∈ ((l.foldl (markFence site) s).site n).fence := by
  induction l with
  | nil => exact fun s h => h.resolve_left (List.not_mem_nil)
  | cons m rest ih =>
    intro s h
    refine ih _ ?_
    by_cases hn : n = m
    · exact .inr (hn ▸ markFence_fence s site n)
    · exact h.imp (fun h => (List.mem_cons.mp h).resolve_left hn) (markFence_mono m)

/-- The routers around a failed site fence it, and so does its own (R264). -/
theorem State.fenceSite_fence (s : State) (site : Nat) :
    site ∈ ((s.fenceSite site).site site).fence ∧ ((s.fenceSite site).site site).fenced = true
      ∧ ∀ port q, port < 4 → nextSite site port = some q → site ∈ ((s.fenceSite site).site q).fence := by
  let around := site :: (List.range 4).filterMap (nextSite site)
  have fenced (n : Nat) (h : n ∈ around) : site ∈ ((s.fenceSite site).site n).fence := by
    have marked := foldl_markFence (site := site) around s (.inl h)
    have same : ((s.fenceSite site).site n).fence = ((around.foldl (markFence site) s).site n).fence := by
      change ((modSite _ site _).site n).fence = _
      rw [site_modSite_eq]
      split
      · next hn => subst hn; rfl
      · rfl
    rw [same]
    exact marked
  refine ⟨fenced site List.mem_cons_self, congrArg Site.fenced (site_modSite ..), fun port q hport hq => ?_⟩
  exact fenced q (List.mem_cons_of_mem _ (List.mem_filterMap.mpr ⟨port, List.mem_range.mpr hport, hq⟩))

/-! The choice of a spare (R427). -/

/-- A search that keeps a least one of what it holds and what comes next finds one of the least of all. -/
theorem foldl_least {pick : Option Nat → Nat → Option Nat} {rank : Nat → Nat}
    (step : ∀ acc k, ∃ b ∈ acc.toList ++ [k], pick acc k = some b ∧ ∀ m ∈ acc.toList ++ [k], rank b ≤ rank m) (l : List Nat) :
    ∀ acc n, l.foldl pick acc = some n → n ∈ acc.toList ++ l ∧ ∀ m ∈ acc.toList ++ l, rank n ≤ rank m := by
  induction l with
  | nil => rintro _ n rfl; simp
  | cons k rest ih =>
    intro acc n hn
    obtain ⟨b, hb, hpick, hleast⟩ := step acc k
    rw [List.foldl_cons, hpick] at hn
    obtain ⟨hin, hle⟩ := ih _ n hn
    have below (m : Nat) (hm : m ∈ acc.toList ++ [k]) : rank n ≤ rank m := (hle b (by simp)).trans (hleast m hm)
    rw [List.append_cons]
    refine ⟨?_, fun m hm => (List.mem_append.mp hm).elim (below m) (fun h => hle m (by simp [h]))⟩
    rcases List.mem_append.mp hin with h | h
    · obtain rfl : n = b := by simpa using h
      exact List.mem_append_left _ hb
    · exact List.mem_append_right _ h

/-- The spare is one of a field nearest to the failed site's, and not of the partner's (R427). -/
theorem State.spareFor_nearest {s : State} {site partner n : Nat} (h : s.spareFor site partner = some n) :
    n ∈ s.spares ∧ fieldOf n ≠ fieldOf partner
      ∧ ∀ m ∈ s.spares, fieldOf m ≠ fieldOf partner → fieldDist (fieldOf site) (fieldOf n) ≤ fieldDist (fieldOf site) (fieldOf m) := by
  have allowed (m : Nat) : m ∈ s.spares.filter (fun n => fieldOf n != fieldOf partner) ↔ m ∈ s.spares ∧ fieldOf m ≠ fieldOf partner := by
    simp
  have nearest := foldl_least (rank := fun n => fieldDist (fieldOf site) (fieldOf n)) ?_ _ none n h
  · obtain ⟨hin, hle⟩ := nearest
    simp only [Option.toList_none, List.nil_append] at hin hle
    obtain ⟨hspare, hfield⟩ := (allowed n).mp hin
    exact ⟨hspare, hfield, fun m hm hf => hle m ((allowed m).mpr ⟨hm, hf⟩)⟩
  · intro acc k
    cases acc with
    | none => exact ⟨k, by simp, rfl, by simp⟩
    | some a =>
      simp only
      split
      · next less =>
        simp only [Bool.or_eq_true, decide_eq_true_eq, Bool.and_eq_true, beq_iff_eq] at less
        exact ⟨k, by simp, rfl, by simp; omega⟩
      · next notLess =>
        simp only [Bool.or_eq_true, decide_eq_true_eq, Bool.and_eq_true, beq_iff_eq, not_or, not_lt] at notLess
        exact ⟨a, by simp, rfl, by simp; omega⟩

/-! The splice (R428, R429, R457). -/

/-- A splice that has ended waits no longer. -/
def State.endSplice (s : State) (site : Nat) : State := { s with splices := s.splices.filter (fun n => n != site) }

section
variable {s : State} {site : Nat} (hin : site ∈ s.splices)
include hin

theorem execSplice_quiesced (hq : s.quiesced = true) :
    execSplice site s = .next ((s.fenceSite site).freezeCrew (s.crewAt site)) :=
  (if_neg (by simp [hin])).trans (if_pos hq)

theorem execSplice_unbound (hq : s.quiesced = false) (ht : (s.fenceSite site).tileAt site = none) :
    execSplice site s = .next ((s.fenceSite site).endSplice site) := by
  simp only [execSplice, List.contains_iff_mem.mpr hin, hq, ht, Bool.not_true, Bool.false_eq_true, if_false]
  rfl

section
variable {t : Nat} (hq : s.quiesced = false) (ht : (s.fenceSite site).tileAt site = some t) (hcontrol : isControlTile t = false)
include hq ht hcontrol

theorem execSplice_spare {spare : Nat}
    (h : (s.fenceSite site).spareFor site ((s.fenceSite site).siteOf ((s.fenceSite site).partnerOf t)) = some spare) :
    execSplice site s
      = .next ((((s.fenceSite site).spliceRecords site [2, 3, 4, 5, 6, 7, 8]).spliceTo t site spare).markRetire.endSplice site) := by
  simp only [execSplice, List.contains_iff_mem.mpr hin, hq, ht, hcontrol, h, Bool.not_true, Bool.false_eq_true, if_false]
  rfl

/-- With no spare left the crew of the tile is lost (R428). -/
theorem execSplice_lost {c : Nat}
    (h : (s.fenceSite site).spareFor site ((s.fenceSite site).siteOf ((s.fenceSite site).partnerOf t)) = none)
    (hlive : State.restorable (((s.fenceSite site).spliceRecords site [2]).crew c) = true)
    (hc : (((s.fenceSite site).spliceRecords site [2]).tile t).crew = some c) :
    execSplice site s = .next ((((s.fenceSite site).spliceRecords site [2]).loseCrew c 0x1D t).endSplice site) := by
  simp only [execSplice, List.contains_iff_mem.mpr hin, hq, ht, hcontrol, h, hlive, hc, Bool.not_true, Bool.false_eq_true, if_false, if_true]
  rfl

end

end

/-- Settles O54: one lemma for each event, from what it keeps; the fence by the routers marked, the spare by the search for the nearest. -/
theorem spliceEvents : Obligations.SpliceEvents := by
  intro s site tile crew
  refine ⟨fun hc hrun hlim hseen => ?_, fun core unit sub hsite => ?_, fun cause hin => ?_, ?_, fun hin => ?_,
    fun partner n h => State.spareFor_nearest h⟩
  · simp only [exec]
    exact execWatchdogFire_raises hc hrun hlim hseen
  · simp only [exec]
    exact execResidueMismatch_raises s core unit sub hsite
  · intro at_ far first
    have not_far (h : ¬far) : s.farCheck site cause = false := eq_false_of_ne_true (mt State.farCheck_iff.mp h)
    have not_first (h : ¬(cause = .pipeline ∧ first)) : (cause == .pipeline && s.firstError site) = false := by
      refine eq_false_of_ne_true (mt (fun e => ?_) h)
      simpa only [Bool.and_eq_true, beq_iff_eq, State.firstError_iff] using e
    refine ⟨fun hq hfar hpipe => ?_, fun hq hfar hpipe => ?_, fun hq hcause hfirst c hc hlive => ?_⟩
    · simp only [exec]
      exact execMachineCheck_quiesced hin hq (not_far hfar) (not_first hpipe)
    · simp only [exec]
      exact execMachineCheck_spliced hin hq (not_far hfar) (not_first hpipe)
    · simp only [exec]
      exact execMachineCheck_back hin hq hcause (State.firstError_iff.mpr hfirst) hc hlive
  · rintro _ rfl
    exact s.fenceSite_fence site
  · intro w ended
    refine ⟨fun hq => ?_, fun hq => ⟨fun ht => ?_, fun t ht hcontrol => ⟨fun spare h => ?_, fun h c _ hlive hc => ?_⟩⟩⟩
    · simp only [exec]
      exact execSplice_quiesced hin hq
    · simp only [exec]
      exact execSplice_unbound hin hq ht
    · simp only [exec]
      exact execSplice_spare hin hq ht hcontrol h
    · simp only [exec]
      exact execSplice_lost hin hq ht hcontrol h hlive hc

end Sys2Proof.Machine
end

section
/-! The links of the package (O58): CXL ports map their units and lose them, Folvibel ports train and fall (R109-R111, R279,
R447-R449). -/

namespace Sys2Proof.Machine

namespace State

variable {s : State}

/-- An answer of a gateway is a packet of the mesh. -/
theorem farAnswer_keeps (site : Nat) (r : FarReq) (err : BitVec 8) (data : List Byte) (logged : Bool) :
    ((s.farAnswer site r err data logged).sys, (s.farAnswer site r err data logged).mem) = (s.sys, s.mem) := rfl

/-- A port that is down maps nothing (R447). -/
theorem cxlLimit_of_down {j : Nat} (h : (Tbl.get 0 s.sys.cxl j).getLsbD 63 = false) : s.cxlLimit j = 0 := by
  simp only [cxlLimit, h, Bool.false_eq_true, if_false]

/-- The word of a trained port: its size is that of the device, 512 GB at most (R111, R447). -/
theorem cxlLimit_of_up {j : Nat} {lanes rate : BitVec 8} {gb : BitVec 16}
    (h : Tbl.get 0 s.sys.cxl j = 1#1 ++ 0#15 ++ lanes ++ rate ++ gb ++ BitVec.ofNat 16 (min 512 gb.toNat)) :
    s.cxlLimit j = min 512 gb.toNat * 10 ^ 9 := by
  have up : (Tbl.get 0 s.sys.cxl j).getLsbD 63 = true := by rw [h]; simp only [BitVec.getLsbD_append]; rfl
  have size : (Tbl.get 0 s.sys.cxl j).extractLsb' 0 16 = BitVec.ofNat 16 (min 512 gb.toNat) := by
    rw [h]
    exact BitVec.extractLsb'_append_eq_right
  have small : min 512 gb.toNat % 2 ^ 16 = min 512 gb.toNat := by omega
  simp only [cxlLimit, up, if_true, size, BitVec.toNat_ofNat, small]
  omega

end State

/-- CXL_PORT_DOWN: what was under way to the unit is answered, the port's word says that it is down, and deep belay is off (R447). -/
theorem execCxlPortDown_down (s : State) (port : Nat) :
    ∃ t, execCxlPortDown port s = .next t ∧ Tbl.get 0 t.sys.cxl port = 0x4000000000000000 ∧ t.sys.dbctl = 0 ∧ t.mem = s.mem := by
  simp only [execCxlPortDown]
  generalize hu : ({ s with net := _, sys := _ } : State) = u
  generalize ht : List.foldl _ u _ = t
  have kept : (t.sys, t.mem) = (u.sys, u.mem) := by
    rw [← ht]
    refine foldl_keeps (fun s => (s.sys, s.mem)) _ (fun s p => ?_) _ u
    split
    · exact State.farAnswer_keeps ..
    · rfl
  obtain ⟨hsys, hmem⟩ := Prod.mk.inj kept
  have lost : (u.sys.cxl, u.sys.dbctl, u.mem) = (Tbl.set 0 s.sys.cxl port 0x4000000000000000, 0, s.mem) := by
    rw [← hu]
  obtain ⟨hcxl, hoff⟩ := Prod.mk.inj lost
  obtain ⟨hdb, hsame⟩ := Prod.mk.inj hoff
  refine ⟨t, rfl, ?_, ?_, hmem.trans hsame⟩
  · rw [hsys, hcxl]
    exact Tbl.get_set_self ..
  · rw [hsys, hdb]

/-- Requests to a wafer that can no longer be reached end with PEER_LOST (R110). -/
theorem State.losePeers_one {s : State} {w : Nat} {r : FarReq} (hp : s.peers = [(w, r)]) {port : Option Nat}
    (hport : port = none ∨ r.port = port) :
    s.losePeers w port = State.farDone { s with
      peers := []
      gws := s.gws.map (fun g => (g.1, { g.2 with leaves := g.2.leaves.filter (fun l => !(l.tag.map Prod.fst == some w)) })) }
      r 0x09 [] false := by
  have gone : (w == w && (port.isNone || r.port == port)) = true := by
    rcases hport with rfl | h
    · simp
    · simp [h]
  simp only [losePeers, hp, List.filter_cons, List.filter_nil, gone, if_true, Bool.not_true, Bool.false_eq_true, if_false]
  rfl

/-- The wafers behind a port that leads to one only. -/
theorem State.behind_one {s : State} {port w : Nat} (hw : w < 256) (hport : port ∈ s.peerPorts w)
    (hone : ∀ v, v < 256 → v ≠ w → port ∉ s.peerPorts v) :
    (List.range 256).filter (fun w => (s.peerPorts w).contains port) = [w] := by
  have only : ∀ v ∈ List.range 256, (s.peerPorts v).contains port = (v == w) := by
    intro v hv
    by_cases h : v = w
    · simpa [h] using hport
    · simp [h, hone v (List.mem_range.mp hv) h]
  rw [List.filter_congr only, List.filter_beq, List.count_eq_one_of_mem List.nodup_range (List.mem_range.mpr hw)]
  rfl

/-- Settles O58: a port's word, what it maps, and what the loss of a link leaves. -/
theorem linkEvents : Obligations.LinkEvents := by
  intro s port
  refine ⟨?_, fun lanes rate gb => ?_, fun inc pport => ?_, fun wafer inc pport hw => ?_, fun hup hnone => ?_, fun w hup hw hport hone => ?_,
    fun w r hp => ?_⟩
  · obtain ⟨t, ht, hword, hdb, hmem⟩ := execCxlPortDown_down s port
    exact ⟨t, by simpa only [exec] using ht, hword, hdb, hmem, State.cxlLimit_of_down (by rw [hword]; rfl)⟩
  · refine ⟨_, by simp only [exec]; rfl, State.cxlLimit_of_up (Tbl.get_set_self ..), rfl, fun j hj => Tbl.get_set_ne _ _ _ hj⟩
  · simp [exec, execFolvibelLinkTrain]
  · refine ⟨fun ho => ?_, fun ho => ?_⟩
    · simp only [exec, execFolvibelLinkTrain, if_neg hw, ho]
      rfl
    · simp only [exec, execFolvibelLinkTrain, if_neg hw, ho]
      rfl
  · have none : (List.range 256).filter (fun w => (s.peerPorts w).contains port) = [] :=
      List.filter_eq_nil_iff.mpr fun w hw => by simpa using hnone w (List.mem_range.mp hw)
    simp only [exec, execFolvibelLinkDown, hup, none]
    rfl
  · simp only [exec, execFolvibelLinkDown, hup, State.behind_one hw hport hone]
    rfl
  · exact ⟨State.losePeers_one hp (.inl rfl), fun h => State.losePeers_one hp (.inr h)⟩

end Sys2Proof.Machine
end

section
/-! Cuts (O52): capture, streaming, preparation, decision and apply (R102, R373, R377, R414-R419). -/

namespace Sys2Proof.Machine

namespace State

variable {s : State} {tile crew : Nat}

/-- What a capture reads while the frames are saved: the places of the tiles, their partners, and which keeps hold an image. -/
def keepView (s : State) : Tbl (BitVec 16) × Tbl Nat × (Nat → Bool) := (s.rebind, s.partner, fun n => (s.site n).keepv)

theorem writeLoc_keepView (l : Loc) (bs : List Byte) : (s.writeLoc l bs).keepView = s.keepView := by
  simp only [writeLoc]
  split
  · rfl
  · simp only [keepView, markDirty, setSite_rebind, setSite_partner, Prod.mk.injEq, true_and]
    funext n
    rw [site_setSite_eq]
    split
    · next h => subst h; rfl
    · rfl

theorem saveFrame_keepView (k : Nat) : (s.saveFrame k).keepView = s.keepView := writeLoc_keepView ..

theorem saveResidents_keepView (t : Nat) : (s.saveResidents t).keepView = s.keepView := by
  refine foldl_keeps keepView _ (fun s c => foldl_keeps keepView _ (fun s j => ?_) _ s) _ s
  split
  · exact saveFrame_keepView _
  · rfl

/-- What capturing a tile leaves: its state and its cut set at its site, and the tile slacks (R416, R423). -/
theorem captureTile_leaves (s : State) (tile v : Nat) :
    (s.captureTile tile v).site (s.siteOf tile) = { (s.saveResidents tile).site (s.siteOf tile) with
      cap := some ((s.saveResidents tile).imageOf tile v)
      cutset := if !(s.site (s.siteOf (s.partnerOf tile))).keepv then allLines else ((s.saveResidents tile).site (s.siteOf tile)).dirty
      wanted := [], cutCap := false, dirty := [] } := by
  obtain ⟨hrebind, hrest⟩ := Prod.mk.inj (s.saveResidents_keepView tile)
  obtain ⟨hpartner, hkeep⟩ := Prod.mk.inj hrest
  have place (t : Nat) : (s.saveResidents tile).siteOf t = s.siteOf t := siteOf_congr hrebind t
  have partner : (s.saveResidents tile).partnerOf tile = s.partnerOf tile := by simp only [partnerOf, hpartner]
  have kept (n : Nat) : ((s.saveResidents tile).site n).keepv = (s.site n).keepv := congrFun hkeep n
  simp only [captureTile, site_modTile, place, partner, kept, site_modSite]

theorem captureTile_slacks (s : State) (tile v : Nat) : ((s.captureTile tile v).tile tile).capture = 192 := by
  simp only [captureTile, tile_modTile]

/-- A line that is streamed is of the cut set, and one that a write waits for goes first (R417). -/
theorem nextLine_some {l : Nat} (h : s.nextLine tile = some l) : l ∈ (s.site (s.siteOf tile)).cutset
    ∧ ∀ k ∈ (s.site (s.siteOf tile)).wanted, k ∈ (s.site (s.siteOf tile)).cutset →
      l ∈ (s.site (s.siteOf tile)).wanted ∨ s.landingWants tile l = true := by
  rcases Option.or_eq_some_iff.mp h with hw | ⟨hnone, hhead⟩
  · exact ⟨List.mem_of_find?_eq_some hw, fun _ _ _ => by simpa using List.find?_some hw⟩
  · refine ⟨List.mem_of_mem_head? hhead, fun k hk hc => absurd (List.find?_eq_none.mp hnone k hc) ?_⟩
    simp [hk]

theorem nextLine_isSome (h : (s.site (s.siteOf tile)).cutset ≠ []) : (s.nextLine tile).isSome = true := by
  simp only [nextLine, Option.isSome_or, List.isSome_head?, Bool.or_eq_true]
  exact .inr (by simpa using h)

theorem nextLine_none (h : (s.site (s.siteOf tile)).cutset = []) : s.nextLine tile = none := by simp [nextLine, h]

end State

section
variable {s : State} {tile : Nat} {y : Nat × Cut} (hs : s.streamCut tile = some y)
include hs

/-- A line of the cut set goes to the partner: into its rope, or into a keep without an image (R417, R423). -/
theorem execCutStreamLine_sends {l : Nat} {w : State} (hl : s.nextLine tile = some l)
    (ht : (s.site (s.siteOf tile)).streamAt ≤ 2 * (s.site (s.siteOf tile)).ctr + 1) (hw : s.useBankAs 5 tile (l / 2048) = some w) :
    execCutStreamLine tile s =
      let bs := w.readLoc ⟨tile, l / 2048, l % 2048 * 64⟩ 64
      let w := w.modSite (s.siteOf tile) (fun n => { n with
        cutset := n.cutset.erase l, wanted := n.wanted.erase l, streamAt := max n.streamAt (2 * n.ctr) + 1 })
      .next ((if (w.site (s.siteOf (s.partnerOf tile))).keepv
        then w.modSite (s.siteOf (s.partnerOf tile)) (fun n => { n with rope := n.rope ++ [(l, vecOfBytes bs)] })
        else { w with mem := memWriteN w.mem (State.keepKey (s.siteOf (s.partnerOf tile)) l) bs }).earlyCheck (w.partnerOf tile)) := by
  simp only [execCutStreamLine, hs, hl, if_neg (Nat.not_lt.mpr ht), hw]
  split <;> rfl

/-- One line in a router cycle. -/
theorem execCutStreamLine_waits (ht : 2 * (s.site (s.siteOf tile)).ctr + 1 < (s.site (s.siteOf tile)).streamAt)
    (hl : s.nextLine tile ≠ none) : execCutStreamLine tile s = .next s := by
  obtain ⟨l, hl⟩ := Option.ne_none_iff_exists'.mp hl
  simp only [execCutStreamLine, hs, hl, if_pos ht]

/-- After the lines the state slot goes to the partner (R416, R418). -/
theorem execCutStreamLine_slot (hempty : (s.site (s.siteOf tile)).cutset = []) (hcap : (s.site (s.siteOf tile)).cutCap = false)
    (hpu : s.siteOf (s.partnerOf tile) ≠ s.siteOf tile) :
    ∃ t, execCutStreamLine tile s = .next t ∧ t.mem = s.mem ∧ (t.site (s.siteOf tile)).cutCap = true
      ∧ t.site (s.siteOf (s.partnerOf tile)) = (if (s.site (s.siteOf (s.partnerOf tile))).skc
        then { s.site (s.siteOf (s.partnerOf tile)) with sk0 := (s.site (s.siteOf tile)).cap }
        else { s.site (s.siteOf (s.partnerOf tile)) with sk1 := (s.site (s.siteOf tile)).cap }) := by
  simp only [execCutStreamLine, hs, State.nextLine_none hempty, hcap, Bool.false_eq_true, if_false]
  refine ⟨_, rfl, rfl, congrArg Site.cutCap (State.site_modSite ..), ?_⟩
  rw [State.site_modSite_ne _ _ _ _ hpu, State.site_modSite]

theorem execCutPrepared_prepares (hempty : (s.site (s.siteOf tile)).cutset = []) (hcap : (s.site (s.siteOf tile)).cutCap = true)
    (hpub : s.publishMarked y.1 y.2.vc = false ∨ s.writesAcked tile (s.site (s.siteOf tile)).cap = true) :
    execCutPrepared tile s = .next (s.modCrew y.1 (fun w =>
      { w with cut := w.cut.map (fun c => { c with prepared := c.prepared ++ [tile] }) })) := by
  have ready : (s.publishMarked y.1 y.2.vc && !s.writesAcked tile (s.site (s.siteOf tile)).cap) = false := by
    rcases hpub with h | h <;> simp [h]
  simp only [execCutPrepared, hs, hempty, hcap, ready]
  rfl

end

/-- A cut whose every tile is prepared is decided; one that finds a context spilled fails (R403, R418, R419). -/
theorem execCommitDecision_decides {s : State} {crew : Nat} {c : Cut} (hcut : (s.crew crew).cut = some c) (hopen : c.decided = false)
    (hcheck : s.checked crew = false) (hready : ∀ t ∈ s.crewTiles crew, t ∈ c.prepared) :
    execCommitDecision crew s = .next
      (if s.ctxs.any (fun e => decide (spillBase ≤ e.1) && e.2.used && e.2.crew == some crew)
        then s.rollBackInPlace crew (s.siteOf (s.crew crew).t0)
        else (s.modCrew crew (fun w => { w with cut := some { c with decided := true } })).logEv (s.crew crew).t0 .decision 0) := by
  have ready : (s.crewTiles crew).all (fun t => c.prepared.contains t) = true := by simpa using hready
  simp only [execCommitDecision, hcut, hopen, hcheck, ready, Bool.or_self, Bool.not_true, Bool.false_eq_true, if_false]
  split <;> rfl

/-- Settles O52: each event in the state it needs; what a capture leaves, and the order of the lines. -/
theorem cutEvents : Obligations.CutEvents := by
  intro s crew tile
  refine ⟨fun c hlive hrun hcut hcheck hc => ?_, fun v => ?_, ?_, fun x hs hempty hcap hpub => ?_, fun c hcut hopen hcheck hready => ?_,
    fun c hcrew hcut hdec happ => ?_, ?_⟩
  · simp only [exec, execBelayCut, hlive, hrun, hcut, hcheck, hc]
    rfl
  · intro f u
    have left := s.captureTile_leaves tile v
    refine ⟨congrArg Site.cap left, congrArg Site.dirty left, fun h => ?_, fun h => ?_, s.captureTile_slacks tile v⟩
    · simp only [u, left, h, Bool.not_true, Bool.false_eq_true, if_false, f]
    · simp only [u, left, h, Bool.not_false, if_true, State.allLines]
  · intro site pu y hs
    refine ⟨fun l w hl ht hw => ?_, fun l hl => State.nextLine_some hl, State.nextLine_isSome, fun ht hl => ?_, fun hempty hcap hpu => ?_⟩
    · simp only [exec]
      exact execCutStreamLine_sends hs hl ht hw
    · simp only [exec]
      exact execCutStreamLine_waits hs ht hl
    · obtain ⟨t, ht, hmem, hdone, hslot⟩ := execCutStreamLine_slot hs hempty hcap hpu
      refine ⟨t, by simpa only [exec] using ht, hmem, hdone, ?_⟩
      rw [hslot]
      split <;> exact ⟨rfl, rfl⟩
  · simp only [exec]
    exact execCutPrepared_prepares hs hempty hcap hpub
  · simp only [exec]
    exact execCommitDecision_decides hcut hopen hcheck hready
  · have notYet : c.applied.contains tile = false := by simpa using happ
    simp only [exec, execCutApply, hcrew, hcut, hdec, notYet, Bool.not_true, Bool.or_self, Bool.false_eq_true, if_false]
  · intro w r hlive hrun hdue
    have due : (w.live && w.st == .running && (s.crewTiles crew).any (fun t => decide (r ≤ (s.tile t).vcc))) = true := by
      simpa [hlive, hrun] using hdue
    simp only [exec]
    exact if_pos due

end Sys2Proof.Machine
end

section
/-! Gateways (O46): translation from the cache, walks, requests that leave for peers, and parking (R86-R97, R402). -/

namespace Sys2Proof.Machine

namespace Tbl

variable {α : Type}

/-- A value put at a key twice: the first leaves no trace. -/
theorem put_put (t : Tbl α) (k : Nat) (v w : α) : put (put t k v) k w = put t k w := by
  induction t with
  | nil => simp [put]
  | cons e rest ih =>
    obtain ⟨k', v'⟩ := e
    simp only [put]
    split
    · simp [put]
    · next hlt =>
      split
      · next heq => subst heq; simp [put]
      · next hne => simp [put, hlt, hne, ih]

theorem del_put (t : Tbl α) (k : Nat) (v : α) : del (put t k v) k = del t k := by
  induction t with
  | nil => simp [put, del]
  | cons e rest ih =>
    obtain ⟨k', v'⟩ := e
    simp only [put]
    split
    · simp [del]
    · split
      · next heq => subst heq; simp [del]
      · next hne => simp [del, hne, ih]

theorem set_set [DecidableEq α] {d v : α} (t : Tbl α) (k : Nat) (w : α) (h : v ≠ d) : set d (set d t k v) k w = set d t k w := by
  simp only [set, if_neg h, del_put, put_put]

end Tbl

namespace State

variable {s u : State}

theorem setGw_setGw {k : Nat} {x : Gw} (y : Gw) (h : x ≠ {}) : (s.setGw k x).setGw k y = s.setGw k y := by
  simp only [setGw, Tbl.set_set s.gws k y h]

theorem writeLoc_gws (l : Loc) (bs : List Byte) : (s.writeLoc l bs).gws = s.gws := by
  simp only [writeLoc]
  split <;> rfl

theorem setPrk_gws (bar : Bar) (v : Bool) : (s.setPrk bar v).gws = s.gws := by
  simp only [setPrk]
  split
  · next b =>
    split
    · refine (foldl_keeps State.gws _ (fun s k => ?_) _ _).trans (writeLoc_gws ..)
      rfl
    · exact writeLoc_gws ..
  · rfl

/-- A request parks in the lowest free place of its gateway's queue, and its fault record is posted (R96). -/
theorem parkReq_parks {field e : Nat} {r : FarReq} (he : (List.range 256).find? (fun e => (Tbl.find (s.gw field).park e).isNone) = some e) :
    ∃ t, s.parkReq field r = .ok t ∧ t.gw field = { s.gw field with
      park := Tbl.put (s.gw field).park e { r with bar := (s.reqRun r).bind (fun q => q.cmd.bar), late := true }
      posted := (s.gw field).posted ++ [e] } := by
  simp only [parkReq, he]
  generalize hx : ({ s.gw field with park := _, posted := _ } : Gw) = x
  have parked (t : State) (h : t.gws = (s.setGw field x).gws) : t.gw field = x := by
    rw [gw, h]
    exact gw_setGw ..
  split
  case h_1 | h_2 | h_3 => exact ⟨_, rfl, parked _ (setPrk_gws ..)⟩
  case h_4 => exact ⟨_, rfl, parked _ rfl⟩
  case h_5 | h_6 | h_7 =>
    refine ⟨_, rfl, parked _ ?_⟩
    split <;> rfl

end State

/-- A part of a part of a word. -/
theorem extractLsb'_within {w i n j m : Nat} (e : BitVec w) (h : j + m ≤ n) :
    (e.extractLsb' i n).extractLsb' j m = e.extractLsb' (i + j) m := by
  ext k hk
  have inside : j + k < n := by omega
  simp [inside, Nat.add_assoc]

/-- A page-table entry that is not present (R91). -/
theorem pteOut_absent {part level va : Nat} {e : Word} (h : e.extractLsb' 62 2 = 0) : pteOut part level va e = .err 0x01 := by
  simp only [pteOut, h]
  rfl

theorem pteOut_deep {part level va : Nat} {e : Word} (h : e.extractLsb' 62 2 = 1) (hl : level = 3) : pteOut part level va e = .err 0x05 := by
  simp [pteOut, h, hl]
  rfl

/-- A pointer to the next table (R90, R91). -/
theorem pteOut_table {part level va : Nat} {e : Word} (h : e.extractLsb' 62 2 = 1) (hl : level < 3) (hres : e.extractLsb' 48 14 = 0)
    (halign : e.extractLsb' 0 8 = 0) (hunit : (e.extractLsb' 40 8).toNat < 0x30) :
    pteOut part level va e = .table (e.extractLsb' 0 48).toNat := by
  have zero {j m : Nat} (hj : j + m ≤ 14) : e.extractLsb' (48 + j) m = 0 := by
    rw [← extractLsb'_within e hj, hres]
    exact BitVec.extractLsb'_zero
  have high : e.extractLsb' 56 6 = 0 := zero (by omega : 8 + 6 ≤ 14)
  have low : e.extractLsb' 48 4 = 0 := zero (by omega : 0 + 4 ≤ 14)
  have rights : e.extractLsb' 52 4 = 0 := zero (by omega : 4 + 4 ≤ 14)
  have aligned : (e.extractLsb' 0 48).toNat % 256 = 0 := by
    have := congrArg BitVec.toNat halign
    simp [BitVec.extractLsb'_toNat] at this ⊢
    omega
  have stack : paUnit (e.extractLsb' 0 48).toNat < 0x30 := by
    simp [paUnit, BitVec.extractLsb'_toNat, Nat.shiftRight_eq_div_pow] at hunit ⊢
    omega
  have notLast : level ≠ 3 := by omega
  simp only [pteOut, h, high, low, rights, aligned, notLast, decide_eq_false (Nat.not_le.mpr stack)]
  rfl

section
variable {s u : State} {n : Nat} {p : Pkt} {r : FarReq} (h : s.Arrives n p u) (hb : p.body = .far r)
include h hb

/-- A translated request for a peer leaves by its port (R95, R449). -/
theorem execFarRequestTranslate_leaves {q : Nat} (hq : r.port = some q) : execFarRequestTranslate n s = .next (u.leavePort q r) := by
  rw [execFarRequestTranslate, arrived_of h]
  rotate_left
  · rw [hb]
  simp [hb, hq]

section
variable (hport : r.port = none) (hwalks : ∀ w ∈ (u.gw (fieldOf p.dst)).walks, w.req.core ≠ r.core)
include hport hwalks

theorem execFarRequestTranslate_eq : execFarRequestTranslate n s =
    match u.reqVa r with
    | .error e => .next (u.transError (fieldOf p.dst) r e)
    | .ok none => match u.toPeer (fieldOf p.dst) r with
      | some s2 => .next s2
      | none => .next s
    | .ok (some va) => match u.cachedLeaf (fieldOf p.dst) r.part va with
      | some l =>
        if l.permits (reqAcc r.kind) (State.isWeight r) = 0 then
          match (u.installLeaf (fieldOf p.dst) l).forward (fieldOf p.dst) r l va with
          | some s2 => .next s2
          | none => .next s
        else .next (u.beginWalk (fieldOf p.dst) r va)
      | none => .next (u.beginWalk (fieldOf p.dst) r va) := by
  have free : ((u.gw (fieldOf p.dst)).walks.any (fun w => w.req.core == r.core)) = false := by simpa using hwalks
  rw [execFarRequestTranslate, arrived_of h]
  rotate_left
  · rw [hb]
  simp only [hb, hport, free]
  rfl

end

end

/-- A gateway's walks without one that has ended. -/
def State.endWalk (s : State) (field i : Nat) : State := s.setGw field { s.gw field with walks := (s.gw field).walks.eraseIdx i }

section
variable {s : State} {field i va : Nat} {w : Walk} (hw : (s.gw field).walks[i]? = some w) (hva : s.reqVa w.req = .ok (some va))
include hw hva

theorem execPageWalkComplete_outside (hpa : s.paOk w.pa = false) :
    execPageWalkComplete field i s = .next ((s.endWalk field i).transError field w.req ePa) := by
  simp only [execPageWalkComplete, hw, hva, hpa]
  rfl

variable (hpa : s.paOk w.pa = true)
include hpa

theorem execPageWalkComplete_error {e : BitVec 8} (he : pteOut w.req.part w.level va (s.readPte w.pa) = .err e) :
    execPageWalkComplete field i s = .next ((s.endWalk field i).transError field w.req e) := by
  simp only [execPageWalkComplete, hw, hva, hpa, he]
  rfl

theorem execPageWalkComplete_table {t : Nat} (he : pteOut w.req.part w.level va (s.readPte w.pa) = .table t) :
    execPageWalkComplete field i s = .next (s.setGw field { s.gw field with
      walks := (s.gw field).walks.set i { w with level := w.level + 1, pa := t + 8 * levelIndex (w.level + 1) va } }) := by
  simp only [execPageWalkComplete, hw, hva, hpa, he]
  rfl

theorem execPageWalkComplete_denied {l : Leaf} (he : pteOut w.req.part w.level va (s.readPte w.pa) = .leaf l)
    (hcode : l.permits (reqAcc w.req.kind) (State.isWeight w.req) ≠ 0) :
    execPageWalkComplete field i s = .next (((s.endWalk field i).installLeaf field l).transError field w.req
      (l.permits (reqAcc w.req.kind) (State.isWeight w.req))) := by
  simp only [execPageWalkComplete, hw, hva, hpa, he, bne_iff_ne.mpr hcode]
  rfl

theorem execPageWalkComplete_leaf {l : Leaf} {x : State} (he : pteOut w.req.part w.level va (s.readPte w.pa) = .leaf l)
    (hcode : l.permits (reqAcc w.req.kind) (State.isWeight w.req) = 0)
    (hx : ((s.endWalk field i).installLeaf field l).forward field w.req l va = some x) : execPageWalkComplete field i s = .next x := by
  have sent : ((s.setGw field { s.gw field with walks := (s.gw field).walks.eraseIdx i }).installLeaf field l).forward field w.req l va
    = some x := hx
  simp only [execPageWalkComplete, hw, hva, hpa, he, hcode, sent]
  rfl

end

/-- A parked request that the steward takes leaves the queue and is failed or walks again (R96). -/
theorem State.parkAct_takes {s : State} {field va : Nat} {v : Word} {r : FarReq} (hgo : v.getLsbD 63 = true)
    (hr : Tbl.find (s.gw field).park (v.extractLsb' 0 8).toNat = some r) (hkind : ∃ len b off, r.kind = .read len b off) (hbar : r.bar = none)
    (u : State) (hu : u = s.setGw field { s.gw field with
      parkact := v &&& 0x40000000000000FF
      park := Tbl.del (s.gw field).park (v.extractLsb' 0 8).toNat
      posted := (s.gw field).posted.filter (· != (v.extractLsb' 0 8).toNat) })
    (hva : u.reqVa r = .ok (some va)) :
    s.parkAct field v = if v.getLsbD 62 then u.farAnswer (gwSite field) r 0x08 [] false else u.beginWalk field r va := by
  obtain ⟨len, b, off, hkind⟩ := hkind
  have held : ({ s.gw field with parkact := v &&& 0x40000000000000FF } : Gw) ≠ {} := by
    intro h
    have empty : (s.gw field).park = [] := congrArg Gw.park h
    rw [empty] at hr
    cases hr
  subst hu
  simp only [parkAct, hgo, hr, gw_setGw, setGw_setGw _ held, hbar, unparkBar, hkind, hva]
  cases v.getLsbD 62 <;> rfl

/-- The register of a gateway, when the steward names no entry. -/
theorem State.parkAct_keeps {s : State} {field : Nat} {v : Word} (hgo : v.getLsbD 63 = false) :
    s.parkAct field v = s.setGw field { s.gw field with parkact := v &&& 0x40000000000000FF } := by
  simp only [parkAct, hgo]
  rfl

/-- A context parks no longer once its cause has cleared, unless a replay has it wait (R402). -/
theorem execParkingEnd_eq {s : State} {k : Nat} (hused : (s.ctx k).used = true) (hahead : s.wakeAhead k = false) :
    execParkingEnd k s = .next (if s.parkingOver k then
      (s.modCtx k (fun c => { c with wait := .none, parked := false, since := s.vccOf k })).logWake k (BitVec.ofNat 6 (s.ctx k).wait.code)
      else s) := by
  simp only [execParkingEnd, hused, hahead]
  cases s.parkingOver k <;> rfl

/-- No park queue holds a request of a context. -/
theorem State.nothingParked {s : State} {k : Nat} (h : ∀ g ∈ s.gws, ∀ e ∈ g.2.park, e.2.ctx ≠ k) :
    s.gws.any (fun g => g.2.park.any (fun e => e.2.ctx == k && e.2.uid == (s.ctx k).uid && awaited e.2.kind)) = false := by
  refine List.any_eq_false.mpr fun g hg => Bool.eq_false_iff.mp (List.any_eq_false.mpr fun e he => ?_)
  simp [h g hg e he]

/-- The leaves that an invalidation names (R94). -/
theorem State.gwHit_iff {v : Word} {l : Leaf} : gwHit v l = true ↔
    l.ctx = (v.extractLsb' 56 4).toNat ∧ (v.getLsbD 62 = true ∨ l.va < (v.extractLsb' 16 36).toNat * 2 ^ 16
        + ((v.extractLsb' 0 16).toNat + 1) * 2 ^ 16 ∧ (v.extractLsb' 16 36).toNat * 2 ^ 16 < l.va + l.size) := by
  simp only [gwHit, Bool.and_eq_true, Bool.or_eq_true, beq_iff_eq, decide_eq_true_eq]

/-- GWINV takes the leaves it names out of its gateway's cache and changes no other gateway (R94). -/
theorem State.gwInv_leaves {s : State} {field : Nat} {v : Word} (l : Leaf) :
    l ∈ ((s.gwInv field v).gw field).leaves ↔ l ∈ (s.gw field).leaves ∧ ¬(v.getLsbD 63 = true ∧ gwHit v l = true) := by
  simp only [gwInv, gw_setGw]
  cases v.getLsbD 63 <;> simp

/-- Settles O46: a request at its gateway by what the cache and the table give for it, an entry by its fields, the park queue by the place
it takes, and invalidation by the leaves it names. -/
theorem gatewayEvents : Obligations.GatewayEvents := by
  intro s field
  refine ⟨fun n p u r q h hb hq => ?_, fun n p u r h hb hport hwalks => ?_, fun i w va hw hva => ?_, fun part level va e _ _ => ?_,
    fun r e he => ?_, fun v hgo => ?_, fun v r va hgo hr => ?_, fun k hused => ?_, fun v => ?_, ?_⟩
  · simp only [exec]
    exact execFarRequestTranslate_leaves h hb hq
  · simp only [exec, execFarRequestTranslate_eq h hb hport hwalks]
    refine ⟨fun e he => by simp only [he], fun hva w hw => by simp only [hva, hw], fun va hva => ⟨fun hl => by simp only [hva, hl],
      fun l hl => ⟨fun hp => by simp only [hva, hl, if_neg hp], fun hp w hw => by simp only [hva, hl, if_pos hp, hw]⟩⟩⟩
  · intro go ended
    simp only [go, exec]
    refine ⟨execPageWalkComplete_outside hw hva, fun hpa => ⟨fun e => execPageWalkComplete_error hw hva hpa,
      fun t => execPageWalkComplete_table hw hva hpa, fun l hl => ⟨execPageWalkComplete_denied hw hva hpa hl,
      fun hcode x => execPageWalkComplete_leaf hw hva hpa hl hcode⟩⟩⟩
  · exact ⟨pteOut_absent, pteOut_deep, pteOut_table⟩
  · obtain ⟨t, ht, hg⟩ := State.parkReq_parks (s := s) (r := r) he
    exact ⟨t, ht, by rw [hg]; simp, by rw [hg]; exact Tbl.find_put_self ..⟩
  · simp only [exec, execParkact, State.parkAct_keeps hgo]
  · intro g e u hkind hbar hva
    simp only [exec, execParkact]
    exact congrArg _ (State.parkAct_takes hgo hr hkind hbar u rfl hva)
  · intro ended freed hahead
    simp only [exec, execParkingEnd_eq hused hahead]
    refine ⟨fun b hw => ?_, fun hfree hw => ?_, fun hfree a hw hparked => ?_⟩
    · have ends : s.parkingOver k = !(s.barrier b).prk := by simp only [State.parkingOver, hw]
      rw [ends]
      cases (s.barrier b).prk <;> rfl
    · have ends : s.parkingOver k = true := by simp only [State.parkingOver, hw, State.nothingParked hfree, Bool.not_false]
      rw [ends]
      rfl
    · have ends : s.parkingOver k = true := by
        simp only [State.parkingOver, hw, hparked, State.nothingParked hfree, Bool.not_false, Bool.and_self]
      rw [ends]
      rfl
  · refine ⟨s.gwInv field v, by simp only [exec]; rfl, ?_, rfl, fun f hf => s.gw_setGw_ne _ _ _ hf, fun l => ?_⟩
    · exact congrArg Gw.gwinv (s.gw_setGw ..)
    · simp only [State.gwInv_leaves, State.gwHit_iff]
  · intro g hgo hfree
    refine ⟨s.setGw field { g with gwinv := g.gwinv &&& 0x7FFFFFFFFFFFFFFF, leaves := g.leaves.filter (fun l => !State.gwHit g.gwinv l) },
      ?_, ?_, rfl, fun l => ?_⟩
    · have done : (g.gwinv.getLsbD 63 && !s.inFlightOf field (g.gwinv.extractLsb' 56 4).toNat) = true := by rw [hgo, hfree]; rfl
      simp only [exec]
      exact if_pos done
    · exact congrArg Gw.gwinv (s.gw_setGw ..)
    · simp only [State.gw_setGw, List.mem_filter, Bool.not_eq_true']

end Sys2Proof.Machine
end

section
/-! Homes of far memory (O47): writes, publishes, reads, atomics, replies and the count of corrected errors (R97-R107, R110). -/

namespace Sys2Proof.Machine

/-- Erasing the first element with a property takes one away from those with a weaker property. -/
theorem length_filter_eraseIdx_findIdx {α : Type} {p q : α → Bool} (hpq : ∀ a, p a = true → q a = true) (l : List α)
    (h : ∃ a ∈ l, p a = true) : ((l.eraseIdx (l.findIdx p)).filter q).length + 1 = (l.filter q).length := by
  induction l with
  | nil => simp at h
  | cons a rest ih =>
    by_cases hp : p a = true
    · simp [List.findIdx_cons, hp, hpq a hp]
    · have found := ih (by simpa [hp] using h)
      simp only [List.findIdx_cons, hp, cond_false, List.eraseIdx_cons_succ, List.filter_cons]
      split
      · simp [← found]
      · exact found

/-- The rows that a home counts after a corrected error in a row: counted there, or listed, where the row with the lowest count leaves a
full table of its stack (R460). -/
def rowsCounted (rows : List (Nat × Nat × Nat)) (stack row : Nat) : List (Nat × Nat × Nat) :=
  let mine := rows.filter (fun e => e.1 == stack)
  let low := (mine.map (fun e => e.2.2)).min?.getD 0
  if mine.any (fun e => e.2.1 == row) then rows.map (fun e => if e.1 == stack && e.2.1 == row then (stack, row, e.2.2 + 1) else e)
  else (if mine.length < 256 then rows else rows.eraseIdx (rows.findIdx (fun e => e.1 == stack && e.2.2 == low))) ++ [(stack, row, 1)]

theorem exists_lowest (rows : List (Nat × Nat × Nat)) (stack : Nat) (h : (rows.filter (fun e => e.1 == stack)).length ≠ 0) :
    ∃ e ∈ rows, (e.1 == stack && e.2.2 == ((rows.filter (fun e => e.1 == stack)).map (fun e => e.2.2)).min?.getD 0) = true := by
  cases hmin : ((rows.filter (fun e => e.1 == stack)).map (fun e => e.2.2)).min? with
  | none => exact absurd (by simpa using List.min?_eq_none_iff.mp hmin) h
  | some low =>
    obtain ⟨e, he, hlow⟩ := List.mem_map.mp (List.min?_mem hmin)
    obtain ⟨hin, hstack⟩ := List.mem_filter.mp he
    exact ⟨e, hin, by simp [hstack, hlow]⟩

/-- The table never holds more than 256 rows of a stack (R460). -/
theorem rowsCounted_length {rows : List (Nat × Nat × Nat)} (stack row : Nat) {k : Nat} (h : (rows.filter (fun e => e.1 == k)).length ≤ 256) :
    ((rowsCounted rows stack row).filter (fun e => e.1 == k)).length ≤ 256 := by
  simp only [rowsCounted]
  split
  · have same : ((fun e : Nat × Nat × Nat => e.1 == k) ∘ fun e => if e.1 == stack && e.2.1 == row then (stack, row, e.2.2 + 1) else e)
        = fun e => e.1 == k := by
      funext e
      simp only [Function.comp_apply]
      split
      · next he => rw [beq_iff_eq.mp (Bool.and_eq_true_iff.mp he).1]
      · rfl
    rw [List.filter_map, List.length_map, same]
    exact h
  · rw [List.filter_append, List.length_append]
    by_cases hk : stack = k
    · subst hk
      simp only [List.filter_cons, beq_self_eq_true, if_true, List.filter_nil, List.length_singleton]
      split
      · omega
      · next hfull =>
        have listed := exists_lowest rows stack (by omega)
        have erased := length_filter_eraseIdx_findIdx (q := fun e => e.1 == stack) (fun e => And.left ∘ Bool.and_eq_true_iff.mp) rows listed
        omega
    · have other : [(stack, row, 1)].filter (fun e => e.1 == k) = [] := by simp [hk]
      rw [other]
      split
      · exact h
      · exact ((List.eraseIdx_sublist ..).filter _).length_le.trans h

theorem State.countRow_home (s : State) (h pa : Nat) : (s.countRow h pa).home h = { s.home h with
    rows := if decide (paUnit pa < 0x30) && Config.rowError s.free then rowsCounted (s.home h).rows (paUnit pa) (Config.hbmRow pa)
      else (s.home h).rows } := s.home_setHome h _

/-- An uncorrectable line met first rolls the reading crew back (R106). -/
theorem State.mediaMet_first {s : State} {h pa w core from_ : Nat} {unit : BitVec 24} (hline : pa / 64 ∉ (s.home h).media) :
    ∃ t, s.mediaMet h pa (some w) core from_ unit = (false, t) ∧ w ∈ t.rollbacks
      ∧ (s.siteOf (tileOfCore core), .arrayEcc) ∈ t.checks ∧ pa / 64 ∈ (t.home h).media ∧ t.mem = s.mem := by
  have new : (s.home h).media.contains (pa / 64) = false := by simpa using hline
  simp only [mediaMet, new, Bool.false_and, Bool.false_eq_true, if_false]
  generalize ht : State.raiseCheck _ _ _ = t
  generalize hu : ({ (_ : State) with rollbacks := _ } : State) = u at ht
  obtain ⟨checks, raised, hin⟩ := State.raiseCheck_frame (s := u) (s.siteOf (tileOfCore core)) .arrayEcc
  subst ht
  rw [raised]
  refine ⟨_, rfl, ?_, hin, ?_, ?_⟩
  all_goals subst hu
  · dsimp only
    split
    · next hold => exact List.contains_iff_mem.mp hold
    · simp
  · have noted := congrArg Home.media (s.home_setHome h { s.home h with media := (s.home h).media ++ [pa / 64] })
    exact noted ▸ List.mem_append_right _ List.mem_cons_self
  · rfl

theorem State.Arrives.mem {s u : State} {n : Nat} {p : Pkt} (h : s.Arrives n p u) : u.mem = s.mem := by
  obtain ⟨-, -, -, -, -, -, -, -, -, -, rfl⟩ := h
  rfl

/-- A write that has waited at the head of its home's list goes on (R99, R100). -/
theorem execHomeWriteRetry_head {s w : State} {h leaf off : Nat} {r : FarReq} {err : BitVec 8} {rest : List (FarReq × Nat × Nat)}
    (hws : (s.home h).waiting = (r, leaf, off) :: rest) (hhost : State.hostOf r = none)
    (hbuf : s.bufWrite h r leaf off ((writeData r.kind).getD []) = some (err, w)) :
    ∃ t, execHomeWriteRetry h 0 s = .next t ∧ (t.home h).waiting = (w.home h).waiting.tail ∧ t.mem = w.mem := by
  simp only [execHomeWriteRetry, hws, List.getElem?_cons_zero, List.take_zero, List.any_nil, hbuf, hhost, List.eraseIdx_zero]
  refine ⟨_, rfl, ?_, rfl⟩
  exact congrArg Home.waiting (w.home_setHome h _)

section
variable {s u : State} {n : Nat} {p : Pkt} {r : FarReq} {leaf pa h : Nat} (ha : s.Arrives n p u) (hb : p.body = .home r leaf pa h)
include ha hb

section
variable {data : List Byte} {id : Nat} (hk : r.kind = .write data id)
include hk

theorem execHomeWrite_eq (hc : leaf = 0 → s.chanHeld pa = false) : execHomeWrite n s =
    if leaf = 0 then .next (((u.writePa pa data).heat h pa data.length (u.gwOf (tileOfCore r.core))).homeAnswer p r 0 [] false)
    else if u.waitsFor h r.part leaf then .next (u.holdWrite h r leaf pa)
    else match u.bufWrite h r leaf pa data with
      | some (err, w) => .next (w.homeAnswer p r err [] false)
      | none => .next (u.holdWrite h r leaf pa) := by
  have goes : (leaf == 0 && s.chanHeld pa) = false := by
    by_cases hl : leaf = 0
    · simp [hl, hc hl]
    · simp [hl]
  rw [execHomeWrite, arrived_of ha]
  rotate_left
  · simp only [hb, hk]
    rfl
  simp only [hb, hk, writeData, Option.getD_some, goes, Bool.false_eq_true, if_false] <;> split <;> rfl

end

theorem execHomePubl_eq {id : Nat} (hk : r.kind = .publ id) (hw : u.waitsFor h r.part leaf = false) : execHomePubl n s =
    .next (if (u.bufMap h r.part ((leaf - 1) / 2 ^ 16)).admits ((leaf - 1) % 2 ^ 16) = 0
      then (u.publishAt h r.part ((leaf - 1) / 2 ^ 16)).homeAnswer p r 0 [] false
      else u.homeAnswer p r ((u.bufMap h r.part ((leaf - 1) / 2 ^ 16)).admits ((leaf - 1) % 2 ^ 16)) [] false) := by
  rw [execHomePubl, arrived_of ha]
  rotate_left
  · simp only [hb, hk]
  simp only [hb, hw, bne_iff_ne, ne_eq, Bool.false_eq_true, if_false, ite_not]
  split <;> rfl

section
variable {len b off a : Nat} (hk : r.kind = .read len b off) (hp : u.readAtHome h r leaf pa len = .ok a)
include hk hp

theorem execHomeRead_eq (hc : u.chanHeld a = false) : execHomeRead n s =
    let w := if leaf = 0 then u else u.touchBuf h r.part ((leaf - 1) / 2 ^ 16)
    .next (((w.heat h a len (w.gwOf (tileOfCore r.core))).countRow h a).homeAnswer p r 0 (w.readPa a len)
      (leaf == 0 && spaceOf r.va != 3)) := by
  rw [execHomeRead, arrived_of ha]
  rotate_left
  · simp only [hb, hk]
  simp only [hb, hk, reqLen, hp, hc, Bool.false_eq_true, if_false]

/-- A far read that meets an uncorrectable line (R106). -/
theorem execFarMediaError_eq : execFarMediaError n s = match u.mediaMet h a r.crew r.core r.from_ r.unit with
    | (true, w) => .next (w.homeAnswer p r eMedia [] false)
    | (false, w) => .next w := by
  have packet : ¬s.net.length ≤ n := Nat.not_le.mpr (List.getElem?_eq_some_iff.mp ha.1).1
  rw [execFarMediaError, if_neg packet, arrived_of ha]
  rotate_left
  · simp only [hb, hk]
    rfl
  simp only [hb, hk, reqLen, hp] <;> rfl

end

section
variable (hk : isSeq r.kind = true) (hc : s.chanHeld pa = false)
include hk hc

/-- An operation whose number its home has seen gets the stored reply (R105). -/
theorem execFarAtomicAtHome_seen {e : Nat × Nat} (he : (Tbl.get [] (u.home h).seen r.core).find? (fun e => e.1 == seqOf r.kind) = some e) :
    execFarAtomicAtHome n s
      = .next (u.homeAnswer p r 0 (leBytes (match r.kind with | .knot .. => 16 | k => reqLen k) e.2) true) := by
  rw [execFarAtomicAtHome, arrived_of ha]
  rotate_left
  · simp only [hb, hk]
  simp only [hb, hc, he]
  cases r.kind <;> rfl

/-- One that it has not seen is applied, and its reply is stored (R104, R105). -/
theorem execFarAtomicAtHome_new (he : (Tbl.get [] (u.home h).seen r.core).find? (fun e => e.1 == seqOf r.kind) = none)
    (hroom : (Tbl.get [] (u.home h).seen r.core).length < 64) :
    execFarAtomicAtHome n s =
      let x := ((u.applyAtomic r pa).2.heat h pa (reqLen r.kind) ((u.applyAtomic r pa).2.gwOf (tileOfCore r.core))).countRow h pa
      .next ((x.setHome h { x.home h with
        seen := Tbl.put (x.home h).seen r.core (Tbl.get [] (u.home h).seen r.core ++ [(seqOf r.kind, leNat (u.applyAtomic r pa).1)]) }).homeAnswer
          p r 0 (u.applyAtomic r pa).1 true) := by
  rw [execFarAtomicAtHome, arrived_of ha]
  rotate_left
  · simp only [hb, hk]
  simp only [hb, hc, he, decide_eq_false (Nat.not_le.mpr hroom), Bool.false_and, if_pos hroom]
  rfl

end

end

section
variable {s u : State} {n : Nat} {p : Pkt} (ha : s.Arrives n p u)
include ha

/-- A reply that no log holds back reaches its core (R95, R97). -/
theorem execFarReplyArrival_done {r : FarReq} {err : BitVec 8} {data : List Byte} (hb : p.body = .reply r err data false)
    (hknot : ∀ op q, r.kind = .knot op q → u.knotHeld r.ctx (leNat data) = false) :
    execFarReplyArrival n s = .next (u.farDone r err data false).settle := by
  have packet : ¬s.net.length ≤ n := Nat.not_le.mpr (List.getElem?_eq_some_iff.mp ha.1).1
  have free : (match r.kind with | .knot .. => u.knotHeld r.ctx (leNat data) | _ => false) = false := by
    split
    · next op q hk => exact hknot op q hk
    · rfl
  simp only [execFarReplyArrival, if_neg packet]
  rw [arrived_of ha]
  rotate_left
  · rw [hb]
  simp only [hb, Bool.false_and, Bool.false_or]
  exact if_neg (ne_true_of_eq_false free)

/-- A committed PSN at a home frees the copies that no crew can still read (R102). -/
theorem execCommitNoticeAtHome_frees {h crew psn a b : Nat} (hb : p.body = .commitPsn h crew psn)
    (hcrew : Tbl.find (u.home h).crews crew = some (a, b)) :
    execCommitNoticeAtHome n s
      = .next ((u.setHome h { u.home h with crews := Tbl.put (u.home h).crews crew (a, psn) }).freeCopies h) := by
  rw [execCommitNoticeAtHome, arrived_of ha]
  rotate_left
  · rw [hb]
  simp only [hb, hcrew]

end

/-- Settles O47: each event by what its home holds; the counted rows by the row that leaves a full table. -/
theorem homeEvents : Obligations.HomeEvents := by
  intro s
  refine ⟨fun h => by simp only [exec]; rfl, fun h pa stack hlen => ⟨?_, rfl, fun j hj => s.home_setHome_ne _ _ _ hj⟩,
    fun h r leaf off err w rest hws hhost hbuf => ?_, fun u n p r leaf pa h ha => ⟨fun hb => ⟨?_, ?_, ?_, ?_⟩, ?_, ?_⟩⟩
  · rw [State.countRow_home]
    dsimp only
    split
    · exact rowsCounted_length _ _ hlen
    · exact hlen
  · simp only [exec]
    exact execHomeWriteRetry_head hws hhost hbuf
  · intro data id hk
    simp only [exec]
    refine ⟨fun hl hc => (execHomeWrite_eq ha hb hk fun _ => hc).trans (if_pos hl), fun hl hw => ?_⟩
    have run := (execHomeWrite_eq ha hb hk fun h0 => absurd h0 hl).trans (if_neg hl)
    rw [hw] at run
    exact ⟨fun err w hbuf => run.trans (by rw [hbuf]; rfl), fun hbuf => run.trans (by rw [hbuf]; rfl)⟩
  · intro id hk hw
    simp only [exec]
    exact execHomePubl_eq ha hb hk hw
  · intro len b off a hk hp
    simp only [exec]
    refine ⟨execHomeRead_eq ha hb hk hp, fun hcrew => ?_, fun w hcrew hline => ?_, fun w hcrew hline hreplay => ?_⟩
    · rw [execFarMediaError_eq ha hb hk hp, hcrew]
      rfl
    · obtain ⟨t, ht, hback, hcheck, hmedia, hmem⟩ := State.mediaMet_first (s := u) (w := w) (core := r.core) (from_ := r.from_)
        (unit := r.unit) hline
      refine ⟨t, ?_, hback, hcheck, hmedia, hmem.trans ha.mem⟩
      rw [execFarMediaError_eq ha hb hk hp, hcrew, ht]
    · have again : u.mediaMet h a (some w) r.core r.from_ r.unit
          = (true, u.taskFault w cCopy eMedia (BitVec.ofNat 64 (64 * (a / 64))) r.core r.from_ r.unit) :=
        if_pos (by simp [hline, hreplay])
      rw [execFarMediaError_eq ha hb hk hp, hcrew, again]
      rfl
  · intro hk hc
    simp only [exec]
    exact ⟨fun e he => execFarAtomicAtHome_seen ha hb hk hc he, fun he hroom => execFarAtomicAtHome_new ha hb hk hc he hroom⟩
  · intro err data hb hknot
    simp only [exec]
    exact execFarReplyArrival_done ha hb hknot
  · intro crew psn a b hb hcrew
    simp only [exec]
    exact execCommitNoticeAtHome_frees ha hb hcrew

end Sys2Proof.Machine
end

section
/-! Atomics and reservations (O25): the new value of AMO and RED, their requests, and the queue of a reserved word (R97, R105, R150, R151,
R303, R307, R310-R312). -/

namespace Sys2Proof.Machine

/-! The value (R307). -/

theorem natTy_bits (ty : Ty) : (natTy ty).bits = ty.bits := by cases ty <;> rfl

theorem intOf_natTy (ty : Ty) (c : Nat) : intOf (natTy ty) c = intOf ty c := by
  by_cases h : ty = .none
  · subst h; rfl
  · rw [natTy, if_neg (by simpa using h)]

theorem isAmo_cases {ty : Ty} (h : ty.isAmo = true) : ty.isWidth = true ∧ (natTy ty).isF = false ∧ ¬(ty = .f32 ∨ ty = .f64)
    ∨ (ty = .f32 ∨ ty = .f64) ∧ natTy ty = ty ∧ ty.isF = true ∧ isIntTy ty = false := by
  revert h
  cases ty <;> decide

theorem isAmo_bytes {ty : Ty} (h : ty.isAmo = true) : 8 * (ty.bits / 8) = ty.bits := by
  revert h
  cases ty <;> decide

/-- The number of a code extended to 64 bits by the signedness of its type (R193). -/
theorem extend_natTy {ty : Ty} (h : ty.isAmo = true) (c : Nat) : extend (natTy ty) c = extended ty false c := by
  have code : (BitVec.ofInt ty.bits c).toNat = c % 2 ^ ty.bits := by
    rw [BitVec.ofInt_natCast, BitVec.toNat_ofNat]
  have half : 2 ^ ty.bits = 2 * 2 ^ (ty.bits - 1) := by cases ty <;> decide
  have no_nibble : (ty == .i4) = false := by revert h; cases ty <;> decide
  rw [extend, intOf_natTy]
  simp only [extended, intOf, no_nibble, Bool.or_false, Bool.false_eq_true, if_false]
  cases ty.isS
  · simp only [Bool.false_and, Bool.false_eq_true, if_false, BitVec.ofInt_natCast]
    apply BitVec.eq_of_toNat_eq
    rw [BitVec.toNat_setWidth, BitVec.toNat_ofNat, BitVec.toNat_ofNat]
  · simp only [Bool.true_and, decide_eq_true_eq, if_true, BitVec.signExtend, BitVec.toInt_eq_toNat_cond, code]
    congr 1
    split <;> split <;> omega

/-- The value that AMO and RED leave, operation by operation (R307). -/
def amoValue (op : AmoOp) (ty : Ty) (old x cmp : Nat) : Nat :=
  match op with
  | .add => if ty = .f32 ∨ ty = .f64 then
      (roundF (fmtOf ty) .rne false (exactSum false [valueF (fmtOf ty) old, valueF (fmtOf ty) x]).v).code
    else (old + x) % 2 ^ ty.bits
  | .and => old &&& x
  | .or => old ||| x
  | .xor => old ^^^ x
  | .min => if ty = .f32 ∨ ty = .f64 then (minMaxElem ty false old x).code
    else if intVal ty (BitVec.ofNat 64 old) < intVal ty (BitVec.ofNat 64 x) then old else x
  | .max => if ty = .f32 ∨ ty = .f64 then (minMaxElem ty true old x).code
    else if intVal ty (BitVec.ofNat 64 old) < intVal ty (BitVec.ofNat 64 x) then x else old
  | .swap => x
  | .cas => if old = cmp % 2 ^ ty.bits then x else old

theorem amoNew_eq {ty : Ty} (h : ty.isAmo = true) (op : AmoOp) (old x cmp : Nat) : amoNew op ty old x cmp = amoValue op ty old x cmp := by
  have cas : amoNew .cas ty old x cmp = amoValue .cas ty old x cmp := by
    simp only [amoNew, amoValue, natTy_bits, beq_iff_eq]
  rcases isAmo_cases h with ⟨hw, hint, hfloat⟩ | ⟨hfloat, hty, hF, hval⟩
  · have num (n : Nat) : intVal ty (BitVec.ofNat 64 n) = intOf ty n := intVal_ofNat hw n
    cases op
    case and | or | xor | swap => rfl
    case cas => exact cas
    case add => simp only [amoNew, amoValue, hint, if_neg hfloat, natTy_bits]; rfl
    case min => simp only [amoNew, amoValue, minMaxElem, hint, if_neg hfloat, num, intOf_natTy]; simp
    case max =>
      simp only [amoNew, amoValue, minMaxElem, hint, if_neg hfloat, num, intOf_natTy]
      by_cases hlt : intOf ty old < intOf ty x <;> simp [hlt]
  · have val (n : Nat) : valueOf ty n = valueF (fmtOf ty) n := by simp only [valueOf, hval]; rfl
    cases op
    case and | or | xor | swap => rfl
    case cas => exact cas
    case add => simp only [amoNew, amoValue, hty, hF, if_pos hfloat, roundTo, hval, val]; rfl
    case min | max => simp only [amoNew, amoValue, hty, if_pos hfloat]

/-! At the word's bank, and by requests (R97, R105, R151, R310). -/

theorem tyBytes_natTy (ty : Ty) : tyBytes (natTy ty) = ty.bits / 8 := by rw [tyBytes, natTy_bits]

namespace State

variable {s : State}

/-- A thread gets the cycle of a free bank (R155, R156). -/
theorem takeBank_free {bank : Nat} (h : s.BankFree bank) : s.takeBank bank = .ok (s.grantBank s.cur.tile bank) := by
  obtain ⟨reserved, given, may⟩ := h
  have unused : s.myTile.bankUse.contains bank = false := by simpa using given
  simp only [takeBank, reserved, unused, may]
  rfl

theorem takeWrite_free {l : Loc} {n : Nat} (hl : s.linesHeld l n = false) (h : s.BankFree l.bank) :
    s.takeWrite l n = .ok (s.grantBank s.cur.tile l.bank) := by
  simp only [takeWrite, hl, Bool.false_eq_true, if_false, takeBank_free h]

theorem myCtx_grantBank (t bank : Nat) : (s.grantBank t bank).myCtx = s.myCtx := rfl

/-- The state in which a value of n bytes has landed at a word of the thread's tile. -/
def amoLands (s : State) (l : Loc) (n v : Nat) : State :=
  ((s.grantBank s.cur.tile l.bank).meetLine l (tileOfCtx s.myCtx)).landImm s.myCtx l n (BitVec.ofNat 64 (2 ^ n - 1)) (BitVec.ofNat 512 v)

/-- AMO and RED at a bank: the old value, and the new value landing (R307, R310). -/
theorem amoAt_grantBank {ty : Ty} (h : ty.isAmo = true) (l : Loc) (op : AmoOp) (b cmp : Word) :
    (s.grantBank s.cur.tile l.bank).amoAt s.myCtx l op ty b cmp = (leNat (s.readLoc l (ty.bits / 8)),
      s.amoLands l (ty.bits / 8) (amoValue op ty (leNat (s.readLoc l (ty.bits / 8))) (b.toNat % 2 ^ ty.bits) cmp.toNat)) := by
  simp only [amoAt, tyBytes_natTy, isAmo_bytes h, amoNew_eq h]
  rfl

end State

/-- An instruction that has asked issues again when its answer has come (R40). -/
theorem run_again {s t : State} {g : Guard} {f : State → Act} (h : s.Issues g) (hf : f s = .error (.again t)) :
    runThread g s f = .next (t.setRes .reissue) := by
  obtain ⟨hused, hguard, -⟩ := h
  simp [runThread, hused, hguard, hf]

section
variable {s : State} {g : Guard} {ty : Ty} {op : AmoOp} {d b : BitVec 6} {m : MemOp} {a : Word} (hi : s.Issues g)
include hi

section
variable {l : Loc} (hty : ty.isAmo = true) (hea : s.amoEA m (ty.bits / 8) = .ok (a, some l)) (hd : s.isDirect a = true)
  (hl : s.linesHeld l (ty.bits / 8) = false) (hb : s.BankFree l.bank)
include hty hea hd hl hb

theorem exec_amo_direct : exec (.amo g ty op d b m) s = .next ((s.amoLands l (ty.bits / 8)
      (amoValue op ty (leNat (s.readLoc l (ty.bits / 8))) ((s.readX b).toNat % 2 ^ ty.bits) (s.readX d).toNat)).writeX d
        (extended ty false (leNat (s.readLoc l (ty.bits / 8)))) 2) := by
  simp only [exec]
  refine run_ok hi ?_
  simp only [tyBytes_natTy, hea, hd, if_true, Bind.bind, Except.bind, State.takeWrite_free hl hb]
  rw [State.myCtx_grantBank, State.amoAt_grantBank hty, extend_natTy hty]

theorem exec_red_direct (hswap : op ≠ .swap) (hcas : op ≠ .cas) : exec (.red g ty op b m) s = .next (s.amoLands l (ty.bits / 8)
      (amoValue op ty (leNat (s.readLoc l (ty.bits / 8))) ((s.readX b).toNat % 2 ^ ty.bits) (s.readX d).toNat)) := by
  have same (old x cmp cmp' : Nat) : amoValue op ty old x cmp = amoValue op ty old x cmp' := by
    cases op
    case cas => exact absurd rfl hcas
    all_goals rfl
  simp only [exec]
  refine run_ok hi ?_
  simp only [tyBytes_natTy, hea, hd, if_true, Bind.bind, Except.bind, State.takeWrite_free hl hb]
  rw [State.myCtx_grantBank, State.amoAt_grantBank hty, same]

end

section
variable {l : Option Loc} (hea : s.amoEA m (ty.bits / 8) = .ok (a, l)) (haway : l = none ∨ s.isDirect a = false)
include hea haway

/-- The old value of a word that lies elsewhere has come (R97, R310). -/
theorem exec_amo_answered (hty : ty.isAmo = true) {v : BitVec 512} (hv : s.answered? = some v) :
    exec (.amo g ty op d b m) s = .next (s.tookReply.writeX d (extended ty false (v.toNat % 2 ^ ty.bits)) 2) := by
  have taken : s.takeReply = some (v, s.tookReply) := by rw [State.takeReply, hv]; rfl
  have code : ((v.toNat % 2 ^ ty.bits : Nat) : Int) = v.toNat % 2 ^ ty.bits := by push_cast; rfl
  simp only [exec]
  refine run_ok hi ?_
  cases l with
  | none => simp only [tyBytes_natTy, hea, Bind.bind, Except.bind, taken, extend_natTy hty, natTy_bits, code]
  | some w =>
    have away := haway.resolve_left (by simp)
    simp only [tyBytes_natTy, hea, Bind.bind, Except.bind, away, taken, extend_natTy hty, natTy_bits, code, Bool.false_eq_true,
      if_false]

end

section
variable {w : Loc} (hea : s.amoEA m (ty.bits / 8) = .ok (a, some w)) (haway : s.isDirect a = false)
include hea haway

theorem exec_red_elsewhere : exec (.red g ty op b m) s
    = .next ((s.addOut s.myCtx (.vault w.tile w.bank true) 1).2.send s.cur.tile w.tile 0 s.myCtx (vaultStream s.myCtx a)
        (.amo w op ty (s.readX b) 0 true s.nextId)) := by
  simp only [exec]
  refine run_ok hi ?_
  simp only [tyBytes_natTy, hea, Bind.bind, Except.bind, haway, Bool.false_eq_true, if_false]
  rfl

theorem exec_amo_elsewhere (hnone : s.answered? = none) : exec (.amo g ty op d b m) s
    = .next (((((s.addOut s.myCtx (.vault w.tile w.bank true) 1).2.send s.cur.tile w.tile 0 s.myCtx (vaultStream s.myCtx a)
        (.amo w op ty (s.readX b) (s.readX d) false s.nextId)).setGoing ⟨a, some w, none⟩).modMe
        (fun c => { c with wait := .amo, asked := some .amo })).setRes .reissue) := by
  have waits : s.takeReply = none := by rw [State.takeReply, hnone]; rfl
  simp only [exec]
  refine run_again hi ?_
  simp only [tyBytes_natTy, hea, Bind.bind, Except.bind, haway, Bool.false_eq_true, if_false, waits]
  rfl

end

section
variable (hea : s.amoEA m (ty.bits / 8) = .ok (a, none)) (hroom : s.farRoom a = .ok ())
include hea hroom

theorem exec_red_far : exec (.red g ty op b m) s
    = .next ((s.addOut s.myCtx (.far (s.isRemote a)) 1).2.sendFar s.myCtx a (.amo op ty (s.readX b) 0 true none) (some s.nextId)) := by
  simp only [exec]
  refine run_ok hi ?_
  simp only [tyBytes_natTy, hea, Bind.bind, Except.bind, hroom]
  rfl

theorem exec_amo_far (hnone : s.answered? = none) (hasked : s.me.asked = none) : exec (.amo g ty op d b m) s
    = .next ((((s.sendFar s.myCtx a (.amo op ty (s.readX b) (s.readX d) false none) none).setGoing ⟨a, none, none⟩).modMe
        (fun c => { c with wait := .amo, asked := some .amo })).setRes .reissue) := by
  have waits : s.takeReply = none := by rw [State.takeReply, hnone]; rfl
  simp only [exec]
  refine run_again hi ?_
  simp only [tyBytes_natTy, hea, Bind.bind, Except.bind, waits, hasked, hroom]
  rfl

end

end

/-! Reservations (R311, R312). -/

section
variable {s : State} {g : Guard} {d b : BitVec 6} {p : BitVec 3} {m : MemOp} {a : Word} {l : Loc} (hi : s.Issues g)
include hi

section
variable (hea : s.resvEA m false = .ok (a, l))
include hea

/-- LRW at the head of its queue completes with the word (R311). -/
theorem exec_lrw_head (hd : s.isDirect a = true) (hout : s.lrwOut l s.myCtx = .joined true) (hb : s.BankFree l.bank) :
    exec (.lrw g d p m) s = .next ((((s.grantBank s.cur.tile l.bank).joinResv l s.myCtx).writeP p true).writeX d
      (BitVec.ofNat 64 (leNat (s.readLoc l 8))) 8) := by
  simp only [exec]
  refine run_ok hi ?_
  simp only [hea, Bind.bind, Except.bind, hd, hout, if_true, State.takeBank_free hb]
  rfl

theorem exec_lrw_queued (hd : s.isDirect a = true) (hout : s.lrwOut l s.myCtx = .joined false) :
    exec (.lrw g d p m) s = .next ((s.joinResv l s.myCtx).await (.lrw l d p)) := by
  simp only [exec]
  refine run_ok hi ?_
  simp only [hea, Bind.bind, Except.bind, hd, hout, if_true, Bool.false_eq_true, if_false]

theorem exec_lrw_full (hd : s.isDirect a = true) (hout : s.lrwOut l s.myCtx = .full) :
    exec (.lrw g d p m) s = .next (if p = 0 then s.raise 0x0F a else s.writeP p false) := by
  simp only [exec]
  split
  · next hp =>
    refine run_trap hi ?_
    simp only [hea, Bind.bind, Except.bind, hd, hout, if_true, hp, beq_self_eq_true]
    rfl
  · next hp =>
    refine run_ok hi ?_
    simp only [hea, Bind.bind, Except.bind, hd, hout, if_true, beq_eq_false_iff_ne.mpr hp, Bool.false_eq_true, if_false]

theorem exec_lrw_elsewhere (hd : s.isDirect a = false) : exec (.lrw g d p m) s
    = .next ((s.send s.cur.tile l.tile 0 s.myCtx (vaultStream s.myCtx a) (.lrw l)).await (.lrw l d p)) := by
  simp only [exec]
  refine run_ok hi ?_
  simp only [hea, Bind.bind, Except.bind, hd, Bool.false_eq_true, if_false]

/-- RELQ hands the word on (R312). -/
theorem exec_relq_direct (hd : s.isDirect a = true) (hh : s.holds l s.myCtx = true) :
    exec (.relq g m) s = .next ((s.endRescue l s.myCtx).leaveResv l s.myCtx) := by
  simp only [exec]
  refine run_ok hi ?_
  simp only [hea, Bind.bind, Except.bind, hd, hh, check_true, if_true]

theorem exec_relq_elsewhere (hd : s.isDirect a = false) (hh : s.holds l s.myCtx = true) : exec (.relq g m) s
    = .next (((s.addOut s.myCtx (.vault l.tile l.bank false) 1).2.send s.cur.tile l.tile 0 s.myCtx (vaultStream s.myCtx a)
        (.relq l s.nextId)).endRescue l s.myCtx) := by
  simp only [exec]
  refine run_ok hi ?_
  simp only [hea, Bind.bind, Except.bind, hd, hh, check_true, Bool.false_eq_true, if_false]
  rfl

theorem exec_relq_unheld (hh : s.holds l s.myCtx = false) : exec (.relq g m) s = .next (s.raise 0x0C a) := by
  simp only [exec]
  refine run_trap hi ?_
  simp only [hea, Bind.bind, Except.bind, hh, check_false]
  rfl

end

section
variable (hea : s.resvEA m true = .ok (a, l))
include hea

/-- SCH writes the word and hands it on (R311, R312). -/
theorem exec_sch_direct (hd : s.isDirect a = true) (hh : s.holds l s.myCtx = true) (hl : s.linesHeld l 8 = false)
    (hb : s.BankFree l.bank) : exec (.sch g b m) s
      = .next ((((s.grantBank s.cur.tile l.bank).landImm s.myCtx l 8 0xFF ((s.readX b).setWidth 512)).endRescue l s.myCtx).leaveResv
          l s.myCtx) := by
  simp only [exec]
  refine run_ok hi ?_
  simp only [hea, Bind.bind, Except.bind, hd, hh, check_true, if_true, State.takeWrite_free hl hb]
  rfl

theorem exec_sch_elsewhere (hd : s.isDirect a = false) (hh : s.holds l s.myCtx = true) : exec (.sch g b m) s
    = .next (((s.addOut s.myCtx (.vault l.tile l.bank true) 1).2.send s.cur.tile l.tile 0 s.myCtx (vaultStream s.myCtx a)
        (.sch l (s.readX b) s.nextId)).endRescue l s.myCtx) := by
  simp only [exec]
  refine run_ok hi ?_
  simp only [hea, Bind.bind, Except.bind, hd, hh, check_true, Bool.false_eq_true, if_false]
  rfl

theorem exec_sch_unheld (hh : s.holds l s.myCtx = false) : exec (.sch g b m) s = .next (s.raise 0x0C a) := by
  simp only [exec]
  refine run_trap hi ?_
  simp only [hea, Bind.bind, Except.bind, hh, check_false]
  rfl

end

end

namespace State

variable {s : State} {l : Loc} {k : Nat}

/-- The entries of a reservation table that are of a word. -/
def ofWord (l : Loc) (r : Resv) : Bool := r.bank == l.bank && r.off == l.off

theorem resvOf_congr {t : State} (h : t.tiles = s.tiles) : t.resvOf l = s.resvOf l := by simp only [resvOf, tile, h]

/-- The table of a word's tile with the queue of its entry replaced, and without the entry where none is left in it. -/
def withQueue (l : Loc) (q : List Nat) (rs : List Resv) : List Resv :=
  if q.isEmpty then rs.filter (fun r => !ofWord l r) else rs.map (fun r => if ofWord l r then { r with queue := q } else r)

theorem find?_withQueue {r : Resv} {rs : List Resv} (q : List Nat) (hr : rs.find? (ofWord l) = some r) :
    (withQueue l q rs).find? (ofWord l) = if q = [] then none else some { r with queue := q } := by
  cases q with
  | nil =>
    rw [if_pos rfl, List.find?_eq_none]
    intro x hx
    simpa using (List.mem_filter.mp hx).2
  | cons n tl =>
    have same : ofWord l ∘ (fun r : Resv => if ofWord l r then { r with queue := n :: tl } else r) = ofWord l := by
      funext x
      simp only [Function.comp]
      split
      · rfl
      · rfl
    have word : ofWord l r = true := List.find?_some hr
    rw [withQueue, if_neg (by simp), List.find?_map, same, hr, if_neg (by simp), Option.map_some, if_pos word]

theorem leaveResv_tiles {r : Resv} (hr : s.resvOf l = some r) : (s.leaveResv l k).tiles
    = (s.modTile l.tile (fun t => { t with resv := withQueue l (r.queue.erase k) t.resv })).tiles := by
  simp only [leaveResv, hr]
  split
  · split
    · exact State.logEv_tiles ..
    · rfl
  · rfl

/-- The queue of a word after its holder has left it (R311). -/
theorem leaveResv_resvOf {r : Resv} {rest : List Nat} (hr : s.resvOf l = some r) (hq : r.queue = k :: rest) :
    (s.leaveResv l k).resvOf l = if rest = [] then none else some { r with queue := rest } := by
  have erased : r.queue.erase k = rest := by rw [hq, List.erase_cons_head]
  rw [resvOf_congr (leaveResv_tiles hr), erased, resvOf, tile_modTile]
  exact find?_withQueue rest hr

/-- When the holder of a word leaves, the next in its queue holds it (R311, R312). -/
theorem leaveResv_holderOf {r : Resv} {rest : List Nat} (hr : s.resvOf l = some r) (hq : r.queue = k :: rest) :
    (s.leaveResv l k).holderOf l = rest.head? := by
  rw [holderOf, leaveResv_resvOf hr hq]
  cases rest <;> rfl

end State

/-- Settles O25: the values operation by operation, each request by where the word lies, and a word's queue by who is left in it. -/
theorem atomics : Obligations.Atomics := by
  refine ⟨?_, ?_, ?_⟩
  · intro s g ty op d b m a l hi hty _ n old x num new hea hd hl hb lands
    have value : new = amoValue op ty old x (s.readX d).toNat := by cases op <;> rfl
    rw [value]
    exact ⟨exec_amo_direct hi hty hea hd hl hb, exec_red_direct hi hty hea hd hl hb⟩
  · intro s g ty op d b m a l hi hty hea haway
    refine ⟨fun v hv => exec_amo_answered hi hea haway hty hv, ?_, ?_, ?_, ?_⟩
    · rintro w rfl
      exact exec_red_elsewhere hi hea (haway.resolve_left (by simp))
    · rintro w rfl hnone
      exact exec_amo_elsewhere hi hea (haway.resolve_left (by simp)) hnone
    · rintro rfl hroom
      exact exec_red_far hi hea hroom
    · rintro rfl hnone hasked hroom
      exact exec_amo_far hi hea hroom hnone hasked
  · intro s g d b p m a l hi word
    refine ⟨fun hea => ?_, fun hea => ?_, fun r rest hr hq _ => State.leaveResv_holderOf hr hq⟩
    · exact ⟨exec_lrw_head hi hea, exec_lrw_queued hi hea, exec_lrw_full hi hea, exec_relq_direct hi hea, exec_lrw_elsewhere hi hea,
        exec_relq_elsewhere hi hea, exec_relq_unheld hi hea⟩
    · exact ⟨exec_sch_direct hi hea, exec_sch_elsewhere hi hea, exec_sch_unheld hi hea⟩

end Sys2Proof.Machine
end

section
/-! Reading at a bank (R150, R151, R154, R164): what a load or an immediate read that can complete returns, and what it leaves of the
thread's registers and of barriers. -/

namespace Sys2Proof.Machine

namespace State

variable {s u : State} {a : Word} {l : Loc} {n : Nat} {bs : List Byte}

/-- What a change of the thread's own context keeps of it, it keeps of the registers that the group in issue reads (R8, R48). -/
theorem view_modMe {α : Type} (p : Ctx → α) {f : Ctx → Ctx} (h : p (f s.me) = p s.me) : p (s.modMe f).view = p s.view := by
  have same : (s.modMe f).cur.old = s.cur.old := rfl
  rw [view, view, same, me_modMe]
  cases s.cur.old with
  | none => exact h
  | some c => rfl

theorem view_tookReply {α : Type} (p : Ctx → α) (h : ∀ c r r2 go go2 as,
    p { c with reply := r, reply2 := r2, goes := go, goes2 := go2, asked := as } = p c) : p s.tookReply.view = p s.view := by
  refine view_modMe p ?_
  split
  · exact h s.me s.me.reply none s.me.goes none s.me.asked
  · exact h s.me none s.me.reply2 none s.me.goes2 none

theorem overlay_tookReply : s.tookReply.overlay l bs = s.overlay l bs := by
  have crew : s.tookReply.view.crew = s.view.crew := view_tookReply Ctx.crew (fun _ _ _ _ _ _ => rfl)
  rw [overlay, overlay, crew]
  rfl

theorem readX_tookReply (r : BitVec 6) : s.tookReply.readX r = s.readX r := by
  have regs : s.tookReply.view.x = s.view.x := view_tookReply Ctx.x (fun _ _ _ _ _ _ => rfl)
  rw [readX, readX, regs]
  rfl

theorem takeReply_answered {v : BitVec 512} (h : s.answered? = some v) : s.takeReply = some (v, s.tookReply) := by
  rw [takeReply, h]
  rfl

/-- A load that can complete returns its bytes (R151, R154, R164). -/
theorem loadBytes_ready (h : s.LoadReady a l n bs u) : s.loadBytes a l n = .ok (bs, u) := by
  obtain ⟨hopen, ⟨hd, hb, rfl, rfl⟩ | ⟨hd, hfresh, v, hv, rfl, rfl⟩⟩ := h
  · simp only [loadBytes, hopen, hd, Bool.false_eq_true, if_false, if_true, takeBank_free hb]
    rfl
  · simp only [loadBytes, hopen, hd, hfresh, Bool.false_eq_true, if_false, if_true, takeReply_answered hv, overlay_tookReply]

/-- An immediate read that can complete returns the bytes of the bank (R144, R151). -/
theorem immRead_ready (h : s.ImmReady a l n bs u) : s.immRead a l n = .ok (bs, u) := by
  obtain ⟨hd, hb, rfl, rfl⟩ | ⟨hd, v, hv, rfl, rfl⟩ := h
  · simp only [immRead, hd, if_true, takeBank_free hb]
    rfl
  · simp only [immRead, hd, Bool.false_eq_true, if_false, takeReply_answered hv]

/-- It changes no barrier and no scalar register. -/
theorem ImmReady.keeps (h : s.ImmReady a l n bs u) : u.barrier l = s.barrier l ∧ ∀ r, u.readX r = s.readX r := by
  obtain ⟨-, -, -, rfl⟩ | ⟨-, -, -, -, rfl⟩ := h
  · exact ⟨rfl, fun _ => rfl⟩
  · exact ⟨rfl, readX_tookReply⟩

end State

end Sys2Proof.Machine
end

section
/-! The tensor table and the copy commands (O29): descriptors and entries, and the issue of a command into its queue (R119, R120, R128-R142). -/

namespace Sys2Proof.Machine

/-- W1 of a descriptor as the table holds it: valid, and writable where its segment is (R119, R120). -/
def latchedW1 (w : Word) (writable : Bool) : Word := w ||| BitVec.twoPow 64 48 ||| (if writable then BitVec.twoPow 64 49 else 0)

theorem latchedW1_eq (w : Word) (writable : Bool) :
    latchedW1 w writable = w ||| (1 <<< 48) ||| (if writable then 1 <<< 49 else 0) := by
  cases writable <;> rfl

theorem latchedW1_bits {w : Word} (hw : w.extractLsb' 48 16 = 0) (writable : Bool) :
    (latchedW1 w writable).getLsbD 48 = true ∧ (latchedW1 w writable).getLsbD 49 = writable
      ∧ (latchedW1 w writable).extractLsb' 0 48 = w.extractLsb' 0 48 := by
  have clear : w[49] = false := by simpa using congrArg (BitVec.getLsbD · 1) hw
  refine ⟨?_, ?_, ?_⟩
  · simp [latchedW1]
  · cases writable <;> simp [latchedW1, clear]
  · ext i hi
    have below : 48 ≠ i ∧ 49 ≠ i := by omega
    cases writable <;> simp [latchedW1, below]

/-- A descriptor that passes its checks leaves the bits of W1 clear that the table sets (R119). -/
theorem descOk_w1 {e : TsEnt} (h : descOk e = true) : e.w1.extractLsb' 48 16 = 0 := by
  cases clear : e.w1.extractLsb' 48 16 == 0 with
  | true => exact eq_of_beq clear
  | false => simp only [descOk, clear, Bool.false_and, Bool.false_eq_true] at h

section
variable {s : State} {g : Guard} (hi : s.Issues g)
include hi

theorem exec_tget (d a : BitVec 6) (w : BitVec 3) :
    exec (.tget g d a w) s = .next (s.writeX d ((s.ent s.myCore a).word w.toNat) 8) := by
  simp only [exec]
  exact run_ok hi rfl

theorem exec_tdef {d : BitVec 6} {m : MemOp} {a : Word} {l : Loc} {bs : List Byte} {u : State} {sg : Seg} {e : TsEnt}
    (hea : s.vaultEA m 64 [1, 2] 4 false = .ok (a, l)) (hload : s.LoadReady a l 64 bs u) (he : TsEnt.ofBytes bs = e)
    (hok : descOk e = true) (hcover : u.coverCheck e.base (tensorSpan e).1 (tensorSpan e).2 = .ok sg)
    (hscales : e.scl ≠ 0 → ∃ sg2, u.coverCheck e.sbase e.sbase.toNat
      (e.sbase.toNat + (e.dim 1 + 1) * (e.dim 2 + 1) * (e.dim 3 + 1) * e.rowScales - 1 : Nat) = .ok sg2) :
    exec (.tdef g d m) s = .next (u.setEntry u.myCore d { e with w1 := latchedW1 e.w1 (sg.attr.getLsbD 5) }) := by
  have ea : s.vaultEA m 64 [kAlias, kVault] rR false = .ok (a, l) := hea
  simp only [exec]
  refine run_ok hi ?_
  simp only [ea, State.loadBytes_ready hload, Bind.bind, Except.bind, he, hok, check_true, hcover]
  by_cases hscl : e.scl = 0
  · simp only [hscl, if_true, latchedW1_eq]
    rfl
  · obtain ⟨sg2, hs⟩ := hscales hscl
    simp only [hscl, if_false, hs, latchedW1_eq]
    rfl

section
variable {d a : BitVec 6} {imm : BitVec 32}

/-- TSEQ, TSEQ.add and TSEQ.bar of an entry that is not valid (R138). -/
theorem exec_tseq_invalid (h : (s.ent s.myCore d).w1.getLsbD 48 = false) : exec (.tseq g d a imm) s = .next (s.raise 0x0C 0)
    ∧ exec (.tseqAdd g d a imm) s = .next (s.raise 0x0C 0) ∧ exec (.tseqBar g d a imm) s = .next (s.raise 0x0C 0) := by
  have stops (ok : State → Bool) (f : State → TsEnt → TsEnt) : tseqWith g d s ok f = .next (s.raise 0x0C 0) := by
    refine run_trap hi ?_
    simp only [TsEnt.vld, h, check_false, Bind.bind, Except.bind]
    rfl
  simp only [exec]
  exact ⟨stops .., stops .., stops ..⟩

theorem tseqWith_valid (h : (s.ent s.myCore d).w1.getLsbD 48 = true) {ok : State → Bool} (hok : ok s = true)
    (f : State → TsEnt → TsEnt) : tseqWith g d s ok f = .next (s.setEntry s.myCore d (f s (s.ent s.myCore d))) := by
  refine run_ok hi ?_
  simp only [TsEnt.vld, h, hok, check_true, Bind.bind, Except.bind]

section
variable (h : (s.ent s.myCore d).w1.getLsbD 48 = true)
include h

theorem exec_tseq : exec (.tseq g d a imm) s = .next (s.setEntry s.myCore d
    (withSeq (s.ent s.myCore d) ((s.readX a + imm.signExtend 64).setWidth 16))) := by
  simp only [exec]
  exact tseqWith_valid hi h rfl _

theorem exec_tseqAdd : exec (.tseqAdd g d a imm) s = .next (s.setEntry s.myCore d
    (withSeq (s.ent s.myCore d) ((s.ent s.myCore d).seq + (s.readX a + imm.signExtend 64).setWidth 16))) := by
  simp only [exec]
  exact tseqWith_valid hi h rfl _

theorem exec_tseqBar (hbar : s.readX a = 0 ∨ spaceOf (s.readX a) ≤ 1 ∧ (s.readX a).toNat % 16 = 0) :
    exec (.tseqBar g d a imm) s = .next (s.setEntry s.myCore d
      (withSeq { s.ent s.myCore d with bar := s.readX a } (imm.setWidth 16))) := by
  simp only [exec]
  exact tseqWith_valid hi h (by simpa using hbar) _

end

end

end

/-- W4 with a new sequence number: the other fields stay (R115, R138). -/
theorem withSeq_fields (e : TsEnt) (q : BitVec 16) : (withSeq e q).w4.extractLsb' 32 16 = q
    ∧ (withSeq e q).w4.extractLsb' 0 32 = e.w4.extractLsb' 0 32 ∧ (withSeq e q).w4.extractLsb' 48 16 = e.w4.extractLsb' 48 16 := by
  have above {i n : Nat} (h : 32 ≤ i) : (withSeq e q).w4.extractLsb' i n = (e.w4.extractLsb' 48 16 ++ q).extractLsb' (i - 32) n :=
    BitVec.extractLsb'_append_eq_of_le h
  exact ⟨(above (Nat.le_refl 32)).trans BitVec.extractLsb'_append_eq_right, BitVec.extractLsb'_append_eq_right,
    (above (by omega)).trans BitVec.extractLsb'_append_eq_left⟩


/-! The issue of a command (R129, R131, R157). -/

section
variable {s t : State} {c : Cmd} {mine : List (Nat × Nat)}

theorem State.enqueue_queues (h : s.Queues c mine t) : s.enqueue c mine = .ok t := by
  obtain ⟨room, rfl⟩ := h
  cases htimed : c.start.isSome <;> cases mine <;> simp_all [State.enqueue, Nat.not_le.mpr]

theorem State.rsvCheck_free (h : s.rsvConflict mine = none) : s.rsvCheck mine = .ok () := by simp only [State.rsvCheck, h]

end

section
variable {s t : State} {g : Guard} {edge tm : Bool} {d a b c : BitVec 6} {x : BitVec 16} {imm : BitVec 32} {bar : Loc}
  {start : Option Nat} (hi : s.Issues g)
include hi

section
variable {ed ea : TsEnt} {ver verW : Option Nat} (hed : s.named d false = .ok ed) (hea : s.named a false = .ok ea) (hwr : ed.wr = true)
  (hbar : s.barCheck (s.readX c) (s.destTile ed.base) = .ok bar) (hver : s.entrySlot ea false = .ok ver)
  (hverW : s.entrySlot ed true = .ok verW) (hstart : s.lateChecks tm imm ea = .ok start)
include hed hea hwr hbar hver hverW hstart

/-- COPY with panel p and tensor t0 (R131, R140). -/
theorem exec_copy {out : Bool} {p t0 : TsEnt} (hpt : (if out then (ea, ed) else (ed, ea)) = (p, t0))
    (hspans : s.attachedAll (panelSpans p ++ windowSpans p t0 (s.readX b)) = .ok ()) (hshape : copyShape p t0 edge (s.readX b) = true)
    {cmd : Cmd} (hcmd : cmd = { s.newCmd (.copy p t0 out edge (s.readX b)) (some bar) x
      (s.refsOf (panelSpans p ++ windowSpans p t0 (s.readX b)) bar) with ver, verW, start })
    {mine : List (Nat × Nat)}
    (hmine : mine = if cmd.exact then copyRsv (start.getD 0) (s.exactMoves cmd p t0 out (s.readX b)) else [])
    (hfree : s.rsvConflict mine = none) (hq : s.Queues cmd mine t) : exec (.copy g edge out tm d a b c x imm) s = .next t := by
  subst hmine hcmd
  simp only [exec]
  refine run_ok hi ?_
  simp only [hed, hea, hwr, hpt, hspans, hbar, hshape, hver, hverW, hstart, check_true, Bind.bind, Except.bind, State.rsvCheck_free hfree]
  exact State.enqueue_queues hq

/-- GATH and SCAT with panel p and tensor t0 (R131, R141). -/
theorem gathIssue_queues {out : Bool} {p t0 : TsEnt} (hpt : (if out then (ea, ed) else (ed, ea)) = (p, t0))
    (hspans : s.attachedAll (panelSpans p ++ panelSpans t0) = .ok ()) (hshape : gathShape p t0 = true)
    (hlist : s.listCheck (s.readX b) (4 * (p.dim 1 + 1)) = .ok ()) (hatt : s.attachedAll [(s.readX b, 4 * (p.dim 1 + 1))] = .ok ())
    (hq : s.Queues { s.newCmd (.gath p t0 out edge (s.readX b)) (some bar) x
      (s.refsOf ((s.readX b, 4 * (p.dim 1 + 1)) :: (panelSpans p ++ panelSpans t0)) bar) with ver, verW, start } [] t) :
    runThread g s (gathIssue edge out tm d a b c x imm) = .next t := by
  refine run_ok hi ?_
  simp only [gathIssue, hed, hea, hwr, hpt, hspans, hbar, hshape, hlist, hatt, hver, hverW, hstart, check_true, Bind.bind, Except.bind]
  exact State.enqueue_queues hq

end

/-- PUBL (R142). -/
theorem exec_publ (hbar : s.barCheck (s.readX c) s.cur.tile = .ok bar)
    (htimed : tm = true → ∃ v, s.timedCheck imm = .ok v ∧ start = some v) (hplain : tm = false → start = none)
    (hq : s.Queues { s.newCmd (.publ (s.readX a) (s.readX b)) (some bar) x [(bar.tile, bar.bank)] with start } [] t) :
    exec (.publ g tm a b c x imm) s = .next t := by
  simp only [exec]
  refine run_ok hi ?_
  cases tm with
  | true =>
    obtain ⟨v, hv, rfl⟩ := htimed rfl
    simp only [hbar, hv, if_true, Bind.bind, Except.bind]
    exact State.enqueue_queues hq
  | false =>
    obtain rfl := hplain rfl
    simp only [hbar, Bool.false_eq_true, if_false, Bind.bind, Except.bind]
    exact State.enqueue_queues hq

end

/-- Settles O29: the entry after each instruction of the table, and each command by the checks of its issue in their order. -/
theorem tensorsAndCommands : Obligations.TensorsAndCommands := by
  refine ⟨?_, ?_⟩
  · intro s g d a w imm m hi
    refine ⟨exec_tget hi d a w, ?_, ?_⟩
    · intro ad l bs u sg hea hload e hok hcover hscales
      obtain ⟨valid, writable, rest⟩ := latchedW1_bits (descOk_w1 hok) (sg.attr.getLsbD 5)
      exact ⟨_, exec_tdef hi hea hload rfl hok hcover hscales, rfl, valid, writable, rest⟩
    · intro e latches v
      refine ⟨fun valid => ?_, exec_tseq_invalid hi⟩
      have latched {i : Instr} {q : BitVec 16} {bar : Word} (h : exec i s = .next (s.setEntry s.myCore d (withSeq { e with bar } q))) :
          latches i q bar := by
        obtain ⟨seq, low, high⟩ := withSeq_fields { e with bar } q
        exact ⟨_, h, seq, rfl, low, high, rfl⟩
      exact ⟨latched (exec_tseq hi valid), latched (exec_tseqAdd hi valid), fun hbar => latched (exec_tseqBar hi valid hbar)⟩
  · intro s t g edge out tm d a b c x imm ed ea bar ver verW start hi list listBytes
    refine ⟨fun hed hea hwr hbar hver hverW hstart => ⟨?_, ?_⟩, exec_publ hi⟩
    · intro p t0 spans cmd mine hspans hshape hfree hq
      refine exec_copy hi hed hea hwr hbar hver hverW hstart ?_ hspans hshape rfl rfl hfree hq
      cases out <;> rfl
    · intro sc p t0 spans hspans hshape hlist hatt hq
      have issued := gathIssue_queues (out := sc) hi hed hea hwr hbar hver hverW hstart (by cases sc <;> rfl) hspans hshape hlist hatt hq
      cases sc
      · exact issued
      · exact issued

end Sys2Proof.Machine
end

section
/-! Arrival barriers (O30): a barrier read back after it has been written, BARI, BARW and BARQ (R123, R124, R143, R144). -/

namespace Sys2Proof.Machine

theorem leNat_leBytes (n : Nat) : ∀ v, leNat (leBytes n v) = v % 2 ^ (8 * n) := by
  induction n with
  | zero => intro v; simp [leBytes, leNat, Nat.mod_one]
  | succ n ih =>
    intro v
    have cons : leBytes (n + 1) v = BitVec.ofNat 8 v :: leBytes n (v >>> 8) := by
      simp only [leBytes, List.range_succ_eq_map, List.map_cons, List.map_map]
      congr 1
      refine List.map_congr_left fun i _ => ?_
      simp only [Function.comp, ← Nat.shiftRight_add]
      congr 2
      omega
    have split : 2 ^ (8 * (n + 1)) = 256 * 2 ^ (8 * n) := by rw [Nat.mul_succ, Nat.pow_add]; omega
    rw [cons, leNat, List.foldr_cons, ← leNat, ih, split, Nat.mod_mul, Nat.shiftRight_eq_div_pow, BitVec.toNat_ofNat]
    exact (Nat.add_comm _ _).trans (congrArg _ (Nat.mul_comm _ _))

@[simp] theorem length_leBytes (n v : Nat) : (leBytes n v).length = n := by simp [leBytes]

/-- PRK and PH in their byte of a barrier's record (R123). -/
theorem barrierFlags_bits (prk ph : Bool) : (0#6 ++ BitVec.ofBool prk ++ BitVec.ofBool ph)[1] = prk
    ∧ (0#6 ++ BitVec.ofBool prk ++ BitVec.ofBool ph)[0] = ph := by
  cases prk <;> cases ph <;> decide

/-- The record of a barrier holds its fields (R123). -/
theorem Barrier.ofBytes_bytes {b : Barrier} (hexp : b.exp < 2 ^ 32) (hpend : b.pend < 2 ^ 32) : Barrier.ofBytes b.bytes = b := by
  have past {n k : Nat} (v : Nat) (h : n ≤ k) : (leBytes n v).drop k = [] := List.drop_eq_nil_of_le (by simpa using h)
  have exp : b.exp % 4294967296 = b.exp := Nat.mod_eq_of_lt hexp
  have pend : b.pend % 4294967296 = b.pend := Nat.mod_eq_of_lt hpend
  have tag : b.tag.toNat % 65536 = b.tag.toNat := Nat.mod_eq_of_lt b.tag.isLt
  have fadr : b.fadr.toNat % 4294967296 = b.fadr.toNat := Nat.mod_eq_of_lt b.fadr.isLt
  simp [Barrier.ofBytes, Barrier.bytes, List.drop_append, leNat_leBytes, past, barrierFlags_bits, exp, pend, tag, fadr]

theorem Barrier.length_bytes (b : Barrier) : b.bytes.length = 16 := by simp [Barrier.bytes]

namespace State

variable {s : State} {l : Loc}

theorem logEv_rebind (t : Nat) (e : LogEv) (n : Nat) : (s.logEv t e n).rebind = s.rebind := by
  simp only [logEv]
  (repeat' split) <;> rfl

theorem completeX_rebind (k : Nat) (d : BitVec 6) (v : Word) (lat : Nat) : (s.completeX k d v lat).rebind = s.rebind := by
  simp only [completeX, putX]
  (repeat' split) <;> rfl

theorem logWake_rebind (k : Nat) (code : BitVec 6) : (s.logWake k code).rebind = s.rebind := by
  simp only [logWake]
  split
  · exact logEv_rebind ..
  · rfl

theorem wakeBit_rebind (k : Nat) : (s.wakeBit k).rebind = s.rebind := by
  delta wakeBit
  dsimp only
  split
  · rfl
  · generalize (s.ctx k).wait = w
    cases w <;> simp only [logWake_rebind, completeX_rebind] <;> rfl

/-- Waking the owners of watches leaves the bytes and where each vault lies. -/
theorem watchWake_vaults (n : Nat) (en : BitVec 64) :
    (s.watchWake l n en).mem = s.mem ∧ (s.watchWake l n en).rebind = s.rebind :=
  ⟨foldl_keeps State.mem _ (fun s k => wakeBit_mem s k) .., foldl_keeps State.rebind _ (fun _ k => wakeBit_rebind k) ..⟩

theorem writeLoc_rebind (bs : List Byte) : (s.writeLoc l bs).rebind = s.rebind := by
  simp only [writeLoc]
  split <;> rfl

/-- What is read of a vault depends on its bytes and on where each vault lies. -/
theorem readLoc_congr {t : State} (hm : t.mem = s.mem) (hr : t.rebind = s.rebind) (n : Nat) : t.readLoc l n = s.readLoc l n := by
  simp only [readLoc, locKey, siteOf_congr hr, hm]

/-- A write to a vault, read back. -/
theorem readLoc_writeLoc (bs : List Byte) : (s.writeLoc l bs).readLoc l bs.length = bs := by
  have key : (s.writeLoc l bs).locKey l = s.locKey l := by simp only [locKey, siteOf_congr (writeLoc_rebind bs)]
  refine List.ext_getElem (by simp [readLoc, memReadN]) fun i _ hi => ?_
  simp only [readLoc, memReadN, List.getElem_map, List.getElem_range, key, memRead_writeLoc]
  rw [if_pos (by omega), Nat.add_sub_cancel_left, List.getD_eq_getElem?_getD, List.getElem?_eq_getElem hi, Option.getD_some]

/-- BARI (R144): the count and the error fields of the barrier, the rest kept. -/
theorem initBar_barrier {n : Nat} (hn : n < 2 ^ 32) : (s.initBar l n).barrier l = (s.barrier l).init n := by
  obtain ⟨hm, hr⟩ := watchWake_vaults (s := s.setBarrier l ((s.barrier l).init n)) (l := l) 16 (enBytes 16)
  have back := readLoc_writeLoc (s := s) (l := l) ((s.barrier l).init n).bytes
  rw [Barrier.length_bytes] at back
  rw [initBar, barrier, readLoc_congr hm hr, setBarrier, back]
  exact Barrier.ofBytes_bytes hn hn

theorem initBar_mem {n k : Nat} (h : k < s.locKey l ∨ s.locKey l + 16 ≤ k) : memRead (s.initBar l n).mem k = memRead s.mem k := by
  rw [initBar, (watchWake_vaults 16 _).1, setBarrier, memRead_writeLoc, Barrier.length_bytes, if_neg (by omega)]

end State

section
variable {s : State} {g : Guard} {f : State → Act} (hi : s.Issues g)
include hi

/-- A trap whose record says more (R388). -/
theorem run_note {c : BitVec 8} {a : Word} {asyn : Bool} {holder : Option (Nat × Nat)} (hf : f s = .error (.note c a asyn holder)) :
    runThread g s f = .next ((s.noteTrap asyn holder).raise c a) := by
  obtain ⟨hused, hguard, -⟩ := hi
  simp [runThread, hused, hguard, hf]

/-- An instruction that falls asleep (R331). -/
theorem run_sleep {w : Wait} (hf : f s = .error (.sleep w)) :
    runThread g s f = .next ((s.modMe (fun c => { c with wait := w })).setRes .asleep) := by
  obtain ⟨hused, hguard, -⟩ := hi
  simp [runThread, hused, hguard, hf]

end

section
variable {s u : State} {g : Guard} {d b : BitVec 6} {m : MemOp} {a : Word} {l : Loc} {bs : List Byte} (hi : s.Issues g)
include hi

theorem exec_bari (hea : s.vaultEA m 16 [1, 2] 5 true = .ok (a, l)) (htile : l.tile = s.cur.tile)
    (hpos : 0 < (s.readX b).toNat % 2 ^ 32) (hmax : (s.readX b).toNat % 2 ^ 32 ≤ 2 ^ 31) (hd : s.isDirect a = true)
    (hl : s.linesHeld l 16 = false) (hb : s.BankFree l.bank) :
    exec (.bari g b m) s = .next ((s.grantBank s.cur.tile l.bank).initBar l ((s.readX b).toNat % 2 ^ 32)) := by
  have ea : s.vaultEA m 16 [kAlias, kVault] rW true = .ok (a, l) := hea
  have count : ((s.readX b).extractLsb' 0 32).toNat = (s.readX b).toNat % 2 ^ 32 := by simp
  have inRange : ((s.readX b).toNat % 2 ^ 32 != 0 && decide ((s.readX b).toNat % 2 ^ 32 ≤ 2 ^ 31)) = true := by
    simp only [Bool.and_eq_true, bne_iff_ne, ne_eq, decide_eq_true_eq]
    omega
  simp only [exec]
  refine run_ok hi ?_
  simp only [ea, Bind.bind, Except.bind, htile, beq_self_eq_true, count, inRange, check_true, hd, if_true, State.takeWrite_free hl hb]

section
variable (hea : s.vaultEA m 16 [1, 2] 4 false = .ok (a, l)) (hready : s.ImmReady a l 16 bs u)
include hea hready

theorem exec_barq : exec (.barq g d m) s = .next (u.writeX d (Barrier.ofBytes bs).status 8) := by
  have ea : s.vaultEA m 16 [kAlias, kVault] rR false = .ok (a, l) := hea
  simp only [exec]
  refine run_ok hi ?_
  simp only [ea, Bind.bind, Except.bind, State.immRead_ready hready]

section
variable (htile : l.tile = s.cur.tile)
include htile
omit hi

/-- BARW when its read can complete: by the phase, the error and the parked bit of the barrier (R144). -/
theorem barw_ready (nf : Bool) : barw nf d b m s =
    if (s.barrier l).ph = (s.readX b).getLsbD 0 then
      if (s.barrier l).err ≠ 0 ∧ nf = false then .error (.note (farCause (s.barrier l).err) a true none)
      else .ok (u.writeX d (s.barrier l).status 8)
    else .error (.sleep (if (s.barrier l).prk then .parkedBarw l else .barw l)) := by
  have ea : s.vaultEA m 16 [kAlias, kVault] rR false = .ok (a, l) := hea
  obtain ⟨same, regs⟩ := hready.keeps
  simp only [barw, ea, Bind.bind, Except.bind, htile, beq_self_eq_true, check_true, State.immRead_ready hready, same, regs, beq_iff_eq]
  split
  · cases nf <;> simp
  · split <;> rfl

end

end

end

/-- The cause of a barrier error (R95, R144). -/
theorem farCause_eq (err : BitVec 8) : farCause err = if err = 9 ∨ err = 10 then 0x17 else 0x14 := by
  simp [farCause, cPeer, cCopy]

/-- Settles O30: BARI by the barrier it writes, BARW and BARQ by the status word they read. -/
theorem barriers : Obligations.Barriers := by
  intro s g d b m a l hi
  refine ⟨?_, fun hea bs u hready => ⟨exec_barq hi hea hready, fun htile => ?_⟩⟩
  · intro hea htile n hpos hmax hd hl hb
    exact ⟨_, exec_bari hi hea htile hpos hmax hd hl hb, State.initBar_barrier (by omega), fun k hk => State.initBar_mem hk⟩
  · refine ⟨fun hph => ⟨?_, fun herr => ?_, fun herr => ?_⟩, fun hph => ?_⟩
    · exact run_ok hi (by rw [barw_ready hea hready htile, if_pos hph, if_neg (by simp)])
    · exact run_ok hi (by rw [barw_ready hea hready htile, if_pos hph, if_neg (fun h => h.1 herr)])
    · have stops : barw false d b m s = _ := barw_ready hea hready htile false
      rw [if_pos hph, if_pos ⟨herr, rfl⟩, farCause_eq] at stops
      exact run_note hi stops
    · have stops (nf : Bool) : barw nf d b m s = _ := barw_ready hea hready htile nf
      simp only [if_neg hph] at stops
      exact ⟨run_sleep hi (stops false), run_sleep hi (stops true)⟩

end Sys2Proof.Machine
end

section
/-! The copy engine (O42): the start of timed and untimed commands, the moves of a running command, and arrivals at barriers (R122, R125,
R129-R133, R142, R342). -/

namespace Sys2Proof.Machine

/-! Timed commands (R122, R130, R342). -/

/-- A command of a core's timing queue falls due: its start vc is reached, and the tile of its crew is at no stop, cut, halt or close
(R130, R296, R399, R416). -/
structure State.FallsDue (s : State) (core i w : Nat) (c : Cmd) : Prop where
  queued : (s.core core).tq[i]? = some c
  crew : (s.tile (tileOfCore core)).crew = some w
  reached : c.start.getD 0 ≤ (s.tile (tileOfCore core)).vcc
  running : (s.crew w).st = .running
  moving : (s.tile (tileOfCore core)).halted = false
  noCut : dueCut (s.crew w) (s.tile (tileOfCore core)).vcc = false
  noCapture : (s.tile (tileOfCore core)).capture = 0
  noHalt : mustHalt (s.crew w) (s.tile (tileOfCore core)).vcc = false
  noReplayEnd : atStop (s.tile (tileOfCore core)).vcc (s.crew w).replayTo = false
  noClose : atStop (s.tile (tileOfCore core)).vcc (s.crew w).closing = false
  mayStart : c.kind = .phase ∨ s.mayClose w (s.tile (tileOfCore core)).vcc = false

namespace State

/-- A tile that stood still for a command does so no more. -/
def unstall (s : State) (t id : Nat) : State :=
  s.modTile t (fun x => { x with stall := if x.stall = some id then none else x.stall })

theorem unstall_beq (s : State) (t id : Nat) :
    s.modTile t (fun x => { x with stall := if x.stall == some id then none else x.stall }) = s.unstall t id := by
  simp only [unstall, beq_iff_eq]

/-- What a due command leaves by how it fares (R122, R251, R342). -/
def afterStart (s : State) (core : Nat) (c : Cmd) (elastic : Bool) : StartOut → State
  | .start u =>
    let u := u.modCore core (fun k => { k with tq := k.tq.filter (fun q => q.id != c.id) })
    (if c.exact || (match c.kind with | .mmat _ => true | _ => false) then u else u.dropCmd core c).unstall (tileOfCore core) c.id
  | .missing =>
    if elastic then s.modTile (tileOfCore core) (fun x => { x with stall := some c.id })
    else (s.dropCmd core c).timedFault c 0x0B 0 (startAddr c)
  | .schedule _ => ((s.dropCmd core c).timedFault c (if elastic then 0x0A else 0x0B) 0 (startAddr c)).unstall (tileOfCore core) c.id
  | .format => ((s.dropCmd core c).timedFault c 0x0C 0 0).unstall (tileOfCore core) c.id
  | .err code a =>
    ((s.dropCmd core c).timedFault c (if code = 9 ∨ code = 10 then 0x17 else 0x14) code a).unstall (tileOfCore core) c.id

end State

section
variable {s : State} {core i w : Nat} {c : Cmd}

theorem execTimedCommandStart_due (h : s.FallsDue core i w c) :
    execTimedCommandStart core i s = .next (s.afterStart core c (s.crew w).el (s.timedOut core c)) := by
  obtain ⟨queued, crew, reached, running, moving, noCut, noCapture, noHalt, noReplayEnd, noClose, mayStart⟩ := h
  have startable : (c.kind != .phase && s.mayClose w (s.tile (tileOfCore core)).vcc) = false := by
    rcases mayStart with h | h <;> simp [h]
  simp only [execTimedCommandStart, queued, crew, running, moving, noCut, noCapture, noHalt, noReplayEnd, noClose, startable,
    Nat.not_lt.mpr reached, decide_false, bne_self_eq_false, Nat.lt_irrefl, Bool.or_false, Bool.false_eq_true, if_false,
    State.unstall_beq, farCause_eq]
  cases s.timedOut core c with
  | start u | schedule a | format | err code a => rfl
  | missing => cases (s.crew w).el <;> rfl

/-- With every tag in place a command other than LNPUSH.t starts, but for an MMAT while the matrix engine is taken (R122, R251). -/
theorem timedOut_starts (htag : s.firstTag (tileOfCore core) c (timedSources c (s.core core).mtq) = none)
    (hpush : ∀ dir link v, c.kind ≠ .lnpush dir link v) (hfree : (∀ op, c.kind ≠ .mmat op) ∨ (s.core core).mrun = none) :
    s.timedOut core c = .start (s.startCmd core c) := by
  simp only [State.timedOut, htag]
  split
  · next dir link v hk => exact absurd hk (hpush dir link v)
  · next op hk => simp [hfree.resolve_left (fun h => h op hk)]
  · rfl

theorem timedOut_waits (htag : s.firstTag (tileOfCore core) c (timedSources c (s.core core).mtq) = none) {op : Nat}
    (hop : c.kind = .mmat op) (htaken : (s.core core).mrun ≠ none) : s.timedOut core c = .missing := by
  simp [State.timedOut, htag, hop, Option.isSome_iff_ne_none.mpr htaken]

end

/-! Untimed commands (R129, R250). -/

section
variable {s : State} {core : Nat}

/-- Outside a replay an untimed start is recorded (R250). -/
theorem State.replayStart_recorded (h : s.replaying (tileOfCore core) = false) (matrix : Bool) :
    s.replayStart core matrix = some (s.logEv (tileOfCore core) (.engine core matrix) 16) := by
  cases hcrew : (s.tile (tileOfCore core)).crew with
  | none => simp only [replayStart, logEv, hcrew]
  | some w => simp [replayStart, hcrew, h]

theorem execUntimedCommandStart_starts {c : Cmd} {rest : List Cmd} (hq : (s.core core).uq = c :: rest)
    (hturn : s.nextUntimed (tileOfCore core) = some core) (hmoving : (s.tile (tileOfCore core)).halted = false)
    (hreplay : s.replaying (tileOfCore core) = false) :
    execUntimedCommandStart core s = .next ((((s.logEv (tileOfCore core) (.engine core false) 16).modCore core
      (fun k => { k with uq := rest })).modTile (tileOfCore core) (fun x => { x with rr := (core + 1) % 4 })).startCmd core c) := by
  simp [execUntimedCommandStart, hq, hturn, hmoving, State.replayStart_recorded hreplay]

end

/-! One move of a running command (R125, R129, R130, R132, R133, R142). -/

section
variable {s : State} {core i : Nat} {r : Run} (hr : (s.core core).runs[i]? = some r)
  (hmoving : (s.tile (tileOfCore core)).halted = false)
include hr hmoving

theorem execEngineLineMove_run (h : r.cmd.exact = false ∨ State.exactLeft r = false) :
    execEngineLineMove core i s = .next (s.runMove core r) := by
  have plain : (r.cmd.exact && State.exactLeft r) = false := by rcases h with h | h <;> simp [h]
  simp [execEngineLineMove, hr, hmoving, plain]

section
variable (hexact : r.cmd.exact = true) (hleft : State.exactLeft r = true)
include hexact hleft

/-- A move of an exact COPY waits for its router cycle (R130, R157). -/
theorem execEngineLineMove_early
    (h : 2 * (s.tile (tileOfCore core)).vcc + (if s.slacks (tileOfCore core) then 0 else 2) ≤ 2 * r.cmd.start.getD 0 + r.made) :
    execEngineLineMove core i s = .next s := by
  have early : ¬2 * r.cmd.start.getD 0 + r.made
      < if s.slacks (tileOfCore core) then 2 * (s.tile (tileOfCore core)).vcc else 2 * (s.tile (tileOfCore core)).vcc + 2 := by
    split at h <;> simp_all
  simp [execEngineLineMove, hr, hmoving, hexact, hleft, early]

theorem execEngineLineMove_exact {q : Run}
    (h : 2 * r.cmd.start.getD 0 + r.made < 2 * (s.tile (tileOfCore core)).vcc + if s.slacks (tileOfCore core) then 0 else 2)
    (hfree : s.dstHeld (r.bufs.flatMap LineBuf.dst) = false)
    (horder : ∀ d ∈ s.pendingWrites core r 0, d ∉ r.bufs.flatMap LineBuf.dst)
    (hq : ((s.exactMove core r).core core).runs[i]? = some q) : execEngineLineMove core i s
      = .next (if State.exactLeft q then s.exactMove core r else (s.exactMove core r).runMove core q) := by
  have due : 2 * r.cmd.start.getD 0 + r.made
      < if s.slacks (tileOfCore core) then 2 * (s.tile (tileOfCore core)).vcc else 2 * (s.tile (tileOfCore core)).vcc + 2 := by
    split at h <;> simp_all
  have clear : (s.pendingWrites core r 0).any (fun d => (r.bufs.flatMap LineBuf.dst).contains d) = false := by
    rw [List.any_eq_false]
    intro d hd
    simpa using horder d hd
  simp only [execEngineLineMove, hr, hmoving, hexact, hleft, due, hfree, clear, hq]
  simp

end

end

namespace State

section
variable {s : State} {core : Nat} {r : Run}

theorem landable_nil (h : r.bufs = []) : s.landable core r = none := by simp [landable, h]

/-- A command that has failed arrives once more with its error, and ends (R125). -/
theorem runMove_failed {err : BitVec 8} {a : Word} (hf : r.fail = some (err, a)) (hm : r.moves = []) (hb : r.bufs = []) (ha : r.acks = []) :
    s.runMove core r = (s.cmdArrive r.cmd r.left err a).endRun core r.cmd.id := by
  simp [runMove, hf, landable_nil hb, hm, hb, ha]

theorem runMove_publ {va len : Word} (hf : r.fail = none) (hk : r.cmd.kind = .publ va len) :
    s.runMove core r = s.publMove core r va len := by simp [runMove, hf, hk]

section
variable (hk : ∀ va len, r.cmd.kind ≠ .publ va len)
include hk

theorem runMove_ends (hf : r.fail = none) (hm : r.moves = []) (hb : r.bufs = []) (ha : r.acks = []) : s.runMove core r = s.endRun core r.cmd.id := by
  rw [runMove]
  split
  · next va len _ h => exact absurd h (hk va len)
  · simp [landable_nil hb, hm, hb, ha, hf]

/-- A line that has come lands, unless four lines have moved in each router cycle of the rc (R129, R133). -/
theorem runMove_lands {b : LineBuf} {u : State} (hb : s.landable core r = some b) (hfree : s.dstHeld b.dst = false)
    (hu : s.useLines (tileOfCore core) (vaultBanks b.dst) = some u) : s.runMove core r =
      if s.lineRoom (tileOfCore core) then (u.takeLine (tileOfCore core)).landBuf core r b else s := by
  rw [runMove]
  split
  · next va len _ h => exact absurd h (hk va len)
  · cases hroom : s.lineRoom (tileOfCore core) <;> simp [hb, hfree, hu]

section
variable {m : Move} {rest : List Move} (hb : r.bufs = []) (hm : r.moves = m :: rest)
include hb hm

theorem runMove_reads {u : State} (hgood : badOf (m.src ++ m.dst) = none)
    (hu : s.useLines (tileOfCore core) (vaultBanks m.src) = some u) : s.runMove core r = u.issueMove core r m := by
  rw [runMove]
  split
  · next va len _ h => exact absurd h (hk va len)
  · simp only [landable_nil hb, hm, hgood, hu]

theorem runMove_stops {err : BitVec 8} {a : Word} (hbad : badOf (m.src ++ m.dst) = some (err, a)) :
    s.runMove core r = s.stopRun core r.cmd.id err a := by
  rw [runMove]
  split
  · next va len _ h => exact absurd h (hk va len)
  · simp only [landable_nil hb, hm, hbad]

end

end

end

end State

/-! Arrivals (R125). -/

theorem execBarrierArrival_arrives {s u : State} {n c : Nat} {p : Pkt} {b : Loc} {tag : BitVec 16} {err : BitVec 8} {a : BitVec 32}
    (h : s.Arrives n p u) (hb : p.body = .arrive b c tag err a) (hfree : u.linesHeld b 16 = false) (hturn : u.orderTurn p.ctx b = true) :
    execBarrierArrival n s = .next ((u.logOrder p.ctx b).arriveAt b c tag err a) := by
  rw [execBarrierArrival, arrived_of h]
  rotate_left
  · rw [hb]
  simp [hb, hfree, hturn]

/-- The landings of a context of no crew have no logged order (R301). -/
theorem State.order_crewless {u : State} {k : Nat} (h : (u.ctx k).crew = none) (l : Loc) :
    u.orderTurn k l = true ∧ u.logOrder k l = u := by simp [orderTurn, logOrder, h]

namespace Barrier

section
variable {b : Barrier} {n : Nat} (tag : BitVec 16) (a : BitVec 32)

theorem arrive_early (h : n < b.pend) : b.arrive n tag 0 a = ({ b with pend := b.pend - n }, false) := by
  simp [arrive, Nat.min_eq_left h.le, Nat.not_lt.mpr h.le, Nat.sub_eq_zero_iff_le, h]

theorem arrive_last (h : n = b.pend) : b.arrive n tag 0 a = ({ b with ph := !b.ph, tag, pend := b.exp }, true) := by
  simp [arrive, h]

/-- More arrivals than are expected are an error of the round (R125). -/
theorem arrive_over (h : b.pend < n) (herr : b.err = 0) :
    b.arrive n tag 0 a = ({ b with ph := !b.ph, tag, pend := b.exp, err := 0x10 }, true) := by
  simp [arrive, h, herr, Nat.min_eq_right h.le]

/-- The first error of a round stays (R125). -/
theorem arrive_error {err : BitVec 8} (herr : err ≠ 0) (h : n < b.pend) : b.arrive n tag err a = ({ b with
    pend := b.pend - n, err := if b.err = 0 then err else b.err, fadr := if b.err = 0 then a else b.fadr }, false) := by
  have failed : (err != 0) = true := by simpa using herr
  have more : ¬b.pend - n = 0 := by omega
  cases first : b.err == 0 <;>
    simp_all [arrive, Nat.min_eq_left h.le, Nat.not_lt.mpr h.le]

end

end Barrier

/-- Settles O42: a due command by how it fares, a running command by what is left of it, and an arrival by the pending count. -/
theorem engineEvents : Obligations.EngineEvents := by
  intro s
  refine ⟨?_, ?_, ?_, ?_, ?_, ?_⟩
  · intro core i c w hq hw t v hreached hrun hmoving hcut hcapture hhalt hreplay hclose hstart go a0 ended gone isMmat
    have fares : go = .next (s.afterStart core c (s.crew w).el (s.timedOut core c)) :=
      execTimedCommandStart_due ⟨hq, hw, hreached, hrun, hmoving, hcut, hcapture, hhalt, hreplay, hclose, hstart⟩
    refine ⟨fun u hu => ?_, fun hu => ?_, fun a hu => ?_, fun code a hu => ?_, fun hu => ?_, fun htag hpush => ?_⟩
    · rw [fares, hu]; rfl
    · rw [fares, hu]; rfl
    · rw [fares, hu]; rfl
    · rw [fares, hu]; rfl
    · rw [fares, hu]; rfl
    · have notPush : ∀ dir link v, c.kind ≠ .lnpush dir link v := fun dir link v h => by simp [h] at hpush
      refine ⟨fun hfree => timedOut_starts htag notPush (hfree.imp_left fun h op hop => by simp [isMmat, hop] at h), fun hmm htaken => ?_⟩
      cases hop : c.kind with
      | mmat op => exact timedOut_waits htag hop htaken
      | _ => simp [isMmat, hop] at hmm
  · exact fun core c rest hq hturn hmoving hreplay => execUntimedCommandStart_starts hq hturn hmoving hreplay
  · intro core i r hr hmoving go bound
    exact ⟨execEngineLineMove_run hr hmoving, fun hexact hleft => ⟨execEngineLineMove_early hr hmoving hexact hleft,
      fun hdue hfree horder q hq => execEngineLineMove_exact hr hmoving hexact hleft hdue hfree horder hq⟩⟩
  · intro core r go
    refine ⟨fun err a => State.runMove_failed, fun hf hk => ?_, fun va len => State.runMove_publ⟩
    have plain : ∀ va len, r.cmd.kind ≠ .publ va len := fun va len h => by simp [h] at hk
    refine ⟨State.runMove_ends plain hf, fun b u hb hfree hu => ?_, fun m rest hb hm => ?_⟩
    · have lands := State.runMove_lands plain hb hfree hu
      exact ⟨fun hroom => lands.trans (if_pos hroom), fun hroom => lands.trans (if_neg (by simp [hroom]))⟩
    · exact ⟨fun hgood u hu => State.runMove_reads plain hb hm hgood hu, fun err a hbad => State.runMove_stops plain hb hm hbad⟩
  · intro n p u b c tag err a h hb hfree hturn
    exact ⟨execBarrierArrival_arrives h hb hfree hturn, fun hcrew => State.order_crewless hcrew b⟩
  · exact fun b n tag a => ⟨Barrier.arrive_early tag a, Barrier.arrive_last tag a, Barrier.arrive_over tag a,
      fun err => Barrier.arrive_error tag a⟩

end Sys2Proof.Machine
end

section
/-! The vault (O44): requests, replies, immediate-class writes, acknowledgements and grants as they arrive, and the ends of GIVE and RECLAIM
(R144, R154, R155, R166, R170, R171, R301, R304, R310, R311). -/

namespace Sys2Proof.Machine

/-! Arrivals. -/

section
variable {s u : State} {n : Nat} {p : Pkt} (h : s.Arrives n p u)
include h

theorem execVaultRequestArrival_read {l : Loc} {len id : Nat} {w : State} (hb : p.body = .read l len id)
    (hu : u.useBank l.tile l.bank = some w) :
    execVaultRequestArrival n s = .next (w.answer p l.tile (.data (vecOfBytes (w.readLoc l len)) (some id))) := by
  simp [execVaultRequestArrival, arrived_of h (q := isRequest) (by rw [hb]; rfl), hb, hu]

theorem execVaultRequestArrival_amo {l : Loc} {op : AmoOp} {ty : Ty} {b cmp : Word} {id : Nat} {w : State}
    (hb : p.body = .amo l op ty b cmp false id) (hfree : u.linesHeld l 8 = false) (hturn : u.orderTurn p.ctx l = true)
    (hu : u.useBank l.tile l.bank = some w) :
    execVaultRequestArrival n s = .next (((w.logOrder p.ctx l).amoAt p.ctx l op ty b cmp).2.answer p l.tile
      (.data (BitVec.ofNat 512 ((w.logOrder p.ctx l).amoAt p.ctx l op ty b cmp).1) (some id))) := by
  simp [execVaultRequestArrival, arrived_of h (q := isRequest) (by rw [hb]; rfl), hb, hfree, hturn, hu]

theorem execVaultRequestArrival_relq {l : Loc} {id : Nat} (hb : p.body = .relq l id) (hturn : u.orderTurn p.ctx l = true) :
    execVaultRequestArrival n s = .next (((u.logOrder p.ctx l).leaveResv l p.ctx).answer p l.tile (.ack id)) := by
  simp [execVaultRequestArrival, arrived_of h (q := isRequest) (by rw [hb]; rfl), hb, hturn]

theorem execVaultRequestArrival_lrw {l : Loc} (hb : p.body = .lrw l) (hturn : u.orderTurn p.ctx l = true) :
    execVaultRequestArrival n s = .next ((u.logOrder p.ctx l).lrwAtBank p l) := by
  simp [execVaultRequestArrival, arrived_of h (q := isRequest) (by rw [hb]; rfl), hb, hturn]

/-- One acknowledgement less is awaited, where a reply acknowledges (R154, R304). -/
def State.replied (u : State) (k : Nat) (id : Option Nat) : State :=
  match id with
  | some i => u.ackOut (coreOfCtx k) i
  | none => u

section
variable {v : BitVec 512} {id : Option Nat} (hb : p.body = .data v id)
include hb

/-- A load's group issues again with the reply (R154). -/
theorem execVaultReplyArrival_load (hasked : ((u.replied p.ctx id).ctx p.ctx).asked = none)
    (hwait : ((u.replied p.ctx id).ctx p.ctx).wait = .load) :
    execVaultReplyArrival n s = .next ((((u.replied p.ctx id).modCtx p.ctx (fun c => c.answer v)).reissue p.ctx).settle) := by
  rw [execVaultReplyArrival, arrived_of h]
  rotate_left
  · rw [hb]
  cases id <;> simp_all [State.replied]

theorem execVaultReplyArrival_amo (hasked : ((u.replied p.ctx id).ctx p.ctx).asked = some .amo) :
    execVaultReplyArrival n s = .next ((u.replied p.ctx id).modCtx p.ctx (fun c => { c.answer v with wait := .none })).settle := by
  rw [execVaultReplyArrival, arrived_of h]
  rotate_left
  · rw [hb]
  cases id <;> simp_all [State.replied]

/-- A cell's answer reaches its context (R353). -/
theorem execVaultReplyArrival_knot {x : Wait} (hasked : ((u.replied p.ctx id).ctx p.ctx).asked = some x) (hx : x ≠ .amo)
    (hheld : s.knotHeld p.ctx v.toNat = false) :
    execVaultReplyArrival n s = .next ((u.replied p.ctx id).knotAnswer p.ctx v.toNat).settle := by
  rw [execVaultReplyArrival, arrived_of h]
  rotate_left
  · rw [hb]
  cases id <;> simp_all [State.replied]

end

section
variable {l : Loc} {w : State} (hfree : u.linesHeld l 32 = false) (hturn : u.orderTurn p.ctx l = true)
  (hu : u.useBank l.tile l.bank = some w)
include hfree hturn hu

/-- An immediate-class write that may land takes effect at its word, and is acknowledged (R166, R301). -/
theorem execImmediateWriteLanding_write {en : BitVec 64} {v : BitVec 512} {id : Nat} (hb : p.body = .write l en v id) :
    execImmediateWriteLanding n s = .next (((w.logOrder p.ctx l).landImm p.ctx l 64 en v).answer p l.tile (.ack id)) := by
  simp [execImmediateWriteLanding, arrived_of h (q := isImmediate) (by rw [hb]; rfl), hb, hfree, hturn, hu]

theorem execImmediateWriteLanding_bari {c : BitVec 32} {id : Nat} (hb : p.body = .bari l c id) :
    execImmediateWriteLanding n s = .next (((w.logOrder p.ctx l).initBar l c.toNat).answer p l.tile (.ack id)) := by
  simp [execImmediateWriteLanding, arrived_of h (q := isImmediate) (by rw [hb]; rfl), hb, hfree, hturn, hu]

theorem execImmediateWriteLanding_red {op : AmoOp} {ty : Ty} {b cmp : Word} {id : Nat} (hb : p.body = .amo l op ty b cmp true id) :
    execImmediateWriteLanding n s = .next (((w.logOrder p.ctx l).amoAt p.ctx l op ty b cmp).2.answer p l.tile (.ack id)) := by
  simp [execImmediateWriteLanding, arrived_of h (q := isImmediate) (by rw [hb]; rfl), hb, hfree, hturn, hu]

theorem execImmediateWriteLanding_sch {v : Word} {id : Nat} (hb : p.body = .sch l v id) :
    execImmediateWriteLanding n s = .next ((((w.logOrder p.ctx l).landImm p.ctx l 8 (enBytes 8) (v.setWidth 512)).leaveResv l p.ctx).answer
      p l.tile (.ack id)) := by
  simp [execImmediateWriteLanding, arrived_of h (q := isImmediate) (by rw [hb]; rfl), hb, hfree, hturn, hu]

theorem execImmediateWriteLanding_knot {op : KnotOp} {id : Nat} (hb : p.body = .knot l op id) :
    execImmediateWriteLanding n s = .next ((w.logOrder p.ctx l).knotAtBank p l op id) := by
  simp [execImmediateWriteLanding, arrived_of h (q := isImmediate) (by rw [hb]; rfl), hb, hfree, hturn, hu]

end

theorem execImmediateWriteAcknowledgement_counts {id : Nat} (hb : p.body = .ack id) :
    execImmediateWriteAcknowledgement n s = .next (u.ackOut (coreOfCtx p.ctx) id).settle := by
  rw [execImmediateWriteAcknowledgement, arrived_of h]
  rotate_left
  · rw [hb]
  simp only [hb]

/-- The new holder's LRW completes (R311). -/
theorem execReservationGrant_completes {l l2 : Loc} {c : Nat} {d : BitVec 6} {pd : BitVec 3} (hb : p.body = .grant l c)
    (hwait : (u.ctx p.ctx).wait = .lrw l2 d pd) (hahead : u.wakeAhead p.ctx = false) (hholds : u.holderOf l = some p.ctx) :
    execReservationGrant n s = .next ((u.lrwDone l p.ctx d pd).logWake p.ctx 0x0D) := by
  rw [execReservationGrant, arrived_of h]
  rotate_left
  · rw [hb]
  simp [hb, hwait, hahead, hholds]

end

/-- An LRW that reaches the table joins the queue of its word, or fails where there is no room (R311, R312). -/
theorem State.lrwAtBank_waiting {w : State} {p : Pkt} {l : Loc} {d : BitVec 6} {pd : BitVec 3} (hwait : (w.ctx p.ctx).wait = .lrw l d pd) :
    (w.lrwOut l p.ctx = .joined false → w.lrwAtBank p l = w.joinResv l p.ctx)
    ∧ (w.lrwOut l p.ctx = .joined true →
      w.lrwAtBank p l = (w.joinResv l p.ctx).send l.tile (tileOfCtx p.ctx) 2 p.ctx 0 (.grant l p.ctx))
    ∧ (w.lrwOut l p.ctx = .full → w.lrwAtBank p l
      = if pd = 0 then w.failWait p.ctx cReserve (globalAddr l) else (w.putP p.ctx pd false).complete p.ctx) := by
  refine ⟨fun hout => ?_, fun hout => ?_, fun hout => ?_⟩
  · simp [lrwAtBank, hwait, hout]
  · simp [lrwAtBank, hwait, hout]
  · simp [lrwAtBank, hwait, hout]

/-! Bank cycles and outstanding operations (R155, R173). -/

namespace State

section
variable {s : State} {t b : Nat}

/-- A request by the mesh goes behind the lines of a close (R155). -/
theorem useBank_closing (h : 0 < s.closeLinesAt t b) : s.useBank t b = none := by
  simp [useBank, useBankAs, cycleOf, h]

section
variable (h : s.closeLinesAt t b = 0)
include h

theorem useBank_first (hf : s.firstFree t b = true) :
    s.useBank t b = some (s.modTile t (fun i => { i with bankUse := (b + 128) :: i.bankUse })) := by
  simp [useBank, useBankAs, cycleOf, h, hf]

theorem useBank_second (hf : s.firstFree t b = false) (hs : s.secondFree t b = true) :
    s.useBank t b = some (s.modTile t (fun i => { i with bankUse := b :: i.bankUse })) := by
  simp [useBank, useBankAs, cycleOf, h, hf, hs]

theorem useBank_taken (hf : s.firstFree t b = false) (hs : s.secondFree t b = false) : s.useBank t b = none := by
  simp [useBank, useBankAs, cycleOf, h, hf, hs]

end

end

/-- The last acknowledgement of an operation takes it off the list (R173, R304). -/
theorem ackOut_outs {s : State} {core id : Nat} (h : ∀ o ∈ (s.core core).outs, o.id = id → o.left ≤ 1) :
    ((s.ackOut core id).core core).outs = (s.core core).outs.filter (fun o => o.id != id) := by
  rw [ackOut, core_modCore, ← List.filterMap_eq_filter]
  refine List.filterMap_congr fun o ho => ?_
  by_cases hid : o.id = id
  · simp [Option.guard, hid, h o ho hid]
  · simp [Option.guard, hid]

end State

/-! GIVE and RECLAIM at the bank table (R153, R170, R171). -/

namespace State

variable {s : State}

theorem waiters_nil {f : Wait → Bool} (h : ∀ q ∈ s.ctxs, f q.2.wait = false) : s.waiters f = [] := by
  simp only [waiters, List.map_eq_nil_iff, List.filter_eq_nil_iff, Bool.and_eq_true, not_and, Bool.not_eq_true]
  exact fun q hq _ => h q hq

/-- A bank of a tile attached to the entry of a receiver, and recorded (R153, R170). -/
def attachTo (s : State) (t bank recv slot : Nat) (ent : BitVec 16) : State :=
  ((s.setEnt recv slot ent).setHolder t bank recv slot).logEv t (.bank t bank recv) 0

/-- Outside a replay every event is in its turn (R430). -/
theorem redoTurn_of_not_replaying {t : Nat} (h : s.replaying t = false) (kind : LogEv → Bool) (ev : LogEv) : s.redoTurn t kind ev = true := by
  simp [redoTurn, h]

end State

section
variable {s : State} {k t recvTile : Nat} {d : BitVec 6} {e : Nat} {m : BitVec 16} {desc : Word} {sent : Bool}
  (hwait : (s.ctx k).wait = .give d e m desc sent) (hahead : s.wakeAhead k = false)
  (ht : s.neighbour (tileOfCore (coreOfCtx k)) (entDir m) = some t)
  (hrecv : s.neighbour (tileOfCore (coreOfCtx k)) (giveDir desc) = some recvTile)
include hwait hahead ht hrecv

theorem execGiveComplete_busy (hbusy : s.bankBusy (coreOfCtx k) t (entBank m) = true) : execGiveComplete k s = .next s := by
  simp [execGiveComplete, hwait, hahead, ht, hrecv, hbusy]

section
variable (hidle : s.bankBusy (coreOfCtx k) t (entBank m) = false)
include hidle

/-- The bank is the giver's no more (R153, R170). -/
theorem execGiveComplete_lost (hholder : s.rowHolder t (entBank m) ≠ some (coreOfCtx k, e)) :
    execGiveComplete k s = .next ((s.completeX k d 4 8).logWake k 0x08) := by
  simp [execGiveComplete, hwait, hahead, ht, hrecv, hidle, hholder]

section
variable (hholder : s.rowHolder t (entBank m) = some (coreOfCtx k, e))
  (hnone : ∀ q ∈ s.ctxs, ∀ a b c h, q.2.wait ≠ .reclaim a b c h)
include hholder hnone

/-- A bank that its giver still holds, and that no RECLAIM waits for, goes to the receiver's entry if that is free (R170). -/
theorem execGiveComplete_held {recv slot : Nat} (hto : recv = coreKey recvTile (giveCore desc)) (hslot : slot = giveEnt desc)
    (hreplay : s.replaying t = false) : execGiveComplete k s = .next (
      if entV (s.mapEnt recv slot) then ((s.setEnt (coreOfCtx k) e m).completeX k d 2 8).logWake k 0x08
      else ((s.attachTo t (entBank m) recv slot (mkEnt ((s.dirTo recvTile t).getD 0) (entW m && desc.getLsbD 17)
        (entR m && desc.getLsbD 16) (entBank m))).completeX k d 0 8).logWake k 0x08) := by
  subst hto hslot
  simp only [execGiveComplete, hwait, hahead, ht, hrecv, hidle, hholder, State.redoTurn_of_not_replaying hreplay]
  rw [State.waiters_nil]
  · cases entV (s.mapEnt (coreKey recvTile (giveCore desc)) (giveEnt desc)) <;> simp [State.attachTo]
  · intro q hq
    split
    · next a b c h hw => exact absurd hw (hnone q hq a b c h)
    · rfl

end

end

end

theorem execReclaimComplete_eq {s : State} {k e b holder : Nat} {d : BitVec 6} (hwait : (s.ctx k).wait = .reclaim d e b holder)
    (hahead : s.wakeAhead k = false) (hreplay : s.replaying (tileOfCtx k) = false) : execReclaimComplete k s = .next (
      if s.bankBusy holder (tileOfCtx k) b then s
      else ((((((s.leaveEntry (tileOfCtx k) b).freeEntryOf (coreOfCtx k) e).attachHome (coreOfCtx k) e b).completeX k d 0 8).logEv
        (tileOfCtx k) (.bank (tileOfCtx k) b (coreOfCtx k)) 0).logWake k 0x09)) := by
  cases hbusy : s.bankBusy holder (tileOfCtx k) b <;>
    simp [execReclaimComplete, hwait, hahead, State.redoTurn_of_not_replaying hreplay, hbusy]

/-- Settles O44: each packet by its body, and each end of a GIVE or RECLAIM by the bank table. -/
theorem vaultEvents : Obligations.VaultEvents := by
  intro s u n p
  refine ⟨fun h => ⟨?_, ?_, ?_, ?_, ?_, ?_, ?_, ?_⟩, ?_, ?_, ?_, ?_, ?_⟩
  · exact fun l len id w hb hu => execVaultRequestArrival_read h hb hu
  · exact fun l op ty b cmp id w hb hfree hturn hu => execVaultRequestArrival_amo h hb hfree hturn hu
  · exact fun l id hb hturn => execVaultRequestArrival_relq h hb hturn
  · intro l d pd hb hturn w hwait
    have reached := execVaultRequestArrival_lrw h hb hturn
    obtain ⟨behind, head, full⟩ := State.lrwAtBank_waiting hwait
    exact ⟨fun hout => behind hout ▸ reached, fun hout => head hout ▸ reached, fun hout => full hout ▸ reached⟩
  · intro v id hb w
    exact ⟨execVaultReplyArrival_load h hb, execVaultReplyArrival_amo h hb, fun x => execVaultReplyArrival_knot h hb⟩
  · intro l w' hfree hturn hu w lands
    exact ⟨fun en v id => execImmediateWriteLanding_write h hfree hturn hu, fun c id => execImmediateWriteLanding_bari h hfree hturn hu,
      fun op ty b cmp id => execImmediateWriteLanding_red h hfree hturn hu, fun v id => execImmediateWriteLanding_sch h hfree hturn hu,
      fun op id => execImmediateWriteLanding_knot h hfree hturn hu⟩
  · exact fun id => execImmediateWriteAcknowledgement_counts h
  · exact fun l c l2 d pd => execReservationGrant_completes h
  · exact fun t b h => ⟨State.useBank_first h, State.useBank_second h, State.useBank_taken h⟩
  · exact fun t b => State.useBank_closing
  · exact fun core id => State.ackOut_outs
  · intro k d e m desc sent t recvTile hwait core my bank recv slot done hahead hreplay ht hrecv
    refine ⟨execGiveComplete_busy hwait hahead ht hrecv, fun hidle => ⟨execGiveComplete_lost hwait hahead ht hrecv hidle,
      fun hholder hnone => ?_⟩⟩
    have ends := execGiveComplete_held hwait hahead ht hrecv hidle hholder hnone rfl rfl hreplay
    exact ⟨fun taken => ends.trans (congrArg _ (if_pos taken)), fun free => ends.trans (congrArg _ (if_neg (Bool.eq_false_iff.mp free)))⟩
  · exact fun k d e b holder hwait hahead hreplay => execReclaimComplete_eq hwait hahead hreplay

end Sys2Proof.Machine
end

section
/-! Log records: what a record leaves as it is, and the wakes of a context of no crew or of a tile that does not replay
(R421, R430). -/

namespace Sys2Proof.Machine

namespace State

variable {s : State} {k : Nat}

theorem core_of_cores {t : State} (h : t.cores = s.cores) (k : Nat) : t.core k = s.core k := by
  rw [core, core, h]

theorem logEv_ctxs (t : Nat) (e : LogEv) (n : Nat) : (s.logEv t e n).ctxs = s.ctxs := by
  simp only [logEv]
  (repeat' split) <;> rfl

theorem logEv_cores (t : Nat) (e : LogEv) (n : Nat) : (s.logEv t e n).cores = s.cores := by
  simp only [logEv]
  (repeat' split) <;> rfl

theorem ctx_logWake (code : BitVec 6) (j : Nat) : (s.logWake k code).ctx j = s.ctx j := by
  simp only [logWake]
  split
  · exact ctx_of_ctxs (logEv_ctxs ..) j
  · rfl

theorem logWake_cores (code : BitVec 6) : (s.logWake k code).cores = s.cores := by
  simp only [logWake]
  split
  · exact logEv_cores ..
  · rfl

theorem logWake_crewless (h : (s.ctx k).crew = none) (code : BitVec 6) : s.logWake k code = s := by simp [logWake, h]

theorem wakeAhead_crewless (h : (s.ctx k).crew = none) : s.wakeAhead k = false := by simp [wakeAhead, h]

theorem wakeAhead_of_not_replaying (h : s.replaying (tileOfCtx k) = false) : s.wakeAhead k = false := by
  simp [wakeAhead, redoAhead, h]

theorem complete_crew (j : Nat) : ((s.complete k).ctx j).crew = (s.ctx j).crew := by
  have late : ((s.landLate k).ctx j).crew = (s.ctx j).crew := by
    rw [landLate, ctx_modCtx_eq]
    split
    · next h => subst h; rfl
    · rfl
  rw [complete, ctx_modCtx_eq]
  split
  · next h => subst h; exact late
  · exact late

theorem putX_crew (rank : Nat) (r : BitVec 6) (v : Word) (lat j : Nat) : ((s.putX k rank r v lat).ctx j).crew = (s.ctx j).crew := by
  simp only [putX]
  split
  · rfl
  · split
    · rw [ctx_modCtx_eq]
      split
      · next h => subst h; rfl
      · rfl
    · rfl

theorem completeX_crew (d : BitVec 6) (v : Word) (lat j : Nat) : ((s.completeX k d v lat).ctx j).crew = (s.ctx j).crew := by
  rw [completeX, complete_crew, putX_crew]

end State

end Sys2Proof.Machine
end

section
/-! Segments and places (O21): the checks of a memory operand and the resolution of a vault address (R148, R150, R184). -/

namespace Sys2Proof.Machine

/-- The checks of a memory operand in their order: no segment or the limit, the kind or the right, the level (R184). -/
theorem segCheck_eq (e : Seg) (level : Nat) (o : Word) (n : Nat) (kinds : List Nat) (right : Option Nat) :
    segCheck e level o n kinds right =
      if e.kind = 0 ∨ e.limit.toNat < o.toNat + n - 1 then some cLimit
      else if e.kind ∉ kinds ∨ (∃ r, right = some r ∧ e.attr.getLsbD r = false) then some cRights
      else if (e.kind = kTrapwin ∨ e.kind = kCtrl) ∧ level = 0 then some cPrivilege
      else none := by
  cases right with
  | none => simp [segCheck, ite_or]
  | some r => simp [segCheck, ite_or, Seg.has]

section
variable {s : State} {m : MemOp} {n : Nat} {kinds : List Nat} {right : Option Nat}

theorem State.segEA_stops {c : BitVec 8} (h : segCheck (s.readSg m.sg) s.level (s.eaOff m) n kinds right = some c) :
    s.segEA m n kinds right = .error (.trap c (s.ea m)) := by
  simp only [segEA, h]

theorem State.segEA_goes (h : segCheck (s.readSg m.sg) s.level (s.eaOff m) n kinds right = none) :
    s.segEA m n kinds right = .ok (s.ea m) := by
  simp only [segEA, h]

end

/-- A bank map entry gives the right that an access asks for (R148). -/
theorem lacksRight_iff (m : BitVec 16) (write : Bool) :
    (if write then !entW m else !entR m) = true ↔ m.getLsbD (if write then 9 else 8) = false := by
  cases write <;> simp [entW, entR]

theorem State.resolve_byWindow (s : State) {a : Word} (h : spaceOf a = 0) (write : Bool) :
    s.resolve a write =
      if entV (s.mapEnt s.myCore (a.extractLsb' 17 5).toNat) = false then .error (.trap cDetached a)
      else if (s.mapEnt s.myCore (a.extractLsb' 17 5).toNat).getLsbD (if write then 9 else 8) = false then .error (.trap cRights a)
      else if 48 ≤ entBank (s.mapEnt s.myCore (a.extractLsb' 17 5).toNat) ∧ s.level = 0 then .error (.trap cRights a)
      else match s.neighbour s.cur.tile (entDir (s.mapEnt s.myCore (a.extractLsb' 17 5).toNat)) with
        | none => .error (.trap cDetached a)
        | some t => .ok ⟨t, entBank (s.mapEnt s.myCore (a.extractLsb' 17 5).toNat), (a.extractLsb' 0 17).toNat⟩ := by
  simp only [resolve, h, beq_self_eq_true, if_true, lacksRight_iff, Bool.not_eq_true', Bool.and_eq_true, decide_eq_true_eq, beq_iff_eq]
    <;> rfl

theorem State.resolve_byTile (s : State) {a : Word} (h : spaceOf a ≠ 0) (write : Bool) :
    s.resolve a write = if 48 ≤ (a.extractLsb' 17 6).toNat ∧ s.level = 0 then .error (.trap cRights a) else .ok (globalLoc a) := by
  simp only [resolve, beq_eq_false_iff_ne.mpr h, Bool.false_eq_true, if_false, Bool.and_eq_true, decide_eq_true_eq, beq_iff_eq]

/-- Settles O21: `segCheck` is the chain of checks, and `resolve` one chain for each space of an address. -/
theorem segmentsAndPlaces : Obligations.SegmentsAndPlaces := by
  refine ⟨fun s m n kinds right => ?_, fun s a write => ?_⟩
  · intro e o a kind
    have checks := segCheck_eq e s.level o n kinds right
    split
    · next limit => exact State.segEA_stops (checks.trans (if_pos limit))
    · next inside =>
      have checks := checks.trans (if_neg inside)
      split
      · next rights => exact State.segEA_stops (checks.trans (if_pos rights))
      · next allowed =>
        have checks := checks.trans (if_neg allowed)
        split
        · next low => exact State.segEA_stops (checks.trans (if_pos low))
        · next high => exact State.segEA_goes (checks.trans (if_neg high))
  · intro m off
    split
    · next h => exact s.resolve_byWindow h write
    · next h => exact s.resolve_byTile h write

end Sys2Proof.Machine
end

section
/-! Loads and stores (O22): a load that can complete and one that asks, the places that an access keeps, and stores into the phase
buffer or to the bank (R150, R151, R154, R163-R166, R297, R394, R440). -/

namespace Sys2Proof.Machine

/-- A loaded value of a width type is its bytes' number cut to the width and extended (R161, R193). -/
theorem loadVal_eq {ty : Ty} (h : ty.isWidth = true) (bs : List Byte) : loadVal ty bs = extended ty false (leNat bs) := by
  have narrow : ty.bits ≤ 64 := by cases ty <;> decide
  have code : (BitVec.ofNat 64 (leNat bs)).setWidth ty.bits = BitVec.ofInt ty.bits (leNat bs) := by
    rw [BitVec.setWidth_ofNat_of_le narrow, BitVec.ofInt_natCast]
  rw [loadVal, extend, intOf_natTy, ← intVal_ofNat h]
  simp only [intVal, extended, code, Bool.false_eq_true, if_false]
  cases ty.isS
  · simp only [Bool.false_eq_true, if_false, BitVec.ofInt_natCast, BitVec.ofNat_toNat]
  · rfl

/-- The enables of a masked store: the bytes of the elements whose mask bit is set (R164). -/
theorem storeEn_eq (mask : BitVec 16) : storeEn mask
    = BitVec.ofNat 64 ((List.range 64).map (fun i => if mask.getLsbD (i / 4) then 2 ^ i else 0)).sum := by
  have step (n i : Nat) : (if mask.getLsbD (i / 4) then n + 2 ^ i else n) = n + if mask.getLsbD (i / 4) then 2 ^ i else 0 := by
    split <;> rfl
  simp only [storeEn, step, List.sum_eq_foldl, List.foldl_map]

namespace State

variable {s t : State} {a : Word} {l : Loc} {n : Nat} {en : BitVec 64} {v : BitVec 512}

theorem immWrite_taken (h : s.ImmTaken a l n en v t) : s.immWrite a l n en v = .ok t := by
  obtain ⟨hd, hl, hb, rfl⟩ | ⟨hd, rfl⟩ := h
  · simp only [immWrite, hd, if_true, takeWrite_free hl hb]
    rfl
  · simp only [immWrite, hd, Bool.false_eq_true, if_false]
    rfl

/-- A store that is taken ends in the phase buffer, or for a context of no crew as an immediate-class write (R164, R481). -/
theorem bufferStore_taken (h : s.StoreTaken a l n en v t) : s.bufferStore a l n en v = .ok t := by
  obtain ⟨hopen, ⟨hcrew, himm⟩ | ⟨hcrew, rfl, rfl⟩ | ⟨hcrew, hen, hroom, rfl⟩⟩ := h
  · simp only [bufferStore, hopen, hcrew, Option.isNone_none, Bool.false_eq_true, if_false, if_true, immWrite_taken himm]
  · simp [bufferStore, hopen, hcrew]
  · have crewed : s.view.crew.isNone = false := by rw [Option.isNone_eq_false_iff, Option.isSome_iff_ne_none]; exact hcrew
    have room : ((findPLine s.here.pbuf l.tile l.bank (l.off / 64)).isNone && decide (512 ≤ s.here.pbuf.length)) = false := by
      obtain held | short := hroom
      · simp [Option.isNone_eq_false_iff.mpr held]
      · simp [short]
    simp only [bufferStore, hopen, crewed, beq_eq_false_iff_ne.mpr hen, room, Bool.false_eq_true, if_false]

theorem windowAccess_answered {w : BitVec 512} {wr : Bool} (h : s.answered? = some v) :
    s.windowAccess a n en w wr = .ok (v, s.tookReply) := by
  simp only [windowAccess, takeReply_answered h]

/-- A load with no answer of this phase reads again (R154, R297). -/
theorem loadBytes_asks (hopen : s.closeHolds = false) (haway : s.isDirect a = false)
    (hnone : s.answered? = none ∨ s.answerFresh = false) : s.loadBytes a l n = .error (.again (s.tookReply.sendRead a l n s.phaseNow)) := by
  have unanswered : (if s.answerFresh = true then s.takeReply else none) = none := by
    obtain none_yet | stale := hnone
    · simp [takeReply, none_yet]
    · simp [stale]
  simp only [loadBytes, hopen, haway, unanswered, Bool.false_eq_true, if_false]

end State

section
variable {s : State} {a : Word} {l : Loc} {m : MemOp} {n : Nat} {vec : Bool}

/-- The place of an access that has issued is the one it issued to (R150). -/
theorem globalEA_going {x : Going} (h : s.going = some x) (write : Bool) : globalEA s m n vec write = .ok (x.addr, x.loc) := by
  simp only [globalEA, h]

section
variable {write : Bool} (hnew : s.going = none) (hea : s.segEA m n [2, 5, 6] (some (if write then 5 else 4)) = .ok a)
include hnew hea

theorem globalEA_vault (hspace : spaceOf a = 1) (hok : s.vaultSpaceOk a = true) (halign : a.toNat % n = 0)
    (hplace : s.resolve a write = .ok l) : globalEA s m n vec write = .ok (a, some l) := by
  have ea : s.segEA m n [kVault, kTrapwin, kCtrl] (some (if write then rW else rR)) = .ok a := hea
  simp only [globalEA, hnew, ea, Bind.bind, Except.bind, hspace, hok, halign, hplace, beq_self_eq_true, check_true, if_true]

theorem globalEA_window (hspace : spaceOf a ≠ 1) (hok : s.windowChecks a n vec = .ok ()) :
    globalEA s m n vec write = .ok (a, none) := by
  have ea : s.segEA m n [kVault, kTrapwin, kCtrl] (some (if write then rW else rR)) = .ok a := hea
  simp only [globalEA, hnew, ea, Bind.bind, Except.bind, beq_eq_false_iff_ne.mpr hspace, hok, Bool.false_eq_true, if_false]

end

theorem ldgBytes_vault {bs : List Byte} {t : State} (hea : globalEA s m n vec false = .ok (a, some l)) (h : s.LoadReady a l n bs t) :
    ldgBytes s m n vec = .ok (bs, t) := by
  simp only [ldgBytes, hea, Bind.bind, Except.bind, State.loadBytes_ready h]

/-- A load of the trap window or of control space takes its reply (R394, R440). -/
theorem ldgBytes_window {v : BitVec 512} (hea : globalEA s m n vec false = .ok (a, none)) (hopen : s.closeHolds = false)
    (hv : s.answered? = some v) : ldgBytes s m n vec = .ok (bytesOfVec n v, s.tookReply) := by
  simp only [ldgBytes, hea, Bind.bind, Except.bind, hopen, State.windowAccess_answered hv, Bool.false_eq_true, if_false]

theorem stsStore_window {en : BitVec 64} {v w : BitVec 512} (hopen : s.closeHolds = false) (hw : s.answered? = some w) :
    stsStore s a none n en v = .ok s.tookReply := by
  simp only [stsStore, hopen, Bind.bind, Except.bind, State.windowAccess_answered hw, Bool.false_eq_true, if_false]

end

section
variable {s : State} {g : Guard} {ty : Ty} {d b : BitVec 6} {p mk : BitVec 3} {m : MemOp} {a : Word} {l : Loc} (hi : s.Issues g)
include hi

section
variable {bs : List Byte} {t u : State}

theorem exec_ld_ready (hty : ty.isWidth = true) (hea : s.vaultEA m (ty.bits / 8) [1] 4 false = .ok (a, l))
    (h : s.LoadReady a l (ty.bits / 8) bs t) : exec (.ld g ty d m) s = .next (t.writeX d (extended ty false (leNat bs)) 8) := by
  have ea : s.vaultEA m (tyBytes ty) [kAlias] rR false = .ok (a, l) := hea
  have load : s.loadBytes a l (tyBytes ty) = .ok (bs, t) := State.loadBytes_ready h
  simp only [exec]
  refine run_ok hi ?_
  simp only [ea, load, Bind.bind, Except.bind, loadVal_eq hty]

/-- A load with no answer of this phase sends one request and waits (R154, R297). -/
theorem exec_ld_asks (hea : s.vaultEA m (ty.bits / 8) [1] 4 false = .ok (a, l)) (hopen : s.closeHolds = false)
    (haway : s.isDirect a = false) (hnone : s.answered? = none ∨ s.answerFresh = false) :
    exec (.ld g ty d m) s = .next ((s.tookReply.sendRead a l (ty.bits / 8) s.phaseNow).setRes .reissue) := by
  have ea : s.vaultEA m (tyBytes ty) [kAlias] rR false = .ok (a, l) := hea
  simp only [exec]
  refine run_again hi ?_
  simp only [ea, Bind.bind, Except.bind, State.loadBytes_asks hopen haway hnone]
  rfl

theorem exec_ldv_ready (hea : s.vaultEA m 64 [1] 4 false = .ok (a, l)) (h : s.LoadReady a l 64 bs t)
    (hw : t.writeV d (BitVec.ofNat 512 (leNat bs)) 8 = .ok u) : exec (.ldv g d m) s = .next u := by
  have ea : s.vaultEA m 64 [kAlias] rR false = .ok (a, l) := hea
  simp only [exec]
  refine run_ok hi ?_
  simp only [ea, State.loadBytes_ready h, Bind.bind, Except.bind, vecOfBytes, hw]

theorem exec_ldg_read (hty : ty.isWidth = true) (h : ldgBytes s m (ty.bits / 8) false = .ok (bs, t)) :
    exec (.ldg g ty d m) s = .next (t.writeX d (extended ty false (leNat bs)) 8) := by
  have read : ldgBytes s m (tyBytes ty) false = .ok (bs, t) := h
  simp only [exec]
  refine run_ok hi ?_
  simp only [read, Bind.bind, Except.bind, loadVal_eq hty]

theorem exec_ldgV_read (h : ldgBytes s m 64 true = .ok (bs, t)) (hw : t.writeV d (BitVec.ofNat 512 (leNat bs)) 8 = .ok u) :
    exec (.ldgV g d m) s = .next u := by
  simp only [exec]
  refine run_ok hi ?_
  simp only [h, Bind.bind, Except.bind, vecOfBytes, hw]

end

section
variable {s1 t : State} {v : Vec} {x : Option Loc}

theorem exec_st (hea : s.vaultEA m (ty.bits / 8) [1] 5 true = .ok (a, l))
    (h : s.StoreTaken a l (ty.bits / 8) (enBytes (ty.bits / 8)) ((s.readX b).setWidth 512) t) : exec (.st g ty b m) s = .next t := by
  have ea : s.vaultEA m (tyBytes ty) [kAlias] rW true = .ok (a, l) := hea
  simp only [exec]
  refine run_ok hi ?_
  simp only [ea, Bind.bind, Except.bind]
  exact State.bufferStore_taken h

theorem exec_stv (hea : s.vaultEA m 64 [1] 5 true = .ok (a, l)) (hv : s.readV b = .ok (v, s1))
    (h : s1.StoreTaken a l 64 (storeEn (s.readM mk)) v t) : exec (.stv g b mk m) s = .next t := by
  have ea : s.vaultEA m 64 [kAlias] rW true = .ok (a, l) := hea
  simp only [exec]
  refine run_ok hi ?_
  simp only [ea, hv, Bind.bind, Except.bind, State.readV_readM hv, State.bufferStore_taken h]

theorem exec_sts (hea : globalEA s m (ty.bits / 8) false true = .ok (a, x))
    (h : stsStore s a x (ty.bits / 8) (enBytes (ty.bits / 8)) ((s.readX b).setWidth 512) = .ok t) : exec (.sts g ty b m) s = .next t := by
  have ea : globalEA s m (tyBytes ty) false true = .ok (a, x) := hea
  simp only [exec]
  refine run_ok hi ?_
  simp only [ea, Bind.bind, Except.bind]
  exact h

theorem exec_stsV (hea : globalEA s m 64 true true = .ok (a, x)) (hv : s.readV b = .ok (v, s1))
    (h : stsStore s1 a x 64 (storeEn (s.readM mk)) v = .ok t) : exec (.stsV g b mk m) s = .next t := by
  simp only [exec]
  refine run_ok hi ?_
  simp only [hea, hv, Bind.bind, Except.bind, State.readV_readM hv, h]

theorem exec_stmask (hea : s.vaultEA m 2 [1, 2] 5 true = .ok (a, l)) (h : s.StoreTaken a l 2 3 ((s.readM p).setWidth 512) t) :
    exec (.stmask g p m) s = .next t := by
  have ea : s.vaultEA m 2 [kAlias, kVault] rW true = .ok (a, l) := hea
  simp only [exec]
  refine run_ok hi ?_
  simp only [ea, Bind.bind, Except.bind]
  exact State.bufferStore_taken h

theorem exec_stmaskP (hea : s.vaultEA m 1 [1, 2] 5 true = .ok (a, l)) (h : s.StoreTaken a l 1 1 ((s.view.p ||| 1).setWidth 512) t) :
    exec (.stmaskP g m) s = .next t := by
  have ea : s.vaultEA m 1 [kAlias, kVault] rW true = .ok (a, l) := hea
  simp only [exec]
  refine run_ok hi ?_
  simp only [ea, Bind.bind, Except.bind]
  exact State.bufferStore_taken h

theorem exec_sig (hea : s.vaultEA m 8 [1, 2] 5 true = .ok (a, l)) (h : s.ImmTaken a l 8 0xFF ((s.readX b).setWidth 512) t) :
    exec (.sig g b m) s = .next t := by
  have ea : s.vaultEA m 8 [kAlias, kVault] rW true = .ok (a, l) := hea
  simp only [exec]
  refine run_ok hi ?_
  simp only [ea, Bind.bind, Except.bind]
  exact State.immWrite_taken h

end

end

/-- Settles O22: each load by where its bytes come from, each store by what takes it. -/
theorem loadsAndStores : Obligations.LoadsAndStores := by
  refine ⟨?_, ?_⟩
  · intro s g ty d m a l hi hty n
    refine ⟨fun hea bs t h => exec_ld_ready hi hty hea h, fun hea bs t u h => exec_ldv_ready hi hea h,
      fun hea bs t h => exec_ldg_read hi hty (ldgBytes_vault hea h), fun hea bs t u h => exec_ldgV_read hi (ldgBytes_vault hea h),
      fun hea hopen v hv => exec_ldg_read hi hty (ldgBytes_window hea hopen hv),
      fun hea hopen v u hv => exec_ldgV_read hi (ldgBytes_window hea hopen hv),
      fun hea hopen haway hnone => exec_ld_asks hi hea hopen haway hnone,
      fun hnew vec write k hea => ⟨globalEA_vault hnew hea, globalEA_window hnew hea⟩, fun x vec write k h => globalEA_going h write⟩
  · intro s s1 t g ty b p mk m a l v hi hty n lanes X
    have en : lanes = storeEn (s.readM mk) := (storeEn_eq (s.readM mk)).symm
    rw [en]
    exact ⟨exec_st hi, exec_stv hi, fun hea h => exec_sts hi hea (State.bufferStore_taken h),
      fun hea hv h => exec_stsV hi hea hv (State.bufferStore_taken h), exec_stmask hi, exec_stmaskP hi, exec_sig hi,
      fun hea hopen ⟨w, hw⟩ => exec_sts hi hea (stsStore_window hopen hw),
      fun hea hv hopen ⟨w, hw⟩ => exec_stsV hi hea hv (stsStore_window hopen hw)⟩

end Sys2Proof.Machine
end

section
/-! Immediate-class writes and watches (O23): the bytes of a write with byte enables, and the watch table (R159, R160, R166, R167). -/

namespace Sys2Proof.Machine

namespace State

variable {s : State} {l : Loc}

theorem locKey_offset (s : State) (l : Loc) (i : Nat) : s.locKey { l with off := l.off + i } = s.locKey l + i := by
  simp only [locKey, vaultKey, Nat.add_assoc]

theorem writeEn_succ (n : Nat) (en : BitVec 64) (v : BitVec 512) : s.writeEn l (n + 1) en v
    = if en.getLsbD n then (s.writeEn l n en v).writeLoc { l with off := l.off + n } [byteOf v n] else s.writeEn l n en v := by
  simp only [writeEn, List.range_succ, List.foldl_append, List.foldl_cons, List.foldl_nil]

theorem writeEn_rebind (n : Nat) (en : BitVec 64) (v : BitVec 512) : (s.writeEn l n en v).rebind = s.rebind := by
  induction n with
  | zero => rfl
  | succ n ih =>
    rw [writeEn_succ, apply_ite State.rebind, writeLoc_rebind, ih, ite_self]

theorem memRead_writeEn (n : Nat) (en : BitVec 64) (v : BitVec 512) (k : Nat) : memRead (s.writeEn l n en v).mem k
    = if s.locKey l ≤ k ∧ k < s.locKey l + n ∧ en.getLsbD (k - s.locKey l) = true then byteOf v (k - s.locKey l) else memRead s.mem k := by
  induction n with
  | zero => rw [if_neg (by omega)]; rfl
  | succ n ih =>
    have key : (s.writeEn l n en v).locKey { l with off := l.off + n } = s.locKey l + n := by
      rw [locKey_offset, locKey, locKey, siteOf_congr (writeEn_rebind n en v)]
    rw [writeEn_succ]
    obtain rfl | hk := eq_or_ne k (s.locKey l + n)
    · -- the byte that this step writes
      cases hen : en.getLsbD n
      · simp [ih, hen]
      · simp [memRead_writeLoc, key, hen]
    · -- another byte: the step leaves it
      have step : memRead (if en.getLsbD n then (s.writeEn l n en v).writeLoc { l with off := l.off + n } [byteOf v n]
          else s.writeEn l n en v).mem k = memRead (s.writeEn l n en v).mem k := by
        split
        · rw [memRead_writeLoc, key, if_neg (by simp only [List.length_singleton]; omega)]
        · rfl
      rw [step, ih]
      have same : k < s.locKey l + n ↔ k < s.locKey l + (n + 1) := by omega
      simp only [same]

/-- The watches and the log record of a landing immediate-class write leave memory as it is (R166, R301). -/
theorem landImm_mem (ctx n : Nat) (en : BitVec 64) (v : BitVec 512) : (s.landImm ctx l n en v).mem = (s.writeEn l n en v).mem := by
  rw [landImm, apply_ite State.mem, logEv_mem, ite_self, (watchWake_vaults n en).1]

end State

/-- The status of a WATCH and the table after it, by whether the word has an owner (R160, R167). -/
theorem watchTable_eq (ws : List Watch) (ctx bank off : Nat) : watchTable ws ctx bank off =
    if ∃ w ∈ ws, (w.bank == bank && w.off == off) = true then
      (if (ws.find? (fun w => w.bank == bank && w.off == off)).map Watch.ctx = some ctx then 0 else 2, ws)
    else if 512 ≤ ws.length ∨ 8 ≤ ws.countP (fun w => w.ctx == ctx) then (1, ws)
    else (0, ws ++ [⟨bank, off, ctx⟩]) := by
  rw [watchTable]
  cases owner : ws.find? (fun w => w.bank == bank && w.off == off) with
  | none =>
    have free : ¬∃ w ∈ ws, (w.bank == bank && w.off == off) = true := fun ⟨w, hw, hit⟩ => List.find?_eq_none.mp owner w hw hit
    rw [if_neg free, List.countP_eq_length_filter]
  | some w =>
    have hit := List.find?_some owner
    have taken : ∃ w ∈ ws, (w.bank == bank && w.off == off) = true := ⟨w, List.mem_of_find?_eq_some owner, hit⟩
    rw [if_pos taken]
    by_cases hctx : w.ctx = ctx
    · simp [hctx]
    · simp [hctx]

section
variable {s : State} {g : Guard} {d : BitVec 6} {m : MemOp} {a : Word} {l : Loc} (hi : s.Issues g)
include hi

section
variable (hea : s.vaultEA m 8 [1, 2] 4 false = .ok (a, l))
include hea

theorem exec_watch (htile : l.tile = s.cur.tile) {r : Word × List Watch}
    (hr : watchTable s.myTile.watches s.myCtx l.bank l.off = r) :
    exec (.watch g d m) s = .next ((s.modTile s.cur.tile (fun i => { i with watches := r.2 })).writeX d r.1 8) := by
  have ea : s.vaultEA m 8 [kAlias, kVault] rR false = .ok (a, l) := hea
  simp only [exec]
  refine run_ok hi ?_
  simp only [ea, htile, beq_self_eq_true, check_true, Bind.bind, Except.bind, hr]

theorem exec_unwatch : exec (.unwatch g m) s = .next (s.modTile s.cur.tile (fun i => { i with
    watches := i.watches.filter (fun w => !(l.tile == s.cur.tile && (w.bank == l.bank && w.off == l.off) && w.ctx == s.myCtx)) })) := by
  have ea : s.vaultEA m 8 [kAlias, kVault] rR false = .ok (a, l) := hea
  simp only [exec]
  refine run_ok hi ?_
  simp only [ea, Bind.bind, Except.bind, Bool.and_assoc]

end

theorem exec_unwatchAll : exec (.unwatchAll g) s = .next (s.modTile (tileOfCtx s.myCtx) (fun i => { i with
    watches := i.watches.filter (fun w => w.ctx != s.myCtx) })) := by
  simp only [exec]
  exact run_ok hi rfl

end

/-- Settles O23: memory byte by byte, and the watch table by whether the word has an owner. -/
theorem immediateWritesAndWatches : Obligations.ImmediateWritesAndWatches := by
  refine ⟨?_, ?_⟩
  · intro s ctx l n en v _ t k
    rw [show t.mem = _ from State.landImm_mem ctx n en v]
    exact State.memRead_writeEn n en v k
  · intro s g d m a l hi mine ws
    exact ⟨fun hea htile => exec_watch hi hea htile (watchTable_eq ..), exec_unwatch hi, exec_unwatchAll hi⟩

end Sys2Proof.Machine
end

section
/-! Ownership of banks (O24): GIVE and RECLAIM at issue and at their ends, the bank map, and DRAIN (R148, R152, R153, R169-R173). -/

namespace Sys2Proof.Machine

/-! GIVE and RECLAIM at issue (R169-R171). -/

section
variable {s : State} {g : Guard} {d a : BitVec 6} {e : BitVec 5} {nb : Bool}
  (hv : entV (s.mapEnt s.myCore e.toNat) = true) (hbank : entBank (s.mapEnt s.myCore e.toNat) < 48) (hx : giveOk (s.readX a) = true)
include hv hbank hx

/-- No receiver, or no tile of the bank (R170). -/
theorem give_nowhere (h : s.neighbour s.cur.tile (giveDir (s.readX a)) = none
    ∨ s.neighbour s.cur.tile (entDir (s.mapEnt s.myCore e.toNat)) = none) : give nb d a e.toNat s = .ok (s.writeX d 3 8) := by
  simp only [give, hv, hbank, hx, decide_true, check_true, Bind.bind, Except.bind]
  obtain h | h := h
  · simp only [h]
  · simp only [h]
    cases s.neighbour s.cur.tile (giveDir (s.readX a)) <;> rfl

section
variable {recv t : Nat} (hrecv : s.neighbour s.cur.tile (giveDir (s.readX a)) = some recv)
  (ht : s.neighbour s.cur.tile (entDir (s.mapEnt s.myCore e.toNat)) = some t)
include hrecv ht

theorem give_unseen (h : (s.dirTo t recv).isNone = true) : give nb d a e.toNat s = .ok (s.writeX d 3 8) := by
  simp only [give, hv, hbank, hx, decide_true, check_true, Bind.bind, Except.bind, hrecv, ht, h, if_true]

theorem give_seen (h : (s.dirTo t recv).isNone = false) : give nb d a e.toNat s = .ok (
    if nb && s.bankBusy s.myCore t (entBank (s.mapEnt s.myCore e.toNat)) then s.writeX d 1 8
    else (s.setEnt s.myCore e.toNat (s.mapEnt s.myCore e.toNat &&& 0x7FFF)).await
      (.give d e.toNat (s.mapEnt s.myCore e.toNat) (s.readX a) false)) := by
  simp only [give, hv, hbank, hx, decide_true, check_true, Bind.bind, Except.bind, hrecv, ht, h, Bool.false_eq_true, if_false]
  split <;> rfl

end

end

section
variable {s : State} {d : BitVec 6} {e b : Nat} {nb : Bool} (hb : b < 48) (hhome : rowHome (bankRow s.myTile b) = s.cur.core)
include hb hhome

/-- An entry that names a bank already keeps it (R171). -/
theorem reclaim_full (hv : entV (s.mapEnt s.myCore e) = true) : reclaim nb d e b s
    = .ok (s.writeX d (if entDir (s.mapEnt s.myCore e) = 0 ∧ entBank (s.mapEnt s.myCore e) = b then 0 else 2) 8) := by
  simp only [reclaim, hb, hhome, hv, decide_true, beq_self_eq_true, Bool.and_self, check_true, Bind.bind, Except.bind, if_true,
    Bool.and_eq_true, beq_iff_eq]

section
variable (hv : entV (s.mapEnt s.myCore e) = false)
include hv

theorem reclaim_unattached (h : s.rowHolder s.cur.tile b = none) :
    reclaim nb d e b s = .ok ((s.attachHome s.myCore e b).writeX d 0 8) := by
  simp only [reclaim, hb, hhome, hv, decide_true, beq_self_eq_true, Bool.and_self, check_true, Bind.bind, Except.bind,
    Bool.false_eq_true, if_false, h]

theorem reclaim_held {holder f : Nat} (h : s.rowHolder s.cur.tile b = some (holder, f)) : reclaim nb d e b s = .ok (
    if nb && s.bankBusy holder s.cur.tile b then s.writeX d 1 8
    else (s.setEnt holder f (s.mapEnt holder f &&& 0x7FFF)).await (.reclaim d e b holder)) := by
  simp only [reclaim, hb, hhome, hv, decide_true, beq_self_eq_true, Bool.and_self, check_true, Bind.bind, Except.bind,
    Bool.false_eq_true, if_false, h]
  split <;> rfl

end

end

/-! What a change of the bank table and the bank map leaves. -/

namespace State

/-- A change of the tiles' tables alone. -/
def OnlyTiles (s t : State) : Prop := t = { s with tiles := t.tiles }

variable {s t u : State}

theorem OnlyTiles.refl : OnlyTiles s s := rfl

theorem OnlyTiles.trans (h : OnlyTiles s t) (h' : OnlyTiles t u) : OnlyTiles s u := by
  rw [OnlyTiles] at *
  rw [h', h]

theorem OnlyTiles.ctxs (h : OnlyTiles s t) : t.ctxs = s.ctxs := by rw [h]

theorem OnlyTiles.mapEnt (h : OnlyTiles s t) (c e : Nat) : t.mapEnt c e = s.mapEnt c e := by rw [h]; rfl

theorem modTile_onlyTiles (k : Nat) (f : Tile → Tile) : OnlyTiles s (s.modTile k f) := rfl

theorem setHolder_onlyTiles (k b holder e : Nat) : OnlyTiles s (s.setHolder k b holder e) := by
  simp only [setHolder]
  split
  · exact modTile_onlyTiles ..
  · exact .refl

theorem clearHolder_onlyTiles (k b : Nat) : OnlyTiles s (s.clearHolder k b) := by
  simp only [clearHolder]
  split
  · exact modTile_onlyTiles ..
  · exact .refl

theorem moveRow_onlyTiles (core : Nat) (m : BitVec 16) (e : Nat) : OnlyTiles s (s.moveRow core m e) := by
  simp only [moveRow]
  split
  · split
    · exact setHolder_onlyTiles ..
    · exact .refl
  · exact .refl

theorem mapEnt_setEnt (core e : Nat) (m : BitVec 16) (f : Nat) :
    (s.setEnt core e m).mapEnt core f = if f = e then m else s.mapEnt core f := by
  rw [mapEnt, setEnt, core_modCore, Tbl.get_set]
  rfl

theorem attachHome_ctxs (core e b : Nat) : (s.attachHome core e b).ctxs = s.ctxs := (setHolder_onlyTiles ..).ctxs

theorem leaveEntry_ctxs (k b : Nat) : (s.leaveEntry k b).ctxs = s.ctxs := by
  simp only [leaveEntry]
  (repeat' split) <;> rfl

theorem freeEntryOf_ctxs (core e : Nat) : (s.freeEntryOf core e).ctxs = s.ctxs := by
  simp only [freeEntryOf]
  split
  · split
    · exact (clearHolder_onlyTiles ..).ctxs
    · rfl
  · rfl

end State

/-! Their ends at the bank table (R153, R170, R171). -/

theorem State.waiters_all {s : State} {f : Wait → Bool} {p : Nat → Bool} (h : ∀ q ∈ s.ctxs, f q.2.wait = true → p q.1 = true) :
    (s.waiters f).all p = true := by
  simp only [waiters, List.all_map, List.all_eq_true, List.mem_filter, Bool.and_eq_true]
  exact fun q ⟨hq, _, hw⟩ => h q hq hw

theorem tileOfCore_coreOfCtx (k : Nat) : tileOfCore (coreOfCtx k) = tileOfCtx k := by
  rw [tileOfCore, coreOfCtx, tileOfCtx, Nat.div_div_eq_div_mul]

section
variable {s : State} {k : Nat} (hcrew : (s.ctx k).crew = none)
include hcrew

/-- A GIVE whose bank is quiet, is still the giver's, and is wanted back by no RECLAIM: the receiver's entry takes the bank, or is
taken and the giver's is restored (R170). -/
theorem execGiveComplete_quiet {t recvTile e recv slot : Nat} {d : BitVec 6} {m : BitVec 16} {desc : Word} {sent : Bool}
    (hwait : (s.ctx k).wait = .give d e m desc sent) (ht : s.neighbour (tileOfCtx k) (entDir m) = some t)
    (hrecv : s.neighbour (tileOfCtx k) (giveDir desc) = some recvTile) (hquiet : s.bankBusy (coreOfCtx k) t (entBank m) = false)
    (hholder : s.rowHolder t (entBank m) = some (coreOfCtx k, e))
    (hother : ∀ q ∈ s.ctxs, ∀ d' e' h, q.2.wait = .reclaim d' e' (entBank m) h → tileOfCtx q.1 ≠ t)
    (hreplay : s.replaying t = false) (hto : recv = coreKey recvTile (giveCore desc)) (hslot : slot = giveEnt desc) :
    execGiveComplete k s = .next (
      if entV (s.mapEnt recv slot) then (s.setEnt (coreOfCtx k) e m).completeX k d 2 8
      else (s.attachTo t (entBank m) recv slot (mkEnt ((s.dirTo recvTile t).getD 0) (entW m && desc.getLsbD 17)
        (entR m && desc.getLsbD 16) (entBank m))).completeX k d 0 8) := by
  subst hto hslot
  have restored : ((s.setEnt (coreOfCtx k) e m).completeX k d 2 8).logWake k 0x08 = (s.setEnt (coreOfCtx k) e m).completeX k d 2 8 := by
    refine State.logWake_crewless ((State.completeX_crew ..).trans ?_) _
    exact hcrew
  have attached (recv slot : Nat) (ent : BitVec 16) : ((s.attachTo t (entBank m) recv slot ent).completeX k d 0 8).logWake k 0x08
      = (s.attachTo t (entBank m) recv slot ent).completeX k d 0 8 := by
    refine State.logWake_crewless ((State.completeX_crew ..).trans ?_) _
    have same : (s.attachTo t (entBank m) recv slot ent).ctxs = s.ctxs :=
      (State.logEv_ctxs ..).trans (State.setHolder_onlyTiles ..).ctxs
    exact (congrArg Ctx.crew (State.ctx_of_ctxs same k)).trans hcrew
  simp only [execGiveComplete, hwait, State.wakeAhead_crewless hcrew, tileOfCore_coreOfCtx, ht, hrecv, hquiet, hholder,
    State.redoTurn_of_not_replaying hreplay]
  rw [State.waiters_all]
  · simp only [bne_self_eq_false, Bool.not_true, Bool.or_self, Bool.false_eq_true, if_false]
    cases entV (s.mapEnt (coreKey recvTile (giveCore desc)) (giveEnt desc))
    · exact congrArg Host.Outcome.next (attached ..)
    · exact congrArg Host.Outcome.next restored
  · intro q hq hw
    split at hw
    · next d' e' b h hwait' => exact bne_iff_ne.mpr (hother q hq d' e' h (eq_of_beq hw ▸ hwait'))
    · cases hw

theorem execReclaimComplete_quiet {d : BitVec 6} {e b holder : Nat} (hwait : (s.ctx k).wait = .reclaim d e b holder)
    (hreplay : s.replaying (tileOfCtx k) = false) (hquiet : s.bankBusy holder (tileOfCtx k) b = false) :
    execReclaimComplete k s = .next (((((s.leaveEntry (tileOfCtx k) b).freeEntryOf (coreOfCtx k) e).attachHome (coreOfCtx k) e b).completeX
      k d 0 8).logEv (tileOfCtx k) (.bank (tileOfCtx k) b (coreOfCtx k)) 0) := by
  rw [execReclaimComplete_eq hwait (State.wakeAhead_crewless hcrew) hreplay, if_neg (by simp [hquiet]), State.logWake_crewless]
  rw [State.ctx_of_ctxs (State.logEv_ctxs ..), State.completeX_crew, State.ctx_of_ctxs (State.attachHome_ctxs ..),
    State.ctx_of_ctxs (State.freeEntryOf_ctxs ..), State.ctx_of_ctxs (State.leaveEntry_ctxs ..)]
  exact hcrew

end

/-! The bank map and DRAIN (R172, R173). -/

/-- The entry that is about to be written is the bank's holder no more (R152, R172). -/
def State.leaveOld (s : State) (m : BitVec 16) : State :=
  if entV m then match s.neighbour s.cur.tile (entDir m) with
    | some t => s.clearHolder t (entBank m)
    | none => s
  else s

/-- What BMAP.set leaves: the old bank unattached, the entry, and the new bank's row, whose HOME the first attachment fixes (R152, R172). -/
def State.bmapSetAt (s : State) (e : Nat) (m : BitVec 16) : State :=
  let u := (s.leaveOld (s.mapEnt s.myCore e)).setEnt s.myCore e m
  if entV m then
    (if entDir m == 0 && decide (entBank m < 48) && !Tbl.get false s.myTile.firstSet (entBank m) then
        (u.setRow s.cur.tile (entBank m) (mkRow s.cur.core 7 0 0)).modTile s.cur.tile
          (fun i => { i with firstSet := Tbl.set false i.firstSet (entBank m) true })
      else u).moveRow s.myCore m e
  else u

namespace State

variable {s : State}

theorem leaveOld_onlyTiles (m : BitVec 16) : OnlyTiles s (s.leaveOld m) := by
  simp only [leaveOld]
  split
  · split
    · exact clearHolder_onlyTiles ..
    · exact .refl
  · exact .refl

/-- Beside its entry BMAP.set changes the tiles' tables alone (R172). -/
theorem bmapSetAt_onlyTiles (e : Nat) (m : BitVec 16) : OnlyTiles ((s.leaveOld (s.mapEnt s.myCore e)).setEnt s.myCore e m) (s.bmapSetAt e m) := by
  simp only [bmapSetAt]
  split
  · refine .trans ?_ (moveRow_onlyTiles ..)
    split
    · exact .trans (modTile_onlyTiles ..) (modTile_onlyTiles ..)
    · exact .refl
  · exact .refl

theorem mapEnt_bmapSetAt (e : Nat) (m : BitVec 16) (f : Nat) :
    (s.bmapSetAt e m).mapEnt s.myCore f = if f = e then m else s.mapEnt s.myCore f := by
  rw [(bmapSetAt_onlyTiles e m).mapEnt, mapEnt_setEnt, (leaveOld_onlyTiles _).mapEnt]

theorem bmapSetAt_frame (e : Nat) (m : BitVec 16) :
    s.bmapSetAt e m = { s with cores := (s.bmapSetAt e m).cores, tiles := (s.bmapSetAt e m).tiles } := by
  have left := leaveOld_onlyTiles (s := s) (s.mapEnt s.myCore e)
  have rows := bmapSetAt_onlyTiles (s := s) e m
  rw [OnlyTiles] at left rows
  rw [rows, left]
  rfl

end State

section
variable {s : State} {g : Guard} {d a : BitVec 6} {e e2 : BitVec 5} (hi : s.Issues g)
include hi

theorem exec_bmapRead : exec (.bmapRead g d e) s = .next (s.writeX d ((s.mapEnt s.myCore e.toNat).setWidth 64) 8) := by
  simp only [exec]
  exact run_ok hi rfl

/-- BMAP.swap of entries that no GIVE or RECLAIM holds, at task level of none that holds an upper bank (R148, R172). -/
theorem exec_bmapSwap {m m2 : BitVec 16} (hm : s.mapEnt s.myCore e.toNat = m) (hm2 : s.mapEnt s.myCore e2.toNat = m2)
    (hheld : s.entryHeld s.myCore e.toNat = false) (hheld2 : s.entryHeld s.myCore e2.toNat = false)
    (hlow : 1 ≤ s.level ∨ ∀ w, w = m ∨ w = m2 → entV w = true → entBank w < 48) : exec (.bmapSwap g ⟨e2, e⟩) s
      = .next ((((s.setEnt s.myCore e.toNat m2).setEnt s.myCore e2.toNat m).moveRow s.myCore m e2.toNat).moveRow s.myCore m2 e.toNat) := by
  subst hm hm2
  have allowed : (s.level == 0 && (entV (s.mapEnt s.myCore e.toNat) && decide (48 ≤ entBank (s.mapEnt s.myCore e.toNat))
      || entV (s.mapEnt s.myCore e2.toNat) && decide (48 ≤ entBank (s.mapEnt s.myCore e2.toNat)))) = false := by
    rw [Bool.eq_false_iff]
    intro upper
    simp only [Bool.and_eq_true, Bool.or_eq_true, beq_iff_eq, decide_eq_true_eq] at upper
    obtain ⟨task, ⟨hv, hup⟩ | ⟨hv, hup⟩⟩ := upper
    · have := hlow.resolve_left (by omega) _ (.inl rfl) hv
      omega
    · have := hlow.resolve_left (by omega) _ (.inr rfl) hv
      omega
  simp only [exec]
  refine run_ok hi ?_
  simp only [hheld, hheld2, Bool.or_self, Bool.false_eq_true, if_false, allowed]

theorem exec_bmapBank (b : BitVec 6) : exec (.bmapBank g d b) s
    = .next (if b.toNat < 48 then s.writeX d ((bankRow s.myTile b.toNat).setWidth 64) 8 else s.raise 0x0C 0) := by
  simp only [exec]
  split
  · next h => exact run_ok hi (by simp only [h, decide_true, check_true, Bind.bind, Except.bind])
  · next h => exact run_trap hi (by simp only [h, decide_false, check_false, Bind.bind, Except.bind]; rfl)

theorem exec_bmapSet (hlevel : 1 ≤ s.level) (hheld : s.entryHeld s.myCore e.toNat = false) (hok : bmapSetOk s (s.readX a) e.toNat = true) :
    exec (.bmapSet g a e) s = .next (s.bmapSetAt e.toNat ((s.readX a).setWidth 16)) := by
  simp only [exec]
  refine runPriv_ok ⟨hi, hlevel⟩ ?_
  simp only [hheld, hok, Bool.false_eq_true, if_false, check_true, Bind.bind, Except.bind]
  exact (apply_ite Except.ok ..).symm

theorem exec_drain : exec (.drain g) s
    = .next (if s.drainIds s.myCtx = [] then s else s.await (.drain (s.drainIds s.myCtx))) := by
  simp only [exec]
  refine run_ok hi ?_
  cases h : s.drainIds s.myCtx <;> simp

theorem exec_drainBank {m : BitVec 16} (hm : s.mapEnt s.myCore e.toNat = m) (hv : entV m = true) {t : Nat}
    (ht : s.neighbour s.cur.tile (entDir m) = some t) : exec (.drainBank g e) s
      = .next (if s.bankBusy s.myCore t (entBank m) then s.await (.drainBank t (entBank m)) else s) := by
  simp only [exec]
  refine run_ok hi ?_
  simp only [hm, hv, check_true, Bind.bind, Except.bind, ht]
  split <;> rfl

end

/-- A DRAIN of a context of no crew ends when what it waits for is over (R173). -/
theorem State.settleCtx_drained {s : State} {k : Nat} (hcrew : (s.ctx k).crew = none)
    (hwait : (∃ ids, (s.ctx k).wait = .drain ids) ∨ ∃ u b, (s.ctx k).wait = .drainBank u b) (hover : s.drainOver k = true) :
    s.settleCtx k = s.complete k := by
  have unlogged : (s.complete k).logWake k 0x0A = s.complete k := logWake_crewless ((complete_crew k).trans hcrew) _
  obtain ⟨ids, h⟩ | ⟨u, b, h⟩ := hwait
  · simp only [settleCtx, h, hover, wakeAhead_crewless hcrew, unlogged]
    rfl
  · simp only [settleCtx, h, hover, wakeAhead_crewless hcrew, unlogged]
    rfl

/-- Settles O24: GIVE and RECLAIM by what the bank table says, each map instruction by its checks, and DRAIN by what is left. -/
theorem bankOwnership : Obligations.BankOwnership := by
  refine ⟨?_, ?_⟩
  · intro s g d a e b recv t hi m x bank row
    refine ⟨fun hv hbank hx hno => ?_, fun hv hbank hx hrecv ht => ?_, fun hb hhome => ?_, fun k r w desc hcrew hreplay => ⟨?_, ?_⟩⟩
    · exact ⟨run_ok hi (give_nowhere hv hbank hx hno), run_ok hi (give_nowhere hv hbank hx hno)⟩
    · intro waits
      split
      · next h => exact ⟨run_ok hi (give_unseen hv hbank hx hrecv ht h), run_ok hi (give_unseen hv hbank hx hrecv ht h)⟩
      · next h => 
        have seen := Bool.eq_false_iff.mpr h
        exact ⟨run_ok hi (give_seen hv hbank hx hrecv ht seen), run_ok hi (give_seen hv hbank hx hrecv ht seen)⟩
    · intro m0 both
      refine ⟨fun hv => ?_, fun hv hnone => ?_, fun h f hv hheld => ?_⟩
      · exact ⟨run_ok hi (reclaim_full hb hhome hv), run_ok hi (reclaim_full hb hhome hv)⟩
      · exact ⟨run_ok hi (reclaim_unattached hb hhome hv hnone), run_ok hi (reclaim_unattached hb hhome hv hnone)⟩
      · exact ⟨run_ok hi (reclaim_held hb hhome hv hheld), run_ok hi (reclaim_held hb hhome hv hheld)⟩
    · intro hwait ht v hrecv hquiet hholder hother to_ f bank'
      have ends := execGiveComplete_quiet hcrew hwait ht hrecv hquiet hholder hother hreplay rfl rfl
      split
      · next taken => exact ends.trans (congrArg _ (if_pos taken))
      · next free => exact ends.trans (congrArg _ (if_neg free))
    · rintro h hwait rfl hquiet
      exact execReclaimComplete_quiet hcrew hwait hreplay hquiet
  · intro s g d a e e2 hi c m m2
    refine ⟨exec_bmapRead hi, exec_bmapSwap hi rfl rfl, exec_bmapBank hi, fun hlevel hheld hok => ?_, exec_drain hi,
      fun hv t ht => exec_drainBank hi rfl hv ht, fun k hcrew hreplay => ⟨fun ids hwait hgone => ?_, fun u bank hwait hquiet => ?_⟩⟩
    · exact ⟨_, exec_bmapSet hi hlevel hheld hok, (State.mapEnt_bmapSetAt ..).trans (if_pos rfl),
        fun f hf => (State.mapEnt_bmapSetAt ..).trans (if_neg hf), State.bmapSetAt_frame ..⟩
    · refine State.settleCtx_drained hcrew (.inl ⟨ids, hwait⟩) ?_
      simpa [State.drainOver, hwait] using hgone
    · refine State.settleCtx_drained hcrew (.inr ⟨u, bank, hwait⟩) ?_
      simp [State.drainOver, hwait, hquiet]

end Sys2Proof.Machine
end

section
/-! Inboxes, channels and HOP (O33): the counters and freed entries of an inbox, the fields of a channel, and the departure of a context
(R261, R270, R271, R273, R286, R287, R289). -/

namespace Sys2Proof.Machine

/-- What follows an effect that is not stopped goes on with its result. -/
theorem bind_of_ok {α β : Type} {r : Except Stop α} {a : α} (h : r = .ok a) (f : α → Except Stop β) : (r >>= f) = f a := by
  rw [h]
  rfl

/-! Inboxes (R270, R271, R286). -/

theorem State.freed_grantBank (s : State) (bank : Nat) : (s.grantBank s.cur.tile bank).myTile.freed = s.myTile.freed := by
  have granted : (s.grantBank s.cur.tile bank).myTile = { s.myTile with bankUse := bank :: s.myTile.bankUse } := tile_modTile ..
  rw [granted]

theorem State.ibxCounts_grantBank (s : State) (bank t : Nat) (x : Word) : (s.grantBank s.cur.tile bank).ibxCounts t x = s.ibxCounts t x := by
  have same : (s.grantBank s.cur.tile bank).readLoc (ibxCtl t x) 16 = s.readLoc (ibxCtl t x) 16 := readLoc_congr rfl rfl 16
  rw [ibxCounts, ibxCounts, same]

/-- Entries of an inbox that are taken and not yet passed by HEAD (R286). -/
def takenEntries (ring : Nat) (c : IbxCtl) : List Nat :=
  (List.range ((c.take + 2 ^ 32 - c.head) % 2 ^ 32)).map (fun k => (c.head + k) % 2 ^ 32 % ring)

section
variable {s : State} {g : Guard} {d a : BitVec 6} {ibx : BitVec 4} {nw : Bool} {x : Word} {c : IbxCtl} (hx : s.inbox s.cur.tile ibx.toNat = x)
  (hen : ibxEn x = true) (hc : s.ibxCounts s.cur.tile x = c)
include hx hen hc

theorem ibpopTake_empty (h : c.take = c.tail) :
    ibpopTake nw d ibx s = if nw then .ok (s.writeX d 0 8) else .error (.sleep (.ibpop ibx.toNat)) := by
  simp only [ibpopTake, hx, hen, check_true, Bind.bind, Except.bind, hc, h, beq_self_eq_true, if_true]

section
variable (hl : s.linesHeld (ibxCtl s.cur.tile x) 16 = false) (hb : s.BankFree (ibxCtl s.cur.tile x).bank)
include hl hb

/-- The oldest entry is taken: its address, and TAKE moves on (R286). -/
theorem ibpopTake_entry (h : c.take ≠ c.tail) : ibpopTake nw d ibx s
    = .ok (((s.grantBank s.cur.tile (ibxCtl s.cur.tile x).bank).setIbxWord s.cur.tile x 4 ((c.take + 1) % 2 ^ 32)).writeX d
        (globalAddr (ibxEntry s.cur.tile x (c.take % ibxRing x))) 8) := by
  simp only [ibpopTake, hx, hen, check_true, Bind.bind, Except.bind, hc, beq_eq_false_iff_ne.mpr h, Bool.false_eq_true, if_false,
    State.takeWrite_free hl hb]
  rfl

/-- A taken entry is given back, and HEAD passes those that are free (R286). -/
theorem exec_ibpopFree (hi : s.Issues g) {e : Nat} {freed : List Nat}
    (hfreed : (s.myTile.freed.filter (fun f => f.1 == ibx.toNat)).map Prod.snd = freed)
    (he : (takenEntries (ibxRing x) c).find? (fun e => globalAddr (ibxEntry s.cur.tile x e) == s.readX a && !freed.contains e) = some e)
    {h : Nat × List Nat} (hh : freeHead (ibxRing x) (ibxRing x) c.head c.take (e :: freed) = h) {u : State}
    (hu : (s.grantBank s.cur.tile (ibxCtl s.cur.tile x).bank).modTile s.cur.tile (fun k =>
      { k with freed := k.freed.filter (fun f => f.1 != ibx.toNat) ++ h.2.map (fun e => (ibx.toNat, e)) }) = u) :
    exec (.ibpopFree g a ibx) s = .next (if h.1 = c.head then u else u.setIbxWord s.cur.tile x 8 h.1) := by
  have operand : (s.grantBank s.cur.tile (ibxCtl s.cur.tile x).bank).readX a = s.readX a := rfl
  obtain ⟨head, left⟩ := h
  subst hu
  simp only [exec]
  refine run_ok hi ?_
  rw [takenEntries] at he
  have enabled : check (ibxEn (s.inbox s.cur.tile ibx.toNat)) cFormat 0 = .ok () := by rw [hx, hen, check_true]
  refine (bind_of_ok enabled _).trans ?_
  rw [hx]
  refine (bind_of_ok (State.takeWrite_free hl hb) _).trans ?_
  simp only [State.ibxCounts_grantBank, hc, operand, State.freed_grantBank, hfreed, he, hh, beq_iff_eq]

end

end

/-! Channels (R273, R287). -/

theorem chanWord_fields (k : Chan) : (chanWord k).extractLsb' 0 32 = k.next ∧ (chanWord k).extractLsb' 32 4 = k.ibx
    ∧ (chanWord k).extractLsb' 48 8 = k.waf ∧ ((chanWord k).extractLsb' 56 4).toNat = k.outn % 16 ∧ (chanWord k).extractLsb' 62 2 = k.st := by
  have above {v w i n : Nat} (x : BitVec v) (y : BitVec w) (h : w ≤ i) : (x ++ y).extractLsb' i n = x.extractLsb' (i - w) n :=
    BitVec.extractLsb'_append_eq_of_le h
  refine ⟨BitVec.extractLsb'_append_eq_right, ?_, ?_, ?_, ?_⟩
  · exact (above _ _ (by decide)).trans BitVec.extractLsb'_append_eq_right
  · rw [chanWord, above _ _ (by decide), above _ _ (by decide), above _ _ (by decide)]
    exact BitVec.extractLsb'_append_eq_right
  · rw [chanWord, above _ _ (by decide), above _ _ (by decide), above _ _ (by decide), above _ _ (by decide)]
    exact (congrArg BitVec.toNat BitVec.extractLsb'_append_eq_right).trans (BitVec.toNat_ofNat ..)
  · rw [chanWord, above _ _ (by decide), above _ _ (by decide), above _ _ (by decide), above _ _ (by decide), above _ _ (by decide)]
    exact BitVec.extractLsb'_append_eq_left

section
variable {s : State} {g : Guard} {d a : BitVec 6} {ch : BitVec 6} {ibx : BitVec 4} {x : Word} (hi : s.Issues g)
include hi

theorem exec_chanQch : exec (.chanQch g d ch) s = .next (s.writeX d (chanWord (s.chan s.myCore ch.toNat)) 8) := by
  simp only [exec]
  exact run_ok hi rfl

theorem exec_chanQib : exec (.chanQib g d ibx) s = .next (s.writeX d (s.inbox s.cur.tile ibx.toNat) 8) := by
  simp only [exec]
  exact run_ok hi rfl

section
variable (hx : s.readX a = x)
include hx

/-- CHAN.open gives a channel its destination, a tile of this wafer or of another; a channel that has one keeps it (R287). -/
theorem exec_chanOpen (hfmt : x.extractLsb' 56 8 = 0) (hfmt2 : x.extractLsb' 20 27 = 0) {remote : Bool}
    (hremote : (x.getLsbD 47 && x.extractLsb' 48 8 != s.sys.wnum) = remote)
    (htile : (if remote then !isReservedTile (x.extractLsb' 0 16).toNat else s.tileNamed ((x.extractLsb' 0 16).setWidth 64)) = true) :
    exec (.chanOpen g d a ch) s = .next (if (s.chan s.myCore ch.toNat).st = 1 then s.writeX d 1 8
      else (s.setChan s.myCore ch.toNat (fun _ =>
        { st := 1, outn := 0, waf := if remote then x.extractLsb' 48 8 else s.sys.wnum, remote,
          tile := (x.extractLsb' 0 16).toNat, ibx := x.extractLsb' 16 4, next := 0 })).writeX d 0 8) := by
  simp only [exec]
  refine run_ok hi ?_
  simp only [hx, hfmt, hfmt2, hremote, htile, beq_self_eq_true, Bool.and_self, check_true, Bind.bind, Except.bind, beq_iff_eq]
  split <;> rfl

section
variable (hok : ibxOk x = true) {c : IbxCtl} (hc : s.ibxCounts s.cur.tile (s.inbox s.cur.tile ibx.toNat) = c)
include hok hc

theorem exec_chanIbx_busy (hbusy : ibxEn (s.inbox s.cur.tile ibx.toNat) = true ∧ c.tail ≠ c.head) :
    exec (.chanIbx g d a ibx) s = .next (s.writeX d 1 8) := by
  obtain ⟨hen, hne⟩ := hbusy
  simp only [exec]
  refine run_ok hi ?_
  simp only [hx, hok, hc, hen, bne_iff_ne.mpr hne, check_true, Bind.bind, Except.bind, Bool.and_self, if_true]

/-- An inbox that is off or empty is set: its control word cleared, no entry of it freed (R270, R287). -/
theorem exec_chanIbx_sets (hidle : ¬(ibxEn (s.inbox s.cur.tile ibx.toNat) = true ∧ c.tail ≠ c.head))
    (hl : ibxEn x = true → s.linesHeld (ibxCtl s.cur.tile x) 16 = false) {u : State} (hu : s.modTile s.cur.tile (fun k =>
      { k with inbox := Tbl.set 0 k.inbox ibx.toNat x, freed := k.freed.filter (fun f => f.1 != ibx.toNat) }) = u) :
    exec (.chanIbx g d a ibx) s
      = .next ((if ibxEn x then u.writeLoc (ibxCtl s.cur.tile x) (List.replicate 16 0) else u).writeX d 0 8) := by
  have idle : (ibxEn (s.inbox s.cur.tile ibx.toNat) && c.tail != c.head) = false := by
    rw [Bool.eq_false_iff, Ne, Bool.and_eq_true, bne_iff_ne]
    exact hidle
  have unheld : (ibxEn x && s.linesHeld (ibxCtl s.cur.tile x) 16) = false := by
    cases hen : ibxEn x
    · rfl
    · simp [hl hen]
  have zeros : leBytes 16 0 = List.replicate 16 0 := rfl
  simp only [exec]
  refine run_ok hi ?_
  simp only [hx, hok, hc, idle, unheld, check_true, Bind.bind, Except.bind, Bool.false_eq_true, if_false, hu, zeros]

end

/-- HOP to a tile of the crew, by a thread in no queue for a word, waits until it has drained (R261, R289). -/
theorem exec_hop {np : Bool} {core : BitVec 3} (hname : s.tileNamed x = true)
    (hcrew : ∃ w, s.view.crew = some w ∧ s.inCrew w x.toNat = true) (hfree : ∀ e ∈ s.tiles, ∀ r ∈ e.2.resv, s.myCtx ∉ r.queue) :
    exec (.hop g np a core) s = .next (s.await (.hop x.toNat core.toNat np false)) := by
  obtain ⟨w, hw, hin⟩ := hcrew
  have unqueued : s.tiles.all (fun e => e.2.resv.all (fun r => !r.queue.contains s.myCtx)) = true := by
    simpa using hfree
  simp only [exec]
  refine run_ok hi ?_
  simp only [hx, hname, hw, hin, unqueued, Bool.and_self, check_true, Bind.bind, Except.bind]

end

end

/-! The departure of a context (R289). -/

namespace State

variable {s : State} {k to_ n : Nat} {np : Bool}

theorem settleCtx_hop (hwait : (s.ctx k).wait = .hop to_ n np false) (hdrained : s.drainIds k = []) :
    s.settleCtx k = s.hopLeave k to_ n np := by
  simp only [settleCtx, hwait, hdrained, List.isEmpty_nil, if_true]

/-- A context that leaves has its watches released and waits for the answer to its hop. -/
theorem ctx_dropWatches_leaving : (((s.dropWatches k).modCtx k (fun c => { c with wait := .hop to_ n np true })).ctx k)
    = { s.ctx k with wait := .hop to_ n np true } := ctx_modCtx ..

theorem hopLeave_wait : ((s.hopLeave k to_ n np).ctx k).wait = .hop to_ n np true :=
  congrArg Ctx.wait ctx_dropWatches_leaving

theorem hopLeave_net : ∃ p h c, (s.hopLeave k to_ n np).net = s.net ++ [p] ∧ p.body = .hop h c np h.hcrc ∧ p.ctx = k ∧ h.cls = 1
    ∧ h.dtile = to_ ∧ h.stile = tileOfCtx k ∧ h.len = 688 + 24 * (List.range 8).countP (fun i => (Tbl.get {} (s.ctx k).sg i).has 8)
    ∧ c.s = (s.ctx k).after := by
  refine ⟨_, _, _, rfl, rfl, rfl, rfl, rfl, rfl, ?_, ?_⟩
  · rw [List.countP_eq_length_filter, ctx_dropWatches_leaving]
  · rw [ctx_dropWatches_leaving]

end State

/-- Settles O33: an inbox by its counters, a channel by its fields, and a hop by what is outstanding. -/
theorem inboxesChannelsHop : Obligations.InboxesChannelsHop := by
  refine ⟨?_, ?_⟩
  · intro s g d a ibx hi t x ring c entry hen
    refine ⟨fun hempty => ⟨?_, ?_⟩, fun hl hb => ⟨fun hne => ⟨?_, ?_⟩, fun e he => ?_⟩⟩
    · exact run_ok hi (ibpopTake_empty rfl hen rfl hempty)
    · exact run_sleep hi (ibpopTake_empty rfl hen rfl hempty)
    · exact run_ok hi (ibpopTake_entry rfl hen rfl hl hb hne)
    · exact run_ok hi (ibpopTake_entry rfl hen rfl hl hb hne)
    · exact exec_ibpopFree rfl hen rfl hl hb hi rfl he rfl rfl
  · intro s g np d a core ch ibx hi x k
    refine ⟨⟨_, exec_chanQch hi, chanWord_fields _⟩, exec_chanQib hi, ?_, ?_, exec_hop hi rfl, ?_⟩
    · intro hfmt hfmt2 remote htile
      have other : (x.getLsbD 47 && x.extractLsb' 48 8 != s.sys.wnum) = remote := by
        simp only [remote, bne, decide_not]
        rfl
      refine exec_chanOpen hi rfl hfmt hfmt2 other ?_
      cases h : remote <;> simpa [h] using htile
    · intro hok t old c u
      exact ⟨exec_chanIbx_busy hi rfl hok rfl, fun hidle hl => exec_chanIbx_sets hi rfl hok rfl hidle hl rfl⟩
    · exact fun k to_ n hwait hdrained => ⟨State.settleCtx_hop hwait hdrained, State.hopLeave_wait, State.hopLeave_net⟩

end Sys2Proof.Machine
end

section
/-! The matrix engine and the links (O43): the start, the fetches and the completion of an operation, and the arrival of a word with
the return of its credit (R155, R240-R243, R250, R252, R253). -/

namespace Sys2Proof.Machine

/-! The start of an untimed operation (R242). -/

section
variable {s : State} {core : Nat}

theorem execEngineOperationStart_starts {o : MOp} {rest : List MOp} (hidle : (s.core core).mrun = none)
    (hq : (s.core core).mq = o :: rest)
    (hfits : ∀ q ∈ (s.core core).mtq, ∀ x, q.start = some x → s.tileVc (tileOfCore core) + o.span ≤ x)
    (hmoving : (s.tile (tileOfCore core)).halted = false) (hreplay : s.replaying (tileOfCore core) = false) :
    execEngineOperationStart core s = .next ((s.logEv (tileOfCore core) (.engine core true) 16).modCore core (fun k => { k with
      mq := rest
      mrun := some { o with g := 2 * s.tileVc (tileOfCore core), e1 := s.tileVc (tileOfCore core), e2 := s.tileVc (tileOfCore core)
                            done := if o.stages = [] then some (s.tileVc (tileOfCore core) + o.span) else none } })) := by
  simp only [execEngineOperationStart, hidle, hq]
  rw [List.all_eq_true.mpr]
  · simp only [hmoving, State.replayStart_recorded hreplay, List.isEmpty_iff, Bool.not_true, Bool.or_self, Bool.false_eq_true, if_false]
  · intro q hmem
    split
    · next x hstart => exact decide_eq_true (hfits q hmem x hstart)
    · rfl

/-! Line fetches (R240, R241). -/

/-- An operation with its next line in the operand buffer, fetched in router cycle c (R240). -/
def State.withLine (s : State) (o : MOp) (l : Line) (ls : List Line) (d : Nat) (rest : List (List Line × Nat)) (c : Nat) : MOp :=
  { o with buf := o.buf ++ [(o.stage, l, vecOfBytes (s.readLoc ⟨l.tile, l.bank, 64 * l.line⟩ 64))], g := c + 1, stages := (ls, d) :: rest }

/-- The engine goes on with an operation that has its next line; after the last line of a stage, with the next stage (R240). -/
def State.keepsLine (s u : State) (core : Nat) (o : MOp) (l : Line) (ls : List Line) (d : Nat) (rest : List (List Line × Nat)) (c : Nat) :
    State :=
  u.modCore core (fun k => { k with
    mrun := some (if ls = [] then State.nextStage (s.withLine o l ls d rest c) else s.withLine o l ls d rest c) })

section
variable {o : MOp} {l : Line} {ls : List Line} {d v : Nat} {rest : List (List Line × Nat)} (hrun : (s.core core).mrun = some o)
  (hstages : o.stages = (l :: ls, d) :: rest) (hv : s.opVc core o = v)
include hrun hstages hv

theorem execMatrixLineFetch_early (h : 2 * v + 1 < o.g) : execMatrixLineFetch core s = .next s := by
  simp only [execMatrixLineFetch, hrun, hstages, hv, h, if_true]

section
variable (hdue : o.g ≤ 2 * v + 1)
include hdue

theorem execMatrixLineFetch_timed (h : o.start ≠ none) : execMatrixLineFetch core s = .next (s.keepsLine s core o l ls d rest o.g) := by
  have due : ¬2 * v + 1 < o.g := by omega
  simp only [execMatrixLineFetch, hrun, hstages, hv, due, Option.isSome_iff_ne_none.mpr h, if_true, if_false, List.isEmpty_iff]
  rfl

/-- A line of an untimed operation has got a router cycle of its bank (R155, R241). -/
theorem execMatrixLineFetch_untimed (h : o.start = none) {c : Nat}
    (hc : s.cycleOf (if l.tile = tileOfCore core then 5 else 3) l.tile l.bank (decide (2 * v < o.g)) = some c) :
    execMatrixLineFetch core s = .next (s.keepsLine (s.modTile l.tile (fun i => { i with bankUse := c :: i.bankUse })) core o l ls d rest
      (if c < 128 then 2 * v + 1 else 2 * v)) := by
  have due : ¬2 * v + 1 < o.g := by omega
  have line (p : Loc) : (s.modTile l.tile (fun i => { i with bankUse := c :: i.bankUse })).readLoc p 64 = s.readLoc p 64 :=
    State.readLoc_congr rfl rfl 64
  simp only [execMatrixLineFetch, hrun, hstages, hv, due, h, Option.isSome_none, Bool.false_eq_true, if_false, List.isEmpty_iff, beq_iff_eq,
    hc, Option.map_some, line, State.keepsLine, State.withLine]

end

end

/-! Completion (R237, R238, R243, R248, R249). -/

/-- A fold over states that carries a result beside the state keeps what each step keeps of the state. -/
theorem foldl_fst_keeps {α β γ : Type} (p : State → β) (f : State × γ → α → State × γ) (h : ∀ r a, p (f r a).1 = p r.1) (l : List α) :
    ∀ r, p (l.foldl f r).1 = p r.1 := by
  induction l with
  | nil => exact fun _ => rfl
  | cons a rest ih => exact fun r => (ih (f r a)).trans (h r a)

theorem State.writeLoc_ctxs (l : Loc) (bs : List Byte) : (s.writeLoc l bs).ctxs = s.ctxs := by
  simp only [writeLoc]
  split <;> rfl

theorem State.storeAcc_ctxs (o : MOp) (ty : Ty) (rm : Rm) (sat : Bool) (e : TsEnt) : (s.storeAcc core o ty rm sat e).1.ctxs = s.ctxs := by
  refine foldl_fst_keeps State.ctxs _ (fun r i => ?_) _ _
  refine (foldl_keeps State.ctxs _ (fun u b => ?_) _ _).trans (foldl_keeps State.ctxs _ (fun u b => ?_) _ _)
  · dsimp only
    split
    · exact State.writeLoc_ctxs ..
    · rfl
  · dsimp only
    split
    · exact State.writeLoc_ctxs ..
    · rfl

/-- The effect of an operation is on the accumulators or on memory; no context changes (R237, R248, R249). -/
theorem State.finishOp_ctxs (o : MOp) : (s.finishOp core o).1.ctxs = s.ctxs := by
  simp only [finishOp]
  split
  · split <;> rfl
  · rfl
  · rfl
  · exact State.storeAcc_ctxs ..

/-- The device after an operation's effect: the engine idle and the operation's reservations gone (R240). -/
def State.afterOp (s : State) (core : Nat) (o : MOp) : State :=
  ((s.finishOp core o).1.modCore core (fun k => { k with mrun := none })).modTile (tileOfCore core) (fun t => { t with
    rsvd := t.rsvd.filter (fun r => !(r.core == core && r.id == o.id)) })

/-- The thread that issued an operation is still there. -/
def State.issuerLives (s : State) (o : MOp) : Bool := (s.ctx o.ctx).used && (s.ctx o.ctx).uid == o.uid

/-- The issuing thread's counters after an operation (R238). -/
def State.countsOp (s : State) (o : MOp) (counts : MxCount) : State :=
  if s.issuerLives o then s.modCtx o.ctx (fun c => { c with mxc := mxcAdd c.mxc counts }) else s

/-- The arrival of an operation at its barrier (R243). -/
def State.arrivesOp (s : State) (o : MOp) : State :=
  match o.bar with
  | some b => s.arriveAt b 1 o.tag 0 0
  | none => s

theorem State.issuerLives_afterOp (o : MOp) : (s.afterOp core o).issuerLives o = s.issuerLives o := by
  have kept : (s.afterOp core o).ctx o.ctx = s.ctx o.ctx := ctx_of_ctxs (finishOp_ctxs o) _
  rw [issuerLives, issuerLives, kept]

/-- At its completion vc an operation takes effect and counts; a timed one arrives at its barrier, and the thread of an untimed one goes on
(R238, R240, R243). -/
theorem execMatrixOperationComplete_due {o : MOp} {d : Nat} (hrun : (s.core core).mrun = some o) (hdone : o.done = some d)
    (hdue : d ≤ s.opVc core o) (hstore : s.storeHeld o = false) (hbar : ∀ b, o.bar = some b → s.linesHeld b 16 = false) {x : State}
    (hx : (s.afterOp core o).countsOp o (s.finishOp core o).2 = x) : execMatrixOperationComplete core s
      = .next (if o.start = none then (if s.issuerLives o then x.complete o.ctx else x) else x.arrivesOp o) := by
  have free : o.bar.any (fun b => s.linesHeld b 16) = false := by
    cases h : o.bar with
    | none => rfl
    | some b => exact hbar b h
  subst hx
  rw [← State.issuerLives_afterOp (core := core)]
  simp only [execMatrixOperationComplete, hrun, hdone, Nat.not_lt.mpr hdue, decide_false, hstore, free, Bool.or_self, Bool.false_eq_true, if_false]
  cases o.start with
  | none => exact (apply_ite Host.Outcome.next ..).symm
  | some v => rfl

/-! Clearing an accumulator (R248). -/

theorem accKey_tile {e i j : Nat} (hi : i < 32) (hj : j < 32) : accKey e i j / 1024 = e := by
  rw [accKey]
  omega

theorem get_accZero (acc : Tbl (BitVec 32)) (f64 : Bool) (d : Nat) {e i j : Nat} (hi : i < 32) (hj : j < 32) :
    Tbl.get 0 (accZero acc f64 d) (accKey e i j) = if e = d ∨ (f64 = true ∧ e = d + 1) then 0 else Tbl.get 0 acc (accKey e i j) := by
  rw [accZero, Tbl.get_filter_key 0 (fun k => !(k / 1024 == d || f64 && k / 1024 == d + 1)), accKey_tile hi hj]
  have keeps : (!(e == d || f64 && e == d + 1)) = true ↔ ¬(e = d ∨ (f64 = true ∧ e = d + 1)) := by
    cases f64 <;> simp
  simp only [keeps, ite_not]

end

/-! Links (R252, R253). -/

/-- A thread that sleeps on the empty FIFO of a side wakes (R253). -/
def State.wakeLink (east : Bool) (s : State) (k : Nat) : State :=
  match (s.ctx k).wait with
  | .link e => if e == east then (s.reissue k).logWake k 0x05 else s
  | _ => s

section
variable {s : State} {core : Nat} {east : Bool}

theorem State.wakeLink_cores (k : Nat) : (s.wakeLink east k).cores = s.cores := by
  simp only [wakeLink]
  split
  · split
    · exact logWake_cores ..
    · rfl
  · rfl

theorem State.wakeLink_wait (k j : Nat) : ((s.wakeLink east k).ctx j).wait
    = if j = k ∧ (s.ctx k).wait = .link east then .none else (s.ctx j).wait := by
  have woken : (((s.reissue k).logWake k 0x05).ctx j).wait = if j = k then .none else (s.ctx j).wait := by
    rw [ctx_logWake, reissue, ctx_modCtx_eq]
    split <;> rfl
  rw [wakeLink]
  split
  · next e he =>
    by_cases h : e = east
    · simp only [h, beq_self_eq_true, if_true, woken, he, and_true]
    · rw [if_neg (by simpa using h), if_neg (by simp [he, h])]
  · next hne => rw [if_neg (fun h => hne east h.2)]

/-- Of the threads listed none sleeps on the link any more, and who is awake stays so (R253). -/
theorem State.foldl_wakeLink_wait (l : List Nat) {j : Nat} : ∀ {s : State},
    ((s.ctx j).wait = .link east ∧ j ∈ l ∨ (s.ctx j).wait = .none) → ((l.foldl (State.wakeLink east) s).ctx j).wait = .none := by
  induction l with
  | nil =>
    rintro s (⟨-, h⟩ | h)
    · cases h
    · exact h
  | cons k rest ih =>
    intro s h
    refine ih ?_
    rw [wakeLink_wait]
    obtain ⟨hw, hj⟩ | hw := h
    · by_cases hk : j = k
      · exact .inr (if_pos ⟨hk, hk ▸ hw⟩)
      · exact .inl ⟨(if_neg (fun h => hk h.1)).trans hw, (List.mem_cons.mp hj).resolve_left hk⟩
    · refine .inr ?_
      split
      · rfl
      · exact hw

/-- A word has left its sender and stands in the FIFO of its receiver (R252). -/
def State.wordLands (s : State) (sender i core : Nat) (east : Bool) (w : Vec) : State :=
  (s.modCore sender (fun c => { c with fly := c.fly.eraseIdx i })).modCore core (fun c =>
    if east then { c with le := c.le ++ [w] } else { c with lw := c.lw ++ [w] })

/-- The oldest word in flight to a core, its packet come where one carries it, lands and wakes who waits for it (R252, R253). -/
theorem execLinkWordArrival_lands {sender i : Nat} {f : Flight} (hlink : s.linkCore core east = some sender)
    (hi : (s.core sender).fly.findIdx? (fun f => f.east == !east) = some i) (hf : (s.core sender).fly[i]? = some f)
    (hdue : f.due ≤ s.rcOf (tileOfCore core))
    (hcome : f.mesh = true → ∃ p ∈ s.net, p.pos = p.dst ∧ p.stream = State.streamOf 3 sender ∧ p.body = .link f.word f.east)
    (hreplay : ∀ k ∈ s.ctxsOf core, s.replaying (tileOfCtx k) = false) :
    ∃ u : State, execLinkWordArrival core east s = .next (((u.wordLands sender i core east f.word).ctxsOf core).foldl
      (State.wakeLink east) (u.wordLands sender i core east f.word)) ∧ u.cores = s.cores ∧ u.ctxs = s.ctxs := by
  have free : (s.ctxsOf core).any (fun k => (s.ctx k).wait == .link east && s.wakeAhead k) = false := by
    rw [List.any_eq_false]
    intro k hk
    simp [State.wakeAhead_of_not_replaying (hreplay k hk)]
  simp only [execLinkWordArrival, hlink, hi, hf, free, hdue, decide_true, Bool.true_and, Bool.or_false]
  rw [if_neg]
  · refine ⟨_, rfl, ?_, ?_⟩
    · split <;> rfl
    · split <;> rfl
  · cases hmesh : f.mesh with
    | false => simp
    | true =>
      obtain ⟨p, hp, hpos, hstream, hbody⟩ := hcome hmesh
      simp only [List.findIdx?_isSome, Bool.not_true, Bool.false_or, Bool.not_eq_true', Bool.not_eq_false]
      exact List.any_eq_true.mpr ⟨p, hp, by simp [hpos, hstream, hbody]⟩

/-- The contexts of a core depend on the context table alone. -/
theorem State.ctxsOf_congr {u : State} (h : u.ctxs = s.ctxs) (core : Nat) : u.ctxsOf core = s.ctxsOf core := by
  simp only [ctxsOf, ctx_of_ctxs h]

/-- What the landing of a word leaves of sender and receiver, and of the threads that sleep on the link (R252, R253). -/
theorem State.wordLands_cores {u : State} {sender i : Nat} {w : Vec} (hu : u.cores = s.cores) (hne : sender ≠ core) :
    ((u.wordLands sender i core east w).core sender).fly = (s.core sender).fly.eraseIdx i
    ∧ ((u.wordLands sender i core east w).core core).le = (s.core core).le ++ (if east then [w] else [])
    ∧ ((u.wordLands sender i core east w).core core).lw = (s.core core).lw ++ (if east then [] else [w]) := by
  rw [wordLands, core_modCore_ne _ _ _ _ hne, core_modCore, core_modCore, core_modCore_ne _ _ _ _ hne.symm, core_of_cores hu,
    core_of_cores hu]
  cases east <;> simp

end

/-- Settles O43: the engine's events by the state of the operation, the link's by the word in flight. -/
theorem matrixAndLinkEvents : Obligations.MatrixAndLinkEvents := by
  intro s core v
  refine ⟨fun o rest => execEngineOperationStart_starts, ?_, ?_, fun acc f64 d e i j hi hj => get_accZero acc f64 d hi hj, ?_,
    fun east => rfl⟩
  · intro o l ls d rest hrun hstages v' fetched keeps
    exact ⟨fun htimed hg => execMatrixLineFetch_timed hrun hstages rfl hg htimed,
      fun huntimed hg c hc => execMatrixLineFetch_untimed hrun hstages rfl hg huntimed hc, execMatrixLineFetch_early hrun hstages rfl⟩
  · intro o d hrun hdone hdue hstore hbar
    have ends {x : State} (hx : (s.afterOp core o).countsOp o (s.finishOp core o).2 = x) :=
      execMatrixOperationComplete_due hrun hdone hdue hstore hbar hx
    have lives : s.issuerLives o = true ↔ (s.ctx o.ctx).used = true ∧ (s.ctx o.ctx).uid = o.uid := by simp [State.issuerLives]
    have left := State.issuerLives_afterOp (s := s) (core := core) o
    refine ⟨fun mine => ?_, fun lost => ?_⟩
    · have alive := lives.mpr mine
      exact (ends (if_pos (left.trans alive))).trans (by rw [if_pos alive]; rfl)
    · have gone : ¬s.issuerLives o = true := fun alive => lost (lives.mp alive)
      exact (ends (if_neg (left ▸ gone))).trans (by rw [if_neg gone]; rfl)
  · intro east sender i f hlink hne hi hf hdue hcome hreplay
    obtain ⟨u, lands, hcores, hctxs⟩ := execLinkWordArrival_lands hlink hi hf hdue hcome hreplay
    have awake : ((u.wordLands sender i core east f.word).ctxsOf core) = s.ctxsOf core := State.ctxsOf_congr hctxs core
    have kept (k : Nat) : (((s.ctxsOf core).foldl (State.wakeLink east) (u.wordLands sender i core east f.word)).core k)
        = (u.wordLands sender i core east f.word).core k :=
      State.core_of_cores (foldl_keeps State.cores _ (fun s k => State.wakeLink_cores (s := s) k) ..) k
    obtain ⟨flies, le, lw⟩ := State.wordLands_cores (east := east) (i := i) (w := f.word) hcores hne
    refine ⟨_, lands, ?_⟩
    rw [awake, kept, kept]
    refine ⟨flies, le, lw, fun k hk hwait => State.foldl_wakeLink_wait _ (.inl ⟨?_, hk⟩)⟩
    exact (congrArg Ctx.wait (State.ctx_of_ctxs hctxs k)).trans hwait

end Sys2Proof.Machine
end

section
/-! Scalar arithmetic (O11, O12): the number in the low bits of a word, products and their high halves, and the division that takes
eight steps of a byte (R71, R193, R194, R197). -/

namespace Sys2Proof.Machine

section
variable {s : State} {g : Guard} (hi : s.Issues g)
include hi

/-- An instruction whose whole effect is a scalar result writes it (R178). -/
theorem setX_next {d : BitVec 6} {lat : Nat} {f : State → Word} {v : Word} (hv : f s = v) :
    setX g d lat s f = .next (s.writeX d v lat) :=
  run_ok hi (congrArg (fun v => Except.ok (s.writeX d v lat)) hv)

/-- An instruction whose whole effect is a predicate writes it (R176). -/
theorem setP_next {d : BitVec 3} {f : State → Bool} {v : Bool} (hv : f s = v) : setP g d s f = .next (s.writeP d v) :=
  run_ok hi (congrArg (fun v => Except.ok (s.writeP d v)) hv)

end

/-! Numbers of a type (R71, R193). -/

section
variable {ty : Ty} (h : ty.isWidth = true)
include h

/-- The number of a code is that of its low bits, read with the signedness of the type. -/
theorem intOf_eq (c : Nat) :
    intOf ty c = if ty.isS then (BitVec.ofNat ty.bits c).toInt else ((BitVec.ofNat ty.bits c).toNat : Int) := by
  have narrow : (BitVec.ofNat 64 c).setWidth ty.bits = BitVec.ofNat ty.bits c :=
    BitVec.setWidth_ofNat_of_le (by cases ty <;> decide) c
  rw [← intVal_ofNat h, intVal, narrow]

/-- A code extended to 64 bits is its low bits, extended by the signedness of the type. -/
theorem extend_eq (c : Nat) :
    extend ty c = if ty.isS then (BitVec.ofNat ty.bits c).signExtend 64 else (BitVec.ofNat ty.bits c).setWidth 64 := by
  rw [extend, intOf_eq h]
  cases ty.isS
  · rw [if_neg Bool.false_ne_true, if_neg Bool.false_ne_true, BitVec.ofInt_natCast, BitVec.ofNat_toNat]
  · rfl

theorem intMin_eq_lowest : intMin ty = lowest ty := by
  revert h; cases ty <;> decide

theorem intMax_eq_highest : intMax ty = highest ty := by
  revert h; cases ty <;> decide

theorem lowest_le_highest : lowest ty ≤ highest ty := by
  revert h; cases ty <;> decide

/-- The code of a number that is wrapped, or clamped with SAT, extended to 64 bits. -/
theorem extend_wrapInt (sat : Bool) (v : Int) : extend ty (wrapInt ty sat v) = extended ty sat v := by
  have code (v : Int) : BitVec.ofNat ty.bits (codeInt ty v) = BitVec.ofInt ty.bits v := by
    apply BitVec.eq_of_toNat_eq
    have modulus : ((2 ^ ty.bits : Nat) : Int) = 2 ^ ty.bits := by push_cast; rfl
    have nonneg : 0 ≤ v % 2 ^ ty.bits := Int.emod_nonneg v (by positivity)
    have small : v % 2 ^ ty.bits < 2 ^ ty.bits := Int.emod_lt_of_pos v (by positivity)
    rw [BitVec.toNat_ofNat, BitVec.toNat_ofInt, codeInt, modulus, Nat.mod_eq_of_lt (by omega)]
  have clamp : max (intMin ty) (min (intMax ty) v) = min (max v (lowest ty)) (highest ty) := by
    rw [intMin_eq_lowest h, intMax_eq_highest h]
    have := lowest_le_highest h
    omega
  rw [extend_eq h, wrapInt, code, clamp]
  rfl

end

theorem wrapInt_natTy (ty : Ty) (sat : Bool) (v : Int) : wrapInt (natTy ty) sat v = wrapInt ty sat v := by
  cases ty <;> rfl

/-- ADD, SUB and MUL at a type: the operation on the numbers (R193). -/
theorem arith_eq {ty : Ty} (h : ty.isWidth = true) (op : Int → Int → Int) (sat : Bool) (a b : Word) :
    arith op ty sat a b = extended ty sat (op (intVal ty a) (intVal ty b)) := by
  have number (x : Word) : intOf ty x.toNat = intVal ty x := by rw [← intVal_ofNat h, BitVec.ofNat_toNat, BitVec.setWidth_eq]
  have natural (c : Nat) : extend (natTy ty) c = extend ty c := by rw [extend, intOf_natTy, extend]
  simp only [arith, intOf_natTy, wrapInt_natTy, natural, number, extend_wrapInt h]

/-- Settles O11: each instruction is its operation on the numbers of its operands. -/
theorem scalarArithmetic : Obligations.ScalarArithmetic := by
  intro s g ty sat d a b imm hi h A B I
  simp only [exec]
  exact ⟨setX_next hi (arith_eq h ..), setX_next hi (arith_eq h ..), setX_next hi (arith_eq h ..), setX_next hi (arith_eq h ..),
    setX_next hi (arith_eq h ..)⟩

/-! Products (R194). -/

theorem ofInt_high (p : Int) : BitVec.ofInt 64 (p / 2 ^ 64) = (BitVec.ofInt 128 p).extractLsb' 64 64 := by
  apply BitVec.eq_of_toNat_eq
  rw [BitVec.toNat_ofInt, BitVec.extractLsb'_toNat, BitVec.toNat_ofInt, Nat.shiftRight_eq_div_pow]
  omega

theorem mul_high (a b : Word) :
    BitVec.ofNat 64 (a.toNat * b.toNat / 2 ^ 64) = (a.setWidth 128 * b.setWidth 128).extractLsb' 64 64 := by
  have wide (x : Word) : (x.setWidth 128).toNat = x.toNat := BitVec.toNat_setWidth_of_le (by decide)
  apply BitVec.eq_of_toNat_eq
  rw [BitVec.toNat_ofNat, BitVec.extractLsb'_toNat, BitVec.toNat_mul, wide, wide, Nat.shiftRight_eq_div_pow]
  omega

/-! Division by steps of a byte (R197). -/

/-- One step on a remainder and a quotient, for divisor D and dividend N. -/
def divideByte (D : Nat) (N : Word) (rq : Nat × Nat) (j : Nat) : Nat × Nat :=
  let v := rq.1 * 256 + (N.extractLsb' (56 - 8 * j) 8).toNat
  let q := if D = 0 then 255 else min (v / D) 255
  ((v - q * D) % 2 ^ 64, (rq.2 * 256 + q) % 2 ^ 64)

/-- The step takes the division of the first bytes of the dividend to that of one byte more. -/
theorem div_append_byte {D p c : Nat} (hD : 0 < D) (hc : c < 256) :
    let v := p % D * 256 + c
    min (v / D) 255 = v / D ∧ v - v / D * D = (p * 256 + c) % D ∧ p / D * 256 + v / D = (p * 256 + c) / D := by
  intro v
  have rem : p % D < D := Nat.mod_lt _ hD
  have small : v / D < 256 := (Nat.div_lt_iff_lt_mul hD).mpr (by omega)
  have split : p * 256 + c = v + D * (p / D * 256) := by
    have := Nat.mod_add_div p D
    calc p * 256 + c = (p % D + D * (p / D)) * 256 + c := by rw [this]
      _ = v + D * (p / D * 256) := by ring
  refine ⟨by omega, ?_, ?_⟩
  · rw [split, Nat.add_mul_mod_self_left, Nat.mod_eq_sub_div_mul]
  · rw [split, Nat.add_mul_div_left _ _ hD, Nat.add_comm]

/-- After k steps from 0 the first k bytes of the dividend have been divided; a divisor of 0 gives bytes of 255. -/
theorem foldl_divideByte (D : Nat) (N : Word) {k : Nat} (hk : k ≤ 8) :
    (List.range k).foldl (divideByte D N) (0, 0) = if D = 0 then (N.toNat / 2 ^ (64 - 8 * k), 2 ^ (8 * k) - 1)
      else (N.toNat / 2 ^ (64 - 8 * k) % D, N.toNat / 2 ^ (64 - 8 * k) / D) := by
  induction k with
  | zero =>
    have none : N.toNat / 2 ^ (64 - 8 * 0) = 0 := Nat.div_eq_of_lt N.isLt
    rw [none, Nat.zero_mod, Nat.zero_div]
    exact (ite_self _).symm
  | succ k ih =>
    rw [List.range_succ, List.foldl_append, ih (by omega), List.foldl_cons, List.foldl_nil]
    generalize hp : N.toNat / 2 ^ (64 - 8 * k) = p
    generalize hc : (N.extractLsb' (56 - 8 * k) 8).toNat = c
    have byte : c < 256 := hc ▸ (N.extractLsb' (56 - 8 * k) 8).isLt
    have longer : N.toNat / 2 ^ (64 - 8 * (k + 1)) = p * 256 + c := by
      have e : 64 - 8 * k = (56 - 8 * k) + 8 := by omega
      have e' : 64 - 8 * (k + 1) = 56 - 8 * k := by omega
      rw [← hp, ← hc, BitVec.extractLsb'_toNat, Nat.shiftRight_eq_div_pow, e, e', Nat.pow_add, ← Nat.div_div_eq_div_mul]
      omega
    have fits : p * 256 + c < 2 ^ 64 := longer ▸ (Nat.div_le_self ..).trans_lt N.isLt
    rw [longer]
    by_cases hD : D = 0
    · have bytes : 2 ^ (8 * (k + 1)) = 2 ^ (8 * k) * 256 := by rw [Nat.mul_succ, Nat.pow_add]
      have le : 2 ^ (8 * (k + 1)) ≤ 2 ^ 64 := Nat.pow_le_pow_right (by decide) (by omega)
      have pos : 0 < 2 ^ (8 * k) := by positivity
      simp only [divideByte, hD, if_true, hc, Nat.mul_zero, Nat.sub_zero, Nat.mod_eq_of_lt fits, Prod.mk.injEq, true_and]
      have last : (2 ^ (8 * k) - 1) * 256 + 255 = 2 ^ (8 * (k + 1)) - 1 := by omega
      rw [last, Nat.mod_eq_of_lt (Nat.sub_one_lt_of_le (by positivity) le)]
    · obtain ⟨least, rem, quot⟩ := div_append_byte (p := p) (Nat.pos_of_ne_zero hD) byte
      simp only [divideByte, hD, if_false, hc, least, rem, quot, Prod.mk.injEq]
      exact ⟨Nat.mod_eq_of_lt ((Nat.mod_le ..).trans_lt fits), Nat.mod_eq_of_lt ((Nat.div_le_self ..).trans_lt fits)⟩

/-- Settles O12: the exact products, and the division byte by byte. -/
theorem highProductsAndDivision : Obligations.HighProductsAndDivision := by
  refine ⟨fun s g d a b hi => ?_, ?_⟩
  · simp only [exec]
    exact ⟨⟨_, setX_next hi rfl, ofInt_high _⟩, _, setX_next hi rfl, mul_high ..⟩
  intro s g d a b c j hi D byte v q
  have step : divStep (s.readX a) (s.readX c) (s.readX b) j.toNat = (q, v - q * D) := by
    have same : (s.readX c).toNat >>> (56 - 8 * j.toNat) % 256 = byte := (BitVec.extractLsb'_toNat (56 - 8 * j.toNat) 8 (s.readX c)).symm
    simp only [divStep, same]
    rfl
  simp only [exec]
  refine ⟨setX_next hi ?_, setX_next hi ?_, fun N => ?_⟩
  · simp only [step]; rfl
  · simp only [step]; rfl
  · have all : 2 ^ (64 - 8 * 8) = 1 := rfl
    have := foldl_divideByte D N (Nat.le_refl 8)
    rw [all, Nat.div_one] at this
    exact this

end Sys2Proof.Machine
end


section
/-! Logic, shifts, extremes, counts and bit fields (O13; R195, R196). -/

namespace Sys2Proof.Machine

/-! Shifts (R195). -/

theorem shAmt_eq (y : Word) : shAmt y = y.toNat % 64 := by
  rw [shAmt, BitVec.extractLsb'_toNat, Nat.shiftRight_zero]

theorem shiftLeft_shAmt (x y : Word) : x <<< shAmt y = BitVec.ofNat 64 (x.toNat * 2 ^ (y.toNat % 64)) := by
  apply BitVec.eq_of_toNat_eq
  rw [shAmt_eq, BitVec.toNat_shiftLeft, BitVec.toNat_ofNat, Nat.shiftLeft_eq]

theorem shiftRight_shAmt (x y : Word) : x >>> shAmt y = BitVec.ofNat 64 (x.toNat / 2 ^ (y.toNat % 64)) := by
  apply BitVec.eq_of_toNat_eq
  rw [shAmt_eq, BitVec.toNat_ushiftRight, BitVec.toNat_ofNat, Nat.shiftRight_eq_div_pow]
  exact (Nat.mod_eq_of_lt ((Nat.div_le_self ..).trans_lt x.isLt)).symm

theorem sshiftRight_shAmt (x y : Word) : x.sshiftRight (shAmt y) = BitVec.ofInt 64 (x.toInt / 2 ^ (y.toNat % 64)) := by
  rw [shAmt_eq, BitVec.sshiftRight, Int.shiftRight_eq_div_pow]
  push_cast
  rfl

/-! Least and greatest (R195). -/

theorem sMin_eq (x y : Word) : sMin x y = if x.toInt < y.toInt then x else y := by simp only [sMin, BitVec.slt, decide_eq_true_eq]

theorem sMax_eq (x y : Word) : sMax x y = if x.toInt < y.toInt then y else x := by simp only [sMax, BitVec.slt, decide_eq_true_eq]

theorem uMin_eq (x y : Word) : uMin x y = if x.toNat < y.toNat then x else y := by simp only [uMin, BitVec.ult, decide_eq_true_eq]

theorem uMax_eq (x y : Word) : uMax x y = if x.toNat < y.toNat then y else x := by simp only [uMax, BitVec.ult, decide_eq_true_eq]

/-! Counts (R196). -/

/-- What the leading zeros leave of a number is its highest one bit. -/
theorem clzN_spec (x : Word) : if x = 0 then clzN 64 x.toNat = 64 else clzN 64 x.toNat < 64 ∧ x.toNat / 2 ^ (63 - clzN 64 x.toNat) = 1 := by
  split
  · next h => subst h; rfl
  · next h =>
    have pos : x.toNat ≠ 0 := fun e => h (BitVec.eq_of_toNat_eq e)
    have high : x.toNat.log2 < 64 := (Nat.log2_lt pos).mpr x.isLt
    have low : 63 - (64 - 1 - x.toNat.log2) = x.toNat.log2 := by omega
    rw [clzN, if_neg pos, low]
    refine ⟨by omega, Nat.div_eq_of_lt_le ?_ ?_⟩
    · rw [Nat.one_mul]; exact Nat.log2_self_le pos
    · rw [Nat.mul_comm, ← Nat.pow_succ]; exact Nat.lt_log2_self

/-- Below the trailing zeros stands the lowest one bit, and nothing lower. -/
theorem ctzN_spec (x : Word) : if x = 0 then ctzN 64 x.toNat = 64
    else ctzN 64 x.toNat < 64 ∧ x.getLsbD (ctzN 64 x.toNat) = true ∧ x.toNat % 2 ^ ctzN 64 x.toNat = 0 := by
  split
  · next h => subst h; decide
  · next h =>
    cases first : (List.range 64).find? (fun i => x.toNat.testBit i) with
    | none =>
      refine absurd (BitVec.eq_of_getLsbD_eq fun i hi => ?_) h
      exact (Bool.eq_false_iff.mpr (List.find?_eq_none.mp first i (List.mem_range.mpr hi))).trans BitVec.getLsbD_zero.symm
    | some n =>
      obtain ⟨one, below, clear⟩ := List.find?_range_eq_some.mp first
      have count : ctzN 64 x.toNat = n := by rw [ctzN, first, Option.getD_some]
      rw [count]
      refine ⟨List.mem_range.mp below, one, Nat.eq_of_testBit_eq fun i => ?_⟩
      rw [Nat.testBit_mod_two_pow, Nat.zero_testBit]
      by_cases hi : i < n
      · simpa [hi] using clear i hi
      · simp [hi]

theorem popcN_eq (x : Word) : popcN 64 x.toNat = (List.range 64).countP (fun i => x.getLsbD i) := List.countP_eq_length_filter.symm

/-! Bit fields (R196). -/

/-- BFX takes the field, zero- or sign-extended. -/
theorem bfx_eq (sx : Bool) (x : Word) (f : BitField) :
    BitVec.ofInt 64 (if sx && (fieldOfWord x f).testBit f.len1.toNat then (fieldOfWord x f : Int) - 2 ^ (f.len1.toNat + 1)
      else fieldOfWord x f) = if sx then (x.extractLsb' f.lsb.toNat (f.len1.toNat + 1)).signExtend 64
        else (x.extractLsb' f.lsb.toNat (f.len1.toNat + 1)).setWidth 64 := by
  generalize hv : x.extractLsb' f.lsb.toNat (f.len1.toNat + 1) = v
  have number : fieldOfWord x f = v.toNat := by rw [← hv, BitVec.extractLsb'_toNat, fieldOfWord]
  have sign : v.toNat.testBit f.len1.toNat = v.msb := (BitVec.msb_eq_getLsbD_last v).symm
  rw [number, sign]
  cases sx
  · simp [BitVec.ofInt_natCast]
  · simp [BitVec.signExtend, BitVec.toInt_eq_msb_cond]

theorem getLsbD_bfx (sx : Bool) (x : Word) (f : BitField) {i : Nat} (hi : i < 64) :
    (if sx then (x.extractLsb' f.lsb.toNat (f.len1.toNat + 1)).signExtend 64
        else (x.extractLsb' f.lsb.toNat (f.len1.toNat + 1)).setWidth 64).getLsbD i
      = if i < f.len1.toNat + 1 then x.getLsbD (f.lsb.toNat + i) else sx && x.getLsbD (f.lsb.toNat + (f.len1.toNat + 1) - 1) := by
  cases sx
  · by_cases inside : i < f.len1.toNat + 1 <;> simp [hi, inside]
  · rw [if_pos rfl, BitVec.getLsbD_signExtend, BitVec.msb_eq_getLsbD_last]
    by_cases inside : i < f.len1.toNat + 1 <;> simp [hi, inside]

/-- BFI puts the low bits of a word into the field of another. -/
theorem getLsbD_bfi (old x : Word) (lsb len : Nat) {i : Nat} (hi : i < 64) :
    let m : Word := BitVec.ofNat 64 ((2 ^ len - 1) <<< lsb)
    ((old &&& ~~~m) ||| ((x <<< lsb) &&& m)).getLsbD i
      = if lsb ≤ i ∧ i < lsb + len then x.getLsbD (i - lsb) else old.getLsbD i := by
  intro m
  have bit : m.getLsbD i = decide (lsb ≤ i ∧ i < lsb + len) := by
    rw [BitVec.getLsbD_ofNat, Nat.testBit_shiftLeft, Nat.testBit_two_pow_sub_one]
    by_cases low : lsb ≤ i
    · have : i - lsb < len ↔ i < lsb + len := by omega
      simp [hi, low, this]
    · simp [low]
  rw [BitVec.getLsbD_or, BitVec.getLsbD_and, BitVec.getLsbD_and, BitVec.getLsbD_not, BitVec.getLsbD_shiftLeft, bit]
  by_cases inside : lsb ≤ i ∧ i < lsb + len
  · simp [hi, inside]
  · simp [hi, inside]

/-- Settles O13: each instruction by the law of its operation. -/
theorem logicAndBits : Obligations.LogicAndBits := by
  refine ⟨?_, ?_⟩
  · intro s g d a b imm hi A B I gives shl shr sar rol
    simp only [gives]
    simp only [exec]
    have result {f : State → Word} {v : Word} (hv : f s = v) : setX g d 1 s f = .next (s.writeX d v 1) := setX_next hi hv
    have rotate (y : Word) : A.rotateLeft (shAmt y) = rol A y := by rw [shAmt_eq]
    exact ⟨result rfl, result rfl, result rfl, result rfl, result rfl, result rfl, result rfl, result rfl,
      result (shiftLeft_shAmt ..), result (shiftLeft_shAmt ..), result (shiftRight_shAmt ..), result (shiftRight_shAmt ..),
      result (sshiftRight_shAmt ..), result (sshiftRight_shAmt ..), result (rotate _), result (rotate _),
      result (sMin_eq ..), result (sMin_eq ..), result (sMax_eq ..), result (sMax_eq ..),
      result (uMin_eq ..), result (uMin_eq ..), result (uMax_eq ..), result (uMax_eq ..)⟩
  · intro s g d a bf sx hi hbf A len lsb gives
    simp only [gives]
    simp only [exec]
    have result {f : State → Word} {v : Word} (hv : f s = v) : setX g d 1 s f = .next (s.writeX d v 1) := setX_next hi hv
    have signed {ty : Ty} (h : ty.isWidth = true) (hs : ty.isS = true) : extend ty A.toNat = (A.setWidth ty.bits).signExtend 64 := by
      rw [extend_eq h, if_pos hs, BitVec.ofNat_toNat]
    have unsigned {ty : Ty} (h : ty.isWidth = true) (hs : ty.isS = false) : extend ty A.toNat = (A.setWidth ty.bits).setWidth 64 := by
      rw [extend_eq h, if_neg (by simp [hs]), BitVec.ofNat_toNat]
    refine ⟨⟨_, result rfl, clzN_spec A⟩, ⟨_, result rfl, ctzN_spec A⟩, result (congrArg _ (popcN_eq A)),
      ⟨_, result (bfx_eq sx A bf), fun i => getLsbD_bfx sx A bf⟩, ⟨_, result rfl, fun i => getLsbD_bfi _ A lsb len⟩,
      result (signed rfl rfl), result (signed rfl rfl), result (signed rfl rfl), result (unsigned rfl rfl),
      result (unsigned rfl rfl), result (unsigned rfl rfl)⟩

end Sys2Proof.Machine
end

section
/-! Comparisons, moves, predicates and LEA (O14; R198-R200). -/

namespace Sys2Proof.Machine

theorem valueOf_natTy (ty : Ty) (c : Nat) : valueOf (natTy ty) c = valueOf ty c := by
  by_cases h : ty = .none
  · subst h; rfl
  · rw [natTy, if_neg (by simpa using h)]

/-- CMP compares the values of the low bits of its operands (R198). -/
theorem cmpWords_eq {ty : Ty} (h : ty.isCmp = true) (c : Cond) (a b : Word) : cmpWords ty c a b = compares ty c a.toNat b.toNat := by
  simp only [cmpWords, natTy_bits, valueOf_natTy, condHolds_valueOf h]

/-- Words side by side, as numbers. -/
theorem toNat_append_eq {w v : Nat} (x : BitVec w) (y : BitVec v) : (x ++ y).toNat = x.toNat * 2 ^ v + y.toNat := by
  rw [BitVec.toNat_append, ← Nat.shiftLeft_add_eq_or_of_lt y.isLt, Nat.shiftLeft_eq]

/-- The high half from the immediate, the low half as it was (R199). -/
theorem append_low (imm : BitVec 32) (x : Word) : imm ++ x.extractLsb' 0 32 = BitVec.ofNat 64 (imm.toNat * 2 ^ 32 + x.toNat % 2 ^ 32) := by
  apply BitVec.eq_of_toNat_eq
  rw [toNat_append_eq, BitVec.extractLsb'_toNat, Nat.shiftRight_zero, BitVec.toNat_ofNat]
  omega

section
variable {s : State} {g : Guard} {d : BitVec 6} {m : MemOp} (hi : s.Issues g)
include hi

/-- LEA writes the address when the segment is of some kind and the offset within its limit (R200). -/
theorem execLea_within (hkind : (s.readSg m.sg).kind ≠ 0) (hlimit : (s.eaOff m).toNat ≤ (s.readSg m.sg).limit.toNat) :
    execLea g d m s = .next (s.writeX d (s.ea m) 1) := by
  refine run_ok hi ?_
  simp only [bne_iff_ne.mpr hkind, hlimit, decide_true, Bool.and_self, check_true]
  rfl

/-- Of no kind, or past the limit, it takes a segment limit fault (R200). -/
theorem execLea_past (h : ¬((s.readSg m.sg).kind ≠ 0 ∧ (s.eaOff m).toNat ≤ (s.readSg m.sg).limit.toNat)) :
    execLea g d m s = .next (s.raise cLimit (s.ea m)) := by
  refine run_trap hi ?_
  have fails : ((s.readSg m.sg).kind != 0 && decide ((s.eaOff m).toNat ≤ (s.readSg m.sg).limit.toNat)) = false :=
    Bool.eq_false_iff.mpr fun ok => h (by simpa using ok)
  simp only [fails, check_false]
  rfl

end

/-- Settles O14: each instruction by its operation, and LEA by its two checks. -/
theorem compareAndMove : Obligations.CompareAndMove := by
  refine ⟨?_, ?_, ?_⟩
  · intro s g ty c d a b imm hi
    simp only [exec]
    refine ⟨fun hwf => ?_, fun hwf => ?_⟩
    · have valid : (ty.isCmp && condOk ty c) = true := hwf
      exact setP_next hi (cmpWords_eq (Bool.and_eq_true_iff.mp valid).1 ..)
    · have valid : (ty.isCmp && condOk ty c && ty != .f64) = true := hwf
      simp only [Bool.and_eq_true] at valid
      exact setP_next hi (cmpWords_eq valid.1.1 ..)
  · intro s g d a b p q r imm hi gives sets
    simp only [gives, sets]
    simp only [exec]
    have nonzero (x : Word) : (x != 0) = decide (x ≠ 0) := by rw [bne, beq_eq_decide, decide_not]
    exact ⟨setX_next hi rfl, setX_next hi rfl, setX_next hi rfl, setX_next hi (append_low ..), setP_next hi (nonzero _),
      setP_next hi rfl, setP_next hi rfl, setP_next hi rfl, setP_next hi rfl⟩
  · intro s g d m hi o e
    have kind : e.attr.extractLsb' 0 3 ≠ 0 ↔ e.kind ≠ 0 := not_congr (BitVec.toNat_inj (y := 0)).symm
    simp only [exec]
    split
    · next h => exact execLea_within hi (kind.mp h.1) h.2
    · next h => exact execLea_past hi fun n => h ⟨kind.mpr n.1, n.2⟩

end Sys2Proof.Machine
end

section
/-! Scalar registers and special registers (O15; R176, R178, R179, R185, R201). -/

namespace Sys2Proof.Machine

namespace State

/-! Writing a scalar register (R176, R178, R179). -/

section
variable {s : State} {r : BitVec 6} {v : Word} {lat : Nat}

theorem coreOfCtx_myCtx (h : s.ThreadOk) : coreOfCtx s.myCtx = s.myCore := by
  obtain ⟨tile, core, num⟩ := h
  refine coreOfCtx_ctxKey ?_ num
  rw [myCore, coreKey]
  omega

theorem tileOfCtx_myCtx (h : s.ThreadOk) : tileOfCtx s.myCtx = s.cur.tile := by
  rw [← tileOfCore_coreOfCtx, coreOfCtx_myCtx h, tileOfCore, myCore, coreKey]
  have core : s.cur.core < 4 := h.2.1
  omega

theorem beq_zero_of_pos (h : 0 < r.toNat) : (r == 0) = false := beq_eq_false_iff_ne.mpr fun e => by subst e; exact absurd h (by decide)

/-- x1 to x31 are written at once, in the thread's own context. -/
theorem writeX_own (hr : 0 < r.toNat) (hp : r.toNat < 32) :
    s.writeX r v lat = s.modMe (fun c => { c with x := Tbl.set 0 c.x r.toNat v }) := by
  simp only [writeX, putX, beq_zero_of_pos hr, hp, Bool.false_eq_true, if_false, if_true]
  rfl

/-- A write of a shared register is appended to the landings of the core. -/
theorem writeX_shared (h : s.ThreadOk) (hr : 32 ≤ r.toNat) : s.writeX r v lat = s.modCore s.myCore (fun c =>
    { c with pend := c.pend ++ [⟨s.rc + lat, s.cur.slot, false, r.toNat - 32, v.setWidth 512⟩] }) := by
  simp only [writeX, putX, beq_zero_of_pos (by omega : 0 < r.toNat), Nat.not_lt.mpr hr, Bool.false_eq_true, if_false,
    coreOfCtx_myCtx h, tileOfCtx_myCtx h, rc]

/-- Outside a second member the group reads the thread's registers as they are (R8, R40). -/
theorem view_of_single (h : s.cur.old = none) : s.view = s.me := by rw [view, h, Option.getD_none]

/-- After a change of the thread's own registers the group reads the changed ones, and shared ones as before. -/
theorem readX_modMe (h : s.cur.old = none) (f : Ctx → Ctx) (q : BitVec 6) : (s.modMe f).readX q
    = if q == 0 then 0 else if q.toNat < 32 then Tbl.get 0 (f s.me).x q.toNat else Tbl.get 0 s.here.k (q.toNat - 32) := by
  have same : (s.modMe f).view = f s.me := (view_of_single (s := s.modMe f) h).trans (me_modMe f)
  rw [readX, same]
  rfl

theorem readX_writeX_own (h : s.cur.old = none) (hr : 0 < r.toNat) (hp : r.toNat < 32) (q : BitVec 6) :
    (s.writeX r v lat).readX q = if q = r then v else s.readX q := by
  rw [writeX_own hr hp, readX_modMe h]
  by_cases e : q = r
  · subst e
    simp only [beq_zero_of_pos hr, hp, Bool.false_eq_true, if_false, if_true, Tbl.get_set_self]
  · have other : q.toNat ≠ r.toNat := fun n => e (BitVec.eq_of_toNat_eq n)
    rw [Tbl.get_set_ne _ _ _ other, if_neg e, readX, view_of_single h]

/-- Until it lands, a write of a shared register is not read (R178). -/
theorem readX_writeX_shared (h : s.ThreadOk) (hr : 32 ≤ r.toNat) (q : BitVec 6) : (s.writeX r v lat).readX q = s.readX q := by
  rw [writeX_shared h hr]
  have landed (f : Core → Core) (hf : (f s.here).k = s.here.k) : (s.modCore s.myCore f).readX q = s.readX q := by
    have same : (s.modCore s.myCore f).here.k = s.here.k := (congrArg Core.k (core_modCore s s.myCore f)).trans hf
    rw [readX, same]
    rfl
  exact landed _ rfl

end

/-! What MFS reads (R185). -/

theorem packed_mode (swx el : Bool) (lvl : BitVec 2) :
    let v : Word := (BitVec.ofBool swx ++ lvl ++ BitVec.ofBool el).setWidth 64
    v.getLsbD 0 = el ∧ v.extractLsb' 1 2 = lvl ∧ v.getLsbD 3 = swx ∧ v.toNat < 16 := by
  revert swx el lvl
  decide

theorem packed_estat (asyn : Bool) (nul : BitVec 2) :
    let v : Word := (BitVec.ofBool asyn ++ nul).setWidth 64
    v.extractLsb' 0 2 = nul ∧ v.getLsbD 2 = asyn ∧ v.toNat < 8 := by
  revert asyn nul
  decide

theorem packed_crew (task : BitVec 32) (row col : Nat) :
    ((task.setWidth 16 ++ BitVec.ofNat 16 row ++ BitVec.ofNat 16 col).setWidth 64).toNat
      = col % 2 ^ 16 + 2 ^ 16 * (row % 2 ^ 16) + 2 ^ 32 * (task.toNat % 2 ^ 16) := by
  simp only [BitVec.toNat_setWidth, toNat_append_eq, BitVec.toNat_ofNat]
  omega

/-! What MTS writes (R80, R185, R201). -/

/-- The fields of a word laid out as %fst (R80). -/
theorem packed_fst (t l : BitVec 5) (m : BitVec 3) :
    let n : BitVec 16 := t ++ m ++ 0#3 ++ l
    n.extractLsb' 0 5 = l ∧ n.extractLsb' 5 3 = 0 ∧ n.extractLsb' 11 5 = t ∧ n.extractLsb' 8 3 = m := by
  intro n
  have number : n.toNat = (t.toNat * 2 ^ 3 + m.toNat) * 2 ^ 8 + l.toNat := by
    simp only [n, toNat_append_eq, BitVec.toNat_ofNat]
    omega
  have field {k w : Nat} {x : BitVec w} (h : n.toNat / 2 ^ k % 2 ^ w = x.toNat) : n.extractLsb' k w = x :=
    BitVec.eq_of_toNat_eq (by rw [BitVec.extractLsb'_toNat, Nat.shiftRight_eq_div_pow, h])
  exact ⟨field (by omega), field (show _ = 0 by omega), field (by omega), field (by omega)⟩

/-- MTS of %fst: a reserved rounding mode leaves the mode as it was (R80). -/
theorem writeFst_eq (old : BitVec 16) (v : Word) : writeFst old (v.setWidth 16) = v.extractLsb' 11 5
    ++ (if v.extractLsb' 8 3 = 0 ∨ v.extractLsb' 8 3 = 6 ∨ v.extractLsb' 8 3 = 7 then old.extractLsb' 8 3 else v.extractLsb' 8 3)
    ++ 0#3 ++ v.extractLsb' 0 5 := by
  have narrow (i n : Nat) (h : i + n ≤ 16) : (v.setWidth 16).extractLsb' i n = v.extractLsb' i n := by
    refine BitVec.eq_of_getLsbD_eq fun j hj => ?_
    have : i + j < 16 := by omega
    simp [hj, this]
  simp only [writeFst, narrow 11 5 (by decide), narrow 8 3 (by decide), narrow 0 5 (by decide), Bool.or_eq_true, beq_iff_eq, or_assoc]

theorem writeTrap_own {s : State} (h : s.claimed s.myCtx = none) (own : Ctx → Ctx) (f : TrapRec → TrapRec) (g : Resume → Resume) :
    s.writeTrap own f g = s.modMe own := by
  rw [writeTrap, h]
  rfl

/-- A write of %pvr at each tile of a list, each once. -/
theorem tile_foldl_pvrPend (n : BitVec 16) (u : Nat) (l : List Nat) (hl : l.Nodup) (s : State) :
    (l.foldl (fun s t => s.modTile t (fun i => { i with pvrPend := i.pvrPend ++ [(s.rcOf t + 2, n)] })) s).tile u
      = if u ∈ l then { s.tile u with pvrPend := (s.tile u).pvrPend ++ [(s.rcOf u + 2, n)] } else s.tile u := by
  induction l generalizing s with
  | nil => rfl
  | cons t rest ih =>
    obtain ⟨fresh, hrest⟩ := List.nodup_cons.mp hl
    rw [List.foldl_cons, ih hrest]
    by_cases e : u = t
    · subst e
      rw [if_neg fresh, if_pos List.mem_cons_self, tile_modTile]
    · rw [tile_modTile_ne (h := e)]
      simp only [List.mem_cons, e, false_or]
      rfl

theorem crewTiles_nodup (s : State) (crew : Nat) : (s.crewTiles crew).Nodup :=
  List.nodup_range.map (fun _ _ => Nat.add_left_cancel)

theorem tile_sendPvr (s : State) (w : Nat) (n : BitVec 16) (u : Nat) : (s.sendPvr w n).tile u
    = if u ∈ s.crewTiles w then { s.tile u with pvrPend := (s.tile u).pvrPend ++ [(s.rcOf u + 2, n)] } else s.tile u :=
  tile_foldl_pvrPend n u _ (crewTiles_nodup s w) s

end State

/-- Settles O15: a scalar register by its kind, a special register by its row of the table. -/
theorem scalarRegisters : Obligations.ScalarRegisters := by
  refine ⟨?_, ?_⟩
  · intro s r v lat hok hold t
    refine ⟨rfl, fun h => ?_, fun hr hp => ?_, fun hr => ?_⟩
    · subst h; rfl
    · have only : t = s.modMe (fun c => { c with x := Tbl.set 0 c.x r.toNat v }) := State.writeX_own hr hp
      refine ⟨?_, fun q hq => ?_, ?_, fun k hk => ?_, ?_⟩
      · exact (State.readX_writeX_own hold hr hp r).trans (if_pos rfl)
      · exact (State.readX_writeX_own hold hr hp q).trans (if_neg hq)
      · rw [only]; rfl
      · rw [only]; exact State.ctx_modCtx_ne (h := hk) ..
      · rw [only, State.me_modMe]
    · have only := State.writeX_shared (v := v) (lat := lat) hok hr
      refine ⟨State.readX_writeX_shared hok hr, ?_, fun k hk => ?_, ?_⟩
      · exact only.trans (congrArg (fun u : State => { s with cores := u.cores }) only).symm
      · exact (congrArg (State.core · k) only).trans (State.core_modCore_ne (h := hk) ..)
      · exact (congrArg State.here only).trans (State.core_modCore ..)
  · intro s g sr d a
    refine ⟨fun hi => ⟨s.readS sr, ?_, ?_⟩, fun hi hw hown => ⟨s.writeS sr (s.readX a), ?_, ?_⟩⟩
    · simp only [exec]
      exact runPriv_ok hi rfl
    · cases sr
      case slot | core | tile | site | unit | fst | mxc | rkey0 | rkey1 | prio | vcc => rfl
      case mode => exact State.packed_mode ..
      case crew =>
        simp only [State.readS]
        cases s.view.crew with
        | none => exact ⟨fun _ => rfl, nofun⟩
        | some w => exact ⟨nofun, fun _ h => by cases h; exact State.packed_crew ..⟩
      case task | ucount | tstart | pvr =>
        simp only [State.readS]
        cases s.view.crew <;> rfl
      case epc | enpc | ennpc | ecause | eaddr =>
        simp only [State.readS, State.trapRegs]
        cases s.claimed s.myCtx <;> rfl
      case estat =>
        simp only [State.readS, State.trapRegs]
        cases s.claimed s.myCtx with
        | none => rfl
        | some r => exact State.packed_estat ..
    · simp only [exec]
      exact runPriv_ok hi rfl
    · cases sr
      case unit | mxc | rkey0 | rkey1 | prio => rfl
      case fst =>
        refine ⟨_, State.modMe_congr rfl, ?_⟩
        rw [State.writeFst_eq]
        exact State.packed_fst ..
      case pvr =>
        simp only [State.writeS]
        cases s.view.crew with
        | none => exact ⟨fun _ => rfl, nofun⟩
        | some w => exact ⟨nofun, fun _ h => by cases h; exact State.tile_sendPvr s w _⟩
      case epc | enpc | ennpc | estat | ecause | eaddr => exact State.writeTrap_own hown ..
      case slot | core | tile | site | crew | task | ucount | vcc | tstart | mode => trivial

end Sys2Proof.Machine
end

section
/-! Segment registers, BLAY and BLQ (O40; R181-R183, R202, R203, R434-R437). -/

namespace Sys2Proof.Machine

/-- A failed check of an instruction that has its level takes its trap (R41, R389). -/
theorem runPriv_trap {s : State} {g : Guard} {f : State → Act} {n : Nat} {c : BitVec 8} {a : Word} (h : s.IssuesAt g n)
    (hf : f s = .error (.trap c a)) : runPriv n g s f = .next (s.raise c a) := by
  obtain ⟨hi, hlevel⟩ := h
  simp [runPriv, hi.1, Nat.not_lt.mpr hlevel, run_trap hi hf]

section
variable {s : State} {g : Guard} (hi : s.Issues g)
include hi

/-! Segment registers (R202, R203). -/

/-- SEGLD of a well-formed entry of the set (R202). -/
theorem execSegld_loads {i : BitVec 3} {a : BitVec 6} {imm : BitVec 32} (low : 0 ≤ (s.readX a).toInt + imm.toInt)
    (high : (s.readX a).toInt + imm.toInt < 64) (hfree : s.BankFree 55) {bs : List Byte}
    (hbs : s.readLoc (setEntryLoc s.cur.tile s.view.segs ((s.readX a).toInt + imm.toInt).toNat) 32 = bs)
    (hwf : (segOfBytes bs).wf = true) (hzero : leNat (bs.drop 24) = 0) : execSegld g i a imm s
      = .next ((s.grantBank s.cur.tile 55).writeSg i (segOfBytes bs) (BitVec.ofInt 8 ((s.readX a).toInt + imm.toInt))) := by
  refine run_ok hi ?_
  have granted : (s.grantBank s.cur.tile 55).readLoc (setEntryLoc (s.grantBank s.cur.tile 55).cur.tile
      (s.grantBank s.cur.tile 55).view.segs ((s.readX a).toInt + imm.toInt).toNat) 32 = bs := (State.readLoc_congr rfl rfl 32).trans hbs
  have valid : ((segOfBytes bs).wf && leNat (bs.drop 24) == 0) = true := by rw [hwf, hzero]; rfl
  simp only [low, high, decide_true, Bool.and_self, check_true, State.takeBank_free hfree, Bind.bind, Except.bind, granted, valid]

/-- SEGLD past the end of the set (R202). -/
theorem execSegld_past {i : BitVec 3} {a : BitVec 6} {imm : BitVec 32}
    (h : (s.readX a).toInt + imm.toInt < 0 ∨ 64 ≤ (s.readX a).toInt + imm.toInt) :
    execSegld g i a imm s = .next (s.raise cLimit (BitVec.ofInt 64 ((s.readX a).toInt + imm.toInt))) := by
  refine run_trap hi ?_
  have outside : (decide (0 ≤ (s.readX a).toInt + imm.toInt) && decide ((s.readX a).toInt + imm.toInt < 64)) = false := by
    rw [Bool.and_eq_false_iff, decide_eq_false_iff_not, decide_eq_false_iff_not]
    omega
  simp only [outside, check_false]
  rfl

/-- SEGST from steward level writes a well-formed descriptor and no other (R203). -/
theorem execSegst_checks (hlevel : 1 ≤ s.level) (i : BitVec 3) (a b c : BitVec 6) {e : Seg}
    (he : ⟨s.readX a, s.readX b, s.readX c⟩ = e) :
    execSegst g i a b c s = .next (if e.wf = true then s.writeSg i e 0xFF else s.raise cFormat 0) := by
  subst he
  split
  · next h => exact runPriv_ok ⟨hi, hlevel⟩ (by simp only [h, check_true]; rfl)
  · next h => exact runPriv_trap ⟨hi, hlevel⟩ (by simp only [h, check_false]; rfl)

end

/-- The word of a segment register that SEGLD.rd selects (R203). -/
theorem segWord_toNat (e : Seg) (w : BitVec 2) : segWord e w.toNat = if w = 0 then e.base else if w = 1 then e.limit else e.attr := by
  have is (n : BitVec 2) : w.toNat = n.toNat ↔ w = n := BitVec.toNat_inj
  have zero : w.toNat = 0 ↔ w = 0 := is 0
  have one : w.toNat = 1 ↔ w = 1 := is 1
  simp only [segWord, zero, one]

/-! The cut of a BLAY (R415, R436). -/

theorem le_foldl_min {n : Nat} (l : List Nat) (c : Nat) (hc : n ≤ c) (hl : ∀ a ∈ l, n ≤ a) : n ≤ l.foldl min c := by
  induction l generalizing c with
  | nil => exact hc
  | cons a rest ih =>
    exact ih _ (Nat.le_min.mpr ⟨hc, hl a List.mem_cons_self⟩) fun b hb => hl b (List.mem_cons_of_mem _ hb)

/-- A BLAY's cut lies 128 vc ahead at least (R436). -/
theorem le_blayCut (w : Crew) (v : Nat) : v + 128 ≤ blayCut w v := by
  refine le_foldl_min _ _ ?_ fun a ha => of_decide_eq_true (List.mem_filter.mp ha).2
  rw [up64]
  omega

namespace State

variable {s : State} {crew c : Nat}

theorem cuts_logCut (b : Option (Nat × Nat)) : ((s.logCut crew c b).crew crew).cuts = (s.crew crew).cuts := by
  simp only [logCut, crew_modSite, crew_modCrew]

theorem cuts_enterCut : (s.crew crew).cuts ⊆ ((s.enterCut crew c).crew crew).cuts ∧ c ∈ ((s.enterCut crew c).crew crew).cuts := by
  rw [enterCut, crew_modCrew]
  split
  · next h => exact ⟨fun _ => id, List.contains_iff_mem.mp h⟩
  · exact ⟨List.subset_append_left .., List.mem_append_right _ List.mem_cons_self⟩

/-- Outside a replay a BLAY schedules a cut of its own and keeps the others (R415, R436). -/
theorem blaySchedule_new (h : (s.crew crew).redo = []) : s.myVcc + 128 ≤ (s.blaySchedule crew).1
    ∧ (s.crew crew).cuts ⊆ ((s.blaySchedule crew).2.crew crew).cuts ∧ (s.blaySchedule crew).1 ∈ ((s.blaySchedule crew).2.crew crew).cuts := by
  simp only [blaySchedule, h, List.find?_nil, cuts_logCut]
  exact ⟨le_blayCut .., cuts_enterCut⟩

end State

section
variable {s : State} {g : Guard} {d : BitVec 6}

/-- BLAY.deep from steward level: the deep-belay area is off, a deep belay is under way, or one begins (R434, R437). -/
theorem execBlayDeep_answers (hi : s.IssuesAt g 1) : execBlayDeep g d s = .next (
    if s.sys.dbctl.getLsbD 0 = false then s.writeX d 1 2 else if s.sys.deepReq.isSome then s.writeX d 2 2
      else (s.deepStart s.myCtx).await (.blayDeep d)) := by
  refine runPriv_ok hi ?_
  cases s.sys.dbctl.getLsbD 0
  · rfl
  · cases s.sys.deepReq.isSome <;> rfl

/-- BLQ outside a replay answers the value and records it (R421, R437). -/
theorem execBlq_records (hi : s.Issues g) {which : BitVec 3} (hcrew : s.view.crew ≠ none ∨ which = 2 ∨ which = 3)
    (hlog : s.loggedAnswer s.myCtx = none) {v : Word} (hv : blqValue s s.view.crew which.toNat = v) :
    execBlq g d which s = .next ((s.writeX d v 2).logEv s.cur.tile (.answer s.myCtx v) 16) := by
  refine run_ok hi ?_
  have valid : (s.view.crew.isSome || which == 2 || which == 3) = true := by
    simpa [Option.isSome_iff_ne_none, or_assoc] using hcrew
  simp only [valid, check_true, hlog, hv]
  rfl

end

/-- Settles O40: each segment instruction by its checks, BLAY by the cut it schedules, BLQ by the value it answers. -/
theorem segmentsAndBelay : Obligations.SegmentsAndBelay := by
  refine ⟨?_, ?_⟩
  · intro s g i d a b c w imm hi
    simp only [exec]
    exact ⟨setX_next hi (segWord_toNat ..), fun low high hfree hwf hzero => execSegld_loads hi low high hfree rfl hwf hzero,
      fun h => execSegld_past hi h, fun hlevel => execSegst_checks hi hlevel i a b c rfl⟩
  · intro s g d which hi
    simp only [exec]
    refine ⟨fun c hc hredo => ⟨run_ok hi ?_, run_ok hi ?_, State.blaySchedule_new hredo⟩, fun hlevel => execBlayDeep_answers ⟨hi, hlevel⟩,
      fun hcrew hlog => execBlq_records hi hcrew hlog rfl⟩
    · simp only [hc]
    · simp only [hc]

end Sys2Proof.Machine
end

section
/-! Vectors element by element (O16-O18, O20): the elements of a register written as a stream, a result under a governing mask, and what
an element-wise instruction answers once it can write its destination (R72, R205). -/

namespace Sys2Proof.Machine

/-! Streams of elements (R72). -/

theorem streamOfElems_cons (w c : Nat) (l : List Nat) : streamOfElems w (c :: l) = streamOfElems w l * 2 ^ w + c % 2 ^ w := rfl

theorem streamOfElems_lt (w : Nat) (l : List Nat) : streamOfElems w l < 2 ^ (w * l.length) := by
  induction l with
  | nil => exact Nat.one_pos
  | cons c l ih =>
    have low : c % 2 ^ w < 2 ^ w := Nat.mod_lt _ (by positivity)
    calc streamOfElems w (c :: l) < (streamOfElems w l + 1) * 2 ^ w := by rw [streamOfElems_cons, Nat.succ_mul]; omega
      _ ≤ 2 ^ (w * l.length) * 2 ^ w := Nat.mul_le_mul_right _ ih
      _ = 2 ^ (w * (c :: l).length) := by rw [List.length_cons, Nat.mul_succ, Nat.pow_add]

theorem elem_eq_div (w buf i : Nat) : elem w buf i = buf / 2 ^ (w * i) % 2 ^ w := by rw [elem, Nat.shiftRight_eq_div_pow]

theorem elem_streamOfElems (w : Nat) (l : List Nat) {i : Nat} (hi : i < l.length) : elem w (streamOfElems w l) i = l[i] % 2 ^ w := by
  induction l generalizing i with
  | nil => exact absurd hi (Nat.not_lt_zero i)
  | cons c l ih =>
    have low : c % 2 ^ w < 2 ^ w := Nat.mod_lt _ (by positivity)
    cases i with
    | zero => rw [elem_eq_div, streamOfElems_cons, Nat.mul_zero, Nat.pow_zero, Nat.div_one, Nat.mul_add_mod_self_right, Nat.mod_mod]; rfl
    | succ i =>
      have rest : streamOfElems w (c :: l) / 2 ^ w = streamOfElems w l := by
        rw [streamOfElems_cons, Nat.mul_comm, Nat.mul_add_div (by positivity), Nat.div_eq_of_lt low, Nat.add_zero]
      rw [elem_eq_div, Nat.mul_succ, Nat.add_comm, Nat.pow_add, ← Nat.div_div_eq_div_mul, rest, ← elem_eq_div,
        ih (Nat.lt_of_succ_lt_succ hi)]
      rfl

/-- A register written element by element reads back element by element. -/
theorem elem_vecOf (w : Nat) (f : Nat → Rd) {i : Nat} (hi : i < 512 / w) :
    elem w (vecOf w ((List.range (512 / w)).map f)).toNat i = (f i).code % 2 ^ w := by
  have size : w * (((List.range (512 / w)).map f).map Rd.code).length ≤ 512 := by
    rw [List.length_map, List.length_map, List.length_range]
    exact Nat.mul_div_le 512 w
  have fits : streamOfElems w (((List.range (512 / w)).map f).map Rd.code) < 2 ^ 512 :=
    (streamOfElems_lt ..).trans_le (pow_le_pow_right₀ one_le_two size)
  rw [vecOf, BitVec.toNat_ofNat, Nat.mod_eq_of_lt fits, elem_streamOfElems w _ (by simpa using hi)]
  simp

theorem flagsOf_map (f : Nat → Rd) (l : List Nat) : flagsOf (l.map f) = l.foldl (fun fl i => fl ||| (f i).fl) 0 := List.foldl_map

/-! Results under a mask (R205). -/

section
variable {mask : BitVec 16} {zero : Bool} {w : Nat} {f f' : Nat → Rd}

theorem maskedResult_putAll (old : Vec) : MaskedResult w mask zero old f (vecOf w (putAll mask zero w old.toNat f)) := by
  intro i hi
  rw [putAll, elem_vecOf w _ hi]
  split
  · rfl
  · split
    · exact Nat.zero_mod _
    · exact elem_mod ..

theorem flagsOf_putAll (old : Nat) : flagsOf (putAll mask zero w old f) = maskedFlags w mask f := by
  have one (fl : BitVec 5) (i : Nat) : (fl ||| (if active mask w i then f i else ⟨if zero then 0 else elem w old i, 0⟩ : Rd).fl)
      = if active mask w i then fl ||| (f i).fl else fl := by
    split
    · rfl
    · exact BitVec.or_zero
  simp only [putAll, flagsOf_map, maskedFlags, one]

end

namespace State

variable {s : State} {d : BitVec 6}

/-- A register field that can be written is written, whatever flags are raised. -/
theorem writeV_of_canWrite (h : s.CanWriteV d) (fl : BitVec 5) (v : Vec) (lat : Nat) : ∃ t, (s.raiseFlags fl).writeV d v lat = .ok t := by
  by_cases own : d.toNat < 32
  · exact ⟨_, if_pos own⟩
  by_cases shared : d.toNat < 62
  · exact ⟨_, (if_neg own).trans (if_pos shared)⟩
  · obtain ⟨core, credit⟩ := h.resolve_left shared
    have push : (s.raiseFlags fl).checkPush s.myCore (d == 62) = .ok () := by
      have same : (s.raiseFlags fl).checkPush = s.checkPush := rfl
      rw [same, checkPush, core, if_pos credit]
      rfl
    refine ⟨(s.raiseFlags fl).pushWord s.myCore (d == 62) v, ?_⟩
    rw [writeV, if_neg own, if_neg shared]
    exact congrArg (· >>= fun _ => Except.ok ((s.raiseFlags fl).pushWord s.myCore (d == 62) v)) push

/-- A masked write to a destination that can be written (R205). -/
theorem putV_written {w : Nat} {vm : VMask} (h : s.CanWriteV d) (lat : Nat) (f : Nat → Rd) :
    ∃ t, putV s w vm d lat f = .ok t ∧ s.VectorWritten w vm d lat f t := by
  obtain ⟨t, ht⟩ := writeV_of_canWrite h (maskedFlags w (s.readM vm.gm) f)
    (vecOf w (putAll (s.readM vm.gm) (vm.z || isLink d) w (s.oldV d).toNat f)) lat
  refine ⟨t, ?_, _, maskedResult_putAll (s.oldV d), ht⟩
  rw [putV, flagsOf_putAll]
  exact ht

/-- Only the low bits of each code are written. -/
theorem VectorWritten.of_codes {w lat : Nat} {vm : VMask} {f f' : Nat → Rd} {t : State} (h : s.VectorWritten w vm d lat f t)
    (hcode : ∀ i, (f i).code % 2 ^ w = (f' i).code % 2 ^ w) (hfl : ∀ i, (f i).fl = (f' i).fl) : s.VectorWritten w vm d lat f' t := by
  obtain ⟨v, hv, ht⟩ := h
  refine ⟨v, fun i hi => hcode i ▸ hv i hi, ?_⟩
  have same : maskedFlags w (s.readM vm.gm) f' = maskedFlags w (s.readM vm.gm) f := by simp only [maskedFlags, hfl]
  rw [same]
  exact ht

end State

section
variable {s s1 s2 s3 : State} {g : Guard} {w n : Nat} {vm : VMask} {a b c d : BitVec 6} {x y z : Vec} {lat : State → Nat}
  {f' : Nat → Rd}

theorem vec1_written {f : State → Nat → Rd} (hi : s.Issues g) (ha : s.readV a = .ok (x, s1)) (hd : s1.CanWriteV d)
    (hlat : lat s1 = n) (hf : ∀ i, f s1 (elem w x.toNat i) = f' i) :
    ∃ t, vec1 g w vm d a s lat f = .next t ∧ s1.VectorWritten w vm d n f' t := by
  refine (State.putV_written hd n f').imp fun t ⟨ht, hw⟩ => ⟨run_ok hi ?_, hw⟩
  simp only [State.bind_of_readV ha, hlat, hf, ht]

theorem vec2_written {f : State → Nat → Nat → Rd} (hi : s.Issues g) (ha : s.readV a = .ok (x, s1)) (hb : s1.readV b = .ok (y, s2))
    (hd : s2.CanWriteV d) (hlat : lat s2 = n) (hf : ∀ i, f s2 (elem w x.toNat i) (elem w y.toNat i) = f' i) :
    ∃ t, vec2 g w vm d a b s lat f = .next t ∧ s2.VectorWritten w vm d n f' t := by
  refine (State.putV_written hd n f').imp fun t ⟨ht, hw⟩ => ⟨run_ok hi ?_, hw⟩
  simp only [State.bind_of_readV ha, State.bind_of_readV hb, hlat, hf, ht]

theorem vec3_written {f : State → Nat → Nat → Nat → Rd} (hi : s.Issues g) (ha : s.readV a = .ok (x, s1))
    (hb : s1.readV b = .ok (y, s2)) (hc : s2.readV c = .ok (z, s3)) (hd : s3.CanWriteV d) (hlat : lat s3 = n)
    (hf : ∀ i, f s3 (elem w x.toNat i) (elem w y.toNat i) (elem w z.toNat i) = f' i) :
    ∃ t, vec3 g w vm d a b c s lat f = .next t ∧ s3.VectorWritten w vm d n f' t := by
  refine (State.putV_written hd n f').imp fun t ⟨ht, hw⟩ => ⟨run_ok hi ?_, hw⟩
  simp only [State.bind_of_readV ha, State.bind_of_readV hb, State.bind_of_readV hc, hlat, hf, ht]

end

end Sys2Proof.Machine
end

section
/-! The masked instructions of one and two sources (O16, O17; R205, R211-R214, R229, R230, R232): an element by the kind of its type, then
each instruction by its element. -/

namespace Sys2Proof.Machine

/-- The value of a code of a floating-point format (R65, R66, R73). -/
theorem valueOf_not_int {ty : Ty} (h : isIntTy ty = false) (c : Nat) : valueOf ty c = valueF (fmtOf ty) c := by
  rw [valueOf, h, if_neg Bool.false_ne_true]

theorem isIntTy_of_isF {ty : Ty} (h : ty.isF = true) : isIntTy ty = false := by
  revert h; cases ty <;> decide

theorem valueOf_float {ty : Ty} (h : ty.isF = true) (c : Nat) : valueOf ty c = valueF (fmtOf ty) c :=
  valueOf_not_int (isIntTy_of_isF h) c

/-! Integer elements (R71, R212-R214). -/

section
variable {ty : Ty} (h : ty.isF = false)
include h

theorem addElem_int (mode : Mode) (sat minus : Bool) (a b : Nat) : addElem ty mode sat minus a b
    = ⟨wrapInt ty sat (if minus then intOf ty a - intOf ty b else intOf ty a + intOf ty b), 0⟩ := by
  rw [addElem, h, if_neg Bool.false_ne_true]

theorem mulElem_int (mode : Mode) (sat : Bool) (a b : Nat) :
    mulElem ty mode sat a b = ⟨wrapInt ty sat (intOf ty a * intOf ty b), 0⟩ := by
  rw [mulElem, h, if_neg Bool.false_ne_true]

theorem minElem_int (a b : Nat) : minMaxElem ty false a b = ⟨if intOf ty a < intOf ty b then a else b, 0⟩ := by
  simp [minMaxElem, h]

theorem maxElem_int (a b : Nat) : minMaxElem ty true a b = ⟨if intOf ty a < intOf ty b then b else a, 0⟩ := by
  by_cases less : intOf ty a < intOf ty b <;> simp [minMaxElem, h, less]

theorem absElem_int (sat : Bool) (a : Nat) : absElem ty sat a = ⟨wrapInt ty sat (intOf ty a).natAbs, 0⟩ := by
  rw [absElem, h, if_neg Bool.false_ne_true]

theorem negElem_int (sat : Bool) (a : Nat) : negElem ty sat a = ⟨wrapInt ty sat (-intOf ty a), 0⟩ := by
  rw [negElem, h, if_neg Bool.false_ne_true]

end

theorem popcN_countP (w x : Nat) : popcN w x = (List.range w).countP (fun j => x.testBit j) := List.countP_eq_length_filter.symm

theorem signedOf_eq (w x : Nat) : signedOf w x = if 2 ^ (w - 1) ≤ x then (x : Int) - 2 ^ w else x := by
  rw [signedOf, Nat.cast_pow, Nat.cast_ofNat]

/-! Floating-point elements (R211, R213, R229, R230). -/

/-- An exact value rounded once, with the flags of its forming (R79, R211). -/
def roundEx (ty : Ty) (mode : Mode) (sat : Bool) (e : Ex) : Rd :=
  ⟨(roundF (fmtOf ty) mode sat e.v).code, (roundF (fmtOf ty) mode sat e.v).fl ||| e.fl⟩

theorem roundSum_eq (ty : Ty) (mode : Mode) (sat : Bool) (l : List Val) (fl : BitVec 5) :
    roundSum ty mode sat l fl = roundEx ty mode sat ⟨(exactSum (mode == .rdn) l).v, (exactSum (mode == .rdn) l).fl ||| fl⟩ := by
  rw [roundSum, roundEx, BitVec.or_assoc]

section
variable {ty : Ty} (h : ty.isF = true)
include h

theorem addElem_float (mode : Mode) (sat minus : Bool) (a b : Nat) : addElem ty mode sat minus a b = roundSum ty mode sat
    [valueF (fmtOf ty) a, if minus then (valueF (fmtOf ty) b).neg else valueF (fmtOf ty) b] 0 := by
  rw [addElem, if_pos h, valueOf_float h, valueOf_float h]

theorem mulElem_float (mode : Mode) (sat : Bool) (a b : Nat) :
    mulElem ty mode sat a b = roundEx ty mode sat (mulVal (valueF (fmtOf ty) a) (valueF (fmtOf ty) b)) := by
  rw [mulElem, if_pos h, valueOf_float h, valueOf_float h, roundEx]

theorem fmaElem_float (mode : Mode) (sat minus : Bool) (a b c : Nat) : fmaElem ty mode sat minus a b c = roundSum ty mode sat
    [(mulVal (valueF (fmtOf ty) a) (valueF (fmtOf ty) b)).v, if minus then (valueF (fmtOf ty) c).neg else valueF (fmtOf ty) c]
    (mulVal (valueF (fmtOf ty) a) (valueF (fmtOf ty) b)).fl := by
  rw [fmaElem, valueOf_float h, valueOf_float h, valueOf_float h]

theorem isNan_valueOf (a : Nat) : (valueOf ty a).isNan = true ↔ valueF (fmtOf ty) a = .nan := by
  rw [valueOf_float h, Val.isNan, beq_iff_eq]

theorem absElem_float (sat : Bool) (a : Nat) : absElem ty sat a
    = if valueF (fmtOf ty) a = .nan then specialNan (fmtOf ty) else ⟨a % 2 ^ (ty.bits - 1), 0⟩ := by
  simp only [absElem, if_pos h, isNan_valueOf h]

theorem negElem_float (sat : Bool) (a : Nat) : negElem ty sat a
    = if valueF (fmtOf ty) a = .nan then specialNan (fmtOf ty) else ⟨a ^^^ 2 ^ (ty.bits - 1), 0⟩ := by
  simp only [negElem, if_pos h, isNan_valueOf h]

theorem estElem_float (f : Val → Ex) (a : Nat) : estElem ty f a
    = ⟨(estimate (fmtOf ty) (f (valueF (fmtOf ty) a)).v).code,
        (estimate (fmtOf ty) (f (valueF (fmtOf ty) a)).v).fl ||| (f (valueF (fmtOf ty) a)).fl⟩ := by
  rw [estElem, valueOf_float h]

end

/-- Settles O16: each instruction by its element, an integer or a floating-point one by the kind of the type. -/
theorem vectorElements : Obligations.VectorElements := by
  refine ⟨?_, ?_⟩
  · intro s s1 g ty sat vm d a x hi ha hd w X gives estimated
    simp only [gives]
    simp only [exec]
    refine ⟨fun _ => ?_, fun hS => ?_, fun hF => ?_⟩
    · exact ⟨vec1_written hi ha hd rfl fun _ => rfl, vec1_written hi ha hd rfl fun i => congrArg (Rd.mk · 0) (popcN_countP w (X i))⟩
    · have int : ty.isF = false := by revert hS; cases ty <;> decide
      exact ⟨vec1_written hi ha hd rfl fun _ => absElem_int int .., vec1_written hi ha hd rfl fun _ => negElem_int int ..⟩
    · exact ⟨vec1_written hi ha hd rfl fun _ => absElem_float hF .., vec1_written hi ha hd rfl fun _ => negElem_float hF ..,
        vec1_written hi ha hd rfl fun _ => estElem_float hF .., vec1_written hi ha hd rfl fun _ => estElem_float hF ..,
        vec1_written hi ha hd rfl fun _ => estElem_float hF .., vec1_written hi ha hd rfl fun _ => estElem_float hF ..⟩
  · intro s s1 s2 g ty sat vm d a b x y hi ha hb hd X Y gives w P Q
    simp only [gives]
    simp only [exec]
    refine ⟨fun hI => ?_, vec2_written hi ha hb hd rfl fun _ => rfl, vec2_written hi ha hb hd rfl fun _ => rfl,
      vec2_written hi ha hb hd rfl fun _ => rfl, vec2_written hi ha hb hd rfl fun i => ?_⟩
    · have int : ty.isF = false := by revert hI; cases ty <;> decide
      have lat : (if ty.isF = true then 4 else 2) = 2 := by rw [int]; rfl
      refine ⟨vec2_written hi ha hb hd lat fun _ => addElem_int int .., vec2_written hi ha hb hd lat fun _ => addElem_int int ..,
        vec2_written hi ha hb hd rfl fun _ => mulElem_int int .., vec2_written hi ha hb hd rfl fun _ => rfl,
        vec2_written hi ha hb hd rfl fun _ => rfl, vec2_written hi ha hb hd rfl fun _ => minElem_int int ..,
        vec2_written hi ha hb hd rfl fun _ => maxElem_int int .., ?_, vec2_written hi ha hb hd rfl fun i => ?_,
        vec2_written hi ha hb hd rfl fun i => ?_⟩
      · refine (vec2_written hi ha hb hd rfl fun _ => rfl).imp fun t ⟨ht, hw⟩ => ⟨ht, hw.of_codes (fun i => ?_) fun _ => rfl⟩
        rw [Nat.mod_mod, Nat.shiftLeft_eq]
      · exact congrArg (Rd.mk · 0) (Nat.shiftRight_eq_div_pow ..)
      · exact congrArg (fun v => Rd.mk (codeInt ty (v / _)) 0) (signedOf_eq ..)
    · simp only [Nat.shiftLeft_eq, State.readV_view hb, State.readV_view ha, X, Y]

/-- Settles O17: each instruction by its element, in the mode that the thread's %fst gives. -/
theorem vectorFloats : Obligations.VectorFloats := by
  intro s s1 s2 s3 g ty rm sat vm d a b c x y z kind hi hF ha hb w mode val rounded summed
  have mode2 : s2.mode rm = mode := by rw [State.readV_mode hb, State.readV_view ha]
  have sum (m : Mode) (hm : m = mode) (p q : Val) (fl : BitVec 5) : roundSum ty m sat [p, q] fl = summed p q fl := by
    subst hm; exact roundSum_eq ..
  refine ⟨fun hd => ?_, fun hc hd => ?_⟩
  · simp only [exec]
    have lat : (if ty.isF = true then 4 else 2) = 4 := if_pos hF
    exact ⟨vec2_written hi ha hb hd lat fun _ => (addElem_float hF ..).trans (sum _ mode2 ..),
      vec2_written hi ha hb hd lat fun _ => (addElem_float hF ..).trans (sum _ mode2 ..),
      vec2_written hi ha hb hd rfl fun _ => (mulElem_float hF ..).trans (by rw [mode2]; rfl),
      vec2_written hi ha hb hd rfl fun _ => rfl, vec2_written hi ha hb hd rfl fun _ => rfl⟩
  · have mode3 : s3.mode rm = mode := by rw [State.readV_mode hc, State.readV_view hb, State.readV_view ha]
    simp only [exec]
    refine ⟨vec3_written hi ha hb hc hd rfl fun _ => (fmaElem_float hF ..).trans (sum _ mode3 ..),
      vec3_written hi ha hb hc hd rfl fun _ => (fmaElem_float hF ..).trans (sum _ mode3 ..), ?_⟩
    refine (State.putV_written hd (mulLat s3 4) _).imp fun t ⟨ht, hw⟩ => ⟨run_ok hi ?_, hw⟩
    simp only [State.bind_of_readV ha, State.bind_of_readV hb, State.bind_of_readV hc, mode3]
    exact ht

end Sys2Proof.Machine
end

section
/-! Selection, permutation, broadcast and shuffles (O18; R216, R218-R220). -/

namespace Sys2Proof.Machine

/-- The place in its operand of the element that a zip puts at place i (R220). -/
theorem zip_place (X Y : Nat → Nat) (i : Nat) :
    (if i % 2 = 0 then X (i / 2) else Y ((i - 1) / 2)) = if i % 2 = 0 then X (i / 2) else Y (i / 2) := by
  have pair (h : ¬i % 2 = 0) : (i - 1) / 2 = i / 2 := by omega
  split
  · rfl
  · next odd => rw [pair odd]

section
variable {s s1 s2 s3 : State} {g : Guard} {vm : VMask} {a b c d : BitVec 6} {x y z : Vec} {ty : Ty} (hi : s.Issues g)
include hi

/-- The low bits of a number at every element, or with the element's place added (R219). -/
theorem bcast_written (hd : s.CanWriteV d) (ramp : Bool) (v : State → Word) : ∃ t,
    runThread g s (fun s => putV s ty.bits vm d 1 (fun i => ⟨bcastElem ty.bits ramp (v s).toNat i, 0⟩)) = .next t
      ∧ s.VectorWritten ty.bits vm d 1 (fun i => ⟨(v s).toNat + (if ramp then i else 0), 0⟩) t := by
  refine (State.putV_written hd 1 (fun i => ⟨bcastElem ty.bits ramp (v s).toNat i, 0⟩)).imp fun t ⟨ht, hw⟩ => ⟨run_ok hi ht, ?_⟩
  exact hw.of_codes (fun _ => Nat.mod_mod ..) fun _ => rfl

theorem execVsel_written (ha : s.readV a = .ok (x, s1)) (hb : s1.readV b = .ok (y, s2)) (hd : s2.CanWriteV d) (p : BitVec 3) :
    ∃ t, execVsel g vm d a b p s = .next t ∧ s2.VectorWritten 32 vm d 1
      (fun i => ⟨if (s.readM p).getLsbD i then elem 32 x.toNat i else elem 32 y.toNat i, 0⟩) t := by
  refine (State.putV_written hd _ _).imp fun t ⟨ht, hw⟩ => ⟨run_ok hi ?_, hw⟩
  have choice (u v : Nat) (i : Nat) (k : Bool) : elem 32 (if k then u else v) i = if k then elem 32 u i else elem 32 v i := by
    cases k <;> rfl
  simp only [State.bind_of_readV ha, State.bind_of_readV hb, State.readV_readM hb, State.readV_readM ha, choice]
  exact ht

theorem execVshuf_written (ha : s.readV a = .ok (x, s1)) (hb : s1.readV b = .ok (y, s2)) (hd : s2.CanWriteV d) (sh : Shuffle) :
    ∃ t, execVshuf g ty sh vm d a b s = .next t
      ∧ s2.VectorWritten ty.bits vm d 2 (fun i => ⟨shufElem ty.bits sh x.toNat y.toNat i, 0⟩) t := by
  refine (State.putV_written hd _ _).imp fun t ⟨ht, hw⟩ => ⟨run_ok hi ?_, hw⟩
  simp only [State.bind_of_readV ha, State.bind_of_readV hb]
  exact ht

theorem execVperm_written (ha : s.readV a = .ok (x, s1)) (hb : s1.readV b = .ok (y, s2)) (hc : s2.readV c = .ok (z, s3))
    (hd : s3.CanWriteV d) : ∃ t, execVperm g ty vm d a b c s = .next t ∧ s3.VectorWritten ty.bits vm d 2 (fun i =>
      let k := elem ty.bits y.toNat i % (2 * (512 / ty.bits))
      ⟨if k < 512 / ty.bits then elem ty.bits x.toNat k else elem ty.bits z.toNat (k - 512 / ty.bits), 0⟩) t := by
  refine (State.putV_written hd _ _).imp fun t ⟨ht, hw⟩ => ⟨run_ok hi ?_, hw⟩
  simp only [State.bind_of_readV ha, State.bind_of_readV hb, State.bind_of_readV hc]
  exact ht

end

/-- Settles O18: each pattern of a shuffle by its element, the others as they stand. -/
theorem vectorMoves : Obligations.VectorMoves := by
  intro s g ty vm d a b c hi _ w n
  refine ⟨fun ramp imm hd => ?_, fun s1 s2 x y ha hb => ⟨fun hd => ⟨fun p => ?_, fun sh _ => ?_⟩, fun s3 z hc hd => ?_⟩⟩
  · simp only [exec]
    exact ⟨bcast_written hi hd ramp (fun s => s.readX b), bcast_written hi hd ramp (fun _ => immX imm)⟩
  · simp only [exec]
    exact execVsel_written hi ha hb hd p
  · simp only [exec]
    refine (execVshuf_written hi ha hb hd sh).imp fun t ⟨ht, hw⟩ => ⟨ht, hw.of_codes (fun i => congrArg (· % 2 ^ w) ?_) fun _ => rfl⟩
    obtain ⟨k, pat⟩ := sh
    cases pat
    case ziplo => exact zip_place (elem w x.toNat) (elem w y.toNat) i
    case ziphi => exact zip_place (fun i => elem w x.toNat (n / 2 + i)) (fun i => elem w y.toNat (n / 2 + i)) i
    case even | odd | slide | rev => rfl
  · simp only [exec]
    exact execVperm_written hi ha hb hc hd

end Sys2Proof.Machine
end

section
/-! Conversions, stochastic rounding and block formats (O20; R223-R228): a conversion element by element from PART on, the elements
of a block one after another, and the sources of a pack. -/

namespace Sys2Proof.Machine

/-! A pop leaves the scalar registers (R48). -/

namespace State

variable {s t : State}

/-- A change of a core that keeps its shared scalar registers keeps those of every core. -/
theorem k_modCore {core : Nat} {f : Core → Core} (hf : (f (s.core core)).k = (s.core core).k) (n : Nat) :
    ((s.modCore core f).core n).k = (s.core n).k := by
  by_cases e : n = core
  · subst e; rw [core_modCore, hf]
  · rw [core_modCore_ne (h := e)]

theorem k_pushWord (core : Nat) (east : Bool) (w : Vec) (n : Nat) : ((s.pushWord core east w).core n).k = (s.core n).k := by
  simp only [pushWord]
  split
  · rfl
  · exact (apply_ite (fun u : State => (u.core n).k) ..).trans ((ite_self _).trans (k_modCore (by rfl) n))

theorem popWord_keeps_k (core : Nat) (east : Bool) (n : Nat) :
    Keeps (fun r => (r.2.core n).k = (s.core n).k) (s.popWord core east) := by
  have owed (e : Bool) (rest : List Vec) (c : Core) :
      (if e then { c with le := rest, owedE := c.owedE + 1 } else { c with lw := rest, owedW := c.owedW + 1 } : Core).k = c.k := by
    cases e <;> rfl
  refine (check_keeps ..).bind fun _ _ => (check_keeps ..).bind fun _ _ => ?_
  split
  · trivial
  · refine .ite (.ok (k_modCore (owed ..) n)) (.ite trivial (.ok ?_))
    exact (k_pushWord ..).trans (k_modCore (owed ..) n)

/-- A read either takes a register, and leaves the state, or pops a link (R48). -/
theorem readV_cases {r : BitVec 6} {x : Vec} (h : s.readV r = .ok (x, t)) : t = s ∨ s.popWord s.myCore (r == 62) = .ok (x, t) := by
  simp only [readV] at h
  split at h
  · cases h; exact .inl rfl
  · split at h
    · cases h; exact .inl rfl
    · exact .inr h

/-- After the pop of a link a scalar register reads as before (R48, R49). -/
theorem readV_readX {r : BitVec 6} {x : Vec} (h : s.readV r = .ok (x, t)) (q : BitVec 6) : t.readX q = s.readX q := by
  have shared : t.here.k = s.here.k := by
    rcases readV_cases h with rfl | pop
    · rfl
    · have cur : t.cur = s.cur := (popWord_keeps_cur ..).of_ok pop
      have core : t.myCore = s.myCore := by rw [myCore, myCore, cur]
      rw [here, here, core]
      exact (popWord_keeps_k ..).of_ok pop
  simp only [readX, readV_view h, shared]

end State

/-! Conversions (R205, R223, R224). -/

section
variable (ws wd part : Nat) (mask : BitVec 16) (zero : Bool) (x old : Nat) (f : Nat → Nat → Rd)

/-- The first element that a conversion writes (R223). -/
def convFirst : Nat := if wd < ws then part * (512 / max ws wd) else 0

/-- The source element of element j of the result (R223). -/
def convSource (j : Nat) : Nat := j - convFirst ws wd part + (if ws < wd then part * (512 / max ws wd) else 0)

/-- Element j of the result (R223). -/
def convElem (j : Nat) : Rd :=
  if convFirst ws wd part ≤ j ∧ j < convFirst ws wd part + 512 / max ws wd then
    if active mask (max ws wd) (j - convFirst ws wd part) then f (convSource ws wd part j) (elem ws x (convSource ws wd part j))
    else ⟨if zero then 0 else elem wd old j, 0⟩
  else ⟨elem wd old j, 0⟩

theorem cvtVec_eq : cvtVec ws wd part mask zero x old f = (List.range (512 / wd)).map (convElem ws wd part mask zero x old f) := rfl

theorem elem_cvtVec {j : Nat} (hj : j < 512 / wd) : elem wd (vecOf wd (cvtVec ws wd part mask zero x old f)).toNat j =
    if convFirst ws wd part ≤ j ∧ j < convFirst ws wd part + 512 / max ws wd then
      if active mask (max ws wd) (j - convFirst ws wd part) then
        (f (convSource ws wd part j) (elem ws x (convSource ws wd part j))).code % 2 ^ wd
      else if zero then 0 else elem wd old j
    else elem wd old j := by
  rw [cvtVec_eq, elem_vecOf wd _ hj, convElem]
  split
  · split
    · rfl
    · split
      · exact Nat.zero_mod _
      · exact elem_mod ..
  · exact elem_mod ..

/-- Only a converted element raises flags (R205). -/
theorem flagsOf_cvtVec : flagsOf (cvtVec ws wd part mask zero x old f) = (List.range (512 / wd)).foldl (fun fl j =>
    if convFirst ws wd part ≤ j ∧ j < convFirst ws wd part + 512 / max ws wd
        ∧ active mask (max ws wd) (j - convFirst ws wd part) = true then
      fl ||| (f (convSource ws wd part j) (elem ws x (convSource ws wd part j))).fl
    else fl) 0 := by
  rw [cvtVec_eq, flagsOf_map]
  congr 1
  funext fl j
  by_cases place : convFirst ws wd part ≤ j ∧ j < convFirst ws wd part + 512 / max ws wd
  · by_cases act : active mask (max ws wd) (j - convFirst ws wd part) = true
    · simp [convElem, place, act]
    · simp [convElem, place, act]
  · have none : ¬(convFirst ws wd part ≤ j ∧ j < convFirst ws wd part + 512 / max ws wd
        ∧ active mask (max ws wd) (j - convFirst ws wd part) = true) := fun h => place ⟨h.1, h.2.1⟩
    simp [convElem, place, none]

end

/-! Blocks (R225-R228). -/

/-- The elements that VUNPK takes of the 32 of a block: from the first, or with HALF from the sixteenth (R228). -/
theorem unpacked_elems (w n buf : Nat) (half : Bool) (h : n + (if half then 16 else 0) ≤ 32) :
    (if half then (elems w 32 buf).drop 16 else elems w 32 buf).take n
      = (List.range n).map (fun j => elem w buf (j + if half then 16 else 0)) := by
  cases half
  · exact List.ext_getElem (by simpa [elems] using h) fun i _ _ => by simp [elems]
  · have short : n ≤ 16 := by simpa using h
    exact List.ext_getElem (by simpa [elems] using short) fun i _ _ => by simp [elems, Nat.add_comm]

theorem low_byte (x : Word) : (x.extractLsb' 0 8).toNat = x.toNat % 256 := by
  rw [BitVec.extractLsb'_toNat, Nat.shiftRight_zero]

/-- The scale and the stand-in of VUNPK: beside the block for F4S, else in a register (R228). -/
theorem unpackScale_eq (src : Ty) (part a : Nat) (b : Word) : unpackScale src part a b
    = (if src = .f4s then elem 8 a (48 + 2 * part) else b.toNat % 256, if src = .f4s then elem 8 a (49 + 2 * part) else 0) := by
  by_cases h : src = .f4s <;> simp [unpackScale, h]

/-- A result of VUNPK takes 16 elements of 32 bits from either half, or all 32 of 16 bits (R228). -/
theorem unpackOk_size {dst : Ty} {rm : Rm} {cv : UnpackSel} {b : BitVec 6} (h : unpackOk dst rm cv b = true) :
    512 / dst.bits + (if cv.half then 16 else 0) ≤ 32 := by
  simp only [unpackOk, Bool.and_eq_true, and_assoc] at h
  obtain ⟨-, -, types, -, half⟩ := h
  have wide : dst.bits = 32 ∨ dst.bits = 16 := by
    revert types
    cases dst <;> simp [Ty.isBlockSrc, Ty.bits]
  rcases wide with w | w
  · rw [w]; split <;> decide
  · have first : cv.half = false := by simpa [w] using half
    simp [w, first]

theorem blockCodes_eq {w : Nat} (h : w = 32 ∨ w = 16) (a c : Nat) :
    blockCodes w a c = if w = 32 then elems 32 16 a ++ elems 32 16 c else elems 16 32 a := by
  rcases h with rfl | rfl <;> rfl

/-- VSRND rounds the codes of a vector's floating-point type (R224). -/
theorem srndOk_source {dst : Ty} {cv : ConvSel} {k : BitVec 5} (h : srndOk dst cv k = true) : cv.src.isF = true := by
  simp only [srndOk, Bool.and_eq_true, and_assoc] at h
  exact h.1

/-- The unpacked formats of the block instructions are floating-point, 32 or 16 bits wide (R225). -/
theorem isBlockSrc_cases {src : Ty} (h : src.isBlockSrc = true) : isIntTy src = false ∧ (src.bits = 32 ∨ src.bits = 16) := by
  revert h; cases src <;> decide

theorem scaleOk_source {dst src : Ty} {c : BitVec 6} (h : scaleOk dst src c = true) :
    isIntTy src = false ∧ (src.bits = 32 ∨ src.bits = 16) := by
  simp only [scaleOk, Bool.and_eq_true] at h
  obtain ⟨⟨-, source⟩, -⟩ := h
  exact isBlockSrc_cases source

/-- The sources of VPACK are floating-point for a block and integers for the others, 32 or 16 bits wide (R226). -/
theorem packOk_source {dst : Ty} {rm : Rm} {cv : ConvSel} {b c : BitVec 6} (h : packOk dst rm cv b c = true) :
    isIntTy cv.src = !dst.isBlock ∧ (cv.src.bits = 32 ∨ cv.src.bits = 16) := by
  simp only [packOk, Bool.and_eq_true, Bool.or_eq_true, beq_iff_eq, and_assoc] at h
  obtain ⟨-, -, ⟨block, float⟩ | ⟨int, source, -⟩, -⟩ := h
  · rw [block]
    exact isBlockSrc_cases float
  · rcases int with rfl | rfl
    · rcases source with e | e <;> rw [e] <;> decide
    · rcases source with e | e <;> rw [e] <;> decide

/-- What VPACK makes of the codes of its sources under the scale e (R226, R227). -/
def packCodes (ty src : Ty) (mode : Mode) (sat : Bool) (e : Nat) (codes : List Nat) : Packed :=
  if ty.isBlock then
    if e = 255 then ⟨List.replicate 32 ⟨0, 0⟩, ⟨0, 0⟩⟩
    else packBlock ty mode sat (codes.map (fun k => (valueOf src k).scale (127 - (e : Int))))
  else ⟨codes.map (fun k => roundI ty mode (valueOf src k)), ⟨0, 0⟩⟩

/-- Well-formed sources: floating-point values for a block, numbers for integers (R226). -/
theorem packCodes_eq {ty src : Ty} (h : isIntTy src = !ty.isBlock) (mode : Mode) (sat : Bool) (e : Nat) (codes : List Nat) :
    packCodes ty src mode sat e codes =
      if ty.isBlock then
        if e = 255 then ⟨List.replicate 32 ⟨0, 0⟩, ⟨0, 0⟩⟩
        else packBlock ty mode sat (codes.map (fun k => (valueF (fmtOf src) k).scale (127 - (e : Int))))
      else ⟨codes.map (fun k => roundI ty mode (valInt (intOf src k))), ⟨0, 0⟩⟩ := by
  rw [packCodes]
  cases block : ty.isBlock
  · have int : isIntTy src = true := by rw [h, block]; rfl
    simp only [valueOf, int, if_true, Bool.false_eq_true, if_false]
  · have float : isIntTy src = false := by rw [h, block]; rfl
    simp only [valueOf_not_int float, if_true]

section
variable {s s1 s2 : State} {g : Guard} {a b c d : BitVec 6} {x y : Vec} (hi : s.Issues g) (ha : s.readV a = .ok (x, s1))
include hi ha

theorem exec_vcvt (ty : Ty) (rm : Rm) (sat : Bool) (cv : ConvSel) (vm : VMask) {t : State} :
    let l := cvtVec cv.src.bits ty.bits cv.part.toNat (s.readM vm.gm) (vm.z || decide (62 ≤ d.toNat)) x.toNat (s1.oldV d).toNat
      (fun _ c => cvtElem cv.src ty (modeOf rm s.view.fst) sat c)
    (s1.raiseFlags (flagsOf l)).writeV d (vecOf ty.bits l) 4 = .ok t → exec (.vcvt g ty rm sat cv vm d a) s = .next t := by
  intro l ht
  simp only [exec]
  refine run_ok hi ?_
  simp only [State.bind_of_readV ha, State.readV_readM ha, State.readV_mode ha]
  exact ht

theorem exec_vsrnd (hc : s1.readV c = .ok (y, s2)) (ty : Ty) (sat : Bool) (cv : ConvSel) (hsrc : cv.src.isF = true) (vm : VMask)
    (k : BitVec 5) {t : State} :
    let l := cvtVec cv.src.bits ty.bits cv.part.toNat (s.readM vm.gm) (vm.z || decide (62 ≤ d.toNat)) x.toNat (s2.oldV d).toNat
      (fun j e => roundF (fmtOf ty) (.sr (srndDraw cv.src.bits y.toNat j) k.toNat (some (gridOf cv.src))) sat (valueF (fmtOf cv.src) e))
    (s2.raiseFlags (flagsOf l)).writeV d (vecOf ty.bits l) 4 = .ok t → exec (.vsrnd g ty sat cv vm d a c k) s = .next t := by
  intro l ht
  simp only [exec]
  refine run_ok hi ?_
  simp only [State.bind_of_readV ha, State.bind_of_readV hc, State.readV_readM hc, State.readV_readM ha, valueOf_float hsrc]
  exact ht

theorem exec_vunpk (ty : Ty) (rm : Rm) (sat : Bool) (cv : UnpackSel)
    (hsize : 512 / ty.bits + (if cv.half then 16 else 0) ≤ 32) {t : State} :
    let e := if cv.src = .f4s then elem 8 x.toNat (48 + 2 * cv.part.toNat) else (s.readX b).toNat % 256
    let st := if cv.src = .f4s then elem 8 x.toNat (49 + 2 * cv.part.toNat) else 0
    let code (j : Nat) : Nat :=
      elem cv.src.bits (x.toNat / 2 ^ (8 * (cv.part.toNat * (4 * cv.src.bits)))) (j + if cv.half then 16 else 0)
    let l := (List.range (512 / ty.bits)).map (fun j =>
      if ty.isFloat then roundF (fmtOf ty) (modeOf rm s.view.fst) sat (blockVal cv.src (code j) e st)
      else (⟨codeInt ty (intOf cv.src (code j)), 0⟩ : Rd))
    (s1.raiseFlags (flagsOf l)).writeV d (vecOf ty.bits l) 6 = .ok t → exec (.vunpk g ty rm sat cv d a b) s = .next t := by
  intro e st code l ht
  simp only [exec]
  refine run_ok hi ?_
  simp only [State.bind_of_readV ha, State.readV_mode ha, State.readV_readX ha, unpackScale_eq, Nat.shiftRight_eq_div_pow,
    unpacked_elems _ _ _ _ hsize, List.map_map]
  exact ht

omit hi ha in
/-- Where the first source is 32 bits wide, the second one is read; else none is (R225, R226). -/
theorem bind_second_source {α : Type} {w : Nat} (hy : w = 32 → s1.readV c = .ok (y, s2)) (hn : w ≠ 32 → s2 = s1 ∧ y = 0)
    (f : Vec × State → Except Stop α) : (if w == 32 then s1.readV c >>= f else pure (0, s1) >>= f) = f (y, s2) := by
  by_cases wide : w = 32
  · exact (if_pos (beq_iff_eq.mpr wide)).trans (State.bind_of_readV (hy wide) f)
  · obtain ⟨rfl, rfl⟩ := hn wide
    exact if_neg fun e => wide (beq_iff_eq.mp e)

omit hi in
theorem second_source_view {w : Nat} (hy : w = 32 → s1.readV c = .ok (y, s2)) (hn : w ≠ 32 → s2 = s1 ∧ y = 0) :
    s2.view = s.view := by
  by_cases wide : w = 32
  · exact (State.readV_view (hy wide)).trans (State.readV_view ha)
  · rw [(hn wide).1, State.readV_view ha]

theorem exec_vscale (ty src : Ty) (hy : src.bits = 32 → s1.readV c = .ok (y, s2)) (hn : src.bits ≠ 32 → s2 = s1 ∧ y = 0) :
    exec (.vscale g ty src d a c) s = .next (s2.writeX d
      (BitVec.ofNat 64 (blockScale ty src ((blockCodes src.bits x.toNat y.toNat).map (valueOf src)))) 6) := by
  simp only [exec]
  refine run_ok hi ?_
  simp only [State.bind_of_readV ha]
  exact bind_second_source hy hn _

theorem exec_vpack (ty : Ty) (rm : Rm) (sat : Bool) (cv : ConvSel) (hy : cv.src.bits = 32 → s1.readV c = .ok (y, s2))
    (hn : cv.src.bits ≠ 32 → s2 = s1 ∧ y = 0) {t : State} :
    let e := (s2.readX b).toNat % 256
    let p := packCodes ty cv.src (modeOf rm s.view.fst) sat e (blockCodes cv.src.bits x.toNat y.toNat)
    (s2.raiseFlags (flagsOf p.els ||| p.standIn.fl)).writeV d
      (BitVec.ofNat 512 (packVec ty cv.part.toNat e p (s2.oldV d).toNat)) 6 = .ok t →
    exec (.vpack g ty rm sat cv d a b c) s = .next t := by
  intro e p ht
  simp only [exec]
  refine run_ok hi ?_
  simp only [State.bind_of_readV ha]
  refine (bind_second_source hy hn _).trans ?_
  simp only [State.mode, second_source_view ha hy hn, low_byte, beq_iff_eq]
  exact ht

end

/-- Settles O20: conversions by the elements of `cvtVec`, blocks by the codes of their sources. -/
theorem conversionsAndBlocks : Obligations.ConversionsAndBlocks := by
  refine ⟨?_, ?_⟩
  · intro s s1 g ty rm sat cv vm d a c k x hi ha ws wd n at0 src converted
    refine ⟨fun _ hd => ?_, fun r s2 hwf hc hd => ?_⟩
    · obtain ⟨t, ht⟩ := State.writeV_of_canWrite hd _ _ 4
      exact ⟨_, _, t, exec_vcvt hi ha ty rm sat cv vm ht, ht, fun j hj => elem_cvtVec (hj := hj) .., flagsOf_cvtVec ..⟩
    · obtain ⟨t, ht⟩ := State.writeV_of_canWrite hd _ _ 4
      exact ⟨_, _, t, exec_vsrnd hi ha hc ty sat cv (srndOk_source hwf) vm k ht, ht, fun j hj => elem_cvtVec (hj := hj) ..,
        flagsOf_cvtVec ..⟩
  · intro s s1 s2 g ty rm sat d a b c x y hi ha
    refine ⟨fun cv hwf hd => ?_, fun src hy hn => ⟨fun hwf => ?_, fun part hwf hd => ?_⟩⟩
    · obtain ⟨t, ht⟩ := State.writeV_of_canWrite hd _ _ 6
      exact ⟨_, _, t, exec_vunpk hi ha ty rm sat cv (unpackOk_size hwf) ht, ht, fun j hj => elem_vecOf ty.bits _ hj, flagsOf_map ..⟩
    · obtain ⟨float, width⟩ := scaleOk_source hwf
      rw [exec_vscale hi ha ty src hy hn, blockCodes_eq width, funext (valueOf_not_int float)]
    · obtain ⟨source, width⟩ := packOk_source hwf
      intro e p
      have packed : packCodes ty src (modeOf rm s.view.fst) sat e (blockCodes src.bits x.toNat y.toNat) = p := by
        rw [packCodes_eq source, blockCodes_eq width]
      obtain ⟨t, ht⟩ := State.writeV_of_canWrite hd (flagsOf p.els ||| p.standIn.fl)
        (BitVec.ofNat 512 (packVec ty part.toNat e p (s2.oldV d).toNat)) 6
      exact ⟨t, exec_vpack hi ha ty rm sat ⟨part, src⟩ hy hn (packed ▸ ht), ht⟩

end Sys2Proof.Machine
end

section
/-! The matrix engine and the links at issue (O31): the operation that each matrix instruction latches, the timed product with its
reservations, a push to each side, and the configuration of the links (R131, R239-R249, R251-R256). -/

namespace Sys2Proof.Machine

/-! Checks at issue. -/

theorem check_of {ok : Bool} (h : ok = true) (c : BitVec 8) (a : Word) : check ok c a = .ok () := if_pos h

theorem check_all {α : Type} {l : List α} {p : α → Bool} (h : ∀ x ∈ l, p x = true) (c : BitVec 8) (a : Word) :
    check (l.all p) c a = .ok () :=
  check_of (List.all_eq_true.mpr h) c a

/-- Checks that all hold, one after the other, stop nothing. -/
theorem bind_mapM_of_ok {α β : Type} {f : β → Except Stop Unit} {l : List β} (h : ∀ x ∈ l, f x = .ok ()) {r : Except Stop α} :
    (l.mapM f >>= fun _ => r) = r := by
  have passes : ∃ us, l.mapM f = .ok us := by
    induction l with
    | nil => exact ⟨[], rfl⟩
    | cons x xs ih =>
      obtain ⟨us, hus⟩ := ih fun y hy => h y (List.mem_cons_of_mem x hy)
      refine ⟨() :: us, ?_⟩
      rw [List.mapM_cons, h x List.mem_cons_self, hus]
      rfl
  obtain ⟨us, hus⟩ := passes
  exact bind_of_ok hus _

/-! Untimed operations (R242-R249). -/

section
variable {s : State} {g : Guard} {ty : Ty} {z sat : Bool} {d : BitVec 4} {a b c : BitVec 6} {ea eb : TsEnt} {oa ob : Operand} {grp : Nat}
  (hi : s.Issues g)
include hi

theorem exec_mzero :
    exec (.mzero g ty d) s = .next (s.queueOp { s.newMOp (.zero (ty == .f64)) d.toNat [] with span := 4 } .mzero) := by
  simp only [exec]
  exact run_ok hi rfl

theorem exec_mldc (hent : s.engineEntry a false = .ok ea) (hshape : tileEntryOk ea ty = true) (hscl : ea.scl = 0)
    (htag : s.tagCheck ea = .ok ()) :
    exec (.mldc g ty d a) s = .next (s.queueOp (s.newMOp (.ldc (ty == .f64) ea) d.toNat [(s.entryLines ea, 0)]) .mldc) := by
  have unscaled : (tileEntryOk ea ty && ea.scl == 0) = true := by simp [hshape, hscl]
  simp only [exec]
  refine run_ok hi ((bind_of_ok hent _).trans ((bind_of_ok (check_of unscaled _ _) _).trans ?_))
  exact bind_of_ok htag _

theorem exec_mstc {rm : Rm} (hent : s.engineEntry c true = .ok ea) (hshape : tileEntryOk ea ty = true) :
    exec (.mstc g ty rm sat c d) s = .next (s.queueOp { s.newMOp (.stc ty rm sat ea) d.toNat [] with
      span := 4 + ((s.entryLines ea).length + 1) / 2, refs := stageRefs [(s.entryLines ea, 0)] } .mstc) := by
  simp only [exec]
  exact run_ok hi ((bind_of_ok hent _).trans (bind_of_ok (check_of hshape _ _) _))

/-! Products (R131, R239-R245). -/

section
variable (hent : s.productEntries a b = .ok (ea, eb))
include hent

theorem exec_mma (hprod : productOf (ty == .f64) ea eb (s.readX c) = some (oa, ob, grp))
    (hlines : ∀ st ∈ s.stagesOf s.myPlace oa ob grp, st.1.length ≤ 512) (htagA : s.tagCheck ea = .ok ()) (htagB : s.tagCheck eb = .ok ()) :
    exec (.mma g ty z sat d a b c) s = .next (s.queueOp
      (s.newMOp (.mma z sat (ty == .f64) ea eb (s.readX c).toNat) d.toNat (s.stagesOf s.myPlace oa ob grp)) .mma) := by
  simp only [exec]
  refine run_ok hi ((bind_of_ok hent _).trans ?_)
  simp only [hprod]
  refine (bind_of_ok (check_all (fun st hst => decide_eq_true (hlines st hst)) _ _) _).trans ?_
  exact (bind_of_ok htagA _).trans (bind_of_ok htagB _)

/-- A timed product: its vcs meet those of no other timed operation, and its cycles no reservation (R158, R244). -/
theorem exec_mmat {x : BitVec 16} {imm : BitVec 32} {bar : Loc} {row0 : Word} {start : Nat} {stages : List (List Line × Nat)} {o : MOp}
    {mine : List (Nat × Nat)} {u : State} (hbar : s.barCheck (s.readX c) s.cur.tile = .ok bar) (hpair : ea.unf = true → c ≠ 31 ∧ c ≠ 63)
    (hrow : row0 = if ea.unf then s.readX (c + 1) else 0) (hprod : productOf (ty == .f64) ea eb row0 = some (oa, ob, grp))
    (hstages : stages = s.stagesOf s.myPlace oa ob grp)
    (ho : o = { s.newMOp (.mma z sat (ty == .f64) ea eb row0.toNat) d.toNat stages with
      start := some start, bar := some bar, tag := x, id := s.nextId })
    (hmine : mine = (scheduleGo stages (2 * start) start start).1.map (fun l => (l.1.bank, l.2)))
    (hlines : ∀ st ∈ stages, st.1.length ≤ 512 ∧ ∀ l ∈ st.1, l.tile = s.cur.tile) (htimed : s.timedCheck imm = .ok start)
    (hapart : ∀ q ∈ s.here.mtq ++ s.here.mrun.toList, ∀ v, q.start = some v → v + q.span ≤ start ∨ start + o.span ≤ v)
    (hfree : s.rsvConflict mine = none)
    (hq : s.Queues { s.newCmd (.mmat s.nextId) (some bar) x (o.refs ++ [(bar.tile, bar.bank)]) with start := some start } mine u) :
    exec (.mmat g ty z sat d a b c x imm) s = .next (u.modCore s.myCore (fun k => { k with mtq := k.mtq ++ [o] })) := by
  have pair : (!ea.unf || c != 31 && c != 63) = true := by
    cases unfolded : ea.unf with
    | false => rfl
    | true => simpa using hpair unfolded
  subst hrow hstages ho hmine
  simp only [exec]
  refine run_ok hi ((bind_of_ok hent _).trans ((bind_of_ok hbar _).trans ((bind_of_ok (check_of pair _ _) _).trans ?_)))
  simp only [hprod]
  refine (bind_of_ok (check_all (fun st hst => decide_eq_true (hlines st hst).1) _ _) _).trans ?_
  refine (bind_of_ok (check_all (fun st hst => List.all_eq_true.mpr fun l hl => beq_iff_eq.mpr ((hlines st hst).2 l hl)) _ _) _).trans ?_
  refine (bind_of_ok htimed _).trans ((bind_of_ok (check_all (fun q hmem => ?_) _ _) _).trans ?_)
  · cases due : q.start with
    | none => rfl
    | some v => simpa using hapart q hmem v due
  · exact (bind_of_ok (State.rsvCheck_free hfree) _).trans (bind_of_ok (State.enqueue_queues hq) _)

end

end

/-! Pushes (R251, R252, R255, R256). -/

namespace State

variable {s t : State}

theorem readV_cur {r : BitVec 6} {x : Vec} (h : s.readV r = .ok (x, t)) : t.cur = s.cur := by
  rcases readV_cases h with rfl | pop
  · rfl
  · exact (popWord_keeps_cur ..).of_ok pop

theorem checkPush_credited {core : Nat} {east : Bool} (hlink : (s.linkCore core east).isSome = true)
    (hcredit : s.hasCredit core east = true) : s.checkPush core east = .ok () :=
  (bind_of_ok (check_of hlink _ _) _).trans (if_pos hcredit)

theorem pushAll_credited {core : Nat} {sides : List Bool} (v : Vec)
    (h : ∀ e ∈ sides, (s.linkCore core e).isSome = true ∧ s.hasCredit core e = true) :
    s.pushAll core sides v = .ok (sides.foldl (fun u e => u.pushWord core e v) s) :=
  bind_mapM_of_ok fun e he => checkPush_credited (h e he).1 (h e he).2

end State

section
variable {s s1 t : State} {g : Guard} {dir : Dir} {d a : BitVec 6} (hi : s.Issues g)
include hi

theorem exec_lnpush {v : Vec} (hread : s.readV a = .ok (v, s1)) (hlink : ∀ e ∈ dirSides dir, (s.linkCore s.myCore e).isSome = true)
    (hpush : ∀ e ∈ dirSides dir, (s1.linkCore s.myCore e).isSome = true ∧ s1.hasCredit s.myCore e = true) :
    exec (.lnpush g dir a) s = .next ((dirSides dir).foldl (fun u e => u.pushWord s.myCore e v) s1) := by
  have core : s1.myCore = s.myCore := by rw [State.myCore, State.myCore, State.readV_cur hread]
  simp only [exec]
  refine run_ok hi ((bind_mapM_of_ok fun e he => check_of (hlink e he) _ _).trans ((State.bind_of_readV hread _).trans ?_))
  simp only [core]
  exact State.pushAll_credited v hpush

theorem exec_lnpushT {imm : BitVec 32} {start : Nat} (hlink : ∀ e ∈ dirSides dir, (s.linkCore s.myCore e).isSome = true)
    (hsource : 62 ≤ a.toNat → (s.linkCore s.myCore (a == 62)).isSome = true) (htimed : s.timedCheck imm = .ok start)
    (hq : s.Queues { s.newCmd (.lnpush dir (if a.toNat < 62 then none else some (a == 62)) (if a.toNat < 62 then s.oldV a else 0)) none 0 []
      with start := some start } [] t) : exec (.lnpushT g dir a imm) s = .next t := by
  have source : (decide (a.toNat < 62) || (s.linkCore s.myCore (a == 62)).isSome) = true := by
    rcases Nat.lt_or_ge a.toNat 62 with reg | link
    · rw [decide_eq_true reg, Bool.true_or]
    · rw [hsource link, Bool.or_true]
  simp only [exec]
  refine run_ok hi ((bind_mapM_of_ok fun e he => check_of (hlink e he) _ _).trans ?_)
  refine (bind_of_ok (check_of source _ _) _).trans ((bind_of_ok htimed _).trans ?_)
  exact State.enqueue_queues hq

theorem exec_lncfg : exec (.lncfg g d) s = .next (s.writeX d (lnConfig s.here) 2) := by
  simp only [exec]
  exact setX_next hi rfl

theorem exec_lncfgSet : exec (.lncfgSet g d a) s = .next ((s.writeX d (lnConfig s.here) 2).modCore s.myCore (fun c =>
    { c with lnPend := c.lnPend ++ [(s.rc + 2, (s.readX a).setWidth 6)] })) := by
  simp only [exec]
  exact run_ok hi rfl

end

/-- The configuration as it reads: six bits, then from bit 16 the fill of both FIFOs, and zeros above (R256). -/
theorem lnConfig_fields (c : Core) : (lnConfig c).extractLsb' 0 6 = c.lncfg
    ∧ ((lnConfig c).extractLsb' 16 4).toNat = c.lw.length % 16 ∧ ((lnConfig c).extractLsb' 20 4).toNat = c.le.length % 16
    ∧ (lnConfig c).extractLsb' 24 40 = 0 := by
  refine ⟨extract_append_low .., ?_, ?_, ?_⟩
  · rw [lnConfig, extract_append_above _ _ 16 4 (by decide), extract_append_above _ _ _ 4 (by decide)]
    exact (congrArg BitVec.toNat (extract_append_low ..)).trans (BitVec.toNat_ofNat ..)
  · rw [lnConfig, extract_append_above _ _ 20 4 (by decide), extract_append_above _ _ _ 4 (by decide),
      extract_append_above _ _ _ 4 (by decide)]
    exact (congrArg BitVec.toNat (extract_append_low ..)).trans (BitVec.toNat_ofNat ..)
  · rw [lnConfig, extract_append_above _ _ 24 40 (by decide), extract_append_above _ _ _ 40 (by decide),
      extract_append_above _ _ _ 40 (by decide)]
    exact extract_append_high ..

/-- Settles O31: each operation by the checks of its issue in their order, a push by the credits of its sides, LNCFG by its fields. -/
theorem matrixAndLinks : Obligations.MatrixAndLinks := by
  refine ⟨?_, ?_⟩
  · intro s g ty z sat rm d a b c x imm ea eb hi f64
    refine ⟨exec_mzero hi, exec_mldc hi, exec_mstc hi, fun hent => ⟨?_, ?_⟩⟩
    · exact fun oa ob grp hprod => exec_mma hi hent hprod
    · exact fun oa ob grp bar start u hbar hpair hprod => exec_mmat hi hent hbar hpair rfl hprod rfl rfl rfl
  · intro s s1 t g dir d a imm v start hi sides
    have named : sides = dirSides dir := by cases dir <;> rfl
    rw [named]
    refine ⟨fun hread hsides => ?_, exec_lnpushT hi, lnConfig s.here, ?_⟩
    · exact exec_lnpush hi hread (fun e he => (hsides e he).1) fun e he => (hsides e he).2
    · obtain ⟨cfg, west, east, zeros⟩ := lnConfig_fields s.here
      exact ⟨cfg, west, east, zeros, exec_lncfg hi, exec_lncfgSet hi⟩

end Sys2Proof.Machine
end

section
/-! The mesh (O48): a flit at its router, the port that it takes, a link that fails, landings of routes and multicast stores, and a
flood (R260-R267, R284, R285, R290). -/

namespace Sys2Proof.Machine

/-! A flit at a router (R257-R264). -/

section
variable {s : State} {n : Nat} {p : Pkt} (hp : s.net[n]? = some p)
include hp

theorem execRouterFlitForward_hole (hhole : (s.site p.pos).hole = true) : execRouterFlitForward n s = .next s := by
  simp only [execRouterFlitForward, hp, hhole, if_true]

section
variable (hhole : (s.site p.pos).hole = false)
include hhole

theorem execRouterFlitForward_enters (hin : p.inj = false) :
    execRouterFlitForward n s = .next (if s.mayInject p then s.enterMesh p else s) := by
  simp only [execRouterFlitForward, hp, hhole, hin, Bool.false_eq_true, if_false, Bool.not_false, if_true]

section
variable (hin : p.inj = true)
include hin

theorem execRouterFlitForward_fenced (hfence : p.dst ∈ (s.site p.pos).fence) : execRouterFlitForward n s = .next (s.fenceFlit p) := by
  simp only [execRouterFlitForward, hp, hhole, hin, List.contains_iff_mem.mpr hfence, Bool.not_true, Bool.false_eq_true, if_false, if_true]

section
variable (hfree : p.dst ∉ (s.site p.pos).fence)
include hfree

theorem execRouterFlitForward_turnedBack {old : Nat} (hport : s.outPort p.pos p.dst = 4) (hback : p.back = some old) :
    execRouterFlitForward n s = .next (s.enterAgain p old) := by
  have free : (s.site p.pos).fence.contains p.dst = false := by simpa using hfree
  simp only [execRouterFlitForward, hp, hhole, hin, free, hport, hback, Bool.not_true, Bool.false_eq_true, if_false, if_true]

theorem execRouterFlitForward_link {q : Nat} (hport : s.outPort p.pos p.dst ≠ 4) (hnext : nextSite p.pos (s.outPort p.pos p.dst) = some q)
    (hup : s.outPort p.pos p.dst ∉ (s.site p.pos).down) (hq : (s.site q).hole = false) : execRouterFlitForward n s
      = .next (if s.mayCross p (s.outPort p.pos p.dst) then s.crossLink p (s.outPort p.pos p.dst) q else s) := by
  have free : (s.site p.pos).fence.contains p.dst = false := by simpa using hfree
  have up : (s.site p.pos).down.contains (s.outPort p.pos p.dst) = false := by simpa using hup
  simp only [execRouterFlitForward, hp, hhole, hin, free, hport, hnext, up, hq, Bool.not_true, Bool.false_eq_true, if_false, Bool.false_or]
  cases s.mayCross p (s.outPort p.pos p.dst) <;> rfl

end

end

end

end

namespace State

variable {s : State}

/-- What a change of a packet leaves true of every packet with its number. -/
theorem modPkt_net {id : Nat} {f : Pkt → Pkt} {P : Pkt → Prop} (hf : ∀ k, P (f k)) :
    ∀ k ∈ (s.modPkt id f).net, k.id = id → P k := by
  intro k hk hkid
  obtain ⟨q, -, rfl⟩ := List.mem_map.mp hk
  split at hkid
  · next h => rw [if_pos h]; exact hf q
  · next h => exact absurd (by simpa using hkid) h

theorem enterMesh_entered (p : Pkt) : ∀ k ∈ (s.enterMesh p).net, k.id = p.id → k.inj = true :=
  modPkt_net fun _ => rfl

theorem crossLink_moved (p : Pkt) (port q : Nat) : ∀ k ∈ (s.crossLink p port q).net, k.id = p.id → k.pos = q :=
  modPkt_net fun _ => rfl

/-! The port (R262, R263). -/

theorem outPort_plain {at_ dst : Nat} (h : ∀ i, i < 16 → detourHit (Tbl.get 0 (s.site at_).detour i) dst = false) :
    s.outPort at_ dst = plainPort at_ dst := by
  have none : (List.range 16).find? (fun i => detourHit (Tbl.get 0 (s.site at_).detour i) dst) = none :=
    List.find?_eq_none.mpr fun i hi => Bool.eq_false_iff.mp (h i (List.mem_range.mp hi))
  simp only [outPort, detourAt, none, Option.map_none, Option.getD_none]

theorem outPort_detour {at_ dst i : Nat} (hi : i < 16) (hit : detourHit (Tbl.get 0 (s.site at_).detour i) dst = true)
    (hfirst : ∀ j, j < i → detourHit (Tbl.get 0 (s.site at_).detour j) dst = false) :
    s.outPort at_ dst = ((Tbl.get 0 (s.site at_).detour i).extractLsb' 32 3).toNat := by
  have first : (List.range 16).find? (fun i => detourHit (Tbl.get 0 (s.site at_).detour i) dst) = some i :=
    List.find?_range_eq_some.mpr ⟨hit, List.mem_range.mpr hi, fun j hj => congrArg not (hfirst j hj)⟩
  simp only [outPort, detourAt, first, Option.map_some, Option.getD_some]

end State

theorem siteX_siteNum {x : Nat} (y : Nat) (h : x < 256) : siteX (siteNum x y) = x := by
  rw [siteX, siteNum]
  omega

theorem siteY_siteNum {x : Nat} (y : Nat) (h : x < 256) : siteY (siteNum x y) = y := by
  rw [siteY, siteNum]
  omega

/-- How far two sites lie from each other in the mesh. -/
def meshDist (a b : Nat) : Nat := ((siteX a : Int) - siteX b).natAbs + ((siteY a : Int) - siteY b).natAbs

theorem isSite_iff {a : Nat} : isSite a = true ↔ siteX a < 192 ∧ siteY a < 184 := by simp [isSite]

theorem site_ext {a b : Nat} (hx : siteX a = siteX b) (hy : siteY a = siteY b) : a = b := by
  rw [siteX, siteX] at hx
  rw [siteY, siteY] at hy
  omega

/-- A step to a neighbour in the line or row of the destination comes nearer. -/
theorem siteNum_nearer {a b x y : Nat} (hx : x < 192) (hy : y < 184)
    (hd : ((x : Int) - siteX b).natAbs + ((y : Int) - siteY b).natAbs + 1 = meshDist a b) :
    isSite (siteNum x y) = true ∧ meshDist (siteNum x y) b + 1 = meshDist a b := by
  have wide : x < 256 := by omega
  rw [isSite_iff, meshDist, siteX_siteNum y wide, siteY_siteNum y wide]
  exact ⟨⟨hx, hy⟩, hd⟩

/-- West first, then north or south, then east: each move comes nearer (R262). -/
theorem plainPort_nearer {a b : Nat} (ha : isSite a = true) (hb : isSite b = true) (hne : a ≠ b) :
    ∃ q, nextSite a (plainPort a b) = some q ∧ isSite q = true ∧ meshDist q b + 1 = meshDist a b := by
  obtain ⟨hax, hay⟩ := isSite_iff.mp ha
  obtain ⟨hbx, hby⟩ := isSite_iff.mp hb
  rw [plainPort]
  split
  · next west =>
    refine ⟨_, if_neg (by omega), siteNum_nearer (by omega) hay ?_⟩
    rw [meshDist]
    omega
  split
  · next north =>
    refine ⟨_, if_neg (by omega), siteNum_nearer hax (by omega) ?_⟩
    rw [meshDist]
    omega
  split
  · next south =>
    refine ⟨_, if_neg (by omega), siteNum_nearer hax (by omega) ?_⟩
    rw [meshDist]
    omega
  split
  · next east =>
    refine ⟨_, if_neg (by omega), siteNum_nearer (by omega) hay ?_⟩
    rw [meshDist]
    omega
  · exact absurd (site_ext (by omega) (by omega)) hne

/-! A link that fails (R260). -/

namespace State

variable {s : State}

/-- A link marked down at both its ends. -/
def linkDown (s : State) (site port q : Nat) : State :=
  (s.modSite site (fun t => { t with down := t.down ++ [port] })).modSite q (fun t =>
    if t.down.contains ((port + 2) % 4) then t else { t with down := t.down ++ [(port + 2) % 4] })

theorem linkDown_here (site port q : Nat) : port ∈ ((s.linkDown site port q).site site).down := by
  have marked : port ∈ ((s.modSite site (fun t => { t with down := t.down ++ [port] })).site site).down := by simp
  rw [linkDown, site_modSite_eq]
  split
  · next h =>
    subst h
    split
    · exact marked
    · exact List.mem_append_left _ marked
  · exact marked

theorem linkDown_there (site port q : Nat) : (port + 2) % 4 ∈ ((s.linkDown site port q).site q).down := by
  rw [linkDown, site_modSite]
  split
  · next h => exact List.contains_iff_mem.mp h
  · simp

theorem countLink_down (site port lo bits n j : Nat) : ((s.countLink site port lo bits n).site j).down = (s.site j).down := by
  rw [countLink, site_modSite_eq]
  split
  · next h => rw [h]
  · rfl

end State

/-- The flit that failed eight times, counted where it was sent (R260). -/
def State.failCounted (s : State) (site port : Nat) : State := (s.countLink site port 32 32 7).countLink site port 0 16 1

theorem State.failCounted_linkDown (s : State) (site port q : Nat) : ((s.linkDown site port q).failCounted site port).mem = s.mem
    ∧ ((s.linkDown site port q).failCounted site port).net = s.net := by
  simp only [failCounted, countLink, linkDown, modSite_mem, modSite_net, and_self]

theorem State.failCounted_down (s : State) (site port j : Nat) : ((s.failCounted site port).site j).down = (s.site j).down :=
  (State.countLink_down ..).trans (State.countLink_down ..)

/-- The error record of a link that failed (R260, R465). -/
def State.failRecorded (s : State) (site port : Nat) : State := s.errorRecord 1 0x1D site 0xFF 0x07 port (s.siteVc site)

theorem State.failRecorded_mesh (s : State) (site port : Nat) : (s.failRecorded site port).mem = s.mem
    ∧ (s.failRecorded site port).net = s.net ∧ ∀ j, (s.failRecorded site port).site j = s.site j :=
  ⟨setField_mem .., setField_net .., fun _ => site_setField ..⟩

theorem State.raiseCheck_mesh (s : State) (site : Nat) (cause : MCause) : (s.raiseCheck site cause).mem = s.mem
    ∧ (s.raiseCheck site cause).net = s.net ∧ ∀ j, (s.raiseCheck site cause).site j = s.site j := by
  obtain ⟨checks, raised, -⟩ := raiseCheck_frame (s := s) site cause
  rw [raised]
  exact ⟨rfl, rfl, fun _ => rfl⟩

/-- A link that fails is marked down at both its ends, and a machine check is raised (R260). -/
theorem execMeshLinkDown_marks {s : State} {site port q : Nat} (hsite : isSite site = true) (hnext : nextSite site port = some q)
    (hup : port ∉ (s.site site).down) :
    ∃ t, execMeshLinkDown site port s = .next t ∧ port ∈ (t.site site).down ∧ (port + 2) % 4 ∈ (t.site q).down
      ∧ (site, .other) ∈ t.checks ∧ t.mem = s.mem ∧ t.net = s.net := by
  have up : (s.site site).down.contains port = false := by simpa using hup
  let counted := (s.linkDown site port q).failCounted site port
  obtain ⟨rmem, rnet, rsite⟩ := counted.failRecorded_mesh site port
  obtain ⟨cmem, cnet, csite⟩ := (counted.failRecorded site port).raiseCheck_mesh site .other
  obtain ⟨mmem, mnet⟩ := s.failCounted_linkDown site port q
  have down (j : Nat) : ((counted.failRecorded site port).raiseCheck site .other |>.site j).down
      = ((s.linkDown site port q).site j).down := by rw [csite, rsite, State.failCounted_down]
  refine ⟨(counted.failRecorded site port).raiseCheck site .other, ?_, ?_, ?_, State.raiseCheck_raised ..,
    (cmem.trans rmem).trans mmem, (cnet.trans rnet).trans mnet⟩
  · simp only [execMeshLinkDown, hnext, hsite, up, Bool.not_true, Bool.or_self, Bool.false_eq_true, if_false]
    rfl
  · rw [down]
    exact State.linkDown_here ..
  · rw [down]
    exact State.linkDown_there ..

/-! Landings of static routes (R267, R284) and of multicast stores (R285). -/

/-- The banks of a list of bytes, each once, in order. -/
def landBanks (bytes : List (Loc × Byte)) : List Nat :=
  bytes.foldl (fun (acc : List Nat) b => if acc.contains b.1.bank then acc else acc ++ [b.1.bank]) []

theorem landBanks_single {bytes : List (Loc × Byte)} {bank : Nat} (h : ∀ b ∈ bytes, b.1.bank = bank) (hne : bytes ≠ []) :
    landBanks bytes = [bank] := by
  have stays (l : List (Loc × Byte)) (hl : ∀ b ∈ l, b.1.bank = bank) :
      l.foldl (fun (acc : List Nat) b => if acc.contains b.1.bank then acc else acc ++ [b.1.bank]) [bank] = [bank] := by
    induction l with
    | nil => rfl
    | cons b rest ih =>
      rw [List.foldl_cons, if_pos (by simp [hl b List.mem_cons_self])]
      exact ih fun c hc => hl c (List.mem_cons_of_mem b hc)
  cases bytes with
  | nil => exact absurd rfl hne
  | cons b rest =>
    rw [landBanks, List.foldl_cons, if_neg (by simp), List.nil_append, h b List.mem_cons_self]
    exact stays rest fun c hc => h c (List.mem_cons_of_mem b hc)

theorem State.redoAhead_of_not_replaying {s : State} {t : Nat} (h : s.replaying t = false) (f : LogEv → Bool) :
    s.redoAhead t f = false := by rw [redoAhead, h, Bool.false_and]

theorem State.lateLogged_of_not_replaying {s : State} {l : Loc} (h : s.replaying l.tile = false) (due : Nat) :
    s.lateLogged l due = false := by rw [lateLogged, h, Bool.false_and]

/-- Arrivals at a barrier, where a landing has one. -/
def State.arriveBar (s : State) (bar : Bar) (n : Nat) (tag : BitVec 16) : State :=
  match bar with
  | some b => s.arriveAt b n tag 0 0
  | none => s

/-- A line of a replica lands, with its watches. -/
def State.landLine (s : State) (tile : Nat) (line : List (Loc × Byte)) : State :=
  (line.foldl (fun (s : State) x => s.writeLoc x.1 [x.2]) s).watchHit tile (fun w =>
    line.any (fun x => x.1.bank == w.bank && x.1.off / 8 == w.off / 8))

theorem any_linesHeld_false {s : State} {bar : Bar} (h : ∀ b, bar = some b → s.linesHeld b 16 = false) :
    bar.any (fun b => s.linesHeld b 16) = false := by
  cases bar with
  | none => rfl
  | some b => exact h b rfl

section
variable {s u : State} {n : Nat} {p : Pkt} (ha : s.Arrives n p u)
include ha

theorem execStaticRouteFlitLanding_lands {bytes : List (Loc × Byte)} {bar : Bar} {c : Nat} {tag : BitVec 16} {due : Nat} {l : Loc} {w : State}
    (hb : p.body = .route bytes bar c tag due) (hl : bytes.head?.map Prod.fst = some l) (hdue : due ≤ 2 * u.tileVc l.tile + 1)
    (hfree : ∀ b ∈ bytes, u.linesHeld b.1 1 = false) (hbar : ∀ b, bar = some b → u.linesHeld b 16 = false)
    (hreplay : u.replaying l.tile = false) (hbank : ∀ b ∈ bytes, b.1.bank = l.bank) (hw : u.useBank l.tile l.bank = some w) :
    execStaticRouteFlitLanding n s =
      let y := (bytes.foldl (fun (s : State) b => s.writeLoc b.1 [b.2]) w).arriveBar bar c tag
      .next (if due < 2 * u.tileVc l.tile then y.logEv l.tile (.order l.tile l.bank l.off (BitVec.ofNat 64 due)) 8 else y) := by
  have some_bytes : bytes ≠ [] := fun h => by simp [h] at hl
  have free : bytes.any (fun b => u.linesHeld b.1 1) = false :=
    List.any_eq_false.mpr fun b hb => Bool.eq_false_iff.mp (hfree b hb)
  have granted : (landBanks bytes).foldlM (fun s b => s.useBank l.tile b) u = some w := by
    rw [landBanks_single hbank some_bytes]
    simpa using hw
  rw [landBanks] at granted
  rw [execStaticRouteFlitLanding, arrived_of ha (by simp only [hb])]
  simp only [hb, hl, Option.getD_some, Nat.not_lt.mpr hdue, decide_false, free, any_linesHeld_false hbar,
    State.redoAhead_of_not_replaying hreplay, State.lateLogged_of_not_replaying hreplay, Bool.or_self, Bool.false_eq_true, if_false, granted,
    Bool.or_false, decide_eq_true_eq]
  rfl

section
variable {l : Loc} {b0 : Byte} {tl : List (Loc × Byte)} {bar : Bar} {c id : Nat} (hb : p.body = .mcast ((l, b0) :: tl) bar c id)
  (hfree : u.linesHeld l 1 = false) (hturn : u.orderTurn p.ctx l = true) {line rest : List (Loc × Byte)}
  (hline : ((l, b0) :: tl).takeWhile (fun x => x.1.off / 64 == l.off / 64) = line) (hrest : ((l, b0) :: tl).drop line.length = rest) {w : State}
include hb hfree hturn hline hrest

/-- A line that is not the last lands, and its packet goes on with the rest (R285). -/
theorem execMcastReplicaLanding_line (hmore : rest ≠ []) (hw : s.useBank l.tile l.bank = some w) :
    execMcastReplicaLanding n s = .next (((w.logOrder p.ctx l).landLine l.tile line).modPkt p.id
      (fun k => { k with body := .mcast rest bar c id })) := by
  have more : rest.isEmpty = false := by simpa using hmore
  rw [execMcastReplicaLanding, arrived_of ha (by simp only [hb])]
  simp only [hb, hfree, hturn, hline, hrest, more, hw, Bool.false_and, Bool.or_false, Bool.false_eq_true, if_false, List.all_cons, List.all_nil,
    Bool.and_self, Bool.not_true]
  rfl

/-- With the last line the barrier takes its arrival, and the store is acknowledged (R285). -/
theorem execMcastReplicaLanding_last (hlast : rest = []) (hbar : ∀ b, bar = some b → u.linesHeld b 16 = false ∧ u.orderTurn p.ctx b = true)
    (hw : u.useBank l.tile l.bank = some w) : execMcastReplicaLanding n s
      = .next (((((l :: bar.toList).foldl (fun (s : State) b => s.logOrder p.ctx b) w).landLine l.tile line).arriveBar bar c 0).send
          l.tile p.src 1 p.ctx 0 (.ack id)) := by
  have turns : (l :: bar.toList).all (u.orderTurn p.ctx) = true := by
    rw [List.all_cons, hturn, Bool.true_and]
    cases bar with
    | none => rfl
    | some b => simp [(hbar b rfl).2]
  subst hlast
  rw [execMcastReplicaLanding, arrived_of ha (by simp only [hb])]
  simp only [hb, hfree, hline, hrest, turns, hw, any_linesHeld_false fun b h => (hbar b h).1, List.isEmpty_nil, if_true, Bool.and_false,
    Bool.or_self, Bool.not_true, Bool.false_eq_true, if_false]
  rfl

end

end

/-! A flood (R290). -/

theorem execRebindFlood_applies {s : State} {site i : Nat} {f : Flood} (hf : s.floods[i]? = some f) (hsite : isSite site = true)
    (hnew : site ∉ f.applied) : execRebindFlood site i s =
      let g : Flood := { f with applied := f.applied ++ [site] }
      if s.floodOver g then .next (({ s with floods := s.floods.eraseIdx i } : State).rtwrDone f.bar)
      else .next { s with floods := s.floods.set i g } := by
  have new : f.applied.contains site = false := by simpa using hnew
  simp only [execRebindFlood, hf, hsite, new, Bool.not_true, Bool.or_self, Bool.false_eq_true, if_false]

/-- Settles O48: a flit by what its router holds for it, the plain port by the line or row in which it comes nearer, a failed link by its two
ends, a landing by its bank and its barrier, and a flood by the routers that have still to apply it. -/
theorem meshEvents : Obligations.MeshEvents := by
  intro s n p
  refine ⟨?_, ?_, ⟨s.enterMesh_mem p, s.enterMesh_entered p⟩, fun port q => ⟨s.crossLink_moved p port q, s.crossLink_mem p port q⟩,
    fun _ _ => State.outPort_plain, fun _ _ _ => State.outPort_detour, fun a b => plainPort_nearer, ?_, ?_, ?_, ?_⟩
  · intro hp hin port
    simp only [exec]
    refine ⟨execRouterFlitForward_hole hp, fun hhole => ⟨execRouterFlitForward_fenced hp hhole hin, fun hfree =>
      ⟨fun old => execRouterFlitForward_turnedBack hp hhole hin hfree, fun q hport hnext hup hq => ?_⟩⟩⟩
    have goes := execRouterFlitForward_link hp hhole hin hfree hport hnext hup hq
    exact ⟨fun h => goes.trans (congrArg _ (if_pos h)), fun h => goes.trans (congrArg _ (if_neg (Bool.eq_false_iff.mp h)))⟩
  · intro hp hin hhole
    simp only [exec, execRouterFlitForward_enters hp hhole hin]
    exact ⟨fun h => congrArg _ (if_pos h), fun h => congrArg _ (if_neg (Bool.eq_false_iff.mp h))⟩
  · intro site port q hsite hnext hup
    simp only [exec]
    exact execMeshLinkDown_marks hsite hnext hup
  · intro u bytes bar c tag due l w ha hb hl hdue hfree hbar hreplay hbank hw
    simp only [exec]
    exact execStaticRouteFlitLanding_lands ha hb hl hdue hfree hbar hreplay hbank hw
  · intro u l b0 tl bar c id ha hb hfree hturn line rest lands
    simp only [exec]
    exact ⟨fun hmore w hw => execMcastReplicaLanding_line ha hb hfree hturn rfl rfl hmore hw,
      fun hlast hbar w hw => execMcastReplicaLanding_last ha hb hfree hturn rfl rfl hlast hbar hw⟩
  · intro site i f hf hsite hnew g
    simp only [exec, execRebindFlood_applies hf hsite hnew]
    exact ⟨fun h => if_neg (Bool.eq_false_iff.mp h), fun h => if_pos h⟩

end Sys2Proof.Machine
end

section
/-! SEND, SENDS, MCAST and RTWR at issue (O32): the header that a message takes and the command that is queued, and the tables that RTWR
writes (R261, R267, R269, R273, R274, R281-R285, R290). -/

namespace Sys2Proof.Machine

theorem low_toNat (x : Word) (n : Nat) : (x.extractLsb' 0 n).toNat = x.toNat % 2 ^ n := by
  rw [BitVec.extractLsb'_toNat, Nat.shiftRight_zero]

/-- The barrier register of SENDS or MCAST: none, or a word of a vault (R284, R285). -/
theorem barrierWord_ok {r : BitVec 6} {v : Word} (h : r ≠ 0 → v.toNat < 48 * 2 ^ 17 ∧ v.toNat % 16 = 0) :
    (r == 0 || decide (v.toNat < 48 * 2 ^ 17) && v.toNat % 16 == 0) = true := by
  simp only [Bool.or_eq_true, Bool.and_eq_true, beq_iff_eq, decide_eq_true_eq]
  exact or_iff_not_imp_left.mpr h

/-- The header of the message that a thread sends on a channel (R269, R283). -/
def State.sentHdr (s : State) (sig : Bool) (ch : Chan) (n len : Nat) (val : Word) : MsgHdr :=
  { cls := if sig then 2 else 0, retx := false, ibx := ch.ibx, len, seq := ch.next, stile := s.cur.tile,
    score := s.cur.core, schan := n, swaf := s.sys.wnum.toNat, dtile := ch.tile, dwaf := ch.waf.toNat,
    part := s.myPart.getD 0, val := if sig then val else 0, stask := (s.myCrew.map Crew.task).getD 0 }

section
variable {s t : State} {g : Guard} {tm : Bool} {a b c d : BitVec 6} {imm : BitVec 32} {src : List Loc} {start : Option Nat}

/-- A message on an open channel with room (R273, R274, R283). -/
theorem sendIssue_queues {sig : Bool} {len n : Nat} {bar : Bar} {ch : Chan}
    (hsrc : (if sig then .ok [] else s.sourceRange (s.readX b) len : Except Stop (List Loc)) = .ok src) (hbar : s.barReg c = .ok bar)
    (hn : (s.readX a).toNat = n) (hlt : n < 64) (hch : s.chan s.myCore n = ch) (hopen : ch.st = 1) (hout : ch.outn ≠ 8)
    (hroom : s.retxUsed s.cur.tile + copySize len ≤ 65536) (hstart : s.startOf tm imm = .ok start) {s1 : State}
    (hs1 : (s.addOut s.myCtx (.msg ch.tile ch.remote) 1).2 = s1)
    (hq : s1.Queues { s1.newCmd (.send false (s.sentHdr sig ch n len (s.readX b)) src s.nextId) bar 0 (rangeRefs src) with start } [] t) :
    sendIssue sig tm a b c len imm s = .ok (t.setChan s.myCore n (fun k => { k with next := k.next + 1, outn := k.outn + 1 })) := by
  have room : (ch.outn == 8 || decide (65536 < s.retxUsed s.cur.tile + copySize len)) = false := by simp [hout, hroom]
  have isOpen : (ch.st == 1 || ch.st == 2) = true := by rw [hopen]; rfl
  have alive : (ch.st == 2) = false := by rw [hopen]; rfl
  subst hs1
  rw [sendIssue]
  refine (bind_of_ok hsrc _).trans ((bind_of_ok hbar _).trans ?_)
  simp only [hn, hch]
  refine (bind_of_ok (check_of (decide_eq_true hlt) _ _) _).trans ((bind_of_ok (check_of isOpen _ _) _).trans ((bind_of_ok hstart _).trans ?_))
  simp only [alive, room, Bool.not_false, Bool.true_and, Bool.false_eq_true, if_false]
  exact bind_of_ok (State.enqueue_queues hq) _

section
variable (hi : s.Issues g)
include hi

/-- SENDS on a valid static route (R267, R284). -/
theorem exec_sends {x : BitVec 16} {n : Nat} {r : Word} (hn : (s.readX d).toNat % 2 ^ 13 = n)
    (hr : s.route s.cur.tile ((s.readX d).extractLsb' 16 8).toNat = r) (hsrc : s.sourceRange (s.readX a) n = .ok src)
    (hform : (s.readX d).extractLsb' 24 40 = 0 ∧ (s.readX d).extractLsb' 13 3 = 0) (hlen : 64 ≤ n ∧ n ≤ 4096 ∧ n % 64 = 0)
    (ha : (s.readX a).toNat % 64 = 0) (hroute : r.getLsbD 63 = true) (htile : s.tileNamed ((r.extractLsb' 32 16).setWidth 64) = true)
    (hb : (s.readX b).toNat < 48 * 2 ^ 17 ∧ (s.readX b).toNat % 64 = 0)
    (hc : c ≠ 0 → (s.readX c).toNat < 48 * 2 ^ 17 ∧ (s.readX c).toNat % 16 = 0) (hstart : s.startOf tm imm = .ok start)
    (hq : s.Queues { s.newCmd (.sends src (r.extractLsb' 32 16).toNat (r.extractLsb' 16 16).toNat (s.readX b).toNat
      (if c = 0 then none else some (s.readX c).toNat)) none x (rangeRefs src) with start } [] t) :
    exec (.sends g tm d a b c x imm) s = .next t := by
  obtain ⟨hhigh, hmid⟩ := hform
  obtain ⟨hmin, hmax, hmod⟩ := hlen
  obtain ⟨hdst, hdstAlign⟩ := hb
  have word := barrierWord_ok hc
  simp only [exec]
  refine run_ok hi ?_
  simp only [low_toNat, hn, hr]
  refine (bind_of_ok hsrc _).trans ((bind_of_ok (check_of ?_ _ _) _).trans ((bind_of_ok (check_of ?_ _ _) _).trans
    ((bind_of_ok (check_of ?_ _ _) _).trans ((bind_of_ok hstart _).trans ?_))))
  · simp only [hhigh, hmid, hmin, hmax, hmod, ha, decide_true, beq_self_eq_true, Bool.and_self]
  · rw [hroute, htile, Bool.and_self]
  · simp only [hdst, word, hdstAlign, decide_true, beq_self_eq_true, Bool.and_self]
  simp only [beq_iff_eq]
  exact State.enqueue_queues hq

/-- The tiles of a rectangle of a crew, row by row (R285). -/
def rectTiles (t0 pitch col0 row0 cols rows : Nat) : List Nat :=
  (List.range rows).flatMap (fun r => (List.range cols).map (fun k => t0 + (row0 + r) * pitch + col0 + k))

/-- MCAST to a rectangle of the crew (R285). -/
theorem exec_mcast {len : BitVec 13} {n w : Nat} {C : Word} (hn : len.toNat = n) (hC : s.readX c = C) (hcrew : s.view.crew = some w)
    (hsrc : s.sourceRange (s.readX a) n = .ok src) (hlen : 8 ≤ n ∧ n ≤ 4096 ∧ n % 8 = 0) (ha : (s.readX a).toNat % 8 = 0)
    (hb : (s.readX b).toNat % 8 = 0 ∧ (s.readX b).toNat + n ≤ 48 * 2 ^ 17) (hform : C.extractLsb' 48 16 = 0)
    (hd : d ≠ 0 → (s.readX d).toNat < 48 * 2 ^ 17 ∧ (s.readX d).toNat % 16 = 0)
    (hcols : (C.extractLsb' 0 16).toNat + ((C.extractLsb' 32 8).toNat + 1) ≤ (s.crew w).blk.cols)
    (hrows : (C.extractLsb' 16 16).toNat + ((C.extractLsb' 40 8).toNat + 1) ≤ (s.crew w).blk.rows) (hstart : s.startOf tm imm = .ok start)
    {tiles : List Nat} (htiles : rectTiles (s.crew w).t0 (s.crew w).blk.cols (C.extractLsb' 0 16).toNat (C.extractLsb' 16 16).toNat
      ((C.extractLsb' 32 8).toNat + 1) ((C.extractLsb' 40 8).toNat + 1) = tiles) {s1 : State}
    (hs1 : (s.addOut s.myCtx .mcast tiles.length).2 = s1)
    (hq : s1.Queues { s1.newCmd (.mcast src tiles (s.readX b).toNat (if d = 0 then none else some (s.readX d).toNat) s.nextId) none 0
      (rangeRefs src) with start } [] t) : exec (.mcast g tm d a b c len imm) s = .next t := by
  obtain ⟨hmin, hmax, hmod⟩ := hlen
  obtain ⟨hdstAlign, hdst⟩ := hb
  have word := barrierWord_ok hd
  subst hs1 htiles
  simp only [exec]
  refine run_ok hi ?_
  simp only [hn, hC, hcrew]
  refine (bind_of_ok hsrc _).trans ((bind_of_ok (check_of ?_ _ _) _).trans ((bind_of_ok (check_of ?_ _ _) _).trans
    ((bind_of_ok hstart _).trans ?_)))
  · simp only [hmin, hmax, hmod, ha, hdstAlign, hdst, hform, word, decide_true, beq_self_eq_true, Bool.and_self]
  · simp only [hcols, hrows, decide_true, Bool.and_self]
  simp only [beq_iff_eq]
  exact State.enqueue_queues hq

end

end

/-! Router tables (R261, R263, R267, R290). -/

theorem plainTile_named {t : Nat} (h : t < 0x8000) : isControlTile t = false ∧ isReservedTile t = false := by
  have low : isControlTile t = false := by simp [isControlTile, show ¬ 0xC000 ≤ t by omega]
  exact ⟨low, by simp [isReservedTile, low, h]⟩

section
variable {s : State} {g : Guard} {a b c : BitVec 6} {bar : Bar} (hi : s.IssuesAt g 2) (hbar : s.barReg c = .ok bar)
include hi hbar

/-- A rebind entry, and the flood that carries it to every router (R290). -/
theorem exec_rtwrRb (ha : (s.readX a).toNat < 0x8000)
    (hb : s.readX b = 0xFFFF ∨ (s.readX b).toNat < 2 ^ 16 ∧ isSite (s.readX b).toNat = true) :
    exec (.rtwrRb g a b c) s = .next { s with
      rebind := Tbl.set 0xFFFF s.rebind (s.readX a).toNat ((s.readX b).setWidth 16)
      floods := s.floods ++ [⟨(s.readX a).toNat, Tbl.get 0xFFFF s.rebind (s.readX a).toNat, [], bar⟩] } := by
  obtain ⟨control, reserved⟩ := plainTile_named ha
  have site : (s.readX b == 0xFFFF || decide ((s.readX b).toNat < 2 ^ 16) && isSite (s.readX b).toNat) = true := by
    simpa only [Bool.or_eq_true, Bool.and_eq_true, beq_iff_eq, decide_eq_true_eq] using hb
  simp only [exec]
  refine runPriv_ok hi ((bind_of_ok hbar _).trans ?_)
  refine (bind_of_ok (check_of (by rw [control, site, decide_eq_true (by omega)]; rfl) _ _) _).trans ?_
  exact bind_of_ok (check_of (by rw [reserved]; rfl) _ _) _

/-- A detour entry of a router (R263). -/
theorem exec_rtwrDt (hform : (s.readX a).extractLsb' 20 44 = 0) (hsite : isSite ((s.readX a).toNat % 2 ^ 16) = true)
    (hent : (s.readX b).extractLsb' 34 29 = 0) :
    exec (.rtwrDt g a b c) s = .next ((s.modSite ((s.readX a).toNat % 2 ^ 16) (fun t =>
      { t with detour := Tbl.set 0 t.detour ((s.readX a).extractLsb' 16 4).toNat (s.readX b) })).rtwrDone bar) := by
  simp only [exec]
  refine runPriv_ok hi ((bind_of_ok hbar _).trans ?_)
  simp only [low_toNat]
  exact bind_of_ok (check_of (by rw [hform, hsite, hent]; rfl) _ _) _

/-- An entry of the static routes of a tile (R267). -/
theorem exec_rtwrSr (hform : (s.readX a).extractLsb' 24 40 = 0) (htile : (s.readX a).toNat % 2 ^ 16 < 0x8000)
    (hent : (s.readX b).extractLsb' 48 14 = 0) (hname : s.tileNamed (((s.readX a).extractLsb' 0 16).setWidth 64) = true)
    (hdest : (s.readX b).getLsbD 63 = true → s.tileNamed (((s.readX b).extractLsb' 32 16).setWidth 64) = true) :
    exec (.rtwrSr g a b c) s = .next ((s.modTile ((s.readX a).toNat % 2 ^ 16) (fun t =>
      { t with routes := Tbl.set 0 t.routes ((s.readX a).extractLsb' 16 8).toNat (s.readX b) })).rtwrDone bar) := by
  obtain ⟨control, -⟩ := plainTile_named htile
  have dest : (!(s.readX b).getLsbD 63 || s.tileNamed (((s.readX b).extractLsb' 32 16).setWidth 64)) = true := by
    cases h : (s.readX b).getLsbD 63
    · rfl
    · rw [hdest h]
      rfl
  simp only [exec]
  refine runPriv_ok hi ((bind_of_ok hbar _).trans ?_)
  simp only [low_toNat]
  refine (bind_of_ok (check_of (by rw [hform, control, hent]; rfl) _ _) _).trans ?_
  exact bind_of_ok (check_of (by rw [hname, dest]; rfl) _ _) _

end

/-- Settles O32: each message, route and table entry by the checks of its issue in their order. -/
theorem messagesAndRoutes : Obligations.MessagesAndRoutes := by
  refine ⟨?_, ?_, ?_⟩
  · intro s t g sig tm a b c len imm src bar start hi n ch bytes hdr s1 hsig hdata hbar hlt hopen hout hroom hstart hq
    cases sig with
    | true =>
      obtain rfl := hsig rfl
      simp only [exec, if_true]
      exact run_ok hi (sendIssue_queues rfl hbar rfl hlt rfl hopen hout hroom hstart rfl hq)
    | false =>
      simp only [exec, Bool.false_eq_true, if_false]
      exact run_ok hi (sendIssue_queues (hdata rfl) hbar rfl hlt rfl hopen hout hroom hstart rfl hq)
  · intro s t g tm d a b c len x imm src start hi A B C D hstart
    refine ⟨?_, ?_⟩
    · intro n r hsrc hhigh hmid hmin hmax hmod ha hroute htile hb hbAlign hc hq
      exact exec_sends hi rfl rfl hsrc ⟨hhigh, hmid⟩ ⟨hmin, hmax, hmod⟩ ha hroute htile ⟨hb, hbAlign⟩ hc hstart hq
    · intro n col0 row0 cols rows w hcrew hsrc hmin hmax hmod ha hbAlign hb hform hd hcols hrows tiles s1 hq
      exact exec_mcast hi rfl rfl hcrew hsrc ⟨hmin, hmax, hmod⟩ ha ⟨hbAlign, hb⟩ hform hd hcols hrows hstart rfl rfl hq
  · intro s g a b c bar hi hbar A B done
    refine ⟨fun hA hB => ⟨_, exec_rtwrRb hi hbar hA hB, ?_, fun k hk => ?_, rfl, rfl⟩, fun hform hsite hent => ?_,
      fun hform htile hent hname hdest => ?_⟩
    · have fits : B.toNat < 2 ^ 16 := by
        rcases hB with h | ⟨hlt, -⟩
        · rw [h]; decide
        · exact hlt
      rw [State.bound, Tbl.get_set_self, BitVec.toNat_setWidth, Nat.mod_eq_of_lt fits]
    · rw [State.bound, Tbl.get_set_ne _ _ _ hk, ← State.bound]
    · exact exec_rtwrDt hi hbar hform hsite hent
    · exact exec_rtwrSr hi hbar hform htile hent hname hdest

end Sys2Proof.Machine
end

section
/-! Messages (O49): the receive algorithm case by case, the landing of a message, and the replies and resends at its sender
(R269-R278, R286). -/

namespace Sys2Proof.Machine

/-! The receive algorithm (R275). -/

namespace State

variable {s : State} {t : Nat} {h : MsgHdr}

theorem refuseMsg_noCrew (hcrew : (s.tile t).crew = none) :
    s.refuseMsg t h = some (((s.countMsg (s.siteOf t)).countPart h.part 32).replyTo t h (.msgAck h)) := by
  simp only [refuseMsg, hcrew]

theorem withRecv_known {e : RecvEnt} (he : (s.tile t).recv.find? (fun e => e.isFor h) = some e) : s.withRecv t h = s := by
  have listed : (s.tile t).recv.any (fun e => e.isFor h) = true :=
    List.any_eq_true.mpr ⟨e, List.mem_of_find?_eq_some he, List.find?_some (p := fun e : RecvEnt => e.isFor h) he⟩
  simp only [withRecv, listed, if_true]

theorem withRecv_new (he : (s.tile t).recv.find? (fun e => e.isFor h) = none) : s.withRecv t h = s.modTile t (fun i => { i with recv := i.recv ++
    [{ waf := h.swaf, tile := h.stile, core := h.score, chan := h.schan, task := h.stask.toNat, part := h.part,
       ibx := h.ibx.toNat, exp := 0 }] }) := by
  have unlisted : (s.tile t).recv.any (fun e => e.isFor h) = false := List.any_eq_false.mpr (List.find?_eq_none.mp he)
  simp only [withRecv, unlisted, Bool.false_eq_true, if_false]

theorem withRecv_frame (s : State) (t : Nat) (h : MsgHdr) : ∃ tiles, s.withRecv t h = { s with tiles } := by
  simp only [withRecv]
  split
  · exact ⟨s.tiles, rfl⟩
  · exact ⟨_, rfl⟩

theorem ibxCounts_withRecv (x : Word) : (s.withRecv t h).ibxCounts t x = s.ibxCounts t x := by
  obtain ⟨tiles, made⟩ := s.withRecv_frame t h
  rw [made]
  rfl

section
variable {w : Nat} (hcrew : (s.tile t).crew = some w)
include hcrew

theorem refuseMsg_otherPart (hpart : (s.crew w).part ≠ h.part) :
    s.refuseMsg t h = some (((s.countMsg (s.siteOf t)).countPart h.part 32).replyTo t h (.msgAck h)) := by
  simp only [refuseMsg, hcrew, bne_iff_ne.mpr hpart, if_true]

section
variable (hpart : (s.crew w).part = h.part) {x : Word} (hx : s.inbox t h.ibx.toNat = x)
include hpart hx

theorem refuseMsg_off (hen : ibxEn x = false) : s.refuseMsg t h = some ((s.countMsg (s.siteOf t)).replyTo t h (.msgAck h)) := by
  simp only [refuseMsg, hcrew, hpart, hx, hen, bne_self_eq_false, Bool.false_eq_true, if_false, Bool.not_false, if_true]

section
variable (hen : ibxEn x = true)
include hen

theorem refuseMsg_long (hsize : ibxSize x < 32 + h.len) :
    s.refuseMsg t h = some (((s.dropMsg t x).countMsg (s.siteOf t)).replyTo t h (.msgAck h)) := by
  simp only [refuseMsg, hcrew, hpart, hx, hen, hsize, bne_self_eq_false, Bool.false_eq_true, if_false, Bool.not_true, if_true]

section
variable (hsize : 32 + h.len ≤ ibxSize x) {old : Option RecvEnt} (hold : (s.tile t).recv.find? (fun e => e.isFor h) = old)
include hsize hold

theorem refuseMsg_gap (hnone : old = none) (hseq : h.seq ≠ 0) :
    s.refuseMsg t h = some (((s.dropMsg t x).countMsg (s.siteOf t)).replyTo t h (.msgAck h)) := by
  subst hnone
  simp only [refuseMsg, hcrew, hpart, hx, hen, hold, bne_self_eq_false, bne_iff_ne.mpr hseq, Nat.not_lt.mpr hsize, Bool.false_eq_true, if_false,
    Bool.not_true, Option.isNone_none, Bool.and_self, if_true]

theorem refuseMsg_tableFull (hnone : old = none) (hseq : h.seq = 0) (hfull : 1024 ≤ (s.tile t).recv.length) :
    s.refuseMsg t h = some (s.replyTo t h (.nackFull h)) := by
  subst hnone
  simp only [refuseMsg, hcrew, hpart, hx, hen, hold, bne_self_eq_false, hseq, hfull, Nat.not_lt.mpr hsize, Bool.false_eq_true, if_false,
    Bool.not_true, Option.isNone_none, Bool.and_false, decide_true, Bool.and_self, if_true]

/-- A message that has its receive entry, compared with the number that is expected (R275). -/
theorem refuseMsg_entered (hnew : old = none → h.seq = 0 ∧ (s.tile t).recv.length < 1024) {v : State} (hv : s.withRecv t h = v)
    (hreplay : v.replaying t = false) {d : Nat} (hd : (h.seq - (old.map RecvEnt.exp).getD 0).toNat = d) {c : IbxCtl}
    (hc : v.ibxCounts t x = c) : s.refuseMsg t h = if 2 ^ 31 ≤ d then some (v.replyTo t h (.msgAck h))
      else if 0 < d then some (v.replyTo t h (.nackOrder h))
      else if (c.tail + 2 ^ 32 - c.head) % 2 ^ 32 == ibxRing x then some (v.replyTo t h (.nackFull h))
      else if 2 ^ 21 < v.ropeFill t + 16 + msgLogBytes (v.fromOutside w h) h then some (v.replyTo t h (.nackReplay h))
      else none := by
  have noGap : (old.isNone && h.seq != 0) = false := by
    cases old with
    | none => simp [hnew rfl]
    | some e => rfl
  have noneFull : (old.isNone && decide (1024 ≤ (s.tile t).recv.length)) = false := by
    cases old with
    | none => simp [hnew rfl]
    | some e => rfl
  simp only [refuseMsg, hcrew, hpart, hx, hen, hold, noGap, noneFull, hv, hc, hd, hreplay, bne_self_eq_false, Nat.not_lt.mpr hsize,
    Bool.false_eq_true, if_false, Bool.not_true, Bool.false_and]

section
variable (hnew : old = none → h.seq = 0 ∧ (s.tile t).recv.length < 1024) {v : State} (hv : s.withRecv t h = v) (hreplay : v.replaying t = false)
  (hnext : (h.seq - (old.map RecvEnt.exp).getD 0).toNat = 0) {c : IbxCtl} (hc : v.ibxCounts t x = c)
include hnew hv hreplay hnext hc

theorem refuseMsg_inboxFull (hfull : ((c.tail + 2 ^ 32 - c.head) % 2 ^ 32 == ibxRing x) = true) :
    s.refuseMsg t h = some (v.replyTo t h (.nackFull h)) := by
  rw [refuseMsg_entered hcrew hpart hx hen hsize hold hnew hv hreplay hnext hc, if_neg (by decide), if_neg (by decide), if_pos hfull]

theorem refuseMsg_none (hroom : ((c.tail + 2 ^ 32 - c.head) % 2 ^ 32 == ibxRing x) = false)
    (hrope : v.ropeFill t + 16 + msgLogBytes (v.fromOutside w h) h ≤ 2 ^ 21) : s.refuseMsg t h = none := by
  rw [refuseMsg_entered hcrew hpart hx hen hsize hold hnew hv hreplay hnext hc, if_neg (by decide), if_neg (by decide),
    if_neg (Bool.eq_false_iff.mp hroom), if_neg (Nat.not_lt.mpr hrope)]

end

end

end

end

end

/-- The number that is expected: that of the receive entry, or 0 where the message makes one (R275). -/
theorem withRecv_expected {old : Option RecvEnt} (hold : (s.tile t).recv.find? (fun e => e.isFor h) = old) {v : State}
    (hcase : (∃ e, old = some e ∧ h.seq = e.exp) ∧ v = s
      ∨ old = none ∧ h.seq = 0 ∧ (s.tile t).recv.length < 1024 ∧ v = s.modTile t (fun i => { i with recv := i.recv ++
        [{ waf := h.swaf, tile := h.stile, core := h.score, chan := h.schan, task := h.stask.toNat, part := h.part,
           ibx := h.ibx.toNat, exp := 0 }] })) :
    s.withRecv t h = v ∧ (old = none → h.seq = 0 ∧ (s.tile t).recv.length < 1024) ∧ (h.seq - (old.map RecvEnt.exp).getD 0).toNat = 0 := by
  obtain ⟨⟨e, rfl, hseq⟩, rfl⟩ | ⟨rfl, hseq, hroom, rfl⟩ := hcase
  · refine ⟨withRecv_known hold, nofun, ?_⟩
    rw [hseq, Option.map_some, Option.getD_some, BitVec.sub_self, BitVec.toNat_zero]
  · refine ⟨withRecv_new hold, fun _ => ⟨hseq, hroom⟩, ?_⟩
    rw [hseq]
    rfl

/-! The landing of a message leaves the table of partners (R272, R286). -/

theorem logEv_partner (s : State) (tile : Nat) (e : LogEv) (n : Nat) : (s.logEv tile e n).partner = s.partner := by
  simp only [logEv]
  (repeat' split) <;> rfl

theorem logWake_partner (s : State) (k : Nat) (code : BitVec 6) : (s.logWake k code).partner = s.partner := by
  simp only [logWake]
  split
  · exact logEv_partner ..
  · rfl

theorem completeX_partner (s : State) (k : Nat) (d : BitVec 6) (v : Word) (lat : Nat) : (s.completeX k d v lat).partner = s.partner := by
  simp only [completeX, putX]
  (repeat' split) <;> rfl

theorem wakeBit_partner (s : State) (k : Nat) : (s.wakeBit k).partner = s.partner := by
  delta wakeBit
  dsimp only
  split
  · rfl
  · generalize (s.ctx k).wait = w
    cases w <;> simp only [logWake_partner, completeX_partner] <;> rfl

theorem writeLoc_partner (s : State) (l : Loc) (bs : List Byte) : (s.writeLoc l bs).partner = s.partner := by
  simp only [writeLoc]
  split <;> rfl

theorem watchWake_partner (s : State) (l : Loc) (n : Nat) (en : BitVec 64) : (s.watchWake l n en).partner = s.partner :=
  foldl_keeps State.partner _ wakeBit_partner ..

theorem wakePop_partner (s : State) (t ibx : Nat) : (s.wakePop t ibx).partner = s.partner := by
  refine foldl_keeps State.partner _ (fun s k => ?_) ..
  split
  · rfl
  · exact logWake_partner ..

theorem expNext_partner (s : State) (t : Nat) (h : MsgHdr) : (s.expNext t h).partner = s.partner := rfl

theorem landMsg_partner (s : State) (t : Nat) (x : Word) (h : MsgHdr) : (s.landMsg t x h).partner = s.partner :=
  (wakePop_partner ..).trans ((watchWake_partner ..).trans (writeLoc_partner ..))

/-- Outside a replay a message that lands is recorded, and its replica leaves before the ACK (R272, R278, R422). -/
theorem acceptMsg_recorded {s : State} {t w : Nat} {x : Word} {h : MsgHdr} {data : List Byte} (hreplay : s.replaying t = false) {a b : State}
    {out : Bool} (hout : s.fromOutside w h = out) (ha : ((s.withRecv t h).landMsg t x h).expNext t h = a)
    (hb : a.logEv t (.message h (if out then data else []) out) (msgLogBytes out h) = b) :
    s.acceptMsg t w x h data = b.send t (b.partnerOf t) 0 0 0 (.log t (msgLogBytes out h) (some h)) := by
  obtain ⟨tiles, made⟩ := s.withRecv_frame t h
  have entered : (s.withRecv t h).partner = s.partner := by rw [made]
  have table : b.partner = s.partner := by
    rw [← hb, logEv_partner, ← ha, expNext_partner, landMsg_partner, entered]
  have partner : b.partnerOf t = s.partnerOf t := by rw [partnerOf, partnerOf, table]
  simp only [acceptMsg, hreplay, hout, ha, hb, partner, Bool.false_and, Bool.false_eq_true, if_false]

end State

/-! A message at its destination (R269, R272, R275, R279). -/

section
variable {s u : State} {n : Nat} {p : Pkt} {h : MsgHdr} {data : List Byte} {crc : BitVec 16} (ha : s.Arrives n p u)
  (hb : p.body = .msg h data crc)
include ha hb

theorem execMessageReceive_otherWafer (hd : h.dwaf ≠ u.sys.wnum.toNat) : execMessageReceive n s = .next (u.passOn p h) := by
  rw [execMessageReceive, arrived_of ha (by simp only [hb])]
  simp only [hb, bne_iff_ne.mpr hd, if_true]

section
variable (hd : h.dwaf = u.sys.wnum.toNat)
include hd

theorem execMessageReceive_badCrc (hc : crc ≠ h.hcrc) : execMessageReceive n s = .next (u.countMsg p.dst) := by
  rw [execMessageReceive, arrived_of ha (by simp only [hb])]
  simp only [hb, hd, bne_self_eq_false, bne_iff_ne.mpr hc, Bool.false_eq_true, if_false, if_true]

section
variable (hc : crc = h.hcrc)
include hc

theorem execMessageReceive_elsewhere (ht : u.tileAt p.dst ≠ some h.dtile) : execMessageReceive n s = .next u := by
  rw [execMessageReceive, arrived_of ha (by simp only [hb])]
  simp only [hb, hd, hc, bne_self_eq_false, bne_iff_ne.mpr ht, Bool.false_eq_true, if_false, if_true]

section
variable (ht : u.tileAt p.dst = some h.dtile)
include ht

theorem execMessageReceive_refused {v : State} (hr : u.refuseMsg h.dtile h = some v) : execMessageReceive n s = .next v := by
  rw [execMessageReceive, arrived_of ha (by simp only [hb])]
  simp only [hb, hd, hc, ht, hr, bne_self_eq_false, Bool.false_eq_true, if_false]

section
variable (hr : u.refuseMsg h.dtile h = none) {w : Nat} (hw : (u.tile h.dtile).crew = some w) (hwait : u.msgWaits h.dtile w h = false)
  {x : Word} (hx : u.inbox h.dtile h.ibx.toNat = x) {e : Loc}
  (he : ibxEntry h.dtile x ((u.ibxCounts h.dtile x).tail % ibxRing x) = e)
include hr hw hwait hx he

/-- A line of a message lands, and the packet goes on with the next (R155, R272). -/
theorem execMessageReceive_line (hmore : 64 * p.part < (h.bytes ++ data).length)
    (hfree : u.linesHeld { e with off := e.off + 64 * p.part } 16 = false) {y : State} (hy : s.useBank h.dtile e.bank = some y) :
    execMessageReceive n s = .next ((y.writeLoc { e with off := e.off + 64 * p.part } (slice (h.bytes ++ data) (64 * p.part) 64)).modPkt p.id
      (fun q => { q with part := q.part + 1 })) := by
  rw [execMessageReceive, arrived_of ha (by simp only [hb])]
  simp only [hb, hd, hc, ht, hr, hw, hx, he, hwait, hmore, hfree, hy, bne_self_eq_false, Bool.false_eq_true, if_false, if_true, Bool.or_self]

/-- Once its lines have landed the message is taken (R272). -/
theorem execMessageReceive_taken (hover : (h.bytes ++ data).length ≤ 64 * p.part) (hfree : u.linesHeld (ibxCtl h.dtile x) 16 = false) {y : State}
    (hy : u.useBank h.dtile e.bank = some y) : execMessageReceive n s = .next (y.acceptMsg h.dtile w x h data) := by
  rw [execMessageReceive, arrived_of ha (by simp only [hb])]
  simp only [hb, hd, hc, ht, hr, hw, hx, he, hwait, Nat.not_lt.mpr hover, hfree, hy, bne_self_eq_false, Bool.false_eq_true, if_false, Bool.or_self]

end

end

end

end

end

/-! Replies at the sender (R276). -/

section
variable {s u : State} {n : Nat} {p : Pkt} (ha : s.Arrives n p u)
include ha

/-- A reply is for the copy of its message (R276). -/
theorem repliedCopy_of {f : Body → Option MsgHdr} {h : MsgHdr} {r : Retx} (hf : f p.body = some h)
    (hr : (u.tile h.stile).retx.find? (fun r => r.hdr.same h) = some r) : s.repliedCopy n f = some (h.stile, r, p.ctx, u) := by
  have packet : ¬s.net.length ≤ n := Nat.not_le.mpr (List.getElem?_eq_some_iff.mp ha.1).1
  rw [State.repliedCopy, if_neg packet, arrived_of ha (by rw [hf]; rfl)]
  simp only [hf, hr]

section
variable {h : MsgHdr} {r : Retx} (hr : (u.tile h.stile).retx.find? (fun r => r.hdr.same h) = some r)
include hr

theorem execAckReceive_ends (hb : p.body = .msgAck h) : execAckReceive n s = .next (u.endSend h.stile r 0).settle := by
  simp only [execAckReceive]
  rw [repliedCopy_of ha (by simp only [hb]) hr]

theorem execNackFullReceive_waits (hb : p.body = .nackFull h) : execNackFullReceive n s = .next (u.modRetx h.stile r.hdr (fun q =>
    { q with st := .delay (u.rcOf h.stile + q.delay / 2) q.delay, delay := min 65536 (2 * q.delay) })) := by
  simp only [execNackFullReceive]
  rw [repliedCopy_of ha (by simp only [hb]) hr]

theorem execNackOrderReceive_resends (hb : p.body = .nackOrder h)
    (hone : (u.tile h.stile).retx.filter (fun q => q.hdr.sameChan r.hdr && !u.earlierQueued h.stile q.hdr) = [r]) :
    execNackOrderReceive n s = .next (u.resend h.stile r) := by
  simp only [execNackOrderReceive]
  rw [repliedCopy_of ha (by simp only [hb]) hr]
  simp only [hone]
  rfl

theorem execNackFencedReceive_waits (hb : p.body = .nackFenced h) :
    execNackFencedReceive n s = .next (u.modRetx h.stile r.hdr (fun q => { q with st := .fenced p.ctx })) := by
  simp only [execNackFencedReceive]
  rw [repliedCopy_of ha (by simp only [hb]) hr]

theorem execNackReplayReceive_waits (hb : p.body = .nackReplay h) : execNackReplayReceive n s
    = .next (u.modRetx h.stile r.hdr (fun q => { q with st := .delay (u.rcOf h.stile + 2048) q.delay })) := by
  simp only [execNackReplayReceive]
  rw [repliedCopy_of ha (by simp only [hb]) hr]

end

/-! The replica of a message's record (R278, R422). -/

theorem execLogReplicaAcknowledgement_kept {t k : Nat} {h : Option MsgHdr} (hb : p.body = .log t k h) :
    execLogReplicaAcknowledgement n s = .next (u.send (u.partnerOf t) t 1 0 0 (.logAck h)) := by
  rw [execLogReplicaAcknowledgement, arrived_of ha (by simp only [hb])]
  simp only [hb]

theorem execLogReplicaAcknowledgement_acks {h : MsgHdr} (hb : p.body = .logAck (some h)) :
    execLogReplicaAcknowledgement n s = .next (u.replyTo h.dtile h (.msgAck h)) := by
  rw [execLogReplicaAcknowledgement, arrived_of ha (by simp only [hb])]
  simp only [hb]

end

/-! The reasons to send again (R276). -/

section
variable {s : State} {tile i : Nat} {r : Retx} (hr : (s.tile tile).retx[i]? = some r) (hrun : (s.tile tile).halted = false)
  (hturn : s.earlierHeld tile r.hdr = false)
include hr hrun hturn

theorem execResendDelayExpiry_resends {rc d : Nat} (hst : r.st = .delay rc d) (hdue : rc ≤ s.rcOf tile) :
    execResendDelayExpiry tile i s = .next (s.resend tile r) := by
  simp only [execResendDelayExpiry, hr, hst, hrun, hturn, Nat.not_lt.mpr hdue, decide_false, Bool.or_self, Bool.false_eq_true, if_false]

theorem execRebindChangeResend_resends {site : Nat} (hst : r.st = .fenced site)
    (hnew : s.boundAt (s.siteOf tile) r.hdr.dtile ≠ site) : execRebindChangeResend tile i s = .next (s.resend tile r) := by
  simp only [execRebindChangeResend, hr, hst, hrun, hturn, beq_eq_false_iff_ne.mpr hnew, Bool.or_self, Bool.false_eq_true, if_false]

theorem execRetransmitTimeout_resends (hst : r.st = .sent) (hdue : r.at_ + 65536 ≤ s.rcOf tile) :
    execRetransmitTimeout tile i s = .next (s.resend tile r) := by
  simp only [execRetransmitTimeout, hr, hst, hrun, hturn, Nat.not_lt.mpr hdue, decide_false, Bool.or_self, Bool.false_eq_true, if_false]

end

/-! The stored header (R269). -/

theorem slice_append {pre mid : List Byte} {i n : Nat} (hi : pre.length = i) (hn : mid.length = n) (post : List Byte) :
    slice (pre ++ (mid ++ post)) i n = mid := by
  rw [slice, List.drop_left' hi, List.take_left' hn]

theorem word32_leBytes {pre post : List Byte} {i : Nat} (hi : pre.length = i) (v : BitVec 32) :
    word32 (pre ++ (leBytes 4 v.toNat ++ post)) i = v := by
  rw [word32, slice_append hi (length_leBytes ..), leNat_leBytes, Nat.mod_eq_of_lt v.isLt, BitVec.ofNat_toNat, BitVec.setWidth_eq]

theorem word64_leBytes {pre post : List Byte} {i : Nat} (hi : pre.length = i) (v : Word) :
    word64 (pre ++ (leBytes 8 v.toNat ++ post)) i = v := by
  rw [word64, slice_append hi (length_leBytes ..), leNat_leBytes, Nat.mod_eq_of_lt v.isLt, BitVec.ofNat_toNat, BitVec.setWidth_eq]

theorem MsgHdr.bytes_fields (h : MsgHdr) : h.bytes.length = 32 ∧ word32 h.bytes 4 = h.seq ∧ word64 h.bytes 16 = h.val
    ∧ word32 h.bytes 24 = h.stask := by
  refine ⟨by simp [bytes], ?_, ?_, ?_⟩
  · simp only [bytes, List.append_assoc]
    exact word32_leBytes (length_leBytes ..) h.seq
  · rw [bytes, List.append_assoc, List.append_assoc, List.append_assoc]
    exact word64_leBytes (by simp) h.val
  · rw [bytes, List.append_assoc, List.append_assoc]
    exact word32_leBytes (by simp) h.stask

/-- Settles O49: a message by the receive algorithm, its landing by the number that its entry expects, a reply by the copy it is for, and a
resend by the state of the copy. -/
theorem messageEvents : Obligations.MessageEvents := by
  refine ⟨fun s n p u ha => ⟨?_, ?_, ?_, ?_, ?_, ?_⟩, ?_⟩
  · intro h data crc hb hd
    simp only [exec]
    refine ⟨execMessageReceive_otherWafer ha hb hd, fun q hq hfar => ?_⟩
    simp only [State.passOn, hq, if_neg hfar]
  · intro h data crc hb hd hc
    simp only [exec]
    exact execMessageReceive_badCrc ha hb hd hc
  · intro h data crc hb hd hc go x ack site
    refine ⟨fun ht => ?_, fun ht => ?_⟩
    · simp only [go, exec]
      exact execMessageReceive_elsewhere ha hb hd hc ht
    have refused {v : State} (hr : u.refuseMsg h.dtile h = some v) : go = .next v := by
      simp only [go, exec]
      exact execMessageReceive_refused ha hb hd hc ht hr
    refine ⟨fun hcrew => refused (State.refuseMsg_noCrew hcrew), fun w hw => ⟨fun hpart => refused (State.refuseMsg_otherPart hw hpart),
      fun hpart hen => refused (State.refuseMsg_off hw hpart rfl hen),
      fun hpart hen hlong => refused (State.refuseMsg_long hw hpart rfl hen hlong), ?_⟩⟩
    intro hpart hen hsize hreplay old
    refine ⟨fun hnone hseq => refused (State.refuseMsg_gap hw hpart rfl hen hsize rfl hnone hseq),
      fun hnone hseq hfull => refused (State.refuseMsg_tableFull hw hpart rfl hen hsize rfl hnone hseq hfull), fun e he => ?_, ?_⟩
    · have known := State.refuseMsg_entered hw hpart rfl hen hsize he nofun (State.withRecv_known he) hreplay rfl rfl
      refine ⟨fun hold => refused (known.trans (if_pos hold)), fun hpos hlt => refused (known.trans ?_)⟩
      exact (if_neg (Nat.not_le.mpr hlt)).trans (if_pos hpos)
    · intro v hcase c full outside k
      obtain ⟨hv, hnew, hnext⟩ := State.withRecv_expected rfl hcase
      have counts : u.ibxCounts h.dtile x = c :=
        (State.ibxCounts_withRecv x).symm.trans (congrArg (fun z : State => z.ibxCounts h.dtile x) hv)
      refine ⟨fun hfull hvr => refused (State.refuseMsg_inboxFull hw hpart rfl hen hsize rfl hnew hv hvr hnext rfl hfull), ?_⟩
      intro hroom hvr hrope hwait bytes e l
      have lands := State.refuseMsg_none hw hpart rfl hen hsize rfl hnew hv hvr hnext rfl hroom hrope
      have entry : ibxEntry h.dtile x ((u.ibxCounts h.dtile x).tail % ibxRing x) = e := by rw [counts]
      simp only [go, exec]
      refine ⟨fun hmore hfree y hy => execMessageReceive_line ha hb hd hc ht lands hw hwait rfl entry hmore hfree hy,
        ?_⟩
      intro hover hfree y hy hyr
      refine (execMessageReceive_taken ha hb hd hc ht lands hw hwait rfl entry hover hfree hy).trans (congrArg _ ?_)
      exact State.acceptMsg_recorded hyr rfl rfl rfl
  · intro t k h hb
    simp only [exec]
    exact execLogReplicaAcknowledgement_kept ha hb
  · intro h hb
    simp only [exec]
    exact execLogReplicaAcknowledgement_acks ha hb
  · intro h r hr
    simp only [exec]
    exact ⟨execAckReceive_ends ha hr, execNackFullReceive_waits ha hr, execNackOrderReceive_resends ha hr, execNackFencedReceive_waits ha hr,
      execNackReplayReceive_waits ha hr⟩
  · intro s tile i r hr hrun
    simp only [exec]
    exact ⟨fun rc d hst hdue hturn => execResendDelayExpiry_resends hr hrun hturn hst hdue,
      fun site hst hnew hturn => execRebindChangeResend_resends hr hrun hturn hst hnew,
      fun hst hdue hturn => execRetransmitTimeout_resends hr hrun hturn hst hdue, MsgHdr.bytes_fields⟩

end Sys2Proof.Machine
end

section
/-! Hops (O50): a light context at its target and the answer at its source (R288, R289). -/

namespace Sys2Proof.Machine

/-! Arrival at the target (R288, R289). -/

theorem State.loggedHop_of_not_replaying {s : State} {t : Nat} (h : s.replaying t = false) : s.loggedHop t = none := by
  rw [State.loggedHop]
  split
  · rfl
  · rw [if_neg (Bool.eq_false_iff.mp h)]

/-- The answer of a target to a hop (R289). -/
def State.hopAnswer (s : State) (p : Pkt) (c : Ctx) (ok : Bool) : State := s.sendFrom p.dst p.src p.ctx (.hopAck ok c)

section
variable {s u : State} {n : Nat} {p : Pkt} {h : MsgHdr} {c : Ctx} {np : Bool} {crc : BitVec 16} (ha : s.Arrives n p u)
  (hb : p.body = .hop h c np crc)
include ha hb

theorem execHopArrival_badCrc (hc : crc ≠ h.hcrc) : execHopArrival n s = .next (u.countMsg p.dst) := by
  rw [execHopArrival, arrived_of ha (by simp only [hb])]
  simp only [hb, bne_iff_ne.mpr hc, if_true]

section
variable (hc : crc = h.hcrc)
include hc

theorem execHopArrival_noTile (ht : u.tileAt p.dst = none) : execHopArrival n s = .next (u.hopAnswer p c false) := by
  rw [execHopArrival, arrived_of ha (by simp only [hb])]
  simp only [hb, hc, ht, bne_self_eq_false, Bool.false_eq_true, if_false]
  rfl

section
variable {t w : Nat} (ht : u.tileAt p.dst = some t) (hw : c.crew = some w)
include ht hw

theorem execHopArrival_otherCrew (hcrew : (u.tile t).crew ≠ some w) : execHopArrival n s = .next (u.hopAnswer p c false) := by
  rw [execHopArrival, arrived_of ha (by simp only [hb])]
  simp only [hb, hc, ht, hw, bne_iff_ne.mpr hcrew, bne_self_eq_false, Bool.false_eq_true, if_false, Bool.or_true, if_true]
  rfl

section
variable (hcrew : (u.tile t).crew = some w) (hreplay : u.replaying t = false)
include hcrew hreplay

theorem execHopArrival_refused (hfull : u.hopPlace (u.hopCore t h.ibx.toNat) np = none) :
    execHopArrival n s = .next (u.hopAnswer p c false) := by
  rw [execHopArrival, arrived_of ha (by simp only [hb])]
  simp only [hb, hc, ht, hw, hcrew, hfull, State.loggedHop_of_not_replaying hreplay, bne_self_eq_false, Option.isNone_some, Bool.or_self,
    Bool.false_eq_true, if_false]
  rfl

/-- Admission: the context stands in a slot or parked, is recorded, and the source is told (R289, R421). -/
theorem execHopArrival_admitted {core num : Nat} {slot : Option Nat} (hcore : u.hopCore t h.ibx.toNat = core)
    (hplace : u.hopPlace core np = some (slot, num)) : execHopArrival n s
      = .next (((u.addCtx core num slot (u.hopCtx core c)).logEv t (.hopIn (ctxKey core num)) 16).hopAnswer p c true) := by
  rw [execHopArrival, arrived_of ha (by simp only [hb])]
  simp only [hb, hc, ht, hw, hcrew, hcore, hplace, State.loggedHop_of_not_replaying hreplay, bne_self_eq_false, Option.isNone_some, Bool.or_self,
    Bool.false_eq_true, if_false]
  rfl

end

end

end

end

/-- The part of a table below a key. -/
theorem Tbl.get_below {α : Type} (d : α) (t : Tbl α) (n i : Nat) :
    Tbl.get d (t.filter fun e => decide (e.1 < n)) i = if i < n then Tbl.get d t i else d := by
  rw [Tbl.get_filter_key d (fun i => decide (i < n))]
  simp only [decide_eq_true_eq]

/-- What a light context carries: its low registers, and none of the others (R288). -/
theorem State.hopCtx_carries (s : State) (core : Nat) (c : Ctx) :
    (∀ i, i < 16 → Tbl.get 0 (s.hopCtx core c).x i = Tbl.get 0 c.x i) ∧ (∀ i, 16 ≤ i → Tbl.get 0 (s.hopCtx core c).x i = 0)
    ∧ (∀ i, i < 8 → Tbl.get 0 (s.hopCtx core c).v i = Tbl.get 0 c.v i) ∧ ∀ i, 8 ≤ i → Tbl.get 0 (s.hopCtx core c).v i = 0 := by
  have xs : (s.hopCtx core c).x = c.x.filter (fun e => decide (e.1 < 16)) := rfl
  have vs : (s.hopCtx core c).v = c.v.filter (fun e => decide (e.1 < 8)) := rfl
  simp only [xs, vs]
  exact ⟨fun i hi => (Tbl.get_below ..).trans (if_pos hi), fun i hi => (Tbl.get_below ..).trans (if_neg (Nat.not_lt.mpr hi)),
    fun i hi => (Tbl.get_below ..).trans (if_pos hi), fun i hi => (Tbl.get_below ..).trans (if_neg (Nat.not_lt.mpr hi))⟩

/-! The answer at the source (R289). -/

/-- A waiting context that fails goes on at its group with the fault (R40, R289). -/
theorem State.failWait_ctx (s : State) (k : Nat) (cause : BitVec 8) (eaddr : Word) :
    ((s.failWait k cause eaddr).ctx k).wait = .none ∧ ((s.failWait k cause eaddr).ctx k).pend = some (cause, eaddr, false)
    ∧ ((s.failWait k cause eaddr).ctx k).s = (s.ctx k).s := by
  simp only [failWait, ctx_modCtx, ctx_modCore, Ctx.noAsk, and_self]

/-- The slot of a context given up (R289). -/
def State.leaveSlot (s : State) (k : Nat) : State :=
  match s.slotOf k with
  | some j => s.clearSlot (coreOfCtx k) j
  | none => s

section
variable {s u : State} {n : Nat} {p : Pkt} {c : Ctx} {ok : Bool} {tgt sel : Nat} {np : Bool} (ha : s.Arrives n p u)
  (hb : p.body = .hopAck ok c) (hwait : (u.ctx p.ctx).wait = .hop tgt sel np true) (hid : (u.ctx p.ctx).uid = c.uid)
include ha hb hwait hid

theorem execHopReply_refused (hok : ok = false) : execHopReply n s = .next (u.failWait p.ctx cHop 0) := by
  rw [execHopReply, arrived_of ha (by simp only [hb])]
  simp only [hb, hwait, hid, hok, bne_self_eq_false, Bool.false_eq_true, if_false, Bool.not_false, if_true]

/-- Admitted, a context of no crew is gone, and the next that waits gets its slot (R289). -/
theorem execHopReply_admitted (hok : ok = true) (hcrew : c.crew = none) : execHopReply n s
    = .next ((((u.landLate p.ctx).leaveSlot p.ctx).setCtx p.ctx {}).dealWaiting (coreOfCtx p.ctx)) := by
  rw [execHopReply, arrived_of ha (by simp only [hb])]
  simp only [hb, hwait, hid, hok, hcrew, bne_self_eq_false, Bool.false_eq_true, if_false, Bool.not_true]
  rfl

end

/-- Settles O50: an arrival by the tile, its crew and the place for the context, a reply by its answer. -/
theorem hopEvents : Obligations.HopEvents := by
  intro s n p u ha
  refine ⟨?_, ?_, fun core c => ⟨rfl, rfl, rfl, rfl, rfl, rfl, u.hopCtx_carries core c⟩, ?_⟩
  · intro h c np crc hb hc
    simp only [exec]
    exact execHopArrival_badCrc ha hb hc
  · intro h c np crc hb hc sel answer
    simp only [exec]
    refine ⟨execHopArrival_noTile ha hb hc, fun t w ht hw => ⟨execHopArrival_otherCrew ha hb hc ht hw, fun hcrew hreplay =>
      ⟨execHopArrival_refused ha hb hc ht hw hcrew hreplay, fun slot num hplace => ?_⟩⟩⟩
    exact execHopArrival_admitted ha hb hc ht hw hcrew hreplay rfl hplace
  · intro ok c tgt sel np hb hwait hid
    simp only [exec]
    refine ⟨fun hok => ⟨_, execHopReply_refused ha hb hwait hid hok, ?_⟩, execHopReply_admitted ha hb hwait hid⟩
    obtain ⟨hnone, hpend, hs⟩ := u.failWait_ctx p.ctx cHop 0
    exact ⟨hnone, hpend, hs, (u.failWait_mem ..).trans ha.mem⟩

end Sys2Proof.Machine
end

section
/-! PHASE and FENCE, BRK and TRAP (O26, O28): arrivals at a phase's close and waits, and what a trap changes (R295, R304, R309, R324,
R388, R389, R408). -/

namespace Sys2Proof.Machine

/-- Settles O26: PHASE by the crew of its thread, PHASE.t by the checks of its start vc and its queue, FENCE by what it waits for. -/
theorem phaseAndFence : Obligations.PhaseAndFence := by
  intro s g d imm sc hi
  simp only [exec]
  refine ⟨fun c hc => run_ok hi ?_, fun hc => run_trap hi ?_, fun v t hv ht => run_ok hi ?_, run_ok hi ?_⟩
  · simp only [hc]
  · simp only [hc]
    rfl
  · simp only [hv]
    exact ht
  · cases hids : s.fenceIds sc with
    | nil => simp only [if_true]
    | cons id rest => simp only [reduceCtorEq, if_false]

/-! What a trap changes (R389). -/

namespace State

variable (s : State) (k slot : Nat) (memb asyn : Bool) (flags : BitVec 5) (cause : BitVec 8) (e : Word)

/-- The fields of %ecause (R189). -/
theorem ecauseOf_fields : let w := s.ecauseOf k slot memb flags cause
    w.extractLsb' 0 8 = cause ∧ w.extractLsb' 8 5 = flags ∧ w.extractLsb' 13 2 = (s.ctx k).lvl ∧ w.getLsbD 15 = memb
      ∧ (w.extractLsb' 40 4).toNat = slot % 16 ∧ (w.extractLsb' 44 2).toNat = coreOfCtx k % 4
      ∧ (w.extractLsb' 48 16).toNat = tileOfCtx k % 2 ^ 16 := by
  have number (n w : Nat) : ((BitVec.ofNat w n).extractLsb' 0 w).toNat = n % 2 ^ w := by rw [extract_all, BitVec.toNat_ofNat]
  simp only [ecauseOf]
  refine ⟨extract_append_low .., ?_, ?_, ?_, ?_, ?_, ?_⟩
  · simp (disch := decide) only [extract_append_above, Nat.reduceSub, extract_append_low]
  · simp (disch := decide) only [extract_append_above, Nat.reduceSub, extract_append_low]
  · simp (disch := decide) only [bit_append_above, Nat.reduceSub, low_append]
  · simp (disch := decide) only [extract_append_above, Nat.reduceSub, extract_append_low, BitVec.toNat_ofNat, Nat.reducePow]
  · simp (disch := decide) only [extract_append_above, Nat.reduceSub, extract_append_low, BitVec.toNat_ofNat, Nat.reducePow,
      Nat.mod_mod]
  · simp (disch := decide) only [extract_append_above, Nat.reduceSub, number]

/-- Whether a trap names an address: at every cause but those to which R388 gives none, and there when it is not 0. -/
theorem namesAddress (α : Type) (x y : α) :
    (if (e != 0 || !(cause == cIllegal || cause == cReserved || cause == cLine || cause == cPrivilege || cause == cFp)) = true
      then x else y) = if e = 0 ∧ cause ∈ [0x01, 0x02, 0x03, 0x05, 0x11] then y else x := by
  simp only [cIllegal, cReserved, cLine, cPrivilege, cFp, Bool.or_eq_true, bne_iff_ne, Bool.not_eq_true', Bool.or_eq_false_iff,
    beq_eq_false_iff_ne, List.mem_cons, List.not_mem_nil, or_false]
  split <;> split <;> first | rfl | (exfalso; tauto)

/-- A context as a trap leaves it (R389). -/
def trapped (c : Ctx) : Ctx :=
  { c with frz := true, wait := .none, eaddr := if e = 0 ∧ cause ∈ [0x01, 0x02, 0x03, 0x05, 0x11] then c.eaddr else e }

/-- A trap that no logged return answers freezes its context and sends its record (R389). -/
theorem takeTrap_unlogged (h : s.retLogged k = false) : s.takeTrap k slot memb asyn flags cause e
    = (s.modCtx k (trapped cause e)).send (tileOfCtx k) (tileOfCore (s.trapTarget k)) 2 k (streamOf 1 (coreOfCtx k))
        (.trap (s.trapTarget k) { ctx := k, asyn, ecause := s.ecauseOf k slot memb flags cause, eaddr := e,
                                  holder := if cause == cBank then s.cur.holder else none }) := by
  simp only [takeTrap, h, namesAddress, Bool.false_eq_true, if_false]
  rfl

/-- The record of a trap of the thread in issue (R388, R389). -/
def raisedRecord : TrapRec :=
  { ctx := s.myCtx, asyn := s.cur.asyn, ecause := s.ecauseOf s.myCtx s.cur.slot s.cur.memb (if cause == cFp then s.cur.flags else 0) cause,
    eaddr := e, holder := if cause == cBank then s.cur.holder else none }

/-- A group that traps, no logged return answering: what it was answered is dropped, its thread freezes, its record leaves (R389). -/
theorem raise_unlogged (h : s.retLogged s.myCtx = false) : s.raise cause e
    = { ((s.modMe Ctx.noAsk).modMe (trapped cause e)).send (tileOfCtx s.myCtx) (tileOfCore (s.trapTarget s.myCtx)) 2 s.myCtx
          (streamOf 1 (coreOfCtx s.myCtx)) (.trap (s.trapTarget s.myCtx) (s.raisedRecord cause e)) with
        cur := { s.cur with res := .trapped, cause, eaddr := e } } := by
  have own : (s.modMe Ctx.noAsk).ctx s.myCtx = s.me.noAsk := me_modMe ..
  have target : (s.modMe Ctx.noAsk).trapTarget s.myCtx = s.trapTarget s.myCtx := by
    simp only [trapTarget, own]
    rfl
  have ecause (f : BitVec 5) : (s.modMe Ctx.noAsk).ecauseOf s.myCtx s.cur.slot s.cur.memb f cause
      = s.ecauseOf s.myCtx s.cur.slot s.cur.memb f cause := by
    simp only [ecauseOf, own]
    rfl
  have my : (s.modMe Ctx.noAsk).myCtx = s.myCtx := rfl
  have cur : (s.modMe Ctx.noAsk).cur = s.cur := rfl
  simp only [raise, my, cur]
  rw [takeTrap_unlogged _ _ _ _ _ _ _ _ (show (s.modMe Ctx.noAsk).retLogged s.myCtx = false from h), target, ecause]
  rfl

/-- What a trap leaves of its thread, and where its record goes (R389). -/
theorem raise_sends (h : s.retLogged s.myCtx = false) : ∃ p, (s.raise cause e).net = s.net ++ [p]
    ∧ p.body = .trap (s.trapTarget s.myCtx) (s.raisedRecord cause e) ∧ p.src = tileOfCtx s.myCtx := by
  rw [s.raise_unlogged cause e h]
  exact ⟨_, rfl, rfl, rfl⟩

/-- What a trap never touches: everything but contexts, packets and the group in issue (R389). -/
theorem takeTrap_keeps : let t := s.takeTrap k slot memb asyn flags cause e
    t.cores = s.cores ∧ t.tiles = s.tiles ∧ t.sites = s.sites ∧ t.crews = s.crews ∧ t.parts = s.parts ∧ t.gws = s.gws
      ∧ t.homes = s.homes ∧ t.vsets = s.vsets ∧ t.fields = s.fields ∧ t.hosts = s.hosts ∧ t.sys = s.sys ∧ t.rebind = s.rebind := by
  simp only [takeTrap]
  split <;> exact ⟨rfl, rfl, rfl, rfl, rfl, rfl, rfl, rfl, rfl, rfl, rfl, rfl⟩

theorem raise_me (h : s.retLogged s.myCtx = false) : (s.raise cause e).me = trapped cause e s.me.noAsk := by
  rw [s.raise_unlogged cause e h]
  exact (me_modMe ..).trans (congrArg (trapped cause e) (me_modMe ..))

end State

/-- Settles O28: BRK and TRAP raise their causes, and what `raise` changes. -/
theorem softwareTraps : Obligations.SoftwareTraps := by
  intro s g x hi
  simp only [exec]
  refine ⟨run_trap hi rfl, run_trap hi rfl, fun cause e hlog => ?_⟩
  obtain ⟨low, flags, fields⟩ := s.ecauseOf_fields s.myCtx s.cur.slot s.cur.memb (if cause == cFp then s.cur.flags else 0) cause
  obtain ⟨p, hnet, hbody, hsrc⟩ := s.raise_sends cause e hlog
  refine ⟨s.raise_me cause e hlog, (raise_frame (ds := []) cause e).others, ⟨_, p, hnet, hbody, hsrc, rfl, rfl, rfl, rfl, low,
    flags.trans (by simp only [cFp, beq_iff_eq]), fields⟩, s.raise_mem .., State.takeTrap_keeps ..⟩

end Sys2Proof.Machine
end

section
/-! TWIN and the returns from a trap, swapped contexts and stopped crews (O38, O39; R395, R400, R407-R410). -/

namespace Sys2Proof.Machine

section
variable {s : State} {g : Guard}

theorem runPriv_sleep {f : State → Act} {n : Nat} {w : Wait} (h : s.IssuesAt g n) (hf : f s = .error (.sleep w)) :
    runPriv n g s f = .next ((s.modMe (fun c => { c with wait := w })).setRes .asleep) := by
  obtain ⟨hi, hlevel⟩ := h
  simp [runPriv, hi.1, Nat.not_lt.mpr hlevel, run_sleep hi hf]

/-! TWIN (R407). -/

/-- The claim of a record by TWIN (R407). -/
theorem twin_claims {nw : Bool} {d : BitVec 6} {r : TrapRec} (hfree : s.me.rcv = false)
    (hr : s.here.trapq.find? (fun r => !r.claimed) = some r) : twin nw d s
      = .ok (((s.modCore s.myCore (fun c => { c with
            trapq := c.trapq.map (fun q => if q.entry == r.entry then { q with claimed := true } else q) })).modMe
            (fun c => { c with rcv := true, ridx := r.entry })).writeX d (slotWindow (coreOfCtx r.ctx) (r.ecause.extractLsb' 40 4).toNat) 2) := by
  simp only [twin, hfree, hr, Bool.not_false, check_true]
  rfl

theorem twin_empty {nw : Bool} {d : BitVec 6} (hfree : s.me.rcv = false) (hr : s.here.trapq.find? (fun r => !r.claimed) = none) :
    twin nw d s = if nw then .ok (s.writeX d 0 2) else .error (.sleep .twin) := by
  simp only [twin, hfree, hr, Bool.not_false, check_true]
  rfl

/-! Returns (R395, R408). -/

/-- A return acts on the record that its thread claims, when the segments of the trapped context are well formed. -/
theorem returnCheck_ok {r : TrapRec} (hr : s.claimed s.myCtx = some r)
    (hwf : ∀ i, i < 8 → (Tbl.get {} (s.ctx r.ctx).sg i).wf = true) : s.returnCheck = .ok r := by
  have hall : (List.range 8).all (fun i => (Tbl.get {} (s.ctx r.ctx).sg i).wf) = true := by
    rw [List.all_eq_true]
    exact fun i hi => hwf i (List.mem_range.mp hi)
  simp only [State.returnCheck, hr, hall, check_true]
  rfl

/-- The claim is given up: RCV is 0 and the record is gone (R408). -/
theorem endClaim_me (s : State) : s.endClaim.me.rcv = false := by
  rw [State.endClaim, State.me_modMe]

theorem endClaim_trapq (s : State) : ∀ q ∈ s.endClaim.here.trapq, ¬(q.claimed = true ∧ q.entry = s.me.ridx) := by
  intro q hq
  have hcore : s.endClaim.here = { s.here with trapq := s.here.trapq.filter (fun r => !(r.claimed && r.entry == s.me.ridx)) } :=
    State.core_setCore ..
  rw [hcore] at hq
  exact fun ⟨hclaimed, hentry⟩ => by simp [hclaimed, hentry] at hq

end

/-- Settles O38: TWIN by the records that no context has claimed, each return by its claim, and what both change. -/
theorem trapHandling : Obligations.TrapHandling := by
  intro s g d a hi
  simp only [exec]
  refine ⟨fun hfree r hr => ⟨_, runPriv_ok hi (twin_claims hfree hr), runPriv_ok hi (twin_claims hfree hr), rfl⟩,
    fun hfree hr => ⟨runPriv_ok hi (twin_empty hfree hr), runPriv_sleep hi (twin_empty hfree hr)⟩, fun r hr hwf => ?_⟩
  have hcheck := returnCheck_ok hr hwf
  refine ⟨runPriv_ok hi ?_, runPriv_ok hi ?_, fun l hcode hline => runPriv_ok hi ?_, endClaim_me s, endClaim_trapq s, rfl,
    fun k h => ⟨?_, ?_, fun j hj => State.ctx_setCtx_ne _ _ _ _ hj, rfl⟩⟩
  · simp only [hcheck]
    rfl
  · simp only [hcheck]
    rfl
  · simp only [hcheck, Bind.bind, Except.bind, hcode, hline]
  · rw [State.returnTo, State.ctx_modCtx]
  · rw [State.returnTo, State.ctx_modCtx]

/-! Swaps and stops (R400, R409, R410). -/

section
variable {s : State} {g : Guard}

theorem swpo_of {far : Bool} {d a b : BitVec 6} {core slot : Nat} (harg : s.swapArg (s.readX a) false = .ok (core, slot)) :
    swpo far d a b s = match s.swapOut s.myCtx core slot (if far then some (s.readX b).toNat else none) with
      | some (v, u) => .ok (u.writeX d v 2)
      | none => .ok (s.await (.swap d core slot (if far then some (s.readX b).toNat else none))) := by
  simp only [swpo, harg]
  rfl

theorem swpi_of {far q : Bool} {d a b : BitVec 6} {core slot : Nat} (harg : s.swapArg (s.readX a) q = .ok (core, slot)) :
    swpi far q d a b s = .ok ((if far then s.swapInFar core slot (s.readX b).toNat q else s.swapIn core slot (s.readX b).toNat q).2.writeX d
      (if far then s.swapInFar core slot (s.readX b).toNat q else s.swapIn core slot (s.readX b).toNat q).1 2) := by
  simp only [swpi, harg]
  rfl

/-- The operand of STOP names a partition and a task, or with STOP.part a partition alone (R410). -/
theorem stopArg_ok {x : Word} {part : Bool} (hx : x.extractLsb' 36 28 = 0) (hpart : part = true → (x.extractLsb' 0 32).toNat = 0) :
    State.stopArg x part = .ok ((x.extractLsb' 32 4).toNat, (x.extractLsb' 0 32).toNat) := by
  have hok : (x.extractLsb' 36 28 == 0 && (!part || x.extractLsb' 0 32 == 0)) = true := by
    cases part with
    | false => simp only [hx, Bool.not_false, Bool.true_or, beq_self_eq_true, Bool.and_self]
    | true => simp only [hx, BitVec.eq_of_toNat_eq (y := (0 : BitVec 32)) (hpart rfl), beq_self_eq_true, Bool.or_true, Bool.and_self]
  simp only [State.stopArg, hok, check_true]
  rfl

/-- The words of a stop record (R400). -/
theorem stopWord_toNat (c : Core) (w : BitVec 2) : stopWord c w.toNat = if w = 0 then c.stop0 else if w = 1 then c.stop1 else c.stop2 := by
  have is (n : BitVec 2) : w.toNat = n.toNat ↔ w = n := BitVec.toNat_inj
  have zero : w.toNat = 0 ↔ w = 0 := is 0
  have one : w.toNat = 1 ↔ w = 1 := is 1
  simp only [stopWord, zero, one]

end

/-- Settles O39: each instruction by the check of its operand, then by what the swap or the stop answers. -/
theorem stewardInstructions : Obligations.StewardInstructions := by
  intro s g q d a b w hi
  simp only [exec]
  refine ⟨fun core slot harg => ⟨fun v u hu => runPriv_ok hi ?_, fun hn => runPriv_ok hi ?_, fun v u hu => runPriv_ok hi ?_,
    runPriv_ok hi (swpi_of harg)⟩, fun core slot harg => runPriv_ok hi (swpi_of harg), fun core slot harg => runPriv_ok hi (swpi_of harg),
    fun hzero => ⟨runPriv_ok hi ?_, fun htask => runPriv_ok hi ?_, runPriv_ok hi ?_⟩, fun hspace hok hkind hoff => runPriv_ok hi ?_⟩
  · rw [swpo_of harg]
    simp only [Bool.false_eq_true, if_false, hu]
  · rw [swpo_of harg]
    simp only [Bool.false_eq_true, if_false, hn]
  · rw [swpo_of harg]
    simp only [if_true, hu]
  · simp only [stopArg_ok (part := false) hzero nofun]
    rfl
  · simp only [stopArg_ok hzero fun _ => htask]
    rfl
  · simp only [stopArg_ok (part := false) hzero nofun, Bind.bind, Except.bind, List.isEmpty_iff, apply_ite Except.ok]
  · simp only [beq_iff_eq]
    generalize (if spaceOf (s.readX a) = 0 then s.readX a ||| (4#4 ++ 0#60) else s.readX a) = ad at hspace hok hkind hoff ⊢
    simp only [hspace, hok, hkind, hoff, beq_self_eq_true, Bool.and_self, check_true, stopWord_toNat]
    rfl

end Sys2Proof.Machine
end

section
/-! The contexts of a core (O34): SPAWN, REAP, SLEEP, WAKE and YIELD (R333, R335, R339, R359-R362). -/

namespace Sys2Proof.Machine

section
variable {s : State} {g : Guard} {d a b : BitVec 6}

/-- What slot 0 checks of the slot that SPAWN or REAP names (R333, R359, R360). -/
theorem slotZero_ok (h : s.cur.slot = 0) : slotZero s = .ok () := by simp only [slotZero, h, beq_self_eq_true, check_true]

theorem childSlot_iff {x : Word} : childSlot x = true ↔ 1 ≤ x.toNat ∧ x.toNat ≤ 15 := by
  simp only [childSlot, Bool.and_eq_true, decide_eq_true_eq]

theorem reapSlot_ok (hslot : s.cur.slot = 0) (low : 1 ≤ (s.readX a).toNat) (high : (s.readX a).toNat ≤ 15) :
    reapSlot a s = .ok (s.readX a).toNat := by
  simp only [reapSlot, slotZero_ok hslot, childSlot_iff.mpr ⟨low, high⟩, check_true]
  rfl

/-- SPAWN by the slot it names and the context numbers left (R359). -/
theorem execSpawn_slots (hi : s.Issues g) (hslot : s.cur.slot = 0) {imm : BitVec 32} (low : 1 ≤ (s.readX a).toNat)
    (high : (s.readX a).toNat ≤ 15) (ht : s.targetCheck (s.slotAddr + imm.signExtend 64) = .ok ()) : execSpawn g d a b imm s
      = .next (if s.slotEmpty s.myCore (s.readX a).toNat = false then s.writeX d 1 2
        else match s.freeNum s.myCore with
          | none => s.writeX d 2 2
          | some k => (s.addCtx s.myCore k (some (s.readX a).toNat)
              (s.childCtx s.myCore s.view (s.slotAddr + imm.signExtend 64) [s.readX b])).writeX d 0 2) := by
  refine run_ok hi ?_
  simp only [slotZero_ok hslot, childSlot_iff.mpr ⟨low, high⟩, check_true, ht, Bind.bind, Except.bind]
  cases s.slotEmpty s.myCore (s.readX a).toNat with
  | false => rfl
  | true => cases s.freeNum s.myCore <;> rfl

/-- REAP of a slot in any of its forms, by the context in it (R360). -/
theorem reap_slots (hi : s.Issues g) (hslot : s.cur.slot = 0) (p : BitVec 3) (low : 1 ≤ (s.readX a).toNat)
    (high : (s.readX a).toNat ≤ 15) : let n := (s.readX a).toNat
    (s.inSlot s.myCore n = none → let u := if s.here.exitp.getLsbD n then s.takeExit s.myCtx s.myCore n d p else s.writeP p false
      execReap g d a p s = .next u ∧ execReapNb g d a p s = .next u ∧ execReapKill g d a p s = .next u)
    ∧ ∀ k, s.inSlot s.myCore n = some k →
      execReap g d a p s = .next (s.await (.reap n d p)) ∧ execReapNb g d a p s = .next (s.writeP p false)
      ∧ execReapKill g d a p s = .next (if atBoundary (s.ctx k) = true
          then (s.retire k 0xFFFFFFFFFFFFFFFF).takeExit s.myCtx s.myCore n d p
          else (s.modCtx k (fun c => { c with killed := true })).await (.reap n d p)) := by
  have hn := reapSlot_ok hslot low high
  refine ⟨fun hnone => ⟨run_ok hi ?_, run_ok hi ?_, run_ok hi ?_⟩, fun k hk => ⟨run_ok hi ?_, run_ok hi ?_, run_ok hi ?_⟩⟩
  · simp only [hn, Bind.bind, Except.bind, hnone, Option.isSome_none, Bool.false_eq_true, if_false, reapEmpty]
  · simp only [hn, Bind.bind, Except.bind, hnone, Option.isSome_none, Bool.false_eq_true, if_false, reapEmpty]
  · simp only [hn, Bind.bind, Except.bind, hnone, reapEmpty]
  · simp only [hn, Bind.bind, Except.bind, hk, Option.isSome_some, if_true]
  · simp only [hn, Bind.bind, Except.bind, hk, Option.isSome_some, if_true]
  · simp only [hn, Bind.bind, Except.bind, hk, killedExit, apply_ite Except.ok]

/-- SLEEP takes a ready bit or a deadline that has passed, else it waits (R362). -/
theorem execSleep_waits (hi : s.Issues g) : execSleep g d a s = .next (
    if s.me.rdy then (s.modMe (fun c => { c with rdy := false })).writeX d 1 2
    else if s.readX a ≠ 0 ∧ (s.readX a).toNat ≤ s.myVcc then s.writeX d 0 2 else s.await (.sleep d (s.readX a))) := by
  refine run_ok hi ?_
  simp only [Bool.and_eq_true, bne_iff_ne, decide_eq_true_eq, apply_ite Except.ok]

theorem execWake_slot (hi : s.Issues g) (hx : (s.readX a).toNat < 16) : execWake g a s
    = .next (match s.inSlot s.myCore (s.readX a).toNat with | some k => s.wakeBit k | none => s) := by
  refine run_ok hi ?_
  simp only [hx, decide_true, check_true, Bind.bind, Except.bind]
  cases s.inSlot s.myCore (s.readX a).toNat <;> rfl

/-- YIELD gives way to the waiting context of highest class (R337, R361). -/
theorem execYield_first (hi : s.Issues g) (h : s.view.crew = none ∨ s.replaying s.cur.tile = false) : execYield g s
    = .next (match s.nextWaiting s.myCore (fun _ => true) with
      | some w => if s.classOf s.myCtx ≤ s.classOf w
          then (s.decideSwap s.myCore s.cur.slot (some w) .yield).modMe (fun c => { c with since := c.since - 4096 }) else s
      | none => s) := by
  refine run_ok hi ?_
  have free : ¬(s.view.crew.isSome && s.replaying s.cur.tile) = true := by
    rcases h with h | h <;> simp [h]
  rw [if_neg free]
  cases s.nextWaiting s.myCore (fun _ => true) <;> rfl

/-- A YIELD of a replay follows its record (R339). -/
theorem execYield_logged (hi : s.Issues g) (hcrew : s.view.crew ≠ none) (h : s.replaying s.cur.tile = true) : execYield g s
    = .next (match s.swapRecord s.myCore (fun j how => j == s.cur.slot && how == .yield) with
      | some (vc, _, inn, _) => if vc = s.myVcc ∧ inn.all s.mayEnter = true
          then (s.takeSwap s.myCore s.cur.slot inn .yield).modMe (fun c => { c with since := c.since - 4096 }) else s
      | none => s) := by
  refine run_ok hi ?_
  have logged : (s.view.crew.isSome && s.replaying s.cur.tile) = true := by
    rw [h, Bool.and_true, Option.isSome_iff_ne_none]
    exact hcrew
  rw [if_pos logged]
  cases s.swapRecord s.myCore (fun j how => j == s.cur.slot && how == .yield) with
  | none => rfl
  | some r => simp only [Bool.and_eq_true, beq_iff_eq]

end

/-- A ready bit that nobody waits for is set (R335). -/
theorem State.wakeBit_awake {s : State} {k : Nat} (hused : (s.ctx k).used = true) (hwait : (s.ctx k).wait = .none) :
    s.wakeBit k = s.modCtx k (fun c => { c with rdy := true }) := by
  delta wakeBit
  dsimp only
  rw [hused, hwait]
  rfl

/-- Settles O34: SPAWN and REAP by the slot they name, SLEEP, WAKE and YIELD by who waits. -/
theorem contextsOfACore : Obligations.ContextsOfACore := by
  refine ⟨?_, ?_, ?_⟩
  · intro s g d a b imm hi hslot n t low high ht
    simp only [exec]
    exact execSpawn_slots hi hslot low high ht
  · intro s g d a p hi hslot n low high
    simp only [exec]
    exact reap_slots hi hslot p low high
  · intro s g d a hi x
    simp only [exec]
    exact ⟨execSleep_waits hi, execWake_slot hi, run_ok hi rfl, ⟨execYield_first hi, execYield_logged hi⟩,
      fun k => State.wakeBit_awake⟩

end Sys2Proof.Machine
end

section
/-! Knots (O35): the updates that the knot instructions send, and what each does to its cell (R353, R354, R358, R363-R365). -/

namespace Sys2Proof.Machine

/-! The cell (R353, R354). -/

theorem leNat_lt (bs : List Byte) : leNat bs < 2 ^ (8 * bs.length) := by
  induction bs with
  | nil => decide
  | cons b rest ih =>
    have hb : b.toNat < 256 := b.isLt
    have hpow : 2 ^ (8 * (rest.length + 1)) = 2 ^ (8 * rest.length) * 256 := by rw [Nat.mul_add, Nat.pow_add]
    simp only [leNat, List.foldr_cons, List.length_cons] at ih ⊢
    rw [hpow]
    omega

namespace Knot

variable (k : Knot)

/-- The low word of a cell has 64 bits, so the code of an answer stands above it. -/
theorem low_lt : k.low < 2 ^ 64 := by
  refine Nat.lt_of_lt_of_le (leNat_lt _) (Nat.pow_le_pow_right (by decide) ?_)
  rw [List.length_take]
  omega

theorem answer_code (c : Nat) : (k.low + c * 2 ^ 64) / 2 ^ 64 = c := by
  have := k.low_lt
  omega

theorem not_done (h : 0 < k.count.toInt) : k.done = false := decide_eq_false (by omega)

theorem done_of (h : k.count.toInt ≤ 0) : k.done = true := decide_eq_true h

/-- A settled cell keeps its count; it fires where the count has fallen to 0 or below (R354). -/
theorem settle_fires {before : BitVec 32} (h : 0 < before.toInt ∧ k.count.toInt ≤ 0) : k.settle before = k.fire := if_pos h

theorem settle_stays {before : BitVec 32} (h : ¬(0 < before.toInt ∧ k.count.toInt ≤ 0)) : k.settle before = { cell := k } := if_neg h

/-- Firing empties HOLD and the waiters and keeps the rest of a cell (R354). -/
theorem settle_keeps (before : BitVec 32) : (k.settle before).cell.count = k.count ∧ (k.settle before).cell.stat = k.stat
    ∧ (k.settle before).cell.ndone = k.ndone ∧ (k.settle before).cell.nfault = k.nfault := by
  rw [settle]
  split <;> exact ⟨rfl, rfl, rfl, rfl⟩

theorem apply_rd : (k.apply .rd).cell = k ∧ (k.apply .rd).answer = k.low := ⟨rfl, by simp only [apply, Nat.zero_mul, Nat.add_zero]⟩

/-- KNOT.set clears the counts and the status, and fires where the new count is 0 or below (R365). -/
theorem apply_set (v : BitVec 32) : let o := k.apply (.set v)
    o.cell.count = v ∧ o.cell.stat = 0 ∧ o.cell.ndone = 0 ∧ o.cell.nfault = 0
      ∧ (v.toInt ≤ 0 → o.cell.hold = 0 ∧ o.cell.nw = 0 ∧ o.post = (if k.hold = 0 then [] else [(k.hold, true)])
          ∧ o.wake = (if 0 < k.nw then [waitCtx k.w0] else []) ++ (if 1 < k.nw then [waitCtx k.w1] else []))
      ∧ (0 < v.toInt → o.cell.hold = k.hold ∧ o.cell.nw = k.nw ∧ o.post = [] ∧ o.wake = []) := by
  simp only [apply]
  split
  · next h =>
    have hv : v.toInt ≤ 0 := of_decide_eq_true h
    exact ⟨rfl, rfl, rfl, rfl, fun _ => ⟨rfl, rfl, rfl, rfl⟩, fun h => absurd hv (by omega)⟩
  · next h =>
    have hv : ¬v.toInt ≤ 0 := of_decide_eq_false (Bool.eq_false_iff.mpr h)
    exact ⟨rfl, rfl, rfl, rfl, fun h => absurd h hv, fun _ => ⟨rfl, rfl, rfl, rfl⟩⟩

/-- KNOT.add, which fires on a fall to 0 or below (R354). -/
theorem apply_add (v : BitVec 32) : let o := k.apply (.add v)
    o.cell.count = k.count + v
      ∧ (0 < k.count.toInt ∧ (k.count + v).toInt ≤ 0 → o.cell.hold = 0 ∧ o.post = (if k.hold = 0 then [] else [(k.hold, true)]))
      ∧ (¬(0 < k.count.toInt ∧ (k.count + v).toInt ≤ 0) → o.cell = { k with count := k.count + v } ∧ o.post = [] ∧ o.wake = []) := by
  simp only [apply]
  refine ⟨(settle_keeps _ _).1, fun h => ?_, fun h => ?_⟩
  · rw [settle_fires { k with count := k.count + v } h]
    exact ⟨rfl, rfl⟩
  · rw [settle_stays { k with count := k.count + v } h]
    exact ⟨rfl, rfl, rfl⟩

/-- The completion of a task: one fewer to wait for, its status gathered (R354). -/
theorem apply_done (status : BitVec 8) : let o := k.apply (.done status)
    o.cell.count = k.count - 1 ∧ o.cell.ndone = k.ndone + 1 ∧ o.cell.nfault = (if status = 0 then k.nfault else k.nfault + 1)
      ∧ o.cell.stat.toNat = max k.stat.toNat status.toNat := by
  simp only [apply]
  obtain ⟨hcount, hstat, hndone, hnfault⟩ := settle_keeps { k with
    count := k.count - 1, stat := if k.stat.toNat < status.toNat then status else k.stat, ndone := k.ndone + 1,
    nfault := if status = 0 then k.nfault else k.nfault + 1 } k.count
  refine ⟨hcount, hndone, hnfault, ?_⟩
  rw [hstat]
  dsimp only
  split <;> omega

/-- KNOT.hold keeps a block for a cell that has still to fire, and posts one at a cell that has fired (R365). -/
theorem apply_hold (b : Word) : (0 < k.count.toInt → (k.apply (.hold b)).cell = { k with hold := b }
      ∧ (k.apply (.hold b)).link = some (b, k.hold) ∧ (k.apply (.hold b)).post = [])
    ∧ (k.count.toInt ≤ 0 → (b, false) ∈ (k.apply (.hold b)).post) := by
  refine ⟨fun h => ?_, fun h => ?_⟩
  · simp only [apply, k.not_done h, Bool.false_eq_true, if_false, and_self]
  · simp only [apply, k.done_of h, if_true]
    exact List.mem_cons_self

/-- JOIN takes one from a count above 0 and says whether it was the last (R364). -/
theorem apply_join : (k.count.toInt ≤ 0 → (k.apply .join).cell = k ∧ (k.apply .join).answer / 2 ^ 64 = 2)
    ∧ (0 < k.count.toInt → (k.apply .join).cell.count = k.count - 1
      ∧ (k.apply .join).answer / 2 ^ 64 = if k.count = 1 then 1 else 0) := by
  refine ⟨fun h => ?_, fun h => ?_⟩
  · simp only [apply, k.done_of h, if_true, true_and]
    exact k.answer_code 2
  · have hcount := (settle_keeps { k with count := k.count - 1 } k.count).1
    simp only [apply, k.not_done h, Bool.false_eq_true, if_false, answer_code, hcount, true_and, sub_eq_zero]

end Knot

/-! The instructions (R358, R363-R365). -/

section
variable {s : State} {g : Guard} {p : Place}

theorem askKnot_asks {op : KnotOp} {w : Wait} (h : s.me.asked = none) :
    s.askKnot p op w = .ok (((s.sendKnot s.myCtx p op).waitKnot s.myCtx w).setRes .waiting) := by
  simp only [State.askKnot, h]

theorem knotSend_ok {m : MemOp} {op : KnotOp} (hp : s.knotEA m = .ok p) : knotSend m op s = .ok (s.sendKnot s.myCtx p op) := by
  simp only [knotSend, hp]
  rfl

/-- KNOT.hold checks the block that it names (R365). -/
theorem execKnotHold_sends (hi : s.Issues g) {b : BitVec 6} {m : MemOp} (hp : s.knotEA m = .ok p) (halign : (s.readX b).toNat % 256 = 0)
    (hspace : spaceOf (s.readX b) = 1 ∨ spaceOf (s.readX b) = 2) :
    execKnotHold g b m s = .next (s.sendKnot s.myCtx p (.hold (s.readX b))) := by
  refine run_ok hi ?_
  have hok : ((s.readX b).toNat % 256 == 0 && (spaceOf (s.readX b) == 1 || spaceOf (s.readX b) == 2)) = true := by
    simpa only [Bool.and_eq_true, beq_iff_eq, Bool.or_eq_true] using ⟨halign, hspace⟩
  simp only [hp, hok, check_true]
  rfl

/-- KNOT.rd asks the cell (R365). -/
theorem execKnotRd_asks (hi : s.Issues g) {d : BitVec 6} {m : MemOp} (hp : s.knotEA m = .ok p) (h : s.me.asked = none) :
    execKnotRd g d m s = .next (((s.sendKnot s.myCtx p .rd).waitKnot s.myCtx (.knotRd d)).setRes .waiting) := by
  refine run_ok hi ?_
  simp only [hp, Bind.bind, Except.bind, askKnot_asks h]

/-- KNOT.wait clears the ready bit and asks the cell (R365). -/
theorem execKnotWait_asks (hi : s.Issues g) {d : BitVec 6} {m : MemOp} (hp : s.knotEA m = .ok p) (h : s.me.asked = none)
    {u : State} (hu : s.modMe (fun c => { c with rdy := false }) = u) : execKnotWait g d m s
      = .next (((u.sendKnot s.myCtx p (.wait s.cur.num s.myCore)).waitKnot s.myCtx (.knotAsk d)).setRes .waiting) := by
  refine run_ok hi ?_
  subst hu
  have hasked : (s.modMe (fun c => { c with rdy := false })).me.asked = none := by rw [State.me_modMe]; exact h
  simp only [hp, h, Bind.bind, Except.bind, Option.isSome_none, Bool.false_eq_true, if_false, askKnot_asks hasked]
  rfl

/-- RFORK probes its knot first (R363). -/
theorem execRfork_asks (hi : s.Issues g) {d a b : BitVec 6} {c : BitVec 3} {imm : BitVec 32} (hp : s.knotEA ⟨c, a, 0⟩ = .ok p)
    (ht : s.targetCheck (s.slotAddr + imm.signExtend 64) = .ok ()) (h : s.me.asked = none) (hslot : s.cur.slot = 0)
    (hcrew : s.view.crew ≠ none) : execRfork g d a b c imm s = .next (((s.sendKnot s.myCtx p .probe).waitKnot s.myCtx
      (.rfork d (s.readX b) p (s.slotAddr + imm.signExtend 64) (s.readX a) 0)).setRes .waiting) := by
  refine run_ok hi ?_
  simp only [slotZero_ok hslot, Option.isSome_iff_ne_none.mpr hcrew, check_true, knotOperand, hp, ht, Bind.bind, Except.bind, askKnot_asks h]

/-- JOIN waits for what is outstanding, then asks its knot (R364). -/
theorem execJoin_asks (hi : s.Issues g) {a : BitVec 6} {c : BitVec 3} {imm : BitVec 32} (hp : s.knotEA ⟨c, a, 0⟩ = .ok p)
    (ht : s.targetCheck (s.slotAddr + imm.signExtend 64) = .ok ()) (h : s.me.asked = none) : execJoin g a c imm s = .next
      (if s.drainIds s.myCtx = [] then ((s.sendKnot s.myCtx p .join).waitKnot s.myCtx (.join p (s.slotAddr + imm.signExtend 64) true)).setRes .waiting
        else s.await (.join p (s.slotAddr + imm.signExtend 64) false)) := by
  refine run_ok hi ?_
  simp only [knotOperand, hp, ht, h, Bind.bind, Except.bind, askKnot_asks h, Option.isSome_none, Bool.or_false, List.isEmpty_iff,
    apply_ite Except.ok]

end

/-- Settles O35: each instruction by the update it sends, each update by what it does to the cell. -/
theorem knots : Obligations.Knots := by
  refine ⟨?_, fun k v status r b => ?_⟩
  · intro s g d a b c imm m p hi asks t
    simp only [exec]
    refine ⟨fun hp => ⟨run_ok hi (knotSend_ok hp), run_ok hi (knotSend_ok hp), execKnotHold_sends hi hp, fun h =>
      ⟨execKnotRd_asks hi hp h, execKnotWait_asks hi hp h rfl⟩⟩, fun hp ht h => ⟨execRfork_asks hi hp ht h, execJoin_asks hi hp ht h⟩⟩
  · obtain ⟨holds, posts⟩ := k.apply_hold b
    obtain ⟨late, joins⟩ := k.apply_join
    obtain ⟨same, low⟩ := k.apply_rd
    exact ⟨same, low, k.apply_set v, k.apply_add v, k.apply_done status, holds, posts, rfl, late, joins⟩

end Sys2Proof.Machine
end

section
/-! LAUNCH and TASKEND (O36; R345, R347, R366, R367). -/

namespace Sys2Proof.Machine

section
variable {s u : State} {g : Guard} {d : BitVec 6} {m : MemOp} {ad : Word} {l : Loc} {bs : List Byte}

theorem execTaskend_drains (hi : s.Issues g) (a : BitVec 6) : execTaskend g a s
    = .next (if s.drainIds s.myCtx = [] then (s.retire s.myCtx (s.readX a)).setRes .waiting else s.await (.taskend (s.readX a))) := by
  refine run_ok hi ?_
  simp only [List.isEmpty_iff, apply_ite Except.ok]

section
variable (hcrew : s.view.crew ≠ none ∨ s.level ≠ 2) (hea : s.vaultEA m 256 [1, 2] 4 false = .ok (ad, l)) (hr : s.LoadReady ad l 256 bs u)
  (hb : blockPlaced (blockOf (u.overlay l (u.readLoc l 256))) = true)
include hcrew hea hr hb

/-- Once its block is read, LAUNCH goes by its record in a replay, and by the room in the queue (R367). -/
theorem launch_read (nb : Bool) : launch nb d m s = match u.launchRecord u.myCtx with
    | some (vc, v) =>
      if !nb && decide (u.myVcc < vc) then .ok (u.await (.launch d (u.overlay l (u.readLoc l 256))))
      else .ok (((u.countLaunch u.myCtx v).writeX d v 2).logEv u.cur.tile (.launch u.myCtx v) 16)
    | none =>
      if u.queueFull (u.partOf u.myCtx) then
        if nb then .ok ((u.writeX d (2 ^ 63) 2).logEv u.cur.tile (.launch u.myCtx (2 ^ 63)) 16)
        else .ok (u.await (.launch d (u.overlay l (u.readLoc l 256))))
      else .ok ((u.postLaunch u.myCtx (blockOf (u.overlay l (u.readLoc l 256)))).2.writeX d
        (u.postLaunch u.myCtx (blockOf (u.overlay l (u.readLoc l 256)))).1 2) := by
  have hlevel : (s.view.crew.isSome || s.level != 2) = true := by
    simpa [Option.isSome_iff_ne_none] using hcrew
  have hea' : s.vaultEA m 256 [kAlias, kVault] rR false = .ok (ad, l) := hea
  simp only [launch, hlevel, hea', State.loadBytes_ready hr, hb, check_true, Bind.bind, Except.bind] <;> rfl

/-- A LAUNCH of a replay (R367, R421). -/
theorem launch_logged {vc : Nat} {v : Word} (hrec : u.launchRecord u.myCtx = some (vc, v)) (nb : Bool) : launch nb d m s
    = .ok (if nb = false ∧ u.myVcc < vc then u.await (.launch d (u.overlay l (u.readLoc l 256)))
        else ((u.countLaunch u.myCtx v).writeX d v 2).logEv u.cur.tile (.launch u.myCtx v) 16) := by
  rw [launch_read hcrew hea hr hb, hrec]
  simp only [Bool.and_eq_true, Bool.not_eq_true', decide_eq_true_eq, apply_ite Except.ok]

/-- A LAUNCH that finds an entry posts its block (R367). -/
theorem launch_posts (hrec : u.launchRecord u.myCtx = none) (hroom : u.queueFull (u.partOf u.myCtx) = false) (nb : Bool) :
    launch nb d m s = .ok ((u.postLaunch u.myCtx (blockOf (u.overlay l (u.readLoc l 256)))).2.writeX d
      (u.postLaunch u.myCtx (blockOf (u.overlay l (u.readLoc l 256)))).1 2) := by
  rw [launch_read hcrew hea hr hb, hrec]
  simp only [hroom, Bool.false_eq_true, if_false]

/-- A LAUNCH that finds no entry waits, or says so (R367). -/
theorem launch_full (hrec : u.launchRecord u.myCtx = none) (hfull : u.queueFull (u.partOf u.myCtx) = true) (nb : Bool) :
    launch nb d m s = if nb then .ok ((u.writeX d (2 ^ 63) 2).logEv u.cur.tile (.launch u.myCtx (2 ^ 63)) 16)
      else .ok (u.await (.launch d (u.overlay l (u.readLoc l 256)))) := by
  rw [launch_read hcrew hea hr hb, hrec]
  simp only [hfull, if_true]

end

end

/-- Settles O36: TASKEND by what is outstanding, LAUNCH by its record, or by the room in the queue. -/
theorem launchAndTaskEnd : Obligations.LaunchAndTaskEnd := by
  intro s u g d a m ad l bs hi
  simp only [exec]
  refine ⟨execTaskend_drains hi a, fun hcrew hea hr hb => ⟨fun vc v hrec => ⟨run_ok hi ?_, run_ok hi ?_⟩,
    fun hrec hroom => ⟨run_ok hi (launch_posts hcrew hea hr hb hrec hroom false), run_ok hi (launch_posts hcrew hea hr hb hrec hroom true)⟩,
    fun hrec hfull => ⟨run_ok hi (launch_full hcrew hea hr hb hrec hfull false), run_ok hi (launch_full hcrew hea hr hb hrec hfull true)⟩⟩⟩
  · rw [launch_logged hcrew hea hr hb hrec true]
    simp only [Bool.true_eq_false, false_and, if_false]
  · rw [launch_logged hcrew hea hr hb hrec false]
    simp only [true_and]

end Sys2Proof.Machine
end

section
/-! The version instructions and SAMPLE (O37; R373, R381-R385). -/

namespace Sys2Proof.Machine

section
variable {s : State} {g : Guard} {d a : BitVec 6} {c set : Nat} (hi : s.Issues g) (hcrew : s.view.crew = some c)
  (hset : (s.crew c).boundSet = some set)

section
include hcrew hset

theorem bindOf_ok : s.bindOf = .ok (c, set) := by simp only [State.bindOf, hcrew, hset]

/-- VPUB, VDISCARD and VRETIRE send their mark and wait (R382). -/
theorem markVersion_asks (pnd : BitVec 2) (hx : (s.readX a).toNat < 2 ^ 16) : s.markVersion pnd d a
    = .ok ((s.askHome c set (.mark pnd ((s.readX a).setWidth 16) s.myVcc) d).modMe (fun c => { c with asked := some (.version d) })) := by
  simp only [State.markVersion, State.versionArg, bindOf_ok hcrew hset, hx, decide_true, check_true]
  rfl

end

include hi hcrew hset

/-- VQRY of a version, where no logged answer awaits it (R383). -/
theorem execVqry_asks (hx : (s.readX a).toNat < 2 ^ 16) (hlog : s.loggedAnswer s.myCtx = none) :
    execVqry g d a s = .next (s.askHome c set (.query (some ((s.readX a).setWidth 16))) d) := by
  refine run_ok hi ?_
  simp only [State.versionArg, bindOf_ok hcrew hset, hx, decide_true, check_true, hlog]
  rfl

theorem execVstage_asks (hlog : s.loggedAnswer s.myCtx = none) : execVstage g d s = .next (s.askHome c set .stage d) := by
  refine run_ok hi ?_
  simp only [bindOf_ok hcrew hset, hlog]
  rfl

theorem execVqrySet_asks (hlog : s.loggedAnswer s.myCtx = none) : execVqrySet g d s = .next (s.askHome c set (.query none) d) := by
  refine run_ok hi ?_
  simp only [bindOf_ok hcrew hset, hlog]
  rfl

/-- VADOPT announces its vc, or joins the adoption that is announced for it (R384). -/
theorem execVadopt_announces {imm : BitVec 32} (hlate : s.myVcc + 128 ≤ s.startVc imm)
    (hfree : (s.crew c).dyn.adopt = none ∨ (s.crew c).dyn.adopt = some (s.startVc imm)) : execVadopt g imm s
      = .next ((s.modDyn c (fun d => { d with adopt := some (s.startVc imm) })).modTiles c
        (fun t => { t with adoptAt := some (s.startVc imm) })) := by
  refine run_ok hi ?_
  have joins : ((s.crew c).dyn.adopt.isNone || (s.crew c).dyn.adopt == some (s.startVc imm)) = true := by
    simpa [Option.isNone_iff_eq_none] using hfree
  simp only [bindOf_ok hcrew hset, hlate, decide_true, check_true, joins, Bind.bind, Except.bind]

end

theorem execVadopt_early {s : State} {g : Guard} (hi : s.Issues g) {imm : BitVec 32} (h : s.myVcc + 128 > s.startVc imm) :
    execVadopt g imm s = .next (s.raise cTiming 0) := by
  refine run_trap hi ?_
  simp only [decide_eq_false (Nat.not_le.mpr h), check_false]
  rfl

/-! SAMPLE (R385). -/

/-- Reading every element of a list, when each can be read. -/
theorem mapM_ok {α β : Type} {f : α → Except Stop β} {h : α → β} :
    ∀ {l : List α}, (∀ x ∈ l, f x = .ok (h x)) → l.mapM f = .ok (l.map h)
  | [], _ => rfl
  | x :: rest, hl => by
    rw [List.mapM_cons, hl x List.mem_cons_self, mapM_ok fun y hy => hl y (List.mem_cons_of_mem _ hy)]
    rfl

/-- The byte at a place of an entry, 0 where it has none. -/
def State.entryByte (s : State) (e : TsEnt) (i : Nat) : Byte :=
  match s.resolve (e.addr (0, 0, 0) i) false with
  | .ok p => (s.readLoc p 1).headD 0
  | .error _ => 0

theorem weightBytes_ok {s : State} {e : TsEnt} {n : Nat} (h : ∀ i, i < 4 * n → ∃ p, s.resolve (e.addr (0, 0, 0) i) false = .ok p) :
    s.weightBytes e n = .ok ((List.range (4 * n)).map (s.entryByte e)) := by
  refine mapM_ok fun i hi => ?_
  obtain ⟨p, hp⟩ := h i (List.mem_range.mp hi)
  simp only [State.entryByte, hp]
  rfl

/-- SAMPLE draws, stores its record and waits until the draw is over (R385). -/
theorem execSample_draws {s t : State} {g : Guard} (hi : s.Issues g) {d b e : BitVec 6} {m : MemOp} {a : Word} {l : Loc} {te : TsEnt}
    {n : Nat} {bytes : List Byte} {tok : Word} (hte : s.ent s.myCore e = te) (hn : te.dim 0 + 1 = n) (hentry : sampleEntry s te = .ok ())
    (htag : s.tagCheck te = .ok ()) (hea : s.vaultEA m 8 [1, 2] 5 true = .ok (a, l)) (hbytes : s.weightBytes te n = .ok bytes)
    (htok : sampleToken ((List.range n).map (fun i => leNat ((bytes.drop (4 * i)).take 4))) (kmix (s.readX b) s.view.rkey) = tok)
    (hstore : s.StoreTaken a l 8 0xFF (((s.readX b).setWidth 16 ++ (if s.view.crew = none then (0 : BitVec 16) else s.myTile.pvr)
      ++ tok.setWidth 32 : BitVec 64).setWidth 512) t) :
    execSample g d b e m s = .next (t.await (.sample d tok (t.rc + 8 + (n + 15) / 16))) := by
  subst hte hn htok
  refine run_ok hi ?_
  have pvr : (if s.view.crew.isSome = true then s.myTile.pvr else 0) = if s.view.crew = none then (0 : BitVec 16) else s.myTile.pvr := by
    cases s.view.crew <;> rfl
  have hea' : s.vaultEA m 8 [kAlias, kVault] rW true = .ok (a, l) := hea
  have en : enBytes 8 = 0xFF := rfl
  simp only [hentry, htag, hbytes, hea', pvr, en, State.bufferStore_taken hstore, Bind.bind, Except.bind]

/-- Settles O37: each version instruction by what it asks the home, VADOPT by its vc, SAMPLE by its draw. -/
theorem versionsAndSample : Obligations.VersionsAndSample := by
  refine ⟨?_, ?_⟩
  · intro s g d a imm c set hi hcrew hset
    simp only [exec]
    exact ⟨fun hx => ⟨run_ok hi (markVersion_asks hcrew hset 1 hx), run_ok hi (markVersion_asks hcrew hset 2 hx),
      run_ok hi (markVersion_asks hcrew hset 3 hx), execVqry_asks hi hcrew hset hx⟩,
      fun hlog => ⟨execVstage_asks hi hcrew hset hlog, execVqrySet_asks hi hcrew hset hlog⟩,
      execVadopt_announces hi hcrew hset, execVadopt_early hi⟩
  · intro s t g d b e m a l hi te n hentry htag hea bytes hread weights tok pvr hstore
    simp only [exec]
    exact execSample_draws hi rfl rfl hentry htag hea (weightBytes_ok hread) rfl hstore

end Sys2Proof.Machine
end

section
/-! The events of version sets (O53): requests at the home in their order, the candidate and the answer at the crew, and adoption
(R370-R374, R377-R383). -/

namespace Sys2Proof.Machine

/-! A request at the home (R371). -/

section
variable {s u : State} {n : Nat} {p : Pkt} {v crew : Nat} {op : VerOp} (ha : s.Arrives n p u) (hb : p.body = .version v crew op)
include ha hb

/-- The candidate of a cut is the newest version (R373, R377). -/
theorem execVersionHomeRequest_candidate {c : Nat} (hop : op = .candidate c) : execVersionHomeRequest n s
    = .next ((u.homeReply p crew none op ((u.vset v).newest.setWidth 64) true).updateRefs crew) := by
  subst hop
  rw [execVersionHomeRequest, arrived_of ha (by simp only [hb])]
  simp only [hb]

theorem execVersionHomeRequest_commit {vc : Nat} (hop : op = .commit vc) : execVersionHomeRequest n s
    = .next (if (u.crew crew).live then u.applyMarks crew v vc else u) := by
  subst hop
  rw [execVersionHomeRequest, arrived_of ha (by simp only [hb])]
  simp only [hb]

/-- A set that is not enabled answers no request of a thread (R370). -/
theorem execVersionHomeRequest_disabled (hen : (u.vset v).en = false) (hcand : ∀ c, op ≠ .candidate c) (hcommit : ∀ c, op ≠ .commit c) :
    execVersionHomeRequest n s = .next (u.homeReply p crew (some p.ctx) op 0 false) := by
  rw [execVersionHomeRequest, arrived_of ha (by simp only [hb])]
  cases op with
  | candidate c => exact absurd rfl (hcand c)
  | commit c => exact absurd rfl (hcommit c)
  | stage | mark | query => simp only [hb, hen, Bool.not_false, if_true]

variable (hen : (u.vset v).en = true)
include hen

theorem execVersionHomeRequest_stage (hop : op = .stage) : execVersionHomeRequest n s
    = .next ((u.stageAt v crew).2.homeReply p crew (some p.ctx) op (u.stageAt v crew).1 true) := by
  subst hop
  rw [execVersionHomeRequest, arrived_of ha (by simp only [hb])]
  simp only [hb, hen, Bool.not_true, Bool.false_eq_true, if_false]

theorem execVersionHomeRequest_mark {pnd : BitVec 2} {num : BitVec 16} {vc : Nat} (hop : op = .mark pnd num vc) :
    execVersionHomeRequest n s
      = .next ((u.markAt v crew pnd num vc).2.homeReply p crew (some p.ctx) op (u.markAt v crew pnd num vc).1 true) := by
  subst hop
  rw [execVersionHomeRequest, arrived_of ha (by simp only [hb])]
  simp only [hb, hen, Bool.not_true, Bool.false_eq_true, if_false]

theorem execVersionHomeRequest_query {num : Option (BitVec 16)} (hop : op = .query num) : execVersionHomeRequest n s
    = .next (u.homeReply p crew (some p.ctx) op (u.queryAt v num) true) := by
  subst hop
  rw [execVersionHomeRequest, arrived_of ha (by simp only [hb])]
  simp only [hb, hen, Bool.not_true, Bool.false_eq_true, if_false]

end

/-! A version to stage (R381). -/

namespace State

variable {s : State}

theorem translate_vsets (field part va : Nat) (acc : Acc) (weight : Bool) :
    (s.translate field part va acc weight).2.vsets = s.vsets := by
  simp only [translate]
  (repeat' split) <;> rfl

theorem writePa_vsets (a : Nat) (bs : List Byte) : (s.writePa a bs).vsets = s.vsets := rfl

/-- The free values of a new version's pages touch no set (R381). -/
theorem undefPages_vsets (fuel field part va : Nat) : (s.undefPages fuel field part va).vsets = s.vsets := by
  induction fuel generalizing s va with
  | zero => rfl
  | succ fuel ih =>
    have page := translate_vsets (s := s) field part va .read true
    rw [undefPages, ih]
    split
    · next l t heq =>
      rw [heq] at page
      dsimp only
      split
      · exact page
      · rw [writePa_vsets]
        exact page
    · next e t heq =>
      rw [heq] at page
      exact page

theorem undefPages_vset (fuel field part va v : Nat) : (s.undefPages fuel field part va).vset v = s.vset v := by
  rw [vset, undefPages_vsets]
  rfl

/-- A version of a set that is being staged and not yet marked (R370). -/
def beingStaged (s : State) (v i : Nat) : Prop := (Tbl.get {} (s.vset v).slots i).st = 1 ∧ (Tbl.get {} (s.vset v).slots i).pnd = 0

variable {v : Nat} (crew : Nat)

theorem any_beingStaged : ((List.range 4).any fun i =>
    (Tbl.get {} (s.vset v).slots i).st == 1 && (Tbl.get {} (s.vset v).slots i).pnd == 0) = true ↔ ∃ i, i < 4 ∧ s.beingStaged v i := by
  simp only [List.any_eq_true, List.mem_range, Bool.and_eq_true, beq_iff_eq, beingStaged]

/-- One version at a time is staged (R381). -/
theorem stageAt_busy (h : ∃ i, i < 4 ∧ s.beingStaged v i) : s.stageAt v crew = (vsBusy, s) := by
  simp only [stageAt, any_beingStaged.mpr h, if_true]

theorem stageAt_full (h : ∀ i, i < 4 → (Tbl.get {} (s.vset v).slots i).st ≠ 0 ∧ ¬s.beingStaged v i) : s.stageAt v crew = (vsFull, s) := by
  have idle : ¬∃ i, i < 4 ∧ s.beingStaged v i := fun ⟨i, hi, hst⟩ => (h i hi).2 hst
  have none_ : (List.range 4).find? (fun i => (Tbl.get {} (s.vset v).slots i).st == 0) = none :=
    List.find?_eq_none.mpr fun i hi => by simpa using (h i (List.mem_range.mp hi)).1
  simp only [stageAt, eq_false_of_ne_true (mt any_beingStaged.mp idle), none_, Bool.false_eq_true, if_false]

/-- The lowest free slot takes the number that follows the last (R372, R381). -/
theorem stageAt_takes {i : Nat} (idle : ∀ i, i < 4 → ¬s.beingStaged v i) (hi : i < 4)
    (hfree : (Tbl.get {} (s.vset v).slots i).st = 0) (lowest : ∀ j, j < i → (Tbl.get {} (s.vset v).slots j).st ≠ 0) :
    (s.stageAt v crew).1 = (nextVersion (s.vset v).last).setWidth 64
      ∧ ((s.stageAt v crew).2.vset v).last = nextVersion (s.vset v).last
      ∧ (Tbl.get {} ((s.stageAt v crew).2.vset v).slots i).st = 1
      ∧ (Tbl.get {} ((s.stageAt v crew).2.vset v).slots i).vnum = nextVersion (s.vset v).last := by
  have hidle : ¬∃ i, i < 4 ∧ s.beingStaged v i := fun ⟨i, hi, hst⟩ => idle i hi hst
  have first : (List.range 4).find? (fun i => (Tbl.get {} (s.vset v).slots i).st == 0) = some i :=
    List.find?_range_eq_some.mpr ⟨by simpa using hfree, List.mem_range.mpr hi, fun j hj => by simpa using lowest j hj⟩
  simp only [stageAt, eq_false_of_ne_true (mt any_beingStaged.mp hidle), first, Bool.false_eq_true, if_false, undefPages_vset,
    vset_setVset, Tbl.get_set_self, and_self]

end State

/-! The crew (R374, R377, R379-R383). -/

section
variable {s u : State} {n : Nat} {p : Pkt} {crew : Nat} (ha : s.Arrives n p u)
include ha

/-- The first candidate of a cut is recorded and kept (R377). -/
theorem execCandidateAnswer_first {vc : Nat} {v : Word} {ok : Bool} (hb : p.body = .answer crew none (.candidate vc) v ok)
    (hlive : (u.crew crew).live = true) (hcut : ∃ c, (u.crew crew).cut = some c ∧ c.vc = vc ∧ c.cand = none) : execCandidateAnswer n s
      = .next ((u.logEv (u.crew crew).t0 (.candidate vc (v.setWidth 16)) 8).setCandidate crew vc (v.setWidth 16)) := by
  obtain ⟨c, hc, hvc, hcand⟩ := hcut
  rw [execCandidateAnswer, arrived_of ha (by simp only [hb])]
  simp only [hb, hlive, hc, hvc, hcand, beq_self_eq_true, Option.isNone_none, Bool.and_self, Bool.true_or, if_true]

/-- An answer completes the thread that waits for it, or faults it where the set is not enabled (R374, R380). -/
theorem execVersionAnswer_waiting {c : Nat} {op : VerOp} {v : Word} {ok : Bool} {d : BitVec 6}
    (hb : p.body = .answer crew (some c) op v ok) {w : State} (hw : u.refreshView crew = w) (hwait : (w.ctx p.ctx).wait = .version d)
    (hreplay : w.replaying (tileOfCtx p.ctx) = false) : execVersionAnswer n s
      = .next (if ok then (w.completeX p.ctx d v 2).logEv (tileOfCtx p.ctx) (.answer p.ctx v) 8 else w.failWait p.ctx 0x0E 0) := by
  subst hw
  rw [execVersionAnswer, arrived_of ha (by simp only [hb])]
  simp only [hb, hwait, hreplay, Bool.false_and, Bool.false_eq_true, if_false]
  cases ok <;> rfl

end

/-- A crew's references at the home are all that `updateRefs` changes (R373). -/
theorem State.updateRefs_keeps (s : State) (crew : Nat) : (s.updateRefs crew).tiles = s.tiles ∧ (s.updateRefs crew).mem = s.mem
    ∧ (s.updateRefs crew).ctxs = s.ctxs := by
  simp only [updateRefs]
  split <;> exact ⟨rfl, rfl, rfl⟩

/-- A tile that has taken a version as an adoption does (R379). -/
def State.adopted (s : State) (tile v : Nat) (n : BitVec 16) : State :=
  s.modTile tile (fun i => { i with pvr := n, adoptAt := none, vview := { i.vview with cur := s.slotWith v n } })

/-- A tile at the adoption vc takes the candidate; beside it the crew's references and the end of the adoption change (R373, R379). -/
theorem execAdoption_takes {s : State} {tile crew a v : Nat} {n : BitVec 16} (hcrew : (s.tile tile).crew = some crew)
    (hat : (s.tile tile).adoptAt = some a) (hvc : a ≤ (s.tile tile).vcc) (hdue : dueCut (s.crew crew) (s.tile tile).vcc = false)
    (hn : adoptable (s.crew crew) a = some n) (hset : (s.crew crew).boundSet = some v) :
    ∃ t, execAdoption tile s = .next t ∧ t.tiles = (s.adopted tile v n).tiles ∧ t.mem = s.mem ∧ t.ctxs = s.ctxs := by
  have stands : (decide ((s.tile tile).vcc < a) || dueCut (s.crew crew) (s.tile tile).vcc) = false := by
    rw [hdue, Bool.or_false, decide_eq_false (Nat.not_lt.mpr hvc)]
  rw [execAdoption, hcrew, hat]
  simp only [stands, hn, hset, Bool.false_eq_true, if_false]
  refine ⟨_, rfl, ?_⟩
  split
  · exact State.updateRefs_keeps ..
  · exact State.updateRefs_keeps ..

/-- Settles O53: each request by its operation, staging by the slots of the set, the answers by who waits for them, and adoption. -/
theorem versionEvents : Obligations.VersionEvents := by
  refine ⟨?_, ?_⟩
  · intro s n p u ha
    simp only [exec]
    refine ⟨fun v crew op hb => ⟨fun c => execVersionHomeRequest_candidate ha hb, fun vc => execVersionHomeRequest_commit ha hb,
        execVersionHomeRequest_disabled ha hb, fun hen => ⟨execVersionHomeRequest_stage ha hb hen,
          fun pnd num vc => execVersionHomeRequest_mark ha hb hen, fun num => execVersionHomeRequest_query ha hb hen⟩⟩,
      fun v crew => ⟨State.stageAt_busy crew, State.stageAt_full crew, fun idle i hi hfree lowest => State.stageAt_takes crew idle hi hfree lowest⟩,
      fun crew vc v ok hb => execCandidateAnswer_first ha hb, fun crew c op v ok d hb hwait hreplay =>
        execVersionAnswer_waiting ha hb rfl hwait hreplay⟩
  · intro s tile crew a v n hcrew hat hvc hdue hn hset
    simp only [exec]
    obtain ⟨t, ht, htiles, hmem, hctxs⟩ := execAdoption_takes hcrew hat hvc hdue hn hset
    have htile (j : Nat) : t.tile j = (s.adopted tile v n).tile j := congrArg (fun l : Tbl Tile => Tbl.get ({} : Tile) l j) htiles
    have own : t.tile tile = _ := (htile tile).trans (State.tile_modTile ..)
    exact ⟨t, ht, by rw [own], by rw [own], by rw [own], fun j hj => (htile j).trans (State.tile_modTile_ne _ _ _ _ hj), hmem, hctxs⟩

end Sys2Proof.Machine
end

section
/-! Tasks (O51): dispatch and its refusals, loading, the launch cut, the end with its record and knot, and held blocks (R340,
R345-R354, R378, R415). -/

namespace Sys2Proof.Machine

namespace State

variable {s u : State}

/-! Dispatch (R345, R346, R348). -/

/-- With no task that has waited too long, the first task of the order decides where it is refused, completes or is placed. -/
theorem dispatchFrom_first {part : Nat} {e : QEnt} {rest : List QEnt} (h : s.dispatchOne part e true = (true, u)) :
    s.dispatchFrom part (e :: rest) none = (true, u) := by
  simp only [dispatchFrom, h]

end State

theorem execTaskDispatch_first {s u : State} {part : Nat} {e : QEnt} {rest : List QEnt} (hq : s.quiesced = false)
    (horder : State.queueOrder (s.part part).queue = e :: rest) (hfresh : s.staleTask (s.part part).queue = none)
    (h : s.dispatchOne part e true = (true, u)) : execTaskDispatch part s = .next (u.feedLaunch part) := by
  simp only [execTaskDispatch, hq, horder, hfresh, State.dispatchFrom_first h, Bool.false_eq_true, if_false]

namespace State

variable {s : State} {part : Nat} {b : Block}

/-- More than 2^24 units (R348). -/
theorem considered_units (h : 2 ^ 24 < b.units) : s.considered part b = (.refuse 1, s) := by
  rw [considered, if_pos h]

theorem considered_fields (hunits : b.units ≤ 2 ^ 24) (h : b.fieldsOk = false) : s.considered part b = (.refuse 2, s) := by
  rw [considered, if_neg (Nat.not_lt.mpr hunits), if_pos (by rw [h]; rfl)]

theorem considered_zero (h : b.fieldsOk = true) (hzero : b.units = 0) : s.considered part b = (.zero, s) := by
  rw [considered, if_neg (by omega), if_neg (by rw [h]; decide), if_pos hzero]

/-- A shape that fits nowhere in the partition (R346, R348). -/
theorem considered_shape (hunits : b.units ≤ 2 ^ 24) (h : b.fieldsOk = true) (hsome : b.units ≠ 0) (hfits : s.fits part b = []) :
    s.considered part b = (.refuse 3, s) := by
  rw [considered, if_neg (Nat.not_lt.mpr hunits), if_neg (by rw [h]; decide), if_neg hsome, if_pos (.inr (.inr (by rw [hfits]; rfl)))]

/-! Loading (R60, R340, R478). -/

theorem loadTile_keeps (tile : Nat) (im : List (Nat × Nat × List Byte)) :
    ((s.loadTile tile im).ctxs, (s.loadTile tile im).images) = (s.ctxs, s.images) := by
  refine (foldl_keeps (fun u : State => (u.ctxs, u.images)) _ (fun u x => ?_) im _).trans rfl
  rw [writeLoc]
  split <;> rfl

/-- Loading the tiles of a list: which image it is depends on nothing that loading a tile changes. -/
theorem foldl_loadTile (w : Crew) (l : List Nat) {u : State} (hu : u.images = s.images) :
    l.foldl (fun (x : State) t => x.loadTile t (x.imageFor w)) u = l.foldl (fun (x : State) t => x.loadTile t (s.imageFor w)) u := by
  induction l generalizing u with
  | nil => rfl
  | cons t rest ih =>
    have image : u.imageFor w = s.imageFor w := by rw [imageFor, imageFor, hu]
    rw [List.foldl_cons, List.foldl_cons, image]
    exact ih ((congrArg Prod.snd (loadTile_keeps t _)).trans hu)

theorem foldl_loadTile_ctxs (im : List (Nat × Nat × List Byte)) (l : List Nat) :
    (l.foldl (fun (x : State) t => x.loadTile t im) s).ctxs = s.ctxs :=
  foldl_keeps State.ctxs _ (fun x t => congrArg Prod.fst (x.loadTile_keeps t im)) l s

/-- Banks 0-47 of a tile that is loaded with nothing read 0 (R478). -/
theorem readLoc_loadTile_nil {tile bank off : Nat} (hbank : bank < 48) (hoff : off < 2 ^ 17) :
    (s.loadTile tile []).readLoc ⟨tile, bank, off⟩ 1 = [0] := by
  have inside : vaultKey (s.siteOf tile) 0 0 ≤ vaultKey (s.siteOf tile) bank off
      ∧ vaultKey (s.siteOf tile) bank off < vaultKey (s.siteOf tile) 0 0 + 48 * 2 ^ 17 := by
    simp only [vaultKey]
    omega
  have cleared : memRead (memClear s.mem (vaultKey (s.siteOf tile) 0 0) (48 * 2 ^ 17)) (vaultKey (s.siteOf tile) bank off) = 0 := by
    refine (Tbl.get_filter_key unlistedByte (fun a => !(decide (vaultKey (s.siteOf tile) 0 0 ≤ a)
      && decide (a < vaultKey (s.siteOf tile) 0 0 + 48 * 2 ^ 17))) s.mem _).trans (if_neg ?_)
    simp only [inside, decide_true, Bool.and_self, Bool.not_true, Bool.false_eq_true, not_false_eq_true]
  exact congrArg (fun b => [b]) cleared

end State

/-- Writes to cores one after the other keep what is not a core's. -/
theorem State.foldl_modCore_keeps (f : State → Nat → Core → Core) (l : List Nat) (s : State) :
    let t := l.foldl (fun (x : State) c => x.modCore c (f x c)) s
    (t.crews, t.ctxs, t.mem) = (s.crews, s.ctxs, s.mem) :=
  foldl_keeps (fun s : State => (s.crews, s.ctxs, s.mem)) (fun x c => x.modCore c (f x c)) (fun _ _ => rfl) l s

/-- The last tile is loaded: %tstart is its vc rounded up to 1,024 (R340). -/
theorem execImageLoadComplete_loads {s : State} {crew : Nat} (hst : (s.crew crew).st = .loading) :
    ∃ t, execImageLoadComplete crew s = .next t ∧ (t.crew crew).st = .launchCut
      ∧ (t.crew crew).tstart = ((s.crewTiles crew).foldl (fun (m : Nat) t => max m (s.tile t).vcc) 0 + 1023) / 1024 * 1024
      ∧ t.ctxs = s.ctxs
      ∧ t.mem = ((s.crewTiles crew).foldl (fun (x : State) i => x.loadTile i (s.imageFor (s.crew crew))) s).mem := by
  rw [execImageLoadComplete]
  simp only [hst, bne_self_eq_false, Bool.false_eq_true, if_false, State.foldl_loadTile (s.crew crew) _ rfl]
  have hloaded := State.foldl_loadTile_ctxs (s := s) (s.imageFor (s.crew crew)) (s.crewTiles crew)
  generalize (s.crewTiles crew).foldl (fun (x : State) t => x.loadTile t (s.imageFor (s.crew crew))) s = loaded at hloaded ⊢
  refine ⟨_, rfl, ?_⟩
  generalize hcaches : List.foldl _ (State.modCrew _ _ _) _ = u
  have keeps := hcaches ▸ State.foldl_modCore_keeps _ _ _
  obtain ⟨hcrews, hctxs, hmem⟩ : u.crews = _ ∧ u.ctxs = _ ∧ u.mem = _ := by simpa only [Prod.mk.injEq] using keeps
  obtain ⟨log, redo, hlog⟩ := u.crew_logEv (s.crew crew).t0 .tstart 0 crew
  have hcrew : u.crew crew = _ := (congrArg (fun l : Tbl Crew => Tbl.get ({} : Crew) l crew) hcrews).trans (State.crew_modCrew ..)
  rw [hlog, hcrew, State.logEv_ctxs, State.logEv_mem]
  exact ⟨rfl, rfl, hctxs.trans hloaded, hmem⟩

theorem execLaunchCut_cuts {s : State} {crew : Nat} (hst : (s.crew crew).st = .launchCut) (hcut : (s.crew crew).cut = none)
    (hall : s.allAt crew (s.crew crew).tstart = true) : execLaunchCut crew s
      = .next ((((s.dealAll crew).captureCrew crew (s.crew crew).tstart true).earlyCheck (s.crew crew).t0).earlyCheck
        (s.partnerOf (s.crew crew).t0)) := by
  simp only [execLaunchCut, hst, hcut, hall, bne_self_eq_false, Option.isSome_none, Bool.not_true, Bool.or_self, Bool.false_eq_true,
    if_false]

/-! The end (R349, R352, R353, R378). -/

section
variable {s : State} {crew : Nat} (hlive : (s.crew crew).live = true)
include hlive

/-- A task that has ended writes its record, then fires its knot, and its tiles are free (R352). -/
theorem execTaskEnd_ended {pa pk : Nat} {u x : State} (hst : (s.crew crew).st = .ended) (hstep : (s.crew crew).endStep = 2)
    (hrecord : s.endWrite crew (s.crew crew).blk.record 64 = .done pa u)
    (hknot : ((u.writePa pa (u.recordBytes crew)).modCrew crew (fun w => { w with endStep := 3 })).endWrite crew (s.crew crew).blk.knot 32
      = .done pk x) {o : KnotOut} (ho : (Knot.ofBytes (x.readPa pk 32)).apply (.done (State.endStatus (s.crew crew))) = o) :
    execTaskEnd crew s
      = .next (((x.writePa pk o.cell.bytes).knotEffects (s.crew crew).part (.far (s.crew crew).blk.knot) o).freeCrew crew) := by
  subst ho
  simp only [execTaskEnd, hlive, hst, Bool.not_true, Bool.false_eq_true, if_false, State.endTask, hstep, ne_eq, not_true_eq_false,
    hrecord, hknot]

/-- A running task is over, quiet and in no close or replay (R352). -/
theorem execTaskEnd_over (hst : (s.crew crew).st = .running) (hstep : (s.crew crew).endStep = 1) (hover : s.taskOver crew = true)
    (hquiet : s.quiet crew = true) (hclosing : (s.crew crew).closing = none) (hreplay : (s.crew crew).replayTo = none) :
    execTaskEnd crew s = .next (((s.endVersions crew).modCrew crew (fun w => { w with st := .ended, endStep := 2 })).endTask crew) := by
  simp only [execTaskEnd, hlive, hst, hstep, hover, hquiet, hclosing, atReplay, hreplay, Bool.not_true, Bool.false_eq_true, if_false,
    decide_true, Option.isNone_none, Bool.not_false, Bool.and_self, if_true]

theorem execTaskEnd_ending (hst : (s.crew crew).st = .ending) : execTaskEnd crew s
    = .next ((((s.stripCrew crew).endVersions crew).modCrew crew (fun w => { w with st := .ended, endStep := 2 })).endTask crew) := by
  simp only [execTaskEnd, hlive, hst, Bool.not_true, Bool.false_eq_true, if_false]

end

/-- A completion record has 64 bytes (R349). -/
theorem length_recordBytes (s : State) (crew : Nat) : (s.recordBytes crew).length = 64 := by
  simp only [State.recordBytes, List.length_append, length_leBytes, List.length_cons, List.length_nil]

/-! Held blocks (R354). -/

section
variable {s u : State} {part : Nat}

theorem execHeldBlockPost_bytes {bs : List Byte} {rest : List (List Byte)} (hheld : (s.part part).held = bs :: rest)
    (hroom : (s.part part).queue.length < 1024) : execHeldBlockPost part s
      = .next ((s.setPart part { s.part part with held := rest }).post part (blockOf bs)).2 := by
  simp only [execHeldBlockPost, hheld, Nat.not_le.mpr hroom, if_false]

variable {a : Word} {chain : Bool} {p : Place} {rest : List (Word × Bool × Place)} (hheld : (s.part part).held = [])
  (haddr : (s.part part).heldAddr = (a, chain, p) :: rest)
include hheld haddr

theorem execHeldBlockPost_lost (hread : s.readAny (s.partField part) part a 256 = (none, u)) : execHeldBlockPost part s
    = .next ((u.setPart part { s.part part with heldAddr := rest }).lostBlock part p) := by
  simp only [execHeldBlockPost, hheld, haddr, hread]

/-- A block that is read takes an entry of the queue, or is held while there is none; its chain follows it (R354). -/
theorem execHeldBlockPost_read {bs : List Byte} (hread : s.readAny (s.partField part) part a 256 = (some bs, u)) {q : Part}
    (hq : { u.part part with heldAddr := (if chain && (blockOf bs).next != 0 then [((blockOf bs).next, true, p)] else []) ++ rest } = q) :
    execHeldBlockPost part s = .next (if (u.part part).queue.length < 1024 then ((u.setPart part q).post part (blockOf bs)).2
      else u.setPart part { q with held := q.held ++ [bs] }) := by
  subst hq
  simp only [execHeldBlockPost, hheld, haddr, hread]
  split
  · next h => rw [if_neg (Nat.not_lt.mpr h)]
  · next h => rw [if_pos (Nat.not_le.mp h)]

end

/-- Settles O51, event by event: dispatch by what becomes of the first task, loading, the launch cut, the end by its step, held blocks. -/
theorem taskEvents : Obligations.TaskEvents := by
  intro s part crew
  simp only [exec]
  refine ⟨fun e rest hq horder hfresh => ⟨fun r u h => ?_, fun u h => ?_, fun t0 l u h => ?_⟩,
    fun b => ⟨State.considered_units, State.considered_fields, State.considered_zero, State.considered_shape⟩, execImageLoadComplete_loads,
    fun tile bank off => State.readLoc_loadTile_nil, execLaunchCut_cuts, fun q => ⟨rfl, rfl, rfl, rfl⟩,
    fun hlive => ⟨fun pa u pk x hst hstep hrecord hknot => execTaskEnd_ended hlive hst hstep hrecord hknot rfl, execTaskEnd_over hlive,
      execTaskEnd_ending hlive⟩, length_recordBytes s crew, fun bs rest => execHeldBlockPost_bytes,
    fun a chain p rest hheld haddr => ⟨fun u => execHeldBlockPost_lost hheld haddr, fun bs u hread => execHeldBlockPost_read hheld haddr hread rfl⟩⟩
  · exact execTaskDispatch_first hq horder hfresh (by simp only [State.dispatchOne, h])
  · exact execTaskDispatch_first hq horder hfresh (by simp only [State.dispatchOne, h])
  · exact execTaskDispatch_first hq horder hfresh (by simp only [State.dispatchOne, h, if_true])

end Sys2Proof.Machine
end

section
/-! Service (O57): heat and droop, voltage margins, HBM4E repair and self-test (R343, R461-R463, R468, R469). -/

namespace Sys2Proof.Machine

/-! Heat and droop (R343, R469). -/

section
variable {s : State} {field : Nat} (hpower : (s.field field).power = true)
include hpower

section
variable (hcool : (s.field field).throttled = false)
include hcool

theorem execThermalThrottle_free (hfresh : (s.field field).throttleAt = []) (hfree : s.strictCrews field = []) :
    execThermalThrottle field s = .next (s.setField field { s.field field with throttled := true }) := by
  simp only [execThermalThrottle, hpower, hcool, hfresh, hfree, Bool.not_true, Bool.or_self, Bool.false_eq_true, if_false,
    List.isEmpty_nil, if_true]

/-- A strict crew is told the vc at which its fields throttle (R343). -/
theorem execThermalThrottle_strict {c : Nat} (hfresh : (s.field field).throttleAt = []) (hstrict : s.strictCrews field = [c]) :
    execThermalThrottle field s = .next ((s.crewFields c).foldl (fun (t : State) f =>
      t.setField f { t.field f with throttleAt := (t.field f).throttleAt ++ [(c, s.announceVc c)] }) s) := by
  simp only [execThermalThrottle, hpower, hcool, hfresh, hstrict, Bool.not_true, Bool.or_self, Bool.false_eq_true, if_false,
    List.isEmpty_nil, List.isEmpty_cons, List.foldl_cons, List.foldl_nil, if_true]

/-- Once every crew that was told has come to its vc, the field throttles (R343). -/
theorem execThermalThrottle_reached (htold : (s.field field).throttleAt ≠ [])
    (hat : ∀ x ∈ (s.field field).throttleAt, (s.crew x.1).live = false ∨ ∀ t ∈ s.crewTiles x.1, x.2 ≤ (s.tile t).vcc) :
    execThermalThrottle field s = .next (s.setField field { s.field field with throttled := true, throttleAt := [] }) := by
  have told : (s.field field).throttleAt.isEmpty = false := Bool.eq_false_iff.mpr fun h => htold (List.isEmpty_iff.mp h)
  have reached : ((s.field field).throttleAt.all fun x =>
      !(s.crew x.1).live || (s.crewTiles x.1).all fun t => decide (x.2 ≤ (s.tile t).vcc)) = true := by
    simpa only [List.all_eq_true, Bool.or_eq_true, Bool.not_eq_true', decide_eq_true_eq] using hat
  simp only [execThermalThrottle, hpower, hcool, told, reached, Bool.not_true, Bool.or_self, Bool.false_eq_true, if_false, if_true]

end

theorem execDroopStretch_stretches (cycles : Nat) : execDroopStretch field cycles s
    = .next (s.setField field { s.field field with droop := s.sys.rtime.toNat + 2 * min cycles 8 }) := by
  simp only [execDroopStretch, hpower, Bool.not_true, Bool.false_eq_true, if_false]

end

/-! Margins (R468). -/

namespace State

variable (s : State)

/-- What the service records of sites keep: the margin of a field, memory and contexts. -/
def marginView (f : Nat) : BitVec 16 × List Host.Cell × Tbl Ctx := ((s.field f).vmarg, s.mem, s.ctxs)

theorem errorRecord_marginView (kind cause : BitVec 8) (site : Nat) (core unit : BitVec 8) (sub : Nat) (detail : Word) (f : Nat) :
    (s.errorRecord kind cause site core unit sub detail).marginView f = s.marginView f := by
  simp only [marginView, errorRecord, recordIn, field_setField_eq]
  split
  · next h => rw [h]; rfl
  · rfl

end State

theorem execMarginReplan_sets {s : State} {field : Nat} (mv : BitVec 16) (hjoined : (s.field field).joined = true)
    (hpower : (s.field field).power = true) : ∃ t, execMarginReplan field mv s = .next t
      ∧ (t.field field).vmarg = BitVec.ofNat 16 (min mv.toNat (Config.maxMargin field)) ∧ t.mem = s.mem ∧ t.ctxs = s.ctxs := by
  have hset (d : Fld) (hd : d.vmarg = BitVec.ofNat 16 (min mv.toNat (Config.maxMargin field))) : (s.setField field d).marginView field
      = (BitVec.ofNat 16 (min mv.toNat (Config.maxMargin field)), s.mem, s.ctxs) := by
    rw [State.marginView, State.field_setField, hd]
    rfl
  suffices h : ∃ t, execMarginReplan field mv s = .next t
      ∧ t.marginView field = (BitVec.ofNat 16 (min mv.toNat (Config.maxMargin field)), s.mem, s.ctxs) by
    obtain ⟨t, ht, hview⟩ := h
    obtain ⟨hmarg, hmem, hctxs⟩ : _ ∧ _ ∧ _ := by simpa only [State.marginView, Prod.mk.injEq] using hview
    exact ⟨t, ht, hmarg, hmem, hctxs⟩
  simp only [execMarginReplan, hjoined, hpower, Bool.not_true, Bool.or_self, Bool.false_eq_true, if_false]
  split
  · exact ⟨_, rfl, hset _ rfl⟩
  · refine ⟨_, rfl, (foldl_keeps (fun s => s.marginView field) _ (fun s n => ?_) _ _).trans (hset _ rfl)⟩
    exact s.errorRecord_marginView ..

/-! Repair (R461). -/

theorem execHbmRepairStart_holds {s : State} {stack channel : Nat} (hchannel : channel < 64) (hdeep : s.sys.deepReq = none)
    (hfree : 64 * stack + channel ∉ s.sys.held) : ∃ t, execHbmRepairStart stack channel s = .next t
      ∧ t = { s with sys := { s.sys with held := s.sys.held ++ [64 * stack + channel] }, fields := t.fields } := by
  have open_ : (decide (64 ≤ channel) || s.sys.deepReq.isSome || s.sys.held.contains (64 * stack + channel)) = false := by
    simp [hdeep, hfree, hchannel]
  simp only [execHbmRepairStart, open_, Bool.false_eq_true, if_false]
  exact ⟨_, rfl, rfl⟩

theorem State.errorRecord_hbm (s : State) (kind cause : BitVec 8) (site : Nat) (core unit : BitVec 8) (sub : Nat) (detail : Word) :
    (s.errorRecord kind cause site core unit sub detail).hbm = s.hbm := rfl

theorem execHbmRepairDone_resumes {s : State} {stack channel : Nat} (hheld : 64 * stack + channel ∈ s.sys.held) :
    ∃ t, execHbmRepairDone stack channel s = .next t ∧ 64 * stack + channel ∉ t.sys.held ∧ t.mem = s.mem
      ∧ (Tbl.get (0, 0) t.hbm (64 * stack + channel)).1 = (Tbl.get (0, 0) s.hbm (64 * stack + channel)).1 + 1 := by
  have held : s.sys.held.contains (64 * stack + channel) = true := by simpa using hheld
  simp only [execHbmRepairDone, held, Bool.not_true, Bool.false_eq_true, if_false]
  refine ⟨_, rfl, fun h => absurd (List.mem_filter.mp h).2 (by simp), rfl, ?_⟩
  rw [State.errorRecord_hbm, Tbl.get_set_self]

/-! Self-test (R462, R463, R465). -/

namespace State

variable {s : State}

/-- Which of a partition's free tiles stand on a site under test decides whether another may be tested (R462). -/
theorem testRoom_congr {t : State} (hparts : t.parts = s.parts) (htiles : t.tiles = s.tiles) (hrebind : t.rebind = s.rebind)
    (htesting : ∀ n, (t.site n).testing = (s.site n).testing) (l : Nat) : t.testRoom l = s.testRoom l := by
  have part (p : Nat) : t.part p = s.part p := by rw [State.part, State.part, hparts]
  have tile (i : Nat) : t.tile i = s.tile i := by rw [State.tile, State.tile, htiles]
  have bound (i : Nat) : t.tileBound i = s.tileBound i := by rw [tileBound, tileBound, State.bound, State.bound, hrebind]
  have of : t.partOfTile l = s.partOfTile l := by simp only [partOfTile, part]
  have free (p : Nat) : t.freeTiles p = s.freeTiles p := by simp only [freeTiles, part, tile, bound]
  rw [testRoom, testRoom, of]
  cases s.partOfTile l with
  | none => rfl
  | some p => simp only [free, siteOf_congr hrebind, htesting]

/-- A site put under test and taken out again was none under test before. -/
theorem testRoom_tried {site : Nat} (h : (s.site site).testing = false) (l : Nat) :
    ((s.modSite site (fun t => { t with testing := true })).modSite site (fun t => { t with testing := false })).testRoom l
      = s.testRoom l := by
  have testing (n : Nat) : (((s.modSite site (fun t => { t with testing := true })).modSite site
      (fun t => { t with testing := false })).site n).testing = (s.site n).testing := by
    simp only [site_modSite_eq]
    split
    · next hn => rw [hn, h]
    · rfl
  exact testRoom_congr (s := s) (by rfl) (by rfl) (by rfl) testing l

end State

section
variable {s : State} {site : Nat} (hsite : isSite site = true) (hidle : (s.site site).testing = false) (hup : s.siteUp site = true)
include hsite hidle hup

/-- The site of a tile that no task holds is put under test, its keep too where the partner is free (R423, R462). -/
theorem execSelfTestStart_tile {l : Nat} (hl : s.tileAt site = some l) (hlogical : isControlTile l = false)
    (hfree : (s.tile l).crew = none) (hroom : s.testRoom l = true) : ∃ t, execSelfTestStart site s = .next t
      ∧ (t.site site).testing = true ∧ t.mem = s.mem ∧ ((s.tile (s.partnerOf l)).crew = none → (t.site site).keepv = false) := by
  have at_ : (s.modSite site (fun t => { t with testing := true })).tileAt site = some l := hl
  have free : ((s.modSite site (fun t => { t with testing := true })).tile l).crew = none := hfree
  have partner : ((s.modSite site (fun t => { t with testing := true })).tile
      ((s.modSite site (fun t => { t with testing := true })).partnerOf l)).crew = (s.tile (s.partnerOf l)).crew := rfl
  simp only [execSelfTestStart, hsite, hidle, hup, at_, hlogical, free, State.testRoom_tried hidle, hroom, partner, Bool.not_true,
    Bool.or_self, Option.isSome_none, Bool.false_eq_true, if_false]
  cases hp : (s.tile (s.partnerOf l)).crew with
  | none => exact ⟨_, rfl, by simp only [State.site_modSite], rfl, fun _ => by simp only [State.site_modSite]⟩
  | some c => exact ⟨_, rfl, by simp only [State.site_modSite], rfl, nofun⟩

/-- A site of no tile is put under test with its keep (R462). -/
theorem execSelfTestStart_spare (hl : s.tileAt site = none) : ∃ t, execSelfTestStart site s = .next t ∧ (t.site site).testing = true
    ∧ (t.site site).keepv = false ∧ t.mem = s.mem := by
  have at_ : (s.modSite site (fun t => { t with testing := true })).tileAt site = none := hl
  simp only [execSelfTestStart, hsite, hidle, hup, at_, Bool.not_true, Bool.or_self, Bool.false_eq_true, if_false]
  exact ⟨_, rfl, by simp only [State.site_modSite], by simp only [State.site_modSite], rfl⟩

end

/-- The lower of two classes is the greater number (R25). -/
theorem toNat_lower (a b : BitVec 2) : (if a ≤ b then b else a).toNat = max a.toNat b.toNat := by
  split
  · next h => exact (Nat.max_eq_right h).symm
  · next h => exact (Nat.max_eq_left (Nat.le_of_not_le h)).symm

/-- Of a site, what clearing fences leaves as it is. -/
def State.gradeView (s : State) (n : Nat) : Bool × BitVec 2 × Bool × Bool :=
  ((s.site n).testing, (s.site n).cls, (s.site n).hole, (s.site n).unusable)

/-- What an end of a test finds as the clearing of fences leaves it. -/
def State.testEnd (s : State) (n : Nat) : (Bool × BitVec 2 × Bool × Bool) × List Host.Cell × Tbl (BitVec 16) × List Nat :=
  (s.gradeView n, s.mem, s.rebind, s.splices)

theorem State.testEnd_modSite (s : State) (n m : Nat) {f : Site → Site}
    (hf : ∀ t, ((f t).testing, (f t).cls, (f t).hole, (f t).unusable) = (t.testing, t.cls, t.hole, t.unusable)) :
    (s.modSite m f).testEnd n = s.testEnd n := by
  have grade : (s.modSite m f).gradeView n = s.gradeView n := by
    simp only [gradeView, site_modSite_eq]
    split
    · next h => rw [h]; exact hf _
    · rfl
  simp only [testEnd, grade, modSite_mem, modSite_rebind, modSite_splices]

/-- A site's fence is cleared, and nothing of its grade changes (R264, R462). -/
theorem State.unfence_testEnd (s : State) (n : Nat) : (s.unfence n).testEnd n = s.testEnd n := by
  refine (State.testEnd_modSite _ n n ?_).trans ?_
  · exact fun _ => rfl
  refine foldl_keeps (fun u : State => u.testEnd n) _ (fun u m => ?_) _ s
  exact u.testEnd_modSite n m fun _ => rfl

theorem State.unfence_fenced (s : State) (n : Nat) : ((s.unfence n).site n).fenced = false := by
  simp only [unfence, site_modSite]

/-- A site that a test has graded, or whose router keeps its tile's records (R462). -/
theorem State.testEnd_fields {s t : State} {n : Nat} (h : t.testEnd n = s.testEnd n) : (t.site n).testing = (s.site n).testing
    ∧ (t.site n).cls = (s.site n).cls ∧ (t.site n).hole = (s.site n).hole ∧ (t.site n).unusable = (s.site n).unusable
    ∧ t.mem = s.mem ∧ t.rebind = s.rebind ∧ t.splices = s.splices := by
  obtain ⟨⟨htesting, hcls, hhole, hunusable⟩, hmem, hrebind, hsplices⟩ : (_ ∧ _ ∧ _ ∧ _) ∧ _ ∧ _ ∧ _ := by
    simpa only [testEnd, gradeView, Prod.mk.injEq] using h
  exact ⟨htesting, hcls, hhole, hunusable, hmem, hrebind, hsplices⟩

/-- The class that a test leaves a site: its own, that of the outcome or that it waits for, whichever is lowest (R462, R468). -/
def Site.testedClass (t : Site) (o : TestOutcome) : BitVec 2 :=
  let low (a b : BitVec 2) : BitVec 2 := if a ≤ b then b else a
  low (low t.cls (testGrade o).1) (t.grade.getD 0)

theorem Site.testedClass_toNat (t : Site) (o : TestOutcome) :
    (t.testedClass o).toNat = max (max t.cls.toNat (testGrade o).1.toNat) (t.grade.getD 0).toNat := by
  simp only [testedClass, toNat_lower]

/-- The failure of a test is recorded (R465). -/
def State.testRecorded (s : State) (site : Nat) (o : TestOutcome) : State :=
  let u : State := if (testGrade o).2.2.2.isNone then { s with free := s.free + 1 } else s
  if o = .pass then u else u.errorRecord 3 0 site 0xFF ((testGrade o).2.2.2.getD (Config.freeByte s.free)) 0 0

theorem State.testRecorded_keeps (s : State) (site : Nat) (o : TestOutcome) :
    ((s.testRecorded site o).sites, (s.testRecorded site o).mem, (s.testRecorded site o).rebind) = (s.sites, s.mem, s.rebind) := by
  rw [testRecorded]
  (repeat' split) <;> rfl

/-- The site has its grade and meets no fence (R264, R462). -/
def State.testGraded (s : State) (site : Nat) (o : TestOutcome) : State :=
  let cls := (s.site site).testedClass o
  ((s.testRecorded site o).modSite site (fun t => { t with
    testing := false, cls, hole := t.hole || (testGrade o).2.1, grade := none
    unusable := if (controlOf site).isSome then decide (2 ≤ cls.toNat) else cls != 0
    svtest := State.testWord t.svtest (testGrade o).2.2.1 ((testGrade o).2.2.2.getD (Config.freeByte s.free)) (s.testRecorded site o).sys.rtime })).unfence site

/-- A logical tile leaves a site that is not of class 0 (R462). -/
def State.leaveBelow (s : State) (site : Nat) (cls : BitVec 2) : State :=
  match s.tileAt site with
  | some l => if cls = 0 || isControlTile l || s.splices.contains site then s else { s with splices := s.splices ++ [site] }
  | none => s

theorem execSelfTestComplete_steps {s : State} {site : Nat} (o : TestOutcome) (h : (s.site site).testing = true) :
    execSelfTestComplete site o s = .next ((s.testGraded site o).leaveBelow site ((s.site site).testedClass o)) := by
  have next_ite {c : Prop} [Decidable c] (x y : State) : (if c then (.next x : Ans) else .next y) = .next (if c then x else y) := by
    split <;> rfl
  rw [execSelfTestComplete]
  simp only [h, Bool.not_true, Bool.false_eq_true, if_false, next_ite]
  rw [State.leaveBelow]
  change (match (s.testGraded site o).tileAt site with
    | some l => _
    | none => _) = _
  cases (s.testGraded site o).tileAt site <;> rfl

theorem State.site_of_sites {s t : State} (h : t.sites = s.sites) (n : Nat) : t.site n = s.site n := by
  rw [State.site, State.site, h]

/-- A site with its grade, and what else its grading keeps (R25, R462, R468). -/
theorem State.testGraded_site (s : State) (site : Nat) (o : TestOutcome) : let t := s.testGraded site o
    (t.site site).testing = false ∧ (t.site site).fenced = false ∧ (t.site site).cls = (s.site site).testedClass o
      ∧ (t.site site).hole = ((s.site site).hole || (testGrade o).2.1)
      ∧ (t.site site).unusable = (if (controlOf site).isSome then decide (2 ≤ ((s.site site).testedClass o).toNat)
          else (s.site site).testedClass o != 0)
      ∧ t.mem = s.mem ∧ t.rebind = s.rebind := by
  obtain ⟨hsites, hmem, hrebind⟩ : _ ∧ _ ∧ _ := by simpa only [Prod.mk.injEq] using s.testRecorded_keeps site o
  have hsite : (s.testRecorded site o).site site = s.site site := site_of_sites hsites site
  obtain ⟨testing, cls, hole, unusable, mem, rebind, -⟩ := State.testEnd_fields (State.unfence_testEnd ((s.testRecorded site o).modSite site _) site)
  rw [site_modSite] at testing cls hole unusable
  rw [hsite] at hole
  exact ⟨testing, State.unfence_fenced .., cls, hole, unusable, mem.trans hmem, rebind.trans hrebind⟩

/-- The end of a test leaves the site as it is graded, and below C0 its logical tile is to leave it (R462). -/
theorem State.leaveBelow_splices (s : State) (site : Nat) (cls : BitVec 2) : (s.leaveBelow site cls).sites = s.sites
    ∧ (s.leaveBelow site cls).mem = s.mem
    ∧ ∀ l, s.tileAt site = some l → isControlTile l = false → cls ≠ 0 → site ∈ (s.leaveBelow site cls).splices := by
  rw [leaveBelow]
  cases s.tileAt site with
  | none => exact ⟨rfl, rfl, nofun⟩
  | some l =>
    dsimp only
    split
    · next h =>
      refine ⟨rfl, rfl, fun _ hl hlogical hcls => ?_⟩
      cases hl
      have zero : decide (cls = 0) = false := decide_eq_false hcls
      rw [zero, hlogical] at h
      exact List.contains_iff_mem.mp h
    · exact ⟨rfl, rfl, fun _ _ _ _ => List.mem_append_right _ List.mem_cons_self⟩

/-- A test ends: the site has the lowest of its classes, it meets no fence, and below C0 its tile leaves it (R25, R264, R462, R468). -/
theorem execSelfTestComplete_grades {s : State} {site : Nat} (o : TestOutcome) (htesting : (s.site site).testing = true) :
    ∃ t, execSelfTestComplete site o s = .next t ∧ (t.site site).testing = false ∧ (t.site site).fenced = false ∧ t.mem = s.mem
      ∧ (t.site site).cls.toNat = max (max (s.site site).cls.toNat (testGrade o).1.toNat) (((s.site site).grade.getD 0).toNat)
      ∧ (t.site site).hole = ((s.site site).hole || (testGrade o).2.1)
      ∧ (t.site site).unusable = (if (controlOf site).isSome then decide (2 ≤ (t.site site).cls.toNat) else decide ((t.site site).cls ≠ 0))
      ∧ ∀ l, s.tileAt site = some l → isControlTile l = false → (t.site site).cls ≠ 0 → site ∈ t.splices := by
  refine ⟨_, execSelfTestComplete_steps o htesting, ?_⟩
  obtain ⟨testing, fenced, cls, hole, unusable, mem, rebind⟩ := s.testGraded_site site o
  obtain ⟨sites, hmem, leaves⟩ := (s.testGraded site o).leaveBelow_splices site ((s.site site).testedClass o)
  have hsite : ((s.testGraded site o).leaveBelow site ((s.site site).testedClass o)).site site = (s.testGraded site o).site site :=
    State.site_of_sites sites site
  have at_ : (s.testGraded site o).tileAt site = s.tileAt site := by rw [State.tileAt, State.tileAt, rebind]
  have worse : ((s.site site).testedClass o != 0) = decide ((s.site site).testedClass o ≠ 0) := by
    rw [Bool.eq_iff_iff, bne_iff_ne, decide_eq_true_iff]
  rw [hsite, cls, ← at_]
  exact ⟨testing, fenced, hmem.trans mem, Site.testedClass_toNat .., hole, unusable.trans (by rw [worse]), leaves⟩

/-- Settles O57, event by event. -/
theorem serviceEvents : Obligations.ServiceEvents := by
  intro s field site
  simp only [exec]
  exact ⟨fun hpower hcool => ⟨execThermalThrottle_free hpower hcool, fun c => execThermalThrottle_strict hpower hcool,
      execThermalThrottle_reached hpower hcool⟩, fun cycles hpower => execDroopStretch_stretches hpower cycles,
    fun mv hjoined hpower => execMarginReplan_sets mv hjoined hpower,
    fun stack channel hchannel => ⟨execHbmRepairStart_holds hchannel, execHbmRepairDone_resumes⟩,
    fun hsite hidle hup => ⟨fun l => execSelfTestStart_tile hsite hidle hup, execSelfTestStart_spare hsite hidle hup⟩,
    execSelfTestComplete_grades⟩

end Sys2Proof.Machine
end

section
/-! Crews (O55): the end of a replay, a halted crew with its stop records, reconfiguration, and the deep-belay image with its
restore (R399, R400, R413, R431-R434). -/

namespace Sys2Proof.Machine

namespace State

variable {s : State} {crew : Nat}

/-! The end of a replay (R431). -/

/-- A replay of a crew is over: it has no target, and nothing of its log is left to apply. -/
def replayOver (s : State) (crew : Nat) : Prop := (s.crew crew).replayTo = none ∧ (s.crew crew).redo = []

theorem replayOver.of_crews {t : State} (h : s.replayOver crew) (hcrews : t.crews = s.crews) : t.replayOver crew := by
  have same : t.crew crew = s.crew crew := congrArg (fun l : Tbl Crew => Tbl.get ({} : Crew) l crew) hcrews
  rwa [replayOver, same]

theorem replayOver.logEv (h : s.replayOver crew) (tile : Nat) (e : LogEv) (n : Nat) : (s.logEv tile e n).replayOver crew := by
  obtain ⟨hto, hredo⟩ := h
  simp only [State.logEv]
  split
  · exact ⟨hto, hredo⟩
  · next c _ =>
    split <;> simp only [replayOver, crew_modSite, crew_modCrew_eq] <;> split
    · next hc =>
      subst hc
      exact ⟨hto, congrArg (List.eraseIdx · _) hredo⟩
    · exact ⟨hto, hredo⟩
    · next hc =>
      subst hc
      exact ⟨hto, hredo⟩
    · exact ⟨hto, hredo⟩

/-- A property that every step of a fold keeps. -/
theorem foldl_holds {α : Type} {P : State → Prop} {f : State → α → State} (h : ∀ s a, P s → P (f s a)) (l : List α) :
    ∀ s, P s → P (l.foldl f s) := by
  induction l with
  | nil => exact fun _ hs => hs
  | cons a rest ih => exact fun s hs => ih _ (h s a hs)

theorem replayOver.endBlay (h : s.replayOver crew) (c lo v : Nat) : (s.endBlay c lo v).replayOver crew := by
  refine foldl_holds (P := fun s => s.replayOver crew) (fun s k hs => ?_) _ s h
  dsimp only
  split
  · split
    · exact hs
    · split
      · exact hs.of_crews rfl
      · exact (hs.of_crews (completeX_crews ..)).logEv ..
  · exact hs

end State

/-- The crew as REPLAY_END leaves it, before BLAY.w returns: routes checked again, and no replay (R431, R432). -/
def State.replayEnded (s : State) (crew : Nat) : State :=
  (((s.crewTiles crew).foldl (fun s t => s.modTile t (fun i => { i with routes := s.routesNow t })) s).switchElastic crew).modCrew
    crew (fun w => { w with replayTo := none, redo := [], unlinked := false })

theorem State.replayEnded_over (s : State) (crew : Nat) : (s.replayEnded crew).replayOver crew := by
  simp only [replayOver, replayEnded, crew_modCrew, and_self]

theorem State.replayEnded_store (s : State) (crew : Nat) : (s.replayEnded crew).store = s.store := by
  rw [replayEnded, modCrew_store, switchElastic_store, foldl_store _ fun _ _ => modTile_store ..]

theorem execReplayEnd_ends {s : State} {crew h : Nat} (hto : (s.crew crew).replayTo = some h) (hlive : (s.crew crew).live = true)
    (hreached : ∀ t ∈ s.crewTiles crew, h ≤ (s.tile t).vcc) :
    ∃ t, execReplayEnd crew s = .next t ∧ (t.crew crew).replayTo = none ∧ (t.crew crew).redo = [] ∧ t.mem = s.mem := by
  have reached : ((s.crewTiles crew).all fun t => decide (h ≤ (s.tile t).vcc)) = true :=
    List.all_eq_true.mpr fun t ht => decide_eq_true (hreached t ht)
  have steps : execReplayEnd crew s = .next (((s.replayEnded crew).blayDue crew).eraseDups.foldl
      (fun s v => s.endBlay crew (v - 1) v) (s.replayEnded crew)) := by
    simp only [execReplayEnd, hto, hlive, reached, State.replayEnded]
    rfl
  obtain ⟨target, redo⟩ := State.foldl_holds (P := fun s => s.replayOver crew) (f := fun s v => s.endBlay crew (v - 1) v)
    (fun s v hs => hs.endBlay crew (v - 1) v) ((s.replayEnded crew).blayDue crew).eraseDups _ (s.replayEnded_over crew)
  exact ⟨_, steps, target, redo, State.mem_of_store ((State.foldl_store _ (fun _ _ => State.endBlay_store ..) _ _).trans
    (s.replayEnded_store crew))⟩

/-! A halted crew (R399, R400). -/

/-- The stop words of a core: the horizon, and the messages sent and received (R400). -/
def Core.stopped (k : Core) (h mrecv : Nat) : Core :=
  { k with stop0 := 1#1 ++ BitVec.ofNat 63 h, stop1 := k.msent.setWidth 64, stop2 := BitVec.ofNat 64 (mrecv % 2 ^ 32) }

namespace State

variable {s : State} {crew h : Nat}

/-- The stop record of one core, given as tile and core of the tile. -/
def recordStop (h : Nat) (s : State) (p : Nat × Nat) : State :=
  s.modCore (coreKey p.1 p.2) (fun k => k.stopped h (s.tile p.1).mrecv)

/-- What a core's stop words read in one state are those of another state. -/
def stopsAs (u s : State) (h : Nat) (p : Nat × Nat) : Prop :=
  let k := u.core (coreKey p.1 p.2)
  k.stop0 = 1#1 ++ BitVec.ofNat 63 h ∧ k.stop1 = (s.core (coreKey p.1 p.2)).msent.setWidth 64
    ∧ k.stop2 = BitVec.ofNat 64 ((s.tile p.1).mrecv % 2 ^ 32)

/-- Every core of a list has its stop words once each has been recorded: what they are made of does not change meanwhile. -/
theorem foldl_recordStop (l : List (Nat × Nat)) (hl : ∀ p ∈ l, p.2 < 4) : ∀ u : State, u.tiles = s.tiles →
    (∀ j, (u.core j).msent = (s.core j).msent) → ∀ p : Nat × Nat, p.2 < 4 → p ∈ l ∨ u.stopsAs s h p →
    (l.foldl (recordStop h) u).stopsAs s h p := by
  induction l with
  | nil => exact fun u _ _ p _ hp => hp.resolve_left List.not_mem_nil
  | cons q rest ih =>
    intro u htiles hsent p hp4 hp
    have hq4 := hl q List.mem_cons_self
    have tile : (u.tile q.1).mrecv = (s.tile q.1).mrecv := by rw [State.tile, State.tile, htiles]
    have core (j : Nat) : (recordStop h u q).core j
        = if j = coreKey q.1 q.2 then (u.core j).stopped h (s.tile q.1).mrecv else u.core j := by
      rw [recordStop, core_modCore_eq, tile]
      split
      · next hj => rw [hj]
      · rfl
    refine ih (fun x hx => hl x (List.mem_cons_of_mem _ hx)) (recordStop h u q) htiles (fun j => ?_) p hp4 ?_
    · rw [core]
      split
      · exact hsent j
      · exact hsent j
    · by_cases heq : p = q
      · subst heq
        exact .inr (by simp only [stopsAs, core, if_pos, Core.stopped, hsent, and_self])
      · refine hp.imp (fun h => (List.mem_cons.mp h).resolve_left heq) fun hs => ?_
        have other : coreKey p.1 p.2 ≠ coreKey q.1 q.2 := fun hkey => heq (by
          simp only [coreKey] at hkey
          exact Prod.ext (by omega) (by omega))
        simpa only [stopsAs, core, if_neg other] using hs

/-- The stop records of a crew: every core of every tile of it. -/
theorem crewStops_eq (s : State) (h : Nat) (l : List Nat) :
    l.foldl (fun s t => (List.range 4).foldl (fun s c => s.modCore (coreKey t c) (fun k => { k with
      stop0 := 1#1 ++ BitVec.ofNat 63 h, stop1 := k.msent.setWidth 64, stop2 := BitVec.ofNat 64 ((s.tile t).mrecv % 2 ^ 32) })) s) s
    = (l.flatMap fun t => (List.range 4).map fun c => (t, c)).foldl (recordStop h) s := by
  simp only [List.foldl_flatMap, List.foldl_map]
  rfl

/-- STOP returns where every crew that it names has halted (R410). -/
def stopReturn (s : State) (k : Nat) : State :=
  match (s.ctx k).wait with
  | .stop d p t => if (s.runningCrews p t).all (fun c => !(s.crew c).stopHold || (s.crew c).haltDone) then s.completeX k d 0 2 else s
  | _ => s

/-- The stop words of all cores. -/
def stopWords (s : State) (j : Nat) : Word × Word × Word := ((s.core j).stop0, (s.core j).stop1, (s.core j).stop2)

theorem completeX_stopWords (k : Nat) (d : BitVec 6) (v : Word) (lat j : Nat) : (s.completeX k d v lat).stopWords j = s.stopWords j := by
  have late (u : State) : (u.complete k).stopWords j = u.stopWords j := by
    simp only [stopWords, complete, core_modCtx, landLate, core_modCore_eq]
    split
    · next hj => rw [hj]
    · rfl
  rw [completeX, late, putX]
  split
  · rfl
  · split
    · rfl
    · simp only [stopWords, core_modCore_eq]
      split
      · next hj => rw [hj]
      · rfl

theorem stopReturn_keeps (k : Nat) : (s.stopReturn k).crews = s.crews ∧ (∀ j, (s.stopReturn k).stopWords j = s.stopWords j)
    ∧ (s.stopReturn k).mem = s.mem := by
  simp only [stopReturn]
  split
  · split
    · exact ⟨completeX_crews .., fun j => completeX_stopWords .., mem_of_store (completeX_store ..)⟩
    · exact ⟨rfl, fun _ => rfl, rfl⟩
  · exact ⟨rfl, fun _ => rfl, rfl⟩

end State

theorem execHaltComplete_records {s : State} {crew h : Nat} (hhalt : (s.crew crew).haltAt = some h) (hlive : (s.crew crew).live = true)
    (hdone : (s.crew crew).haltDone = false)
    (hstopped : ∀ t ∈ s.crewTiles crew, (s.site (s.siteOf t)).fenced = true ∨ (s.tile t).halted = true ∧ h ≤ (s.tile t).vcc)
    (hsettled : s.settled crew = true) :
    ∃ u, execHaltComplete crew s = .next u ∧ (u.crew crew).haltDone = true ∧ u.mem = s.mem
      ∧ ∀ t ∈ s.crewTiles crew, ∀ c, c < 4 → u.stopsAs s h (t, c) := by
  have stopped : ((s.crewTiles crew).all fun t =>
      !!(s.site (s.siteOf t)).fenced || (s.tile t).halted && decide (h ≤ (s.tile t).vcc)) = true :=
    List.all_eq_true.mpr fun t ht => by simpa using hstopped t ht
  let l := (s.crewTiles crew).flatMap fun t => (List.range 4).map fun c => (t, c)
  let r := l.foldl (State.recordStop h) s
  let u := r.modCrew crew (fun w => { w with haltDone := true })
  have steps : execHaltComplete crew s
      = .next ((u.waiters (fun w => match w with | .stop .. => true | _ => false)).foldl State.stopReturn u) := by
    simp only [execHaltComplete, hhalt, hlive, hdone, stopped, hsettled, State.crewStops_eq]
    rfl
  have small : ∀ p ∈ l, p.2 < 4 := by
    simp only [l, List.mem_flatMap, List.mem_map, List.mem_range]
    rintro p ⟨t, -, c, hc, rfl⟩
    exact hc
  let z := (u.waiters (fun w => match w with | .stop .. => true | _ => false)).foldl State.stopReturn u
  have crews : z.crews = u.crews := foldl_keeps (fun s => s.crews) State.stopReturn (fun s k => State.stopReturn_keeps k |>.1) _ u
  have words (j : Nat) : z.stopWords j = r.stopWords j :=
    foldl_keeps (fun s => s.stopWords j) State.stopReturn (fun s k => (State.stopReturn_keeps k).2.1 j) _ u
  have mem : z.mem = r.mem := foldl_keeps (fun s => s.mem) State.stopReturn (fun s k => (State.stopReturn_keeps k).2.2) _ u
  refine ⟨z, steps, ?_, mem.trans (foldl_keeps (fun s => s.mem) (State.recordStop h) (fun _ _ => rfl) l s), fun t ht c hc => ?_⟩
  · have same : z.crew crew = u.crew crew := congrArg (fun l : Tbl Crew => Tbl.get ({} : Crew) l crew) crews
    rw [same]
    simp only [u, State.crew_modCrew]
  · have mine : (t, c) ∈ l := List.mem_flatMap.mpr ⟨t, ht, List.mem_map.mpr ⟨c, List.mem_range.mpr hc, rfl⟩⟩
    have recorded : r.stopsAs s h (t, c) := State.foldl_recordStop l small s rfl (fun _ => rfl) (t, c) hc (.inl mine)
    have hw := words (coreKey t c)
    simp only [State.stopWords, Prod.mk.injEq] at hw
    obtain ⟨stop0, stop1, stop2⟩ := hw
    simpa only [State.stopsAs, stop0, stop1, stop2] using recorded

/-! Reconfiguration of a partition (R30, R413, R433). -/

theorem belowFloor_iff (before after : Nat) : belowFloor before after = true ↔ after < before ∧ after < 552 := by
  simp only [belowFloor, Bool.and_eq_true, decide_eq_true_eq]

theorem State.pairUp_keeps (fuel : Nat) : ∀ (s : State) (ts : List Nat),
    (s.pairUp fuel ts).parts = s.parts ∧ (s.pairUp fuel ts).ctxs = s.ctxs ∧ (s.pairUp fuel ts).mem = s.mem := by
  induction fuel with
  | zero => exact fun _ _ => ⟨rfl, rfl, rfl⟩
  | succ fuel ih =>
    intro s ts
    cases ts with
    | nil => exact ⟨rfl, rfl, rfl⟩
    | cons t rest =>
      simp only [pairUp]
      split
      · exact ih _ _
      · exact ih _ _

/-- A crew that is live in a partition, has not ended and does not lie within the tiles it is to have (R433). -/
def Crew.outside (w : Crew) (part base count : Nat) : Bool :=
  w.live && w.part == part && w.st != .ended && !(decide (base ≤ w.t0) && decide (w.t0 + w.blk.cols * w.blk.rows ≤ base + count))

theorem Crew.outside_iff (w : Crew) (part base count : Nat) : w.outside part base count = false ↔
    (w.live = true → w.part = part → w.st = .ended ∨ base ≤ w.t0 ∧ w.t0 + w.blk.cols * w.blk.rows ≤ base + count) := by
  simp only [outside, Bool.and_eq_false_iff, Bool.not_eq_false', Bool.and_eq_true, decide_eq_true_eq, beq_eq_false_iff_ne,
    bne_eq_false_iff_eq]
  cases w.live <;> grind

namespace State

variable {s : State} {part base count : Nat}

/-- Another partition's tiles overlap those from `base` on. -/
def clashes (s : State) (part base count : Nat) : Bool :=
  (List.range 16).any (fun p => p != part && decide ((s.part p).base < base + count)
    && decide (base < (s.part p).base + (s.part p).count))

theorem clashes_iff : s.clashes part base count = true ↔
    ∃ p, p < 16 ∧ p ≠ part ∧ (s.part p).base < base + count ∧ base < (s.part p).base + (s.part p).count := by
  simp only [clashes, List.any_eq_true, List.mem_range, Bool.and_eq_true, bne_iff_ne, decide_eq_true_eq, and_assoc]

/-- The tiles marked for retirement that no crew has. -/
def goneTiles (s : State) : List Nat := s.sys.retire.filter (fun t => (s.tile t).crew.isNone)

/-- The free tiles marked for retirement become spares (R433). -/
def retireTiles (s : State) : State :=
  { s with
    rebind := s.goneTiles.foldl (fun m t => Tbl.set 0xFFFF m t 0xFFFF) s.rebind
    sys := { s.sys with
      retire := s.sys.retire.filter (fun t => !s.goneTiles.contains t), sell := s.sys.sell - BitVec.ofNat 16 s.goneTiles.length } }

/-- The partners of those tiles that stay (R413). -/
def orphanedTiles (s : State) : List Nat := (s.goneTiles.map s.partnerOf).filter (fun u => !s.goneTiles.contains u && s.tileBound u)

/-- A partition takes its tiles. -/
def takeTiles (s : State) (part base count : Nat) : State := s.setPart part { s.part part with base, count }

end State

theorem execPartitionReconfiguration_clash {s : State} {part base count : Nat} (h : s.clashes part base count = true) :
    execPartitionReconfiguration part base count s = .next s := by
  have clash : ((List.range 16).any fun p => p != part && decide ((s.part p).base < base + count)
      && decide (base < (s.part p).base + (s.part p).count)) = true := h
  simp only [execPartitionReconfiguration, clash, Bool.or_true, Bool.true_or, if_true]

/-- A reconfiguration with nothing in its way is refused only where spares would fall below their floor (R30). -/
theorem execPartitionReconfiguration_steps {s : State} {part base count : Nat} (hpart : part < 16) (hend : base + count ≤ 0x8000)
    (hin : (s.crews.any fun e => e.2.outside part base count) = false) (hfree : s.clashes part base count = false) :
    let u := s.takeTiles part base count
    execPartitionReconfiguration part base count s
      = if !u.goneTiles.isEmpty && belowFloor u.spares.length u.retireTiles.spares.length then .next s
        else .next (u.retireTiles.pairUp u.orphanedTiles.length u.orphanedTiles) := by
  have held : (s.crews.any fun e => e.2.live && e.2.part == part && e.2.st != .ended
      && !(decide (base ≤ e.2.t0) && decide (e.2.t0 + e.2.blk.cols * e.2.blk.rows ≤ base + count))) = false := hin
  have clash : ((List.range 16).any fun p => p != part && decide ((s.part p).base < base + count)
      && decide (base < (s.part p).base + (s.part p).count)) = false := hfree
  have bounds : ¬((false || false || decide (16 ≤ part) || decide (0x8000 < base + count)) = true) := by
    simp only [Bool.false_or, Bool.or_eq_true, decide_eq_true_eq]
    omega
  simp only [execPartitionReconfiguration, held, clash]
  exact if_neg bounds

theorem execPartitionReconfiguration_takes {s : State} {part base count : Nat} (hpart : part < 16) (hend : base + count ≤ 0x8000)
    (hin : (s.crews.any fun e => e.2.outside part base count) = false) (hfree : s.clashes part base count = false) :
    ∃ t, execPartitionReconfiguration part base count s = .next t ∧ t.mem = s.mem ∧ t.ctxs = s.ctxs
      ∧ ((∀ x ∈ s.sys.retire, (s.tile x).crew ≠ none) → (t.part part).base = base ∧ (t.part part).count = count)
      ∧ (t ≠ s → (t.part part).base = base ∧ (t.part part).count = count) := by
  let u := s.takeTiles part base count
  obtain ⟨parts, ctxs, mem⟩ := State.pairUp_keeps u.orphanedTiles.length u.retireTiles u.orphanedTiles
  have taken : ((u.retireTiles.pairUp u.orphanedTiles.length u.orphanedTiles).part part).base = base
      ∧ ((u.retireTiles.pairUp u.orphanedTiles.length u.orphanedTiles).part part).count = count := by
    have same : (u.retireTiles.pairUp u.orphanedTiles.length u.orphanedTiles).part part = u.part part :=
      congrArg (fun l : Tbl Part => Tbl.get ({} : Part) l part) parts
    rw [same]
    simp only [u, State.takeTiles, State.part_setPart, and_self]
  rw [execPartitionReconfiguration_steps hpart hend hin hfree]
  split
  · next h =>
    refine ⟨s, rfl, rfl, rfl, fun hnone => absurd h ?_, fun hne => absurd rfl hne⟩
    have none_ : (s.takeTiles part base count).goneTiles = [] := List.filter_eq_nil_iff.mpr fun x hx => by
      rw [Option.isNone_iff_eq_none]
      exact hnone x hx
    simp only [none_, List.isEmpty_nil, Bool.not_true, Bool.false_and, Bool.false_eq_true, not_false_eq_true]
  · exact ⟨_, rfl, mem, ctxs, fun _ => taken, fun _ => taken⟩

/-! The deep-belay image (R434). -/

namespace State

/-- The crews that a deep-belay image holds: those halted at their deep cuts (R434). -/
def deepCrews (s : State) : List Nat := (s.crews.filter (fun e => e.2.live && e.2.deepHold)).map Prod.fst

/-- The deep-belay image of the machine as it is (R434). -/
def deepImage (s : State) : Deep :=
  let mine (t : Nat) : Bool := s.deepCrews.any (fun c => s.inCrew c t)
  { mem := s.mem, sites := s.sites, crews := s.crews.filter (fun e => s.deepCrews.contains e.1),
    tiles := s.tiles.filter (fun e => mine e.1), cores := s.cores.filter (fun e => mine (tileOfCore e.1)),
    ctxs := s.ctxs.filter (fun e => mine (tileOfCtx e.1)) }

/-- The machine with its image written. -/
def deepWritten (s : State) : State := { s with deep := some s.deepImage, sys := { s.sys with deepReq := none } }

/-- A crew leaves its deep cut (R434). -/
def deepRelease (s : State) (c : Nat) : State :=
  (s.modCrew c (fun w => { w with deepHold := false, deepCut := none })).unhalt c

theorem modTiles_sys (s : State) (crew : Nat) (f : Tile → Tile) : (s.modTiles crew f).sys = s.sys :=
  foldl_keeps (fun s => s.sys) (fun s t => s.modTile t f) (fun _ _ => rfl) _ s

theorem deepRelease_sys (s : State) (c : Nat) : (s.deepRelease c).sys = s.sys := modTiles_sys ..

theorem deepRelease_store (s : State) (c : Nat) : (s.deepRelease c).store = s.store := unhalt_store ..

end State

theorem State.completeX_sys (s : State) (k : Nat) (d : BitVec 6) (v : Word) (lat : Nat) : (s.completeX k d v lat).sys = s.sys := by
  simp only [completeX, putX]
  split
  · rfl
  · split <;> rfl

theorem execDeepBelayImageWritten_writes {s : State} {k : Nat} (hreq : s.sys.deepReq = some k) (hready : s.deepReady = true)
    (hheld : s.sys.held = []) :
    ∃ t d, execDeepBelayImageWritten s = .next t ∧ t.deep = some d ∧ d.mem = s.mem ∧ d.sites = s.sites ∧ t.sys.deepReq = none
      ∧ t.mem = s.mem := by
  have held : s.sys.held.isEmpty = true := List.isEmpty_iff.mpr hheld
  let u := s.deepCrews.foldl State.deepRelease s.deepWritten
  have steps : execDeepBelayImageWritten s = .next (match (u.ctx k).wait with | .blayDeep x => u.completeX k x 0 2 | _ => u) := by
    simp only [execDeepBelayImageWritten, hreq, hready, held, Bool.not_true, Bool.or_false, Bool.false_eq_true, if_false]
    rfl
  have sys : u.sys = s.deepWritten.sys := foldl_keeps (fun s => s.sys) State.deepRelease State.deepRelease_sys _ _
  have store : u.store = s.deepWritten.store := State.foldl_store _ State.deepRelease_store _ _
  have kept (t : State) (hsys : t.sys = u.sys) (hstore : t.store = u.store) :
      t.deep = some s.deepImage ∧ t.sys.deepReq = none ∧ t.mem = s.mem :=
    ⟨congrArg Prod.snd (hstore.trans store), by rw [hsys, sys]; rfl, congrArg Prod.fst (hstore.trans store)⟩
  rw [steps]
  split
  · obtain ⟨deep, req, mem⟩ := kept _ (State.completeX_sys ..) (State.completeX_store ..)
    exact ⟨_, _, rfl, deep, rfl, rfl, req, mem⟩
  · obtain ⟨deep, req, mem⟩ := kept _ rfl rfl
    exact ⟨_, _, rfl, deep, rfl, rfl, req, mem⟩

theorem Tbl.find_append {α : Type} (t u : Tbl α) (k : Nat) : Tbl.find (t ++ u) k = (Tbl.find t k).or (Tbl.find u k) := by
  induction t with
  | nil => rfl
  | cons e rest ih =>
    obtain ⟨j, v⟩ := e
    simp only [List.cons_append, Tbl.find]
    split
    · rfl
    · exact ih

/-- Memory as a deep restore makes it: of the image outside the second tier, of the memory there in it (R434). -/
def restoredMem (old now : List Host.Cell) : List Host.Cell :=
  ((old.filter fun e => !secondTier e.1).filter fun e => decide (e.1 < 2 ^ 48)) ++ (now.filter fun e => secondTier e.1)
    ++ (old.filter fun e => !secondTier e.1).filter fun e => decide (2 ^ 48 ≤ e.1)

theorem memRead_restoredMem (old now : List Host.Cell) (a : Nat) :
    memRead (restoredMem old now) a = if secondTier a then memRead now a else memRead old a := by
  have low := Tbl.find_filter_key (fun k => decide (k < 2 ^ 48)) (old.filter fun e => !secondTier e.1) a
  have high := Tbl.find_filter_key (fun k => decide (2 ^ 48 ≤ k)) (old.filter fun e => !secondTier e.1) a
  have mid := Tbl.find_filter_key secondTier now a
  have image := Tbl.find_filter_key (fun k => !secondTier k) old a
  simp only [memRead, restoredMem, Tbl.get, Tbl.find_append, low, mid, high, image]
  cases secondTier a with
  | true => simp
  | false =>
    obtain h | h := Nat.lt_or_ge a (2 ^ 48)
    · simp [decide_eq_true h, decide_eq_false (Nat.not_le.mpr h), -Nat.reducePow]
    · simp [decide_eq_false (Nat.not_lt.mpr h), decide_eq_true h, -Nat.reducePow]

theorem execDeepRestore_restores {s : State} {d : Deep} (hdeep : s.deep = some d) (hnone : ∀ e ∈ s.crews, e.2.live = false)
    (hjoined : (s.field anchorField).joined = true) :
    ∃ t, execDeepRestore s = .next t ∧ t.deep = some d
      ∧ ∀ a, memRead t.mem a = if secondTier a then memRead s.mem a else memRead d.mem a := by
  have none_ : (s.crews.any fun e => e.2.live) = false := List.any_eq_false.mpr fun e he => by
    simp only [hnone e he, Bool.false_eq_true, not_false_eq_true]
  let u : State := { s with mem := restoredMem d.mem s.mem }
  have steps : execDeepRestore s = .next (d.crews.foldl (fun s e => s.deepCrew d e.1 e.2) u) := by
    simp only [execDeepRestore, u, hdeep, none_, hjoined, Bool.not_true, Bool.or_false, Bool.false_eq_true, if_false]
    rfl
  have store : (d.crews.foldl (fun s e => s.deepCrew d e.1 e.2) u).store = (restoredMem d.mem s.mem, s.deep) :=
    State.foldl_store _ (fun _ _ => State.deepCrew_store ..) _ u
  refine ⟨_, steps, (congrArg Prod.snd store).trans hdeep, fun a => ?_⟩
  rw [← memRead_restoredMem]
  exact congrArg (memRead · a) (congrArg Prod.fst store)

/-- Settles O55, event by event. -/
theorem crewEvents : Obligations.CrewEvents := by
  intro s crew
  simp only [exec]
  refine ⟨fun h => execReplayEnd_ends, fun h => execHaltComplete_records, fun part base count hpart hend hin hfree => ?_,
    fun part base count p hp hne hlow hhigh => execPartitionReconfiguration_clash (State.clashes_iff.mpr ⟨p, hp, hne, hlow, hhigh⟩),
    belowFloor_iff, fun k => execDeepBelayImageWritten_writes, fun d => execDeepRestore_restores⟩
  refine execPartitionReconfiguration_takes hpart hend (List.any_eq_false.mpr fun e he => ?_) ?_
  · rw [Bool.not_eq_true]
    exact (e.2.outside_iff part base count).mpr (hin e he)
  · rw [Bool.eq_false_iff]
    intro h
    obtain ⟨p, hp, hne, hlow, hhigh⟩ := State.clashes_iff.mp h
    have := hfree p hp hne
    omega

end Sys2Proof.Machine
end

section
/-! Live update (O60): quiesce, QBOOT and the heartbeat; the trust block; and the SPDM responder (R450-R457). -/

namespace Sys2Proof.Machine

section
variable {s : State} {v : Word}

/-! Quiesce (R456, R457). -/

theorem execQuiesce_sets (hq : v.getLsbD 0 = true) (pa : Nat) (hpa : pa = (v.extractLsb' 6 42).toNat * 64) :
    execQuiesce v s = .next (if paUnit pa < 0x30 ∧ s.paOk pa = true
      then { s with sys := { s.sys with qsc := v &&& 0x0000FFFFFFFFFFC1 } } else s) := by
  subst hpa
  simp only [execQuiesce, State.writeQsc, hq, if_true, State.modSys, Bool.and_eq_true, decide_eq_true_eq]

theorem execQuiesceRelease_settles (hq : v.getLsbD 0 = false) : execQuiesceRelease v s = .next ((List.range 4).foldl State.hostSettle
    (s.modSys (fun y => { y with qsc := v &&& 0x0000FFFFFFFFFFC1, qdone := false }))) := by
  simp only [execQuiesceRelease, State.writeQsc, hq, Bool.false_eq_true, if_false]

theorem execQuiesceDone_freezes {body : List Byte} (pa : Nat) (hpa : pa = (s.sys.qsc.extractLsb' 6 42).toNat * 64 + 64)
    (hq : s.quiesced = true) (hdone : s.sys.qdone = false) (hidle : ∀ f, f < 4 → (s.host f).busy = false)
    (hrange : s.rangeOk pa body.length = true) :
    ∃ t, execQuiesceDone body s = .next t ∧ t.mem = memWriteN s.mem pa body ∧ t.sys.qdone = true
      ∧ t.sys.stlen = BitVec.ofNat 64 body.length ∧ t.ctxs = s.ctxs := by
  subst hpa
  have idle : ((List.range 4).any fun f => (s.host f).busy) = false := List.any_eq_false.mpr fun f hf => by
    simp only [hidle f (List.mem_range.mp hf), Bool.false_eq_true, not_false_eq_true]
  refine ⟨(s.writePa ((s.sys.qsc.extractLsb' 6 42).toNat * 64 + 64) body).modSys (fun y => { y with
    stlen := BitVec.ofNat 64 body.length, qdone := true }), ?_, rfl, rfl, rfl, rfl⟩
  simp only [execQuiesceDone, hq, hdone, idle, hrange, Bool.not_true, Bool.or_false, Bool.false_eq_true, if_false]

/-! QBOOT and the heartbeat (R450, R451, R456). -/

theorem fieldOf_controlSite (f : Nat) : fieldOf (controlSite f 2) = f := by
  obtain ⟨x, y, hx, hy, hsite⟩ : ∃ x y, x < 24 ∧ y < 23 ∧ controlSite f 2 = siteNum (24 * (f % 8) + x) (23 * (f / 8) + y) :=
    ⟨_, _, by decide, by decide, rfl⟩
  have wide : 24 * (f % 8) + x < 256 := by omega
  rw [hsite, fieldOf, siteX_siteNum _ wide, siteY_siteNum _ wide]
  omega

theorem mem_controlSites {p : Nat → Bool} {f : Nat} (hf : f < 64) :
    controlSite f 2 ∈ ((List.range 64).filter p).map (fun f => controlSite f 2) ↔ p f = true := by
  simp only [List.mem_map, List.mem_filter, List.mem_range]
  constructor
  · rintro ⟨g, ⟨-, hp⟩, heq⟩
    rwa [← fieldOf_controlSite f, ← heq, fieldOf_controlSite g]
  · exact fun hp => ⟨f, ⟨hf, hp⟩, rfl⟩

theorem execQbootGo_starts (hgo : v.getLsbD 63 = true) (hcancel : v.getLsbD 62 = false) (hrcvy : s.sys.rcvy = false) :
    ∃ t, execQbootGo v s = .next t ∧ t.sys.upd = true ∧ t.sys.hbeat = 0 ∧ t.sys.bootT = s.sys.rtime ∧ t.mem = s.mem
      ∧ ∀ f, f < 64 → (controlSite f 2 ∈ t.sys.standbySites ↔ s.sys.fjoin.getLsbD f = true) := by
  refine ⟨(s.modSys (fun y => { y with qboot := v &&& 0xC000FFFFFFFFFFC1 })).goBoot, ?_, rfl, rfl, rfl, rfl,
    fun f hf => mem_controlSites (p := fun f => s.sys.fjoin.getLsbD f) hf⟩
  have normal : (s.modSys (fun y => { y with qboot := v &&& 0xC000FFFFFFFFFFC1 })).sys.rcvy = false := hrcvy
  simp only [execQbootGo, State.writeQboot, hgo, hcancel, normal, if_true, Bool.false_eq_true, if_false]

theorem execQbootCancel_stops (hcancel : v.getLsbD 62 = true) (hrcvy : s.sys.rcvy = false) :
    ∃ t, execQbootCancel v s = .next t ∧ t.sys.upd = false ∧ t.sys.standbySites = [] ∧ t.mem = s.mem := by
  refine ⟨(s.modSys (fun y => { y with qboot := v &&& 0xC000FFFFFFFFFFC1 })).cancelBoot, ?_, rfl, rfl, rfl⟩
  have normal : (s.modSys (fun y => { y with qboot := v &&& 0xC000FFFFFFFFFFC1 })).sys.rcvy = false := hrcvy
  simp only [execQbootCancel, State.writeQboot, hcancel, normal, if_true, Bool.false_eq_true, if_false]

theorem execHbeatWrite_counts (site : Nat) : execHbeatWrite site s
    = .next (if s.handoverOk = true ∧ s.sys.upd = true ∧ site ∈ s.sys.standbySites ∧ s.sys.hbeat.getLsbD 63 = false
        then { s with sys := { s.sys with hbeat := 1#1 ++ 0#15 ++ s.sys.rtime.setWidth 48 } } else s) := by
  have first : (s.sys.upd && s.sys.standbySites.contains site && !s.sys.hbeat.getLsbD 63) = true
      ↔ s.sys.upd = true ∧ site ∈ s.sys.standbySites ∧ s.sys.hbeat.getLsbD 63 = false := by
    simp only [Bool.and_eq_true, List.contains_iff_mem, Bool.not_eq_true', and_assoc]
  simp only [execHbeatWrite, State.writeHbeat, first, State.modSys, ite_and]

/-! The trust block (R455). -/

theorem trustStart_begins {op : BitVec 8} (hv : v = 0x8000000000000000 ||| op.setWidth 64) (hlow : 1 ≤ op.toNat) (hhigh : op.toNat ≤ 5)
    (hidle : s.sys.trust.busy = false) :
    (s.trustStart v).sys.trust.busy = true ∧ (s.trustStart v).trustArgs op = some (s.sys.tbarg0, s.sys.tbarg1) := by
  have go : v.getLsbD 63 = true := by
    subst hv
    simp
  have code : v.extractLsb' 0 8 = op := by
    subst hv
    rw [BitVec.extractLsb'_or, BitVec.extractLsb'_setWidth_of_le (by decide),
      show BitVec.extractLsb' 0 8 (0x8000000000000000 : Word) = 0 from rfl]
    simp
  have known : (true && decide (1 ≤ op.toNat) && decide (op.toNat ≤ 5)) = true := by
    rw [decide_eq_true hlow, decide_eq_true hhigh]
    rfl
  simp only [State.trustStart, hidle, go, code, known, Bool.false_eq_true, if_false, if_true]
  exact ⟨rfl, if_pos rfl⟩

theorem execVerify_codes {a b : Word} (h : s.trustArgs 1 = some (a, b)) :
    (∀ x, s.verifyImage a.toNat = .ok x → execVerify s = .next (s.trustOut 0 0))
    ∧ ∀ e, s.verifyImage a.toNat = .error e → execVerify s = .next (s.trustOut e 0) :=
  ⟨fun x hx => by simp only [execVerify, h, hx], fun e he => by simp only [execVerify, h, he]⟩

/-- A verified image in its slot, measured as the pending one (R454, R455). -/
def State.measuredInto (s : State) (slot : BitVec 1) (x : Slot) : State :=
  (s.setSlot slot x).modTrust (fun t => { t with pending := some (slot, x) })

/-- Measuring into a slot leaves the other. -/
theorem State.slotImage_measuredInto (i j : BitVec 1) (x : Slot) (res : BitVec 8) (val : BitVec 32) :
    ((s.measuredInto i x).trustOut res val).slotImage j = if j = i then x else s.slotImage j := by
  obtain rfl | rfl : i = 0 ∨ i = 1 := by revert i; decide
  all_goals obtain rfl | rfl : j = 0 ∨ j = 1 := by revert j; decide
  all_goals rfl

theorem execMeasure_codes {a b : Word} (h : s.trustArgs 2 = some (a, b)) :
    (1 < b.toNat → execMeasure s = .next (s.trustOut 5 0))
    ∧ (b.toNat ≤ 1 → b.extractLsb' 0 1 = s.sys.act → execMeasure s = .next (s.trustOut 6 0))
    ∧ (b.toNat ≤ 1 → b.extractLsb' 0 1 ≠ s.sys.act →
      (∀ e, s.verifyImage a.toNat = .error e → execMeasure s = .next (s.trustOut e 0))
      ∧ ∀ x, s.verifyImage a.toNat = .ok x →
        ∃ t, execMeasure s = .next t ∧ t.slotImage (b.extractLsb' 0 1) = x ∧ t.slotImage s.sys.act = s.slotImage s.sys.act
          ∧ t.sys.trust.pending = some (b.extractLsb' 0 1, x) ∧ t.sys.trust.out = some (0, 0) ∧ t.mem = s.mem) := by
  refine ⟨fun hb => ?_, fun hb hact => ?_, fun hb hact => ⟨fun e he => ?_, fun x hx => ?_⟩⟩
  · simp only [execMeasure, h, if_pos hb]
    rfl
  · simp only [execMeasure, h, if_neg (Nat.not_lt.mpr hb), if_pos hact]
    rfl
  · simp only [execMeasure, h, if_neg (Nat.not_lt.mpr hb), if_neg hact, he]
  · refine ⟨(s.measuredInto (b.extractLsb' 0 1) x).trustOut 0 0, ?_, ?_, ?_, rfl, rfl, rfl⟩
    · rw [execMeasure, h]
      dsimp only
      rw [if_neg (Nat.not_lt.mpr hb), if_neg hact, hx]
      rfl
    · exact (State.slotImage_measuredInto ..).trans (if_pos rfl)
    · exact (State.slotImage_measuredInto ..).trans (if_neg (Ne.symm hact))

theorem max_toNat (a b : BitVec 16) : (if a < b then b else a).toNat = max a.toNat b.toNat := by
  split
  · next h => exact (Nat.max_eq_right (BitVec.lt_def.mp h).le).symm
  · next h => exact (Nat.max_eq_left (Nat.not_lt.mp h)).symm

/-- The measured image is the active one: its version, and the floor raised to its SVN (R455, R456). -/
def State.committedSlot (s : State) (slot : BitVec 1) (x : Slot) : State :=
  ((s.modTrust (fun t => { t with
      pending := none, standby := some (s.slotImage s.sys.act), floor := if t.floor < x.svn then x.svn else t.floor })).modSys
    (fun y => { y with act := slot, upd := false, qmaj := x.version.extractLsb' 8 8, qmin := x.version.extractLsb' 0 8 })).errorRecord
      7 0 (controlSite anchorField 0) 0xFF 0 0 0

theorem State.committedSlot_floor (s : State) (slot : BitVec 1) (x : Slot) : ((s.committedSlot slot x).trustOut 0 0).sys.trust.floor
    = if s.sys.trust.floor < x.svn then x.svn else s.sys.trust.floor := rfl

theorem State.committedSlot_mem (s : State) (slot : BitVec 1) (x : Slot) : (s.committedSlot slot x).mem = s.mem := by
  rw [committedSlot]
  exact (mem_of_store (errorRecord_store ..)).trans rfl

theorem execCommit_codes {a b : Word} {slot : BitVec 1} {x : Slot} (h : s.trustArgs 3 = some (a, b)) (hb : b.toNat ≤ 1)
    (hpending : s.sys.trust.pending = some (slot, x)) :
    (b.extractLsb' 0 1 ≠ slot → execCommit s = .next (s.trustOut 6 0))
    ∧ (b.extractLsb' 0 1 = slot →
      ∃ t, execCommit s = .next t ∧ t.sys.act = slot ∧ t.sys.trust.pending = none ∧ t.sys.trust.out = some (0, 0)
        ∧ t.sys.trust.floor.toNat = max s.sys.trust.floor.toNat x.svn.toNat ∧ t.mem = s.mem) := by
  refine ⟨fun hne => ?_, fun heq => ⟨(s.committedSlot slot x).trustOut 0 0, ?_, rfl, rfl, rfl,
    (congrArg BitVec.toNat (s.committedSlot_floor slot x)).trans (max_toNat ..), s.committedSlot_mem slot x⟩⟩
  · simp only [execCommit, h, if_neg (Nat.not_lt.mpr hb), hpending, if_pos (bne_iff_ne.mpr hne)]
    rfl
  · have same : (b.extractLsb' 0 1 != slot) = false := bne_eq_false_iff_eq.mpr heq
    rw [execCommit, h]
    dsimp only
    rw [if_neg (Nat.not_lt.mpr hb), hpending]
    dsimp only
    rw [same]
    rfl

theorem execCrc32_codes {a b : Word} (h : s.trustArgs 5 = some (a, b)) : execCrc32 s = .next (if s.rangeOk a.toNat b.toNat
    then s.trustOut 0 (crc32 (s.readPa a.toNat b.toNat)) else s.trustOut 5 0) := by
  simp only [execCrc32, h]
  cases s.rangeOk a.toNat b.toNat <;> rfl

theorem execTrustOperationDone_reports {res : BitVec 8} {x : BitVec 32} (h : s.sys.trust.out = some (res, x)) :
    ∃ t, execTrustOperationDone s = .next t ∧ t.sys.trust.busy = false ∧ t.sys.trust.res = res ∧ t.sys.trust.val = x
      ∧ t = { s with sys := t.sys } := by
  refine ⟨_, by simp only [execTrustOperationDone, h]; rfl, rfl, rfl, rfl, rfl⟩

/-! The SPDM responder (R454, R457). -/

/-- The answer of the responder to a request that stage `need` allows, and the stage that it leaves. -/
def spdmAnswers (s : State) (fn : Nat) (i : Instr) (need next : Nat) (a : SpdmAns) : Prop :=
  ∃ t, exec i s = .next t ∧ t = { s with sys := { s.sys with spdm := t.sys.spdm } }
    ∧ if s.quiesced then Tbl.find t.sys.spdm.ans fn = some .busy ∧ t.sys.spdm.stage = s.sys.spdm.stage
      else if s.sys.spdm.stage < need then Tbl.find t.sys.spdm.ans fn = some .unexpected ∧ t.sys.spdm.stage = s.sys.spdm.stage
      else Tbl.find t.sys.spdm.ans fn = some a ∧ t.sys.spdm.stage = next

theorem spdmAnswers_of {i : Instr} {fn need next : Nat} {a : SpdmAns} (hstage : s.sys.stage ≠ 0)
    (h : exec i s = .next (s.spdmAnswer fn need next a)) : spdmAnswers s fn i need next a := by
  refine ⟨_, h, ?_⟩
  simp only [State.spdmAnswer, if_neg hstage]
  split
  · exact ⟨rfl, Tbl.find_put_self .., rfl⟩
  · split
    · exact ⟨rfl, Tbl.find_put_self .., rfl⟩
    · exact ⟨rfl, Tbl.find_put_self .., rfl⟩

end

/-- Settles O60, event by event; the SPDM answers by the one rule of the responder. -/
theorem updateEvents : Obligations.UpdateEvents := by
  refine ⟨fun s v => ?_, fun s fn index nonce hstage => ?_⟩
  · simp only [exec]
    exact ⟨fun pa hpa hq => execQuiesce_sets hq pa hpa, execQuiesceRelease_settles, fun body pa => execQuiesceDone_freezes pa,
      execQbootGo_starts, execQbootCancel_stops, execHbeatWrite_counts, fun op => trustStart_begins, fun a b => execVerify_codes,
      fun a b => execMeasure_codes, fun a b slot x => execCommit_codes, fun a b h => by simp only [execRevert, h],
      fun a b => execCrc32_codes, fun res x => execTrustOperationDone_reports⟩
  · have answers {i : Instr} {need next : Nat} {a : SpdmAns} (h : exec i s = .next (s.spdmAnswer fn need next a)) :=
      spdmAnswers_of hstage h
    have measured : exec (.getMeasurements fn index) s = .next (s.spdmAnswer fn 3 3 (
        let ms := s.measurements
        let out := if index = 0xFF then ms else ms.filter (fun m => m.1 == index)
        if index = 0 then .count ms.length else if out = [] then .invalid
        else .measurements out (Config.deviceSign (Config.spdmDigest 0 (out.flatMap (fun m => hashBytes m.2)))))) := by
      simp only [exec, execGetMeasurements, List.isEmpty_iff]
    exact ⟨answers rfl, answers rfl, answers rfl, answers rfl, answers rfl, answers rfl, answers measured⟩

end Sys2Proof.Machine
end

section
/-! The thread in issue (O6): one rule for each operation that leaves the record of it as it is (R332, R334). An operation with an
option for its answer has the rule for the state it answers. A proof `(rfl)` stands in parentheses so that `simp` takes the rule as a
rewriting rule like the others. -/

namespace Sys2Proof.Machine

/-- What the model keeps of the thread in issue: its tile, its core there, and its context number (R334). -/
def State.thread (s : State) : Nat × Nat × Nat := (s.cur.tile, s.cur.core, s.cur.num)

@[simp] theorem State.thread_ite (c : Prop) [Decidable c] (s t : State) :
    (if c then s else t).thread = if c then s.thread else t.thread := by split <;> rfl
@[simp] theorem State.foldl_thread {α : Type} (f : State → α → State) (h : ∀ s a, (f s a).thread = s.thread) (l : List α)
    (s : State) : (l.foldl f s).thread = s.thread := foldl_keeps State.thread f h l s
@[simp] theorem State.thread_with (a b c d m e f g h i j k l n o p q r t u v w x y z aa bb cc) :
    State.thread ⟨a, b, c, d, m, e, f, g, h, i, j, k, l, n, o, p, q, r, t, u, v, w, x, y, z, aa, bb, cc⟩ = (b.tile, b.core, b.num) :=
  (rfl)
@[simp] theorem State.thread_fold (s : State) : (s.cur.tile, s.cur.core, s.cur.num) = s.thread := (rfl)
@[simp] theorem State.setCore_thread (s : State) (k : Nat) (c : Core) : (s.setCore k c).thread = s.thread := (rfl)
@[simp] theorem State.modCore_thread (s : State) (k : Nat) (f : Core → Core) : (s.modCore k f).thread = s.thread := (rfl)
@[simp] theorem State.setCtx_thread (s : State) (k : Nat) (c : Ctx) : (s.setCtx k c).thread = s.thread := (rfl)
@[simp] theorem State.modCtx_thread (s : State) (k : Nat) (f : Ctx → Ctx) : (s.modCtx k f).thread = s.thread := (rfl)
@[simp] theorem State.failWait_thread (s : State) (k : Nat) (cause : BitVec 8) (eaddr : Word) :
    (s.failWait k cause eaddr).thread = s.thread := (rfl)
@[simp] theorem State.putX_thread (s : State) (k rank : Nat) (r : BitVec 6) (v : Word) (lat : Nat) :
    (s.putX k rank r v lat).thread = s.thread := by simp [State.putX]
@[simp] theorem State.landLate_thread (s : State) (k : Nat) : (s.landLate k).thread = s.thread := (rfl)
@[simp] theorem State.complete_thread (s : State) (k : Nat) : (s.complete k).thread = s.thread := (rfl)
@[simp] theorem State.completeX_thread (s : State) (k : Nat) (d : BitVec 6) (v : Word) (lat : Nat) :
    (s.completeX k d v lat).thread = s.thread := by simp [State.completeX]
@[simp] theorem State.setSite_thread (s : State) (k : Nat) (t : Site) : (s.setSite k t).thread = s.thread := (rfl)
@[simp] theorem State.modSite_thread (s : State) (k : Nat) (f : Site → Site) : (s.modSite k f).thread = s.thread := (rfl)
@[simp] theorem State.setCrew_thread (s : State) (k : Nat) (c : Crew) : (s.setCrew k c).thread = s.thread := (rfl)
@[simp] theorem State.modCrew_thread (s : State) (k : Nat) (f : Crew → Crew) : (s.modCrew k f).thread = s.thread := (rfl)

@[simp] theorem State.logEv_thread (s : State) (tile : Nat) (ev : LogEv) (bytes : Nat) :
    (s.logEv tile ev bytes).thread = s.thread := by
  simp only [State.logEv]
  (repeat' split) <;> simp

@[simp] theorem State.setTile_thread (s : State) (k : Nat) (t : Tile) : (s.setTile k t).thread = s.thread := (rfl)
@[simp] theorem State.modTile_thread (s : State) (k : Nat) (f : Tile → Tile) : (s.modTile k f).thread = s.thread := (rfl)
@[simp] theorem State.modTiles_thread (s : State) (crew : Nat) (f : Tile → Tile) : (s.modTiles crew f).thread = s.thread := by
  simp [State.modTiles]

@[simp] theorem State.refreshView_thread (s : State) (crew : Nat) : (s.refreshView crew).thread = s.thread := by
  simp only [State.refreshView]
  split <;> simp

theorem State.arrived_thread (s : State) (n : Nat) (p : Body → Bool) {r} (h : s.arrived n p = some r) :
    r.2.thread = s.thread := by
  simp only [State.arrived] at h
  split at h
  · cases h
  · split at h
    · cases h; simp
    · cases h

@[simp] theorem State.sendTo_thread (s : State) (srcTile dstSite lane ctx stream : Nat) (body : Body) :
    (s.sendTo srcTile dstSite lane ctx stream body).thread = s.thread := (rfl)
@[simp] theorem State.send_thread (s : State) (srcTile dstTile lane ctx stream : Nat) (body : Body) :
    (s.send srcTile dstTile lane ctx stream body).thread = s.thread := (rfl)
@[simp] theorem State.replyTo_thread (s : State) (t : Nat) (h : MsgHdr) (b : Body) : (s.replyTo t h b).thread = s.thread := by
  simp [State.replyTo]
@[simp] theorem State.setField_thread (s : State) (k : Nat) (f : Fld) : (s.setField k f).thread = s.thread := (rfl)

@[simp] theorem State.gradeSite_thread (s : State) (site : Nat) (c : BitVec 2) : (s.gradeSite site c).thread = s.thread := by
  simp only [State.gradeSite]
  (repeat' split) <;> simp

@[simp] theorem State.writeService_thread (s : State) (site off : Nat) (v : Word) :
    (s.writeService site off v).thread = s.thread := by simp [State.writeService]
@[simp] theorem State.modSys_thread (s : State) (f : Sys → Sys) : (s.modSys f).thread = s.thread := (rfl)
@[simp] theorem State.goBoot_thread (s : State) : s.goBoot.thread = s.thread := (rfl)
@[simp] theorem State.cancelBoot_thread (s : State) : s.cancelBoot.thread = s.thread := (rfl)
@[simp] theorem State.setSlot_thread (s : State) (i : BitVec 1) (x : Slot) : (s.setSlot i x).thread = s.thread := (rfl)

@[simp] theorem State.recoverBoot_thread (s : State) (v : Word) : (s.recoverBoot v).thread = s.thread := by
  simp only [State.recoverBoot]
  split <;> simp

@[simp] theorem State.writeQboot_thread (s : State) (v : Word) : (s.writeQboot v).thread = s.thread := by
  simp [State.writeQboot]
@[simp] theorem State.modTrust_thread (s : State) (f : Trust → Trust) : (s.modTrust f).thread = s.thread := (rfl)
@[simp] theorem State.trustStart_thread (s : State) (v : Word) : (s.trustStart v).thread = s.thread := by
  simp [State.trustStart]
@[simp] theorem State.setPart_thread (s : State) (k : Nat) (p : Part) : (s.setPart k p).thread = s.thread := (rfl)
@[simp] theorem State.post_thread (s : State) (part : Nat) (b : Block) : (s.post part b).2.thread = s.thread := (rfl)

@[simp] theorem State.recordIn_thread (s : State) (f : Nat) (kind cause : BitVec 8) (site : Nat) (core unit : BitVec 8)
    (sub : Nat) (detail : Word) :
    (s.recordIn f kind cause site core unit sub detail).thread = s.thread := (rfl)

@[simp] theorem State.errorRecord_thread (s : State) (kind cause : BitVec 8) (site : Nat) (core unit : BitVec 8) (sub : Nat)
    (detail : Word) :
    (s.errorRecord kind cause site core unit sub detail).thread = s.thread := (rfl)

@[simp] theorem State.setHome_thread (s : State) (k : Nat) (h : Home) : (s.setHome k h).thread = s.thread := (rfl)
@[simp] theorem State.countRow_thread (s : State) (h pa : Nat) : (s.countRow h pa).thread = s.thread := (rfl)

@[simp] theorem State.heat_thread (s : State) (h pa n field : Nat) : (s.heat h pa n field).thread = s.thread := by
  simp only [State.heat]
  split <;> simp

@[simp] theorem State.setGw_thread (s : State) (k : Nat) (g : Gw) : (s.setGw k g).thread = s.thread := (rfl)
@[simp] theorem State.installLeaf_thread (s : State) (field : Nat) (l : Leaf) : (s.installLeaf field l).thread = s.thread :=
  (rfl)
@[simp] theorem State.tryLeaf_thread (s : State) (field : Nat) (l : Leaf) (acc : Acc) (weight : Bool) :
    (s.tryLeaf field l acc weight).2.thread = s.thread := (rfl)

@[simp] theorem State.translate_thread (s : State) (field part va : Nat) (acc : Acc) (weight : Bool) :
    (s.translate field part va acc weight).2.thread = s.thread := by
  simp only [State.translate]
  (repeat' split) <;> simp

@[simp] theorem State.setHost_thread (s : State) (k : Nat) (h : HostFn) : (s.setHost k h).thread = s.thread := (rfl)
@[simp] theorem State.modHost_thread (s : State) (fn : Nat) (f : HostFn → HostFn) : (s.modHost fn f).thread = s.thread := (rfl)
@[simp] theorem State.hostResult_thread (s : State) (fn : Nat) (stat err : BitVec 8) (task : BitVec 32) :
    (s.hostResult fn stat err task).thread = s.thread := (rfl)

@[simp] theorem State.walkPeer_thread (s : State) (fuel part va level : Nat) :
    (s.walkPeer fuel part va level).2.thread = s.thread := by
  induction fuel generalizing s level with
  | zero => simp [State.walkPeer]
  | succ fuel ih => simp only [State.walkPeer]; split <;> simp [ih]

@[simp] theorem State.translatePeer_thread (s : State) (field part wafer va : Nat) (acc : Acc) :
    (s.translatePeer field part wafer va acc).2.thread = s.thread := by
  grind [State.translatePeer, State.walkPeer_thread, State.tryLeaf_thread]

@[simp] theorem State.publLeaf_thread (s : State) (field part : Nat) (a : Word) :
    (s.publLeaf field part a).2.thread = s.thread := by
  simp only [State.publLeaf]
  (repeat' split) <;> simp

@[simp] theorem State.writeHbeat_thread (s : State) (site : Nat) : (s.writeHbeat site).thread = s.thread := by
  simp [State.writeHbeat]
@[simp] theorem State.raiseIrq_thread (s : State) (v : Word) : (s.raiseIrq v).thread = s.thread := (rfl)
@[simp] theorem State.writeBelay_thread (s : State) (off : Nat) (v : Word) (fw : Bool) :
    (s.writeBelay off v fw).thread = s.thread := by simp [State.writeBelay]
@[simp] theorem State.writeTrapBlk_thread (s : State) (t off : Nat) (v : Word) :
    (s.writeTrapBlk t off v).thread = s.thread := by simp [State.writeTrapBlk]
@[simp] theorem State.modSetTiles_thread (s : State) (v : Nat) (f : Tile → Tile) : (s.modSetTiles v f).thread = s.thread := by
  simp [State.modSetTiles]
@[simp] theorem State.setVset_thread (s : State) (k : Nat) (v : VSet) : (s.setVset k v).thread = s.thread := (rfl)
@[simp] theorem State.writeVer_thread (s : State) (v w : Nat) (x : Word) : (s.writeVer v w x).thread = s.thread := by
  simp [State.writeVer]
@[simp] theorem State.markDirty_thread (s : State) (site bank off n : Nat) : (s.markDirty site bank off n).thread = s.thread :=
  (rfl)

@[simp] theorem State.farAnswer_thread (s : State) (site : Nat) (r : FarReq) (err : BitVec 8) (data : List Byte)
    (logged : Bool) :
    (s.farAnswer site r err data logged).thread = s.thread := (rfl)

@[simp] theorem State.modPkt_thread (s : State) (id : Nat) (f : Pkt → Pkt) : (s.modPkt id f).thread = s.thread := (rfl)
@[simp] theorem State.movePkt_thread (s : State) (id site : Nat) : (s.movePkt id site).thread = s.thread := (rfl)

@[simp] theorem State.drawSeq_thread (s : State) (r : FarReq) (key : Nat) : (s.drawSeq r key).2.thread = s.thread := by
  simp only [State.drawSeq]
  (repeat' split) <;> simp

@[simp] theorem State.sendFar_thread (s : State) (k : Nat) (a : Word) (kind : FarKind) (outId : Option Nat) :
    (s.sendFar k a kind outId).thread = s.thread := by simp [State.sendFar]
@[simp] theorem State.addOut_thread (s : State) (k : Nat) (kind : OutKind) (left : Nat) :
    (s.addOut k kind left).2.thread = s.thread := (rfl)

@[simp] theorem State.sendKnot_thread (s : State) (k : Nat) (p : Place) (op : KnotOp) :
    (s.sendKnot k p op).thread = s.thread := by
  simp only [State.sendKnot]
  split <;> simp

@[simp] theorem State.waitKnot_thread (s : State) (k : Nat) (w : Wait) : (s.waitKnot k w).thread = s.thread := (rfl)
@[simp] theorem State.putSlot_thread (s : State) (core slot k : Nat) : (s.putSlot core slot k).thread = s.thread := (rfl)

@[simp] theorem State.addCtx_thread (s : State) (core num : Nat) (slot : Option Nat) (c : Ctx) :
    (s.addCtx core num slot c).thread = s.thread := by
  simp only [State.addCtx]
  split <;> simp

@[simp] theorem State.settleClose_thread (s : State) (crew : Nat) : (s.settleClose crew).thread = s.thread := by
  simp only [State.settleClose]
  (repeat' split) <;> simp

@[simp] theorem State.arriveCore_thread (s : State) (crew core vc : Nat) (timed : Bool) :
    (s.arriveCore crew core vc timed).thread = s.thread := by simp [State.arriveCore]
@[simp] theorem State.modDyn_thread (s : State) (crew : Nat) (f : CrewDyn → CrewDyn) : (s.modDyn crew f).thread = s.thread :=
  (rfl)

@[simp] theorem State.deal_thread (s : State) (crew q slot : Nat) : (s.deal crew q slot).thread = s.thread := by
  simp only [State.deal]
  (repeat' split) <;> simp

@[simp] theorem State.dealFrom_thread (s : State) (crew : Nat) (x : Nat × Nat) : (s.dealFrom crew x).thread = s.thread := by
  simp [State.dealFrom]

@[simp] theorem State.dealWaiting_thread (s : State) (core : Nat) : (s.dealWaiting core).thread = s.thread := by
  simp only [State.dealWaiting]
  (repeat' split) <;> simp

@[simp] theorem State.putP_thread (s : State) (k : Nat) (p : BitVec 3) (v : Bool) : (s.putP k p v).thread = s.thread := by
  simp [State.putP]
@[simp] theorem State.takeExit_thread (s : State) (k core slot : Nat) (d : BitVec 6) (p : BitVec 3) :
    (s.takeExit k core slot d p).thread = s.thread := by simp [State.takeExit]

@[simp] theorem State.wakeReap_thread (s : State) (core slot : Nat) : (s.wakeReap core slot).thread = s.thread := by
  simp only [State.wakeReap]
  (repeat' split) <;> simp

@[simp] theorem State.clearSlot_thread (s : State) (core slot : Nat) : (s.clearSlot core slot).thread = s.thread := (rfl)
@[simp] theorem State.setExit_thread (s : State) (core slot : Nat) (v : Word) : (s.setExit core slot v).thread = s.thread :=
  (rfl)
@[simp] theorem State.dropWatches_thread (s : State) (k : Nat) : (s.dropWatches k).thread = s.thread := (rfl)

@[simp] theorem State.leaveResv_thread (s : State) (l : Loc) (k : Nat) : (s.leaveResv l k).thread = s.thread := by
  simp only [State.leaveResv]
  (repeat' split) <;> simp

@[simp] theorem State.leaveAll_thread (s : State) (k : Nat) : (s.leaveAll k).thread = s.thread := by simp [State.leaveAll]
@[simp] theorem State.countCore_thread (s : State) (core lo k : Nat) : (s.countCore core lo k).thread = s.thread := by
  simp [State.countCore]

@[simp] theorem State.retire_thread (s : State) (k : Nat) (exit : Word) : (s.retire k exit).thread = s.thread := by
  simp only [State.retire]
  (repeat' split) <;> simp

@[simp] theorem State.knotFault_thread (s : State) (k : Nat) (cause : BitVec 8) (a : Word) :
    (s.knotFault k cause a).thread = s.thread := (rfl)
@[simp] theorem State.reissue_thread (s : State) (k : Nat) : (s.reissue k).thread = s.thread := (rfl)
@[simp] theorem State.dropParked_thread (s : State) (k : Nat) : (s.dropParked k).thread = s.thread := (rfl)

@[simp] theorem State.pendFault_thread (s : State) (k : Nat) (cause : BitVec 8) (eaddr : Word) (asyn : Bool) :
    (s.pendFault k cause eaddr asyn).thread = s.thread :=
  (State.modCtx_thread ..).trans (by split <;> simp)

@[simp] theorem State.taskFault_thread (s : State) (crew : Nat) (cause err : BitVec 8) (addr : Word) (core slot : Nat)
    (unit : BitVec 24) :
    (s.taskFault crew cause err addr core slot unit).thread = s.thread := (rfl)

@[simp] theorem State.looseError_thread (s : State) (r : FarReq) (err : BitVec 8) : (s.looseError r err).thread = s.thread := by
  simp only [State.looseError]
  split <;> simp

@[simp] theorem State.modRun_thread (s : State) (core id : Nat) (f : Run → Run) : (s.modRun core id f).thread = s.thread :=
  (rfl)

@[simp] theorem State.sendArrive_thread (s : State) (srcTile ctx : Nat) (bar : Bar) (n : Nat) (tag : BitVec 16)
    (err : BitVec 8) (a : Word) :
    (s.sendArrive srcTile ctx bar n tag err a).thread = s.thread := by
  simp only [State.sendArrive]
  split <;> simp

@[simp] theorem State.cmdArrive_thread (s : State) (c : Cmd) (n : Nat) (err : BitVec 8) (a : Word) :
    (s.cmdArrive c n err a).thread = s.thread := by simp [State.cmdArrive]

@[simp] theorem State.delivered_thread (s : State) (core id n : Nat) : (s.delivered core id n).thread = s.thread := by
  simp only [State.delivered]
  split <;> simp

@[simp] theorem State.failRun_thread (s : State) (core id : Nat) (err : BitVec 8) (a : Word) :
    (s.failRun core id err a).thread = s.thread := (rfl)
@[simp] theorem State.dropRedo_thread (s : State) (crew : Nat) (p : LogEv → Bool) : (s.dropRedo crew p).thread = s.thread :=
  (rfl)

@[simp] theorem State.loggedData_thread (s : State) (r : FarReq) (data : List Byte) (logged : Bool) :
    (s.loggedData r data logged).2.thread = s.thread := by
  simp only [State.loggedData]
  (repeat' split) <;> simp

@[simp] theorem State.ackOut_thread (s : State) (core id : Nat) : (s.ackOut core id).thread = s.thread := (rfl)
@[simp] theorem State.gwInv_thread (s : State) (field : Nat) (v : Word) : (s.gwInv field v).thread = s.thread := (rfl)
@[simp] theorem State.answer_thread (s : State) (p : Pkt) (t : Nat) (b : Body) : (s.answer p t b).thread = s.thread := (rfl)
@[simp] theorem State.renumber_thread (s : State) (k k' : Nat) : (s.renumber k k').thread = s.thread := (rfl)
@[simp] theorem State.hopLeave_thread (s : State) (k target core : Nat) (np : Bool) :
    (s.hopLeave k target core np).thread = s.thread := (rfl)
@[simp] theorem State.logWake_thread (s : State) (k : Nat) (code : BitVec 6) : (s.logWake k code).thread = s.thread := by
  simp [State.logWake]
@[simp] theorem State.setEnt_thread (s : State) (core e : Nat) (m : BitVec 16) : (s.setEnt core e m).thread = s.thread := (rfl)

@[simp] theorem State.leaveEntry_thread (s : State) (t b : Nat) : (s.leaveEntry t b).thread = s.thread := by
  simp only [State.leaveEntry]
  split <;> simp

@[simp] theorem State.setRow_thread (s : State) (t b : Nat) (r : BitVec 16) : (s.setRow t b r).thread = s.thread := (rfl)
@[simp] theorem State.clearHolder_thread (s : State) (t b : Nat) : (s.clearHolder t b).thread = s.thread := by
  simp [State.clearHolder]

@[simp] theorem State.freeEntryOf_thread (s : State) (core e : Nat) : (s.freeEntryOf core e).thread = s.thread := by
  simp only [State.freeEntryOf]
  split <;> simp

@[simp] theorem State.setHolder_thread (s : State) (t b holder ent : Nat) : (s.setHolder t b holder ent).thread = s.thread := by
  simp [State.setHolder]
@[simp] theorem State.attachHome_thread (s : State) (core e b : Nat) : (s.attachHome core e b).thread = s.thread := by
  simp [State.attachHome]
@[simp] theorem State.barWrite_thread (s : State) (fn off : Nat) (v : Word) : (s.barWrite fn off v).thread = s.thread := by
  simp [State.barWrite]
@[simp] theorem State.spdmAnswer_thread (s : State) (fn need next : Nat) (ans : SpdmAns) :
    (s.spdmAnswer fn need next ans).thread = s.thread := by simp [State.spdmAnswer]
@[simp] theorem State.trustOut_thread (s : State) (res : BitVec 8) (val : BitVec 32) : (s.trustOut res val).thread = s.thread :=
  (rfl)
@[simp] theorem State.hostErr_thread (s : State) (fn : Nat) (err : BitVec 8) (off : Nat) :
    (s.hostErr fn err off).thread = s.thread := (rfl)
@[simp] theorem State.setChan_thread (s : State) (core c : Nat) (f : Chan → Chan) : (s.setChan core c f).thread = s.thread :=
  (rfl)
@[simp] theorem State.endSend_thread (s : State) (t : Nat) (r : Retx) (err : BitVec 8) :
    (s.endSend t r err).thread = s.thread := by simp [State.endSend]
@[simp] theorem State.unfence_thread (s : State) (site : Nat) : (s.unfence site).thread = s.thread := by
  simp [State.unfence]
@[simp] theorem State.setRefs_thread (s : State) (crew v : Nat) (slots : List Nat) :
    (s.setRefs crew v slots).thread = s.thread := (rfl)

@[simp] theorem State.updateRefs_thread (s : State) (crew : Nat) : (s.updateRefs crew).thread = s.thread := by
  simp only [State.updateRefs]
  split <;> simp

@[simp] theorem State.dropStaging_thread (s : State) (t : Nat) : (s.dropStaging t).thread = s.thread := (rfl)
@[simp] theorem State.failCut_thread (s : State) (crew : Nat) : (s.failCut crew).thread = s.thread := by
  simp [State.failCut]
@[simp] theorem State.bindTile_thread (s : State) (t site : Nat) : (s.bindTile t site).thread = s.thread := (rfl)

@[simp] theorem State.bindSpare_thread (s : State) (t : Nat) : (s.bindSpare t).thread = s.thread := by
  delta State.bindSpare
  dsimp only
  (repeat' split) <;> simp

@[simp] theorem State.stageNow_thread (s : State) : s.stageNow.thread = s.thread := (rfl)
@[simp] theorem State.startTest_thread (s : State) (f : Nat) (failed : List Nat) :
    (s.startTest f failed).thread = s.thread := by simp [State.startTest]

@[simp] theorem State.markAt_thread (s : State) (v crew : Nat) (pnd : BitVec 2) (n : BitVec 16) (vc : Nat) :
    (s.markAt v crew pnd n vc).2.thread = s.thread := by
  simp only [State.markAt]
  (repeat' split) <;> simp

@[simp] theorem State.lookTile_thread (s : State) (t : Nat) : (s.lookTile t).thread = s.thread := (rfl)
@[simp] theorem State.lookSet_thread (s : State) (v : Nat) : (s.lookSet v).thread = s.thread := by simp [State.lookSet]
@[simp] theorem State.applyMarks_thread (s : State) (crew v before : Nat) : (s.applyMarks crew v before).thread = s.thread := by
  simp [State.applyMarks]

@[simp] theorem State.homeReply_thread (s : State) (p : Pkt) (crew : Nat) (ctx : Option Nat) (op : VerOp) (v : Word)
    (ok : Bool) :
    (s.homeReply p crew ctx op v ok).thread = s.thread := (rfl)

@[simp] theorem State.setLogShare_thread (s : State) (crew t : Nat) : (s.setLogShare crew t).thread = s.thread := (rfl)
@[simp] theorem State.deepCrew_thread (s : State) (d : Deep) (crew : Nat) (w : Crew) :
    (s.deepCrew d crew w).thread = s.thread := by simp [State.deepCrew]
@[simp] theorem State.unhalt_thread (s : State) (crew : Nat) : (s.unhalt crew).thread = s.thread := by simp [State.unhalt]

@[simp] theorem State.pairUp_thread (s : State) (fuel : Nat) (ts : List Nat) : (s.pairUp fuel ts).thread = s.thread := by
  induction fuel generalizing s ts with
  | zero => simp [State.pairUp]
  | succ fuel ih =>
    cases ts with
    | nil => simp [State.pairUp]
    | cons t rest => simp only [State.pairUp]; split <;> simp [ih]

@[simp] theorem State.endBlay_thread (s : State) (crew lo v : Nat) : (s.endBlay crew lo v).thread = s.thread := by
  refine State.foldl_thread _ (fun s k => ?_) ..
  split
  · simp
  · rfl

@[simp] theorem State.switchElastic_thread (s : State) (crew : Nat) : (s.switchElastic crew).thread = s.thread := by
  simp [State.switchElastic]
@[simp] theorem State.arriveEmpty_thread (s : State) (crew : Nat) : (s.arriveEmpty crew).thread = s.thread := by
  simp [State.arriveEmpty]
@[simp] theorem State.clearMarks_thread (s : State) (crew v since : Nat) : (s.clearMarks crew v since).thread = s.thread :=
  (rfl)

@[simp] theorem State.restoreRecords_thread (s : State) (t : Nat) : (s.restoreRecords t).thread = s.thread := by
  simp only [State.restoreRecords]
  split <;> simp

@[simp] theorem State.withdraw_thread (s : State) (crew : Nat) : (s.withdraw crew).thread = s.thread := (rfl)
@[simp] theorem State.loseCrew_thread (s : State) (crew : Nat) (cause : BitVec 8) (tile : Nat) :
    (s.loseCrew crew cause tile).thread = s.thread := (rfl)

@[simp] theorem State.stripCrew_thread (s : State) (crew : Nat) : (s.stripCrew crew).thread = s.thread := by
  simp only [State.stripCrew, State.modCrew_thread, State.thread_with, State.thread_fold, State.modTiles_thread]
  rw [State.foldl_thread _ fun s c => by simp]
  refine State.foldl_thread _ (fun s k => ?_) ..
  split <;> simp

@[simp] theorem State.commitNotices_thread (s : State) (crew : Nat) (cut : Cut) :
    (s.commitNotices crew cut).thread = s.thread := by
  simp only [State.commitNotices]
  split <;> simp

@[simp] theorem State.finishCut_thread (s : State) (crew : Nat) (cut : Cut) : (s.finishCut crew cut).thread = s.thread := by
  simp [State.finishCut]
@[simp] theorem State.moveTile_thread (s : State) (t spare : Nat) : (s.moveTile t spare).thread = s.thread := (rfl)
@[simp] theorem State.markRetire_thread (s : State) : s.markRetire.thread = s.thread := (rfl)
@[simp] theorem State.spliceRecords_thread (s : State) (site : Nat) (steps : List Nat) :
    (s.spliceRecords site steps).thread = s.thread := by simp [State.spliceRecords]
@[simp] theorem State.fenceSite_thread (s : State) (site : Nat) : (s.fenceSite site).thread = s.thread := by
  simp [State.fenceSite]

@[simp] theorem State.freezeCrew_thread (s : State) (crew : Option Nat) : (s.freezeCrew crew).thread = s.thread := by
  simp only [State.freezeCrew]
  split <;> simp

@[simp] theorem State.raiseCheck_thread (s : State) (site : Nat) (cause : MCause) :
    (s.raiseCheck site cause).thread = s.thread := by simp [State.raiseCheck]
@[simp] theorem State.enterCut_thread (s : State) (crew c : Nat) : (s.enterCut crew c).thread = s.thread := (rfl)
@[simp] theorem State.logCut_thread (s : State) (crew c : Nat) (by_ : Option (Nat × Nat)) :
    (s.logCut crew c by_).thread = s.thread := (rfl)
@[simp] theorem State.scheduleCut_thread (s : State) (crew c : Nat) : (s.scheduleCut crew c).thread = s.thread := by
  simp [State.scheduleCut]
@[simp] theorem State.earlyBelay_thread (s : State) (crew : Nat) : (s.earlyBelay crew).thread = s.thread := by
  simp [State.earlyBelay]
@[simp] theorem State.earlyCheck_thread (s : State) (t : Nat) : (s.earlyCheck t).thread = s.thread := by
  simp [State.earlyCheck]

theorem State.useBankAs_thread (s : State) (cls t bank : Nat) {r : State} (h : s.useBankAs cls t bank = some r) :
    r.thread = s.thread := by
  simp only [State.useBankAs, Option.map_eq_some_iff] at h
  obtain ⟨c, -, rfl⟩ := h
  simp

@[simp] theorem State.setCandidate_thread (s : State) (crew vc : Nat) (v : BitVec 16) :
    (s.setCandidate crew vc v).thread = s.thread := by simp [State.setCandidate]

@[simp] theorem State.askCandidate_thread (s : State) (crew vc : Nat) : (s.askCandidate crew vc).thread = s.thread := by
  simp only [State.askCandidate]
  (repeat' split) <;> simp

@[simp] theorem State.countPart_thread (s : State) (part lo : Nat) : (s.countPart part lo).thread = s.thread := (rfl)

@[simp] theorem State.postLaunch_thread (s : State) (k : Nat) (b : Block) : (s.postLaunch k b).2.thread = s.thread := by
  simp only [State.postLaunch]
  (repeat' split) <;> simp

@[simp] theorem State.feedLaunch_thread (s : State) (part : Nat) : (s.feedLaunch part).thread = s.thread := by
  refine State.foldl_thread _ (fun s k => ?_) ..
  split
  · simp
  · rfl

@[simp] theorem State.endVersions_thread (s : State) (crew : Nat) : (s.endVersions crew).thread = s.thread := by
  simp only [State.endVersions]
  split <;> simp

@[simp] theorem State.countPart2_thread (s : State) (part lo : Nat) : (s.countPart2 part lo).thread = s.thread := (rfl)
@[simp] theorem State.dealAll_thread (s : State) (crew : Nat) : (s.dealAll crew).thread = s.thread := by
  simp [State.dealAll]
@[simp] theorem State.placeCrew_thread (s : State) (p : Nat) (e : QEnt) (t0 : Nat) (routes : List RouteEnt) :
    (s.placeCrew p e t0 routes).thread = s.thread := by simp [State.placeCrew]
@[simp] theorem State.dequeue_thread (s : State) (p : Nat) (e : QEnt) : (s.dequeue p e).thread = s.thread := (rfl)
@[simp] theorem State.endUnrun_thread (s : State) (p : Nat) (e : QEnt) (reason : BitVec 8) :
    (s.endUnrun p e reason).thread = s.thread := (rfl)
@[simp] theorem State.wakeBar_thread (s : State) (l : Loc) : (s.wakeBar l).thread = s.thread := by simp [State.wakeBar]
@[simp] theorem State.logOrder_thread (s : State) (k : Nat) (l : Loc) : (s.logOrder k l).thread = s.thread := by
  simp [State.logOrder]
theorem State.useBank_thread (s : State) (t bank : Nat) {r : State} (h : s.useBank t bank = some r) : r.thread = s.thread :=
  State.useBankAs_thread _ _ _ _ h
@[simp] theorem State.countMsg_thread (s : State) (site : Nat) : (s.countMsg site).thread = s.thread := (rfl)
@[simp] theorem State.sendFrom_thread (s : State) (site tile ctx : Nat) (b : Body) :
    (s.sendFrom site tile ctx b).thread = s.thread := (rfl)
@[simp] theorem State.modRetx_thread (s : State) (t : Nat) (h : MsgHdr) (f : Retx → Retx) :
    (s.modRetx t h f).thread = s.thread := (rfl)

@[simp] theorem State.sendMsg_thread (s : State) (t ctx : Nat) (hdr : MsgHdr) (data : List Byte) :
    (s.sendMsg t ctx hdr data).thread = s.thread := by
  simp only [State.sendMsg]
  (repeat' split) <;> simp

@[simp] theorem State.resend_thread (s : State) (t : Nat) (r : Retx) : (s.resend t r).thread = s.thread := by
  simp [State.resend]

@[simp] theorem State.replyGone_thread (s : State) (n : Nat) (hdrOf : Body → Option MsgHdr) :
    (s.replyGone n hdrOf).thread = s.thread := by
  simp only [State.replyGone]
  split
  · rfl
  · next h => exact State.arrived_thread _ _ _ h

theorem State.repliedCopy_thread (s : State) (n : Nat) (hdrOf : Body → Option MsgHdr) {r} (h : s.repliedCopy n hdrOf = some r) :
    r.2.2.2.thread = s.thread := by
  simp only [State.repliedCopy] at h
  split at h
  · simp only [Option.map_eq_some_iff] at h
    obtain ⟨_, -, rfl⟩ := h
    rfl
  · split at h
    · cases h
    · next ha => (repeat' split at h) <;> cases h; exact State.arrived_thread _ _ _ ha

@[simp] theorem State.withRecv_thread (s : State) (t : Nat) (h : MsgHdr) : (s.withRecv t h).thread = s.thread := by
  simp [State.withRecv]
@[simp] theorem State.wakePop_thread (s : State) (t ibx : Nat) : (s.wakePop t ibx).thread = s.thread := by
  simp [State.wakePop]
@[simp] theorem State.expNext_thread (s : State) (t : Nat) (h : MsgHdr) : (s.expNext t h).thread = s.thread := (rfl)
@[simp] theorem State.crossPort_thread (s : State) (q : Nat) : (s.crossPort q).thread = s.thread := (rfl)

@[simp] theorem State.passOn_thread (s : State) (p : Pkt) (h : MsgHdr) : (s.passOn p h).thread = s.thread := by
  simp only [State.passOn]
  split <;> simp

@[simp] theorem State.countLink_thread (s : State) (site port lo bits n : Nat) :
    (s.countLink site port lo bits n).thread = s.thread := (rfl)
@[simp] theorem State.recordRepeats_thread (s : State) (site port n : Nat) :
    (s.recordRepeats site port n).thread = s.thread := by simp [State.recordRepeats]
@[simp] theorem State.useLink_thread (s : State) (p : Pkt) (port : Nat) : (s.useLink p port).thread = s.thread := (rfl)
@[simp] theorem State.useOut_thread (s : State) (site c : Nat) (p : Pkt) : (s.useOut site c p).thread = s.thread := (rfl)

@[simp] theorem State.crossLink_thread (s : State) (p : Pkt) (port q : Nat) : (s.crossLink p port q).thread = s.thread := by
  have moved (u : State) (id f n w) (h : u.thread = s.thread) :
      ({ u.modPkt id f with free := n, fields := w } : State).thread = s.thread := h
  exact moved _ _ _ _ _ (by simp)

@[simp] theorem State.enterAgain_thread (s : State) (p : Pkt) (old : Nat) : (s.enterAgain p old).thread = s.thread := by
  simp only [State.enterAgain]
  split <;> simp

@[simp] theorem State.dropPkt_thread (s : State) (id : Nat) : (s.dropPkt id).thread = s.thread := (rfl)

@[simp] theorem State.fenceFlit_thread (s : State) (p : Pkt) : (s.fenceFlit p).thread = s.thread := by
  simp only [State.fenceFlit]
  split <;> simp

@[simp] theorem State.enterMesh_thread (s : State) (p : Pkt) : (s.enterMesh p).thread = s.thread := (rfl)

@[simp] theorem State.mediaMet_thread (s : State) (h pa : Nat) (crew : Option Nat) (core from_ : Nat) (unit : BitVec 24) :
    (s.mediaMet h pa crew core from_ unit).2.thread = s.thread := by
  simp only [State.mediaMet]
  (repeat' split) <;> simp

@[simp] theorem State.homeAnswer_thread (s : State) (p : Pkt) (r : FarReq) (err : BitVec 8) (data : List Byte) (logged : Bool) :
    (s.homeAnswer p r err data logged).thread = s.thread := (rfl)

@[simp] theorem State.timedFault_thread (s : State) (c : Cmd) (cause err : BitVec 8) (a : Word) :
    (s.timedFault c cause err a).thread = s.thread := by
  simp only [State.timedFault]
  (repeat' split) <;> simp

@[simp] theorem State.endRun_thread (s : State) (core id : Nat) : (s.endRun core id).thread = s.thread := (rfl)

@[simp] theorem State.holdWrite_thread (s : State) (h : Nat) (r : FarReq) (leaf off : Nat) :
    (s.holdWrite h r leaf off).thread = s.thread := by
  simp only [State.holdWrite]
  split <;> simp

@[simp] theorem State.unpark_thread (s : State) (k : Nat) : (s.unpark k).thread = s.thread := (rfl)
@[simp] theorem State.leavePort_thread (s : State) (q : Nat) (r : FarReq) : (s.leavePort q r).thread = s.thread := by
  simp [State.leavePort]

@[simp] theorem State.phaseWake_thread (s : State) (crew : Nat) (ph : BitVec 32) : (s.phaseWake crew ph).thread = s.thread := by
  refine State.foldl_thread _ (fun s k => ?_) ..
  split
  · split <;> simp
  · rfl

@[simp] theorem State.endPhase_thread (s : State) (crew : Nat) : (s.endPhase crew).thread = s.thread := by
  simp [State.endPhase]
@[simp] theorem State.traceEntry_thread (s : State) (site core bank line : Nat) (phase : BitVec 32) :
    (s.traceEntry site core bank line phase).thread = s.thread := (rfl)
@[simp] theorem State.adoptAtHome_thread (s : State) (crew h : Nat) : (s.adoptAtHome crew h).thread = s.thread := by
  simp [State.adoptAtHome]
@[simp] theorem State.countBank_thread (s : State) (site bank : Nat) (corrected : Bool) :
    (s.countBank site bank corrected).thread = s.thread := (rfl)

@[simp] theorem State.arrayError_thread (s : State) (site bank line : Nat) :
    (s.arrayError site bank line).thread = s.thread := by
  simp only [State.arrayError]
  (repeat' split) <;> simp

@[simp] theorem State.scrubbed_thread (s : State) (site bank line : Nat) (found : EccFound) :
    (s.scrubbed site bank line found).thread = s.thread := by
  simp only [State.scrubbed]
  split <;> simp

@[simp] theorem State.lrwDone_thread (s : State) (l : Loc) (k : Nat) (d : BitVec 6) (p : BitVec 3) :
    (s.lrwDone l k d p).thread = s.thread := by simp [State.lrwDone]
@[simp] theorem State.meetLine_thread (s : State) (l : Loc) (src : Nat) : (s.meetLine l src).thread = s.thread := by
  simp [State.meetLine]

@[simp] theorem State.askRescue_thread (s : State) (l : Loc) (k : Nat) : (s.askRescue l k).thread = s.thread := by
  simp only [State.askRescue]
  split <;> simp

@[simp] theorem State.joinResv_thread (s : State) (l : Loc) (k : Nat) : (s.joinResv l k).thread = s.thread := by
  simp [State.joinResv]

@[simp] theorem State.lrwAtBank_thread (s : State) (p : Pkt) (l : Loc) : (s.lrwAtBank p l).thread = s.thread := by
  simp only [State.lrwAtBank]
  (repeat' split) <;> simp

theorem State.replayStart_thread (s : State) (core : Nat) (matrix : Bool) {r : State} (h : s.replayStart core matrix = some r) :
    r.thread = s.thread := by grind [State.replayStart, State.logEv_thread, State.dropRedo_thread]
@[simp] theorem State.cmdFar_thread (s : State) (c : Cmd) (va : Word) (kind : FarKind) (slot : Option Nat) :
    (s.cmdFar c va kind slot).thread = s.thread := (rfl)
@[simp] theorem State.issueMove_thread (s : State) (core : Nat) (r : Run) (m : Move) :
    (s.issueMove core r m).thread = s.thread := by simp [State.issueMove]
@[simp] theorem State.stopRun_thread (s : State) (core id : Nat) (err : BitVec 8) (a : Word) :
    (s.stopRun core id err a).thread = s.thread := (rfl)
@[simp] theorem State.takeLine_thread (s : State) (t : Nat) : (s.takeLine t).thread = s.thread := (rfl)

theorem State.useLines_thread (s : State) (own : Nat) (banks : List (Nat × Nat)) {r : State}
    (h : s.useLines own banks = some r) :
    r.thread = s.thread := by
  induction banks generalizing s with
  | nil => cases h; rfl
  | cons b rest ih =>
    simp only [State.useLines, List.foldlM_cons, Option.bind_eq_bind, Option.bind_eq_some_iff] at h
    obtain ⟨u, hu, hr⟩ := h
    exact (ih u hr).trans (State.useBankAs_thread _ _ _ _ hu)

@[simp] theorem State.publSend_thread (s : State) (core : Nat) (r : Run) (va : Word) (part : Nat)
    (x : Nat × Option Nat × Nat × Nat) :
    (s.publSend core r va part x).thread = s.thread := by
  simp only [State.publSend]
  split <;> simp

@[simp] theorem State.startMcast_thread (s : State) (c : Cmd) (src : List Loc) (tiles : List Nat) (data : Nat)
    (bar : Option Nat) (outId : Nat) :
    (s.startMcast c src tiles data bar outId).thread = s.thread := by simp [State.startMcast]

@[simp] theorem State.startSends_thread (s : State) (c : Cmd) (src : List Loc) (dst plat data : Nat) (bar : Option Nat) :
    (s.startSends c src dst plat data bar).thread = s.thread := by simp [State.startSends]
@[simp] theorem State.startSend_thread (s : State) (c : Cmd) (lost : Bool) (hdr : MsgHdr) (src : List Loc) (outId : Nat) :
    (s.startSend c lost hdr src outId).thread = s.thread := by simp [State.startSend]
@[simp] theorem State.beginRun_thread (s : State) (core : Nat) (c : Cmd) : (s.beginRun core c).thread = s.thread := (rfl)

@[simp] theorem State.startCmd_thread (s : State) (core : Nat) (c : Cmd) : (s.startCmd core c).thread = s.thread := by
  simp only [State.startCmd]
  (repeat' split) <;> simp

@[simp] theorem State.dropCmd_thread (s : State) (core : Nat) (c : Cmd) : (s.dropCmd core c).thread = s.thread := (rfl)

@[simp] theorem State.pushWord_thread (s : State) (core : Nat) (east : Bool) (w : Vec) :
    (s.pushWord core east w).thread = s.thread := by
  simp only [State.pushWord]
  split <;> simp

@[simp] theorem State.endSamples_thread (s : State) (core : Nat) : (s.endSamples core).thread = s.thread := by
  refine State.foldl_thread _ (fun s k => ?_) ..
  split
  · split <;> simp
  · rfl

@[simp] theorem State.grantBank_thread (s : State) (t bank : Nat) : (s.grantBank t bank).thread = s.thread := (rfl)
theorem State.swapCycle_thread (s : State) (t bank : Nat) {r : State} (h : s.swapCycle t bank = some r) :
    r.thread = s.thread := by grind [State.swapCycle, State.grantBank_thread]

@[simp] theorem State.swapLine_thread (s : State) (k : Option Nat) (n : Nat) : (s.swapLine k n).2.thread = s.thread := by
  simp only [State.swapLine]
  split
  · rfl
  · split
    · rfl
    · split
      · next h => exact State.swapCycle_thread _ _ _ h
      · rfl

@[simp] theorem State.moveSwap_thread (s : State) (w : Swap) : (s.moveSwap w).2.thread = s.thread := by
  simp only [State.moveSwap]
  split <;> simp

@[simp] theorem State.landPvr_thread (s : State) (t rc : Nat) : (s.landPvr t rc).thread = s.thread := by
  simp only [State.landPvr]
  (repeat' split) <;> simp

@[simp] theorem State.clockWraps_thread (s : State) (site : Nat) : (s.clockWraps site).thread = s.thread := (rfl)
@[simp] theorem State.failCrew_thread (s : State) (crew : Nat) (cause err : BitVec 8) (a : Word) :
    (s.failCrew crew cause err a).thread = s.thread := (rfl)

@[simp] theorem State.countLaunch_thread (s : State) (k : Nat) (v : Word) : (s.countLaunch k v).thread = s.thread := by
  simp only [State.countLaunch]
  split <;> simp

@[simp] theorem State.returnTo_thread (s : State) (k : Nat) (f : Resume) : (s.returnTo k f).thread = s.thread := (rfl)
@[simp] theorem State.returnLogged_thread (s : State) (k form : Nat) (v : Word) :
    (s.returnLogged k form v).thread = s.thread := by simp [State.returnLogged]
@[simp] theorem State.loadBytesInto_thread (s : State) (k : Nat) (threadd : List Byte) :
    (s.loadBytesInto k threadd).thread = s.thread := by simp [State.loadBytesInto]
@[simp] theorem State.loadFrame_thread (s : State) (k : Nat) : (s.loadFrame k).thread = s.thread := by
  simp [State.loadFrame]

@[simp] theorem State.beginSwap_thread (s : State) (core slot : Nat) (inn : Option Nat) :
    (s.beginSwap core slot inn).thread = s.thread := by
  simp only [State.beginSwap]
  split <;> simp

@[simp] theorem State.decideSwap_thread (s : State) (core slot : Nat) (inn : Option Nat) (how : SwapHow) :
    (s.decideSwap core slot inn how).thread = s.thread := by simp [State.decideSwap]

@[simp] theorem State.displace_thread (s : State) (core slot : Nat) : (s.displace core slot).thread = s.thread := by
  simp only [State.displace]
  split <;> simp

@[simp] theorem State.takeSwap_thread (s : State) (core slot : Nat) (inn : Option Nat) (how : SwapHow) :
    (s.takeSwap core slot inn how).thread = s.thread := by
  simp only [State.takeSwap]
  split <;> simp

theorem State.loggedSwap_thread (s : State) (core : Nat) {r : State} (h : s.loggedSwap core = some r) :
    r.thread = s.thread := by
  grind [State.loggedSwap, State.displace_thread, State.modCore_thread, State.modCtx_thread, State.takeSwap_thread]

@[simp] theorem State.fillLine_thread (s : State) (core line : Nat) (l : FLine) :
    (s.fillLine core line l).thread = s.thread := by simp [State.fillLine]
@[simp] theorem State.noteTrap_thread (s : State) (asyn : Bool) (holder : Option (Nat × Nat)) :
    (s.noteTrap asyn holder).thread = s.thread := (rfl)

@[simp] theorem State.takeTrap_thread (s : State) (k slot : Nat) (memb asyn : Bool) (flags : BitVec 5) (cause : BitVec 8)
    (eaddr : Word) :
    (s.takeTrap k slot memb asyn flags cause eaddr).thread = s.thread := by simp [State.takeTrap]

@[simp] theorem State.modMe_thread (s : State) (f : Ctx → Ctx) : (s.modMe f).thread = s.thread := (rfl)
@[simp] theorem State.raise_thread (s : State) (cause : BitVec 8) (eaddr : Word) : (s.raise cause eaddr).thread = s.thread :=
  (State.takeTrap_thread ..).trans (State.modMe_thread ..)
@[simp] theorem State.writeX_thread (s : State) (r : BitVec 6) (v : Word) (lat : Nat) :
    (s.writeX r v lat).thread = s.thread := by simp [State.writeX]
@[simp] theorem State.setRes_thread (s : State) (r : Result) : (s.setRes r).thread = s.thread := (rfl)
@[simp] theorem State.deepStart_thread (s : State) (k : Nat) : (s.deepStart k).thread = s.thread := by
  simp [State.deepStart]
@[simp] theorem State.await_thread (s : State) (w : Wait) : (s.await w).thread = s.thread := (rfl)

@[simp] theorem State.blaySchedule_thread (s : State) (crew : Nat) : (s.blaySchedule crew).2.thread = s.thread := by
  simp only [State.blaySchedule]
  split <;> simp

@[simp] theorem State.writeSg_thread (s : State) (d : BitVec 3) (e : Seg) (src : BitVec 8) :
    (s.writeSg d e src).thread = s.thread := (rfl)
@[simp] theorem State.stopGo_thread (s : State) (crew : Nat) : (s.stopGo crew).thread = s.thread := by simp [State.stopGo]
@[simp] theorem State.stopHorizon_thread (s : State) (crew : Nat) : (s.stopHorizon crew).thread = s.thread := (rfl)
@[simp] theorem State.stopCrews_thread (s : State) (d : BitVec 6) (part : Nat) (task : Option Nat) :
    (s.stopCrews d part task).thread = s.thread := by simp [State.stopCrews]

@[simp] theorem State.swapIn_thread (s : State) (core slot num : Nat) (q : Bool) :
    (s.swapIn core slot num q).2.thread = s.thread := by
  simp only [State.swapIn]
  (repeat' split) <;> simp

@[simp] theorem State.swapInFar_thread (s : State) (core slot e : Nat) (q : Bool) :
    (s.swapInFar core slot e q).2.thread = s.thread := by
  simp only [State.swapInFar]
  (repeat' split) <;> simp

@[simp] theorem State.endClaim_thread (s : State) : s.endClaim.thread = s.thread := (rfl)
@[simp] theorem State.askHome_thread (s : State) (c v : Nat) (op : VerOp) (d : BitVec 6) :
    (s.askHome c v op d).thread = s.thread := (rfl)
@[simp] theorem State.tookReply_thread (s : State) : s.tookReply.thread = s.thread := (rfl)
@[simp] theorem State.setGoing_thread (s : State) (g : Going) : (s.setGoing g).thread = s.thread := (rfl)
@[simp] theorem State.sendRead_thread (s : State) (a : Word) (l : Loc) (n : Nat) (phase : Option (BitVec 32)) :
    (s.sendRead a l n phase).thread = s.thread := (rfl)

theorem State.takeReply_thread (s : State) {r} (h : s.takeReply = some r) : r.2.thread = s.thread := by
  simp only [State.takeReply, Option.map_eq_some_iff] at h
  obtain ⟨_, -, rfl⟩ := h
  simp

@[simp] theorem State.refetch_thread (s : State) (k : Nat) (a : Word) : (s.refetch k a).thread = s.thread := (rfl)
@[simp] theorem State.writeP_thread (s : State) (p : BitVec 3) (v : Bool) : (s.writeP p v).thread = s.thread := by
  simp [State.writeP]
@[simp] theorem reapEmpty_thread (d : BitVec 6) (pd : BitVec 3) (slot : Nat) (s : State) :
    (reapEmpty d pd slot s).thread = s.thread := by simp [reapEmpty]
@[simp] theorem State.setEntry_thread (s : State) (core : Nat) (r : BitVec 6) (e : TsEnt) :
    (s.setEntry core r e).thread = s.thread := (rfl)
@[simp] theorem State.queueOp_thread (s : State) (o : MOp) (w : Wait) : (s.queueOp o w).thread = s.thread := (rfl)
@[simp] theorem State.transfer_thread (s : State) (target : Option Word) (d : Bool) : (s.transfer target d).thread = s.thread :=
  (rfl)
@[simp] theorem State.endRescue_thread (s : State) (l : Loc) (k : Nat) : (s.endRescue l k).thread = s.thread := (rfl)

@[simp] theorem State.moveRow_thread (s : State) (core : Nat) (m : BitVec 16) (e : Nat) :
    (s.moveRow core m e).thread = s.thread := by
  simp only [State.moveRow]
  (repeat' split) <;> simp

@[simp] theorem State.writeM_thread (s : State) (m : BitVec 3) (v : BitVec 16) : (s.writeM m v).thread = s.thread := by
  simp [State.writeM]
@[simp] theorem State.raiseFlags_thread (s : State) (f : BitVec 5) : (s.raiseFlags f).thread = s.thread := (rfl)

@[simp] theorem State.modRecord_thread (s : State) (f : TrapRec → TrapRec) (g : Resume → Resume) :
    (s.modRecord f g).thread = s.thread := by
  simp only [State.modRecord]
  split <;> simp

@[simp] theorem State.writeTrap_thread (s : State) (own : Ctx → Ctx) (f : TrapRec → TrapRec) (g : Resume → Resume) :
    (s.writeTrap own f g).thread = s.thread := by simp [State.writeTrap]
@[simp] theorem State.sendPvr_thread (s : State) (crew : Nat) (n : BitVec 16) : (s.sendPvr crew n).thread = s.thread := by
  simp [State.sendPvr]

@[simp] theorem State.writeS_thread (s : State) (sr : SReg) (v : Word) : (s.writeS sr v).thread = s.thread := by
  simp only [State.writeS]
  (repeat' split) <;> simp

@[simp] theorem State.holdLate_thread (found t : State) : (State.holdLate found t).thread = t.thread := (rfl)
@[simp] theorem State.formNpc_thread (s : State) (k : Nat) (l : FLine) : (s.formNpc k l).thread = s.thread := by
  simp [State.formNpc]
@[simp] theorem State.publLeaves_thread (s : State) (fuel field part : Nat) (a : Word) (left : Nat) :
    (s.publLeaves fuel field part a left).2.thread = s.thread := by
  induction fuel generalizing s a left with
  | zero => rfl
  | succ fuel ih =>
    have leaf := s.publLeaf_thread field part a
    simp only [State.publLeaves]
    split
    · rfl
    · split
      · next h => simpa only [h] using leaf
      · next l u h =>
        rw [h] at leaf
        split
        · exact leaf
        · have rest := ih u (a + BitVec.ofNat 64 (l.va + l.size - a.toNat % 2 ^ 52)) (left - (l.va + l.size - a.toNat % 2 ^ 52))
          split <;> next hr => rw [hr] at rest; exact rest.trans leaf

@[simp] theorem State.forkDecide_thread (s : State) (k : Nat) (d : BitVec 6) (n : Word) (p : Place) (t idx : Word) :
    (s.forkDecide k d n p t idx).thread = s.thread := by
  simp only [State.forkDecide]
  split
  · rfl
  · simp only [State.waitKnot_thread, State.sendKnot_thread]
    refine (State.foldl_thread _ (fun s c => ?_) ..).trans (State.logEv_thread ..)
    split <;> simp

@[simp] theorem State.knotAnswer_thread (s : State) (k answer : Nat) : (s.knotAnswer k answer).thread = s.thread := by
  simp only [State.knotAnswer]
  (repeat' split) <;> simp

@[simp] theorem State.farDone_thread (s : State) (r : FarReq) (err : BitVec 8) (data : List Byte) (logged : Bool) :
    (s.farDone r err data logged).thread = s.thread := by
  simp only [State.farDone]
  (repeat' split) <;> simp

@[simp] theorem State.losePeers_thread (s : State) (wafer : Nat) (port : Option Nat) :
    (s.losePeers wafer port).thread = s.thread := by
  simp [State.losePeers]

@[simp] theorem State.loseChannels_thread (s : State) (wafer : Nat) (only : Option Nat) :
    (s.loseChannels wafer only).thread = s.thread := by
  simp only [State.loseChannels, State.thread_with, State.thread_fold]
  refine (State.foldl_thread _ (fun s e => State.foldl_thread _ (fun s q => ?_) ..) ..).trans (by simp)
  split
  · split <;> simp
  · rfl

@[simp] theorem State.restoreCtxs_thread (s : State) (crew t : Nat) (im : Tbl Ctx) :
    (s.restoreCtxs crew t im).thread = s.thread := by
  simp only [State.restoreCtxs]
  refine (State.foldl_thread _ (fun s e => ?_) ..).trans (by simp)
  split <;> simp

@[simp] theorem State.wakeBit_thread (s : State) (k : Nat) : (s.wakeBit k).thread = s.thread := by
  delta wakeBit
  dsimp only
  split
  · rfl
  · generalize (s.ctx k).wait = w
    cases w <;> simp

@[simp] theorem State.knotEffects_thread (s : State) (part : Nat) (p : Place) (o : KnotOut) :
    (s.knotEffects part p o).thread = s.thread := by
  simp only [State.knotEffects]
  split <;> simp

@[simp] theorem State.watchHit_thread (s : State) (tile : Nat) (hit : Watch → Bool) :
    (s.watchHit tile hit).thread = s.thread := by
  simp [State.watchHit]

@[simp] theorem State.watchWake_thread (s : State) (l : Loc) (n : Nat) (en : BitVec 64) :
    (s.watchWake l n en).thread = s.thread := by
  simp [State.watchWake]

@[simp] theorem State.moveSwaps_thread (s : State) (core : Nat) : (s.moveSwaps core).thread = s.thread := by
  have moved (l : List Swap) : ∀ a : List Swap × State, (l.foldl (fun (a : List Swap × State) w =>
      let (w, s) := a.2.moveSwap w
      (a.1 ++ [w], s)) a).2.thread = a.2.thread := by
    induction l with
    | nil => exact fun _ => rfl
    | cons w rest ih => exact fun a => (ih _).trans (State.moveSwap_thread ..)
  simp only [State.moveSwaps]
  split
  · rfl
  · exact moved _ ([], s)

@[simp] theorem State.tickTile_thread (s : State) (t rc : Nat) : (s.tickTile t rc).thread = s.thread := by
  simp only [State.tickTile]
  simp

theorem State.wakeLogged_thread (s : State) (k : Nat) (code : BitVec 6) {r : State} (h : s.wakeLogged k code = some r) :
    r.thread = s.thread := by
  delta State.wakeLogged at h
  split at h
  · cases h
  · generalize (s.ctx k).wait = w at h
    cases w with
    | drain _ | drainBank _ _ | parkedBarw _ | parkedAmo | fetch _ =>
      obtain ⟨-, h⟩ := Option.ite_none_right_eq_some.mp h
      cases h
      simp
    | sleep _ _ | knotWait | ibpop _ | link _ => cases h; simp
    | _ => cases h

theorem State.parkOut_thread (s : State) (core : Nat) {r : State} (h : s.parkOut core = some r) : r.thread = s.thread := by
  simp only [State.parkOut, Option.ite_none_left_eq_some] at h
  obtain ⟨j, -, hj⟩ := List.exists_of_findSome?_eq_some h.2
  (repeat' split at hj) <;> cases hj
  simp

theorem State.reload_thread (s : State) (core : Nat) {r : State} (h : s.reload core = some r) : r.thread = s.thread := by
  obtain ⟨e, -, he⟩ := List.exists_of_findSome?_eq_some h
  dsimp only at he
  (repeat' split at he) <;> cases he <;> simp

theorem State.deliver_thread (s : State) (core : Nat) {r : State} (h : s.deliver core = some r) : r.thread = s.thread := by
  simp only [State.deliver] at h
  (repeat' split at h) <;> simp only [reduceCtorEq, Option.some.injEq, Option.map_eq_some_iff] at h
  · subst h; simp
  · subst h; simp
  · obtain ⟨j, -, rfl⟩ := h; simp

theorem State.rowDecision_thread (s : State) (core : Nat) {r : State} (h : s.rowDecision core = some r) :
    r.thread = s.thread := by
  simp only [State.rowDecision] at h
  split at h
  · cases h
  · split at h
    · cases h; simp
    · simp only [Option.or_eq_some_iff, Option.ite_none_right_eq_some, Option.map_eq_some_iff] at h
      grind [State.decideSwap_thread]

theorem State.rescue_thread (s : State) (core : Nat) {r : State} (h : s.rescue core = some r) : r.thread = s.thread := by
  simp only [State.rescue] at h
  split at h
  · cases h
  · simp only [Option.map_eq_some_iff] at h
    obtain ⟨j, -, rfl⟩ := h; simp

@[simp] theorem State.trapOn_thread (found t : State) : (State.trapOn found t).thread = found.thread := by
  simp [State.trapOn]
@[simp] theorem State.trapFlags_thread (found one two : State) : (State.trapFlags found one two).thread = found.thread := by
  simp [State.trapFlags]

@[simp] theorem State.fallAsleep_thread (found t : State) (memb : Bool) :
    (State.fallAsleep found t memb).thread = found.thread := by
  simp [State.fallAsleep]

@[simp] theorem State.refusedBy_thread (found t : State) : (State.refusedBy found t).thread = found.thread := by
  simp only [State.refusedBy, State.setRes_thread]
  split <;> simp

end Sys2Proof.Machine
end

section
/-! The thread in issue (O6) through what writes memory, parks, lands, replays and serves the host. -/

namespace Sys2Proof.Machine

theorem State.thread_of_pair {α : Type} {p : α × State} {a : α} {t : State} (h : p = (a, t)) : t.thread = p.2.thread :=
  congrArg (fun q : α × State => q.2.thread) h.symm

@[simp] theorem State.writePa_thread (s : State) (pa : Nat) (bs : List Byte) : (s.writePa pa bs).thread = s.thread := (rfl)
@[simp] theorem State.setBufMap_thread (s : State) (h part entry : Nat) (b : BufMap) :
    (s.setBufMap h part entry b).thread = s.thread := (rfl)
@[simp] theorem State.freeEntryCopies_thread (s : State) (h part entry : Nat) :
    (s.freeEntryCopies h part entry).thread = s.thread := by
  simp only [State.freeEntryCopies]
  split <;> simp

@[simp] theorem State.touchBuf_thread (s : State) (h part entry : Nat) : (s.touchBuf h part entry).thread = s.thread := by
  simp [State.touchBuf]
@[simp] theorem State.placeServed_thread (s : State) (field part : Nat) (crew : Option Nat) (l : Leaf) (va n : Nat) :
    (s.placeServed field part crew l va n).2.thread = s.thread := by
  simp only [State.placeServed]
  split <;> simp

@[simp] theorem State.farPlace_thread (s : State) (field part : Nat) (crew : Option Nat) (a : Word) (n : Nat) (acc : Acc) :
    (s.farPlace field part crew a n acc).2.thread = s.thread := by
  grind [State.farPlace, State.translate_thread, State.placeServed_thread]

@[simp] theorem State.readFar_thread (s : State) (field part : Nat) (crew : Option Nat) (a : Word) (n : Nat) (acc : Acc) :
    (s.readFar field part crew a n acc).2.thread = s.thread := by
  grind [State.readFar, State.farPlace_thread, State.countRow_thread]

@[simp] theorem State.readLines_thread (s : State) (field part : Nat) (crew : Option Nat) (ps : List (Word × Nat)) :
    (s.readLines field part crew ps).2.thread = s.thread := by
  induction ps generalizing s with
  | nil => rfl
  | cons p rest ih =>
    have read := s.readFar_thread field part crew p.1 p.2 .read
    simp only [State.readLines]
    split
    · next h => exact (State.thread_of_pair h).trans read
    · next h =>
      split <;> next hr => exact (State.thread_of_pair hr).trans ((ih _).trans ((State.thread_of_pair h).trans read))

@[simp] theorem State.hostRead_thread (s : State) (fn : Nat) (a : Word) (n : Nat) :
    (s.hostRead fn a n).2.thread = s.thread := by simp [State.hostRead]
@[simp] theorem State.hostLaunch_thread (s : State) (fn : Nat) : (s.hostLaunch fn).thread = s.thread := by
  grind [State.hostLaunch, State.hostResult_thread, State.hostRead_thread, State.post_thread]
@[simp] theorem State.freeCopies_thread (s : State) (h : Nat) : (s.freeCopies h).thread = s.thread := by simp [State.freeCopies]
@[simp] theorem State.publishAt_thread (s : State) (h part entry : Nat) : (s.publishAt h part entry).thread = s.thread := by
  simp [State.publishAt]
@[simp] theorem State.writeLoc_thread (s : State) (l : Loc) (bs : List Byte) : (s.writeLoc l bs).thread = s.thread := by
  simp [State.writeLoc]
@[simp] theorem State.setBarrier_thread (s : State) (l : Loc) (b : Barrier) : (s.setBarrier l b).thread = s.thread := (rfl)
@[simp] theorem State.setPrk_thread (s : State) (bar : Bar) (v : Bool) : (s.setPrk bar v).thread = s.thread := by
  simp only [State.setPrk]
  split <;> simp

@[simp] theorem State.unparkBar_thread (s : State) (bar : Bar) : (s.unparkBar bar).thread = s.thread := by
  simp only [State.unparkBar]
  split <;> simp

theorem State.parkReq_thread (s : State) (field : Nat) (r : FarReq) {w} (hw : s.parkReq field r = .ok w) :
    w.thread = s.thread := by grind [State.parkReq, State.setGw_thread, State.modCtx_thread, State.setPrk_thread]
@[simp] theorem State.transError_thread (s : State) (field : Nat) (r : FarReq) (err : BitVec 8) :
    (s.transError field r err).thread = s.thread := by
  grind [State.transError, State.parkReq_thread, State.farAnswer_thread]

theorem State.forwardPeer_thread (s : State) (field : Nat) (r : FarReq) (l : Leaf) (wafer va : Nat) {w}
    (hw : s.forwardPeer field r l wafer va = some w) : w.thread = s.thread := by
  grind [State.forwardPeer, State.transError_thread, State.farAnswer_thread, State.drawSeq_thread, State.movePkt_thread,
    State.sendTo_thread]

theorem State.toPeer_thread (s : State) (field : Nat) (r : FarReq) {w} (hw : s.toPeer field r = some w) :
    w.thread = s.thread := by
  grind [State.toPeer, State.translatePeer_thread, State.transError_thread, State.forwardPeer_thread]

@[simp] theorem State.beginWalk_thread (s : State) (field : Nat) (r : FarReq) (va : Nat) :
    (s.beginWalk field r va).thread = s.thread := by
  simp only [State.beginWalk]
  split <;> simp

@[simp] theorem State.saveFrame_thread (s : State) (k : Nat) : (s.saveFrame k).thread = s.thread := by simp [State.saveFrame]
@[simp] theorem State.winWrite_thread (s : State) (a : Word) (en : BitVec 64) (v : BitVec 512) (level : BitVec 2) :
    (s.winWrite a en v level).thread = s.thread := by
  simp only [State.winWrite]
  (repeat' split) <;> simp

@[simp] theorem State.winStore_thread (s : State) (a : Word) (en : BitVec 64) (v : BitVec 512) (level : BitVec 2) :
    (s.winStore a en v level).thread = s.thread := by simp [State.winStore]
theorem State.swapOut_thread (s : State) (by_ core slot : Nat) (spill : Option Nat) {w}
    (hw : s.swapOut by_ core slot spill = some w) : w.2.thread = s.thread := by
  grind [State.swapOut, State.modCtx_thread, State.saveFrame_thread, State.clearSlot_thread, State.renumber_thread,
    State.writePa_thread, State.dealWaiting_thread]

@[simp] theorem State.openShadow_thread (s : State) (h part entry : Nat) (b : BufMap) (c : Nat) :
    (s.openShadow h part entry b c).thread = s.thread := by simp [State.openShadow]
theorem State.bufWrite_thread (s : State) (h : Nat) (r : FarReq) (leaf off : Nat) (data : List Byte) {w}
    (hw : s.bufWrite h r leaf off data = some w) : w.2.thread = s.thread := by
  grind [State.bufWrite, State.touchBuf_thread, State.heat_thread, State.writePa_thread, State.openShadow_thread]

@[simp] theorem State.restoreTraffic_thread (s : State) (crew t old new : Nat) :
    (s.restoreTraffic crew t old new).thread = s.thread := by
  simp only [State.restoreTraffic]
  split <;> simp

@[simp] theorem State.restoreTile_thread (s : State) (crew t : Nat) : (s.restoreTile crew t).thread = s.thread := by
  simp only [State.restoreTile]
  split <;> simp

@[simp] theorem State.rollBack_thread (s : State) (crew H old new : Nat) :
    (s.rollBack crew H old new).thread = s.thread := by
  simp only [State.rollBack]
  (repeat' split) <;> simp

@[simp] theorem State.freeCrew_thread (s : State) (crew : Nat) : (s.freeCrew crew).thread = s.thread := by simp [State.freeCrew]
@[simp] theorem State.requeue_thread (s : State) (crew : Nat) : (s.requeue crew).thread = s.thread := by
  simp only [State.requeue]
  split <;> simp

@[simp] theorem State.applyTile_thread (s : State) (crew t c : Nat) : (s.applyTile crew t c).thread = s.thread := (rfl)
@[simp] theorem State.closeCut_thread (s : State) (crew : Nat) : (s.closeCut crew).thread = s.thread := by
  simp only [State.closeCut]
  split <;> simp

@[simp] theorem State.moveKeep_thread (s : State) (t site spare : Nat) : (s.moveKeep t site spare).thread = s.thread := by
  simp only [State.moveKeep]
  (repeat' split) <;> simp

@[simp] theorem State.spliceTo_thread (s : State) (t site spare : Nat) : (s.spliceTo t site spare).thread = s.thread := by
  simp only [State.spliceTo]
  split <;> simp

@[simp] theorem State.rollBackInPlace_thread (s : State) (crew site : Nat) :
    (s.rollBackInPlace crew site).thread = s.thread := by simp [State.rollBackInPlace]
@[simp] theorem State.saveResidents_thread (s : State) (t : Nat) : (s.saveResidents t).thread = s.thread := by
  refine State.foldl_thread _ (fun s c => State.foldl_thread _ (fun s j => ?_) ..) ..
  split <;> simp

@[simp] theorem State.captureTile_thread (s : State) (t v : Nat) : (s.captureTile t v).thread = s.thread := by
  simp [State.captureTile]
@[simp] theorem State.captureCrew_thread (s : State) (crew v : Nat) (launch : Bool) :
    (s.captureCrew crew v launch).thread = s.thread := by simp [State.captureCrew]
@[simp] theorem State.plainPlace_thread (s : State) (field part : Nat) (a : Word) (n : Nat) :
    (s.plainPlace field part a n).2.thread = s.thread := by simp [State.plainPlace]
theorem State.readAny_thread (s : State) (field part : Nat) (a : Word) (n : Nat) :
    (s.readAny field part a n).2.thread = s.thread := by
  simp only [State.readAny]
  (repeat' split) <;> simp

@[simp] theorem State.loadTile_thread (s : State) (t : Nat) (im : List (Nat × Nat × List Byte)) :
    (s.loadTile t im).thread = s.thread := by simp [State.loadTile]
@[simp] theorem State.entryReason_thread (s : State) (p : Nat) (b : Block) (t0 : Nat) :
    (s.entryReason p b t0).2.thread = s.thread := by grind [State.entryReason, State.readFar_thread]
theorem State.routeList_thread (s : State) (p : Nat) (b : Block) : (s.routeList p b).2.thread = s.thread := by
  grind [State.routeList, State.readAny_thread]
@[simp] theorem State.arriveAt_thread (s : State) (l : Loc) (n : Nat) (tag : BitVec 16) (err : BitVec 8) (addr : BitVec 32) :
    (s.arriveAt l n tag err addr).thread = s.thread := by simp [State.arriveAt]
@[simp] theorem State.rtwrDone_thread (s : State) (bar : Bar) : (s.rtwrDone bar).thread = s.thread := by
  simp only [State.rtwrDone]
  split <;> simp

@[simp] theorem State.setIbxWord_thread (s : State) (t : Nat) (x : Word) (at_ v : Nat) :
    (s.setIbxWord t x at_ v).thread = s.thread := (rfl)
@[simp] theorem State.landMsg_thread (s : State) (t : Nat) (x : Word) (h : MsgHdr) :
    (s.landMsg t x h).thread = s.thread := by simp [State.landMsg]
@[simp] theorem State.acceptMsg_thread (s : State) (t crew : Nat) (x : Word) (h : MsgHdr) (data : List Byte) :
    (s.acceptMsg t crew x h data).thread = s.thread := by simp [State.acceptMsg]
@[simp] theorem State.dropMsg_thread (s : State) (t : Nat) (x : Word) : (s.dropMsg t x).thread = s.thread := (rfl)
@[simp] theorem State.fetchMedia_thread (s : State) (k : Nat) : (s.fetchMedia k).thread = s.thread := by
  grind [State.fetchMedia, State.farPlace_thread, State.mediaMet_thread, State.failWait_thread]
@[simp] theorem State.linkBlock_thread (s : State) (k : Nat) (b next : Word) :
    (s.linkBlock k b next).thread = s.thread := by
  grind [State.linkBlock, State.writeLoc_thread, State.plainPlace_thread, State.writePa_thread]

@[simp] theorem State.applyAtomic_thread (s : State) (r : FarReq) (pa : Nat) :
    (s.applyAtomic r pa).2.thread = s.thread := by
  simp only [State.applyAtomic]
  (repeat' split) <;> simp

theorem State.forward_thread (s : State) (field : Nat) (r : FarReq) (l : Leaf) (va : Nat) {w}
    (hw : s.forward field r l va = some w) : w.thread = s.thread := by
  grind [State.forward, State.transError_thread, State.farAnswer_thread, State.drawSeq_thread, State.movePkt_thread,
    State.sendTo_thread]

@[simp] theorem State.writeEn_thread (s : State) (l : Loc) (n : Nat) (en : BitVec 64) (v : BitVec 512) :
    (s.writeEn l n en v).thread = s.thread := by simp [State.writeEn]
@[simp] theorem State.knotAtBank_thread (s : State) (p : Pkt) (l : Loc) (op : KnotOp) (outId : Nat) :
    (s.knotAtBank p l op outId).thread = s.thread := by
  simp only [State.knotAtBank]
  (repeat' split) <;> simp

@[simp] theorem State.landImm_thread (s : State) (ctx : Nat) (l : Loc) (n : Nat) (en : BitVec 64) (v : BitVec 512) :
    (s.landImm ctx l n en v).thread = s.thread := by simp [State.landImm]
@[simp] theorem State.amoAt_thread (s : State) (ctx : Nat) (l : Loc) (op : AmoOp) (ty : Ty) (b cmp : Word) :
    (s.amoAt ctx l op ty b cmp).2.thread = s.thread := by simp [State.amoAt]
@[simp] theorem State.initBar_thread (s : State) (l : Loc) (n : Nat) : (s.initBar l n).thread = s.thread := by
  simp [State.initBar]
@[simp] theorem State.landBuf_thread (s : State) (core : Nat) (r : Run) (b : LineBuf) :
    (s.landBuf core r b).thread = s.thread := by
  simp only [State.landBuf]
  split
  · simp only [State.delivered_thread]
    refine (State.foldl_thread _ (fun s x => ?_) ..).trans (by simp)
    split <;> simp
  · rw [State.foldl_thread _ fun s x => by simp]
    simp

@[simp] theorem State.landLogged_thread (s : State) (t : Nat) (h : MsgHdr) (data : List Byte) :
    (s.landLogged t h data).thread = s.thread := by simp [State.landLogged]
theorem State.applyLogged_thread (s : State) (crew : Nat) (r : LogRec) {w} (hw : s.applyLogged crew r = some w) :
    w.thread = s.thread := by
  grind [State.applyLogged, State.landLogged_thread, State.watchWake_thread, State.writeEn_thread, State.winWrite_thread,
    State.returnLogged_thread, State.wakeLogged_thread, State.refreshView_thread, State.completeX_thread, State.dealFrom_thread,
    State.countLaunch_thread]

@[simp] theorem State.replayDue_thread (s : State) (fuel t crew : Nat) : (s.replayDue fuel t crew).thread = s.thread := by
  induction fuel generalizing s with
  | zero => rfl
  | succ fuel ih =>
    simp only [State.replayDue]
    split
    · rfl
    · split
      · next h => exact (ih _).trans ((State.applyLogged_thread _ _ _ h).trans (by simp))
      · rfl

@[simp] theorem State.replayTile_thread (s : State) (t : Nat) : (s.replayTile t).thread = s.thread := by
  simp only [State.replayTile]
  split <;> simp

theorem State.hostPublish_thread (s : State) (fn : Nat) (a len : Word) {w} (hw : s.hostPublish fn a len = some w) :
    w.2.thread = s.thread := by
  have told (part : Nat) (l : List (Nat × Option Nat × Nat × Nat)) : ∀ r : BitVec 8 × State,
      (l.foldl (fun (r : BitVec 8 × State) x =>
        let code := (r.2.bufMap x.1 part x.2.2.1).admits x.2.2.2
        if code = 0 then (r.1, r.2.publishAt x.1 part x.2.2.1) else (if r.1 = 0 then code else r.1, r.2)) r).2.thread = r.2.thread := by
    induction l with
    | nil => exact fun _ => rfl
    | cons x rest ih =>
      intro r
      refine (ih _).trans ?_
      dsimp only
      split <;> simp
  have leaves := s.publLeaves_thread (len.toNat / 2 ^ 16 + 2) anchorField (s.pctx fn) a len.toNat
  simp only [State.hostPublish] at hw
  split at hw
  · cases hw; rfl
  · split at hw
    · next h => cases hw; exact (State.thread_of_pair h).trans leaves
    · next h =>
      split at hw <;> cases hw
      exact (told (s.pctx fn) (publTargets _) (0, _)).trans ((State.thread_of_pair h).trans leaves)

theorem State.hostPublishes_thread (s : State) (fuel fn : Nat) : (s.hostPublishes fuel fn).thread = s.thread := by
  induction fuel generalizing s with
  | zero => rfl
  | succ fuel ih =>
    unfold State.hostPublishes
    cases hq : (s.host fn).pubq with
    | nil => rfl
    | cons p rest =>
      dsimp only
      split
      · rfl
      · split
        · rfl
        · next h => exact (ih _).trans ((State.modHost_thread ..).trans (State.hostPublish_thread _ _ _ _ h))

@[simp] theorem State.hostSettle_thread (s : State) (fn : Nat) : (s.hostSettle fn).thread = s.thread := by
  have held := s.hostPublishes_thread (s.host fn).pubq.length fn
  simp only [State.hostSettle]
  (repeat' split) <;> simp [held]

@[simp] theorem State.writeQsc_thread (s : State) (v : Word) : (s.writeQsc v).thread = s.thread := by simp [State.writeQsc]
@[simp] theorem State.parkAct_thread (s : State) (field : Nat) (v : Word) : (s.parkAct field v).thread = s.thread := by
  simp only [State.parkAct]
  split
  · simp
  · split
    · simp
    · next r _ =>
      rw [State.unparkBar_thread]
      generalize hs : State.setGw (State.setGw s _ _) _ _ = s1
      have kept : s1.thread = s.thread := by rw [← hs]; simp
      split
      · (repeat' split) <;> simp [kept]
      · rw [State.thread_ite, kept]
        refine (ite_congr rfl (fun _ => rfl) fun _ => ?_).trans (ite_self s.thread)
        split
        · simp [kept]
        · generalize hu : s1.toPeer field r = u
          cases u with
          | none => simp [kept]
          | some u => exact (State.toPeer_thread _ _ _ hu).trans kept
        · simp [kept]

@[simp] theorem State.writeGw_thread (s : State) (field off : Nat) (v : Word) (fw : Bool) :
    (s.writeGw field off v fw).thread = s.thread := by
  simp only [State.writeGw]
  (repeat' split) <;> simp

@[simp] theorem State.settleCtx_thread (s : State) (k : Nat) : (s.settleCtx k).thread = s.thread := by
  delta State.settleCtx
  dsimp only
  generalize (s.ctx k).wait = w
  cases w with
  | drain _ | drainBank _ _ | fence _ | taskend _ => dsimp only; split <;> simp
  | join p t asked | hop target c np asked =>
    cases asked
    · dsimp only; split <;> simp
    · rfl
  | swap d c slot spill =>
    dsimp only
    split
    · next h => simpa using State.swapOut_thread _ _ _ _ _ h
    · rfl
  | _ => rfl

@[simp] theorem State.settle_thread (s : State) : s.settle.thread = s.thread := by simp [State.settle]
@[simp] theorem State.hostPiece_thread (s : State) (fn off : Nat) (data : List Byte) :
    (s.hostPiece fn off data).thread = s.thread := by
  simp only [State.hostPiece]
  split
  · rfl
  · split
    · simp
    · split
      · split <;> simp
      · next a _ =>
        have walked := s.translate_thread anchorField (s.pctx fn) (a.toNat % 2 ^ 52) .write false
        split
        · next h => simpa using (State.thread_of_pair h).trans walked
        · next h =>
          have kept := (State.thread_of_pair h).trans walked
          split
          · simpa using kept
          · split
            · simpa using kept
            · next hb =>
              have written := State.bufWrite_thread _ _ _ _ _ _ hb
              split <;> simp [written, kept]

theorem State.hostPieces_thread (s : State) (fn : Nat) (ps : List (Word × Nat)) {w} (hw : s.hostPieces fn ps = some w) :
    w.2.thread = s.thread := by
  induction ps generalizing s w with
  | nil => cases hw; rfl
  | cons p rest ih =>
    simp only [State.hostPieces] at hw
    split at hw
    · cases hw
    · next x _ =>
      have read : (match x with
          | .phys pa => ((if s.rangeOk pa p.2 then .ok (s.readPa pa p.2) else .error ePa : Except (BitVec 8) (List Byte)), s)
          | .virt a => s.hostRead fn a p.2).2.thread = s.thread := by
        split
        · rfl
        · exact State.hostRead_thread ..
      split at hw
      · cases hw; exact read
      · simp only [Option.map_eq_some_iff] at hw
        obtain ⟨q, hq, rfl⟩ := hw
        exact (ih _ (w := q) hq).trans read

theorem State.hostBytes_thread (s : State) (fn off len : Nat) {w} (hw : s.hostBytes fn off len = some w) :
    w.2.thread = s.thread :=
  State.hostPieces_thread _ _ _ hw

@[simp] theorem State.undefPages_thread (s : State) (fuel field part va : Nat) :
    (s.undefPages fuel field part va).thread = s.thread := by
  induction fuel generalizing s va with
  | zero => rfl
  | succ fuel ih =>
    have walked := s.translate_thread field part va .read true
    refine (ih _ _).trans ?_
    split
    · next h =>
      have kept := (State.thread_of_pair h).trans walked
      dsimp only
      split
      · exact kept
      · simpa only [State.thread_with, State.thread_fold] using (State.writePa_thread ..).trans kept
    · next h => exact (State.thread_of_pair h).trans walked

@[simp] theorem State.stageAt_thread (s : State) (v crew : Nat) : (s.stageAt v crew).2.thread = s.thread := by
  simp only [State.stageAt]
  (repeat' split) <;> simp

@[simp] theorem State.lostBlock_thread (s : State) (part : Nat) (p : Place) : (s.lostBlock part p).thread = s.thread := by
  simp only [State.lostBlock, State.countPart_thread]
  split
  · exact State.writeLoc_thread ..
  · next va =>
    have place := s.plainPlace_thread (s.partField part) part va 32
    split
    · next h => exact (State.writePa_thread ..).trans ((State.thread_of_pair h).trans place)
    · next h => exact (State.thread_of_pair h).trans place

@[simp] theorem State.considered_thread (s : State) (p : Nat) (b : Block) : (s.considered p b).2.thread = s.thread := by
  have list := s.routeList_thread p b
  unfold State.considered
  split
  · rfl
  · split
    · rfl
    · split
      · rfl
      · split
        · rfl
        · generalize s.routeList p b = r at list
          obtain ⟨l, u⟩ := r
          dsimp only
          generalize ((l.bind _).or _).getD _ = t0
          have entry := (u.entryReason_thread p b t0).trans list
          generalize u.entryReason p b t0 = q at entry
          (repeat' split) <;> exact entry

@[simp] theorem State.dispatchOne_thread (s : State) (p : Nat) (e : QEnt) (mayPlace : Bool) :
    (s.dispatchOne p e mayPlace).2.thread = s.thread := by
  have seen := s.considered_thread p e.blk
  simp only [State.dispatchOne]
  split <;> next h =>
    have kept := (State.thread_of_pair h).trans seen
    (repeat' split) <;> simpa using kept

@[simp] theorem State.dispatchFrom_thread (s : State) (p : Nat) (q : List QEnt) (stale : Option QEnt) :
    (s.dispatchFrom p q stale).2.thread = s.thread := by
  induction q generalizing s with
  | nil => rfl
  | cons e rest ih =>
    have one (may : Bool) := s.dispatchOne_thread p e may
    simp only [State.dispatchFrom]
    split
    · next h => exact (State.thread_of_pair h).trans (one _)
    · next h => exact (ih _).trans ((State.thread_of_pair h).trans (one _))

theorem State.refuseMsg_thread (s : State) (t : Nat) (h : MsgHdr) {w} (hw : s.refuseMsg t h = some w) :
    w.thread = s.thread := by
  simp only [State.refuseMsg] at hw
  (repeat' split at hw) <;> cases hw <;> simp

@[simp] theorem State.hostWritten_thread (s : State) (fn : Nat) (r : FarReq) (err : BitVec 8) :
    (s.hostWritten fn r err).thread = s.thread := by simp [State.hostWritten]
@[simp] theorem State.storeAcc_thread (s : State) (core : Nat) (o : MOp) (ty : Ty) (rm : Rm) (sat : Bool) (e : TsEnt) :
    (s.storeAcc core o ty rm sat e).1.thread = s.thread := by
  have put (a : Nat → Word) (l : List (Byte × Nat)) (u : State) : (l.foldl (fun s b => match s.opPlace o (a b.2) with
        | .ok l => s.writeLoc l [b.1]
        | .error _ => s) u).thread = u.thread := by
    refine State.foldl_thread _ (fun s b => ?_) ..
    split <;> simp
  have rows (l : List Nat) (f : State × MxCount → Nat → State × MxCount) (hf : ∀ r i, (f r i).1.thread = r.1.thread) :
      ∀ r, (l.foldl f r).1.thread = r.1.thread := by
    induction l with
    | nil => exact fun _ => rfl
    | cons i rest ih => exact fun r => (ih _).trans (hf r i)
  exact rows _ _ (fun r i => (put _ _ _).trans (put _ _ _)) _

@[simp] theorem State.finishOp_thread (s : State) (core : Nat) (o : MOp) : (s.finishOp core o).1.thread = s.thread := by
  simp only [State.finishOp]
  (repeat' split) <;> simp

@[simp] theorem State.publMove_thread (s : State) (core : Nat) (r : Run) (va len : Word) :
    (s.publMove core r va len).thread = s.thread := by
  have leaves (fuel field part : Nat) := s.publLeaves_thread fuel field part va len.toNat
  simp only [State.publMove]
  split
  · rfl
  · split
    · simp
    · split
      · next h =>
        have kept := (State.thread_of_pair h).trans (leaves _ _ _)
        split
        · split
          · next hp => simp [State.parkReq_thread _ _ _ hp, kept]
          · simpa using kept
        · simpa using kept
      · next h => simpa using (State.thread_of_pair h).trans (leaves _ _ _)

@[simp] theorem State.runMove_thread (s : State) (core : Nat) (r : Run) : (s.runMove core r).thread = s.thread := by
  simp only [State.runMove]
  split
  · exact State.publMove_thread ..
  · split
    · split
      · rfl
      · split
        · next h => simp [State.useLines_thread _ _ _ h]
        · rfl
    · split
      · split
        · simp
        · split
          · next h => simp [State.useLines_thread _ _ _ h]
          · rfl
      · split
        · rfl
        · split <;> simp

@[simp] theorem State.exactMove_thread (s : State) (core : Nat) (r : Run) : (s.exactMove core r).thread = s.thread := by
  have written (l : List (Src × Option Byte)) (u : State) : (l.foldl (fun (s : State) (x : Src × Option Byte) => match x.1 with
        | .vault l => s.writeLoc l [x.2.getD 0]
        | _ => s) u).thread = u.thread := by
    refine State.foldl_thread _ (fun s x => ?_) ..
    split <;> simp
  simp only [State.exactMove]
  split <;> simp only [State.stopRun_thread, State.modRun_thread] <;> split
  · refine (written _ _).trans ?_
    simp only [State.takeLine_thread]
    split <;> simp
  · split <;> simp
  · refine (written _ _).trans ?_
    simp only [State.takeLine_thread]
    split <;> simp
  · split <;> simp


end Sys2Proof.Machine
end

section
/-! The record of the thread in issue names a thread of a tile (O6): what that says, a reset, and what an effect leaves when it is not
stopped, what the stop of a group keeps, and the checks, which read the state and change nothing. -/

namespace Sys2Proof.Machine

/-- A thread of a tile: a 16-bit tile number, one of 4 cores, one of 64 context numbers (R334). -/
def InTile (n : Nat × Nat × Nat) : Prop := n.1 < 2 ^ 16 ∧ n.2.1 < 4 ∧ n.2.2 < 64

theorem State.threadOk_iff (s : State) : s.ThreadOk ↔ InTile s.thread := .rfl

theorem InTile.of_eq {s t : State} (ok : InTile s.thread) (h : t.thread = s.thread) : InTile t.thread := h ▸ ok

@[simp] theorem inTile_ite (c : Prop) [Decidable c] (a b : Nat × Nat × Nat) :
    InTile (if c then a else b) ↔ if c then InTile a else InTile b := by split <;> rfl

theorem InTile.snd {α : Type} {p : α × State} {a : α} {t : State} (ok : InTile p.2.thread) (h : p = (a, t)) : InTile t.thread :=
  ok.of_eq (State.thread_of_pair h)

theorem State.ite_inTile {c : Prop} [Decidable c] {s t : State} (hs : InTile s.thread) (ht : InTile t.thread) :
    InTile (if c then s else t).thread := by split <;> assumption

/-! A reset writes the record anew (R446). -/

@[simp] theorem State.resetDevice_inTile (s : State) (powerOn : Bool) : InTile (s.resetDevice powerOn).thread :=
  show InTile (0xC060, 0, 0) from ⟨by decide, by decide, by decide⟩

@[simp] theorem State.fieldLoss_inTile {s : State} (f : Nat) (ok : InTile s.thread) : InTile (s.fieldLoss f).thread := by
  simp only [State.fieldLoss]
  split
  · exact State.resetDevice_inTile ..
  · simp only [State.thread_with, State.thread_fold]
    refine ok.of_eq ((State.foldl_thread _ (fun s c => ?_) ..).trans (by simp))
    split
    · split <;> simp
    · rfl

@[simp] theorem State.writeSys_inTile {s : State} (off : Nat) (v : Word) (fw : Bool) (site : Nat) (ok : InTile s.thread) :
    InTile (s.writeSys off v fw site).thread := by simp [State.writeSys, ok]

@[simp] theorem State.ctrlWrite_inTile {s : State} (a v : Word) (level : BitVec 2) (site : Nat) (ok : InTile s.thread) :
    InTile (s.ctrlWrite a v level site).thread := by
  simp only [State.ctrlWrite]
  (repeat' split) <;> simp [ok]

/-! Effects, stops and answers. -/


/-- What a stop sends first, a request that the group waits for, leaves a thread of a tile. -/
def Stop.Stays : Stop → Prop
  | .again t => InTile t.thread
  | _ => True

/-- An effect that is not stopped leaves what satisfies `P`; one that is, a thread of a tile where it sends a request first. -/
def LeavesInTile {α : Type} (P : α → Prop) : Except Stop α → Prop
  | .ok a => P a
  | .error e => e.Stays

/-- The state that an instruction answers has a thread of a tile in issue. -/
def StaysInTile : Ans → Prop
  | .next t => InTile t.thread
  | _ => True

section
variable {α β : Type} {P : α → Prop} {Q : β → Prop} {a : α} {s t : State}

@[simp] theorem stop_trap_stays (c : BitVec 8) (a : Word) : (Stop.trap c a).Stays := trivial
@[simp] theorem stop_note_stays (c : BitVec 8) (a : Word) (b : Bool) (h : Option (Nat × Nat)) : (Stop.note c a b h).Stays :=
  trivial
@[simp] theorem stop_refuse_stays : Stop.refuse.Stays := trivial
@[simp] theorem stop_held_stays (l : Nat) : (Stop.held l).Stays := trivial
@[simp] theorem stop_sleep_stays (w : Wait) : (Stop.sleep w).Stays := trivial
@[simp] theorem stop_again_stays : (Stop.again t).Stays ↔ InTile t.thread := .rfl
@[simp] theorem leavesInTile_ok : LeavesInTile P (.ok a) ↔ P a := .rfl
@[simp] theorem leavesInTile_pure : LeavesInTile P (pure a) ↔ P a := .rfl
@[simp] theorem leavesInTile_error (e : Stop) : LeavesInTile P (.error e) ↔ e.Stays := .rfl
@[simp] theorem leavesInTile_ite (c : Prop) [Decidable c] (x y : Except Stop α) :
    LeavesInTile P (if c then x else y) ↔ if c then LeavesInTile P x else LeavesInTile P y := by split <;> rfl
@[simp] theorem leavesInTile_bind (r : Except Stop α) (f : α → Except Stop β) :
    LeavesInTile Q (r >>= f) ↔ LeavesInTile (fun a => LeavesInTile Q (f a)) r := by cases r <;> rfl
@[simp] theorem leavesInTile_functor_map (r : Except Stop α) (f : α → β) : LeavesInTile Q (f <$> r) ↔ LeavesInTile (fun a => Q (f a)) r := by
  cases r <;> rfl
@[simp] theorem leavesInTile_map (r : Except Stop α) (f : α → β) : LeavesInTile Q (r.map f) ↔ LeavesInTile (fun a => Q (f a)) r := by
  cases r <;> rfl

theorem LeavesInTile.imp {r : Except Stop α} {P' : α → Prop} (h : LeavesInTile P r) (hp : ∀ a, P a → P' a) : LeavesInTile P' r := by
  cases r with
  | ok a => exact hp a h
  | error e => exact h

/-- A check of the state, which leaves nothing of its own. -/
theorem leavesInTile_iff {r : Except Stop α} (h : LeavesInTile (fun _ => True) r) : LeavesInTile P r ↔ ∀ out, r = .ok out → P out := by
  cases r with
  | ok a => simp
  | error e => simpa using h

theorem leavesInTile_mapM {γ : Type} {f : γ → Except Stop α} (h : ∀ x, LeavesInTile (fun _ => True) (f x)) (l : List γ) :
    LeavesInTile (fun _ => True) (l.mapM f) := by
  induction l with
  | nil => simp
  | cons x rest ih => simp [leavesInTile_iff (h x), leavesInTile_iff ih]

@[simp] theorem staysInTile_next : StaysInTile (.next t) ↔ InTile t.thread := .rfl
@[simp] theorem staysInTile_fault (r : Fault) : StaysInTile (.fault r) := trivial

@[simp] theorem staysInTile_ite (c : Prop) [Decidable c] (x y : Ans) :
    StaysInTile (if c then x else y) ↔ if c then StaysInTile x else StaysInTile y := by
  split <;> rfl

theorem runThread_staysInTile {g : Guard} {f : State → Act} (ok : InTile s.thread) (hf : LeavesInTile (fun t => InTile t.thread) (f s)) :
    StaysInTile (runThread g s f) := by
  simp only [runThread]
  split
  · trivial
  · split
    · exact ok
    · split <;> next h => simp only [h, leavesInTile_ok, leavesInTile_error, stop_again_stays] at hf; simp [ok, hf]

theorem runPriv_staysInTile {n : Nat} {g : Guard} {f : State → Act} (ok : InTile s.thread)
    (hf : LeavesInTile (fun t => InTile t.thread) (f s)) :
    StaysInTile (runPriv n g s f) := by
  simp only [runPriv]
  split
  · trivial
  · split
    · simpa using ok
    · exact runThread_staysInTile ok hf

@[simp] theorem leavesInTile_check (ok : Bool) (c : BitVec 8) (a : Word) {P : Unit → Prop} :
    LeavesInTile P (check ok c a) ↔ (ok = true → P ()) := by
  cases ok <;> simp [check]

end

theorem State.stopGroup_inTile {s : State} {memb : Bool} {e : Stop} (ok : InTile s.thread) (he : e.Stays) :
    InTile (s.stopGroup memb e).thread := by
  cases e with
  | again t => exact he
  | _ => simp only [State.stopGroup]; simp [ok]

section
variable {s : State} {P : Unit → Prop}

@[simp] theorem codeCheck_leavesInTile (g : Seg) (a e : Word) :
    LeavesInTile P (codeCheck g a e) ↔ ∀ out, codeCheck g a e = .ok out → P out :=
  leavesInTile_iff (by simp [codeCheck])

@[simp] theorem State.checkPush_leavesInTile (core : Nat) (east : Bool) :
    LeavesInTile P (s.checkPush core east) ↔ ∀ out, s.checkPush core east = .ok out → P out :=
  leavesInTile_iff (by simp [State.checkPush])

@[simp] theorem State.tagCheck_leavesInTile (e : TsEnt) : LeavesInTile P (s.tagCheck e) ↔ ∀ out, s.tagCheck e = .ok out → P out :=
  leavesInTile_iff (by simp only [State.tagCheck]; split <;> simp)

@[simp] theorem State.attachedAll_leavesInTile (rs : List (Word × Nat)) :
    LeavesInTile P (s.attachedAll rs) ↔ ∀ out, s.attachedAll rs = .ok out → P out :=
  leavesInTile_iff (by simp only [State.attachedAll]; split <;> simp)

@[simp] theorem sampleEntry_leavesInTile (e : TsEnt) : LeavesInTile P (sampleEntry s e) ↔ ∀ out, sampleEntry s e = .ok out → P out :=
  leavesInTile_iff (by simp [sampleEntry])

@[simp] theorem State.listCheck_leavesInTile (a : Word) (n : Nat) :
    LeavesInTile P (s.listCheck a n) ↔ ∀ out, s.listCheck a n = .ok out → P out :=
  leavesInTile_iff (by simp [State.listCheck])

@[simp] theorem State.rsvCheck_leavesInTile (l : List (Nat × Nat)) :
    LeavesInTile P (s.rsvCheck l) ↔ ∀ out, s.rsvCheck l = .ok out → P out :=
  leavesInTile_iff (by simp only [State.rsvCheck]; split <;> simp)

@[simp] theorem State.engineWindows_leavesInTile (es : List TsEnt) (w : Bool) :
    LeavesInTile P (s.engineWindows es w) ↔ ∀ out, s.engineWindows es w = .ok out → P out :=
  leavesInTile_iff (by simp only [State.engineWindows]; split <;> simp)

@[simp] theorem State.farRoom_leavesInTile (a : Word) : LeavesInTile P (s.farRoom a) ↔ ∀ out, s.farRoom a = .ok out → P out :=
  leavesInTile_iff (by simp only [State.farRoom]; split <;> simp)
@[simp] theorem slotZero_leavesInTile : LeavesInTile P (slotZero s) ↔ ∀ out, slotZero s = .ok out → P out :=
  leavesInTile_iff (by simp [slotZero])

@[simp] theorem State.windowChecks_leavesInTile (a : Word) (n : Nat) (v : Bool) :
    LeavesInTile P (s.windowChecks a n v) ↔ ∀ out, s.windowChecks a n v = .ok out → P out :=
  leavesInTile_iff (by simp [State.windowChecks])

theorem State.targetCheck_leavesInTile (ok : InTile s.thread) (t : Word) : LeavesInTile (fun _ => True) (s.targetCheck t) := by
  simp only [State.targetCheck]
  simp
  intros
  split <;> simp [ok]

end

section
variable {s : State} {α : Type}

@[simp] theorem stopArg_leavesInTile {P : Nat × Nat → Prop} (x : Word) (p : Bool) :
    LeavesInTile P (State.stopArg x p) ↔ ∀ out, State.stopArg x p = .ok out → P out :=
  leavesInTile_iff (by simp [State.stopArg])

@[simp] theorem State.swapArg_leavesInTile {P : Nat × Nat → Prop} (x : Word) (p : Bool) :
    LeavesInTile P (s.swapArg x p) ↔ ∀ out, s.swapArg x p = .ok out → P out :=
  leavesInTile_iff (by simp [State.swapArg])

@[simp] theorem State.returnCheck_leavesInTile {P : TrapRec → Prop} :
    LeavesInTile P (s.returnCheck) ↔ ∀ out, s.returnCheck = .ok out → P out :=
  leavesInTile_iff (by simp only [State.returnCheck]; split <;> simp)

@[simp] theorem State.resolve_leavesInTile {P : Loc → Prop} (a : Word) (w : Bool) :
    LeavesInTile P (s.resolve a w) ↔ ∀ out, s.resolve a w = .ok out → P out :=
  leavesInTile_iff (by simp only [State.resolve]; (repeat' split) <;> simp)

@[simp] theorem State.segEA_leavesInTile {P : Word → Prop} (m : MemOp) (n : Nat) (k : List Nat) (r : Option Nat) :
    LeavesInTile P (s.segEA m n k r) ↔ ∀ out, s.segEA m n k r = .ok out → P out :=
  leavesInTile_iff (by simp only [State.segEA]; split <;> simp)

@[simp] theorem State.vaultEA_leavesInTile {P : Word × Loc → Prop} (m : MemOp) (n : Nat) (k : List Nat) (r : Nat) (w : Bool) :
    LeavesInTile P (s.vaultEA m n k r w) ↔ ∀ out, s.vaultEA m n k r w = .ok out → P out :=
  leavesInTile_iff (by simp only [State.vaultEA]; split <;> simp)

@[simp] theorem State.weightBytes_leavesInTile {P : List Byte → Prop} (e : TsEnt) (n : Nat) :
    LeavesInTile P (s.weightBytes e n) ↔ ∀ out, s.weightBytes e n = .ok out → P out :=
  leavesInTile_iff (leavesInTile_mapM (fun _ => by simp) _)

@[simp] theorem State.bindOf_leavesInTile {P : Nat × Nat → Prop} : LeavesInTile P s.bindOf ↔ ∀ out, s.bindOf = .ok out → P out :=
  leavesInTile_iff (by simp only [State.bindOf]; (repeat' split) <;> simp)

@[simp] theorem State.versionArg_leavesInTile {P : BitVec 16 → Prop} (a : BitVec 6) :
    LeavesInTile P (s.versionArg a) ↔ ∀ out, s.versionArg a = .ok out → P out :=
  leavesInTile_iff (by simp [State.versionArg])

@[simp] theorem State.knotEA_leavesInTile {P : Place → Prop} (m : MemOp) :
    LeavesInTile P (s.knotEA m) ↔ ∀ out, s.knotEA m = .ok out → P out :=
  leavesInTile_iff (by simp [State.knotEA])

@[simp] theorem reapSlot_leavesInTile {P : Nat → Prop} (a : BitVec 6) :
    LeavesInTile P (reapSlot a s) ↔ ∀ out, reapSlot a s = .ok out → P out :=
  leavesInTile_iff (by simp [reapSlot])

@[simp] theorem State.barCheck_leavesInTile {P : Loc → Prop} (a : Word) (t : Nat) :
    LeavesInTile P (s.barCheck a t) ↔ ∀ out, s.barCheck a t = .ok out → P out :=
  leavesInTile_iff (by simp [State.barCheck])

@[simp] theorem State.barReg_leavesInTile {P : Bar → Prop} (c : BitVec 6) :
    LeavesInTile P (s.barReg c) ↔ ∀ out, s.barReg c = .ok out → P out :=
  leavesInTile_iff (by simp [State.barReg])

@[simp] theorem State.timedCheck_leavesInTile {P : Nat → Prop} (c : BitVec 32) :
    LeavesInTile P (s.timedCheck c) ↔ ∀ out, s.timedCheck c = .ok out → P out :=
  leavesInTile_iff (by simp [State.timedCheck])

@[simp] theorem State.startOf_leavesInTile {P : Option Nat → Prop} (b : Bool) (c : BitVec 32) :
    LeavesInTile P (s.startOf b c) ↔ ∀ out, s.startOf b c = .ok out → P out :=
  leavesInTile_iff (by simp [State.startOf])

@[simp] theorem State.coverCheck_leavesInTile {P : Seg → Prop} (a : Word) (x y : Int) :
    LeavesInTile P (s.coverCheck a x y) ↔ ∀ out, s.coverCheck a x y = .ok out → P out :=
  leavesInTile_iff (by simp only [State.coverCheck]; split <;> simp)

@[simp] theorem State.sourceRange_leavesInTile {P : List Loc → Prop} (a : Word) (x : Nat) :
    LeavesInTile P (s.sourceRange a x) ↔ ∀ out, s.sourceRange a x = .ok out → P out := by
  have all (l : List Word) : LeavesInTile (fun _ => True) (l.mapM (fun w => s.resolve w false)) := leavesInTile_mapM (fun _ => by simp) _
  exact leavesInTile_iff (by simp [State.sourceRange, leavesInTile_iff (all _)])

@[simp] theorem State.lateChecks_leavesInTile {P : Option Nat → Prop} (b : Bool) (c : BitVec 32) (e : TsEnt) :
    LeavesInTile P (s.lateChecks b c e) ↔ ∀ out, s.lateChecks b c e = .ok out → P out :=
  leavesInTile_iff (by simp [State.lateChecks])

@[simp] theorem State.weightSlot_leavesInTile {P : Option Nat → Prop} (b : Word) (c : Bool) :
    LeavesInTile P (s.weightSlot b c) ↔ ∀ out, s.weightSlot b c = .ok out → P out :=
  leavesInTile_iff (by simp [State.weightSlot])

@[simp] theorem State.entrySlot_leavesInTile {P : Option Nat → Prop} (b : TsEnt) (c : Bool) :
    LeavesInTile P (s.entrySlot b c) ↔ ∀ out, s.entrySlot b c = .ok out → P out :=
  leavesInTile_iff (by simp [State.entrySlot])

@[simp] theorem State.named_leavesInTile {P : TsEnt → Prop} (b : BitVec 6) (c : Bool) :
    LeavesInTile P (s.named b c) ↔ ∀ out, s.named b c = .ok out → P out :=
  leavesInTile_iff (by simp [State.named])

@[simp] theorem State.engineEntry_leavesInTile {P : TsEnt → Prop} (b : BitVec 6) (c : Bool) :
    LeavesInTile P (s.engineEntry b c) ↔ ∀ out, s.engineEntry b c = .ok out → P out :=
  leavesInTile_iff (by simp [State.engineEntry])

@[simp] theorem State.productEntries_leavesInTile {P : TsEnt × TsEnt → Prop} (a b : BitVec 6) :
    LeavesInTile P (s.productEntries a b) ↔ ∀ out, s.productEntries a b = .ok out → P out :=
  leavesInTile_iff (by simp [State.productEntries])

@[simp] theorem State.resvEA_leavesInTile {P : Word × Loc → Prop} (m : MemOp) (b : Bool) :
    LeavesInTile P (s.resvEA m b) ↔ ∀ out, s.resvEA m b = .ok out → P out :=
  leavesInTile_iff (by simp [State.resvEA])

@[simp] theorem State.amoEA_leavesInTile {P : Word × Option Loc → Prop} (m : MemOp) (b : Nat) :
    LeavesInTile P (s.amoEA m b) ↔ ∀ out, s.amoEA m b = .ok out → P out :=
  leavesInTile_iff (by simp only [State.amoEA]; split <;> simp)

@[simp] theorem globalEA_leavesInTile {P : Word × Option Loc → Prop} (m : MemOp) (b : Nat) (x y : Bool) :
    LeavesInTile P (globalEA s m b x y) ↔ ∀ out, globalEA s m b x y = .ok out → P out :=
  leavesInTile_iff (by simp only [globalEA]; split <;> simp)

@[simp] theorem State.legal_leavesInTile {P : Instr → Prop} (m : Nat) (b : BitVec 96) :
    LeavesInTile P (State.legal m b) ↔ ∀ out, State.legal m b = .ok out → P out :=
  leavesInTile_iff (by simp only [State.legal]; split <;> simp)

end

end Sys2Proof.Machine
end

section
/-! The thread in issue (O6) through the effects of thread instructions: reads and writes of link FIFOs, banks, windows, queues and
knots. -/

namespace Sys2Proof.Machine

section
variable {s : State}

@[simp] theorem State.takeBank_leavesInTile (ok : InTile s.thread) (b : Nat) :
    LeavesInTile (fun t => InTile t.thread) (s.takeBank b) := by
  simp [State.takeBank, ok]

@[simp] theorem State.takeWrite_leavesInTile (ok : InTile s.thread) (l : Loc) (n : Nat) :
    LeavesInTile (fun t => InTile t.thread) (s.takeWrite l n) := by
  simp only [State.takeWrite]
  split
  · split <;> trivial
  · exact State.takeBank_leavesInTile ok _

theorem State.popWord_leavesInTile (ok : InTile s.thread) (c : Nat) (e : Bool) :
    LeavesInTile (fun q => InTile q.2.thread) (s.popWord c e) := by
  simp only [State.popWord, leavesInTile_bind, leavesInTile_check]
  intros
  split
  · trivial
  · simp [ok]

@[simp] theorem State.pushAll_leavesInTile (ok : InTile s.thread) (c : Nat) (l : List Bool) (v : Vec) :
    LeavesInTile (fun t => InTile t.thread) (s.pushAll c l v) := by
  have may : LeavesInTile (fun _ => True) (l.mapM (fun side => s.checkPush c side)) := leavesInTile_mapM (fun _ => by simp) l
  simp [State.pushAll, leavesInTile_iff may, ok]

@[simp] theorem State.timedPush_leavesInTile (ok : InTile s.thread) (c : Nat) (d : Dir) (l : Option Bool) (v : Vec) :
    LeavesInTile (fun t => InTile t.thread) (s.timedPush c d l v) := by
  simp only [State.timedPush, leavesInTile_bind]
  cases l with
  | none => exact State.pushAll_leavesInTile ok ..
  | some east => exact (State.popWord_leavesInTile ok ..).imp fun q hq => State.pushAll_leavesInTile hq ..

@[simp] theorem State.immWrite_leavesInTile (ok : InTile s.thread) (a : Word) (l : Loc) (n : Nat) (en : BitVec 64) (v : BitVec 512) :
    LeavesInTile (fun t => InTile t.thread) (s.immWrite a l n en v) := by
  simp only [State.immWrite]
  split
  · exact (leavesInTile_bind ..).mpr ((State.takeWrite_leavesInTile ok l n).imp fun t ht => ht.of_eq (State.landImm_thread ..))
  · simp [ok]

@[simp] theorem State.bufferStore_leavesInTile (ok : InTile s.thread) (a : Word) (l : Loc) (n : Nat) (en : BitVec 64) (v : BitVec 512) :
    LeavesInTile (fun t => InTile t.thread) (s.bufferStore a l n en v) := by
  simp only [State.bufferStore]
  split
  · trivial
  · split
    · exact State.immWrite_leavesInTile ok ..
    · simp [ok]

theorem State.loadBytes_leavesInTile (ok : InTile s.thread) (a : Word) (l : Loc) (n : Nat) :
    LeavesInTile (fun q => InTile q.2.thread) (s.loadBytes a l n) := by
  simp only [State.loadBytes]
  split
  · trivial
  · split
    · exact (leavesInTile_bind ..).mpr (State.takeBank_leavesInTile ok l.bank)
    · split
      · next h =>
        split at h
        · exact ok.of_eq (State.takeReply_thread _ h)
        · cases h
      · simp [ok]

theorem State.immRead_leavesInTile (ok : InTile s.thread) (a : Word) (l : Loc) (n : Nat) :
    LeavesInTile (fun q => InTile q.2.thread) (s.immRead a l n) := by
  simp only [State.immRead]
  split
  · exact (leavesInTile_bind ..).mpr (State.takeBank_leavesInTile ok l.bank)
  · split
    · next h => exact ok.of_eq (State.takeReply_thread _ h)
    · simp [ok]

theorem State.windowAccess_leavesInTile (ok : InTile s.thread) (a : Word) (n : Nat) (en : BitVec 64) (v : BitVec 512) (w : Bool) :
    LeavesInTile (fun q => InTile q.2.thread) (s.windowAccess a n en v w) := by
  simp only [State.windowAccess]
  split
  · next h => exact ok.of_eq (State.takeReply_thread _ h)
  · simp [ok]

theorem State.readV_leavesInTile (ok : InTile s.thread) (r : BitVec 6) : LeavesInTile (fun q => InTile q.2.thread) (s.readV r) := by
  simp only [State.readV]
  split
  · exact ok
  · split
    · exact ok
    · exact State.popWord_leavesInTile ok ..

@[simp] theorem State.writeV_leavesInTile (ok : InTile s.thread) (r : BitVec 6) (v : Vec) (l : Nat) :
    LeavesInTile (fun t => InTile t.thread) (s.writeV r v l) := by
  simp [State.writeV, ok]

@[simp] theorem putV_leavesInTile (ok : InTile s.thread) (w : Nat) (vm : VMask) (d : BitVec 6) (l : Nat) (f : Nat → Rd) :
    LeavesInTile (fun t => InTile t.thread) (putV s w vm d l f) :=
  State.writeV_leavesInTile (by simpa using ok) ..

@[simp] theorem State.enqueue_leavesInTile (ok : InTile s.thread) (c : Cmd) (m : List (Nat × Nat)) :
    LeavesInTile (fun t => InTile t.thread) (s.enqueue c m) := by
  simp [State.enqueue, ok]

@[simp] theorem State.askKnot_leavesInTile (ok : InTile s.thread) (p : Place) (op : KnotOp) (w : Wait) :
    LeavesInTile (fun t => InTile t.thread) (s.askKnot p op w) := by
  simp only [State.askKnot]
  split <;> simp [ok]

@[simp] theorem State.markVersion_leavesInTile (ok : InTile s.thread) (p : BitVec 2) (d a : BitVec 6) :
    LeavesInTile (fun t => InTile t.thread) (s.markVersion p d a) := by
  simp [State.markVersion, ok]

@[simp] theorem knotSend_leavesInTile (ok : InTile s.thread) (m : MemOp) (op : KnotOp) :
    LeavesInTile (fun t => InTile t.thread) (knotSend m op s) := by
  simp [knotSend, ok]

@[simp] theorem twin_leavesInTile (ok : InTile s.thread) (nw : Bool) (d : BitVec 6) :
    LeavesInTile (fun t => InTile t.thread) (twin nw d s) := by
  simp only [twin, leavesInTile_bind, leavesInTile_check]
  intros
  split <;> simp [ok]

@[simp] theorem swpi_leavesInTile (ok : InTile s.thread) (far q : Bool) (d a b : BitVec 6) :
    LeavesInTile (fun t => InTile t.thread) (swpi far q d a b s) := by
  simp only [swpi, leavesInTile_bind, State.swapArg_leavesInTile]
  rintro ⟨core, slot⟩ -
  cases far <;> simp [ok]

@[simp] theorem swpo_leavesInTile (ok : InTile s.thread) (far : Bool) (d a b : BitVec 6) :
    LeavesInTile (fun t => InTile t.thread) (swpo far d a b s) := by
  simp only [swpo, leavesInTile_bind, State.swapArg_leavesInTile]
  rintro ⟨core, slot⟩ -
  dsimp only
  split
  · next h => simpa using ok.of_eq (State.swapOut_thread _ _ _ _ _ h)
  · simp [ok]

@[simp] theorem launch_leavesInTile (ok : InTile s.thread) (nb : Bool) (d : BitVec 6) (m : MemOp) :
    LeavesInTile (fun t => InTile t.thread) (launch nb d m s) := by
  simp only [launch, leavesInTile_bind, leavesInTile_check, State.vaultEA_leavesInTile]
  rintro - ⟨a, l⟩ -
  refine (State.loadBytes_leavesInTile ok a l 256).imp fun q hq => ?_
  dsimp only
  intro
  split <;> simp [hq]

@[simp] theorem ibpopTake_leavesInTile (ok : InTile s.thread) (nw : Bool) (d : BitVec 6) (i : BitVec 4) :
    LeavesInTile (fun t => InTile t.thread) (ibpopTake nw d i s) := by
  simp only [ibpopTake, leavesInTile_bind, leavesInTile_check]
  intro
  split
  · simp [ok]
  · exact (leavesInTile_bind ..).mpr ((State.takeWrite_leavesInTile ok _ 16).imp fun t ht => by simp [ht])

@[simp] theorem barw_leavesInTile (ok : InTile s.thread) (nf : Bool) (d b : BitVec 6) (m : MemOp) :
    LeavesInTile (fun t => InTile t.thread) (barw nf d b m s) := by
  simp only [barw, leavesInTile_bind, leavesInTile_check, State.vaultEA_leavesInTile]
  rintro ⟨a, l⟩ - -
  refine (State.immRead_leavesInTile ok a l 16).imp fun q hq => ?_
  simp [hq]

@[simp] theorem sendIssue_leavesInTile (ok : InTile s.thread) (sig tm : Bool) (a b c : BitVec 6) (len : Nat) (imm : BitVec 32) :
    LeavesInTile (fun t => InTile t.thread) (sendIssue sig tm a b c len imm s) := by
  simp only [sendIssue, leavesInTile_bind]
  refine (leavesInTile_iff (by simp)).mpr fun src _ => ?_
  simp only [State.barReg_leavesInTile, leavesInTile_check, State.startOf_leavesInTile]
  intros
  split
  · trivial
  · refine (leavesInTile_bind ..).mpr ((State.enqueue_leavesInTile ?_ _ _).imp fun t ht => ?_)
    · split <;> simp [ok]
    · simp [ht]

@[simp] theorem gathIssue_leavesInTile (ok : InTile s.thread) (edge out tm : Bool) (d a b c : BitVec 6) (x : BitVec 16) (imm : BitVec 32) :
    LeavesInTile (fun t => InTile t.thread) (gathIssue edge out tm d a b c x imm s) := by
  simp [gathIssue, State.enqueue_leavesInTile ok]

@[simp] theorem give_leavesInTile (ok : InTile s.thread) (nb : Bool) (d a : BitVec 6) (e : Nat) :
    LeavesInTile (fun t => InTile t.thread) (give nb d a e s) := by
  simp only [give, leavesInTile_bind, leavesInTile_check]
  intros
  split <;> simp [ok]

@[simp] theorem reclaim_leavesInTile (ok : InTile s.thread) (nb : Bool) (d : BitVec 6) (e b : Nat) :
    LeavesInTile (fun t => InTile t.thread) (reclaim nb d e b s) := by
  simp only [reclaim, leavesInTile_bind, leavesInTile_check]
  intro
  split
  · simp [ok]
  · split <;> simp [ok]

@[simp] theorem stsStore_leavesInTile (ok : InTile s.thread) (a : Word) (l : Option Loc) (n : Nat) (en : BitVec 64) (v : BitVec 512) :
    LeavesInTile (fun t => InTile t.thread) (stsStore s a l n en v) := by
  cases l with
  | some l => exact State.bufferStore_leavesInTile ok ..
  | none =>
    simp only [stsStore]
    split
    · trivial
    · exact (leavesInTile_bind ..).mpr (State.windowAccess_leavesInTile ok ..)

theorem ldgBytes_leavesInTile (ok : InTile s.thread) (m : MemOp) (n : Nat) (v : Bool) :
    LeavesInTile (fun q => InTile q.2.thread) (ldgBytes s m n v) := by
  simp only [ldgBytes, leavesInTile_bind, globalEA_leavesInTile]
  rintro ⟨a, l⟩ -
  cases l with
  | some l => exact State.loadBytes_leavesInTile ok ..
  | none =>
    dsimp only
    split
    · trivial
    · exact (leavesInTile_bind ..).mpr (State.windowAccess_leavesInTile ok ..)

theorem State.needLine_leavesInTile (ok : InTile s.thread) (k : Nat) (a : Word) : LeavesInTile (fun _ => True) (s.needLine k a) := by
  simp only [State.needLine]
  split
  · next h => simpa [h] using (codeCheck_leavesInTile (P := fun _ => True) (s.ctx k).code a a).mpr fun _ _ => trivial
  · split <;> simp [ok]

theorem State.pcLine_leavesInTile (ok : InTile s.thread) (k : Nat) : LeavesInTile (fun _ => True) (s.pcLine k) := by
  simp [State.pcLine, leavesInTile_iff (State.needLine_leavesInTile ok _ _)]

@[simp] theorem State.formNnpc_leavesInTile (ok : InTile s.thread) (k : Nat) :
    LeavesInTile (fun t => InTile t.thread) (s.formNnpc k) := by
  simp [State.formNnpc, leavesInTile_iff (State.needLine_leavesInTile ok _ _), ok]

end

end Sys2Proof.Machine
end

section
/-! The thread in issue (O6) through thread instructions: the families first, then the instructions with effects of their own. -/

namespace Sys2Proof.Machine

section
variable {s : State} (ok : InTile s.thread) (g : Guard)
include ok

theorem State.readV_bind_inTile {β : Type} {Q : β → Prop} {f : Vec × State → Except Stop β} (a : BitVec 6)
    (hf : ∀ p, InTile p.2.thread → LeavesInTile Q (f p)) : LeavesInTile Q (s.readV a >>= f) :=
  (leavesInTile_bind ..).mpr <| (State.readV_leavesInTile ok a).imp hf

theorem vec1_staysInTile (w : Nat) (vm : VMask) (d a : BitVec 6) (lat : State → Nat) (f : State → Nat → Rd) :
    StaysInTile (vec1 g w vm d a s lat f) :=
  runThread_staysInTile ok <| State.readV_bind_inTile ok a fun _ hp => putV_leavesInTile hp ..

theorem vec2_staysInTile (w : Nat) (vm : VMask) (d a b : BitVec 6) (lat : State → Nat) (f : State → Nat → Nat → Rd) :
    StaysInTile (vec2 g w vm d a b s lat f) :=
  runThread_staysInTile ok <| State.readV_bind_inTile ok a fun _ hp => State.readV_bind_inTile hp b fun _ hq => putV_leavesInTile hq ..

theorem vec3_staysInTile (w : Nat) (vm : VMask) (d a b c : BitVec 6) (lat : State → Nat) (f : State → Nat → Nat → Nat → Rd) :
    StaysInTile (vec3 g w vm d a b c s lat f) :=
  runThread_staysInTile ok <| State.readV_bind_inTile ok a fun _ hp => State.readV_bind_inTile hp b fun _ hq =>
    State.readV_bind_inTile hq c fun _ hr => putV_leavesInTile hr ..

theorem runTransfer_staysInTile (nul : Nul) (link : Bool) (target : State → Word) :
    StaysInTile (runTransfer g nul link s target) := by
  simp only [runTransfer, staysInTile_ite]
  split
  · simp [ok]
  · refine runThread_staysInTile ok <| (leavesInTile_bind ..).mpr <| (State.targetCheck_leavesInTile ok _).imp fun _ _ => ?_
    cases link <;> simp [ok]

theorem tseqWith_staysInTile (d : BitVec 6) (test : State → Bool) (f : State → TsEnt → TsEnt) :
    StaysInTile (tseqWith g d s test f) :=
  runThread_staysInTile ok (by simp [ok])

end

section
variable {s : State} (ok : InTile s.thread) (g : Guard)
include ok

theorem setX_staysInTile (d : BitVec 6) (lat : Nat) (f : State → Word) : StaysInTile (setX g d lat s f) :=
  runThread_staysInTile ok (by simp [ok])
theorem setP_staysInTile (d : BitVec 3) (f : State → Bool) : StaysInTile (setP g d s f) := runThread_staysInTile ok (by simp [ok])
theorem setM_staysInTile (d : BitVec 3) (f : State → BitVec 16) : StaysInTile (setM g d s f) := runThread_staysInTile ok (by simp [ok])

end

section
variable {s : State} (ok : InTile s.thread) (g : Guard)
include ok

theorem execBlq_staysInTile (d : BitVec 6) (w : BitVec 3) : StaysInTile (execBlq g d w s) := by
  refine runThread_staysInTile ok ?_
  simp only [leavesInTile_bind, leavesInTile_check]
  intro _
  split <;> simp [ok]

theorem execBlayW_staysInTile (d : BitVec 6) : StaysInTile (execBlayW g d s) := by
  refine runThread_staysInTile ok ?_
  split <;> simp [ok]

theorem execBlay_staysInTile (d : BitVec 6) : StaysInTile (execBlay g d s) := by
  refine runThread_staysInTile ok ?_
  split <;> simp [ok]

theorem execSegld_staysInTile (d : BitVec 3) (a : BitVec 6) (imm : BitVec 32) : StaysInTile (execSegld g d a imm s) := by
  refine runThread_staysInTile ok ?_
  simp only [leavesInTile_bind, leavesInTile_check]
  exact fun _ => (State.takeBank_leavesInTile ok 55).imp fun t ht _ => by simp [ht]

theorem execEret_staysInTile : StaysInTile (execEret g s) := by
  refine runPriv_staysInTile ok ?_
  simp only [leavesInTile_bind, State.returnCheck_leavesInTile, codeCheck_leavesInTile]
  intro r _ _ _
  split
  · simp
  · simp [ok]

theorem execJoin_staysInTile (a : BitVec 6) (c : BitVec 3) (imm : BitVec 32) : StaysInTile (execJoin g a c imm s) := by
  refine runThread_staysInTile ok ?_
  simp only [leavesInTile_bind, State.knotEA_leavesInTile]
  refine fun p _ => (State.targetCheck_leavesInTile ok _).imp fun _ _ => ?_
  split
  · exact State.askKnot_leavesInTile ok ..
  · simp [ok]

theorem execRfork_staysInTile (d a b : BitVec 6) (c : BitVec 3) (imm : BitVec 32) : StaysInTile (execRfork g d a b c imm s) := by
  refine runThread_staysInTile ok ?_
  simp only [leavesInTile_bind, leavesInTile_check, slotZero_leavesInTile, State.knotEA_leavesInTile]
  exact fun _ _ _ p _ => (State.targetCheck_leavesInTile ok _).imp fun _ _ => State.askKnot_leavesInTile ok ..

theorem execWake_staysInTile (a : BitVec 6) : StaysInTile (execWake g a s) := by
  refine runThread_staysInTile ok ?_
  simp only [leavesInTile_bind, leavesInTile_check]
  intro _
  split <;> simp [ok]

theorem execYield_staysInTile : StaysInTile (execYield g s) := by
  refine runThread_staysInTile ok ?_
  (repeat' split) <;> simp [ok]

theorem execReapKill_staysInTile (d a : BitVec 6) (pd : BitVec 3) : StaysInTile (execReapKill g d a pd s) := by
  refine runThread_staysInTile ok ?_
  simp only [leavesInTile_bind, reapSlot_leavesInTile]
  intro n _
  (repeat' split) <;> simp [ok]

theorem execSpawn_staysInTile (d a b : BitVec 6) (imm : BitVec 32) : StaysInTile (execSpawn g d a b imm s) := by
  refine runThread_staysInTile ok ?_
  simp only [leavesInTile_bind, leavesInTile_check, slotZero_leavesInTile]
  refine fun _ _ _ => (State.targetCheck_leavesInTile ok _).imp fun _ _ => ?_
  (repeat' split) <;> simp [ok]

theorem execIbpopFree_staysInTile (a : BitVec 6) (ibx : BitVec 4) : StaysInTile (execIbpopFree g a ibx s) := by
  refine runThread_staysInTile ok ((leavesInTile_bind ..).mpr ((leavesInTile_check ..).mpr fun _ => (leavesInTile_bind ..).mpr ?_))
  refine (State.takeWrite_leavesInTile ok _ 16).imp fun t ht => ?_
  -- simp would write 2 ^ 32 out, and the kernel cannot add that number to a variable
  extract_lets
  split
  · trivial
  · refine leavesInTile_ok.mpr (State.ite_inTile ?_ ?_) <;> simpa only [State.setIbxWord_thread, State.modTile_thread] using ht

theorem execMcast_staysInTile (tm : Bool) (d a b c : BitVec 6) (len : BitVec 13) (imm : BitVec 32) :
    StaysInTile (execMcast g tm d a b c len imm s) := by
  refine runThread_staysInTile ok ?_
  simp only [leavesInTile_bind, leavesInTile_check, State.sourceRange_leavesInTile]
  intro src _ _
  split
  · simp
  · simp only [leavesInTile_bind, leavesInTile_check, State.startOf_leavesInTile]
    exact fun _ _ _ => State.enqueue_leavesInTile (by simpa using ok) ..

theorem execBarq_staysInTile (d : BitVec 6) (mem : MemOp) : StaysInTile (execBarq g d mem s) := by
  refine runThread_staysInTile ok ?_
  simp only [leavesInTile_bind, State.vaultEA_leavesInTile]
  exact fun p _ => (State.immRead_leavesInTile ok p.1 p.2 16).imp fun q hq => by simp [hq]

theorem execBari_staysInTile (b : BitVec 6) (mem : MemOp) : StaysInTile (execBari g b mem s) := by
  refine runThread_staysInTile ok ?_
  simp only [leavesInTile_bind, leavesInTile_check, State.vaultEA_leavesInTile]
  intro p _ _ _
  split
  · exact (leavesInTile_bind ..).mpr ((State.takeWrite_leavesInTile ok p.2 16).imp fun t ht => by simp [ht])
  · simp [ok]

theorem execTdef_staysInTile (d : BitVec 6) (mem : MemOp) : StaysInTile (execTdef g d mem s) := by
  refine runThread_staysInTile ok ?_
  simp only [leavesInTile_bind, leavesInTile_check, State.vaultEA_leavesInTile]
  refine fun p _ => (State.loadBytes_leavesInTile ok p.1 p.2 64).imp fun q hq => ?_
  simp [hq]

omit ok in
/-- The neighbours that LNPUSH asks for. -/
theorem check_sides_leavesInTile (dir : Dir) :
    LeavesInTile (fun _ => True) ((dirSides dir).mapM fun side => check (s.linkCore s.myCore side).isSome cFormat 0) :=
  leavesInTile_mapM (fun side => by simp) _

theorem execLnpushT_staysInTile (dir : Dir) (a : BitVec 6) (imm : BitVec 32) : StaysInTile (execLnpushT g dir a imm s) := by
  refine runThread_staysInTile ok ?_
  have sides := check_sides_leavesInTile (s := s) dir
  simp only [leavesInTile_bind, leavesInTile_check, State.timedCheck_leavesInTile]
  exact sides.imp fun _ _ _ v _ => State.enqueue_leavesInTile ok ..

theorem execLnpush_staysInTile (dir : Dir) (a : BitVec 6) : StaysInTile (execLnpush g dir a s) := by
  refine runThread_staysInTile ok ?_
  have sides := check_sides_leavesInTile (s := s) dir
  simp only [leavesInTile_bind]
  exact sides.imp fun _ _ => (State.readV_leavesInTile ok a).imp fun p hp => State.pushAll_leavesInTile hp ..

theorem execMmat_staysInTile (ty : Ty) (z sat : Bool) (d : BitVec 4) (a b c : BitVec 6) (x : BitVec 16) (imm : BitVec 32) :
    StaysInTile (execMmat g ty z sat d a b c x imm s) := by
  refine runThread_staysInTile ok ?_
  simp only [leavesInTile_bind, leavesInTile_check, State.productEntries_leavesInTile, State.barCheck_leavesInTile]
  intro e _ bar _ _
  split
  · simp
  · simp only [leavesInTile_bind, leavesInTile_check, State.timedCheck_leavesInTile, State.rsvCheck_leavesInTile]
    exact fun _ _ start _ _ _ _ => (State.enqueue_leavesInTile ok ..).imp fun t ht => by simp [ht]

theorem execMma_staysInTile (ty : Ty) (z sat : Bool) (d : BitVec 4) (a b c : BitVec 6) :
    StaysInTile (execMma g ty z sat d a b c s) := by
  refine runThread_staysInTile ok ?_
  simp only [leavesInTile_bind, State.productEntries_leavesInTile]
  intro e _
  split <;> simp [ok]

theorem execSch_staysInTile (b : BitVec 6) (mem : MemOp) : StaysInTile (execSch g b mem s) := by
  refine runThread_staysInTile ok ?_
  simp only [leavesInTile_bind, leavesInTile_check, State.resvEA_leavesInTile]
  intro p _ _
  split
  · exact (leavesInTile_bind ..).mpr ((State.takeWrite_leavesInTile ok p.2 8).imp fun t ht => by simp [ht])
  · simp [ok]

theorem execLrw_staysInTile (d : BitVec 6) (pd : BitVec 3) (mem : MemOp) : StaysInTile (execLrw g d pd mem s) := by
  refine runThread_staysInTile ok ?_
  simp only [leavesInTile_bind, State.resvEA_leavesInTile]
  intro p _
  split
  · split
    · simp
    · split <;> simp [ok]
    · split
      · exact (leavesInTile_map ..).mpr ((State.takeBank_leavesInTile ok _).imp fun t ht => by simp [ht])
      · simp [ok]
  · simp [ok]

theorem execRed_staysInTile (ty : Ty) (op : AmoOp) (b : BitVec 6) (mem : MemOp) : StaysInTile (execRed g ty op b mem s) := by
  refine runThread_staysInTile ok ?_
  simp only [leavesInTile_bind, State.amoEA_leavesInTile]
  intro p _
  split
  · split
    · exact (leavesInTile_bind ..).mpr ((State.takeWrite_leavesInTile ok _ _).imp fun t ht => by simp [ht])
    · simp [ok]
  · simp [ok]

theorem execAmo_staysInTile (ty : Ty) (op : AmoOp) (d b : BitVec 6) (mem : MemOp) : StaysInTile (execAmo g ty op d b mem s) := by
  refine runThread_staysInTile ok ?_
  simp only [leavesInTile_bind, State.amoEA_leavesInTile]
  intro p _
  split
  · split
    · exact (leavesInTile_bind ..).mpr ((State.takeWrite_leavesInTile ok _ _).imp fun t ht => by simp [ht])
    · split
      · next h => simp [ok.of_eq (State.takeReply_thread _ h)]
      · simp [State.ask, ok]
  · split
    · next h => simp [ok.of_eq (State.takeReply_thread _ h)]
    · split
      · simp
      · simp [State.ask, ok]

theorem execFence_staysInTile (sc : Scope) : StaysInTile (execFence g sc s) := by
  refine runThread_staysInTile ok ?_
  split <;> simp [ok]

theorem execPhase_staysInTile (d : BitVec 6) : StaysInTile (execPhase g d s) := by
  refine runThread_staysInTile ok ?_
  split <;> simp [ok]

theorem execDrainBank_staysInTile (e : BitVec 5) : StaysInTile (execDrainBank g e s) := by
  refine runThread_staysInTile ok ?_
  simp only [leavesInTile_bind, leavesInTile_check]
  intro _
  (repeat' split) <;> simp [ok]

theorem execDrain_staysInTile : StaysInTile (execDrain g s) := by
  refine runThread_staysInTile ok ?_
  split <;> simp [ok]

theorem execBmapSet_staysInTile (a : BitVec 6) (e : BitVec 5) : StaysInTile (execBmapSet g a e s) := by
  refine runPriv_staysInTile ok ?_
  dsimp only
  split
  · simp
  · simp only [leavesInTile_bind, leavesInTile_check]
    intro _
    (repeat' split) <;> simp [ok]

theorem execStsV_staysInTile (b : BitVec 6) (mk : BitVec 3) (mem : MemOp) : StaysInTile (execStsV g b mk mem s) := by
  refine runThread_staysInTile ok ?_
  simp only [leavesInTile_bind, globalEA_leavesInTile]
  exact fun p _ => (State.readV_leavesInTile ok b).imp fun q hq => stsStore_leavesInTile hq ..

theorem execLdgV_staysInTile (d : BitVec 6) (mem : MemOp) : StaysInTile (execLdgV g d mem s) :=
  runThread_staysInTile ok <| (leavesInTile_bind ..).mpr <| (ldgBytes_leavesInTile ok mem 64 true).imp fun _ hq => State.writeV_leavesInTile hq ..
theorem execLdg_staysInTile (ty : Ty) (d : BitVec 6) (mem : MemOp) : StaysInTile (execLdg g ty d mem s) :=
  runThread_staysInTile ok <| (leavesInTile_bind ..).mpr <| (ldgBytes_leavesInTile ok mem _ false).imp fun _ hq => by simp [hq]

theorem execStv_staysInTile (b : BitVec 6) (mk : BitVec 3) (mem : MemOp) : StaysInTile (execStv g b mk mem s) := by
  refine runThread_staysInTile ok ?_
  simp only [leavesInTile_bind, State.vaultEA_leavesInTile]
  exact fun p _ => (State.readV_leavesInTile ok b).imp fun q hq => State.bufferStore_leavesInTile hq ..

theorem execLdv_staysInTile (d : BitVec 6) (mem : MemOp) : StaysInTile (execLdv g d mem s) := by
  refine runThread_staysInTile ok ?_
  simp only [leavesInTile_bind, State.vaultEA_leavesInTile]
  exact fun p _ => (State.loadBytes_leavesInTile ok p.1 p.2 64).imp fun q hq => State.writeV_leavesInTile hq ..

theorem execLd_staysInTile (ty : Ty) (d : BitVec 6) (mem : MemOp) : StaysInTile (execLd g ty d mem s) := by
  refine runThread_staysInTile ok ?_
  simp only [leavesInTile_bind, State.vaultEA_leavesInTile]
  exact fun p _ => (State.loadBytes_leavesInTile ok p.1 p.2 (tyBytes ty)).imp fun q hq => by simp [hq]

theorem execVscale_staysInTile (ty src : Ty) (d a c : BitVec 6) : StaysInTile (execVscale g ty src d a c s) := by
  refine runThread_staysInTile ok <| (leavesInTile_bind ..).mpr <| (State.readV_leavesInTile ok a).imp fun p hp => ?_
  dsimp only
  split
  · exact (leavesInTile_bind ..).mpr <| (State.readV_leavesInTile hp c).imp fun q hq => by simp [hq]
  · simp [hp]

theorem execVpack_staysInTile (ty : Ty) (rm : Rm) (sat : Bool) (cv : ConvSel) (d a b c : BitVec 6) :
    StaysInTile (execVpack g ty rm sat cv d a b c s) := by
  refine runThread_staysInTile ok <| (leavesInTile_bind ..).mpr <| (State.readV_leavesInTile ok a).imp fun p hp => ?_
  dsimp only
  split
  · exact (leavesInTile_bind ..).mpr <| (State.readV_leavesInTile hp c).imp fun q hq => State.writeV_leavesInTile (by simpa using hq) ..
  · simp only [leavesInTile_bind, leavesInTile_pure]
    exact State.writeV_leavesInTile (by simpa using hp) ..

end

end Sys2Proof.Machine
end

section
/-! The thread in issue (O6) through the events that a packet's arrival brings. -/

namespace Sys2Proof.Machine

theorem State.arrived_inTile {s t : State} {n : Nat} {f : Body → Bool} {p : Pkt} (ok : InTile s.thread)
    (h : s.arrived n f = some (p, t)) : InTile t.thread := ok.of_eq (State.arrived_thread _ _ _ h)

theorem State.useBank_inTile {s t : State} {n b : Nat} (ok : InTile s.thread) (h : s.useBank n b = some t) :
    InTile t.thread :=
  ok.of_eq (State.useBank_thread _ _ _ h)

theorem StaysInTile.ite {c : Prop} [Decidable c] {x y : Ans} (hx : StaysInTile x) (hy : StaysInTile y) :
    StaysInTile (if c then x else y) := by
  split
  · exact hx
  · exact hy

/-- Bytes that land one after another at their places in the vaults. -/
@[simp] theorem State.foldl_writeLoc_inTile {s : State} (l : List (Loc × Byte)) (ok : InTile s.thread) :
    InTile (l.foldl (fun s x => s.writeLoc x.1 [x.2]) s).thread :=
  ok.of_eq (State.foldl_thread _ (fun _ _ => State.writeLoc_thread ..) ..)

/-- The enabled bytes of a far write, one after another. -/
@[simp] theorem State.foldl_writePa_inTile {s : State} (l : List Nat) (en : Nat → Bool) (pa : Nat) (bs : Nat → List Byte)
    (ok : InTile s.thread) :
    InTile (l.foldl (fun s i => if en i = true then s.writePa (pa + i) (bs i) else s) s).thread :=
  ok.of_eq (State.foldl_thread _ (fun _ _ => by split <;> simp) ..)

/-- Bank cycles taken one after another. -/
theorem State.foldlM_useBank_inTile {t : Nat} : ∀ (l : List Nat) {s u : State}, InTile s.thread →
    l.foldlM (fun s b => s.useBank t b) s = some u → InTile u.thread
  | [], _, _, ok, h => by cases h; exact ok
  | b :: l, s, u, ok, h => by
    obtain ⟨v, hv, hu⟩ := Option.bind_eq_some_iff.mp h
    exact foldlM_useBank_inTile l (State.useBank_inTile ok hv) hu

theorem execVersionAnswer_staysInTile (n : Nat) {s : State} (ok : InTile s.thread) : StaysInTile (execVersionAnswer n s) := by
  simp only [execVersionAnswer]
  split
  · simpa using ok
  · next h => have okt := State.arrived_inTile ok h; (repeat' split) <;> simp [okt]

theorem execLogReplicaAcknowledgement_staysInTile (n : Nat) {s : State} (ok : InTile s.thread) :
    StaysInTile (execLogReplicaAcknowledgement n s) := by
  simp only [execLogReplicaAcknowledgement]
  split
  · simpa using ok
  · next h => have okt := State.arrived_inTile ok h; (repeat' split) <;> simp [okt]

theorem execImmediateWriteAcknowledgement_staysInTile (n : Nat) {s : State} (ok : InTile s.thread) :
    StaysInTile (execImmediateWriteAcknowledgement n s) := by
  simp only [execImmediateWriteAcknowledgement]
  split
  · simpa using ok
  · next h => have okt := State.arrived_inTile ok h; (repeat' split) <;> simp [okt]

theorem execVersionHomeRequest_staysInTile (n : Nat) {s : State} (ok : InTile s.thread) :
    StaysInTile (execVersionHomeRequest n s) := by
  simp only [execVersionHomeRequest]
  split
  · simpa using ok
  · next h => have okt := State.arrived_inTile ok h; (repeat' split) <;> simp [okt]

theorem execCandidateAnswer_staysInTile (n : Nat) {s : State} (ok : InTile s.thread) : StaysInTile (execCandidateAnswer n s) := by
  simp only [execCandidateAnswer]
  split
  · simpa using ok
  · next h => have okt := State.arrived_inTile ok h; (repeat' split) <;> simp [okt]

theorem execHopReply_staysInTile (n : Nat) {s : State} (ok : InTile s.thread) : StaysInTile (execHopReply n s) := by
  simp only [execHopReply]
  split
  · simpa using ok
  · next h => have okt := State.arrived_inTile ok h; (repeat' split) <;> simp [okt]

theorem execHopArrival_staysInTile (n : Nat) {s : State} (ok : InTile s.thread) : StaysInTile (execHopArrival n s) := by
  simp only [execHopArrival]
  split
  · simpa using ok
  · next h => have okt := State.arrived_inTile ok h; (repeat' split) <;> simp [ok, okt]

theorem execCommitNoticeAtHome_staysInTile (n : Nat) {s : State} (ok : InTile s.thread) :
    StaysInTile (execCommitNoticeAtHome n s) := by
  simp only [execCommitNoticeAtHome]
  split
  · simpa using ok
  · next h => have okt := State.arrived_inTile ok h; (repeat' split) <;> simp [okt]

theorem execFarAtomicAtHome_staysInTile (n : Nat) {s : State} (ok : InTile s.thread) : StaysInTile (execFarAtomicAtHome n s) := by
  simp only [execFarAtomicAtHome]
  split
  · simpa using ok
  · next h => have okt := State.arrived_inTile ok h; (repeat' split) <;> simp [ok, okt]

theorem execHomeRead_staysInTile (n : Nat) {s : State} (ok : InTile s.thread) : StaysInTile (execHomeRead n s) := by
  simp only [execHomeRead]
  split
  · simpa using ok
  · next h => have okt := State.arrived_inTile ok h; (repeat' split) <;> simp [ok, okt]

theorem execHomePubl_staysInTile (n : Nat) {s : State} (ok : InTile s.thread) : StaysInTile (execHomePubl n s) := by
  simp only [execHomePubl]
  split
  · simpa using ok
  · next h => have okt := State.arrived_inTile ok h; (repeat' split) <;> simp [ok, okt]

theorem execBarrierArrival_staysInTile (n : Nat) {s : State} (ok : InTile s.thread) : StaysInTile (execBarrierArrival n s) := by
  simp only [execBarrierArrival]
  split
  · simpa using ok
  · next h => have okt := State.arrived_inTile ok h; (repeat' split) <;> simp [ok, okt]

theorem execTrapRecordArrival_staysInTile (n : Nat) {s : State} (ok : InTile s.thread) :
    StaysInTile (execTrapRecordArrival n s) := by
  simp only [execTrapRecordArrival]
  split
  · simpa using ok
  · next h => have okt := State.arrived_inTile ok h; (repeat' split) <;> simp [ok, okt]

theorem execTrapWindowAccessArrival_staysInTile (n : Nat) {s : State} (ok : InTile s.thread) :
    StaysInTile (execTrapWindowAccessArrival n s) := by
  simp only [execTrapWindowAccessArrival]
  split
  · simpa using ok
  · next p t h =>
    have okt := State.arrived_inTile ok h
    (repeat' split) <;> simp [ok, okt]

theorem execMcastReplicaLanding_staysInTile (n : Nat) {s : State} (ok : InTile s.thread) :
    StaysInTile (execMcastReplicaLanding n s) := by
  simp only [execMcastReplicaLanding]
  split
  · simpa using ok
  · next p t h =>
    have okt := State.arrived_inTile ok h
    split
    · split
      · simpa using okt
      · refine StaysInTile.ite ok ?_
        generalize hb : State.useBank _ _ _ = bank
        cases bank with
        | none => simpa using ok
        | some u =>
          have okb := State.useBank_inTile (State.ite_inTile okt ok) hb
          dsimp only
          split
          · split
            · simp only [staysInTile_next, State.send_thread]
              simp [okb]
            · simp [okb]
          · simp [okb]
    · simpa using ok

theorem execMessageReceive_staysInTile (n : Nat) {s : State} (ok : InTile s.thread) : StaysInTile (execMessageReceive n s) := by
  simp only [execMessageReceive]
  split
  · simpa using ok
  · next p t h =>
    have okt := State.arrived_inTile ok h
    split
    · refine StaysInTile.ite (by simp [okt]) (StaysInTile.ite (by simp [okt]) (StaysInTile.ite (by simp [okt]) ?_))
      split
      · next hr => simpa using okt.of_eq (State.refuseMsg_thread _ _ _ hr)
      · simp [ok]
      · refine StaysInTile.ite (by simp [ok]) ?_
        generalize hb : State.useBank _ _ _ = bank
        cases bank with
        | none => simp [ok]
        | some u =>
          have okb := State.useBank_inTile (State.ite_inTile ok okt) hb
          dsimp only
          split <;> simp [okb]
    · simpa using ok

theorem execStaticRouteFlitLanding_staysInTile (n : Nat) {s : State} (ok : InTile s.thread) :
    StaysInTile (execStaticRouteFlitLanding n s) := by
  simp only [execStaticRouteFlitLanding]
  split
  · simpa using ok
  · next p t h =>
    have okt := State.arrived_inTile ok h
    split
    · refine (staysInTile_ite ..).mpr ?_
      split
      · simp [ok]
      · split
        · simp [ok]
        · next hb =>
          have okb := State.foldlM_useBank_inTile _ okt hb
          (repeat' split) <;> simp [okb]
    · simpa using ok

theorem execFarReplyArrival_staysInTile (n : Nat) {s : State} (ok : InTile s.thread) : StaysInTile (execFarReplyArrival n s) := by
  simp only [execFarReplyArrival]
  split
  · split <;> simp [ok]
  · split
    · simpa using ok
    · next p t h =>
      have okt := State.arrived_inTile ok h
      (repeat' split) <;> simp [ok, okt]

theorem execHomeWrite_staysInTile (n : Nat) {s : State} (ok : InTile s.thread) : StaysInTile (execHomeWrite n s) := by
  simp only [execHomeWrite]
  split
  · simpa using ok
  · next p t h =>
    have okt := State.arrived_inTile ok h
    split
    · (repeat' split) <;> try simp [ok, okt]
      next hw => exact okt.of_eq (State.bufWrite_thread _ _ _ _ _ _ hw)
    · simpa using ok

theorem execFarRequestTranslate_staysInTile (n : Nat) {s : State} (ok : InTile s.thread) :
    StaysInTile (execFarRequestTranslate n s) := by
  simp only [execFarRequestTranslate]
  split
  · simpa using ok
  · next p t h =>
    have okt := State.arrived_inTile ok h
    (repeat' split) <;> try simp [ok, okt]
    · next h => exact okt.of_eq (State.toPeer_thread _ _ _ h)
    · next h => exact okt.of_eq ((State.forward_thread _ _ _ _ _ h).trans (by simp))

theorem execReservationGrant_staysInTile (n : Nat) {s : State} (ok : InTile s.thread) : StaysInTile (execReservationGrant n s) := by
  simp only [execReservationGrant]
  split
  · simpa using ok
  · next p t h =>
    have okt := State.arrived_inTile ok h
    (repeat' split) <;> simp [ok, okt]

theorem execImmediateWriteLanding_staysInTile (n : Nat) {s : State} (ok : InTile s.thread) :
    StaysInTile (execImmediateWriteLanding n s) := by
  simp only [execImmediateWriteLanding]
  split
  · simpa using ok
  · next p t h =>
    have okt := State.arrived_inTile ok h
    (repeat' split) <;> try simp [ok]
    all_goals next hb => have okb := State.useBank_inTile okt hb; simp [okb]

theorem execVaultReplyArrival_staysInTile (n : Nat) {s : State} (ok : InTile s.thread) :
    StaysInTile (execVaultReplyArrival n s) := by
  simp only [execVaultReplyArrival]
  split
  · simpa using ok
  · next p t h =>
    have okt := State.arrived_inTile ok h
    (repeat' split) <;> simp [ok, okt]

theorem execVaultRequestArrival_staysInTile (n : Nat) {s : State} (ok : InTile s.thread) :
    StaysInTile (execVaultRequestArrival n s) := by
  simp only [execVaultRequestArrival]
  split
  · simpa using ok
  · next p t h =>
    have okt := State.arrived_inTile ok h
    split
    · split
      · next hb => have okb := State.useBank_inTile okt hb; simp [okb]
      · simpa using ok
    · split
      · next hb =>
        have okb := State.useBank_inTile okt (Option.ite_none_left_eq_some.mp hb).2
        simp [okb]
      · simpa using ok
    all_goals (repeat' split) <;> simp [ok, okt]

end Sys2Proof.Machine
end

section
/-! The thread in issue (O6) through the events of tiles, homes, the host, cuts and the wafer. -/

namespace Sys2Proof.Machine

theorem State.useBankAs_inTile {s t : State} {c n b : Nat} (ok : InTile s.thread) (h : s.useBankAs c n b = some t) :
    InTile t.thread :=
  ok.of_eq (State.useBankAs_thread _ _ _ _ h)

theorem State.repliedCopy_inTile {s t : State} {n k site : Nat} {q : Retx} {f : Body → Option MsgHdr} (ok : InTile s.thread)
    (h : s.repliedCopy n f = some (k, q, site, t)) : InTile t.thread := ok.of_eq (State.repliedCopy_thread _ _ _ h)

theorem execHostFarWrite_staysInTile (fn : Nat) (off : BitVec 36) (data : List Byte) {s : State} (ok : InTile s.thread) :
    StaysInTile (execHostFarWrite fn off data s) := by
  simp only [execHostFarWrite]
  refine StaysInTile.ite ok (ok.of_eq (State.foldl_thread _ (fun s i => ?_) ..))
  split <;> simp

theorem execHostFarRead_staysInTile (fn : Nat) (off : BitVec 36) (len : Nat) {s : State} (ok : InTile s.thread) :
    StaysInTile (execHostFarRead fn off len s) := by
  simp only [execHostFarRead]
  refine StaysInTile.ite ok ?_
  split
  · simp [ok]
  · next h => simpa using ok.of_eq (State.hostBytes_thread _ _ _ _ h)
  · next h => simpa using ok.of_eq (State.hostBytes_thread _ _ _ _ h)

theorem execCxlPortDown_staysInTile (port : Nat) {s : State} (ok : InTile s.thread) : StaysInTile (execCxlPortDown port s) := by
  simp only [execCxlPortDown, staysInTile_next]
  refine ok.of_eq ((State.foldl_thread _ (fun s p => ?_) ..).trans rfl)
  split <;> simp

theorem execPowerGood_staysInTile {s : State} (ok : InTile s.thread) : StaysInTile (execPowerGood s) := by
  simp only [execPowerGood]
  exact StaysInTile.ite ok (by simp [ok])

theorem execDeepRestore_staysInTile {s : State} (ok : InTile s.thread) : StaysInTile (execDeepRestore s) := by
  simp only [execDeepRestore]
  split
  · exact ok
  · exact StaysInTile.ite ok (ok.of_eq ((State.foldl_thread _ (fun s e => by simp) ..).trans rfl))

theorem execDeepBelayImageWritten_staysInTile {s : State} (ok : InTile s.thread) : StaysInTile (execDeepBelayImageWritten s) := by
  simp only [execDeepBelayImageWritten]
  split
  · exact ok
  · refine StaysInTile.ite ok ?_
    simp only [staysInTile_next]
    split
    · rw [State.completeX_thread, State.foldl_thread _ fun s c => by simp]
      exact ok
    · rw [State.foldl_thread _ fun s c => by simp]
      exact ok

theorem execPartitionReconfiguration_staysInTile (part base count : Nat) {s : State} (ok : InTile s.thread) :
    StaysInTile (execPartitionReconfiguration part base count s) := by
  simp only [execPartitionReconfiguration]
  refine StaysInTile.ite ok (StaysInTile.ite ok ?_)
  simp [ok]

theorem execHaltComplete_staysInTile (crew : Nat) {s : State} (ok : InTile s.thread) : StaysInTile (execHaltComplete crew s) := by
  simp only [execHaltComplete]
  split
  · exact ok
  · refine StaysInTile.ite ok ?_
    simp only [staysInTile_next]
    refine ok.of_eq ((State.foldl_thread _ (fun s k => ?_) ..).trans ((State.modCrew_thread ..).trans
      (State.foldl_thread _ (fun s t => State.foldl_thread _ (fun s c => by simp) ..) ..)))
    (repeat' split) <;> simp

theorem execMachineCheck_staysInTile (site : Nat) (cause : MCause) {s : State} (ok : InTile s.thread) :
    StaysInTile (execMachineCheck site cause s) := by
  simp only [execMachineCheck]
  refine StaysInTile.ite ok (StaysInTile.ite ?_ ?_)
  · split <;> simp [ok]
  · (repeat' split) <;> simp [ok]

theorem execCutStreamLine_staysInTile (tile : Nat) {s : State} (ok : InTile s.thread) : StaysInTile (execCutStreamLine tile s) := by
  simp only [execCutStreamLine]
  split
  · exact ok
  · split
    · refine StaysInTile.ite ok ?_
      split
      · exact ok
      · next hb =>
        have okb := State.useBankAs_inTile ok hb
        simp only [staysInTile_next, State.earlyCheck_thread]
        split
        · simp [okb]
        · simp [okb]
    · split <;> simp [ok]

theorem execImageLoadComplete_staysInTile (crew : Nat) {s : State} (ok : InTile s.thread) :
    StaysInTile (execImageLoadComplete crew s) := by
  simp only [execImageLoadComplete]
  refine StaysInTile.ite ok ?_
  simp only [staysInTile_next, State.logEv_thread]
  rw [State.foldl_thread _ fun s c => by simp, State.modCrew_thread]
  exact ok.of_eq (State.foldl_thread _ (fun _ _ => State.loadTile_thread ..) ..)

theorem execAckReceive_staysInTile (n : Nat) {s : State} (ok : InTile s.thread) : StaysInTile (execAckReceive n s) := by
  simp only [execAckReceive]
  split
  · simp [ok]
  · next h => have okt := State.repliedCopy_inTile ok h; simp [okt]

theorem execNackReplayReceive_staysInTile (n : Nat) {s : State} (ok : InTile s.thread) :
    StaysInTile (execNackReplayReceive n s) := by
  simp only [execNackReplayReceive]
  split
  · simp [ok]
  · next h => have okt := State.repliedCopy_inTile ok h; simp [okt]

theorem execNackFencedReceive_staysInTile (n : Nat) {s : State} (ok : InTile s.thread) :
    StaysInTile (execNackFencedReceive n s) := by
  simp only [execNackFencedReceive]
  split
  · simp [ok]
  · next h => have okt := State.repliedCopy_inTile ok h; simp [okt]

theorem execNackOrderReceive_staysInTile (n : Nat) {s : State} (ok : InTile s.thread) : StaysInTile (execNackOrderReceive n s) := by
  simp only [execNackOrderReceive]
  split
  · simp [ok]
  · next h => have okt := State.repliedCopy_inTile ok h; simp [okt]

theorem execNackFullReceive_staysInTile (n : Nat) {s : State} (ok : InTile s.thread) : StaysInTile (execNackFullReceive n s) := by
  simp only [execNackFullReceive]
  split
  · simp [ok]
  · next h => have okt := State.repliedCopy_inTile ok h; simp [okt]

theorem execFarMediaError_staysInTile (n : Nat) {s : State} (ok : InTile s.thread) : StaysInTile (execFarMediaError n s) := by
  simp only [execFarMediaError]
  refine StaysInTile.ite ?_ ?_
  · split <;> simp [ok]
  · split
    · exact ok
    · next h =>
      have okt := State.arrived_inTile ok h
      split
      · split
        · simp [okt]
        · have met (h a c k f u) := okt.of_eq (State.mediaMet_thread _ h a c k f u)
          split
          · next hm => simpa using (met ..).snd hm
          · next hm => simpa using (met ..).snd hm
      · exact ok

theorem execHomeWriteRetry_staysInTile (h i : Nat) {s : State} (ok : InTile s.thread) : StaysInTile (execHomeWriteRetry h i s) := by
  simp only [execHomeWriteRetry]
  split
  · exact ok
  · refine StaysInTile.ite ok ?_
    split
    · exact ok
    · next hw =>
      have okw := ok.of_eq (State.bufWrite_thread _ _ _ _ _ _ hw)
      (repeat' split) <;> simp [okw]

theorem execPageWalkComplete_staysInTile (field i : Nat) {s : State} (ok : InTile s.thread) :
    StaysInTile (execPageWalkComplete field i s) := by
  simp only [execPageWalkComplete]
  (repeat' split) <;> try simp [ok]
  next h => exact ok.of_eq ((State.forward_thread _ _ _ _ _ h).trans (by simp))

theorem execPhaseLineApply_staysInTile (core i : Nat) {s : State} (ok : InTile s.thread) :
    StaysInTile (execPhaseLineApply core i s) := by
  simp only [execPhaseLineApply]
  split
  · refine StaysInTile.ite ok ?_
    split
    · exact ok
    · next hb =>
      have okb := State.useBankAs_inTile ok hb
      split <;> simp [okb]
  · exact ok

theorem execLinkWordArrival_staysInTile (core : Nat) (east : Bool) {s : State} (ok : InTile s.thread) :
    StaysInTile (execLinkWordArrival core east s) := by
  simp only [execLinkWordArrival]
  split
  · exact ok
  · split
    · exact ok
    · split
      · exact ok
      · refine StaysInTile.ite ok ?_
        simp only [staysInTile_next]
        refine ok.of_eq ((State.foldl_thread _ (fun s k => ?_) ..).trans ?_)
        · (repeat' split) <;> simp
        · simp only [State.modCore_thread]
          split <;> simp

theorem execMatrixLineFetch_staysInTile (core : Nat) {s : State} (ok : InTile s.thread) :
    StaysInTile (execMatrixLineFetch core s) := by
  simp only [execMatrixLineFetch]
  split
  · exact ok
  · split
    · exact ok
    · simp [ok]
    · split
      · exact ok
      · next c u h =>
        have oku : InTile u.thread := by
          split at h
          · cases h
          · split at h
            · cases h
              exact ok
            · obtain ⟨_, _, h⟩ := Option.map_eq_some_iff.mp h
              cases h
              simpa using ok
        simp [oku]

theorem State.timedOut_inTile {s t : State} {core : Nat} {c : Cmd} (ok : InTile s.thread) (h : s.timedOut core c = .start t) :
    InTile t.thread := by
  simp only [State.timedOut] at h
  split at h <;> try cases h
  split at h
  · next dir link v _ =>
    have pushed := State.timedPush_leavesInTile ok core dir link v
    split at h <;> cases h
    next hp => simpa [hp] using pushed
  · split at h <;> cases h
    simp [ok]
  · cases h
    simp [ok]

theorem execTimedCommandStart_staysInTile (core i : Nat) {s : State} (ok : InTile s.thread) :
    StaysInTile (execTimedCommandStart core i s) := by
  simp only [execTimedCommandStart]
  split
  · refine StaysInTile.ite ok ?_
    split
    · next h =>
      have okt := State.timedOut_inTile ok h
      simp only [staysInTile_next, State.modTile_thread]
      split <;> simp [okt]
    · split <;> simp [ok]
    · simp [ok]
    · simp [ok]
    · simp [ok]
  · exact ok

theorem execSchedulerDecision_staysInTile (core : Nat) {s : State} (ok : InTile s.thread) :
    StaysInTile (execSchedulerDecision core s) := by
  simp only [execSchedulerDecision]
  refine StaysInTile.ite ok ?_
  have chosen {o : Option State} {t : State} (ok : InTile t.thread) (ho : ∀ u, o = some u → u.thread = t.thread) :
      InTile (o.getD t).thread := by
    cases o with
    | none => exact ok
    | some u => exact ok.of_eq (ho u rfl)
  refine chosen (by simpa using ok) fun u hu => ?_
  simp only [Option.or_eq_some_iff] at hu
  obtain hu | ⟨-, hu | ⟨-, hu | ⟨-, hu | ⟨-, hu | ⟨-, hu⟩⟩⟩⟩⟩ := hu
  · exact State.deliver_thread _ _ hu
  · exact State.reload_thread _ _ hu
  · exact State.parkOut_thread _ _ hu
  · exact State.loggedSwap_thread _ _ hu
  · exact State.rescue_thread _ _ hu
  · exact State.rowDecision_thread _ _ hu

theorem execLineFetch_staysInTile (core : Nat) (a : Word) {s : State} (ok : InTile s.thread) :
    StaysInTile (execLineFetch core a s) := by
  simp only [execLineFetch]
  split
  · exact ok
  · next k _ =>
    have read := ok.of_eq (s.readFar_thread (s.gwOf (tileOfCore core)) (s.partOf k) (s.ctx k).crew (lineOf a) 64 .fetch)
    split
    · next h =>
      have okt := read.snd h
      simp only [staysInTile_next]
      refine okt.of_eq ((State.foldl_thread _ (fun s k => ?_) ..).trans (State.fillLine_thread ..))
      split <;> simp
    · next h =>
      have okt := read.snd h
      refine StaysInTile.ite ?_ (by simp [okt])
      split
      · next hp => exact okt.of_eq ((State.parkReq_thread _ _ _ hp).trans (by simp))
      · simp [okt]

theorem State.endWrite_inTile {s : State} {crew n : Nat} {a : Word} {e : State.EndWrite} (ok : InTile s.thread)
    (h : s.endWrite crew a n = e) : InTile e.after.thread := by
  subst h
  simp only [State.endWrite]
  have placed (f p) := ok.of_eq (s.plainPlace_thread f p a n)
  split
  · simpa [State.EndWrite.after] using ok
  · split
    · exact ok
    · split
      · next h => exact (placed ..).snd h
      · next h =>
        have okt := (placed ..).snd h
        split
        · split
          · next hp => exact okt.of_eq ((State.parkReq_thread _ _ _ hp).trans (by simp))
          · exact okt
        · exact okt

theorem State.endTask_inTile {s : State} (crew : Nat) (ok : InTile s.thread) : InTile (s.endTask crew).thread := by
  simp only [State.endTask]
  generalize hf : (ite ((s.crew crew).endStep ≠ 2) _ _ : Bool × State) = first
  have okf : InTile first.2.thread := by
    subst hf
    split
    · exact ok
    · split
      · next h =>
        have okt := State.endWrite_inTile ok h
        simp only [State.modCrew_thread]
        exact okt.of_eq (State.writePa_thread ..)
      · next h =>
        have okt := State.endWrite_inTile ok h
        exact okt.of_eq (by simp [State.EndWrite.after])
      · next h => exact State.endWrite_inTile ok h
  split
  · exact okf
  · split
    · next h => exact State.endWrite_inTile okf h
    · next h =>
      have okt := State.endWrite_inTile okf h
      exact okt.of_eq ((State.freeCrew_thread ..).trans (by simp [State.EndWrite.after]))
    · next h =>
      have okt := State.endWrite_inTile okf h
      simp only [State.freeCrew_thread, State.knotEffects_thread]
      exact okt.of_eq (State.writePa_thread ..)

theorem execTaskEnd_staysInTile (crew : Nat) {s : State} (ok : InTile s.thread) : StaysInTile (execTaskEnd crew s) := by
  simp only [execTaskEnd]
  refine StaysInTile.ite ok ?_
  split
  · exact State.endTask_inTile crew ok
  · exact State.endTask_inTile crew (by simp [ok])
  · exact StaysInTile.ite (State.endTask_inTile crew (by simp [ok])) ok
  · exact ok

end Sys2Proof.Machine
end

section
/-! The thread in issue (O6) through groups, every instruction and every event, and the step of the device. -/

namespace Sys2Proof.Machine

section
variable {s : State} (ok : InTile s.thread)
include ok

theorem execVccTick_staysInTile (tile : Nat) : StaysInTile (execVccTick tile s) := by
  simp only [execVccTick]
  split <;> simp [ok]

theorem execSleepDeadline_staysInTile (k : Nat) : StaysInTile (execSleepDeadline k s) := by
  simp only [execSleepDeadline]
  split <;> simp [ok]

theorem execPhaseClose_staysInTile (crew : Nat) : StaysInTile (execPhaseClose crew s) := by
  simp only [execPhaseClose]
  split <;> simp [ok]

theorem execMeshLinkDown_staysInTile (site port : Nat) : StaysInTile (execMeshLinkDown site port s) := by
  simp only [execMeshLinkDown]
  split <;> simp [ok]

theorem execRebindFlood_staysInTile (site i : Nat) : StaysInTile (execRebindFlood site i s) := by
  simp only [execRebindFlood]
  split <;> simp [ok]

theorem execCutPrepared_staysInTile (tile : Nat) : StaysInTile (execCutPrepared tile s) := by
  simp only [execCutPrepared]
  split <;> simp [ok]

theorem execCommitDecision_staysInTile (crew : Nat) : StaysInTile (execCommitDecision crew s) := by
  simp only [execCommitDecision]
  split <;> simp [ok]

theorem execReplayEnd_staysInTile (crew : Nat) : StaysInTile (execReplayEnd crew s) := by
  simp only [execReplayEnd]
  split <;> simp [ok]

theorem execRevert_staysInTile : StaysInTile (execRevert s) := by
  simp only [execRevert]
  split <;> simp [ok]

theorem execCrc32_staysInTile : StaysInTile (execCrc32 s) := by
  simp only [execCrc32]
  split <;> simp [ok]

theorem execTrustOperationDone_staysInTile : StaysInTile (execTrustOperationDone s) := by
  simp only [execTrustOperationDone]
  split <;> simp [ok]

theorem execReclaimComplete_staysInTile (k : Nat) : StaysInTile (execReclaimComplete k s) := by
  simp only [execReclaimComplete]
  split <;> simp [ok]

theorem execSwapComplete_staysInTile (core : Nat) : StaysInTile (execSwapComplete core s) := by
  simp only [execSwapComplete]
  (repeat' split) <;> simp [ok]

theorem execSiteCounterTick_staysInTile (site : Nat) : StaysInTile (execSiteCounterTick site s) := by
  simp only [execSiteCounterTick]
  (repeat' split) <;> simp [ok]

theorem execEngineLineMove_staysInTile (core i : Nat) : StaysInTile (execEngineLineMove core i s) := by
  simp only [execEngineLineMove]
  (repeat' split) <;> simp [ok]

theorem execMatrixOperationComplete_staysInTile (core : Nat) : StaysInTile (execMatrixOperationComplete core s) := by
  simp only [execMatrixOperationComplete]
  (repeat' split) <;> simp [ok]

theorem execRouterFlitForward_staysInTile (n : Nat) : StaysInTile (execRouterFlitForward n s) := by
  simp only [execRouterFlitForward]
  (repeat' split) <;> simp [ok]

theorem execResendDelayExpiry_staysInTile (tile i : Nat) : StaysInTile (execResendDelayExpiry tile i s) := by
  simp only [execResendDelayExpiry]
  (repeat' split) <;> simp [ok]

theorem execRebindChangeResend_staysInTile (tile i : Nat) : StaysInTile (execRebindChangeResend tile i s) := by
  simp only [execRebindChangeResend]
  (repeat' split) <;> simp [ok]

theorem execRetransmitTimeout_staysInTile (tile i : Nat) : StaysInTile (execRetransmitTimeout tile i s) := by
  simp only [execRetransmitTimeout]
  (repeat' split) <;> simp [ok]

theorem execBelayCut_staysInTile (crew : Nat) : StaysInTile (execBelayCut crew s) := by
  simp only [execBelayCut]
  (repeat' split) <;> simp [ok]

theorem execCutApply_staysInTile (tile : Nat) : StaysInTile (execCutApply tile s) := by
  simp only [execCutApply]
  (repeat' split) <;> simp [ok]

theorem execWatchdogFire_staysInTile (tile : Nat) : StaysInTile (execWatchdogFire tile s) := by
  simp only [execWatchdogFire]
  (repeat' split) <;> simp [ok]

theorem execSplice_staysInTile (site : Nat) : StaysInTile (execSplice site s) := by
  simp only [execSplice]
  (repeat' split) <;> simp [ok]

theorem execAdoption_staysInTile (tile : Nat) : StaysInTile (execAdoption tile s) := by
  simp only [execAdoption]
  (repeat' split) <;> simp [ok]

theorem execSelfTestStart_staysInTile (site : Nat) : StaysInTile (execSelfTestStart site s) := by
  simp only [execSelfTestStart]
  (repeat' split) <;> simp [ok]

theorem execSelfTestComplete_staysInTile (site : Nat) (outcome : TestOutcome) :
    StaysInTile (execSelfTestComplete site outcome s) := by
  simp only [execSelfTestComplete]
  (repeat' split) <;> simp [ok]

theorem execVerify_staysInTile : StaysInTile (execVerify s) := by
  simp only [execVerify]
  (repeat' split) <;> simp [ok]

theorem execMeasure_staysInTile : StaysInTile (execMeasure s) := by
  simp only [execMeasure]
  (repeat' split) <;> simp [ok]

theorem execCommit_staysInTile : StaysInTile (execCommit s) := by
  simp only [execCommit]
  (repeat' split) <;> simp [ok]

theorem execGiveComplete_staysInTile (k : Nat) : StaysInTile (execGiveComplete k s) := by
  simp only [execGiveComplete]
  (repeat' split) <;> simp [ok]

theorem execUntimedCommandStart_staysInTile (core : Nat) : StaysInTile (execUntimedCommandStart core s) := by
  simp only [execUntimedCommandStart]
  refine StaysInTile.ite ok ?_
  split
  · exact ok
  · split
    · exact ok
    · next h => simp [ok.of_eq (State.replayStart_thread _ _ _ h)]

theorem execEngineOperationStart_staysInTile (core : Nat) : StaysInTile (execEngineOperationStart core s) := by
  simp only [execEngineOperationStart]
  split
  · refine StaysInTile.ite ok ?_
    split
    · exact ok
    · next h => simp [ok.of_eq (State.replayStart_thread _ _ _ h)]
  · exact ok

theorem execEccScrub_staysInTile (site bank line : Nat) (found : EccFound) : StaysInTile (execEccScrub site bank line found s) := by
  simp only [execEccScrub]
  split
  · simp [ok]
  · split
    · next h => simp [State.useBankAs_inTile ok h]
    · exact ok

theorem execTaskDispatch_staysInTile (part : Nat) : StaysInTile (execTaskDispatch part s) := by
  simp only [execTaskDispatch]
  refine StaysInTile.ite ok ?_
  have sent (q e) := ok.of_eq (s.dispatchFrom_thread part q e)
  split
  · next h => simp [(sent ..).snd h]
  · next h => exact (sent ..).snd h

theorem execHeldBlockPost_staysInTile (part : Nat) : StaysInTile (execHeldBlockPost part s) := by
  simp only [execHeldBlockPost]
  split
  · exact StaysInTile.ite ok (by simp [ok])
  · split
    · simp [ok]
    · next a _ _ _ _ =>
      have read := ok.of_eq (s.readAny_thread (s.partField part) part a 256)
      split
      · next h => simp [read.snd h]
      · next h => exact StaysInTile.ite (by simp [read.snd h]) (by simp [read.snd h])

end

/-- The effect of a member of a group; events are no members. -/
@[simp] theorem runMember_staysInTile {s : State} (i : Instr) (ok : InTile s.thread) : StaysInTile (runMember i s) := by
  cases i
  case add | addi | sub | mul | mulImm | mulh | mulhn | and | andImm | or | orImm | xor | xorImm | andn | andnImm | shl | shlImm |
    shr | shrImm | sar | sarImm | rol | rolImm | min | minImm | max | maxImm | minn | minnImm | maxn | maxnImm | sel | mov |
    movi | movh | clz | ctz | popc | bfx | bfi | sext | zext | divstep | bmapRead | lncfg | tget | chanQch | chanQib | segldRd =>
    simp only [runMember]
    exact setX_staysInTile ok ..
  case cmp | cmpImm | pset | pand | por | pxor | pnot =>
    simp only [runMember]
    exact setP_staysInTile ok ..
  case mand | mor | mnot =>
    simp only [runMember]
    exact setM_staysInTile ok ..
  case vabs | vneg | vclz | vpopc | vrcp | vrsq | vexp2 | vlog2 =>
    simp only [runMember]
    exact vec1_staysInTile ok ..
  case vadd | vsub | vmul | vmin | vmax | vmulh | vavg | vshl | vshr | vsar | vand | vor | vxor | vrng =>
    simp only [runMember]
    exact vec2_staysInTile ok ..
  case vfma | vfms =>
    simp only [runMember]
    exact vec3_staysInTile ok ..
  case vred | vcvt | vunpk =>
    simp only [runMember]
    exact runThread_staysInTile ok <| State.readV_bind_inTile ok _ fun _ hp => by simp [hp]
  case vcmp | vsel | vshuf | vdot | vsrnd =>
    simp only [runMember]
    exact runThread_staysInTile ok <| State.readV_bind_inTile ok _ fun _ hp => State.readV_bind_inTile hp _ fun _ hq => by simp [hq]
  case vperm | vstep =>
    simp only [runMember]
    exact runThread_staysInTile ok <| State.readV_bind_inTile ok _ fun _ hp => State.readV_bind_inTile hp _ fun _ hq =>
      State.readV_bind_inTile hq _ fun _ hr => by simp [hr]
  case lea | vbcast | vbcastImm | st | sts | stmask | stmaskP | sig | watch | unwatch | unwatchAll | give | giveNb | reclaim |
    reclaimNb | bmapSwap | bmapBank | phaseT | relq | nop | brk | mzero | mldc | mstc | lncfgSet | copy | gath | scat | publ |
    barw | barwNf | send | sendSig | sends | ibpop | ibpopNw | hop | chanOpen | chanIbx | reap | reapNb | sleep | wakeAll |
    knotSet | knotAdd | knotHold | knotRd | knotWait | launch | launchNb | taskend | vstage | vpub | vdiscard | vretire | vadopt |
    vqry | vqrySet | sample | trap =>
    simp only [runMember]
    exact runThread_staysInTile ok (by simp [ok])
  case mfs | mts | rtwrRb | rtwrDt | rtwrSr | eretKill | resume | swpo | swpoFar | swpi | swpiQ | swpiFar | stopCrew | stopPart |
    stopGo | rdrec | twin | twinNw | segst | blayDeep =>
    simp only [runMember]
    exact runPriv_staysInTile ok (by simp [ok])
  case br | bra | brx | call | callR | ret =>
    simp only [runMember]
    exact runTransfer_staysInTile ok ..
  case tseq | tseqAdd | tseqBar =>
    simp only [runMember]
    exact tseqWith_staysInTile ok ..
  case vpack => exact execVpack_staysInTile (ok := ok) ..
  case vscale => exact execVscale_staysInTile (ok := ok) ..
  case ld => exact execLd_staysInTile (ok := ok) ..
  case ldv => exact execLdv_staysInTile (ok := ok) ..
  case stv => exact execStv_staysInTile (ok := ok) ..
  case ldg => exact execLdg_staysInTile (ok := ok) ..
  case ldgV => exact execLdgV_staysInTile (ok := ok) ..
  case stsV => exact execStsV_staysInTile (ok := ok) ..
  case bmapSet => exact execBmapSet_staysInTile (ok := ok) ..
  case drain => exact execDrain_staysInTile (ok := ok) ..
  case drainBank => exact execDrainBank_staysInTile (ok := ok) ..
  case phase => exact execPhase_staysInTile (ok := ok) ..
  case fence => exact execFence_staysInTile (ok := ok) ..
  case amo => exact execAmo_staysInTile (ok := ok) ..
  case red => exact execRed_staysInTile (ok := ok) ..
  case lrw => exact execLrw_staysInTile (ok := ok) ..
  case sch => exact execSch_staysInTile (ok := ok) ..
  case mma => exact execMma_staysInTile (ok := ok) ..
  case mmat => exact execMmat_staysInTile (ok := ok) ..
  case lnpush => exact execLnpush_staysInTile (ok := ok) ..
  case lnpushT => exact execLnpushT_staysInTile (ok := ok) ..
  case tdef => exact execTdef_staysInTile (ok := ok) ..
  case bari => exact execBari_staysInTile (ok := ok) ..
  case barq => exact execBarq_staysInTile (ok := ok) ..
  case mcast => exact execMcast_staysInTile (ok := ok) ..
  case ibpopFree => exact execIbpopFree_staysInTile (ok := ok) ..
  case spawn => exact execSpawn_staysInTile (ok := ok) ..
  case reapKill => exact execReapKill_staysInTile (ok := ok) ..
  case yield => exact execYield_staysInTile (ok := ok) ..
  case wake => exact execWake_staysInTile (ok := ok) ..
  case rfork => exact execRfork_staysInTile (ok := ok) ..
  case join => exact execJoin_staysInTile (ok := ok) ..
  case eret => exact execEret_staysInTile (ok := ok) ..
  case segld => exact execSegld_staysInTile (ok := ok) ..
  case blay => exact execBlay_staysInTile (ok := ok) ..
  case blayW => exact execBlayW_staysInTile (ok := ok) ..
  case blq => exact execBlq_staysInTile (ok := ok) ..
  all_goals exact ok

section
variable {s : State}

@[simp] theorem State.answered_inTile {a : Ans} (ok : InTile s.thread) (ha : StaysInTile a) : InTile (s.answered a).thread := by
  cases a with
  | next t => exact ha
  | _ => exact ok

theorem State.runFirst_inTile {found : State} (i : Instr) (okf : InTile found.thread) (ok : InTile s.thread) :
    InTile (found.answered (runMember i s)).thread := State.answered_inTile okf (runMember_staysInTile i ok)

@[simp] theorem State.runSecond_inTile (found : State) (i : Instr) (ok : InTile s.thread) :
    InTile (State.runSecond found s i).thread :=
  State.answered_inTile ok (runMember_staysInTile i ok)

theorem State.runGroup_inTile (g : Group) (ok : InTile s.thread) : InTile (s.runGroup g).thread := by
  have one := State.runFirst_inTile g.first ok ok
  simp only [State.runGroup]
  (repeat' split) <;> try simp [ok, one]
  exact State.runFirst_inTile g.first (State.runSecond_inTile s _ ok) (State.runSecond_inTile s _ ok)

theorem State.endGroup_inTile {t : State} (g : Group) (ok : InTile s.thread) (okt : InTile t.thread) :
    InTile (s.endGroup t g).thread := by
  simp only [State.endGroup]
  (repeat' split) <;> simp [ok, okt]

theorem State.runFetched_inTile (k : Nat) (g : Group) (ok : InTile s.thread) : InTile (s.runFetched k g).thread := by
  have sized : InTile ({ s with cur := { s.cur with size := if g.second.isSome then 2 else 1 } } : State).thread := ok
  simp only [State.runFetched]
  refine State.ite_inTile ?_ (State.ite_inTile ?_ ?_)
  · simp [ok]
  · simp [ok]
  · have ran := State.runGroup_inTile g sized
    split
    · exact State.endGroup_inTile g sized ran
    · exact State.endGroup_inTile g sized ran
    · simpa using ran
    · exact ran

/-- A stop of a member is its own, or comes later. -/
theorem memberStop_stays {α β : Type} {x : Except Stop α} {f : α → Except (Bool × Stop) β} {which memb : Bool} {e : Stop}
    (hx : LeavesInTile (fun _ => True) x) (h : (x.mapError (fun e => (which, e)) >>= f) = .error (memb, e)) :
    e.Stays ∨ ∃ a, f a = .error (memb, e) := by
  cases x with
  | ok a => exact .inr ⟨a, h⟩
  | error e' =>
    cases h
    exact .inl hx

theorem State.groupOf_stays (ok : InTile s.thread) {k : Nat} {l : FLine} {memb : Bool} {e : Stop}
    (h : s.groupOf k l = .error (memb, e)) : e.Stays := by
  have line (a) := State.needLine_leavesInTile ok k a
  have legal (n w) : LeavesInTile (fun _ => True) (State.legal n w) := (State.legal_leavesInTile ..).mpr fun _ _ => trivial
  simp only [State.groupOf] at h
  obtain h | ⟨_, h⟩ := memberStop_stays (line _) h
  · exact h
  obtain h | ⟨_, h⟩ := memberStop_stays (line _) h
  · exact h
  obtain h | ⟨_, h⟩ := memberStop_stays (legal ..) h
  · exact h
  split at h
  · obtain h | ⟨_, h⟩ := memberStop_stays ((leavesInTile_map ..).mpr (legal ..)) h
    · exact h
    · cases h
  · cases h

/-- The thread that a turn of a core issues is one of its tile (R334). -/
theorem inTile_of_core {core : Nat} (hcore : core < 4 * 2 ^ 16) (k : Nat) : InTile (tileOfCore core, core % 4, k % 64) :=
  ⟨Nat.div_lt_of_lt_mul hcore, Nat.mod_lt _ (by decide), Nat.mod_lt _ (by decide)⟩

theorem State.issueGroup_inTile {core : Nat} (hcore : core < 4 * 2 ^ 16) (slot k : Nat) : InTile (s.issueGroup core slot k).thread := by
  have placed : InTile ({ s with cur := { tile := tileOfCore core, core := core % 4, slot, num := k % 64, addr := (s.ctx k).s.pc } } :
      State).thread := inTile_of_core hcore k
  simp only [State.issueGroup]
  split
  · next e h =>
    have fetched := State.pcLine_leavesInTile placed k
    rw [h] at fetched
    exact State.stopGroup_inTile placed fetched
  · next l h =>
    have begun := placed.of_eq (State.formNpc_thread _ k l)
    have formed := State.formNnpc_leavesInTile begun k
    split
    · next h =>
      rw [h] at formed
      exact State.stopGroup_inTile begun formed
    · next h =>
      rw [h] at formed
      split
      · next h => exact State.stopGroup_inTile formed (State.groupOf_stays formed h)
      · exact State.runFetched_inTile _ _ formed

theorem State.raisePending_inTile {core : Nat} (hcore : core < 4 * 2 ^ 16) (slot k : Nat) (cause : BitVec 8) (a : Word) (asyn : Bool) :
    InTile (s.raisePending core slot k cause a asyn).thread := by
  simp only [State.raisePending, State.takeTrap_thread, State.modCtx_thread]
  exact inTile_of_core hcore k

theorem execIssueTurn_staysInTile {core : Nat} (ok : InTile s.thread) (hcore : core < 4 * 2 ^ 16) : StaysInTile (execIssueTurn core s) := by
  simp only [execIssueTurn]
  refine StaysInTile.ite ok ?_
  split
  · simpa using ok
  · refine StaysInTile.ite (by simpa using ok) (StaysInTile.ite (by simpa using ok) ?_)
    simp only [staysInTile_next, State.settle_thread, State.thread_with, State.thread_fold]
    split
    · exact State.ite_inTile (State.raisePending_inTile hcore ..) (State.issueGroup_inTile hcore ..)
    · exact State.issueGroup_inTile hcore ..

end

/-- Every instruction and every well-formed event leaves a thread of a tile in issue. -/
theorem exec_staysInTile {s : State} (i : Instr) (hwf : i.wf = true) (ok : InTile s.thread) : StaysInTile (exec i s) := by
  by_cases hi : i.raw.isSome = true
  · rw [exec_eq_runMember hi]
    exact runMember_staysInTile i ok
  cases i
  case issueTurn => exact execIssueTurn_staysInTile ok (Nat.lt_trans (of_decide_eq_true hwf) (by decide))
  case lineFetch => exact execLineFetch_staysInTile (ok := ok) ..
  case schedulerDecision => exact execSchedulerDecision_staysInTile (ok := ok) ..
  case swapComplete => exact execSwapComplete_staysInTile (ok := ok) ..
  case trapRecordArrival => exact execTrapRecordArrival_staysInTile (ok := ok) ..
  case vccTick => exact execVccTick_staysInTile (ok := ok) ..
  case siteCounterTick => exact execSiteCounterTick_staysInTile (ok := ok) ..
  case sleepDeadline => exact execSleepDeadline_staysInTile (ok := ok) ..
  case timedCommandStart => exact execTimedCommandStart_staysInTile (ok := ok) ..
  case untimedCommandStart => exact execUntimedCommandStart_staysInTile (ok := ok) ..
  case engineLineMove => exact execEngineLineMove_staysInTile (ok := ok) ..
  case barrierArrival => exact execBarrierArrival_staysInTile (ok := ok) ..
  case engineOperationStart => exact execEngineOperationStart_staysInTile (ok := ok) ..
  case matrixLineFetch => exact execMatrixLineFetch_staysInTile (ok := ok) ..
  case matrixOperationComplete => exact execMatrixOperationComplete_staysInTile (ok := ok) ..
  case linkWordArrival => exact execLinkWordArrival_staysInTile (ok := ok) ..
  case vaultRequestArrival => exact execVaultRequestArrival_staysInTile (ok := ok) ..
  case vaultReplyArrival => exact execVaultReplyArrival_staysInTile (ok := ok) ..
  case immediateWriteLanding => exact execImmediateWriteLanding_staysInTile (ok := ok) ..
  case reservationGrant => exact execReservationGrant_staysInTile (ok := ok) ..
  case eccScrub => exact execEccScrub_staysInTile (ok := ok) ..
  case phaseClose => exact execPhaseClose_staysInTile (ok := ok) ..
  case phaseLineApply => exact execPhaseLineApply_staysInTile (ok := ok) ..
  case farRequestTranslate => exact execFarRequestTranslate_staysInTile (ok := ok) ..
  case pageWalkComplete => exact execPageWalkComplete_staysInTile (ok := ok) ..
  case homeWrite => exact execHomeWrite_staysInTile (ok := ok) ..
  case homeWriteRetry => exact execHomeWriteRetry_staysInTile (ok := ok) ..
  case homePubl => exact execHomePubl_staysInTile (ok := ok) ..
  case homeRead => exact execHomeRead_staysInTile (ok := ok) ..
  case farAtomicAtHome => exact execFarAtomicAtHome_staysInTile (ok := ok) ..
  case farReplyArrival => exact execFarReplyArrival_staysInTile (ok := ok) ..
  case farMediaError => exact execFarMediaError_staysInTile (ok := ok) ..
  case commitNoticeAtHome => exact execCommitNoticeAtHome_staysInTile (ok := ok) ..
  case routerFlitForward => exact execRouterFlitForward_staysInTile (ok := ok) ..
  case meshLinkDown => exact execMeshLinkDown_staysInTile (ok := ok) ..
  case staticRouteFlitLanding => exact execStaticRouteFlitLanding_staysInTile (ok := ok) ..
  case messageReceive => exact execMessageReceive_staysInTile (ok := ok) ..
  case ackReceive => exact execAckReceive_staysInTile (ok := ok) ..
  case nackFullReceive => exact execNackFullReceive_staysInTile (ok := ok) ..
  case nackOrderReceive => exact execNackOrderReceive_staysInTile (ok := ok) ..
  case nackFencedReceive => exact execNackFencedReceive_staysInTile (ok := ok) ..
  case nackReplayReceive => exact execNackReplayReceive_staysInTile (ok := ok) ..
  case resendDelayExpiry => exact execResendDelayExpiry_staysInTile (ok := ok) ..
  case rebindChangeResend => exact execRebindChangeResend_staysInTile (ok := ok) ..
  case retransmitTimeout => exact execRetransmitTimeout_staysInTile (ok := ok) ..
  case hopArrival => exact execHopArrival_staysInTile (ok := ok) ..
  case hopReply => exact execHopReply_staysInTile (ok := ok) ..
  case mcastReplicaLanding => exact execMcastReplicaLanding_staysInTile (ok := ok) ..
  case rebindFlood => exact execRebindFlood_staysInTile (ok := ok) ..
  case taskDispatch => exact execTaskDispatch_staysInTile (ok := ok) ..
  case imageLoadComplete => exact execImageLoadComplete_staysInTile (ok := ok) ..
  case taskEnd => exact execTaskEnd_staysInTile (ok := ok) ..
  case heldBlockPost => exact execHeldBlockPost_staysInTile (ok := ok) ..
  case belayCut => exact execBelayCut_staysInTile (ok := ok) ..
  case candidateAnswer => exact execCandidateAnswer_staysInTile (ok := ok) ..
  case cutStreamLine => exact execCutStreamLine_staysInTile (ok := ok) ..
  case cutPrepared => exact execCutPrepared_staysInTile (ok := ok) ..
  case commitDecision => exact execCommitDecision_staysInTile (ok := ok) ..
  case cutApply => exact execCutApply_staysInTile (ok := ok) ..
  case watchdogFire => exact execWatchdogFire_staysInTile (ok := ok) ..
  case machineCheck => exact execMachineCheck_staysInTile (ok := ok) ..
  case splice => exact execSplice_staysInTile (ok := ok) ..
  case replayEnd => exact execReplayEnd_staysInTile (ok := ok) ..
  case haltComplete => exact execHaltComplete_staysInTile (ok := ok) ..
  case partitionReconfiguration => exact execPartitionReconfiguration_staysInTile (ok := ok) ..
  case deepBelayImageWritten => exact execDeepBelayImageWritten_staysInTile (ok := ok) ..
  case deepRestore => exact execDeepRestore_staysInTile (ok := ok) ..
  case adoption => exact execAdoption_staysInTile (ok := ok) ..
  case versionHomeRequest => exact execVersionHomeRequest_staysInTile (ok := ok) ..
  case powerGood => exact execPowerGood_staysInTile (ok := ok) ..
  case selfTestStart => exact execSelfTestStart_staysInTile (ok := ok) ..
  case selfTestComplete => exact execSelfTestComplete_staysInTile (ok := ok) ..
  case cxlPortDown => exact execCxlPortDown_staysInTile (ok := ok) ..
  case hostFarRead => exact execHostFarRead_staysInTile (ok := ok) ..
  case hostFarWrite => exact execHostFarWrite_staysInTile (ok := ok) ..
  case verify => exact execVerify_staysInTile (ok := ok) ..
  case measure => exact execMeasure_staysInTile (ok := ok) ..
  case commit => exact execCommit_staysInTile (ok := ok) ..
  case revert => exact execRevert_staysInTile (ok := ok) ..
  case crc32 => exact execCrc32_staysInTile (ok := ok) ..
  case trustOperationDone => exact execTrustOperationDone_staysInTile (ok := ok) ..
  case giveComplete => exact execGiveComplete_staysInTile (ok := ok) ..
  case reclaimComplete => exact execReclaimComplete_staysInTile (ok := ok) ..
  case immediateWriteAcknowledgement => exact execImmediateWriteAcknowledgement_staysInTile (ok := ok) ..
  case trapWindowAccessArrival => exact execTrapWindowAccessArrival_staysInTile (ok := ok) ..
  case logReplicaAcknowledgement => exact execLogReplicaAcknowledgement_staysInTile (ok := ok) ..
  case versionAnswer => exact execVersionAnswer_staysInTile (ok := ok) ..
  case vccOverflow | linkCreditReturn | arrayEccUncorrectable | phaseCloseComplete | parkact | parkingEnd | gwinv | gwinvDone |
    hotnessDecay | launchCut | regularCutDue | residueMismatch | fieldPowerLoss | deviceReset | stageOneEntry | fieldJoin |
    fieldGivenUp | thermalThrottle | thermalShutdown | droopStretch | marginReplan | hbmRepairStart | hbmRepairDone | cxlPortUp |
    folvibelLinkTrain | folvibelLinkDown | hlaunch | hpubn | herrClear | hlresDropClear | functionLevelReset | hirq | devrst |
    quiesce | quiesceDone | quiesceRelease | qbootGo | qbootCancel | hbeatWrite | getVersion | getCapabilities |
    negotiateAlgorithms | getDigests | getCertificate | challenge | getMeasurements | registerWrite =>
    simp [exec, execVccOverflow, execLinkCreditReturn, execArrayEccUncorrectable, execPhaseCloseComplete, execParkact,
      execParkingEnd, execGwinv, execGwinvDone, execHotnessDecay, execLaunchCut, execRegularCutDue, execResidueMismatch,
      execFieldPowerLoss, execDeviceReset, execStageOneEntry, execFieldJoin, execFieldGivenUp, execThermalThrottle,
      execThermalShutdown, execDroopStretch, execMarginReplan, execHbmRepairStart, execHbmRepairDone, execCxlPortUp,
      execFolvibelLinkTrain, execFolvibelLinkDown, execHlaunch, execHpubn, execHerrClear, execHlresDropClear,
      execFunctionLevelReset, execHirq, execDevrst, execQuiesce, execQuiesceDone, execQuiesceRelease, execQbootGo,
      execQbootCancel, execHbeatWrite, execGetVersion, execGetCapabilities, execNegotiateAlgorithms, execGetDigests,
      execGetCertificate, execChallenge, execGetMeasurements, execRegisterWrite, ok]
  all_goals exact absurd rfl hi

/-- The core whose turn it is in a tile is one of its four (R155). -/
theorem State.turnCore_lt {s : State} {t core : Nat} (ht : t < 2 ^ 16) (h : s.turnCore t = some core) : core < 4 * 2 ^ 16 := by
  obtain ⟨i, -, rfl⟩ := List.mem_map.mp (List.mem_of_find?_eq_some h)
  simp only [coreKey]
  omega

theorem coreStep_staysInTile {s : State} (ok : InTile s.thread) : StaysInTile (coreStep s) := by
  simp only [coreStep]
  split
  · next core hturn =>
    split
    · exact execLineFetch_staysInTile _ _ ok
    · exact execIssueTurn_staysInTile ok (State.turnCore_lt ok.1 hturn)
  · have tick := execVccTick_staysInTile ok s.cur.tile
    split
    · next t h =>
      rw [h] at tick
      exact execSiteCounterTick_staysInTile tick _
    · exact tick

theorem step_staysInTile {s : State} (ok : InTile s.thread) : StaysInTile (step s) := by
  simp only [step]
  split
  · exact coreStep_staysInTile ok
  · split
    · next hwf => exact exec_staysInTile _ hwf ok
    · exact ok

/-- Settles O6: the record names a thread of a tile after reset; a step writes it anew only for a turn of a core and for a reset, and
leaves it as it is otherwise. -/
theorem threadInvariant : Obligations.ThreadInvariant := by
  refine ⟨by decide, fun s t ok h => ?_⟩
  have after := step_staysInTile ((State.threadOk_iff s).mp ok)
  rw [show step s = .next t from h] at after
  exact (State.threadOk_iff t).mpr after

end Sys2Proof.Machine
end
